-- ==== Sys2Proof/Word.lean ====
section
/-! DEFINITION. The word types of the Creuk CM9 and the sparse map that holds every indexed piece of its state. -/

namespace Sys2Proof

/-- A register or scratchpad word (00 R10, R17). -/
abbrev Word := BitVec 32
/-- A byte (00 R16). -/
abbrev Byte := BitVec 8
/-- A program memory word (03 R103, 04 R131). -/
abbrev PWord := BitVec 14
/-- The spindle count as a cycle count: 48 bits of revolution and 12 bits of angle (02 R53, R54). -/
abbrev Count := BitVec 60
/-- A logical core number (00 R9, 01 R26). -/
abbrev CoreId := BitVec 12
/-- A thread of a core, th0 to th3 (03 R81). -/
abbrev Thr := BitVec 2
/-- A three-bit register, blank or channel number (04 R135). -/
abbrev Reg := BitVec 3
/-- A job ID (15 R467). -/
abbrev JobId := BitVec 12

/-- A sparse map from keys to values. Its canonical form is `SMap.wf`: keys strictly rising, and no entry
equal to the default of its key. A byte memory is `SMap Byte`, a list of `Host.Cell`. -/
abbrev SMap (α : Type) := List (Nat × α)

/-- The value at key `k`; the default `d k` where the map lists none. -/
def SMap.get {α : Type} (d : Nat → α) : SMap α → Nat → α
  | [], k => d k
  | (a, v) :: m, k => if a = k then v else if k < a then d k else SMap.get d m k

/-- The map with `v` at key `k`, kept canonical: writing the default of the key removes its entry. -/
def SMap.set {α : Type} [DecidableEq α] (d : Nat → α) : SMap α → Nat → α → SMap α
  | [], k, v => if v = d k then [] else [(k, v)]
  | (a, w) :: m, k, v =>
    if k < a then (if v = d k then (a, w) :: m else (k, v) :: (a, w) :: m)
    else if a = k then (if v = d k then m.filter (fun x => k < x.1) else (k, v) :: m)
    else (a, w) :: SMap.set d m k v

/-- The canonical form: keys strictly rising and no entry equal to its default. -/
abbrev SMap.wf {α : Type} (d : Nat → α) (m : SMap α) : Prop :=
  m.Pairwise (fun x y => x.1 < y.1) ∧ ∀ x ∈ m, x.2 ≠ d x.1

/-- Keep the entries whose key satisfies `p`; the others return to their defaults. -/
def SMap.keep {α : Type} (p : Nat → Bool) (m : SMap α) : SMap α := m.filter (fun x => p x.1)

/-- Change the value at key `k` by `f`. -/
def SMap.upd {α : Type} [DecidableEq α] (d : Nat → α) (m : SMap α) (k : Nat) (f : α → α) : SMap α :=
  SMap.set d m k (f (SMap.get d m k))

end Sys2Proof
end

