-- ==== Sys2Proof/Syntax.lean ====
section
/-! DEFINITION. The commands the module takes: one constructor of `Instr` per row of spec/opcode_table.json, with the row's operands. -/

namespace Sys2Proof

/-- The access paths of 00 R11: the Brepo link, the debug port, the sideband and the four headstock cores. -/
inductive Path where
  | brepo
  | debug
  | sideband
  | hs (n : BitVec 2)
  deriving DecidableEq, Repr

/-- What a read of a DRAM burst finds (10 R338): clean, corrected by the code, or uncorrectable. -/
inductive EccFound where
  | clean
  | corrected
  | uncorrectable
  deriving DecidableEq, Repr

/-- What the memory controllers find on the 64 bursts of a line that they move (10 R338, R344): bit i of `ue` marks burst i as uncorrectable
or, of a write, as still in error after its repeats; bit i of `ce` as corrected; `rty` counts the repeats, at most 3 for each burst. -/
structure LpErrs where
  ue  : BitVec 64
  ce  : BitVec 64
  rty : BitVec 8
  deriving DecidableEq, Repr

/-- A line to write back, with the errors found as it is written (10 R344). -/
structure LpWrite where
  line : BitVec 68
  errs : LpErrs
  deriving DecidableEq, Repr

/-- A flit as it comes from a link: its 256 bytes, and the symbols in error of the codeword it begins (12 R390, R391). -/
structure RawFlit where
  errs  : BitVec 10
  bytes : List Byte
  deriving DecidableEq, Repr

/-- The three extension words of TDRAIN, field by field (04 R159). -/
structure DrainOpt where
  ofmt : BitVec 4
  rnd  : BitVec 2
  se   : Bool
  sk   : Bool
  sreg : Reg
  be   : Bool
  bk   : Bool
  breg : Reg
  ce   : Bool
  creg : Reg
  ste  : Bool
  stb  : Reg
  za   : Bool
  deriving DecidableEq, Repr

/-- A marker as it arrives (02 R56, 12 R400), with the OFFSET of its flit and whether the flit's CRC is good. -/
structure Marker where
  hold     : Bool
  hops     : BitVec 4
  masterId : BitVec 16
  rev      : BitVec 48
  offset   : BitVec 16
  crcOk    : Bool
  deriving DecidableEq, Repr

/-- A packet (12 R404, R405). -/
structure Packet where
  dmod  : BitVec 16
  smod  : BitVec 16
  dctx  : BitVec 14
  job   : JobId
  op    : BitVec 4
  seq   : BitVec 24
  epoch : BitVec 8
  hops  : BitVec 4
  aux   : BitVec 64
  addr  : BitVec 64
  data  : List Byte
  deriving DecidableEq, Repr

/-- A firmware image as the loader sees it (16 R491): the header fields, its total length, the verdicts of the
key-hash and signature checks of R492, and the SHA-384 of its signed message. -/
structure FwImage where
  magic     : BitVec 32
  format    : BitVec 16
  svn       : BitVec 8
  keyslot   : BitVec 8
  fwver     : BitVec 32
  plen      : BitVec 32
  entry     : BitVec 32
  statever  : BitVec 16
  statemin  : BitVec 16
  zeros     : Bool
  total     : Nat
  keyHashOk : Bool
  rsaOk     : Bool
  slhOk     : Bool
  digest    : BitVec 384
  deriving DecidableEq, Repr

/-- Where a translation has faulted (11 R380): a DMA channel, a prefetch stream of a region, or a request on a PEER context. -/
inductive FaultPoint where
  | dma (c : CoreId) (ch : Reg)
  | stream (region : BitVec 5) (i : BitVec 4)
  | fabric (ctx : BitVec 14)
  deriving DecidableEq, Repr

/-- The commands, in the order of spec/opcode_table.json. `c` is a logical core, `t` a thread, `p` an access path. -/
inductive Instr where
  /-- ADD (R87): Thread adds ga and gb into gd. -/
  | add (c : CoreId) (t : Thr) (gd ga gb : Reg)
  /-- SUB (R87): Thread subtracts gb from ga into gd. -/
  | sub (c : CoreId) (t : Thr) (gd ga gb : Reg)
  /-- AND (R87): Thread writes the bitwise AND of ga and gb to gd. -/
  | and (c : CoreId) (t : Thr) (gd ga gb : Reg)
  /-- OR (R87): Thread writes the bitwise OR of ga and gb to gd. -/
  | or (c : CoreId) (t : Thr) (gd ga gb : Reg)
  /-- XOR (R87): Thread writes the bitwise XOR of ga and gb to gd. -/
  | xor (c : CoreId) (t : Thr) (gd ga gb : Reg)
  /-- MUL (R87): Thread writes the low 32 bits of the product to gd. -/
  | mul (c : CoreId) (t : Thr) (gd ga gb : Reg)
  /-- SHL (R139): Thread shifts ga left by gb[4:0]. -/
  | shl (c : CoreId) (t : Thr) (gd ga gb : Reg)
  /-- SHR (R139): Thread shifts ga right logically by gb[4:0]. -/
  | shr (c : CoreId) (t : Thr) (gd ga gb : Reg)
  /-- SAR (R139): Thread shifts ga right arithmetically by gb[4:0]. -/
  | sar (c : CoreId) (t : Thr) (gd ga gb : Reg)
  /-- ROT (R139): Thread rotates ga right by gb[4:0]. -/
  | rot (c : CoreId) (t : Thr) (gd ga gb : Reg)
  /-- MIN (R139): Thread writes the signed minimum of ga and gb. -/
  | min (c : CoreId) (t : Thr) (gd ga gb : Reg)
  /-- MAX (R139): Thread writes the signed maximum of ga and gb. -/
  | max (c : CoreId) (t : Thr) (gd ga gb : Reg)
  /-- ADDC (R148): Thread adds with carry, writes gd and sets the flags. -/
  | addc (c : CoreId) (t : Thr) (gd ga gb : Reg)
  /-- SUBC (R148): Thread subtracts with borrow, writes gd and sets the flags. -/
  | subc (c : CoreId) (t : Thr) (gd ga gb : Reg)
  /-- MULH (R87): Thread writes the signed high 32 bits of the product. -/
  | mulh (c : CoreId) (t : Thr) (gd ga gb : Reg)
  /-- MULHU (R87): Thread writes the unsigned high 32 bits of the product. -/
  | mulhu (c : CoreId) (t : Thr) (gd ga gb : Reg)
  /-- DIV (R88): Thread divides signed, with defined results for zero and overflow. -/
  | div (c : CoreId) (t : Thr) (gd ga gb : Reg)
  /-- DIVU (R88): Thread divides unsigned. -/
  | divu (c : CoreId) (t : Thr) (gd ga gb : Reg)
  /-- REM (R88): Thread writes the signed remainder. -/
  | rem (c : CoreId) (t : Thr) (gd ga gb : Reg)
  /-- REMU (R88): Thread writes the unsigned remainder. -/
  | remu (c : CoreId) (t : Thr) (gd ga gb : Reg)
  /-- MOV (R140): Thread copies ga to gd. -/
  | mov (c : CoreId) (t : Thr) (gd ga : Reg)
  /-- NOT (R140): Thread writes the complement of ga to gd. -/
  | not (c : CoreId) (t : Thr) (gd ga : Reg)
  /-- CMP (R140): Thread sets the flags from ga minus gb. -/
  | cmp (c : CoreId) (t : Thr) (ga gb : Reg)
  /-- ADDI (R141): Thread adds a sign-extended 14-bit immediate. -/
  | addi (c : CoreId) (t : Thr) (gd ga : Reg) (imm : BitVec 14)
  /-- CMPI (R141): Thread sets the flags from ga minus an immediate. -/
  | cmpi (c : CoreId) (t : Thr) (ga : Reg) (imm : BitVec 14)
  /-- MOVI (R142): Thread loads a sign-extended 20-bit immediate. -/
  | movi (c : CoreId) (t : Thr) (gd : Reg) (imm : BitVec 20)
  /-- MOVIL (R142): Thread loads a 32-bit immediate. -/
  | movil (c : CoreId) (t : Thr) (gd : Reg) (imm : BitVec 32)
  /-- LDW (R92): Thread loads a scratchpad word, waiting on an invalid guarded line. -/
  | ldw (c : CoreId) (t : Thr) (gd ga : Reg) (off : Option (BitVec 14))
  /-- LDH (R92): Thread loads a sign-extended half-word. -/
  | ldh (c : CoreId) (t : Thr) (gd ga : Reg) (off : Option (BitVec 14))
  /-- LDHU (R92): Thread loads a zero-extended half-word. -/
  | ldhu (c : CoreId) (t : Thr) (gd ga : Reg) (off : Option (BitVec 14))
  /-- LDB (R92): Thread loads a sign-extended byte. -/
  | ldb (c : CoreId) (t : Thr) (gd ga : Reg) (off : Option (BitVec 14))
  /-- LDBU (R92): Thread loads a zero-extended byte. -/
  | ldbu (c : CoreId) (t : Thr) (gd ga : Reg) (off : Option (BitVec 14))
  /-- LDS (R95): Thread loads the data-stack word at DSP plus an offset. -/
  | lds (c : CoreId) (t : Thr) (gd : Reg) (off : BitVec 14)
  /-- STW (R92): Thread stores a word to the scratchpad. -/
  | stw (c : CoreId) (t : Thr) (gs ga : Reg) (off : Option (BitVec 14))
  /-- STH (R92): Thread stores a half-word. -/
  | sth (c : CoreId) (t : Thr) (gs ga : Reg) (off : Option (BitVec 14))
  /-- STB (R92): Thread stores a byte. -/
  | stb (c : CoreId) (t : Thr) (gs ga : Reg) (off : Option (BitVec 14))
  /-- STS (R95): Thread stores to the data-stack word at DSP plus an offset. -/
  | sts (c : CoreId) (t : Thr) (gs : Reg) (off : BitVec 14)
  /-- NOP (R146): Thread occupies its slot with no effect. -/
  | nop (c : CoreId) (t : Thr)
  /-- PUSH (R95): Thread pushes gs onto its data stack. -/
  | push (c : CoreId) (t : Thr) (gs : Reg)
  /-- POP (R95): Thread pops its data stack into gd. -/
  | pop (c : CoreId) (t : Thr) (gd : Reg)
  /-- JR (R146): Thread jumps to the address in a register. -/
  | jr (c : CoreId) (t : Thr) (r : Reg)
  /-- CALLR (R96): Thread pushes the return address and jumps to a register target. -/
  | callr (c : CoreId) (t : Thr) (r : Reg)
  /-- RET (R96): Thread pops the return stack and branches to it. -/
  | ret (c : CoreId) (t : Thr)
  /-- RTE (R125): Thread clears IT and returns to EPC, resuming any held TMMA. -/
  | rte (c : CoreId) (t : Thr)
  /-- HALT (R120): Thread enters HALTED. -/
  | halt (c : CoreId) (t : Thr)
  /-- RDCYC (R87): Thread reads the 60-bit cycle counter into gd and gd+1. -/
  | rdcyc (c : CoreId) (t : Thr) (gd : Reg)
  /-- MFS (R87): Thread reads its status word. -/
  | mfs (c : CoreId) (t : Thr) (gd : Reg)
  /-- MTS (R87): Thread writes the writable fields of its status word. -/
  | mts (c : CoreId) (t : Thr) (gs : Reg)
  /-- SETTC (R110): Thread arms its timer compare. -/
  | settc (c : CoreId) (t : Thr) (gs : Reg)
  /-- CLRTC (R110): Thread clears TA and TF. -/
  | clrtc (c : CoreId) (t : Thr)
  /-- WAITT (R560): Thread waits on its timer according to TA and TF. -/
  | waitt (c : CoreId) (t : Thr)
  /-- RDFS (R129): Thread pops the oldest fault-source queue entry. -/
  | rdfs (c : CoreId) (t : Thr) (gd : Reg)
  /-- CONSUME (R253): Thread clears a valid guarded line and returns 64 bytes of credit. -/
  | consume (c : CoreId) (t : Thr) (r : Reg)
  /-- LBRK (R101): Thread deactivates loop levels lv to 3. -/
  | lbrk (c : CoreId) (t : Thr) (lv : BitVec 2)
  /-- THRST (R120): Thread resets a sibling thread. -/
  | thrst (c : CoreId) (t k : Thr)
  /-- THSTART (R120): Thread starts an idle or halted sibling at an address. -/
  | thstart (c : CoreId) (t k : Thr) (r : Reg)
  /-- SETCC (R87): Thread writes 1 or 0 to gd by a condition code. -/
  | setcc (c : CoreId) (t : Thr) (gd : Reg) (cc : BitVec 4)
  /-- BR (R147): Thread branches relative, always. -/
  | br (c : CoreId) (t : Thr) (t15 : BitVec 15)
  /-- JMP (R147): Thread branches to an absolute target. -/
  | jmp (c : CoreId) (t : Thr) (t15 : BitVec 15)
  /-- BCC (R147): Thread branches when a condition holds. -/
  | bcc (c : CoreId) (t : Thr) (cc : BitVec 4) (a : Bool) (t15 : BitVec 15)
  /-- CALL (R147): Thread pushes the return address and branches. -/
  | call (c : CoreId) (t : Thr) (a : Bool) (t15 : BitVec 15)
  /-- LOOP (R98): Thread starts a hardware loop level. -/
  | loop (c : CoreId) (t : Thr) (lv : BitVec 2) (gs : Reg) (e : BitVec 15)
  /-- LOCK (R116): Thread acquires a lock or waits for it. -/
  | lock (c : CoreId) (t : Thr) (gd : Reg) (n : BitVec 4)
  /-- TRYLOCK (R116): Thread tries to acquire a lock without waiting. -/
  | trylock (c : CoreId) (t : Thr) (gd : Reg) (n : BitVec 4)
  /-- UNLOCK (R117): Owner releases a lock or hands it to the earliest waiter. -/
  | unlock (c : CoreId) (t : Thr) (n : BitVec 4)
  /-- LRST (R116): Thread makes an abandoned lock free. -/
  | lrst (c : CoreId) (t : Thr) (n : BitVec 4)
  /-- MFT (R151): Thread reads a trap or loop register. -/
  | mft (c : CoreId) (t : Thr) (gd : Reg) (idx : BitVec 4)
  /-- MTT (R151): Thread writes a trap or loop register. -/
  | mtt (c : CoreId) (t : Thr) (gs : Reg) (idx : BitVec 4)
  /-- TRAP (R152): Thread raises SOFT with an immediate. -/
  | trap (c : CoreId) (t : Thr) (imm : BitVec 9)
  /-- RESERVED_ENCODING (R137): Issue of a reserved encoding faults with ILLEGAL. -/
  | reservedEncoding (c : CoreId) (t : Thr) (head : PWord) (ext : List PWord)
  /-- FAULT_REPORT (R129): A stopped thread's core number reaches the supervisor's fault-source queue. -/
  | faultReport (src : CoreId)
  /-- VADD (R190): Vector lane-wise add. -/
  | vadd (c : CoreId) (t : Thr) (fmt : BitVec 3) (vd va vb : Reg)
  /-- VSUB (R190): Vector lane-wise subtract. -/
  | vsub (c : CoreId) (t : Thr) (fmt : BitVec 3) (vd va vb : Reg)
  /-- VMUL (R190): Vector lane-wise multiply. -/
  | vmul (c : CoreId) (t : Thr) (fmt : BitVec 3) (vd va vb : Reg)
  /-- VFMA (R190): Vector fused multiply-add. -/
  | vfma (c : CoreId) (t : Thr) (fmt : BitVec 3) (vd va vb vc : Reg)
  /-- VMIN (R190): Vector lane-wise minimum. -/
  | vmin (c : CoreId) (t : Thr) (fmt : BitVec 3) (vd va vb : Reg)
  /-- VMAX (R190): Vector lane-wise maximum. -/
  | vmax (c : CoreId) (t : Thr) (fmt : BitVec 3) (vd va vb : Reg)
  /-- VABS (R190): Vector lane-wise absolute value. -/
  | vabs (c : CoreId) (t : Thr) (fmt : BitVec 3) (vd va : Reg)
  /-- VNEG (R190): Vector lane-wise negation. -/
  | vneg (c : CoreId) (t : Thr) (fmt : BitVec 3) (vd va : Reg)
  /-- VDIV (R190): Vector correctly rounded divide. -/
  | vdiv (c : CoreId) (t : Thr) (fmt : BitVec 3) (vd va vb : Reg)
  /-- VSQRT (R190): Vector correctly rounded square root. -/
  | vsqrt (c : CoreId) (t : Thr) (fmt : BitVec 3) (vd va : Reg)
  /-- VCMPEQ (R191): Vector equality compare to a lane mask. -/
  | vcmpeq (c : CoreId) (t : Thr) (fmt : BitVec 3) (vd va vb : Reg)
  /-- VCMPLT (R191): Vector less-than compare to a lane mask. -/
  | vcmplt (c : CoreId) (t : Thr) (fmt : BitVec 3) (vd va vb : Reg)
  /-- VCMPLE (R191): Vector less-or-equal compare to a lane mask. -/
  | vcmple (c : CoreId) (t : Thr) (fmt : BitVec 3) (vd va vb : Reg)
  /-- VSEL (R191): Vector lane select by a mask register. -/
  | vsel (c : CoreId) (t : Thr) (fmt : BitVec 3) (vd va vb vc : Reg)
  /-- VAND (R190): Vector bitwise AND. -/
  | vand (c : CoreId) (t : Thr) (fmt : BitVec 3) (vd va vb : Reg)
  /-- VOR (R190): Vector bitwise OR. -/
  | vor (c : CoreId) (t : Thr) (fmt : BitVec 3) (vd va vb : Reg)
  /-- VXOR (R190): Vector bitwise XOR. -/
  | vxor (c : CoreId) (t : Thr) (fmt : BitVec 3) (vd va vb : Reg)
  /-- VSHL (R190): Vector lane-wise shift left. -/
  | vshl (c : CoreId) (t : Thr) (fmt : BitVec 3) (vd va vb : Reg)
  /-- VSHR (R190): Vector lane-wise logical shift right. -/
  | vshr (c : CoreId) (t : Thr) (fmt : BitVec 3) (vd va vb : Reg)
  /-- VSAR (R190): Vector lane-wise arithmetic shift right. -/
  | vsar (c : CoreId) (t : Thr) (fmt : BitVec 3) (vd va vb : Reg)
  /-- VCVT (R191): Vector format conversion. -/
  | vcvt (c : CoreId) (t : Thr) (fmt dst : BitVec 3) (rnd : BitVec 2) (vd va : Reg)
  /-- VRSUM (R192): Vector pairwise-tree sum into lane 0. -/
  | vrsum (c : CoreId) (t : Thr) (fmt : BitVec 3) (vd va : Reg)
  /-- VRMAX (R192): Vector pairwise-tree maximum into lane 0. -/
  | vrmax (c : CoreId) (t : Thr) (fmt : BitVec 3) (vd va : Reg)
  /-- VBCAST (R191): Broadcast a scalar to every lane. -/
  | vbcast (c : CoreId) (t : Thr) (fmt : BitVec 3) (vd ga : Reg)
  /-- VEXT (R191): Extract a lane to a scalar register. -/
  | vext (c : CoreId) (t : Thr) (fmt : BitVec 3) (gd va gb : Reg)
  /-- VINS (R191): Insert a scalar into a lane. -/
  | vins (c : CoreId) (t : Thr) (fmt : BitVec 3) (vd ga gb : Reg)
  /-- VSEED (R178): Set the thread's stochastic rounding key and counter. -/
  | vseed (c : CoreId) (t : Thr) (ga gb : Reg)
  /-- VLD (R155): Load 16 scratchpad words into a vector register. -/
  | vld (c : CoreId) (t : Thr) (vd ga : Reg) (off : BitVec 14)
  /-- VST (R155): Store a vector register to 16 scratchpad words. -/
  | vst (c : CoreId) (t : Thr) (vs ga : Reg) (off : BitVec 14)
  /-- VLDBC (R155): Load one word and replicate it to all lanes. -/
  | vldbc (c : CoreId) (t : Thr) (vd ga : Reg) (off : BitVec 14)
  /-- TCFG (R200): Configure a blank and take ownership. -/
  | tcfg (c : CoreId) (t : Thr) (tb : Reg) (fmt : BitVec 4) (rowsM1 bprM1 : BitVec 6) (pm : Bool)
  /-- TLD (R223): Queue a load of a blank from the scratchpad. -/
  | tld (c : CoreId) (t : Thr) (tb ga gs : Reg) (sfmt : BitVec 4) (tr : Bool) (rnd : BitVec 2)
  /-- TDRAIN (R226): Queue a fused drain of a blank to the scratchpad. -/
  | tdrain (c : CoreId) (t : Thr) (tc ga gs : Reg) (opt : DrainOpt)
  /-- TMMA (R204): Queue a matrix multiply-accumulate into tc. -/
  | tmma (c : CoreId) (t : Thr) (tc ta tb : Reg) (q z : Bool)
  /-- TREL (R202): Release a blank to EMPTY. -/
  | trel (c : CoreId) (t : Thr) (tb : Reg)
  /-- TZERO (R202): Zero a blank's data, scales and extension. -/
  | tzero (c : CoreId) (t : Thr) (tb : Reg)
  /-- TFLAGS (R202): Read a blank's sticky flags. -/
  | tflags (c : CoreId) (t : Thr) (gd tb : Reg)
  /-- TCLRF (R202): Clear a blank's sticky flags. -/
  | tclrf (c : CoreId) (t : Thr) (tb : Reg)
  /-- TXCAP (R202): Read and clear TILE_XCAP. -/
  | txcap (c : CoreId) (t : Thr) (gd : Reg)
  /-- TILE_START (R217): A queued tile instruction becomes ready and starts on its engine. -/
  | tileStart (c : CoreId) (q : BitVec 2)
  /-- MATRIX_ROW_STEP (R220): Matrix unit starts a row-step from the primary or fill queue. -/
  | matrixRowStep (c : CoreId)
  /-- TLD_COMPLETE (R217): A tile load completes. -/
  | tldComplete (c : CoreId)
  /-- TMMA_COMPLETE (R217): A matrix instruction completes. -/
  | tmmaComplete (c : CoreId) (fill : Bool)
  /-- TDRAIN_COMPLETE (R231): A drain completes with statistics, zeroing and counter advance. -/
  | tdrainComplete (c : CoreId)
  /-- DMAGO (R260): Read a descriptor and start a DMA channel. -/
  | dmago (c : CoreId) (t : Thr) (ch ga : Reg)
  /-- DMASTAT (R267): Read a channel's status. -/
  | dmastat (c : CoreId) (t : Thr) (gd ch : Reg)
  /-- DMADIS (R268): Disable a DMA channel. -/
  | dmadis (c : CoreId) (t : Thr) (ch : Reg)
  /-- DMA_BURST (R265): At an owned slot the engine starts a burst of the highest-priority eligible channel. -/
  | dmaBurst (c : CoreId) (flow : Option (BitVec 16))
  /-- DMA_CHANNEL_DONE (R266): A channel ends and performs its completion record and flag. -/
  | dmaChannelDone (c : CoreId) (ch : Reg)
  /-- DMA_CHANNEL_RESUME (R269): Headstock resumes a parked channel from its restart record. -/
  | dmaChannelResume (c : CoreId) (ch : Reg)
  /-- DMA_TIMEOUT (R271): A channel timer expires and the channel ends with TIMEOUT. -/
  | dmaTimeout (c : CoreId) (ch : Reg)
  /-- CREDIT_REQUEST (R257): A receiver decides a credit request for a guarded region. -/
  | creditRequest (c : CoreId)
  /-- CREDIT_ANSWER (R257): A channel receives a credit grant or refusal. -/
  | creditAnswer (c : CoreId) (ch : Reg)
  /-- CREDIT_RETRY (R258): A refused channel requests credit again 256 cycles later. -/
  | creditRetry (c : CoreId) (ch : Reg)
  /-- CREDIT_RETURN (R259): A returned grant arrives and is added to the region's counter. -/
  | creditReturn (c : CoreId)
  /-- DATA_UNIT_COMMIT (R277): A DATA unit at output C writes words and sets line valid bits. -/
  | dataUnitCommit (c : CoreId)
  /-- HELD_TRAP_ENTRY (R562): A held OVERRUN LINE trap is entered when the thread leaves FROZEN, DEBUG stop or HALTED. -/
  | heldTrapEntry (c : CoreId) (t : Thr)
  /-- WAITF (R292): Wait until own flag equals a value. -/
  | waitf (c : CoreId) (t : Thr) (gd : Reg) (n : BitVec 6) (p : Bool)
  /-- SETF (R290): Send a flag set to a core. -/
  | setf (c : CoreId) (t : Thr) (gc : Reg) (n : BitVec 6)
  /-- CLRF (R290): Send a flag clear to a core. -/
  | clrf (c : CoreId) (t : Thr) (gc : Reg) (n : BitVec 6)
  /-- TSTF (R290): Read an own flag. -/
  | tstf (c : CoreId) (t : Thr) (gd : Reg) (n : BitVec 6)
  /-- WAITB (R296): Wait for a barrier generation to complete. -/
  | waitb (c : CoreId) (t : Thr) (gd : Reg) (b : BitVec 4)
  /-- ARRB (R295): Arrive at a barrier. -/
  | arrb (c : CoreId) (t : Thr) (b : BitVec 4)
  /-- FLAG_MESSAGE_ARRIVE (R291): A flag set or clear message reaches its core and changes the flag. -/
  | flagMessageArrive (c : CoreId)
  /-- BARRIER_ARRIVAL (R295): An arrival is counted at the supervisor and may complete a generation. -/
  | barrierArrival (c : CoreId)
  /-- BARRIER_NOTICE (R295): A completion notice toggles a core's local phase. -/
  | barrierNotice (c : CoreId)
  /-- THREAD_WAKE (R108): A waiting thread wakes in its wake slot and completes its wait. -/
  | threadWake (c : CoreId) (t : Thr)
  /-- TIMER_FIRE (R110): The thread timer compare matches. -/
  | timerFire (c : CoreId) (t : Thr)
  /-- WATCHDOG (R112): A wait watchdog expires and the thread traps. -/
  | watchdog (c : CoreId) (t : Thr)
  /-- COPEN (R308): Open a send or receive connection. -/
  | copen (c : CoreId) (t : Thr) (gd : Reg) (conn : BitVec 4) (ga : Reg)
  /-- COPEN_COMPLETE (R308): A send COPEN completes on the receiver's binding reply. -/
  | copenComplete (c : CoreId) (t : Thr)
  /-- CCLOSE (R309): Close a connection. -/
  | cclose (c : CoreId) (t : Thr) (conn : BitVec 4)
  /-- MSEND (R311): Send a claim request for a message and wait. -/
  | msend (c : CoreId) (t : Thr) (conn : BitVec 4) (ga gb : Reg) (h : BitVec 8)
  /-- MRECV (R317): Wait for and dispatch the message at the ring head. -/
  | mrecv (c : CoreId) (t : Thr) (gd : Reg) (conn : BitVec 4)
  /-- MDONE (R318): Consume the dispatched message. -/
  | mdone (c : CoreId) (t : Thr) (conn : BitVec 4)
  /-- CLAIM_REQUEST (R312): A receiver grants or refuses a claim on its ring. -/
  | claimRequest (c : CoreId)
  /-- CLAIM_GRANT (R313): A sender receives a claim grant and begins sending. -/
  | claimGrant (c : CoreId) (conn : BitVec 4)
  /-- CLAIM_RETRY (R312): A refused claim is requested again 256 cycles later. -/
  | claimRetry (c : CoreId) (conn : BitVec 4)
  /-- MESSAGE_UNIT_SEND (R313): The engine sends a message, pad or void unit in an owned slot. -/
  | messageUnitSend (c : CoreId) (conn : BitVec 4)
  /-- RING_DISPATCH (R316): The dispatcher acts on a valid head line. -/
  | ringDispatch (c : CoreId) (ring : BitVec 3)
  /-- ABANDON (R321): MESH_MCMD ABANDON abandons a stopped sender's send. -/
  | abandon (p : Path) (c : CoreId) (conn : BitVec 4)
  /-- RELEASE (R322): MESH_MCMD RELEASE wakes an MRECV on a ring with ABANDONED. -/
  | release (p : Path) (c : CoreId) (ring : BitVec 4)
  /-- CONNECTION_RESTORE (R326): A write of MESH_CONN restores a connection and reloads the ring size. -/
  | connectionRestore (p : Path) (c : CoreId) (conn : BitVec 4) (v : Word)
  /-- THREAD_RESET (R120): CORE_CTRL TRST resets a thread. -/
  | threadReset (p : Path) (c : CoreId) (t : Thr)
  /-- THREAD_START (R120): CORE_CTRL START starts a thread at its START address. -/
  | threadStart (p : Path) (c : CoreId) (t : Thr)
  /-- CORE_RESET (R119): CORE_CTRL CRST resets a core. -/
  | coreReset (p : Path) (c : CoreId)
  /-- PM_DATA_ACCESS (R104): CORE_PM_DATA access reads or writes program memory and advances ADDR. -/
  | pmDataAccess (p : Path) (c : CoreId) (wr : Option Word)
  /-- LOCK_WPOS_WRITE (R561): A CORE_LOCK_WPOS write rebuilds every lock's waiter list. -/
  | lockWposWrite (p : Path) (c : CoreId) (v : Word)
  /-- REGISTER_WRITE (R10): A write to a register without behaviour of its own. -/
  | registerWrite (p : Path) (off : BitVec 26) (width : Nat) (v : Word)
  /-- PAIR_LO_READ (R11): A read of a _LO register returns bits 31:0 and loads the read latch. -/
  | pairLoRead (p : Path) (off : BitVec 26)
  /-- PAIR_HI_READ (R11): A read of a _HI register returns the read latch. -/
  | pairHiRead (p : Path) (off : BitVec 26)
  /-- PAIR_HI_WRITE (R11): A write of a _HI register loads the write latch. -/
  | pairHiWrite (p : Path) (off : BitVec 26) (v : Word)
  /-- PAIR_LO_WRITE (R11): A write of a _LO register writes 32 or 64 bits. -/
  | pairLoWrite (p : Path) (off : BitVec 26) (v : Word)
  /-- RC_READ (R13): A read of an RC field returns and clears it. -/
  | rcRead (p : Path) (off : BitVec 26)
  /-- TILE_QUEUE_PUSH (R241): TILE_QSEL PUSH appends the staging image to a tile queue. -/
  | tileQueuePush (p : Path) (c : CoreId) (v : Word)
  /-- TILE_DDATA_ACCESS (R241): TILE_DDATA access reads or writes a blank word and advances the pointer. -/
  | tileDdataAccess (p : Path) (c : CoreId) (wr : Option Word)
  /-- GUARD_WRITE (R250): A DMA_GUARDn write sets a region and clears its valid bits. -/
  | guardWrite (p : Path) (c : CoreId) (n : BitVec 3) (v : Word)
  /-- VDATA_ACCESS (R250): DMA_VDATA access reads or writes 32 valid bits and advances INDEX. -/
  | vdataAccess (p : Path) (c : CoreId) (wr : Option Word)
  /-- PSNDATA_ACCESS (R341): MESH_PSNDATA access reads or writes 32 poison bits and advances INDEX. -/
  | psndataAccess (p : Path) (c : CoreId) (wr : Option Word)
  /-- MESH_PDATA_ACCESS (R284): MESH_PDATA access reads or writes a pattern entry and advances the selection. -/
  | meshPdataAccess (p : Path) (c : CoreId) (wr : Option Word)
  /-- MESH_UNIT_ARRIVE (R279): A unit at a router input is forwarded or discarded by the pattern entries. -/
  | meshUnitArrive (c : CoreId) (port : BitVec 3)
  /-- PATTERN_LOAD (R284): The headstock loads a router's back bank. -/
  | patternLoad (c : CoreId) (logp : BitVec 4) (drain : BitVec 12) (entries : List Word)
  /-- SWITCH_ARM (R563): A MESH_SWITCH write that sets ARM arms a router. -/
  | switchArm (p : Path) (c : CoreId) (rev : BitVec 16)
  /-- SWITCH_WITHDRAW (R563): A MESH_SWITCH write that clears ARM withdraws the switch. -/
  | switchWithdraw (p : Path) (c : CoreId)
  /-- PATTERN_DRAIN_GUARD (R286): From angle 4,096 − G no burst or delivery starts in the bed. -/
  | patternDrainGuard (bed : BitVec 5)
  /-- PATTERN_SWITCH (R285): At angle 0 of N armed routers exchange their banks. -/
  | patternSwitch
  /-- FLAG_SET (R302): A FLAG_SET write sets flags of a core. -/
  | flagSet (p : Path) (c : CoreId) (mask : BitVec 64)
  /-- FLAG_CLR (R302): A FLAG_CLR write clears flags of a core. -/
  | flagClr (p : Path) (c : CoreId) (mask : BitVec 64)
  /-- COMPLETE (R302): FLAG_BARCMD COMPLETE completes a barrier generation. -/
  | complete (p : Path) (c : CoreId) (bar : BitVec 4)
  /-- BARRIER_ABANDON (R302): FLAG_BARCMD ABANDON completes a generation with ABANDONED. -/
  | barrierAbandon (p : Path) (c : CoreId) (bar : BitVec 4)
  /-- BARRIER_RESET (R302): FLAG_BARCMD RESET clears ARR and OVER. -/
  | barrierReset (p : Path) (c : CoreId) (bar : BitVec 4)
  /-- TAP_RD (R331): A tap accepts a read request or discards it. -/
  | tapRd (tap : BitVec 9) (ecc ecc2 : EccFound)
  /-- TAP_WR (R332): A tap accepts a write request, shadowing the old burst if needed. -/
  | tapWr (tap : BitVec 9)
  /-- TAP_DATA (R331): A tap presents read data or an acknowledgement 112 cycles after acceptance. -/
  | tapData (tap : BitVec 9)
  /-- TAP_RETRY (R335): An unanswered read or staged write becomes eligible again 256 cycles after its due cycle. -/
  | tapRetry (c : CoreId) (ch : Reg)
  /-- REFRESH_WINDOW (R336): A refresh or maintenance window runs on every channel. -/
  | refreshWindow (w : BitVec 3)
  /-- PATROL_SCRUB (R337): Window 0 scrubs 16 bursts of a channel. -/
  | patrolScrub (tap : BitVec 9) (found : List EccFound)
  /-- ROW_REMAP (R340): A row is copied to a spare row and redirected. -/
  | rowRemap (tap : BitVec 9) (found : List EccFound)
  /-- RMAP_GO (R340): An MT_RMAP_CMD GO write schedules a row remapping. -/
  | rmapGo (p : Path) (v : Word)
  /-- STAGE_FILL (R348): A stage line fill completes and is written and confirmed. -/
  | stageFill (tap : BitVec 9) (line : BitVec 68) (e : LpErrs)
  /-- STAGE_INVALIDATE (R350): The home stager invalidates other copies of a written line. -/
  | stageInvalidate (tap : BitVec 9) (line : BitVec 68)
  /-- STAGE_WRITEBACK (R349): A DIRTY line is written back to its home. -/
  | stageWriteback (tap : BitVec 9) (line : LpWrite)
  /-- LP_RETRAIN (R345): An LP_RETRAIN write starts retraining of an LPDDR6 channel. -/
  | lpRetrain (p : Path) (v : Word)
  /-- LP_RETRAIN_DONE (R345): An LPDDR6 channel returns to service. -/
  | lpRetrainDone (ch : BitVec 5)
  /-- PREFETCH_FETCH (R353): A stream prefetcher issues a fetch ahead of its stream. -/
  | prefetchFetch (region : BitVec 5) (stream : BitVec 4)
  /-- ELOG_READ (R356): A read of MT_ELOG_LO removes the oldest error log entry. -/
  | elogRead (p : Path)
  /-- TRANSLATION_WALK (R360): A translation miss completes its table walk. -/
  | translationWalk (c : CoreId) (ch : Reg)
  /-- PASS_ENTRY (R364): Threads, locks and regions are prepared and started for revolution N. -/
  | passEntry (job : JobId)
  /-- DONE (R363): A module votes DONE with its write summary. -/
  | done (job : JobId)
  /-- FLUSH (R362): Deferred writes go to their homes and refutation runs. -/
  | flush (job : JobId)
  /-- FLUSHED (R362): A module reports FLUSHED. -/
  | flushed (job : JobId)
  /-- PASS_BOUNDARY (R367): At angle 0 of N audit, confirmation, shadow release and deadline arming take place. -/
  | passBoundary (job : JobId)
  /-- PASS_DEADLINE (R366): The pass deadline expires before FLUSHED and the pass fails. -/
  | passDeadline (job : JobId)
  /-- ROLLBACK (R375): A failed pass is rolled back. -/
  | rollback (job : JobId)
  /-- WRITE_APPLY (R421): A home applies a source module's WRITE packets and sends WRITE_ACK. -/
  | writeApply (job : JobId) (src : BitVec 16)
  /-- REMOTE_READ (R373): A home serves a remote read from the shadow or live page. -/
  | remoteRead (ctx : BitVec 14) (e : LpErrs)
  /-- FAULT_RESOLVE (R381): The headstock resolves a translation fault. -/
  | faultResolve (at_ : FaultPoint) (frame : BitVec 48)
  /-- PAGE_MIGRATE (R382): The headstock migrates a page. -/
  | pageMigrate (job : JobId) (vpn : BitVec 36) (frame : BitVec 48)
  /-- DMA_XINV (R382): A DMA_XINV write invalidates translation cache entries. -/
  | dmaXinv (p : Path) (c : CoreId) (v : BitVec 64)
  /-- MT_XINV (R382): An MT_XINV write invalidates stager translation entries. -/
  | mtXinv (p : Path) (v : BitVec 64)
  /-- FX_XINV (R420): An FX_XINV write invalidates fabric complex translation entries. -/
  | fxXinv (p : Path) (v : BitVec 64)
  /-- PREEMPT_FREEZE (R384): At angle 0 of N every thread of the job's beds freezes. -/
  | preemptFreeze (job : JobId)
  /-- CORE_SAVE (R385): The headstock saves a frozen core. -/
  | coreSave (c : CoreId)
  /-- CORE_RESTORE (R386): The headstock restores a core that was given away. -/
  | coreRestore (c : CoreId)
  /-- PREEMPT_RESUME (R386): Frozen threads leave FROZEN at the named revolution. -/
  | preemptResume (job : JobId)
  /-- FLIT_RECEIVE (R395): A port receives a START or CONT flit. -/
  | flitReceive (port : BitVec 6) (f : RawFlit)
  /-- NAK (R396): A NAK arrives and the sender replays from LACK. -/
  | nak (port : BitVec 6) (lack : BitVec 12)
  /-- REPLAY_TIMEOUT (R396): LACK has not advanced for 2D + 256 cycles and the sender replays. -/
  | replayTimeout (port : BitVec 6)
  /-- IDLE (R395): A receiver with nothing to send for 64 cycles sends an IDLE flit. -/
  | idle (port : BitVec 6)
  /-- LINK_RETRY_BUDGET (R397): A flit's retry budget expires and the port becomes FAILED. -/
  | linkRetryBudget (port : BitVec 6)
  /-- SIGNAL_LOSS (R397): A lane loses signal or FEC lock for 1,024 cycles and the port fails. -/
  | signalLoss (port : BitVec 6)
  /-- TRAIN (R399): FX_PORTn_CTRL TRAIN starts port training. -/
  | train (p : Path) (port : BitVec 6)
  /-- PORT_TRAINED (R399): Training completes and the port enters UP or FAILED. -/
  | portTrained (port : BitVec 6) (ok : Bool) (delay pmod : BitVec 16) (pport : BitVec 6)
  /-- MARKER (R400): At angle 0 every UP port sends a marker flit. -/
  | marker
  /-- MARKER_ARRIVE (R57): A marker arrives and its phase error is evaluated. -/
  | markerArrive (port : BitVec 6) (m : Marker)
  /-- MARKER_MISS (R58): A port misses its expected marker in a revolution. -/
  | markerMiss (port : BitVec 6)
  /-- STEPPED (R65): A pending counter step takes place at the first angle 0 with no bed. -/
  | stepped
  /-- LOST (R68): Holdover drift reaches its budget and the module enters LOST. -/
  | lost
  /-- SPN_CTRL_WRITE (R71): A write of SPN_CTRL sets fields or is rejected with CTRL_REJECT. -/
  | spnCtrlWrite (p : Path) (v : Word)
  /-- MASTER_ENTER (R71): At angle 0 after the write the module becomes MASTER. -/
  | masterEnter
  /-- MASTER_LEAVE (R71): At angle 0 after the write the module leaves MASTER for UNLOCKED. -/
  | masterLeave
  /-- REFCLK_LOSS (R51): The reference input is lost and the PLL holds. -/
  | refclkLoss
  /-- PLL_LOCK (R51): The PLL reacquires the returned reference and REFCLK_OK sets. -/
  | pllLock
  /-- REST_CMD (R79): A SPN_REST_CMD write adds rest revolutions to a bed. -/
  | restCmd (p : Path) (v : Word)
  /-- REST_REVOLUTION (R77): A bed rests for one revolution. -/
  | restRevolution (bed : BitVec 5)
  /-- PACKET_RECEIVE (R406): A packet is checked and accepted, forwarded or discarded. -/
  | packetReceive (port : BitVec 6) (vl : Bool) (pkt : Packet)
  /-- ACK (R412): A receiving context sends an ACK after 256 cycles or 16 packets. -/
  | ack (ctx : BitVec 14)
  /-- RETRANSMIT (R413): A context's retransmit timer expires and unacknowledged packets are resent. -/
  | retransmit (ctx : BitVec 14)
  /-- FAB_OUT (R416): An edge fabric tap accepts a FAB_OUT unit and forms a DATA packet. -/
  | fabOut (c : CoreId)
  /-- FAB_IN (R418): A FLOW_RX context delivers a DATA packet as FAB_IN units. -/
  | fabIn (ctx : BitVec 14)
  /-- FILL (R419): A home handles a FILL and replies with FILL_DATA. -/
  | fill (ctx : BitVec 14) (e : LpErrs)
  /-- WRITE_END (R421): A home receives WRITE_END from a source. -/
  | writeEnd (ctx : BitVec 14)
  /-- WRITE_ACK (R421): A source receives WRITE_ACK from a home. -/
  | writeAck (ctx : BitVec 14)
  /-- FX_RTDATA_ACCESS (R407): FX_RTDATA access reads or writes a route entry and advances DMOD. -/
  | fxRtdataAccess (p : Path) (wr : Option Word)
  /-- AGREE_DONE (R422): An AGREE DONE message goes up the tree. -/
  | agreeDone (job : JobId)
  /-- AGREE_FLUSH (R422): An AGREE FLUSH message goes down the tree with every summary. -/
  | agreeFlush (job : JobId)
  /-- AGREE_FLUSHED (R422): An AGREE FLUSHED message goes up the tree. -/
  | agreeFlushed (job : JobId)
  /-- BOUNDARY (R422): An AGREE BOUNDARY message names revolution N. -/
  | boundary (job : JobId)
  /-- FAIL (R511): An AGREE FAIL message reports a failed pass. -/
  | fail (job : JobId)
  /-- RERUN (R422): An AGREE RERUN message names the rerun revolution. -/
  | rerun (job : JobId)
  /-- AGREE_PREEMPT (R422): An AGREE PREEMPT message goes down the tree. -/
  | agreePreempt (job : JobId)
  /-- AGREE_RESUME (R422): An AGREE RESUME message goes down the tree. -/
  | agreeResume (job : JobId)
  /-- SCAN (R438): A converter takes a SCAN feed and sends its block maxima. -/
  | scan (side : Bool) (bed : BitVec 5) (flow : BitVec 16)
  /-- CONVERT (R434): A converter turns a CONVERT feed into billets and sends them to homes. -/
  | convert (side : Bool) (bed : BitVec 5) (flow : BitVec 16)
  /-- REDUCE_SCAN (R438): A home reduces SCAN values by maximum. -/
  | reduceScan (job : JobId)
  /-- REDUCE_DATA (R440): A home accepts a billet block into its accumulator. -/
  | reduceData (job : JobId)
  /-- AGREED (R438): A module receives agreed exponents. -/
  | agreed (ctx : BitVec 14)
  /-- RESULT (R449): A module writes a RESULT packet and may notify a core. -/
  | result (ctx : BitVec 14)
  /-- NEXTE (R451): A module writes next-pass exponents. -/
  | nexte (ctx : BitVec 14)
  /-- CONTRIB_LATE (R445): A contributor deadline expires before the segment completes. -/
  | contribLate (rid : BitVec 10) (seg : BitVec 16) (isScan : Bool)
  /-- HREG_RD (R461): The module answers a register read packet. -/
  | hregRd (tag : BitVec 16) (off : BitVec 64) (width : Nat)
  /-- HREG_WR (R461): The module performs a register write packet. -/
  | hregWr (tag : BitVec 16) (off : BitVec 64) (width : Nat) (v : Word)
  /-- MEM_CPL (R461): A host memory read completion arrives. -/
  | memCpl (tag : BitVec 16) (data : Option (List Byte))
  /-- HOST_LINK_RECOVER (R462): On link UP the module re-issues lost reads and writes. -/
  | hostLinkRecover
  /-- CQ_TAIL (R469): A command doorbell sets TAIL and starts fetching. -/
  | cqTail (ring : BitVec 4) (v : BitVec 16)
  /-- CQ_HEAD (R469): A completion doorbell releases consumed entries. -/
  | cqHead (ring : BitVec 4) (v : BitVec 16)
  /-- RING_CONFIG_WRITE (R466): An HL_RCFG write enables, disables or clears a ring. -/
  | ringConfigWrite (p : Path) (v : Word)
  /-- COMPLETION_WRITE (R468): A completion or event entry is written when ring space allows. -/
  | completionWrite (ring : BitVec 4)
  /-- MSI (R472): A completion ring raises an interrupt by count or delay. -/
  | msi (ring : BitVec 4)
  /-- HB (R481): Every 256 revolutions the headstock sends a heartbeat. -/
  | hb
  /-- COMMAND_TIMEOUT (R479): A command timer expires and the command completes with TIMEOUT. -/
  | commandTimeout (ring : BitVec 4) (cid : BitVec 16)
  /-- UNLISTED_OPCODE (R473): A command with an unlisted opcode completes with BADCMD. -/
  | unlistedOpcode (ring : BitVec 4) (cid : BitVec 16)
  /-- CONFIG (R474): Set the module number and master bit. -/
  | config (ring : BitVec 4) (cid : BitVec 16)
  /-- ROUTES (R474): Write route table entries. -/
  | routes (ring : BitVec 4) (cid : BitVec 16) (buf : List Byte)
  /-- LAUNCH (R482): Read, check and install a job image. -/
  | launch (ring : BitVec 4) (cid : BitVec 16) (image : List Byte)
  /-- CANCEL (R478): Cancel a job on the module. -/
  | cancel (ring : BitVec 4) (cid : BitVec 16)
  /-- PREEMPT (R476): Request a pre-emption at revolution N. -/
  | preempt (ring : BitVec 4) (cid : BitVec 16)
  /-- RESUME (R476): Request a resumption at revolution N. -/
  | resume (ring : BitVec 4) (cid : BitVec 16)
  /-- LOADPAT (R477): Load a pattern into the bed's back banks. -/
  | loadpat (ring : BitVec 4) (cid : BitVec 16)
  /-- SWITCH (R477): Request a pattern switch at revolution N. -/
  | switch (ring : BitVec 4) (cid : BitVec 16)
  /-- COPY_IN (R475): Copy host data into job pages. -/
  | copyIn (ring : BitVec 4) (cid : BitVec 16) (buf : List Byte)
  /-- COPY_OUT (R475): Copy job pages to host memory. -/
  | copyOut (ring : BitVec 4) (cid : BitVec 16)
  /-- READ_DTAB (R474): Write the distance table to host memory. -/
  | readDtab (ring : BitVec 4) (cid : BitVec 16)
  /-- JOB_STATUS (R473): Return a job's pass state and number. -/
  | jobStatus (ring : BitVec 4) (cid : BitVec 16)
  /-- FW_INFO (R496): Return firmware versions and states. -/
  | fwInfo (ring : BitVec 4) (cid : BitVec 16)
  /-- FW_LOAD (R497): Load and verify an image into the standby pair. -/
  | fwLoad (ring : BitVec 4) (cid : BitVec 16) (img : Option FwImage)
  /-- FW_ACTIVATE (R499): Arm the standby pair for a handover. -/
  | fwActivate (ring : BitVec 4) (cid : BitVec 16)
  /-- ATTEST (R504): Write a signed attestation report. -/
  | attest (ring : BitVec 4) (cid : BitVec 16) (nonce sigs : List Byte)
  /-- IDENTITY (R497): Write the identity public keys and certificates. -/
  | identity (ring : BitVec 4) (cid : BitVec 16)
  /-- TEST (R502): Enter TEST and run selected self-tests. -/
  | test (ring : BitVec 4) (cid : BitVec 16) (failed : BitVec 4)
  /-- TEST_END (R502): Re-zero tested memory and return to SERVICE. -/
  | testEnd (ring : BitVec 4) (cid : BitVec 16)
  /-- SVN_COMMIT (R497): Blow the fused counter up to the running SVN. -/
  | svnCommit (ring : BitVec 4) (cid : BitVec 16)
  /-- KEY_REVOKE (R497): Revoke a key slot. -/
  | keyRevoke (ring : BitVec 4) (cid : BitVec 16)
  /-- REPLACE (R514): Give a rank of a held job to another module. -/
  | replace (ring : BitVec 4) (cid : BitVec 16)
  /-- RETIRE (R519): Load a pattern for a pending retirement. -/
  | retire (ring : BitVec 4) (cid : BitVec 16) (sect : List Byte)
  /-- START_UP (R486): From power-good the module runs start-up steps 2 to 8. -/
  | startUp (img : FwImage) (found : BitVec 5)
  /-- STEP_TIME (R489): A start-up step overruns its bound. -/
  | stepTime
  /-- RECOVERY_GO (R495): HS_RECOV_CMD GO fetches, verifies and starts an image. -/
  | recoveryGo (p : Path) (wrflash : Bool) (img : FwImage)
  /-- REBOOT (R498): HS_CTRL REBOOT restarts from step 2. -/
  | reboot (p : Path)
  /-- HANDOVER (R500): At angle 0 of H the headstock pairs exchange roles. -/
  | handover
  /-- HANDOVER_CONFIRM (R501): The incoming pair confirms itself. -/
  | handoverConfirm
  /-- HANDOVER_CONFIRM_TIMEOUT (R501): Without confirmation control returns to the outgoing pair at H + 65. -/
  | handoverConfirmTimeout
  /-- FLASH_WRITE_DONE (R501): The new image's flash write and read-back complete. -/
  | flashWriteDone (ok : Bool)
  /-- KEY_DERIVATION (R503): The identity key derivation completes. -/
  | keyDerivation (keys : List Byte)
  /-- AGREEMENT_SILENCE (R510): An AGREE packet unacknowledged for 64 revolutions declares the neighbour lost. -/
  | agreementSilence (job : JobId) (rank : BitVec 16)
  /-- NEIGHBOUR_UNROUTABLE (R510): A neighbour unroutable for 64 revolutions is declared lost. -/
  | neighbourUnroutable (job : JobId) (rank : BitVec 16)
  /-- HELD_TIMEOUT (R515): The held-job timer expires and the job is cancelled with LOST. -/
  | heldTimeout (job : JobId)
  /-- RETIREMENT_DECISION (R517): The headstock decides to retire a core. -/
  | retirementDecision (row : BitVec 6) (col : BitVec 7) (cause : BitVec 2)
  /-- RETIREMENT_EFFECT (R518): A retirement takes effect at a pass entry revolution. -/
  | retirementEffect (row : BitVec 6)
  /-- PORT_RETRAIN (R521): The headstock starts training of a failed port after its delay. -/
  | portRetrain (port : BitVec 6)
  /-- POWER_WINDOW (R534): At the end of a 16-revolution window rest counts are computed and written. -/
  | powerWindow (watts : BitVec 12) (idle : Option (BitVec 12))
  /-- MARGIN_READ (R531): The headstock reads the margin monitors and steps VCORE. -/
  | marginRead (region : BitVec 5) (low high : BitVec 8)
  /-- MARGIN (R531): A margin alarm raises VCORE by 2 steps in hardware. -/
  | margin (region : BitVec 5)
  /-- TEMPERATURE_READING (R533): The headstock reads temperatures and sets refresh and thermal rests. -/
  | temperatureReading (region : BitVec 5) (die stack inlet outlet : BitVec 10)
  /-- THERMAL_TRIP (R533): A hardware thermal trip powers the module down. -/
  | thermalTrip (region : BitVec 5) (die stack : BitVec 10)
  /-- POWER_SEQUENCE (R529): PWR_EN with STBY brings the rails up to PGOOD. -/
  | powerSequence
  /-- SEQFAIL (R529): A rail fails to regulate within 10 ms. -/
  | seqfail (rail : BitVec 4)
  /-- POWER_DOWN (R529): PWR_EN falls and the rails are removed. -/
  | powerDown
  /-- POWER_LOSS (R527): The input stays below 46 V for 100 µs and the rails are removed. -/
  | powerLoss
  /-- OVERVOLTAGE (R527): The input exceeds 60 V and the rails are removed. -/
  | overvoltage
  /-- INPUT_LOW (R527): The input falls below 48 V. -/
  | inputLow (decivolts : BitVec 10)
  /-- INPUT_HIGH (R527): The input rises above 58 V. -/
  | inputHigh (decivolts : BitVec 10)
  /-- SIDEBAND_WRITE (R542): An I3C or I2C transfer writes a register. -/
  | sidebandWrite (off : BitVec 26) (v : Word)
  /-- EXTEST (R543): A JTAG EXTEST instruction drives the pins. -/
  | extest (ports : BitVec 40) (link : Bool)
  /-- DEBUG_ACCESS (R545): DBG_ACMD GO performs one register access. -/
  | debugAccess (p : Path) (wr : Bool)
  /-- STOP (R547): CORE_DBGCMD STOP puts a thread in DEBUG stop. -/
  | stop (p : Path) (c : CoreId) (t : Thr)
  /-- DEBUG_RUN (R547): CORE_DBGCMD RUN releases a thread from DEBUG stop. -/
  | debugRun (p : Path) (c : CoreId) (t : Thr)
  /-- STEP (R547): CORE_DBGCMD STEP runs a thread to its next issue. -/
  | step (p : Path) (c : CoreId) (t : Thr)
  /-- BREAKPOINT (R551): A breakpoint matches in a thread's slot. -/
  | breakpoint (c : CoreId) (t : Thr) (n : BitVec 2)
  /-- BED_STOP (R552): A bed stop message reaches the supervisor and is forwarded to the bed. -/
  | bedStop (c : CoreId)
  /-- DBG_BEDCMD_STOP (R552): DBG_BEDCMD STOP starts a bed stop. -/
  | dbgBedcmdStop (p : Path) (bed : BitVec 5)
  /-- DBG_BEDCMD_RUN (R552): DBG_BEDCMD RUN releases every thread of a bed. -/
  | dbgBedcmdRun (p : Path) (bed : BitVec 5)
  /-- TRDATA_ACCESS (R554): CORE_TRDATA access reads or writes a thread register and advances INDEX. -/
  | trdataAccess (p : Path) (c : CoreId) (wr : Option Word)
  /-- SPDATA_ACCESS (R555): CORE_SPDATA access reads or writes a scratchpad word and advances WADDR. -/
  | spdataAccess (p : Path) (c : CoreId) (wr : Option Word)
  /-- CAPTURE_WINDOW_OPEN (R557): The trace capture window opens at its revolution. -/
  | captureWindowOpen (c : CoreId)
  /-- CAPTURE_WINDOW_CLOSE (R557): The trace capture window closes after LEN revolutions. -/
  | captureWindowClose (c : CoreId)
  /-- TRACE_READ (R557): A read of CORE_TRDATA0 removes the oldest trace record. -/
  | traceRead (p : Path) (c : CoreId)
  /-- HS_ELOG_READ (R523): A read of HS_ELOG_D0 removes the oldest headstock log entry. -/
  | hsElogRead (p : Path)
  /-- POWER_APPLIED (R528): The 54 V input comes into range, STBY appears, the POR domain resets and the standby fuse bank is read within 1 ms. -/
  | powerApplied (decivolts : BitVec 10)
  /-- SLEWING (R65): Each revolution the phase slew moves the count by at most 1/16 cycle, and SLEWING clears when the error is removed. -/
  | slewing
  /-- BREPO_LINK_TRAINING (R460): The adapter begins training the Brepo link whenever it is DOWN or FAILED, taking the link to TRAINING. -/
  | brepoLinkTraining
  /-- PORT_DISABLE (R399): A write clearing FX_PORTn_CTRL.EN takes the port to DOWN and holds it there. -/
  | portDisable (p : Path) (port : BitVec 6)
  /-- RETIREMENT_RECORD_WRITE (R524): The headstock finishes writing the retirement record to flash within 262,144 revolutions of a retirement. -/
  | retirementRecordWrite
  deriving DecidableEq, Repr

end Sys2Proof
end

