-- ==== Sys2Proof/Decode.lean ====
section
/-! DEFINITION. The decoder of table words: no row of spec/opcode_table.json gives bits, so no word spells a command. The
encoding of a thread's instruction in program memory (04) is Sys2Proof/Machine/Encoding.lean. -/

namespace Sys2Proof

/-- The command a word spells by the table's bits: none, as no row gives bits. -/
def decodeTableWord (_nbits _w : Nat) : Option Instr := none

end Sys2Proof
end

