-- ==== Sys2Proof/Machine/Registers.lean ====
section
/-! DEFINITION. The register tables of the spec as data: one row per register (offset, instances, reset domain, access masks
and reset word, 00 R10 to R15), the offsets `R.<register>` and the fields `F.<register>_<field>` the meanings name. -/

namespace Sys2Proof.Machine

/-- The reset domains of 00 R15, each contained in the ones before it. -/
inductive Domain where
  | por
  | mod
  | core
  | thr
  deriving DecidableEq, Repr

/-- One register of a register table: its first offset, up to two index ranges (count, stride), its domain, the bits
of each access code of 00 R13, and its reset word. -/
structure RegRow where
  base  : Nat
  n1    : Nat
  s1    : Nat
  n2    : Nat
  s2    : Nat
  dom   : Domain
  ro    : Word
  rw    : Word
  w1c   : Word
  w1s   : Word
  wo    : Word
  rc    : Word
  reset : Word
  deriving DecidableEq, Repr

/-- A field of a register: the register's offset and the field's bits. -/
structure Fld where
  off : Nat
  hi  : Nat
  lo  : Nat
  deriving DecidableEq, Repr

/-- Whether offset `off` is one of the row's registers. -/
def RegRow.covers (r : RegRow) (off : Nat) : Bool :=
  (r.base ≤ off) &&
    (if r.n1 ≤ 1 && r.n2 ≤ 1 then off == r.base
     else if r.n2 ≤ 1 then
       ((off - r.base) % r.s1 == 0) && (off - r.base) / r.s1 < r.n1
     else
       (((off - r.base) % r.s1) % r.s2 == 0) && ((off - r.base) % r.s1) / r.s2 < r.n2 && (off - r.base) / r.s1 < r.n1)

/-- The registers of device register space outside the per-core windows, part 1. -/
def devRows1 : List RegRow :=
  [⟨0x100000, 1, 0, 1, 0, .mod, 0x0#32, 0xFFBF03#32, 0x0#32, 0x0#32, 0x0#32, 0x0#32, 0x400000#32⟩,  -- SPN_CTRL
   ⟨0x100004, 1, 0, 1, 0, .mod, 0x3F0F3F#32, 0x0#32, 0x0#32, 0x0#32, 0x0#32, 0x0#32, 0x3F0F00#32⟩,  -- SPN_STATUS
   ⟨0x100008, 1, 0, 1, 0, .mod, 0x0#32, 0x0#32, 0x7FF#32, 0x0#32, 0x0#32, 0x0#32, 0x0#32⟩,  -- SPN_EVENT
   ⟨0x10000C, 1, 0, 1, 0, .mod, 0x1FFFF#32, 0x0#32, 0x0#32, 0x0#32, 0x0#32, 0x0#32, 0x0#32⟩,  -- SPN_MASTER
   ⟨0x100010, 1, 0, 1, 0, .mod, 0xFFFFFFFF#32, 0x0#32, 0x0#32, 0x0#32, 0x0#32, 0x0#32, 0x0#32⟩,  -- SPN_REV_LO
   ⟨0x100014, 1, 0, 1, 0, .mod, 0xFFFFFFF#32, 0x0#32, 0x0#32, 0x0#32, 0x0#32, 0x0#32, 0x0#32⟩,  -- SPN_REV_HI
   ⟨0x100018, 1, 0, 1, 0, .mod, 0xFFF#32, 0x0#32, 0x0#32, 0x0#32, 0x0#32, 0x0#32, 0x0#32⟩,  -- SPN_ANGLE
   ⟨0x10001C, 1, 0, 1, 0, .mod, 0xFFFF#32, 0x0#32, 0x0#32, 0x0#32, 0x0#32, 0x0#32, 0x0#32⟩,  -- SPN_PHASE_ERR
   ⟨0x100020, 1, 0, 1, 0, .mod, 0xFFFF#32, 0x0#32, 0x0#32, 0x0#32, 0x0#32, 0x0#32, 0x0#32⟩,  -- SPN_DRIFT
   ⟨0x100024, 1, 0, 1, 0, .mod, 0xFFFFFFFF#32, 0x0#32, 0x0#32, 0x0#32, 0x0#32, 0x0#32, 0x0#32⟩,  -- SPN_LINKLOCK_LO
   ⟨0x100028, 1, 0, 1, 0, .mod, 0xFF#32, 0x0#32, 0x0#32, 0x0#32, 0x0#32, 0x0#32, 0x0#32⟩,  -- SPN_LINKLOCK_HI
   ⟨0x10002C, 1, 0, 1, 0, .mod, 0x0#32, 0x0#32, 0x0#32, 0x0#32, 0x1F00FF#32, 0x0#32, 0x0#32⟩,  -- SPN_REST_CMD
   ⟨0x100030, 1, 0, 1, 0, .mod, 0xFFFFFFFF#32, 0x0#32, 0x0#32, 0x0#32, 0x0#32, 0x0#32, 0x0#32⟩,  -- SPN_REST_PEND
   ⟨0x100100, 40, 4, 1, 0, .mod, 0x8000FFFF#32, 0xFF0000#32, 0x0#32, 0x0#32, 0x0#32, 0x0#32, 0x0#32⟩,  -- SPN_PORT_DLYn
   ⟨0x400000, 1, 0, 1, 0, .mod, 0x0#32, 0xFF0007#32, 0x0#32, 0x0#32, 0x0#32, 0x0#32, 0x80003#32⟩,  -- MT_CTRL
   ⟨0x400004, 1, 0, 1, 0, .mod, 0xFF03FF#32, 0x0#32, 0x0#32, 0x0#32, 0x0#32, 0x0#32, 0xFE0200#32⟩,  -- MT_STATUS
   ⟨0x400008, 1, 0, 1, 0, .mod, 0x0#32, 0x1FFF#32, 0x0#32, 0x0#32, 0x0#32, 0x0#32, 0x10#32⟩,  -- MT_SC_CFG
   ⟨0x40000C, 1, 0, 1, 0, .mod, 0x701FFFFF#32, 0x0#32, 0x80000000#32, 0x0#32, 0x0#32, 0x0#32, 0x0#32⟩,  -- MT_TAPERR
   ⟨0x400010, 1, 0, 1, 0, .mod, 0x7F#32, 0x0#32, 0x80000000#32, 0x0#32, 0x0#32, 0x0#32, 0x0#32⟩,  -- MT_ELOG_STAT
   ⟨0x400014, 1, 0, 1, 0, .mod, 0x0#32, 0x0#32, 0x0#32, 0x0#32, 0x0#32, 0xFFFFFFFF#32, 0x0#32⟩,  -- MT_ELOG_LO
   ⟨0x400018, 1, 0, 1, 0, .mod, 0xFFFFFFFF#32, 0x0#32, 0x0#32, 0x0#32, 0x0#32, 0x0#32, 0x0#32⟩,  -- MT_ELOG_HI
   ⟨0x400020, 1, 0, 1, 0, .mod, 0x0#32, 0x0#32, 0x0#32, 0x0#32, 0x8FFFFFFF#32, 0x0#32, 0x0#32⟩,  -- MT_RMAP_CMD
   ⟨0x400024, 1, 0, 1, 0, .mod, 0x800003FF#32, 0x0#32, 0x60000000#32, 0x0#32, 0x0#32, 0x0#32, 0x200#32⟩,  -- MT_RMAP_STAT
   ⟨0x400030, 1, 0, 1, 0, .mod, 0x0#32, 0x1F0F#32, 0x0#32, 0x0#32, 0x0#32, 0x0#32, 0x0#32⟩ ]  -- MT_STR_SEL

/-- The registers of device register space outside the per-core windows, part 2. -/
def devRows2 : List RegRow :=
  [⟨0x400034, 1, 0, 1, 0, .mod, 0xFCFFFFFF#32, 0x0#32, 0x0#32, 0x0#32, 0x0#32, 0x0#32, 0x0#32⟩,  -- MT_STR_CFG
   ⟨0x400038, 1, 0, 1, 0, .mod, 0xFFFFFFFF#32, 0x0#32, 0x0#32, 0x0#32, 0x0#32, 0x0#32, 0x0#32⟩,  -- MT_STR_S1
   ⟨0x40003C, 1, 0, 1, 0, .mod, 0xFFFFFFFF#32, 0x0#32, 0x0#32, 0x0#32, 0x0#32, 0x0#32, 0x0#32⟩,  -- MT_STR_S2
   ⟨0x400040, 1, 0, 1, 0, .mod, 0xFFFFFFFF#32, 0x0#32, 0x0#32, 0x0#32, 0x0#32, 0x0#32, 0x0#32⟩,  -- MT_STR_BASE_LO
   ⟨0x400044, 1, 0, 1, 0, .mod, 0xFF#32, 0x0#32, 0x0#32, 0x0#32, 0x0#32, 0x0#32, 0x0#32⟩,  -- MT_STR_BASE_HI
   ⟨0x400100, 20, 4, 1, 0, .mod, 0x0#32, 0x0#32, 0x0#32, 0x0#32, 0x0#32, 0xFFFFFFFF#32, 0x0#32⟩,  -- MT_CEs
   ⟨0x408000, 1, 0, 1, 0, .mod, 0x2#32, 0x0#32, 0x0#32, 0x0#32, 0x0#32, 0x0#32, 0x0#32⟩,  -- LP_CFG
   ⟨0x408004, 1, 0, 1, 0, .mod, 0xFFFFFFFF#32, 0x0#32, 0x0#32, 0x0#32, 0x0#32, 0x0#32, 0x0#32⟩,  -- LP_TRAINED
   ⟨0x408008, 1, 0, 1, 0, .mod, 0x0#32, 0x0#32, 0x0#32, 0xFFFFFFFF#32, 0x0#32, 0x0#32, 0x0#32⟩,  -- LP_RETRAIN
   ⟨0x408100, 32, 4, 1, 0, .mod, 0x1#32, 0x0#32, 0x0#32, 0x0#32, 0x0#32, 0xFFFFFFF0#32, 0x0#32⟩,  -- LP_CHn_STAT
   ⟨0x400050, 1, 0, 1, 0, .mod, 0x0#32, 0x0#32, 0x0#32, 0x0#32, 0xFFFFFFFF#32, 0x0#32, 0x0#32⟩,  -- MT_XINV_LO
   ⟨0x400054, 1, 0, 1, 0, .mod, 0x0#32, 0x0#32, 0x0#32, 0x0#32, 0xC000FFFF#32, 0x0#32, 0x0#32⟩,  -- MT_XINV_HI
   ⟨0x400058, 1, 0, 1, 0, .mod, 0x0#32, 0x1FFF#32, 0x0#32, 0x0#32, 0x0#32, 0x0#32, 0x100#32⟩,  -- MT_SHADOW_CFG
   ⟨0x40005C, 1, 0, 1, 0, .mod, 0x3FFFFF#32, 0x0#32, 0x80000000#32, 0x0#32, 0x0#32, 0x0#32, 0x100#32⟩,  -- MT_SHADOW_STAT
   ⟨0x300000, 1, 0, 1, 0, .mod, 0x0#32, 0xFFFFF001#32, 0x0#32, 0x0#32, 0x0#32, 0x0#32, 0x8000#32⟩,  -- FX_CTRL
   ⟨0x300008, 1, 0, 1, 0, .mod, 0x7FF03FFF#32, 0x0#32, 0x80000000#32, 0x0#32, 0x0#32, 0x0#32, 0x0#32⟩,  -- FX_ERR
   ⟨0x300010, 1, 0, 1, 0, .mod, 0x0#32, 0xFFFF#32, 0x0#32, 0x0#32, 0x0#32, 0x0#32, 0x0#32⟩,  -- FX_RTSEL
   ⟨0x300014, 1, 0, 1, 0, .mod, 0x1#32, 0xC03F3F80#32, 0x0#32, 0x0#32, 0x0#32, 0x0#32, 0x0#32⟩,  -- FX_RTDATA
   ⟨0x300018, 1, 0, 1, 0, .mod, 0x0#32, 0x3FFF#32, 0x0#32, 0x0#32, 0x0#32, 0x0#32, 0x0#32⟩,  -- FX_CTXSEL
   ⟨0x300020, 8, 4, 1, 0, .mod, 0x0#32, 0xFFFFFFFF#32, 0x0#32, 0x0#32, 0x0#32, 0x0#32, 0x0#32⟩,  -- FX_CTXDATAm
   ⟨0x300040, 1, 0, 1, 0, .mod, 0x0#32, 0x0#32, 0x0#32, 0x0#32, 0xFFFFFFFF#32, 0x0#32, 0x0#32⟩,  -- FX_XINV_LO
   ⟨0x300044, 1, 0, 1, 0, .mod, 0x0#32, 0x0#32, 0x0#32, 0x0#32, 0xC000FFFF#32, 0x0#32, 0x0#32⟩,  -- FX_XINV_HI
   ⟨0x300100, 40, 16, 1, 0, .mod, 0x0#32, 0x1#32, 0x0#32, 0x2#32, 0x0#32, 0x0#32, 0x0#32⟩,  -- FX_PORTn_CTRL
   ⟨0x300104, 40, 16, 1, 0, .mod, 0xFFC0FFFF#32, 0x0#32, 0x0#32, 0x0#32, 0x0#32, 0x0#32, 0x0#32⟩ ]  -- FX_PORTn_STAT

/-- The registers of device register space outside the per-core windows, part 3. -/
def devRows3 : List RegRow :=
  [⟨0x300108, 40, 16, 1, 0, .mod, 0x0#32, 0x0#32, 0x0#32, 0x0#32, 0x0#32, 0xFFFFFFFF#32, 0x0#32⟩,  -- FX_PORTn_RETRY
   ⟨0x30010C, 40, 16, 1, 0, .mod, 0x0#32, 0x0#32, 0x0#32, 0x0#32, 0x0#32, 0xFFFFFFFF#32, 0x0#32⟩,  -- FX_PORTn_FEC
   ⟨0x300080, 1, 0, 1, 0, .mod, 0x0#32, 0x1#32, 0x0#32, 0x0#32, 0x0#32, 0x0#32, 0x0#32⟩,  -- FX_RED_CTRL
   ⟨0x300084, 1, 0, 1, 0, .mod, 0x3FFFF#32, 0x0#32, 0x0#32, 0x0#32, 0x0#32, 0x0#32, 0x20000#32⟩,  -- FX_RED_STAT
   ⟨0x300088, 1, 0, 1, 0, .mod, 0x7FFFFFFF#32, 0x0#32, 0x80000000#32, 0x0#32, 0x0#32, 0x0#32, 0x0#32⟩,  -- FX_RED_ERR
   ⟨0x30008C, 1, 0, 1, 0, .mod, 0xFFFFFF#32, 0x0#32, 0x0#32, 0x0#32, 0x0#32, 0x0#32, 0x0#32⟩,  -- FX_RED_ERRK
   ⟨0x300090, 1, 0, 1, 0, .mod, 0x0#32, 0x0#32, 0x0#32, 0x0#32, 0x0#32, 0xFFFFFFFF#32, 0x0#32⟩,  -- FX_RED_CNT
   ⟨0x300094, 1, 0, 1, 0, .mod, 0x0#32, 0x3FF#32, 0x0#32, 0x0#32, 0x0#32, 0x0#32, 0x0#32⟩,  -- FX_RED_SEL
   ⟨0x3000A0, 16, 4, 1, 0, .mod, 0x0#32, 0xFFFFFFFF#32, 0x0#32, 0x0#32, 0x0#32, 0x0#32, 0x0#32⟩,  -- FX_RED_DATAm
   ⟨0x0, 1, 0, 1, 0, .por, 0xFFFFFFFF#32, 0x0#32, 0x0#32, 0x0#32, 0x0#32, 0x0#32, 0x1F3A0C09#32⟩,  -- DEV_ID
   ⟨0x4, 1, 0, 1, 0, .por, 0xFFFFFFFF#32, 0x0#32, 0x0#32, 0x0#32, 0x0#32, 0x0#32, 0x0#32⟩,  -- DEV_ORDER
   ⟨0x8, 1, 0, 1, 0, .por, 0xFFFF#32, 0x0#32, 0x0#32, 0x0#32, 0x0#32, 0x0#32, 0x0#32⟩,  -- DEV_STEP
   ⟨0xC, 1, 0, 1, 0, .por, 0xFFFFFFFF#32, 0x0#32, 0x0#32, 0x0#32, 0x0#32, 0x0#32, 0x0#32⟩,  -- DEV_SERIAL_LO
   ⟨0x10, 1, 0, 1, 0, .por, 0xFFFFFFFF#32, 0x0#32, 0x0#32, 0x0#32, 0x0#32, 0x0#32, 0x0#32⟩,  -- DEV_SERIAL_HI
   ⟨0x14, 1, 0, 1, 0, .mod, 0x3F1F#32, 0x0#32, 0x0#32, 0x0#32, 0x0#32, 0x0#32, 0x0#32⟩,  -- DEV_STATUS
   ⟨0x18, 1, 0, 1, 0, .mod, 0x8000FFFF#32, 0x0#32, 0x0#32, 0x0#32, 0x0#32, 0x0#32, 0x0#32⟩,  -- DEV_MODULE
   ⟨0x200004, 1, 0, 1, 0, .mod, 0x3#32, 0x0#32, 0x0#32, 0x0#32, 0x0#32, 0x0#32, 0x0#32⟩,  -- HL_STATUS
   ⟨0x200008, 1, 0, 1, 0, .mod, 0x73FFFFFF#32, 0x0#32, 0x80000000#32, 0x0#32, 0x0#32, 0x0#32, 0x0#32⟩,  -- HL_ACCERR
   ⟨0x20000C, 1, 0, 1, 0, .mod, 0x0#32, 0x8000000F#32, 0x0#32, 0x0#32, 0x0#32, 0x0#32, 0x0#32⟩,  -- HL_EVTCFG
   ⟨0x200010, 1, 0, 1, 0, .mod, 0x0#32, 0x0#32, 0x0#32, 0x0#32, 0x0#32, 0xFFFF#32, 0x0#32⟩,  -- HL_EVTLOST
   ⟨0x200014, 1, 0, 1, 0, .mod, 0x0#32, 0x0#32, 0x0#32, 0x0#32, 0x0#32, 0xFFFFFFFF#32, 0x0#32⟩,  -- HL_CNT
   ⟨0x200020, 1, 0, 1, 0, .mod, 0x0#32, 0x1F#32, 0x0#32, 0x0#32, 0x0#32, 0x0#32, 0x0#32⟩,  -- HL_RINGSEL
   ⟨0x200024, 1, 0, 1, 0, .mod, 0x0#32, 0xFFFFFFFF#32, 0x0#32, 0x0#32, 0x0#32, 0x0#32, 0x0#32⟩,  -- HL_RBASE_LO
   ⟨0x200028, 1, 0, 1, 0, .mod, 0x0#32, 0xFFFFFFFF#32, 0x0#32, 0x0#32, 0x0#32, 0x0#32, 0x0#32⟩ ]  -- HL_RBASE_HI

/-- The registers of device register space outside the per-core windows, part 4. -/
def devRows4 : List RegRow :=
  [⟨0x20002C, 1, 0, 1, 0, .mod, 0x400000#32, 0xBF8FF000#32, 0x40000000#32, 0x0#32, 0x0#32, 0x0#32, 0x40000#32⟩,  -- HL_RCFG
   ⟨0x200030, 1, 0, 1, 0, .mod, 0xFFFFFFFF#32, 0x0#32, 0x0#32, 0x0#32, 0x0#32, 0x0#32, 0x0#32⟩,  -- HL_RIDX
   ⟨0x200034, 1, 0, 1, 0, .mod, 0x0#32, 0xFFFFFFFF#32, 0x0#32, 0x0#32, 0x0#32, 0x0#32, 0x40001#32⟩,  -- HL_ICOAL
   ⟨0x10000, 1, 0, 1, 0, .mod, 0x0#32, 0x0#32, 0x0#32, 0x1#32, 0x0#32, 0x0#32, 0x0#32⟩,  -- HS_CTRL
   ⟨0x10004, 1, 0, 1, 0, .mod, 0xE007001F#32, 0x0#32, 0x0#32, 0x0#32, 0x0#32, 0x0#32, 0x20000#32⟩,  -- HS_BOOT_STAT
   ⟨0x10008, 1, 0, 1, 0, .mod, 0xFFFFFFFF#32, 0x0#32, 0x0#32, 0x0#32, 0x0#32, 0x0#32, 0x0#32⟩,  -- HS_READY_REV
   ⟨0x1000C, 1, 0, 1, 0, .mod, 0xFFFFFFFF#32, 0x0#32, 0x0#32, 0x0#32, 0x0#32, 0x0#32, 0x0#32⟩,  -- HS_FW_VER
   ⟨0x10010, 1, 0, 1, 0, .mod, 0xFCFFFFFF#32, 0x0#32, 0x0#32, 0x0#32, 0x0#32, 0x0#32, 0x0#32⟩,  -- HS_FW_SEC
   ⟨0x10014, 1, 0, 1, 0, .mod, 0xF000FFFF#32, 0x0#32, 0x0#32, 0x0#32, 0x0#32, 0x0#32, 0x0#32⟩,  -- HS_PAIR
   ⟨0x10020, 1, 0, 1, 0, .mod, 0x0#32, 0xFFFFFFFF#32, 0x0#32, 0x0#32, 0x0#32, 0x0#32, 0x0#32⟩,  -- HS_RECOV_ADDR_LO
   ⟨0x10024, 1, 0, 1, 0, .mod, 0x0#32, 0xFFFFFFFF#32, 0x0#32, 0x0#32, 0x0#32, 0x0#32, 0x0#32⟩,  -- HS_RECOV_ADDR_HI
   ⟨0x10028, 1, 0, 1, 0, .mod, 0x0#32, 0x1FFFFF#32, 0x0#32, 0x0#32, 0x0#32, 0x0#32, 0x0#32⟩,  -- HS_RECOV_LEN
   ⟨0x1002C, 1, 0, 1, 0, .mod, 0x0#32, 0x40000000#32, 0x0#32, 0x80000000#32, 0x0#32, 0x0#32, 0x0#32⟩,  -- HS_RECOV_CMD
   ⟨0x10030, 1, 0, 1, 0, .mod, 0x8000001F#32, 0x0#32, 0x60000000#32, 0x0#32, 0x0#32, 0x0#32, 0x0#32⟩,  -- HS_RECOV_STAT
   ⟨0x10040, 1, 0, 1, 0, .mod, 0x800001FF#32, 0x0#32, 0x0#32, 0x0#32, 0x0#32, 0x0#32, 0x0#32⟩,  -- HS_ELOG_STAT
   ⟨0x10044, 4, 4, 1, 0, .mod, 0x0#32, 0x0#32, 0x0#32, 0x0#32, 0x0#32, 0xFFFFFFFF#32, 0x0#32⟩,  -- HS_ELOG_Dm
   ⟨0x10054, 1, 0, 1, 0, .mod, 0xFFFF#32, 0x0#32, 0x0#32, 0x0#32, 0x0#32, 0x0#32, 0x0#32⟩,  -- HS_RETIRE_STAT
   ⟨0x10058, 1, 0, 1, 0, .mod, 0xFFFFFFFF#32, 0x0#32, 0x0#32, 0x0#32, 0x0#32, 0x0#32, 0x0#32⟩,  -- HS_NOSPARE_LO
   ⟨0x1005C, 1, 0, 1, 0, .mod, 0xFFFFFFFF#32, 0x0#32, 0x0#32, 0x0#32, 0x0#32, 0x0#32, 0x0#32⟩,  -- HS_NOSPARE_HI
   ⟨0x500000, 1, 0, 1, 0, .por, 0x0#32, 0x3#32, 0x0#32, 0x0#32, 0x0#32, 0x0#32, 0x1#32⟩,  -- PW_CTRL
   ⟨0x500004, 1, 0, 1, 0, .por, 0x0#32, 0xFFF#32, 0x0#32, 0x0#32, 0x0#32, 0x0#32, 0xAF0#32⟩,  -- PW_CAP
   ⟨0x500008, 1, 0, 1, 0, .por, 0xFFF80FFF#32, 0x0#32, 0x0#32, 0x0#32, 0x0#32, 0x0#32, 0x26C#32⟩,  -- PW_STATUS
   ⟨0x50000C, 1, 0, 1, 0, .por, 0x0#32, 0x0#32, 0x3FF#32, 0x0#32, 0x0#32, 0x0#32, 0x0#32⟩,  -- PW_EVENT
   ⟨0x500010, 1, 0, 1, 0, .por, 0xFFFFFC00#32, 0x0#32, 0x0#32, 0x0#32, 0x0#32, 0x0#32, 0x0#32⟩ ]  -- PW_INPUT

/-- The registers of device register space outside the per-core windows, part 5. -/
def devRows5 : List RegRow :=
  [⟨0x500014, 1, 0, 1, 0, .por, 0x3FF03FF#32, 0x0#32, 0x0#32, 0x0#32, 0x0#32, 0x0#32, 0x0#32⟩,  -- PW_COOL
   ⟨0x500100, 20, 4, 1, 0, .por, 0xFFFFF3FF#32, 0x0#32, 0x0#32, 0x0#32, 0x0#32, 0x0#32, 0x0#32⟩,  -- PW_REGIONn
   ⟨0x500180, 20, 4, 1, 0, .por, 0x3FF03FF#32, 0x0#32, 0x0#32, 0x0#32, 0x0#32, 0x0#32, 0x0#32⟩,  -- PW_VLIMn
   ⟨0x2000000, 1, 0, 1, 0, .mod, 0x0#32, 0x1#32, 0x0#32, 0x0#32, 0x0#32, 0x0#32, 0x0#32⟩,  -- DBG_CTRL
   ⟨0x2000004, 1, 0, 1, 0, .mod, 0x0#32, 0x3FFFFFF#32, 0x0#32, 0x0#32, 0x0#32, 0x0#32, 0x0#32⟩,  -- DBG_AADDR
   ⟨0x2000008, 1, 0, 1, 0, .mod, 0x0#32, 0xFFFFFFFF#32, 0x0#32, 0x0#32, 0x0#32, 0x0#32, 0x0#32⟩,  -- DBG_ADATA
   ⟨0x200000C, 1, 0, 1, 0, .mod, 0x20000000#32, 0x40000000#32, 0x18000000#32, 0x80000000#32, 0x0#32, 0x0#32, 0x0#32⟩,  -- DBG_ACMD
   ⟨0x2000010, 1, 0, 1, 0, .mod, 0x0#32, 0x0#32, 0x0#32, 0x0#32, 0xC000001F#32, 0x0#32, 0x0#32⟩ ]  -- DBG_BEDCMD

/-- The registers of device register space outside the per-core windows. -/
def devRows : List RegRow := devRows1 ++ devRows2 ++ devRows3 ++ devRows4 ++ devRows5

/-- The registers of a per-core window, by window offset, part 1. -/
def winRows1 : List RegRow :=
  [⟨0x0, 1, 0, 1, 0, .core, 0x7FFFEFFF#32, 0x0#32, 0x0#32, 0x0#32, 0x0#32, 0x0#32, 0x0#32⟩,  -- CORE_ID
   ⟨0x4, 1, 0, 1, 0, .core, 0x0#32, 0x0#32, 0x0#32, 0xF0F01#32, 0x0#32, 0x0#32, 0x0#32⟩,  -- CORE_CTRL
   ⟨0x8, 1, 0, 1, 0, .core, 0x27777#32, 0x0#32, 0x10000#32, 0x0#32, 0x0#32, 0x0#32, 0x0#32⟩,  -- CORE_STATUS
   ⟨0xC, 1, 0, 1, 0, .core, 0x0#32, 0x10FFF#32, 0x0#32, 0x0#32, 0x0#32, 0x0#32, 0x0#32⟩,  -- CORE_SUPV
   ⟨0x10, 1, 0, 1, 0, .core, 0xC0007FFF#32, 0x0#32, 0x0#32, 0x0#32, 0x0#32, 0x0#32, 0x80000000#32⟩,  -- CORE_FSQ
   ⟨0x14, 1, 0, 1, 0, .core, 0x0#32, 0x7FFF#32, 0x0#32, 0x0#32, 0x0#32, 0x0#32, 0x0#32⟩,  -- CORE_PM_ADDR
   ⟨0x18, 1, 0, 1, 0, .core, 0x4000#32, 0x3FFF#32, 0x0#32, 0x0#32, 0x0#32, 0x0#32, 0x0#32⟩,  -- CORE_PM_DATA
   ⟨0x20, 1, 0, 1, 0, .mod, 0xFFFFFFFF#32, 0x0#32, 0x0#32, 0x0#32, 0x0#32, 0x0#32, 0x0#32⟩,  -- CORE_CYC_LO
   ⟨0x24, 1, 0, 1, 0, .mod, 0xFFFFFFF#32, 0x0#32, 0x0#32, 0x0#32, 0x0#32, 0x0#32, 0x0#32⟩,  -- CORE_CYC_HI
   ⟨0x30, 1, 0, 1, 0, .core, 0x0#32, 0xFFFFFFFF#32, 0x0#32, 0x0#32, 0x0#32, 0x0#32, 0x0#32⟩,  -- CORE_LOCK_STATE
   ⟨0x34, 1, 0, 1, 0, .core, 0x0#32, 0xFFFFFFFF#32, 0x0#32, 0x0#32, 0x0#32, 0x0#32, 0x0#32⟩,  -- CORE_LOCK_OWNER
   ⟨0x38, 1, 0, 1, 0, .core, 0x0#32, 0xFF#32, 0x0#32, 0x0#32, 0x0#32, 0x0#32, 0x0#32⟩,  -- CORE_LOCK_WPOS
   ⟨0x100, 4, 64, 1, 0, .thr, 0x7FFF#32, 0x0#32, 0x0#32, 0x0#32, 0x0#32, 0x0#32, 0x0#32⟩,  -- CORE_THk_PC
   ⟨0x104, 4, 64, 1, 0, .core, 0x0#32, 0x7FFF#32, 0x0#32, 0x0#32, 0x0#32, 0x0#32, 0x0#32⟩,  -- CORE_THk_START
   ⟨0x108, 4, 64, 1, 0, .thr, 0xF3F7F#32, 0x0#32, 0x0#32, 0x0#32, 0x0#32, 0x0#32, 0x0#32⟩,  -- CORE_THk_STATUS
   ⟨0x10C, 4, 64, 1, 0, .core, 0x0#32, 0x7FFF#32, 0x0#32, 0x0#32, 0x0#32, 0x0#32, 0x0#32⟩,  -- CORE_THk_TVEC
   ⟨0x110, 4, 64, 1, 0, .thr, 0x7FFF#32, 0x0#32, 0x0#32, 0x0#32, 0x0#32, 0x0#32, 0x0#32⟩,  -- CORE_THk_EPC
   ⟨0x114, 4, 64, 1, 0, .thr, 0xC0FFFFFF#32, 0x0#32, 0x0#32, 0x0#32, 0x0#32, 0x0#32, 0x0#32⟩,  -- CORE_THk_CAUSE
   ⟨0x118, 4, 64, 1, 0, .thr, 0xFFFFFFFF#32, 0x0#32, 0x0#32, 0x0#32, 0x0#32, 0x0#32, 0x0#32⟩,  -- CORE_THk_FADDR
   ⟨0x11C, 4, 64, 1, 0, .core, 0xFFFF0000#32, 0xFFFF#32, 0x0#32, 0x0#32, 0x0#32, 0x0#32, 0x400#32⟩,  -- CORE_THk_WDOG
   ⟨0x120, 4, 64, 1, 0, .thr, 0xFFFFFFFF#32, 0x0#32, 0x0#32, 0x0#32, 0x0#32, 0x0#32, 0x0#32⟩,  -- CORE_THk_TCMP_LO
   ⟨0x124, 4, 64, 1, 0, .thr, 0xFFFFFFF#32, 0x0#32, 0x0#32, 0x0#32, 0x0#32, 0x0#32, 0x0#32⟩,  -- CORE_THk_TCMP_HI
   ⟨0x128, 4, 64, 1, 0, .thr, 0x1FFFF#32, 0x0#32, 0x0#32, 0x0#32, 0x0#32, 0x0#32, 0x0#32⟩,  -- CORE_THk_DSP
   ⟨0x12C, 4, 64, 1, 0, .core, 0x0#32, 0x1FFFF#32, 0x0#32, 0x0#32, 0x0#32, 0x0#32, 0x0#32⟩ ]  -- CORE_THk_DSLO

/-- The registers of a per-core window, by window offset, part 2. -/
def winRows2 : List RegRow :=
  [⟨0x130, 4, 64, 1, 0, .core, 0x0#32, 0x1FFFF#32, 0x0#32, 0x0#32, 0x0#32, 0x0#32, 0x0#32⟩,  -- CORE_THk_DSHI
   ⟨0x134, 4, 64, 1, 0, .thr, 0xF001FFFF#32, 0x0#32, 0x0#32, 0x0#32, 0x0#32, 0x0#32, 0x0#32⟩,  -- CORE_THk_WAITON
   ⟨0xC00, 8, 4, 1, 0, .core, 0x10#32, 0xFFFFF3E0#32, 0x0#32, 0x0#32, 0x0#32, 0x0#32, 0x0#32⟩,  -- TILE_CFGn
   ⟨0xC20, 8, 4, 1, 0, .core, 0x0#32, 0xFF81FFFF#32, 0x0#32, 0x0#32, 0x0#32, 0x0#32, 0x0#32⟩,  -- TILE_ACCn
   ⟨0xC40, 1, 0, 1, 0, .core, 0x0#32, 0xFFFFFFF0#32, 0x0#32, 0x0#32, 0x0#32, 0x0#32, 0x0#32⟩,  -- TILE_XCAP
   ⟨0xC44, 1, 0, 1, 0, .core, 0x0#32, 0xFFC0FFC0#32, 0x0#32, 0x0#32, 0x0#32, 0x0#32, 0x0#32⟩,  -- TILE_SROW
   ⟨0xC48, 1, 0, 1, 0, .core, 0xFFFF0F#32, 0x0#32, 0x0#32, 0x0#32, 0x0#32, 0x0#32, 0x0#32⟩,  -- TILE_QSTAT
   ⟨0xC4C, 1, 0, 1, 0, .core, 0x0#32, 0x37#32, 0x0#32, 0x100#32, 0x0#32, 0x0#32, 0x0#32⟩,  -- TILE_QSEL
   ⟨0xC50, 4, 4, 1, 0, .core, 0x0#32, 0xFFFFFFFF#32, 0x0#32, 0x0#32, 0x0#32, 0x0#32, 0x0#32⟩,  -- TILE_QDATAm
   ⟨0xC60, 1, 0, 1, 0, .core, 0x0#32, 0x7C7FF#32, 0x0#32, 0x0#32, 0x0#32, 0x0#32, 0x0#32⟩,  -- TILE_DPTR
   ⟨0xC64, 1, 0, 1, 0, .core, 0x0#32, 0xFFFFFFFF#32, 0x0#32, 0x0#32, 0x0#32, 0x0#32, 0x0#32⟩,  -- TILE_DDATA
   ⟨0x400, 1, 0, 1, 0, .core, 0x40FF001F#32, 0x0#32, 0xB0000000#32, 0x0#32, 0x0#32, 0x0#32, 0x0#32⟩,  -- DMA_SPERR_STAT
   ⟨0x404, 1, 0, 1, 0, .core, 0x1FFFF#32, 0x0#32, 0x0#32, 0x0#32, 0x0#32, 0x0#32, 0x0#32⟩,  -- DMA_SPERR_ADDR
   ⟨0x408, 1, 0, 1, 0, .core, 0x6001FFFF#32, 0x0#32, 0x80000000#32, 0x0#32, 0x0#32, 0x0#32, 0x0#32⟩,  -- DMA_RXOVR
   ⟨0x40C, 1, 0, 1, 0, .core, 0x0#32, 0xFFFF#32, 0x0#32, 0x0#32, 0x0#32, 0x0#32, 0x800#32⟩,  -- DMA_TLIMIT
   ⟨0x410, 1, 0, 1, 0, .core, 0xFFFFFFFF#32, 0x0#32, 0x0#32, 0x0#32, 0x0#32, 0x0#32, 0x0#32⟩,  -- DMA_CHSUM
   ⟨0x420, 8, 4, 1, 0, .core, 0x0#32, 0x83FFFFFF#32, 0x0#32, 0x0#32, 0x0#32, 0x0#32, 0x0#32⟩,  -- DMA_GUARDn
   ⟨0x440, 8, 4, 1, 0, .core, 0x0#32, 0xFFFFF#32, 0x0#32, 0x0#32, 0x0#32, 0x0#32, 0x0#32⟩,  -- DMA_CREDITn
   ⟨0x460, 1, 0, 1, 0, .core, 0x0#32, 0xFF#32, 0x0#32, 0x0#32, 0x0#32, 0x0#32, 0x0#32⟩,  -- DMA_VSEL
   ⟨0x464, 1, 0, 1, 0, .core, 0x0#32, 0xFFFFFFFF#32, 0x0#32, 0x0#32, 0x0#32, 0x0#32, 0x0#32⟩,  -- DMA_VDATA
   ⟨0x600, 8, 64, 8, 4, .core, 0x0#32, 0xFFFFFFFF#32, 0x0#32, 0x0#32, 0x0#32, 0x0#32, 0x0#32⟩,  -- DMA_CHc_DESCm
   ⟨0x620, 8, 64, 1, 0, .core, 0x0#32, 0xFFC1FFFF#32, 0x0#32, 0x0#32, 0x0#32, 0x0#32, 0x0#32⟩,  -- DMA_CHc_STAT
   ⟨0x624, 8, 64, 1, 0, .core, 0x0#32, 0xFFFF#32, 0x0#32, 0x0#32, 0x0#32, 0x0#32, 0x0#32⟩,  -- DMA_CHc_WORD
   ⟨0x628, 8, 64, 1, 0, .core, 0x0#32, 0xFFFFF#32, 0x0#32, 0x0#32, 0x0#32, 0x0#32, 0x0#32⟩ ]  -- DMA_CHc_GRANT

/-- The registers of a per-core window, by window offset, part 3. -/
def winRows3 : List RegRow :=
  [⟨0x62C, 8, 64, 1, 0, .core, 0x0#32, 0xFFFF#32, 0x0#32, 0x0#32, 0x0#32, 0x0#32, 0x0#32⟩,  -- DMA_CHc_TIMER
   ⟨0x630, 8, 64, 1, 0, .core, 0x0#32, 0xFFFFFFFF#32, 0x0#32, 0x0#32, 0x0#32, 0x0#32, 0x0#32⟩,  -- DMA_CHc_CMPCNT
   ⟨0x634, 8, 64, 1, 0, .core, 0x0#32, 0xFFFFFFFF#32, 0x0#32, 0x0#32, 0x0#32, 0x0#32, 0x0#32⟩,  -- DMA_CHc_CMPA_LO
   ⟨0x638, 8, 64, 1, 0, .core, 0x0#32, 0xFFFFFFFF#32, 0x0#32, 0x0#32, 0x0#32, 0x0#32, 0x0#32⟩,  -- DMA_CHc_CMPA_HI
   ⟨0x800, 1, 0, 1, 0, .core, 0x60#32, 0x801F000F#32, 0x0#32, 0x0#32, 0x0#32, 0x0#32, 0x0#32⟩,  -- MESH_BED
   ⟨0x804, 1, 0, 1, 0, .core, 0x0#32, 0x8F000FFF#32, 0x0#32, 0x0#32, 0x0#32, 0x0#32, 0x6000000#32⟩,  -- MESH_FHDR
   ⟨0x808, 1, 0, 1, 0, .core, 0x0#32, 0x8F000FFF#32, 0x0#32, 0x0#32, 0x0#32, 0x0#32, 0x6000000#32⟩,  -- MESH_BHDR
   ⟨0x80C, 1, 0, 1, 0, .core, 0x0#32, 0x8000FFFF#32, 0x40000000#32, 0x0#32, 0x0#32, 0x0#32, 0x0#32⟩,  -- MESH_SWITCH
   ⟨0x810, 1, 0, 1, 0, .core, 0x0#32, 0x80001FFF#32, 0x0#32, 0x0#32, 0x0#32, 0x0#32, 0x0#32⟩,  -- MESH_PSEL
   ⟨0x814, 1, 0, 1, 0, .core, 0x0#32, 0xF000FFFF#32, 0x0#32, 0x0#32, 0x0#32, 0x0#32, 0x0#32⟩,  -- MESH_PDATA
   ⟨0x818, 1, 0, 1, 0, .core, 0x77000FFF#32, 0x0#32, 0x80000000#32, 0x0#32, 0x0#32, 0x0#32, 0x0#32⟩,  -- MESH_ERR
   ⟨0x81C, 1, 0, 1, 0, .core, 0xFFFFFFFF#32, 0x0#32, 0x0#32, 0x0#32, 0x0#32, 0x0#32, 0x0#32⟩,  -- MESH_ERRFLOW
   ⟨0x820, 1, 0, 1, 0, .core, 0x0#32, 0x0#32, 0x0#32, 0x0#32, 0x0#32, 0xFFFFFFFF#32, 0x0#32⟩,  -- MESH_CNT
   ⟨0xA00, 1, 0, 1, 0, .core, 0xFFFFFFFF#32, 0x0#32, 0x0#32, 0x0#32, 0x0#32, 0x0#32, 0x0#32⟩,  -- FLAG_VAL_LO
   ⟨0xA04, 1, 0, 1, 0, .core, 0xFFFFFFFF#32, 0x0#32, 0x0#32, 0x0#32, 0x0#32, 0x0#32, 0x0#32⟩,  -- FLAG_VAL_HI
   ⟨0xA08, 1, 0, 1, 0, .core, 0x0#32, 0x0#32, 0x0#32, 0x0#32, 0xFFFFFFFF#32, 0x0#32, 0x0#32⟩,  -- FLAG_SET_LO
   ⟨0xA0C, 1, 0, 1, 0, .core, 0x0#32, 0x0#32, 0x0#32, 0x0#32, 0xFFFFFFFF#32, 0x0#32, 0x0#32⟩,  -- FLAG_SET_HI
   ⟨0xA10, 1, 0, 1, 0, .core, 0x0#32, 0x0#32, 0x0#32, 0x0#32, 0xFFFFFFFF#32, 0x0#32, 0x0#32⟩,  -- FLAG_CLR_LO
   ⟨0xA14, 1, 0, 1, 0, .core, 0x0#32, 0x0#32, 0x0#32, 0x0#32, 0xFFFFFFFF#32, 0x0#32, 0x0#32⟩,  -- FLAG_CLR_HI
   ⟨0xA18, 1, 0, 1, 0, .core, 0x0#32, 0xFFFFFFFF#32, 0x0#32, 0x0#32, 0x0#32, 0x0#32, 0x0#32⟩,  -- FLAG_SNAP_LO
   ⟨0xA1C, 1, 0, 1, 0, .core, 0x0#32, 0xFFFFFFFF#32, 0x0#32, 0x0#32, 0x0#32, 0x0#32, 0x0#32⟩,  -- FLAG_SNAP_HI
   ⟨0xA20, 1, 0, 1, 0, .core, 0x0#32, 0x0#32, 0xFFFFFFFF#32, 0x0#32, 0x0#32, 0x0#32, 0x0#32⟩,  -- FLAG_AUDIT_LO
   ⟨0xA24, 1, 0, 1, 0, .core, 0x0#32, 0x0#32, 0xFFFFFFFF#32, 0x0#32, 0x0#32, 0x0#32, 0x0#32⟩,  -- FLAG_AUDIT_HI
   ⟨0xA28, 1, 0, 1, 0, .core, 0x7C00FFFF#32, 0x0#32, 0x80000000#32, 0x0#32, 0x0#32, 0x0#32, 0x0#32⟩ ]  -- FLAG_ERR

/-- The registers of a per-core window, by window offset, part 4. -/
def winRows4 : List RegRow :=
  [⟨0xA2C, 1, 0, 1, 0, .core, 0x0#32, 0xFFFF#32, 0x0#32, 0x0#32, 0x0#32, 0x0#32, 0x0#32⟩,  -- FLAG_PHASE
   ⟨0xA30, 1, 0, 1, 0, .core, 0x0#32, 0xFFFFFFFF#32, 0x0#32, 0x0#32, 0x0#32, 0x0#32, 0x0#32⟩,  -- FLAG_TPH_LO
   ⟨0xA34, 1, 0, 1, 0, .core, 0x0#32, 0xFFFFFFFF#32, 0x0#32, 0x0#32, 0x0#32, 0x0#32, 0x0#32⟩,  -- FLAG_TPH_HI
   ⟨0xA40, 16, 4, 1, 0, .core, 0x0#32, 0xCFFFFFFF#32, 0x30000000#32, 0x0#32, 0x0#32, 0x0#32, 0x0#32⟩,  -- FLAG_BARCFGb
   ⟨0xA80, 1, 0, 1, 0, .core, 0x0#32, 0x0#32, 0x0#32, 0x0#32, 0xC000000F#32, 0x0#32, 0x0#32⟩,  -- FLAG_BARCMD
   ⟨0x880, 8, 4, 1, 0, .core, 0x0#32, 0xCFFFFFFF#32, 0x0#32, 0x0#32, 0x0#32, 0x0#32, 0x0#32⟩,  -- MESH_ROUTEr
   ⟨0x8C0, 16, 4, 1, 0, .core, 0x0#32, 0xFF70FFFF#32, 0x0#32, 0x0#32, 0x0#32, 0x0#32, 0x0#32⟩,  -- MESH_CONNc
   ⟨0x900, 8, 8, 1, 0, .core, 0x0#32, 0xFFFFFFFF#32, 0x0#32, 0x0#32, 0x0#32, 0x0#32, 0x0#32⟩,  -- MESH_RINGn
   ⟨0x904, 8, 8, 1, 0, .core, 0x0#32, 0x1FFF1FFF#32, 0x0#32, 0x0#32, 0x0#32, 0x0#32, 0x0#32⟩,  -- MESH_RPTRn
   ⟨0x940, 1, 0, 1, 0, .core, 0x0#32, 0x0#32, 0x0#32, 0x0#32, 0xC000000F#32, 0x0#32, 0x0#32⟩,  -- MESH_MCMD
   ⟨0x980, 8, 8, 1, 0, .core, 0x0#32, 0xC00001FF#32, 0x0#32, 0x0#32, 0x0#32, 0x0#32, 0x0#32⟩,  -- MESH_TAPRTr
   ⟨0x984, 8, 8, 1, 0, .core, 0x0#32, 0xFFFFFFFF#32, 0x0#32, 0x0#32, 0x0#32, 0x0#32, 0x0#32⟩,  -- MESH_TAPFLr
   ⟨0x9C0, 1, 0, 1, 0, .core, 0x40001FFF#32, 0x0#32, 0x80000000#32, 0x0#32, 0x0#32, 0x0#32, 0x0#32⟩,  -- MESH_ECC
   ⟨0x9C4, 1, 0, 1, 0, .core, 0x0#32, 0xFF#32, 0x0#32, 0x0#32, 0x0#32, 0x0#32, 0x0#32⟩,  -- MESH_PSNSEL
   ⟨0x9C8, 1, 0, 1, 0, .core, 0x0#32, 0xFFFFFFFF#32, 0x0#32, 0x0#32, 0x0#32, 0x0#32, 0x0#32⟩,  -- MESH_PSNDATA
   ⟨0x470, 1, 0, 1, 0, .core, 0x0#32, 0x0#32, 0x0#32, 0x0#32, 0xFFFFFFFF#32, 0x0#32, 0x0#32⟩,  -- DMA_XINV_LO
   ⟨0x474, 1, 0, 1, 0, .core, 0x0#32, 0x0#32, 0x0#32, 0x0#32, 0xC000000F#32, 0x0#32, 0x0#32⟩,  -- DMA_XINV_HI
   ⟨0x478, 1, 0, 1, 0, .core, 0x4FC00000#32, 0x0#32, 0x80000000#32, 0x0#32, 0x0#32, 0x0#32, 0x0#32⟩,  -- DMA_XFLT_STAT
   ⟨0x47C, 1, 0, 1, 0, .core, 0xFFFFFFFF#32, 0x0#32, 0x0#32, 0x0#32, 0x0#32, 0x0#32, 0x0#32⟩,  -- DMA_XFLT_LO
   ⟨0x480, 1, 0, 1, 0, .core, 0xFFFFF#32, 0x0#32, 0x0#32, 0x0#32, 0x0#32, 0x0#32, 0x0#32⟩,  -- DMA_XFLT_HI
   ⟨0xA84, 1, 0, 1, 0, .core, 0x40000000#32, 0x8000000F#32, 0x0#32, 0x0#32, 0x0#32, 0x0#32, 0x0#32⟩,  -- FLAG_PASSCFG
   ⟨0x9D0, 4, 4, 1, 0, .core, 0x0#32, 0xBFFFFFFF#32, 0x0#32, 0x0#32, 0x0#32, 0x0#32, 0x0#32⟩,  -- MESH_FABRTr
   ⟨0x200, 1, 0, 1, 0, .core, 0x0#32, 0x0#32, 0x0#32, 0x0#32, 0x30003#32, 0x0#32, 0x0#32⟩,  -- CORE_DBGCMD
   ⟨0x204, 1, 0, 1, 0, .core, 0xF0#32, 0xF#32, 0x0#32, 0x0#32, 0x0#32, 0x0#32, 0x0#32⟩ ]  -- CORE_DBGCFG

/-- The registers of a per-core window, by window offset, part 5. -/
def winRows5 : List RegRow :=
  [⟨0x210, 4, 4, 1, 0, .core, 0x0#32, 0xC0F07FFF#32, 0x0#32, 0x0#32, 0x0#32, 0x0#32, 0x0#32⟩,  -- CORE_BPn
   ⟨0x220, 1, 0, 1, 0, .core, 0x0#32, 0x3FF#32, 0x0#32, 0x0#32, 0x0#32, 0x0#32, 0x0#32⟩,  -- CORE_TRSEL
   ⟨0x224, 1, 0, 1, 0, .core, 0x0#32, 0xFFFFFFFF#32, 0x0#32, 0x0#32, 0x0#32, 0x0#32, 0x0#32⟩,  -- CORE_TRDATA
   ⟨0x228, 1, 0, 1, 0, .core, 0x0#32, 0x1FFFF#32, 0x80000000#32, 0x0#32, 0x0#32, 0x0#32, 0x0#32⟩,  -- CORE_SPADDR
   ⟨0x22C, 1, 0, 1, 0, .core, 0x0#32, 0xFFFFFFFF#32, 0x0#32, 0x0#32, 0x0#32, 0x0#32, 0x0#32⟩,  -- CORE_SPDATA
   ⟨0x230, 1, 0, 1, 0, .core, 0x0#32, 0xFFFFFFFF#32, 0x0#32, 0x0#32, 0x0#32, 0x0#32, 0x0#32⟩,  -- CORE_CNTSEL
   ⟨0x240, 4, 4, 1, 0, .core, 0x0#32, 0x0#32, 0x0#32, 0x0#32, 0x0#32, 0xFFFFFFFF#32, 0x0#32⟩,  -- CORE_CNTm
   ⟨0x250, 1, 0, 1, 0, .core, 0x20000000#32, 0xC000FFFF#32, 0x0#32, 0x0#32, 0x0#32, 0x0#32, 0x0#32⟩,  -- CORE_TRCFG
   ⟨0x254, 1, 0, 1, 0, .core, 0x0#32, 0xFFFFFFFF#32, 0x0#32, 0x0#32, 0x0#32, 0x0#32, 0x0#32⟩,  -- CORE_TRSTART
   ⟨0x258, 1, 0, 1, 0, .core, 0x0#32, 0x7FFF7FFF#32, 0x0#32, 0x0#32, 0x0#32, 0x0#32, 0x0#32⟩,  -- CORE_TRPC
   ⟨0x25C, 1, 0, 1, 0, .core, 0x1FF#32, 0x0#32, 0x8000#32, 0x0#32, 0x0#32, 0xFFFF0000#32, 0x0#32⟩,  -- CORE_TRSTAT
   ⟨0x260, 4, 4, 1, 0, .core, 0x0#32, 0x0#32, 0x0#32, 0x0#32, 0x0#32, 0xFFFFFFFF#32, 0x0#32⟩ ]  -- CORE_TRDATAm

/-- The registers of a per-core window, by window offset. -/
def winRows : List RegRow := winRows1 ++ winRows2 ++ winRows3 ++ winRows4 ++ winRows5

/-- The row of the register at an offset of a table, if the offset holds one. -/
def findRow (rows : List RegRow) (off : Nat) : Option RegRow := rows.find? (fun r => r.covers off)

/-- The reset word of a device register (00 R15); 0 where no register is. -/
def devReset (off : Nat) : Word := match findRow devRows off with | some r => r.reset | none => 0

/-- The reset word of a window register. -/
def winReset (off : Nat) : Word := match findRow winRows off with | some r => r.reset | none => 0

/-- The value of field `f` in word `w`. -/
def Fld.of (f : Fld) (w : Word) : Nat := (w.toNat >>> f.lo) % 2 ^ (f.hi - f.lo + 1)

/-- Word `w` with field `f` set to the low bits of `v`. -/
def Fld.put (f : Fld) (w : Word) (v : Nat) : Word :=
  let m := 2 ^ (f.hi - f.lo + 1)
  BitVec.ofNat 32 (w.toNat - ((w.toNat >>> f.lo) % m) <<< f.lo + (v % m) <<< f.lo)

/-- The mask of the field's bits. -/
def Fld.mask (f : Fld) : Word := BitVec.ofNat 32 ((2 ^ (f.hi - f.lo + 1) - 1) <<< f.lo)

/-- SPN_CTRL (02 R80). -/
abbrev R.SPN_CTRL : Nat := 0x100000
def F.SPN_CTRL_HOLD_BUDGET : Fld := ⟨R.SPN_CTRL, 23, 16⟩
def F.SPN_CTRL_FORCE_EN : Fld := ⟨R.SPN_CTRL, 15, 15⟩
def F.SPN_CTRL_FORCE_PORT : Fld := ⟨R.SPN_CTRL, 13, 8⟩
def F.SPN_CTRL_MASTER : Fld := ⟨R.SPN_CTRL, 1, 1⟩
def F.SPN_CTRL_LOCK_EN : Fld := ⟨R.SPN_CTRL, 0, 0⟩
/-- SPN_STATUS (02 R80). -/
abbrev R.SPN_STATUS : Nat := 0x100004
def F.SPN_STATUS_SRC_PORT : Fld := ⟨R.SPN_STATUS, 21, 16⟩
def F.SPN_STATUS_HOPS : Fld := ⟨R.SPN_STATUS, 11, 8⟩
def F.SPN_STATUS_STEP_PENDING : Fld := ⟨R.SPN_STATUS, 5, 5⟩
def F.SPN_STATUS_SLEWING : Fld := ⟨R.SPN_STATUS, 4, 4⟩
def F.SPN_STATUS_REFCLK_OK : Fld := ⟨R.SPN_STATUS, 3, 3⟩
def F.SPN_STATUS_STATE : Fld := ⟨R.SPN_STATUS, 2, 0⟩
/-- SPN_EVENT (02 R80). -/
abbrev R.SPN_EVENT : Nat := 0x100008
def F.SPN_EVENT_CTRL_REJECT : Fld := ⟨R.SPN_EVENT, 10, 10⟩
def F.SPN_EVENT_MARKER_MISMATCH : Fld := ⟨R.SPN_EVENT, 9, 9⟩
def F.SPN_EVENT_STEPPED : Fld := ⟨R.SPN_EVENT, 8, 8⟩
def F.SPN_EVENT_HOP_LIMIT : Fld := ⟨R.SPN_EVENT, 7, 7⟩
def F.SPN_EVENT_MASTER_CONFLICT : Fld := ⟨R.SPN_EVENT, 6, 6⟩
def F.SPN_EVENT_REFCLK_LOSS : Fld := ⟨R.SPN_EVENT, 5, 5⟩
def F.SPN_EVENT_LOST : Fld := ⟨R.SPN_EVENT, 4, 4⟩
def F.SPN_EVENT_HOLDOVER : Fld := ⟨R.SPN_EVENT, 3, 3⟩
def F.SPN_EVENT_SOURCE_CHANGE : Fld := ⟨R.SPN_EVENT, 2, 2⟩
def F.SPN_EVENT_LINK_MISS : Fld := ⟨R.SPN_EVENT, 1, 1⟩
def F.SPN_EVENT_LOCK_ACQ : Fld := ⟨R.SPN_EVENT, 0, 0⟩
/-- SPN_MASTER (02 R80). -/
abbrev R.SPN_MASTER : Nat := 0x10000C
def F.SPN_MASTER_VALID : Fld := ⟨R.SPN_MASTER, 16, 16⟩
def F.SPN_MASTER_MASTER_ID : Fld := ⟨R.SPN_MASTER, 15, 0⟩
/-- SPN_REV_LO (02 R80). -/
abbrev R.SPN_REV_LO : Nat := 0x100010
def F.SPN_REV_LO_REV_LO : Fld := ⟨R.SPN_REV_LO, 31, 0⟩
/-- SPN_REV_HI (02 R80). -/
abbrev R.SPN_REV_HI : Nat := 0x100014
def F.SPN_REV_HI_ANGLE : Fld := ⟨R.SPN_REV_HI, 27, 16⟩
def F.SPN_REV_HI_REV_HI : Fld := ⟨R.SPN_REV_HI, 15, 0⟩
/-- SPN_ANGLE (02 R80). -/
abbrev R.SPN_ANGLE : Nat := 0x100018
def F.SPN_ANGLE_ANGLE : Fld := ⟨R.SPN_ANGLE, 11, 0⟩
/-- SPN_PHASE_ERR (02 R80). -/
abbrev R.SPN_PHASE_ERR : Nat := 0x10001C
def F.SPN_PHASE_ERR_ERR : Fld := ⟨R.SPN_PHASE_ERR, 15, 0⟩
/-- SPN_DRIFT (02 R80). -/
abbrev R.SPN_DRIFT : Nat := 0x100020
def F.SPN_DRIFT_EST : Fld := ⟨R.SPN_DRIFT, 15, 0⟩
/-- SPN_LINKLOCK_LO (02 R80). -/
abbrev R.SPN_LINKLOCK_LO : Nat := 0x100024
def F.SPN_LINKLOCK_LO_PORT_LOCK : Fld := ⟨R.SPN_LINKLOCK_LO, 31, 0⟩
/-- SPN_LINKLOCK_HI (02 R80). -/
abbrev R.SPN_LINKLOCK_HI : Nat := 0x100028
def F.SPN_LINKLOCK_HI_PORT_LOCK : Fld := ⟨R.SPN_LINKLOCK_HI, 7, 0⟩
/-- SPN_REST_CMD (02 R80). -/
abbrev R.SPN_REST_CMD : Nat := 0x10002C
def F.SPN_REST_CMD_BED : Fld := ⟨R.SPN_REST_CMD, 20, 16⟩
def F.SPN_REST_CMD_COUNT : Fld := ⟨R.SPN_REST_CMD, 7, 0⟩
/-- SPN_REST_PEND (02 R80). -/
abbrev R.SPN_REST_PEND : Nat := 0x100030
def F.SPN_REST_PEND_PEND : Fld := ⟨R.SPN_REST_PEND, 31, 0⟩
/-- SPN_PORT_DLYn (02 R80). -/
abbrev R.SPN_PORT_DLY (i : Nat) : Nat := 0x100100 + 4 * i
def F.SPN_PORT_DLY_VALID (i : Nat) : Fld := ⟨R.SPN_PORT_DLY i, 31, 31⟩
def F.SPN_PORT_DLY_TRIM (i : Nat) : Fld := ⟨R.SPN_PORT_DLY i, 23, 16⟩
def F.SPN_PORT_DLY_DELAY (i : Nat) : Fld := ⟨R.SPN_PORT_DLY i, 15, 0⟩
/-- CORE_ID (03 R130). -/
abbrev R.CORE_ID : Nat := 0x0
def F.CORE_ID_REGION : Fld := ⟨R.CORE_ID, 30, 26⟩
def F.CORE_ID_PROW : Fld := ⟨R.CORE_ID, 25, 20⟩
def F.CORE_ID_PCOL : Fld := ⟨R.CORE_ID, 19, 13⟩
def F.CORE_ID_CORE : Fld := ⟨R.CORE_ID, 11, 0⟩
/-- CORE_CTRL (03 R130). -/
abbrev R.CORE_CTRL : Nat := 0x4
def F.CORE_CTRL_TRST : Fld := ⟨R.CORE_CTRL, 19, 16⟩
def F.CORE_CTRL_START : Fld := ⟨R.CORE_CTRL, 11, 8⟩
def F.CORE_CTRL_CRST : Fld := ⟨R.CORE_CTRL, 0, 0⟩
/-- CORE_STATUS (03 R130). -/
abbrev R.CORE_STATUS : Nat := 0x8
def F.CORE_STATUS_FSUM : Fld := ⟨R.CORE_STATUS, 17, 17⟩
def F.CORE_STATUS_PM_REJECT : Fld := ⟨R.CORE_STATUS, 16, 16⟩
def F.CORE_STATUS_TH3 : Fld := ⟨R.CORE_STATUS, 14, 12⟩
def F.CORE_STATUS_TH2 : Fld := ⟨R.CORE_STATUS, 10, 8⟩
def F.CORE_STATUS_TH1 : Fld := ⟨R.CORE_STATUS, 6, 4⟩
def F.CORE_STATUS_TH0 : Fld := ⟨R.CORE_STATUS, 2, 0⟩
/-- CORE_SUPV (03 R130). -/
abbrev R.CORE_SUPV : Nat := 0xC
def F.CORE_SUPV_VALID : Fld := ⟨R.CORE_SUPV, 16, 16⟩
def F.CORE_SUPV_SUPV : Fld := ⟨R.CORE_SUPV, 11, 0⟩
/-- CORE_FSQ (03 R130). -/
abbrev R.CORE_FSQ : Nat := 0x10
def F.CORE_FSQ_EMPTY : Fld := ⟨R.CORE_FSQ, 31, 31⟩
def F.CORE_FSQ_OVF : Fld := ⟨R.CORE_FSQ, 30, 30⟩
def F.CORE_FSQ_COUNT : Fld := ⟨R.CORE_FSQ, 14, 12⟩
def F.CORE_FSQ_CORE : Fld := ⟨R.CORE_FSQ, 11, 0⟩
/-- CORE_PM_ADDR (03 R130). -/
abbrev R.CORE_PM_ADDR : Nat := 0x14
def F.CORE_PM_ADDR_ADDR : Fld := ⟨R.CORE_PM_ADDR, 14, 0⟩
/-- CORE_PM_DATA (03 R130). -/
abbrev R.CORE_PM_DATA : Nat := 0x18
def F.CORE_PM_DATA_PERR : Fld := ⟨R.CORE_PM_DATA, 14, 14⟩
def F.CORE_PM_DATA_WORD : Fld := ⟨R.CORE_PM_DATA, 13, 0⟩
/-- CORE_CYC_LO (03 R130). -/
abbrev R.CORE_CYC_LO : Nat := 0x20
def F.CORE_CYC_LO_CYC_LO : Fld := ⟨R.CORE_CYC_LO, 31, 0⟩
/-- CORE_CYC_HI (03 R130). -/
abbrev R.CORE_CYC_HI : Nat := 0x24
def F.CORE_CYC_HI_CYC_HI : Fld := ⟨R.CORE_CYC_HI, 27, 0⟩
/-- CORE_LOCK_STATE (03 R130). -/
abbrev R.CORE_LOCK_STATE : Nat := 0x30
def F.CORE_LOCK_STATE_STATE : Fld := ⟨R.CORE_LOCK_STATE, 31, 0⟩
/-- CORE_LOCK_OWNER (03 R130). -/
abbrev R.CORE_LOCK_OWNER : Nat := 0x34
def F.CORE_LOCK_OWNER_OWNER : Fld := ⟨R.CORE_LOCK_OWNER, 31, 0⟩
/-- CORE_LOCK_WPOS (03 R130). -/
abbrev R.CORE_LOCK_WPOS : Nat := 0x38
def F.CORE_LOCK_WPOS_WPOS : Fld := ⟨R.CORE_LOCK_WPOS, 7, 0⟩
/-- CORE_THk_PC (03 R130). -/
abbrev R.CORE_TH_PC (i : Nat) : Nat := 0x100 + 64 * i
def F.CORE_TH_PC_PC (i : Nat) : Fld := ⟨R.CORE_TH_PC i, 14, 0⟩
/-- CORE_THk_START (03 R130). -/
abbrev R.CORE_TH_START (i : Nat) : Nat := 0x104 + 64 * i
def F.CORE_TH_START_START (i : Nat) : Fld := ⟨R.CORE_TH_START i, 14, 0⟩
/-- CORE_THk_STATUS (03 R130). -/
abbrev R.CORE_TH_STATUS (i : Nat) : Nat := 0x108 + 64 * i
def F.CORE_TH_STATUS_LA (i : Nat) : Fld := ⟨R.CORE_TH_STATUS i, 19, 16⟩
def F.CORE_TH_STATUS_TNV (i : Nat) : Fld := ⟨R.CORE_TH_STATUS i, 13, 13⟩
def F.CORE_TH_STATUS_NV (i : Nat) : Fld := ⟨R.CORE_TH_STATUS i, 12, 12⟩
def F.CORE_TH_STATUS_DZ (i : Nat) : Fld := ⟨R.CORE_TH_STATUS i, 11, 11⟩
def F.CORE_TH_STATUS_OF (i : Nat) : Fld := ⟨R.CORE_TH_STATUS i, 10, 10⟩
def F.CORE_TH_STATUS_UF (i : Nat) : Fld := ⟨R.CORE_TH_STATUS i, 9, 9⟩
def F.CORE_TH_STATUS_NX (i : Nat) : Fld := ⟨R.CORE_TH_STATUS i, 8, 8⟩
def F.CORE_TH_STATUS_TA (i : Nat) : Fld := ⟨R.CORE_TH_STATUS i, 6, 6⟩
def F.CORE_TH_STATUS_TF (i : Nat) : Fld := ⟨R.CORE_TH_STATUS i, 5, 5⟩
def F.CORE_TH_STATUS_IT (i : Nat) : Fld := ⟨R.CORE_TH_STATUS i, 4, 4⟩
def F.CORE_TH_STATUS_V (i : Nat) : Fld := ⟨R.CORE_TH_STATUS i, 3, 3⟩
def F.CORE_TH_STATUS_C (i : Nat) : Fld := ⟨R.CORE_TH_STATUS i, 2, 2⟩
def F.CORE_TH_STATUS_N (i : Nat) : Fld := ⟨R.CORE_TH_STATUS i, 1, 1⟩
def F.CORE_TH_STATUS_Z (i : Nat) : Fld := ⟨R.CORE_TH_STATUS i, 0, 0⟩
/-- CORE_THk_TVEC (03 R130). -/
abbrev R.CORE_TH_TVEC (i : Nat) : Nat := 0x10C + 64 * i
def F.CORE_TH_TVEC_TVEC (i : Nat) : Fld := ⟨R.CORE_TH_TVEC i, 14, 0⟩
/-- CORE_THk_EPC (03 R130). -/
abbrev R.CORE_TH_EPC (i : Nat) : Nat := 0x110 + 64 * i
def F.CORE_TH_EPC_EPC (i : Nat) : Fld := ⟨R.CORE_TH_EPC i, 14, 0⟩
/-- CORE_THk_CAUSE (03 R130). -/
abbrev R.CORE_TH_CAUSE (i : Nat) : Nat := 0x114 + 64 * i
def F.CORE_TH_CAUSE_VALID (i : Nat) : Fld := ⟨R.CORE_TH_CAUSE i, 31, 31⟩
def F.CORE_TH_CAUSE_DOUBLE (i : Nat) : Fld := ⟨R.CORE_TH_CAUSE i, 30, 30⟩
def F.CORE_TH_CAUSE_DCODE (i : Nat) : Fld := ⟨R.CORE_TH_CAUSE i, 23, 16⟩
def F.CORE_TH_CAUSE_DETAIL (i : Nat) : Fld := ⟨R.CORE_TH_CAUSE i, 15, 8⟩
def F.CORE_TH_CAUSE_CODE (i : Nat) : Fld := ⟨R.CORE_TH_CAUSE i, 7, 0⟩
/-- CORE_THk_FADDR (03 R130). -/
abbrev R.CORE_TH_FADDR (i : Nat) : Nat := 0x118 + 64 * i
def F.CORE_TH_FADDR_FADDR (i : Nat) : Fld := ⟨R.CORE_TH_FADDR i, 31, 0⟩
/-- CORE_THk_WDOG (03 R130). -/
abbrev R.CORE_TH_WDOG (i : Nat) : Nat := 0x11C + 64 * i
def F.CORE_TH_WDOG_COUNT (i : Nat) : Fld := ⟨R.CORE_TH_WDOG i, 31, 16⟩
def F.CORE_TH_WDOG_LIMIT (i : Nat) : Fld := ⟨R.CORE_TH_WDOG i, 15, 0⟩
/-- CORE_THk_TCMP_LO (03 R130). -/
abbrev R.CORE_TH_TCMP_LO (i : Nat) : Nat := 0x120 + 64 * i
def F.CORE_TH_TCMP_LO_TCMP_LO (i : Nat) : Fld := ⟨R.CORE_TH_TCMP_LO i, 31, 0⟩
/-- CORE_THk_TCMP_HI (03 R130). -/
abbrev R.CORE_TH_TCMP_HI (i : Nat) : Nat := 0x124 + 64 * i
def F.CORE_TH_TCMP_HI_TCMP_HI (i : Nat) : Fld := ⟨R.CORE_TH_TCMP_HI i, 27, 0⟩
/-- CORE_THk_DSP (03 R130). -/
abbrev R.CORE_TH_DSP (i : Nat) : Nat := 0x128 + 64 * i
def F.CORE_TH_DSP_DSP (i : Nat) : Fld := ⟨R.CORE_TH_DSP i, 16, 0⟩
/-- CORE_THk_DSLO (03 R130). -/
abbrev R.CORE_TH_DSLO (i : Nat) : Nat := 0x12C + 64 * i
def F.CORE_TH_DSLO_DSLO (i : Nat) : Fld := ⟨R.CORE_TH_DSLO i, 16, 0⟩
/-- CORE_THk_DSHI (03 R130). -/
abbrev R.CORE_TH_DSHI (i : Nat) : Nat := 0x130 + 64 * i
def F.CORE_TH_DSHI_DSHI (i : Nat) : Fld := ⟨R.CORE_TH_DSHI i, 16, 0⟩
/-- CORE_THk_WAITON (03 R130). -/
abbrev R.CORE_TH_WAITON (i : Nat) : Nat := 0x134 + 64 * i
def F.CORE_TH_WAITON_KIND (i : Nat) : Fld := ⟨R.CORE_TH_WAITON i, 31, 28⟩
def F.CORE_TH_WAITON_OBJ (i : Nat) : Fld := ⟨R.CORE_TH_WAITON i, 16, 0⟩
/-- TILE_CFGn (06 R241). -/
abbrev R.TILE_CFG (i : Nat) : Nat := 0xC00 + 4 * i
def F.TILE_CFG_CFG (i : Nat) : Fld := ⟨R.TILE_CFG i, 31, 31⟩
def F.TILE_CFG_OWNER (i : Nat) : Fld := ⟨R.TILE_CFG i, 30, 29⟩
def F.TILE_CFG_PM (i : Nat) : Fld := ⟨R.TILE_CFG i, 28, 28⟩
def F.TILE_CFG_FMT (i : Nat) : Fld := ⟨R.TILE_CFG i, 27, 24⟩
def F.TILE_CFG_ROWSM1 (i : Nat) : Fld := ⟨R.TILE_CFG i, 23, 18⟩
def F.TILE_CFG_BPRM1 (i : Nat) : Fld := ⟨R.TILE_CFG i, 17, 12⟩
def F.TILE_CFG_NV (i : Nat) : Fld := ⟨R.TILE_CFG i, 9, 9⟩
def F.TILE_CFG_DZ (i : Nat) : Fld := ⟨R.TILE_CFG i, 8, 8⟩
def F.TILE_CFG_OF (i : Nat) : Fld := ⟨R.TILE_CFG i, 7, 7⟩
def F.TILE_CFG_UF (i : Nat) : Fld := ⟨R.TILE_CFG i, 6, 6⟩
def F.TILE_CFG_NX (i : Nat) : Fld := ⟨R.TILE_CFG i, 5, 5⟩
def F.TILE_CFG_BUSY (i : Nat) : Fld := ⟨R.TILE_CFG i, 4, 4⟩
/-- TILE_ACCn (06 R241). -/
abbrev R.TILE_ACC (i : Nat) : Nat := 0xC20 + 4 * i
def F.TILE_ACC_PAIRV (i : Nat) : Fld := ⟨R.TILE_ACC i, 31, 31⟩
def F.TILE_ACC_FA (i : Nat) : Fld := ⟨R.TILE_ACC i, 30, 27⟩
def F.TILE_ACC_FB (i : Nat) : Fld := ⟨R.TILE_ACC i, 26, 23⟩
def F.TILE_ACC_COUNT (i : Nat) : Fld := ⟨R.TILE_ACC i, 16, 0⟩
/-- TILE_XCAP (06 R241). -/
abbrev R.TILE_XCAP : Nat := 0xC40
def F.TILE_XCAP_VALID : Fld := ⟨R.TILE_XCAP, 31, 31⟩
def F.TILE_XCAP_TB : Fld := ⟨R.TILE_XCAP, 30, 28⟩
def F.TILE_XCAP_THR : Fld := ⟨R.TILE_XCAP, 27, 26⟩
def F.TILE_XCAP_ROW : Fld := ⟨R.TILE_XCAP, 25, 20⟩
def F.TILE_XCAP_COL : Fld := ⟨R.TILE_XCAP, 19, 14⟩
def F.TILE_XCAP_K : Fld := ⟨R.TILE_XCAP, 13, 4⟩
/-- TILE_SROW (06 R241). -/
abbrev R.TILE_SROW : Nat := 0xC44
def F.TILE_SROW_PV : Fld := ⟨R.TILE_SROW, 31, 31⟩
def F.TILE_SROW_PH : Fld := ⟨R.TILE_SROW, 30, 30⟩
def F.TILE_SROW_PTHR : Fld := ⟨R.TILE_SROW, 29, 28⟩
def F.TILE_SROW_PROW : Fld := ⟨R.TILE_SROW, 27, 22⟩
def F.TILE_SROW_FV : Fld := ⟨R.TILE_SROW, 15, 15⟩
def F.TILE_SROW_FH : Fld := ⟨R.TILE_SROW, 14, 14⟩
def F.TILE_SROW_FTHR : Fld := ⟨R.TILE_SROW, 13, 12⟩
def F.TILE_SROW_FROW : Fld := ⟨R.TILE_SROW, 11, 6⟩
/-- TILE_QSTAT (06 R241). -/
abbrev R.TILE_QSTAT : Nat := 0xC48
def F.TILE_QSTAT_DCNT : Fld := ⟨R.TILE_QSTAT, 23, 20⟩
def F.TILE_QSTAT_LCNT : Fld := ⟨R.TILE_QSTAT, 19, 16⟩
def F.TILE_QSTAT_FCNT : Fld := ⟨R.TILE_QSTAT, 15, 12⟩
def F.TILE_QSTAT_PCNT : Fld := ⟨R.TILE_QSTAT, 11, 8⟩
def F.TILE_QSTAT_DBUSY : Fld := ⟨R.TILE_QSTAT, 3, 3⟩
def F.TILE_QSTAT_LBUSY : Fld := ⟨R.TILE_QSTAT, 2, 2⟩
def F.TILE_QSTAT_FBUSY : Fld := ⟨R.TILE_QSTAT, 1, 1⟩
def F.TILE_QSTAT_PBUSY : Fld := ⟨R.TILE_QSTAT, 0, 0⟩
/-- TILE_QSEL (06 R241). -/
abbrev R.TILE_QSEL : Nat := 0xC4C
def F.TILE_QSEL_PUSH : Fld := ⟨R.TILE_QSEL, 8, 8⟩
def F.TILE_QSEL_QUEUE : Fld := ⟨R.TILE_QSEL, 5, 4⟩
def F.TILE_QSEL_ENTRY : Fld := ⟨R.TILE_QSEL, 2, 0⟩
/-- TILE_QDATAm (06 R242). -/
abbrev R.TILE_QDATA (i : Nat) : Nat := 0xC50 + 4 * i
def F.TILE_QDATA_DATA (i : Nat) : Fld := ⟨R.TILE_QDATA i, 31, 0⟩
/-- TILE_DPTR (06 R242). -/
abbrev R.TILE_DPTR : Nat := 0xC60
def F.TILE_DPTR_BLANK : Fld := ⟨R.TILE_DPTR, 18, 16⟩
def F.TILE_DPTR_AREA : Fld := ⟨R.TILE_DPTR, 15, 14⟩
def F.TILE_DPTR_WORD : Fld := ⟨R.TILE_DPTR, 10, 0⟩
/-- TILE_DDATA (06 R242). -/
abbrev R.TILE_DDATA : Nat := 0xC64
def F.TILE_DDATA_DATA : Fld := ⟨R.TILE_DDATA, 31, 0⟩
/-- DMA_SPERR_STAT (07 R275). -/
abbrev R.DMA_SPERR_STAT : Nat := 0x400
def F.DMA_SPERR_STAT_VALID : Fld := ⟨R.DMA_SPERR_STAT, 31, 31⟩
def F.DMA_SPERR_STAT_MORE : Fld := ⟨R.DMA_SPERR_STAT, 30, 30⟩
def F.DMA_SPERR_STAT_FAIL : Fld := ⟨R.DMA_SPERR_STAT, 29, 29⟩
def F.DMA_SPERR_STAT_PERR : Fld := ⟨R.DMA_SPERR_STAT, 28, 28⟩
def F.DMA_SPERR_STAT_SRC : Fld := ⟨R.DMA_SPERR_STAT, 23, 21⟩
def F.DMA_SPERR_STAT_THR : Fld := ⟨R.DMA_SPERR_STAT, 20, 19⟩
def F.DMA_SPERR_STAT_CH : Fld := ⟨R.DMA_SPERR_STAT, 18, 16⟩
def F.DMA_SPERR_STAT_BANK : Fld := ⟨R.DMA_SPERR_STAT, 4, 0⟩
/-- DMA_SPERR_ADDR (07 R275). -/
abbrev R.DMA_SPERR_ADDR : Nat := 0x404
def F.DMA_SPERR_ADDR_WADDR : Fld := ⟨R.DMA_SPERR_ADDR, 16, 0⟩
/-- DMA_RXOVR (07 R275). -/
abbrev R.DMA_RXOVR : Nat := 0x408
def F.DMA_RXOVR_VALID : Fld := ⟨R.DMA_RXOVR, 31, 31⟩
def F.DMA_RXOVR_MORE : Fld := ⟨R.DMA_RXOVR, 30, 30⟩
def F.DMA_RXOVR_OUT : Fld := ⟨R.DMA_RXOVR, 29, 29⟩
def F.DMA_RXOVR_WADDR : Fld := ⟨R.DMA_RXOVR, 16, 0⟩
/-- DMA_TLIMIT (07 R275). -/
abbrev R.DMA_TLIMIT : Nat := 0x40C
def F.DMA_TLIMIT_LIMIT : Fld := ⟨R.DMA_TLIMIT, 15, 0⟩
/-- DMA_CHSUM (07 R275). -/
abbrev R.DMA_CHSUM : Nat := 0x410
def F.DMA_CHSUM_STATE : Fld := ⟨R.DMA_CHSUM, 31, 0⟩
/-- DMA_GUARDn (07 R275). -/
abbrev R.DMA_GUARD (i : Nat) : Nat := 0x420 + 4 * i
def F.DMA_GUARD_EN (i : Nat) : Fld := ⟨R.DMA_GUARD i, 31, 31⟩
def F.DMA_GUARD_COUNT (i : Nat) : Fld := ⟨R.DMA_GUARD i, 25, 13⟩
def F.DMA_GUARD_BASE (i : Nat) : Fld := ⟨R.DMA_GUARD i, 12, 0⟩
/-- DMA_CREDITn (07 R275). -/
abbrev R.DMA_CREDIT (i : Nat) : Nat := 0x440 + 4 * i
def F.DMA_CREDIT_BYTES (i : Nat) : Fld := ⟨R.DMA_CREDIT i, 19, 0⟩
/-- DMA_VSEL (07 R275). -/
abbrev R.DMA_VSEL : Nat := 0x460
def F.DMA_VSEL_INDEX : Fld := ⟨R.DMA_VSEL, 7, 0⟩
/-- DMA_VDATA (07 R275). -/
abbrev R.DMA_VDATA : Nat := 0x464
def F.DMA_VDATA_VALID : Fld := ⟨R.DMA_VDATA, 31, 0⟩
/-- DMA_CHc_DESCm (07 R275). -/
abbrev R.DMA_CH_DESC (i : Nat) (j : Nat) : Nat := 0x600 + 64 * i + 4 * j
def F.DMA_CH_DESC_DESC (i : Nat) (j : Nat) : Fld := ⟨R.DMA_CH_DESC i j, 31, 0⟩
/-- DMA_CHc_STAT (07 R275). -/
abbrev R.DMA_CH_STAT (i : Nat) : Nat := 0x620 + 64 * i
def F.DMA_CH_STAT_STATE (i : Nat) : Fld := ⟨R.DMA_CH_STAT i, 31, 29⟩
def F.DMA_CH_STAT_CODE (i : Nat) : Fld := ⟨R.DMA_CH_STAT i, 28, 24⟩
def F.DMA_CH_STAT_THR (i : Nat) : Fld := ⟨R.DMA_CH_STAT i, 23, 22⟩
def F.DMA_CH_STAT_ROWS (i : Nat) : Fld := ⟨R.DMA_CH_STAT i, 16, 0⟩
/-- DMA_CHc_WORD (07 R275). -/
abbrev R.DMA_CH_WORD (i : Nat) : Nat := 0x624 + 64 * i
def F.DMA_CH_WORD_WORD (i : Nat) : Fld := ⟨R.DMA_CH_WORD i, 15, 0⟩
/-- DMA_CHc_GRANT (07 R275). -/
abbrev R.DMA_CH_GRANT (i : Nat) : Nat := 0x628 + 64 * i
def F.DMA_CH_GRANT_BYTES (i : Nat) : Fld := ⟨R.DMA_CH_GRANT i, 19, 0⟩
/-- DMA_CHc_TIMER (07 R275). -/
abbrev R.DMA_CH_TIMER (i : Nat) : Nat := 0x62C + 64 * i
def F.DMA_CH_TIMER_COUNT (i : Nat) : Fld := ⟨R.DMA_CH_TIMER i, 15, 0⟩
/-- DMA_CHc_CMPCNT (07 R275). -/
abbrev R.DMA_CH_CMPCNT (i : Nat) : Nat := 0x630 + 64 * i
def F.DMA_CH_CMPCNT_COUNT (i : Nat) : Fld := ⟨R.DMA_CH_CMPCNT i, 31, 0⟩
/-- DMA_CHc_CMPA_LO (07 R275). -/
abbrev R.DMA_CH_CMPA_LO (i : Nat) : Nat := 0x634 + 64 * i
def F.DMA_CH_CMPA_LO_ADDR_LO (i : Nat) : Fld := ⟨R.DMA_CH_CMPA_LO i, 31, 0⟩
/-- DMA_CHc_CMPA_HI (07 R275). -/
abbrev R.DMA_CH_CMPA_HI (i : Nat) : Nat := 0x638 + 64 * i
def F.DMA_CH_CMPA_HI_ADDR_HI (i : Nat) : Fld := ⟨R.DMA_CH_CMPA_HI i, 31, 0⟩
/-- MESH_BED (08 R303). -/
abbrev R.MESH_BED : Nat := 0x800
def F.MESH_BED_VALID : Fld := ⟨R.MESH_BED, 31, 31⟩
def F.MESH_BED_BED : Fld := ⟨R.MESH_BED, 20, 16⟩
def F.MESH_BED_XP : Fld := ⟨R.MESH_BED, 6, 6⟩
def F.MESH_BED_TP : Fld := ⟨R.MESH_BED, 5, 5⟩
def F.MESH_BED_INBED : Fld := ⟨R.MESH_BED, 3, 0⟩
/-- MESH_FHDR (08 R303). -/
abbrev R.MESH_FHDR : Nat := 0x804
def F.MESH_FHDR_VALID : Fld := ⟨R.MESH_FHDR, 31, 31⟩
def F.MESH_FHDR_LOGP : Fld := ⟨R.MESH_FHDR, 27, 24⟩
def F.MESH_FHDR_DRAIN : Fld := ⟨R.MESH_FHDR, 11, 0⟩
/-- MESH_BHDR (08 R303). -/
abbrev R.MESH_BHDR : Nat := 0x808
def F.MESH_BHDR_VALID : Fld := ⟨R.MESH_BHDR, 31, 31⟩
def F.MESH_BHDR_LOGP : Fld := ⟨R.MESH_BHDR, 27, 24⟩
def F.MESH_BHDR_DRAIN : Fld := ⟨R.MESH_BHDR, 11, 0⟩
/-- MESH_SWITCH (08 R303). -/
abbrev R.MESH_SWITCH : Nat := 0x80C
def F.MESH_SWITCH_ARM : Fld := ⟨R.MESH_SWITCH, 31, 31⟩
def F.MESH_SWITCH_DONE : Fld := ⟨R.MESH_SWITCH, 30, 30⟩
def F.MESH_SWITCH_REV : Fld := ⟨R.MESH_SWITCH, 15, 0⟩
/-- MESH_PSEL (08 R303). -/
abbrev R.MESH_PSEL : Nat := 0x810
def F.MESH_PSEL_BANK : Fld := ⟨R.MESH_PSEL, 31, 31⟩
def F.MESH_PSEL_OUT : Fld := ⟨R.MESH_PSEL, 12, 10⟩
def F.MESH_PSEL_SLOT : Fld := ⟨R.MESH_PSEL, 9, 0⟩
/-- MESH_PDATA (08 R303). -/
abbrev R.MESH_PDATA : Nat := 0x814
def F.MESH_PDATA_V : Fld := ⟨R.MESH_PDATA, 31, 31⟩
def F.MESH_PDATA_IN : Fld := ⟨R.MESH_PDATA, 30, 28⟩
def F.MESH_PDATA_FLOW : Fld := ⟨R.MESH_PDATA, 15, 0⟩
/-- MESH_ERR (08 R303). -/
abbrev R.MESH_ERR : Nat := 0x818
def F.MESH_ERR_VALID : Fld := ⟨R.MESH_ERR, 31, 31⟩
def F.MESH_ERR_MORE : Fld := ⟨R.MESH_ERR, 30, 30⟩
def F.MESH_ERR_KIND : Fld := ⟨R.MESH_ERR, 29, 28⟩
def F.MESH_ERR_PORT : Fld := ⟨R.MESH_ERR, 26, 24⟩
def F.MESH_ERR_ANGLE : Fld := ⟨R.MESH_ERR, 11, 0⟩
/-- MESH_ERRFLOW (08 R303). -/
abbrev R.MESH_ERRFLOW : Nat := 0x81C
def F.MESH_ERRFLOW_EXPECT : Fld := ⟨R.MESH_ERRFLOW, 31, 16⟩
def F.MESH_ERRFLOW_GOT : Fld := ⟨R.MESH_ERRFLOW, 15, 0⟩
/-- MESH_CNT (08 R303). -/
abbrev R.MESH_CNT : Nat := 0x820
def F.MESH_CNT_STRAY : Fld := ⟨R.MESH_CNT, 31, 16⟩
def F.MESH_CNT_MISROUTE : Fld := ⟨R.MESH_CNT, 15, 0⟩
/-- FLAG_VAL_LO (08 R303). -/
abbrev R.FLAG_VAL_LO : Nat := 0xA00
def F.FLAG_VAL_LO_FLAGS : Fld := ⟨R.FLAG_VAL_LO, 31, 0⟩
/-- FLAG_VAL_HI (08 R303). -/
abbrev R.FLAG_VAL_HI : Nat := 0xA04
def F.FLAG_VAL_HI_FLAGS : Fld := ⟨R.FLAG_VAL_HI, 31, 0⟩
/-- FLAG_SET_LO (08 R303). -/
abbrev R.FLAG_SET_LO : Nat := 0xA08
def F.FLAG_SET_LO_SET : Fld := ⟨R.FLAG_SET_LO, 31, 0⟩
/-- FLAG_SET_HI (08 R303). -/
abbrev R.FLAG_SET_HI : Nat := 0xA0C
def F.FLAG_SET_HI_SET : Fld := ⟨R.FLAG_SET_HI, 31, 0⟩
/-- FLAG_CLR_LO (08 R303). -/
abbrev R.FLAG_CLR_LO : Nat := 0xA10
def F.FLAG_CLR_LO_CLR : Fld := ⟨R.FLAG_CLR_LO, 31, 0⟩
/-- FLAG_CLR_HI (08 R303). -/
abbrev R.FLAG_CLR_HI : Nat := 0xA14
def F.FLAG_CLR_HI_CLR : Fld := ⟨R.FLAG_CLR_HI, 31, 0⟩
/-- FLAG_SNAP_LO (08 R303). -/
abbrev R.FLAG_SNAP_LO : Nat := 0xA18
def F.FLAG_SNAP_LO_SNAP : Fld := ⟨R.FLAG_SNAP_LO, 31, 0⟩
/-- FLAG_SNAP_HI (08 R303). -/
abbrev R.FLAG_SNAP_HI : Nat := 0xA1C
def F.FLAG_SNAP_HI_SNAP : Fld := ⟨R.FLAG_SNAP_HI, 31, 0⟩
/-- FLAG_AUDIT_LO (08 R303). -/
abbrev R.FLAG_AUDIT_LO : Nat := 0xA20
def F.FLAG_AUDIT_LO_DIFF : Fld := ⟨R.FLAG_AUDIT_LO, 31, 0⟩
/-- FLAG_AUDIT_HI (08 R303). -/
abbrev R.FLAG_AUDIT_HI : Nat := 0xA24
def F.FLAG_AUDIT_HI_DIFF : Fld := ⟨R.FLAG_AUDIT_HI, 31, 0⟩
/-- FLAG_ERR (08 R303). -/
abbrev R.FLAG_ERR : Nat := 0xA28
def F.FLAG_ERR_VALID : Fld := ⟨R.FLAG_ERR, 31, 31⟩
def F.FLAG_ERR_MORE : Fld := ⟨R.FLAG_ERR, 30, 30⟩
def F.FLAG_ERR_KIND : Fld := ⟨R.FLAG_ERR, 29, 28⟩
def F.FLAG_ERR_THR : Fld := ⟨R.FLAG_ERR, 27, 26⟩
def F.FLAG_ERR_BAR : Fld := ⟨R.FLAG_ERR, 15, 12⟩
def F.FLAG_ERR_CORE : Fld := ⟨R.FLAG_ERR, 11, 0⟩
/-- FLAG_PHASE (08 R303). -/
abbrev R.FLAG_PHASE : Nat := 0xA2C
def F.FLAG_PHASE_PHASE : Fld := ⟨R.FLAG_PHASE, 15, 0⟩
/-- FLAG_TPH_LO (08 R303). -/
abbrev R.FLAG_TPH_LO : Nat := 0xA30
def F.FLAG_TPH_LO_TPH : Fld := ⟨R.FLAG_TPH_LO, 31, 16⟩
def F.FLAG_TPH_LO_TPH2 : Fld := ⟨R.FLAG_TPH_LO, 15, 0⟩
/-- FLAG_TPH_HI (08 R303). -/
abbrev R.FLAG_TPH_HI : Nat := 0xA34
def F.FLAG_TPH_HI_TPH : Fld := ⟨R.FLAG_TPH_HI, 31, 16⟩
def F.FLAG_TPH_HI_TPH2 : Fld := ⟨R.FLAG_TPH_HI, 15, 0⟩
/-- FLAG_BARCFGb (08 R303). -/
abbrev R.FLAG_BARCFG (i : Nat) : Nat := 0xA40 + 4 * i
def F.FLAG_BARCFG_EN (i : Nat) : Fld := ⟨R.FLAG_BARCFG i, 31, 31⟩
def F.FLAG_BARCFG_PHASE (i : Nat) : Fld := ⟨R.FLAG_BARCFG i, 30, 30⟩
def F.FLAG_BARCFG_OVER (i : Nat) : Fld := ⟨R.FLAG_BARCFG i, 29, 29⟩
def F.FLAG_BARCFG_AUD (i : Nat) : Fld := ⟨R.FLAG_BARCFG i, 28, 28⟩
def F.FLAG_BARCFG_COUNT (i : Nat) : Fld := ⟨R.FLAG_BARCFG i, 27, 14⟩
def F.FLAG_BARCFG_ARR (i : Nat) : Fld := ⟨R.FLAG_BARCFG i, 13, 0⟩
/-- FLAG_BARCMD (08 R303). -/
abbrev R.FLAG_BARCMD : Nat := 0xA80
def F.FLAG_BARCMD_CMD : Fld := ⟨R.FLAG_BARCMD, 31, 30⟩
def F.FLAG_BARCMD_BAR : Fld := ⟨R.FLAG_BARCMD, 3, 0⟩
/-- MESH_ROUTEr (09 R326). -/
abbrev R.MESH_ROUTE (i : Nat) : Nat := 0x880 + 4 * i
def F.MESH_ROUTE_VALID (i : Nat) : Fld := ⟨R.MESH_ROUTE i, 31, 31⟩
def F.MESH_ROUTE_BOUND (i : Nat) : Fld := ⟨R.MESH_ROUTE i, 30, 30⟩
def F.MESH_ROUTE_DEST (i : Nat) : Fld := ⟨R.MESH_ROUTE i, 27, 16⟩
def F.MESH_ROUTE_FLOW (i : Nat) : Fld := ⟨R.MESH_ROUTE i, 15, 0⟩
/-- MESH_CONNc (09 R326). -/
abbrev R.MESH_CONN (i : Nat) : Nat := 0x8C0 + 4 * i
def F.MESH_CONN_STATE (i : Nat) : Fld := ⟨R.MESH_CONN i, 31, 29⟩
def F.MESH_CONN_OWNER (i : Nat) : Fld := ⟨R.MESH_CONN i, 28, 27⟩
def F.MESH_CONN_RING (i : Nat) : Fld := ⟨R.MESH_CONN i, 26, 24⟩
def F.MESH_CONN_ROUTE (i : Nat) : Fld := ⟨R.MESH_CONN i, 22, 20⟩
def F.MESH_CONN_SEQ (i : Nat) : Fld := ⟨R.MESH_CONN i, 15, 0⟩
/-- MESH_RINGn (09 R326). -/
abbrev R.MESH_RING (i : Nat) : Nat := 0x900 + 8 * i
def F.MESH_RING_OPEN (i : Nat) : Fld := ⟨R.MESH_RING i, 31, 31⟩
def F.MESH_RING_DISP (i : Nat) : Fld := ⟨R.MESH_RING i, 30, 30⟩
def F.MESH_RING_OUT (i : Nat) : Fld := ⟨R.MESH_RING i, 29, 17⟩
def F.MESH_RING_HTAB (i : Nat) : Fld := ⟨R.MESH_RING i, 16, 0⟩
/-- MESH_RPTRn (09 R326). -/
abbrev R.MESH_RPTR (i : Nat) : Nat := 0x904 + 8 * i
def F.MESH_RPTR_TAIL (i : Nat) : Fld := ⟨R.MESH_RPTR i, 28, 16⟩
def F.MESH_RPTR_HEAD (i : Nat) : Fld := ⟨R.MESH_RPTR i, 12, 0⟩
/-- MESH_MCMD (09 R326). -/
abbrev R.MESH_MCMD : Nat := 0x940
def F.MESH_MCMD_CMD : Fld := ⟨R.MESH_MCMD, 31, 30⟩
def F.MESH_MCMD_TARGET : Fld := ⟨R.MESH_MCMD, 3, 0⟩
/-- MESH_TAPRTr (10 R355). -/
abbrev R.MESH_TAPRT (i : Nat) : Nat := 0x980 + 8 * i
def F.MESH_TAPRT_VALID (i : Nat) : Fld := ⟨R.MESH_TAPRT i, 31, 31⟩
def F.MESH_TAPRT_S (i : Nat) : Fld := ⟨R.MESH_TAPRT i, 30, 30⟩
def F.MESH_TAPRT_TAP (i : Nat) : Fld := ⟨R.MESH_TAPRT i, 8, 0⟩
/-- MESH_TAPFLr (10 R355). -/
abbrev R.MESH_TAPFL (i : Nat) : Nat := 0x984 + 8 * i
def F.MESH_TAPFL_RFLOW (i : Nat) : Fld := ⟨R.MESH_TAPFL i, 31, 16⟩
def F.MESH_TAPFL_FLOW (i : Nat) : Fld := ⟨R.MESH_TAPFL i, 15, 0⟩
/-- MESH_ECC (10 R355). -/
abbrev R.MESH_ECC : Nat := 0x9C0
def F.MESH_ECC_VALID : Fld := ⟨R.MESH_ECC, 31, 31⟩
def F.MESH_ECC_MORE : Fld := ⟨R.MESH_ECC, 30, 30⟩
def F.MESH_ECC_LINE : Fld := ⟨R.MESH_ECC, 12, 0⟩
/-- MESH_PSNSEL (10 R355). -/
abbrev R.MESH_PSNSEL : Nat := 0x9C4
def F.MESH_PSNSEL_INDEX : Fld := ⟨R.MESH_PSNSEL, 7, 0⟩
/-- MESH_PSNDATA (10 R355). -/
abbrev R.MESH_PSNDATA : Nat := 0x9C8
def F.MESH_PSNDATA_PSN : Fld := ⟨R.MESH_PSNDATA, 31, 0⟩
/-- MT_CTRL (10 R355). -/
abbrev R.MT_CTRL : Nat := 0x400000
def F.MT_CTRL_CE_LIMIT : Fld := ⟨R.MT_CTRL, 23, 16⟩
def F.MT_CTRL_RFORCE : Fld := ⟨R.MT_CTRL, 2, 2⟩
def F.MT_CTRL_SCRUB_EN : Fld := ⟨R.MT_CTRL, 1, 1⟩
def F.MT_CTRL_PF_EN : Fld := ⟨R.MT_CTRL, 0, 0⟩
/-- MT_STATUS (10 R355). -/
abbrev R.MT_STATUS : Nat := 0x400004
def F.MT_STATUS_RWIN : Fld := ⟨R.MT_STATUS, 23, 16⟩
def F.MT_STATUS_SPARE_MIN : Fld := ⟨R.MT_STATUS, 9, 0⟩
/-- MT_SC_CFG (10 R355). -/
abbrev R.MT_SC_CFG : Nat := 0x400008
def F.MT_SC_CFG_PAGES : Fld := ⟨R.MT_SC_CFG, 12, 0⟩
/-- MT_TAPERR (10 R355). -/
abbrev R.MT_TAPERR : Nat := 0x40000C
def F.MT_TAPERR_VALID : Fld := ⟨R.MT_TAPERR, 31, 31⟩
def F.MT_TAPERR_MORE : Fld := ⟨R.MT_TAPERR, 30, 30⟩
def F.MT_TAPERR_KIND : Fld := ⟨R.MT_TAPERR, 29, 28⟩
def F.MT_TAPERR_TAP : Fld := ⟨R.MT_TAPERR, 20, 12⟩
def F.MT_TAPERR_ANGLE : Fld := ⟨R.MT_TAPERR, 11, 0⟩
/-- MT_ELOG_STAT (10 R355). -/
abbrev R.MT_ELOG_STAT : Nat := 0x400010
def F.MT_ELOG_STAT_OVF : Fld := ⟨R.MT_ELOG_STAT, 31, 31⟩
def F.MT_ELOG_STAT_COUNT : Fld := ⟨R.MT_ELOG_STAT, 6, 0⟩
/-- MT_ELOG_LO (10 R356). -/
abbrev R.MT_ELOG_LO : Nat := 0x400014
def F.MT_ELOG_LO_ENTRY_LO : Fld := ⟨R.MT_ELOG_LO, 31, 0⟩
/-- MT_ELOG_HI (10 R356). -/
abbrev R.MT_ELOG_HI : Nat := 0x400018
def F.MT_ELOG_HI_ENTRY_HI : Fld := ⟨R.MT_ELOG_HI, 31, 0⟩
/-- MT_RMAP_CMD (10 R356). -/
abbrev R.MT_RMAP_CMD : Nat := 0x400020
def F.MT_RMAP_CMD_GO : Fld := ⟨R.MT_RMAP_CMD, 31, 31⟩
def F.MT_RMAP_CMD_TAP : Fld := ⟨R.MT_RMAP_CMD, 27, 19⟩
def F.MT_RMAP_CMD_ROW : Fld := ⟨R.MT_RMAP_CMD, 18, 0⟩
/-- MT_RMAP_STAT (10 R356). -/
abbrev R.MT_RMAP_STAT : Nat := 0x400024
def F.MT_RMAP_STAT_BUSY : Fld := ⟨R.MT_RMAP_STAT, 31, 31⟩
def F.MT_RMAP_STAT_DONE : Fld := ⟨R.MT_RMAP_STAT, 30, 30⟩
def F.MT_RMAP_STAT_NOSPARE : Fld := ⟨R.MT_RMAP_STAT, 29, 29⟩
def F.MT_RMAP_STAT_LEFT : Fld := ⟨R.MT_RMAP_STAT, 9, 0⟩
/-- MT_STR_SEL (10 R356). -/
abbrev R.MT_STR_SEL : Nat := 0x400030
def F.MT_STR_SEL_REGION : Fld := ⟨R.MT_STR_SEL, 12, 8⟩
def F.MT_STR_SEL_STREAM : Fld := ⟨R.MT_STR_SEL, 3, 0⟩
/-- MT_STR_CFG (10 R356). -/
abbrev R.MT_STR_CFG : Nat := 0x400034
def F.MT_STR_CFG_VALID : Fld := ⟨R.MT_STR_CFG, 31, 31⟩
def F.MT_STR_CFG_TWOD : Fld := ⟨R.MT_STR_CFG, 30, 30⟩
def F.MT_STR_CFG_CONF : Fld := ⟨R.MT_STR_CFG, 29, 27⟩
def F.MT_STR_CFG_SUSP : Fld := ⟨R.MT_STR_CFG, 26, 26⟩
def F.MT_STR_CFG_JOB : Fld := ⟨R.MT_STR_CFG, 23, 12⟩
def F.MT_STR_CFG_N1 : Fld := ⟨R.MT_STR_CFG, 11, 0⟩
/-- MT_STR_S1 (10 R356). -/
abbrev R.MT_STR_S1 : Nat := 0x400038
def F.MT_STR_S1_S1 : Fld := ⟨R.MT_STR_S1, 31, 0⟩
/-- MT_STR_S2 (10 R356). -/
abbrev R.MT_STR_S2 : Nat := 0x40003C
def F.MT_STR_S2_S2 : Fld := ⟨R.MT_STR_S2, 31, 0⟩
/-- MT_STR_BASE_LO (10 R356). -/
abbrev R.MT_STR_BASE_LO : Nat := 0x400040
def F.MT_STR_BASE_LO_BASE_LO : Fld := ⟨R.MT_STR_BASE_LO, 31, 0⟩
/-- MT_STR_BASE_HI (10 R356). -/
abbrev R.MT_STR_BASE_HI : Nat := 0x400044
def F.MT_STR_BASE_HI_BASE_HI : Fld := ⟨R.MT_STR_BASE_HI, 7, 0⟩
/-- MT_CEs (10 R356). -/
abbrev R.MT_CE (i : Nat) : Nat := 0x400100 + 4 * i
def F.MT_CE_COUNT (i : Nat) : Fld := ⟨R.MT_CE i, 31, 0⟩
/-- LP_CFG (10 R356). -/
abbrev R.LP_CFG : Nat := 0x408000
def F.LP_CFG_CAP : Fld := ⟨R.LP_CFG, 1, 1⟩
/-- LP_TRAINED (10 R356). -/
abbrev R.LP_TRAINED : Nat := 0x408004
def F.LP_TRAINED_CH : Fld := ⟨R.LP_TRAINED, 31, 0⟩
/-- LP_RETRAIN (10 R356). -/
abbrev R.LP_RETRAIN : Nat := 0x408008
def F.LP_RETRAIN_CH : Fld := ⟨R.LP_RETRAIN, 31, 0⟩
/-- LP_CHn_STAT (10 R356). -/
abbrev R.LP_CH_STAT (i : Nat) : Nat := 0x408100 + 4 * i
def F.LP_CH_STAT_LINKRTY (i : Nat) : Fld := ⟨R.LP_CH_STAT i, 31, 24⟩
def F.LP_CH_STAT_CE (i : Nat) : Fld := ⟨R.LP_CH_STAT i, 23, 12⟩
def F.LP_CH_STAT_UE (i : Nat) : Fld := ⟨R.LP_CH_STAT i, 11, 4⟩
def F.LP_CH_STAT_RFM (i : Nat) : Fld := ⟨R.LP_CH_STAT i, 0, 0⟩
/-- DMA_XINV_LO (11 R388). -/
abbrev R.DMA_XINV_LO : Nat := 0x470
def F.DMA_XINV_LO_VPN_LO : Fld := ⟨R.DMA_XINV_LO, 31, 0⟩
/-- DMA_XINV_HI (11 R388). -/
abbrev R.DMA_XINV_HI : Nat := 0x474
def F.DMA_XINV_HI_GO : Fld := ⟨R.DMA_XINV_HI, 31, 31⟩
def F.DMA_XINV_HI_ALL : Fld := ⟨R.DMA_XINV_HI, 30, 30⟩
def F.DMA_XINV_HI_VPN_HI : Fld := ⟨R.DMA_XINV_HI, 3, 0⟩
/-- DMA_XFLT_STAT (11 R388). -/
abbrev R.DMA_XFLT_STAT : Nat := 0x478
def F.DMA_XFLT_STAT_VALID : Fld := ⟨R.DMA_XFLT_STAT, 31, 31⟩
def F.DMA_XFLT_STAT_MORE : Fld := ⟨R.DMA_XFLT_STAT, 30, 30⟩
def F.DMA_XFLT_STAT_KIND : Fld := ⟨R.DMA_XFLT_STAT, 27, 26⟩
def F.DMA_XFLT_STAT_WR : Fld := ⟨R.DMA_XFLT_STAT, 25, 25⟩
def F.DMA_XFLT_STAT_CH : Fld := ⟨R.DMA_XFLT_STAT, 24, 22⟩
/-- DMA_XFLT_LO (11 R388). -/
abbrev R.DMA_XFLT_LO : Nat := 0x47C
def F.DMA_XFLT_LO_VA_LO : Fld := ⟨R.DMA_XFLT_LO, 31, 0⟩
/-- DMA_XFLT_HI (11 R388). -/
abbrev R.DMA_XFLT_HI : Nat := 0x480
def F.DMA_XFLT_HI_VA_HI : Fld := ⟨R.DMA_XFLT_HI, 19, 0⟩
/-- FLAG_PASSCFG (11 R388). -/
abbrev R.FLAG_PASSCFG : Nat := 0xA84
def F.FLAG_PASSCFG_EN : Fld := ⟨R.FLAG_PASSCFG, 31, 31⟩
def F.FLAG_PASSCFG_DONE : Fld := ⟨R.FLAG_PASSCFG, 30, 30⟩
def F.FLAG_PASSCFG_BAR : Fld := ⟨R.FLAG_PASSCFG, 3, 0⟩
/-- MT_XINV_LO (11 R388). -/
abbrev R.MT_XINV_LO : Nat := 0x400050
def F.MT_XINV_LO_VPN_LO : Fld := ⟨R.MT_XINV_LO, 31, 0⟩
/-- MT_XINV_HI (11 R388). -/
abbrev R.MT_XINV_HI : Nat := 0x400054
def F.MT_XINV_HI_GO : Fld := ⟨R.MT_XINV_HI, 31, 31⟩
def F.MT_XINV_HI_ALL : Fld := ⟨R.MT_XINV_HI, 30, 30⟩
def F.MT_XINV_HI_JOB : Fld := ⟨R.MT_XINV_HI, 15, 4⟩
def F.MT_XINV_HI_VPN_HI : Fld := ⟨R.MT_XINV_HI, 3, 0⟩
/-- MT_SHADOW_CFG (11 R388). -/
abbrev R.MT_SHADOW_CFG : Nat := 0x400058
def F.MT_SHADOW_CFG_SPAGES : Fld := ⟨R.MT_SHADOW_CFG, 12, 0⟩
/-- MT_SHADOW_STAT (11 R388). -/
abbrev R.MT_SHADOW_STAT : Nat := 0x40005C
def F.MT_SHADOW_STAT_FULL : Fld := ⟨R.MT_SHADOW_STAT, 31, 31⟩
def F.MT_SHADOW_STAT_TAP : Fld := ⟨R.MT_SHADOW_STAT, 21, 13⟩
def F.MT_SHADOW_STAT_FREE_MIN : Fld := ⟨R.MT_SHADOW_STAT, 12, 0⟩
/-- FX_CTRL (12 R424). -/
abbrev R.FX_CTRL : Nat := 0x300000
def F.FX_CTRL_MODULE : Fld := ⟨R.FX_CTRL, 31, 16⟩
def F.FX_CTRL_HOPLIM : Fld := ⟨R.FX_CTRL, 15, 12⟩
def F.FX_CTRL_EN : Fld := ⟨R.FX_CTRL, 0, 0⟩
/-- FX_ERR (12 R424). -/
abbrev R.FX_ERR : Nat := 0x300008
def F.FX_ERR_VALID : Fld := ⟨R.FX_ERR, 31, 31⟩
def F.FX_ERR_MORE : Fld := ⟨R.FX_ERR, 30, 30⟩
def F.FX_ERR_KIND : Fld := ⟨R.FX_ERR, 29, 26⟩
def F.FX_ERR_PORT : Fld := ⟨R.FX_ERR, 25, 20⟩
def F.FX_ERR_CTX : Fld := ⟨R.FX_ERR, 13, 0⟩
/-- FX_RTSEL (12 R424). -/
abbrev R.FX_RTSEL : Nat := 0x300010
def F.FX_RTSEL_DMOD : Fld := ⟨R.FX_RTSEL, 15, 0⟩
/-- FX_RTDATA (12 R424). -/
abbrev R.FX_RTDATA : Nat := 0x300014
def F.FX_RTDATA_VALID : Fld := ⟨R.FX_RTDATA, 31, 31⟩
def F.FX_RTDATA_DL : Fld := ⟨R.FX_RTDATA, 30, 30⟩
def F.FX_RTDATA_PRI : Fld := ⟨R.FX_RTDATA, 21, 16⟩
def F.FX_RTDATA_ALT : Fld := ⟨R.FX_RTDATA, 13, 8⟩
def F.FX_RTDATA_ALTV : Fld := ⟨R.FX_RTDATA, 7, 7⟩
def F.FX_RTDATA_ONALT : Fld := ⟨R.FX_RTDATA, 0, 0⟩
/-- FX_CTXSEL (12 R424). -/
abbrev R.FX_CTXSEL : Nat := 0x300018
def F.FX_CTXSEL_CTX : Fld := ⟨R.FX_CTXSEL, 13, 0⟩
/-- FX_CTXDATAm (12 R424). -/
abbrev R.FX_CTXDATA (i : Nat) : Nat := 0x300020 + 4 * i
def F.FX_CTXDATA_DATA (i : Nat) : Fld := ⟨R.FX_CTXDATA i, 31, 0⟩
/-- FX_XINV_LO (12 R424). -/
abbrev R.FX_XINV_LO : Nat := 0x300040
def F.FX_XINV_LO_VPN_LO : Fld := ⟨R.FX_XINV_LO, 31, 0⟩
/-- FX_XINV_HI (12 R424). -/
abbrev R.FX_XINV_HI : Nat := 0x300044
def F.FX_XINV_HI_GO : Fld := ⟨R.FX_XINV_HI, 31, 31⟩
def F.FX_XINV_HI_ALL : Fld := ⟨R.FX_XINV_HI, 30, 30⟩
def F.FX_XINV_HI_JOB : Fld := ⟨R.FX_XINV_HI, 15, 4⟩
def F.FX_XINV_HI_VPN_HI : Fld := ⟨R.FX_XINV_HI, 3, 0⟩
/-- FX_PORTn_CTRL (12 R424). -/
abbrev R.FX_PORT_CTRL (i : Nat) : Nat := 0x300100 + 16 * i
def F.FX_PORT_CTRL_TRAIN (i : Nat) : Fld := ⟨R.FX_PORT_CTRL i, 1, 1⟩
def F.FX_PORT_CTRL_EN (i : Nat) : Fld := ⟨R.FX_PORT_CTRL i, 0, 0⟩
/-- FX_PORTn_STAT (12 R424). -/
abbrev R.FX_PORT_STAT (i : Nat) : Nat := 0x300104 + 16 * i
def F.FX_PORT_STAT_STATE (i : Nat) : Fld := ⟨R.FX_PORT_STAT i, 31, 30⟩
def F.FX_PORT_STAT_CAUSE (i : Nat) : Fld := ⟨R.FX_PORT_STAT i, 29, 28⟩
def F.FX_PORT_STAT_PPORT (i : Nat) : Fld := ⟨R.FX_PORT_STAT i, 27, 22⟩
def F.FX_PORT_STAT_PMOD (i : Nat) : Fld := ⟨R.FX_PORT_STAT i, 15, 0⟩
/-- FX_PORTn_RETRY (12 R424). -/
abbrev R.FX_PORT_RETRY (i : Nat) : Nat := 0x300108 + 16 * i
def F.FX_PORT_RETRY_REPLAY (i : Nat) : Fld := ⟨R.FX_PORT_RETRY i, 31, 16⟩
def F.FX_PORT_RETRY_NAK (i : Nat) : Fld := ⟨R.FX_PORT_RETRY i, 15, 0⟩
/-- FX_PORTn_FEC (12 R424). -/
abbrev R.FX_PORT_FEC (i : Nat) : Nat := 0x30010C + 16 * i
def F.FX_PORT_FEC_UNCORR (i : Nat) : Fld := ⟨R.FX_PORT_FEC i, 31, 16⟩
def F.FX_PORT_FEC_CORR (i : Nat) : Fld := ⟨R.FX_PORT_FEC i, 15, 0⟩
/-- MESH_FABRTr (12 R424). -/
abbrev R.MESH_FABRT (i : Nat) : Nat := 0x9D0 + 4 * i
def F.MESH_FABRT_VALID (i : Nat) : Fld := ⟨R.MESH_FABRT i, 31, 31⟩
def F.MESH_FABRT_CTX (i : Nat) : Fld := ⟨R.MESH_FABRT i, 29, 16⟩
def F.MESH_FABRT_FLOW (i : Nat) : Fld := ⟨R.MESH_FABRT i, 15, 0⟩
/-- FX_RED_CTRL (13 R456). -/
abbrev R.FX_RED_CTRL : Nat := 0x300080
def F.FX_RED_CTRL_EN : Fld := ⟨R.FX_RED_CTRL, 0, 0⟩
/-- FX_RED_STAT (13 R456). -/
abbrev R.FX_RED_STAT : Nat := 0x300084
def F.FX_RED_STAT_FREE : Fld := ⟨R.FX_RED_STAT, 17, 0⟩
/-- FX_RED_ERR (13 R456). -/
abbrev R.FX_RED_ERR : Nat := 0x300088
def F.FX_RED_ERR_VALID : Fld := ⟨R.FX_RED_ERR, 31, 31⟩
def F.FX_RED_ERR_MORE : Fld := ⟨R.FX_RED_ERR, 30, 30⟩
def F.FX_RED_ERR_KIND : Fld := ⟨R.FX_RED_ERR, 29, 26⟩
def F.FX_RED_ERR_RID : Fld := ⟨R.FX_RED_ERR, 25, 16⟩
def F.FX_RED_ERR_SEG : Fld := ⟨R.FX_RED_ERR, 15, 0⟩
/-- FX_RED_ERRK (13 R456). -/
abbrev R.FX_RED_ERRK : Nat := 0x30008C
def F.FX_RED_ERRK_CONTRIB : Fld := ⟨R.FX_RED_ERRK, 23, 0⟩
/-- FX_RED_CNT (13 R456). -/
abbrev R.FX_RED_CNT : Nat := 0x300090
def F.FX_RED_CNT_UNCMP : Fld := ⟨R.FX_RED_CNT, 31, 16⟩
def F.FX_RED_CNT_DUP : Fld := ⟨R.FX_RED_CNT, 15, 0⟩
/-- FX_RED_SEL (13 R456). -/
abbrev R.FX_RED_SEL : Nat := 0x300094
def F.FX_RED_SEL_RID : Fld := ⟨R.FX_RED_SEL, 9, 0⟩
/-- FX_RED_DATAm (13 R456). -/
abbrev R.FX_RED_DATA (i : Nat) : Nat := 0x3000A0 + 4 * i
def F.FX_RED_DATA_DATA (i : Nat) : Fld := ⟨R.FX_RED_DATA i, 31, 0⟩
/-- DEV_ID (15 R485). -/
abbrev R.DEV_ID : Nat := 0x0
def F.DEV_ID_VENDOR : Fld := ⟨R.DEV_ID, 31, 16⟩
def F.DEV_ID_PART : Fld := ⟨R.DEV_ID, 15, 0⟩
/-- DEV_ORDER (15 R485). -/
abbrev R.DEV_ORDER : Nat := 0x4
def F.DEV_ORDER_WIDTH : Fld := ⟨R.DEV_ORDER, 31, 24⟩
def F.DEV_ORDER_LPGIB : Fld := ⟨R.DEV_ORDER, 23, 12⟩
def F.DEV_ORDER_CORES : Fld := ⟨R.DEV_ORDER, 11, 0⟩
/-- DEV_STEP (15 R485). -/
abbrev R.DEV_STEP : Nat := 0x8
def F.DEV_STEP_MAJOR : Fld := ⟨R.DEV_STEP, 15, 8⟩
def F.DEV_STEP_MINOR : Fld := ⟨R.DEV_STEP, 7, 0⟩
/-- DEV_SERIAL_LO (15 R485). -/
abbrev R.DEV_SERIAL_LO : Nat := 0xC
def F.DEV_SERIAL_LO_SERIAL : Fld := ⟨R.DEV_SERIAL_LO, 31, 0⟩
/-- DEV_SERIAL_HI (15 R485). -/
abbrev R.DEV_SERIAL_HI : Nat := 0x10
def F.DEV_SERIAL_HI_SERIAL : Fld := ⟨R.DEV_SERIAL_HI, 31, 0⟩
/-- DEV_STATUS (15 R485). -/
abbrev R.DEV_STATUS : Nat := 0x14
def F.DEV_STATUS_BEDS : Fld := ⟨R.DEV_STATUS, 13, 8⟩
def F.DEV_STATUS_FAULT : Fld := ⟨R.DEV_STATUS, 4, 4⟩
def F.DEV_STATUS_STATE : Fld := ⟨R.DEV_STATUS, 3, 1⟩
def F.DEV_STATUS_READY : Fld := ⟨R.DEV_STATUS, 0, 0⟩
/-- DEV_MODULE (15 R485). -/
abbrev R.DEV_MODULE : Nat := 0x18
def F.DEV_MODULE_VALID : Fld := ⟨R.DEV_MODULE, 31, 31⟩
def F.DEV_MODULE_MODULE : Fld := ⟨R.DEV_MODULE, 15, 0⟩
/-- HL_STATUS (15 R485). -/
abbrev R.HL_STATUS : Nat := 0x200004
def F.HL_STATUS_LINK : Fld := ⟨R.HL_STATUS, 1, 0⟩
/-- HL_ACCERR (15 R485). -/
abbrev R.HL_ACCERR : Nat := 0x200008
def F.HL_ACCERR_VALID : Fld := ⟨R.HL_ACCERR, 31, 31⟩
def F.HL_ACCERR_MORE : Fld := ⟨R.HL_ACCERR, 30, 30⟩
def F.HL_ACCERR_KIND : Fld := ⟨R.HL_ACCERR, 29, 28⟩
def F.HL_ACCERR_OFFSET : Fld := ⟨R.HL_ACCERR, 25, 0⟩
/-- HL_EVTCFG (15 R485). -/
abbrev R.HL_EVTCFG : Nat := 0x20000C
def F.HL_EVTCFG_EN : Fld := ⟨R.HL_EVTCFG, 31, 31⟩
def F.HL_EVTCFG_RING : Fld := ⟨R.HL_EVTCFG, 3, 0⟩
/-- HL_EVTLOST (15 R485). -/
abbrev R.HL_EVTLOST : Nat := 0x200010
def F.HL_EVTLOST_COUNT : Fld := ⟨R.HL_EVTLOST, 15, 0⟩
/-- HL_CNT (15 R485). -/
abbrev R.HL_CNT : Nat := 0x200014
def F.HL_CNT_BADPKT : Fld := ⟨R.HL_CNT, 31, 16⟩
def F.HL_CNT_RETRY : Fld := ⟨R.HL_CNT, 15, 0⟩
/-- HL_RINGSEL (15 R485). -/
abbrev R.HL_RINGSEL : Nat := 0x200020
def F.HL_RINGSEL_KIND : Fld := ⟨R.HL_RINGSEL, 4, 4⟩
def F.HL_RINGSEL_RING : Fld := ⟨R.HL_RINGSEL, 3, 0⟩
/-- HL_RBASE_LO (15 R485). -/
abbrev R.HL_RBASE_LO : Nat := 0x200024
def F.HL_RBASE_LO_BASE : Fld := ⟨R.HL_RBASE_LO, 31, 0⟩
/-- HL_RBASE_HI (15 R485). -/
abbrev R.HL_RBASE_HI : Nat := 0x200028
def F.HL_RBASE_HI_BASE : Fld := ⟨R.HL_RBASE_HI, 31, 0⟩
/-- HL_RCFG (15 R485). -/
abbrev R.HL_RCFG : Nat := 0x20002C
def F.HL_RCFG_EN : Fld := ⟨R.HL_RCFG, 31, 31⟩
def F.HL_RCFG_ERR : Fld := ⟨R.HL_RCFG, 30, 30⟩
def F.HL_RCFG_VEC : Fld := ⟨R.HL_RCFG, 29, 24⟩
def F.HL_RCFG_IEN : Fld := ⟨R.HL_RCFG, 23, 23⟩
def F.HL_RCFG_PHASE : Fld := ⟨R.HL_RCFG, 22, 22⟩
def F.HL_RCFG_LOGSIZE : Fld := ⟨R.HL_RCFG, 19, 16⟩
def F.HL_RCFG_CQ : Fld := ⟨R.HL_RCFG, 15, 12⟩
/-- HL_RIDX (15 R485). -/
abbrev R.HL_RIDX : Nat := 0x200030
def F.HL_RIDX_TAIL : Fld := ⟨R.HL_RIDX, 31, 16⟩
def F.HL_RIDX_HEAD : Fld := ⟨R.HL_RIDX, 15, 0⟩
/-- HL_ICOAL (15 R485). -/
abbrev R.HL_ICOAL : Nat := 0x200034
def F.HL_ICOAL_ITIME : Fld := ⟨R.HL_ICOAL, 31, 16⟩
def F.HL_ICOAL_ICNT : Fld := ⟨R.HL_ICOAL, 15, 0⟩
/-- HS_CTRL (16 R506). -/
abbrev R.HS_CTRL : Nat := 0x10000
def F.HS_CTRL_REBOOT : Fld := ⟨R.HS_CTRL, 0, 0⟩
/-- HS_BOOT_STAT (16 R506). -/
abbrev R.HS_BOOT_STAT : Nat := 0x10004
def F.HS_BOOT_STAT_FAIL : Fld := ⟨R.HS_BOOT_STAT, 31, 31⟩
def F.HS_BOOT_STAT_RECOVERED : Fld := ⟨R.HS_BOOT_STAT, 30, 30⟩
def F.HS_BOOT_STAT_IDK : Fld := ⟨R.HS_BOOT_STAT, 29, 29⟩
def F.HS_BOOT_STAT_STEP : Fld := ⟨R.HS_BOOT_STAT, 18, 16⟩
def F.HS_BOOT_STAT_CAUSE : Fld := ⟨R.HS_BOOT_STAT, 4, 0⟩
/-- HS_READY_REV (16 R506). -/
abbrev R.HS_READY_REV : Nat := 0x10008
def F.HS_READY_REV_REV : Fld := ⟨R.HS_READY_REV, 31, 0⟩
/-- HS_FW_VER (16 R506). -/
abbrev R.HS_FW_VER : Nat := 0x1000C
def F.HS_FW_VER_FWVER : Fld := ⟨R.HS_FW_VER, 31, 0⟩
/-- HS_FW_SEC (16 R506). -/
abbrev R.HS_FW_SEC : Nat := 0x10010
def F.HS_FW_SEC_REVOKED : Fld := ⟨R.HS_FW_SEC, 31, 28⟩
def F.HS_FW_SEC_KEYSLOT : Fld := ⟨R.HS_FW_SEC, 27, 26⟩
def F.HS_FW_SEC_FUSE_SVN : Fld := ⟨R.HS_FW_SEC, 23, 16⟩
def F.HS_FW_SEC_SB_SVN : Fld := ⟨R.HS_FW_SEC, 15, 8⟩
def F.HS_FW_SEC_SVN : Fld := ⟨R.HS_FW_SEC, 7, 0⟩
/-- HS_PAIR (16 R506). -/
abbrev R.HS_PAIR : Nat := 0x10014
def F.HS_PAIR_ACTIVE : Fld := ⟨R.HS_PAIR, 31, 31⟩
def F.HS_PAIR_SB : Fld := ⟨R.HS_PAIR, 30, 29⟩
def F.HS_PAIR_CONF : Fld := ⟨R.HS_PAIR, 28, 28⟩
def F.HS_PAIR_HREV : Fld := ⟨R.HS_PAIR, 15, 0⟩
/-- HS_RECOV_ADDR_LO (16 R506). -/
abbrev R.HS_RECOV_ADDR_LO : Nat := 0x10020
def F.HS_RECOV_ADDR_LO_ADDR : Fld := ⟨R.HS_RECOV_ADDR_LO, 31, 0⟩
/-- HS_RECOV_ADDR_HI (16 R506). -/
abbrev R.HS_RECOV_ADDR_HI : Nat := 0x10024
def F.HS_RECOV_ADDR_HI_ADDR : Fld := ⟨R.HS_RECOV_ADDR_HI, 31, 0⟩
/-- HS_RECOV_LEN (16 R506). -/
abbrev R.HS_RECOV_LEN : Nat := 0x10028
def F.HS_RECOV_LEN_LEN : Fld := ⟨R.HS_RECOV_LEN, 20, 0⟩
/-- HS_RECOV_CMD (16 R506). -/
abbrev R.HS_RECOV_CMD : Nat := 0x1002C
def F.HS_RECOV_CMD_GO : Fld := ⟨R.HS_RECOV_CMD, 31, 31⟩
def F.HS_RECOV_CMD_WRFLASH : Fld := ⟨R.HS_RECOV_CMD, 30, 30⟩
/-- HS_RECOV_STAT (16 R506). -/
abbrev R.HS_RECOV_STAT : Nat := 0x10030
def F.HS_RECOV_STAT_BUSY : Fld := ⟨R.HS_RECOV_STAT, 31, 31⟩
def F.HS_RECOV_STAT_DONE : Fld := ⟨R.HS_RECOV_STAT, 30, 30⟩
def F.HS_RECOV_STAT_ERR : Fld := ⟨R.HS_RECOV_STAT, 29, 29⟩
def F.HS_RECOV_STAT_CAUSE : Fld := ⟨R.HS_RECOV_STAT, 4, 0⟩
/-- HS_ELOG_STAT (17 R526). -/
abbrev R.HS_ELOG_STAT : Nat := 0x10040
def F.HS_ELOG_STAT_OVF : Fld := ⟨R.HS_ELOG_STAT, 31, 31⟩
def F.HS_ELOG_STAT_COUNT : Fld := ⟨R.HS_ELOG_STAT, 8, 0⟩
/-- HS_ELOG_Dm (17 R526). -/
abbrev R.HS_ELOG_D (i : Nat) : Nat := 0x10044 + 4 * i
def F.HS_ELOG_D_DATA (i : Nat) : Fld := ⟨R.HS_ELOG_D i, 31, 0⟩
/-- HS_RETIRE_STAT (17 R526). -/
abbrev R.HS_RETIRE_STAT : Nat := 0x10054
def F.HS_RETIRE_STAT_PENDING : Fld := ⟨R.HS_RETIRE_STAT, 15, 8⟩
def F.HS_RETIRE_STAT_COUNT : Fld := ⟨R.HS_RETIRE_STAT, 7, 0⟩
/-- HS_NOSPARE_LO (17 R526). -/
abbrev R.HS_NOSPARE_LO : Nat := 0x10058
def F.HS_NOSPARE_LO_ROWS : Fld := ⟨R.HS_NOSPARE_LO, 31, 0⟩
/-- HS_NOSPARE_HI (17 R526). -/
abbrev R.HS_NOSPARE_HI : Nat := 0x1005C
def F.HS_NOSPARE_HI_ROWS : Fld := ⟨R.HS_NOSPARE_HI, 31, 0⟩
/-- PW_CTRL (18 R544). -/
abbrev R.PW_CTRL : Nat := 0x500000
def F.PW_CTRL_IBI_EN : Fld := ⟨R.PW_CTRL, 1, 1⟩
def F.PW_CTRL_CAP_EN : Fld := ⟨R.PW_CTRL, 0, 0⟩
/-- PW_CAP (18 R544). -/
abbrev R.PW_CAP : Nat := 0x500004
def F.PW_CAP_LIMIT : Fld := ⟨R.PW_CAP, 11, 0⟩
/-- PW_STATUS (18 R544). -/
abbrev R.PW_STATUS : Nat := 0x500008
def F.PW_STATUS_SEQFAIL : Fld := ⟨R.PW_STATUS, 31, 31⟩
def F.PW_STATUS_RAIL : Fld := ⟨R.PW_STATUS, 30, 27⟩
def F.PW_STATUS_KP : Fld := ⟨R.PW_STATUS, 26, 23⟩
def F.PW_STATUS_INITREST : Fld := ⟨R.PW_STATUS, 22, 19⟩
def F.PW_STATUS_PIDLE : Fld := ⟨R.PW_STATUS, 11, 0⟩
/-- PW_EVENT (18 R544). -/
abbrev R.PW_EVENT : Nat := 0x50000C
def F.PW_EVENT_INPUT_HIGH : Fld := ⟨R.PW_EVENT, 9, 9⟩
def F.PW_EVENT_INPUT_LOW : Fld := ⟨R.PW_EVENT, 8, 8⟩
def F.PW_EVENT_COOLANT : Fld := ⟨R.PW_EVENT, 7, 7⟩
def F.PW_EVENT_MARGIN_MAX : Fld := ⟨R.PW_EVENT, 6, 6⟩
def F.PW_EVENT_MARGIN : Fld := ⟨R.PW_EVENT, 5, 5⟩
def F.PW_EVENT_STACK_HOT : Fld := ⟨R.PW_EVENT, 4, 4⟩
def F.PW_EVENT_THERM_FULL : Fld := ⟨R.PW_EVENT, 3, 3⟩
def F.PW_EVENT_THERM_REST : Fld := ⟨R.PW_EVENT, 2, 2⟩
def F.PW_EVENT_CAP_UNMET : Fld := ⟨R.PW_EVENT, 1, 1⟩
def F.PW_EVENT_CAP_ACTIVE : Fld := ⟨R.PW_EVENT, 0, 0⟩
/-- PW_INPUT (18 R544). -/
abbrev R.PW_INPUT : Nat := 0x500010
def F.PW_INPUT_POWER : Fld := ⟨R.PW_INPUT, 31, 20⟩
def F.PW_INPUT_VIN : Fld := ⟨R.PW_INPUT, 19, 10⟩
/-- PW_COOL (18 R544). -/
abbrev R.PW_COOL : Nat := 0x500014
def F.PW_COOL_OUTLET : Fld := ⟨R.PW_COOL, 25, 16⟩
def F.PW_COOL_INLET : Fld := ⟨R.PW_COOL, 9, 0⟩
/-- PW_REGIONn (18 R544). -/
abbrev R.PW_REGION (i : Nat) : Nat := 0x500100 + 4 * i
def F.PW_REGION_DIE (i : Nat) : Fld := ⟨R.PW_REGION i, 31, 22⟩
def F.PW_REGION_STACK (i : Nat) : Fld := ⟨R.PW_REGION i, 21, 12⟩
def F.PW_REGION_VCORE (i : Nat) : Fld := ⟨R.PW_REGION i, 9, 0⟩
/-- PW_VLIMn (18 R544). -/
abbrev R.PW_VLIM (i : Nat) : Nat := 0x500180 + 4 * i
def F.PW_VLIM_VMAX (i : Nat) : Fld := ⟨R.PW_VLIM i, 25, 16⟩
def F.PW_VLIM_VMIN (i : Nat) : Fld := ⟨R.PW_VLIM i, 9, 0⟩
/-- DBG_CTRL (19 R559). -/
abbrev R.DBG_CTRL : Nat := 0x2000000
def F.DBG_CTRL_EN : Fld := ⟨R.DBG_CTRL, 0, 0⟩
/-- DBG_AADDR (19 R559). -/
abbrev R.DBG_AADDR : Nat := 0x2000004
def F.DBG_AADDR_OFFSET : Fld := ⟨R.DBG_AADDR, 25, 0⟩
/-- DBG_ADATA (19 R559). -/
abbrev R.DBG_ADATA : Nat := 0x2000008
def F.DBG_ADATA_DATA : Fld := ⟨R.DBG_ADATA, 31, 0⟩
/-- DBG_ACMD (19 R559). -/
abbrev R.DBG_ACMD : Nat := 0x200000C
def F.DBG_ACMD_GO : Fld := ⟨R.DBG_ACMD, 31, 31⟩
def F.DBG_ACMD_WR : Fld := ⟨R.DBG_ACMD, 30, 30⟩
def F.DBG_ACMD_BUSY : Fld := ⟨R.DBG_ACMD, 29, 29⟩
def F.DBG_ACMD_DONE : Fld := ⟨R.DBG_ACMD, 28, 28⟩
def F.DBG_ACMD_ERR : Fld := ⟨R.DBG_ACMD, 27, 27⟩
/-- DBG_BEDCMD (19 R559). -/
abbrev R.DBG_BEDCMD : Nat := 0x2000010
def F.DBG_BEDCMD_CMD : Fld := ⟨R.DBG_BEDCMD, 31, 30⟩
def F.DBG_BEDCMD_BED : Fld := ⟨R.DBG_BEDCMD, 4, 0⟩
/-- CORE_DBGCMD (19 R559). -/
abbrev R.CORE_DBGCMD : Nat := 0x200
def F.CORE_DBGCMD_THR : Fld := ⟨R.CORE_DBGCMD, 17, 16⟩
def F.CORE_DBGCMD_CMD : Fld := ⟨R.CORE_DBGCMD, 1, 0⟩
/-- CORE_DBGCFG (19 R559). -/
abbrev R.CORE_DBGCFG : Nat := 0x204
def F.CORE_DBGCFG_STEPPING : Fld := ⟨R.CORE_DBGCFG, 7, 4⟩
def F.CORE_DBGCFG_SAS : Fld := ⟨R.CORE_DBGCFG, 3, 0⟩
/-- CORE_BPn (19 R559). -/
abbrev R.CORE_BP (i : Nat) : Nat := 0x210 + 4 * i
def F.CORE_BP_ACTION (i : Nat) : Fld := ⟨R.CORE_BP i, 31, 30⟩
def F.CORE_BP_THRMASK (i : Nat) : Fld := ⟨R.CORE_BP i, 23, 20⟩
def F.CORE_BP_ADDR (i : Nat) : Fld := ⟨R.CORE_BP i, 14, 0⟩
/-- CORE_TRSEL (19 R559). -/
abbrev R.CORE_TRSEL : Nat := 0x220
def F.CORE_TRSEL_THR : Fld := ⟨R.CORE_TRSEL, 9, 8⟩
def F.CORE_TRSEL_INDEX : Fld := ⟨R.CORE_TRSEL, 7, 0⟩
/-- CORE_TRDATA (19 R559). -/
abbrev R.CORE_TRDATA : Nat := 0x224
def F.CORE_TRDATA_DATA : Fld := ⟨R.CORE_TRDATA, 31, 0⟩
/-- CORE_SPADDR (19 R559). -/
abbrev R.CORE_SPADDR : Nat := 0x228
def F.CORE_SPADDR_PERR : Fld := ⟨R.CORE_SPADDR, 31, 31⟩
def F.CORE_SPADDR_WADDR : Fld := ⟨R.CORE_SPADDR, 16, 0⟩
/-- CORE_SPDATA (19 R559). -/
abbrev R.CORE_SPDATA : Nat := 0x22C
def F.CORE_SPDATA_DATA : Fld := ⟨R.CORE_SPDATA, 31, 0⟩
/-- CORE_CNTSEL (19 R559). -/
abbrev R.CORE_CNTSEL : Nat := 0x230
def F.CORE_CNTSEL_SEL : Fld := ⟨R.CORE_CNTSEL, 31, 0⟩
/-- CORE_CNTm (19 R559). -/
abbrev R.CORE_CNT (i : Nat) : Nat := 0x240 + 4 * i
def F.CORE_CNT_COUNT (i : Nat) : Fld := ⟨R.CORE_CNT i, 31, 0⟩
/-- CORE_TRCFG (19 R559). -/
abbrev R.CORE_TRCFG : Nat := 0x250
def F.CORE_TRCFG_ARM : Fld := ⟨R.CORE_TRCFG, 31, 31⟩
def F.CORE_TRCFG_WRAP : Fld := ⟨R.CORE_TRCFG, 30, 30⟩
def F.CORE_TRCFG_OPEN : Fld := ⟨R.CORE_TRCFG, 29, 29⟩
def F.CORE_TRCFG_KINDS : Fld := ⟨R.CORE_TRCFG, 15, 0⟩
/-- CORE_TRSTART (19 R559). -/
abbrev R.CORE_TRSTART : Nat := 0x254
def F.CORE_TRSTART_LEN : Fld := ⟨R.CORE_TRSTART, 31, 16⟩
def F.CORE_TRSTART_REV : Fld := ⟨R.CORE_TRSTART, 15, 0⟩
/-- CORE_TRPC (19 R559). -/
abbrev R.CORE_TRPC : Nat := 0x258
def F.CORE_TRPC_HI : Fld := ⟨R.CORE_TRPC, 30, 16⟩
def F.CORE_TRPC_LO : Fld := ⟨R.CORE_TRPC, 14, 0⟩
/-- CORE_TRSTAT (19 R559). -/
abbrev R.CORE_TRSTAT : Nat := 0x25C
def F.CORE_TRSTAT_LOST : Fld := ⟨R.CORE_TRSTAT, 31, 16⟩
def F.CORE_TRSTAT_WRAPPED : Fld := ⟨R.CORE_TRSTAT, 15, 15⟩
def F.CORE_TRSTAT_COUNT : Fld := ⟨R.CORE_TRSTAT, 8, 0⟩
/-- CORE_TRDATAm (19 R559). -/
abbrev R.CORE_TRDATAM (i : Nat) : Nat := 0x260 + 4 * i
def F.CORE_TRDATAM_DATA (i : Nat) : Fld := ⟨R.CORE_TRDATAM i, 31, 0⟩

end Sys2Proof.Machine
end

