-- ==== Sys2Proof/Machine/Bits.lean ====
section
/-! DEFINITION. Bit fields, byte order, integers and the CRC: the arithmetic the meanings share. -/

namespace Sys2Proof.Machine

/-! ### Bits -/

/-- Bits [hi:lo] of a natural number. -/
def bits (x hi lo : Nat) : Nat := (x >>> lo) % 2 ^ (hi + 1 - lo)

/-- Bit `i` of a natural number. -/
def bit (x i : Nat) : Bool := x.testBit i

/-- 1 or 0. -/
def b2n (b : Bool) : Nat := if b then 1 else 0

/-- The signed value of the low `w` bits. -/
def sext (w x : Nat) : Int := if bit x (w - 1) then (x % 2 ^ w : Nat) - (2 ^ w : Nat) else (x % 2 ^ w : Nat)

/-- The low 32 bits of an integer. -/
def wordOf (x : Int) : Word := BitVec.ofInt 32 x

/-- Little-endian bytes (00 R16). -/
def leBytes (n : Nat) : Nat → List Byte
  | x => (List.range n).map fun i => BitVec.ofNat 8 (x >>> (8 * i))

/-- The number little-endian bytes spell. -/
def ofLe : List Byte → Nat
  | [] => 0
  | b :: bs => b.toNat + 256 * ofLe bs

/-- The 32-bit words that bytes spell, four at a time. -/
def wordsOfBytes : List Byte → List Word
  | a :: b :: c :: d :: bs => BitVec.ofNat 32 (ofLe [a, b, c, d]) :: wordsOfBytes bs
  | [] => []
  | bs => [BitVec.ofNat 32 (ofLe bs)]

/-- The bytes of words, little-endian. -/
def bytesOfWords (ws : List Word) : List Byte := ws.flatMap fun w => leBytes 4 w.toNat

/-- Word `i` of a list, 0 beyond its end. -/
def nthWord (ws : List Word) (i : Nat) : Word := ws.getD i 0

/-- Saturating increment of a field of a word. -/
def Fld.inc (f : Fld) (w : Word) : Word :=
  let m := 2 ^ (f.hi - f.lo + 1) - 1
  f.put w (min m (f.of w + 1))

/-! ### CRC-32 (01 R33) -/

/-- One bit step of the reflected IEEE 802.3 CRC. -/
def crcBit (c : Word) : Word := if c.toNat % 2 = 1 then (c >>> 1) ^^^ 0xEDB88320#32 else c >>> 1

/-- One byte step. -/
def crcByte (c : Word) (b : Byte) : Word := (List.range 8).foldl (fun c _ => crcBit c) (c ^^^ b.zeroExtend 32)

/-- The CRC register run over bytes. -/
def crcRun (c : Word) (bs : List Byte) : Word := bs.foldl crcByte c

/-- CRC-32 of the IEEE 802.3 polynomial over bytes (01 R33). -/
def crc32 (bs : List Byte) : Word := ~~~ crcRun 0xFFFFFFFF#32 bs

end Sys2Proof.Machine
end

