-- ==== Sys2Proof/Machine/Encoding.lean ====
section
/-! DEFINITION. Instruction encoding (04): the words of a thread's instruction, and the instruction that words spell. Both
are written from the tables of chapter 04. -/

namespace Sys2Proof.Machine

/-- The extension words of each major opcode (04 R136). -/
def nExtTab : List Nat :=
  [0, 0, 0, 0, 0, 0, 1, 0, 0, 1, 0, 1, 1, 2, 1, 0, 1, 1, 0, 0, 0, 1, 1, 1, 1, 3, 1, 0, 0, 1, 1, 0]

/-- The major opcode of a head word: bits [13:9] (04 R131). -/
def opcodeOf (h : PWord) : Nat := h.toNat / 512

/-- The number of extension words that follow a head word. -/
def nExt (h : PWord) : Nat := nExtTab.getD (opcodeOf h) 0

/-- A head word with fields F1, F2 and F3. -/
def head3 (op : Nat) (f1 f2 f3 : Reg) : PWord := BitVec.ofNat 14 (op * 512 + f1.toNat * 64 + f2.toNat * 8 + f3.toNat)

/-- A head word with nine low bits. -/
def head9 (op lo : Nat) : PWord := BitVec.ofNat 14 (op * 512 + lo)

/-- An extension word. -/
def extw (x : Nat) : PWord := BitVec.ofNat 14 x

/-- A vector instruction's words (04 R153). -/
def vop (fn : Nat) (f1 f2 f3 : Reg) (fmt : BitVec 3) (rnd : Nat) (x : Reg) : List PWord :=
  [head3 0x15 f1 f2 f3, extw (fn * 256 + fmt.toNat * 32 + rnd * 8 + x.toNat)]

/-- An LD or LDX, or ST or STX, instruction's words (04 R143, R144). -/
def memWords (op : Nat) (r a : Reg) (width : Reg) : Option (BitVec 14) → List PWord
  | none => [head3 op r a width]
  | some off => [head3 (op + 1) r a width, off]

/-- A ONE instruction's word (04 R146). -/
def oneWord (f : Nat) (r : Reg) : List PWord := [head9 0x0F (f * 8 + r.toNat)]

/-- A BRANCH (04 R147). -/
def brWords (cond : Nat) (a : Bool) (t : BitVec 15) : List PWord :=
  [head9 0x10 (cond * 32 + b2n a * 16 + t.toNat / 2 ^ 14), extw (t.toNat % 2 ^ 14)]

/-- A SYNC instruction's words (04 R163). -/
def syncWords (f : Reg) (f2 f3 : Reg) (n : Nat) (p : Bool) : List PWord :=
  [head3 0x1D f f2 f3, extw (n * 256 + b2n p * 128)]

/-- A MSG instruction's words (04 R164). -/
def msgWords (f : Reg) (f2 f3 : Reg) (conn : BitVec 4) (h : Byte) : List PWord :=
  [head3 0x1E f f2 f3, extw (conn.toNat * 1024 + h.toNat * 4)]

/-- TDRAIN's three extension words (04 R159). -/
def drainWords (o : DrainOpt) : List PWord :=
  [extw (o.ofmt.toNat * 1024 + o.rnd.toNat * 256 + b2n o.se * 128 + b2n o.sk * 64 + o.sreg.toNat * 8),
   extw (b2n o.be * 8192 + b2n o.bk * 4096 + o.breg.toNat * 512 + b2n o.ce * 256 + o.creg.toNat * 32),
   extw (b2n o.ste * 8192 + o.stb.toNat * 1024 + b2n o.za * 512)]

/-- The words of a thread's instruction; none for a command that is no instruction. -/
def encodeInstr : Instr → List PWord
  | .add _ _ d a b => [head3 0x00 d a b]
  | .sub _ _ d a b => [head3 0x01 d a b]
  | .and _ _ d a b => [head3 0x02 d a b]
  | .or _ _ d a b => [head3 0x03 d a b]
  | .xor _ _ d a b => [head3 0x04 d a b]
  | .mul _ _ d a b => [head3 0x05 d a b]
  | .shl _ _ d a b => [head3 0x06 d a b, extw 0]
  | .shr _ _ d a b => [head3 0x06 d a b, extw 1]
  | .sar _ _ d a b => [head3 0x06 d a b, extw 2]
  | .rot _ _ d a b => [head3 0x06 d a b, extw 3]
  | .min _ _ d a b => [head3 0x06 d a b, extw 4]
  | .max _ _ d a b => [head3 0x06 d a b, extw 5]
  | .addc _ _ d a b => [head3 0x06 d a b, extw 6]
  | .subc _ _ d a b => [head3 0x06 d a b, extw 7]
  | .mulh _ _ d a b => [head3 0x06 d a b, extw 8]
  | .mulhu _ _ d a b => [head3 0x06 d a b, extw 9]
  | .div _ _ d a b => [head3 0x06 d a b, extw 10]
  | .divu _ _ d a b => [head3 0x06 d a b, extw 11]
  | .rem _ _ d a b => [head3 0x06 d a b, extw 12]
  | .remu _ _ d a b => [head3 0x06 d a b, extw 13]
  | .mov _ _ d a => [head3 0x07 d a 0]
  | .not _ _ d a => [head3 0x07 d a 1]
  | .cmp _ _ a b => [head3 0x07 a b 2]
  | .addi _ _ d a imm => [head3 0x0E d a 0, imm]
  | .cmpi _ _ a imm => [head3 0x0E 0 a 1, imm]
  | .movi _ _ d imm => [head9 0x0C (d.toNat * 64 + imm.toNat / 2 ^ 14), extw (imm.toNat % 2 ^ 14)]
  | .movil _ _ d imm =>
    [head9 0x0D (d.toNat * 64 + imm.toNat / 2 ^ 28), extw (imm.toNat / 2 ^ 14 % 2 ^ 14), extw (imm.toNat % 2 ^ 14)]
  | .ldw _ _ d a off => memWords 0x08 d a 0 off
  | .ldh _ _ d a off => memWords 0x08 d a 1 off
  | .ldhu _ _ d a off => memWords 0x08 d a 2 off
  | .ldb _ _ d a off => memWords 0x08 d a 3 off
  | .ldbu _ _ d a off => memWords 0x08 d a 4 off
  | .lds _ _ d off => [head3 0x09 d 0 5, off]
  | .stw _ _ r a off => memWords 0x0A r a 0 off
  | .sth _ _ r a off => memWords 0x0A r a 1 off
  | .stb _ _ r a off => memWords 0x0A r a 2 off
  | .sts _ _ r off => [head3 0x0B r 0 5, off]
  | .nop _ _ => oneWord 0x00 0
  | .push _ _ r => oneWord 0x01 r
  | .pop _ _ r => oneWord 0x02 r
  | .jr _ _ r => oneWord 0x03 r
  | .callr _ _ r => oneWord 0x04 r
  | .ret _ _ => oneWord 0x05 0
  | .rte _ _ => oneWord 0x06 0
  | .halt _ _ => oneWord 0x07 0
  | .rdcyc _ _ r => oneWord 0x08 r
  | .mfs _ _ r => oneWord 0x09 r
  | .mts _ _ r => oneWord 0x0A r
  | .settc _ _ r => oneWord 0x0B r
  | .clrtc _ _ => oneWord 0x0C 0
  | .waitt _ _ => oneWord 0x0D 0
  | .rdfs _ _ r => oneWord 0x0E r
  | .consume _ _ r => oneWord 0x0F r
  | .lbrk _ _ lv => oneWord (0x10 + lv.toNat) 0
  | .thrst _ _ k => oneWord (0x14 + k.toNat) 0
  | .thstart _ _ k r => oneWord (0x18 + k.toNat) r
  | .setcc _ _ r cc => oneWord (0x20 + cc.toNat) r
  | .br _ _ t => brWords 14 false t
  | .jmp _ _ t => brWords 14 true t
  | .bcc _ _ cc a t => brWords cc.toNat a t
  | .call _ _ a t => brWords 15 a t
  | .loop _ _ lv gs e => [head9 0x11 (lv.toNat * 128 + gs.toNat * 8 + e.toNat / 2 ^ 14), extw (e.toNat % 2 ^ 14)]
  | .lock _ _ d n => [head9 0x12 (n.toNat * 8 + d.toNat)]
  | .trylock _ _ d n => [head9 0x12 (128 + n.toNat * 8 + d.toNat)]
  | .unlock _ _ n => [head9 0x12 (256 + n.toNat * 8)]
  | .lrst _ _ n => [head9 0x12 (384 + n.toNat * 8)]
  | .mft _ _ d idx => [head9 0x13 (idx.toNat * 8 + d.toNat)]
  | .mtt _ _ r idx => [head9 0x13 (256 + idx.toNat * 8 + r.toNat)]
  | .trap _ _ imm => [head9 0x14 imm.toNat]
  | .reservedEncoding _ _ h e => h :: e
  | .vadd _ _ f d a b => vop 0x00 d a b f 0 0
  | .vsub _ _ f d a b => vop 0x01 d a b f 0 0
  | .vmul _ _ f d a b => vop 0x02 d a b f 0 0
  | .vfma _ _ f d a b c => vop 0x03 d a b f 0 c
  | .vmin _ _ f d a b => vop 0x04 d a b f 0 0
  | .vmax _ _ f d a b => vop 0x05 d a b f 0 0
  | .vabs _ _ f d a => vop 0x06 d a 0 f 0 0
  | .vneg _ _ f d a => vop 0x07 d a 0 f 0 0
  | .vdiv _ _ f d a b => vop 0x08 d a b f 0 0
  | .vsqrt _ _ f d a => vop 0x09 d a 0 f 0 0
  | .vcmpeq _ _ f d a b => vop 0x0A d a b f 0 0
  | .vcmplt _ _ f d a b => vop 0x0B d a b f 0 0
  | .vcmple _ _ f d a b => vop 0x0C d a b f 0 0
  | .vsel _ _ f d a b c => vop 0x0D d a b f 0 c
  | .vand _ _ f d a b => vop 0x10 d a b f 0 0
  | .vor _ _ f d a b => vop 0x11 d a b f 0 0
  | .vxor _ _ f d a b => vop 0x12 d a b f 0 0
  | .vshl _ _ f d a b => vop 0x13 d a b f 0 0
  | .vshr _ _ f d a b => vop 0x14 d a b f 0 0
  | .vsar _ _ f d a b => vop 0x15 d a b f 0 0
  | .vcvt _ _ f dst rnd d a => vop 0x18 d a 0 f rnd.toNat dst
  | .vrsum _ _ f d a => vop 0x19 d a 0 f 0 0
  | .vrmax _ _ f d a => vop 0x1A d a 0 f 0 0
  | .vbcast _ _ f d a => vop 0x1C d a 0 f 0 0
  | .vext _ _ f d a b => vop 0x1D d a b f 0 0
  | .vins _ _ f d a b => vop 0x1E d a b f 0 0
  | .vseed _ _ a b => vop 0x1F 0 a b 0 0 0
  | .vld _ _ d a off => [head3 0x16 d a 0, off]
  | .vst _ _ r a off => [head3 0x16 r a 1, off]
  | .vldbc _ _ d a off => [head3 0x16 d a 2, off]
  | .tcfg _ _ tb fmt rows bpr pm =>
    [head9 0x17 (tb.toNat * 64 + fmt.toNat * 4), extw (rows.toNat * 256 + bpr.toNat * 4 + b2n pm * 2)]
  | .tld _ _ tb a r sfmt tr rnd => [head3 0x18 tb a r, extw (sfmt.toNat * 1024 + b2n tr * 512 + rnd.toNat * 128)]
  | .tdrain _ _ tc a r o => head3 0x19 tc a r :: drainWords o
  | .tmma _ _ tc ta tb q z => [head3 0x1A tc ta tb, extw (b2n q * 8192 + b2n z * 4096)]
  | .trel _ _ tb => [head3 0x1B 0 tb 0]
  | .tzero _ _ tb => [head3 0x1B 1 tb 0]
  | .tflags _ _ d tb => [head3 0x1B 2 tb d]
  | .tclrf _ _ tb => [head3 0x1B 3 tb 0]
  | .txcap _ _ d => [head3 0x1B 4 0 d]
  | .dmago _ _ ch a => [head3 0x1C 0 ch a]
  | .dmastat _ _ d ch => [head3 0x1C 1 ch d]
  | .dmadis _ _ ch => [head3 0x1C 2 ch 0]
  | .waitf _ _ d n p => syncWords 0 d 0 n.toNat p
  | .setf _ _ g n => syncWords 1 0 g n.toNat false
  | .clrf _ _ g n => syncWords 2 0 g n.toNat false
  | .tstf _ _ d n => syncWords 3 d 0 n.toNat false
  | .waitb _ _ d b => syncWords 4 d 0 b.toNat false
  | .arrb _ _ b => syncWords 5 0 0 b.toNat false
  | .copen _ _ d conn a => msgWords 0 d a conn 0
  | .cclose _ _ conn => msgWords 1 0 0 conn 0
  | .msend _ _ conn a b h => msgWords 2 a b conn h
  | .mrecv _ _ d conn => msgWords 3 d 0 conn 0
  | .mdone _ _ conn => msgWords 4 0 0 conn 0
  | _ => []

/-- The length in words of a thread's instruction. -/
def instrLen (i : Instr) : Nat := (encodeInstr i).length

/-- The head word of a thread's instruction. -/
def headOf (i : Instr) : PWord := (encodeInstr i).headD 0

/-- FP formats are codes 0 to 3, INT formats 4 to 6 (04 R153). -/
def isFP (f : BitVec 3) : Bool := f.toNat < 4
def isINT (f : BitVec 3) : Bool := 4 ≤ f.toNat && f.toNat < 7

/-- Whether a thread's instruction is a reserved encoding for the values of its operands (04 R137): a vector format the
function does not accept, a rounding or format code that is reserved, condition 15 in SETcc, a governed drain field that is
nonzero while its enable is 0. -/
def reservedOperands : Instr → Bool
  | .setcc _ _ _ cc => cc == 15
  | .vfma _ _ f _ _ _ _ | .vdiv _ _ f _ _ _ | .vsqrt _ _ f _ _ => !isFP f
  | .vand _ _ f _ _ _ | .vor _ _ f _ _ _ | .vxor _ _ f _ _ _ | .vshl _ _ f _ _ _ | .vshr _ _ f _ _ _
  | .vsar _ _ f _ _ _ => !isINT f
  | .vcvt _ _ f dst rnd _ _ => f == 7 || dst == 7 || rnd == 3
  | .vadd _ _ f _ _ _ | .vsub _ _ f _ _ _ | .vmul _ _ f _ _ _ | .vmin _ _ f _ _ _ | .vmax _ _ f _ _ _
  | .vabs _ _ f _ _ | .vneg _ _ f _ _ | .vcmpeq _ _ f _ _ _ | .vcmplt _ _ f _ _ _ | .vcmple _ _ f _ _ _
  | .vsel _ _ f _ _ _ _ | .vrsum _ _ f _ _ | .vrmax _ _ f _ _ | .vbcast _ _ f _ _ | .vext _ _ f _ _ _
  | .vins _ _ f _ _ _ => f == 7
  | .tcfg _ _ _ fmt _ _ _ => fmt == 15
  | .tld _ _ _ _ _ sfmt _ rnd => sfmt == 15 || rnd == 3
  | .tdrain _ _ _ _ _ o => o.ofmt == 15 || o.rnd == 3 || (!o.se && (o.sk || o.sreg != 0)) || (!o.be && (o.bk || o.breg != 0))
      || (!o.ce && o.creg != 0) || (!o.ste && o.stb != 0)
  | _ => false

section
variable (c : CoreId) (t : Thr)

/-- XALU functions (04 R139). -/
def decodeXalu (f : Nat) (d a b : Reg) : Option Instr :=
  match f with
  | 0 => some (.shl c t d a b) | 1 => some (.shr c t d a b) | 2 => some (.sar c t d a b) | 3 => some (.rot c t d a b)
  | 4 => some (.min c t d a b) | 5 => some (.max c t d a b) | 6 => some (.addc c t d a b) | 7 => some (.subc c t d a b)
  | 8 => some (.mulh c t d a b) | 9 => some (.mulhu c t d a b) | 10 => some (.div c t d a b) | 11 => some (.divu c t d a b)
  | 12 => some (.rem c t d a b) | 13 => some (.remu c t d a b)
  | _ => none

/-- LD and LDX widths; ST and STX widths (04 R143). -/
def decodeLd (d a w : Reg) (off : Option (BitVec 14)) : Option Instr :=
  match w.toNat, off with
  | 0, o => some (.ldw c t d a o) | 1, o => some (.ldh c t d a o) | 2, o => some (.ldhu c t d a o)
  | 3, o => some (.ldb c t d a o) | 4, o => some (.ldbu c t d a o)
  | 5, some x => if a = 0 then some (.lds c t d x) else none
  | _, _ => none

def decodeSt (r a w : Reg) (off : Option (BitVec 14)) : Option Instr :=
  match w.toNat, off with
  | 0, o => some (.stw c t r a o) | 1, o => some (.sth c t r a o) | 2, o => some (.stb c t r a o)
  | 5, some x => if a = 0 then some (.sts c t r x) else none
  | _, _ => none

/-- The ONE group (04 R146). -/
def decodeOne (f : Nat) (r : Reg) : Option Instr :=
  let z (i : Instr) : Option Instr := if r = 0 then some i else none
  match f with
  | 0x00 => z (.nop c t) | 0x01 => some (.push c t r) | 0x02 => some (.pop c t r) | 0x03 => some (.jr c t r)
  | 0x04 => some (.callr c t r) | 0x05 => z (.ret c t) | 0x06 => z (.rte c t) | 0x07 => z (.halt c t)
  | 0x08 => some (.rdcyc c t r) | 0x09 => some (.mfs c t r) | 0x0A => some (.mts c t r) | 0x0B => some (.settc c t r)
  | 0x0C => z (.clrtc c t) | 0x0D => z (.waitt c t) | 0x0E => some (.rdfs c t r) | 0x0F => some (.consume c t r)
  | _ =>
    if f < 0x14 then z (.lbrk c t (BitVec.ofNat 2 (f - 0x10)))
    else if f < 0x18 then z (.thrst c t (BitVec.ofNat 2 (f - 0x14)))
    else if f < 0x1C then some (.thstart c t (BitVec.ofNat 2 (f - 0x18)) r)
    else if 0x20 ≤ f && f < 0x2F then some (.setcc c t r (BitVec.ofNat 4 (f - 0x20)))
    else none

/-- BRANCH conditions (04 R147). -/
def decodeBr (cond : Nat) (a : Bool) (x : BitVec 15) : Option Instr :=
  if cond = 15 then some (.call c t a x)
  else if cond = 14 then some (if a then .jmp c t x else .br c t x)
  else some (.bcc c t (BitVec.ofNat 4 cond) a x)

/-- VOP functions (04 R153). -/
def decodeVop (fn : Nat) (f1 f2 f3 : Reg) (fmt : BitVec 3) (rnd : BitVec 2) (x : Reg) : Option Instr :=
  let n3 (i : Instr) : Option Instr := if rnd = 0 && x = 0 then some i else none
  let n2 (i : Instr) : Option Instr := if rnd = 0 && x = 0 && f3 = 0 then some i else none
  match fn with
  | 0x00 => n3 (.vadd c t fmt f1 f2 f3) | 0x01 => n3 (.vsub c t fmt f1 f2 f3) | 0x02 => n3 (.vmul c t fmt f1 f2 f3)
  | 0x03 => if rnd = 0 then some (.vfma c t fmt f1 f2 f3 x) else none
  | 0x04 => n3 (.vmin c t fmt f1 f2 f3) | 0x05 => n3 (.vmax c t fmt f1 f2 f3)
  | 0x06 => n2 (.vabs c t fmt f1 f2) | 0x07 => n2 (.vneg c t fmt f1 f2)
  | 0x08 => n3 (.vdiv c t fmt f1 f2 f3) | 0x09 => n2 (.vsqrt c t fmt f1 f2)
  | 0x0A => n3 (.vcmpeq c t fmt f1 f2 f3) | 0x0B => n3 (.vcmplt c t fmt f1 f2 f3) | 0x0C => n3 (.vcmple c t fmt f1 f2 f3)
  | 0x0D => if rnd = 0 then some (.vsel c t fmt f1 f2 f3 x) else none
  | 0x10 => n3 (.vand c t fmt f1 f2 f3) | 0x11 => n3 (.vor c t fmt f1 f2 f3) | 0x12 => n3 (.vxor c t fmt f1 f2 f3)
  | 0x13 => n3 (.vshl c t fmt f1 f2 f3) | 0x14 => n3 (.vshr c t fmt f1 f2 f3) | 0x15 => n3 (.vsar c t fmt f1 f2 f3)
  | 0x18 => if f3 = 0 then some (.vcvt c t fmt x rnd f1 f2) else none
  | 0x19 => n2 (.vrsum c t fmt f1 f2) | 0x1A => n2 (.vrmax c t fmt f1 f2) | 0x1C => n2 (.vbcast c t fmt f1 f2)
  | 0x1D => n3 (.vext c t fmt f1 f2 f3) | 0x1E => n3 (.vins c t fmt f1 f2 f3)
  | 0x1F => if fmt = 0 && f1 = 0 && rnd = 0 && x = 0 then some (.vseed c t f2 f3) else none
  | _ => none

/-- TMISC, DMA, SYNC and MSG (04 R161 to R164). -/
def decodeTmisc (f1 f2 f3 : Reg) : Option Instr :=
  let z3 (i : Instr) : Option Instr := if f3 = 0 then some i else none
  match f1.toNat with
  | 0 => z3 (.trel c t f2) | 1 => z3 (.tzero c t f2) | 2 => some (.tflags c t f3 f2) | 3 => z3 (.tclrf c t f2)
  | 4 => if f2 = 0 then some (.txcap c t f3) else none
  | _ => none

def decodeDma (f1 f2 f3 : Reg) : Option Instr :=
  match f1.toNat with
  | 0 => some (.dmago c t f2 f3) | 1 => some (.dmastat c t f3 f2) | 2 => if f3 = 0 then some (.dmadis c t f2) else none
  | _ => none

def decodeSync (f1 f2 f3 : Reg) (n : BitVec 6) (p : Bool) (lo : BitVec 7) : Option Instr :=
  let b : BitVec 4 := n.truncate 4
  let bar (i : Instr) : Option Instr := if n.toNat < 16 && !p && f3 = 0 then some i else none
  if lo ≠ 0 then none
  else match f1.toNat with
    | 0 => if f3 = 0 then some (.waitf c t f2 n p) else none
    | 1 => if f2 = 0 && !p then some (.setf c t f3 n) else none
    | 2 => if f2 = 0 && !p then some (.clrf c t f3 n) else none
    | 3 => if f3 = 0 && !p then some (.tstf c t f2 n) else none
    | 4 => bar (.waitb c t f2 b)
    | 5 => if f2 = 0 then bar (.arrb c t b) else none
    | _ => none

def decodeMsg (f1 f2 f3 : Reg) (conn : BitVec 4) (h : Byte) (lo : BitVec 2) : Option Instr :=
  if lo ≠ 0 then none
  else match f1.toNat with
    | 0 => if h = 0 then some (.copen c t f2 conn f3) else none
    | 1 => if h = 0 && f2 = 0 && f3 = 0 then some (.cclose c t conn) else none
    | 2 => some (.msend c t conn f2 f3 h)
    | 3 => if h = 0 && f3 = 0 then some (.mrecv c t f2 conn) else none
    | 4 => if h = 0 && f2 = 0 && f3 = 0 then some (.mdone c t conn) else none
    | _ => none

/-- TDRAIN's fields from its extension words; none where a bit marked 0 is 1 (04 R159). -/
def decodeDrain (e0 e1 e2 : PWord) : Option DrainOpt :=
  if e0.extractLsb' 0 3 ≠ 0 || e1.extractLsb' 0 5 ≠ 0 || e2.extractLsb' 0 9 ≠ 0 then none
  else some
    { ofmt := e0.extractLsb' 10 4, rnd := e0.extractLsb' 8 2, se := e0.getLsbD 7, sk := e0.getLsbD 6, sreg := e0.extractLsb' 3 3,
      be := e1.getLsbD 13, bk := e1.getLsbD 12, breg := e1.extractLsb' 9 3, ce := e1.getLsbD 8, creg := e1.extractLsb' 5 3,
      ste := e2.getLsbD 13, stb := e2.extractLsb' 10 3, za := e2.getLsbD 9 }

/-- The instruction that a head word and its extension words spell for a thread; none for a reserved encoding (04 R137). -/
def decodeRaw (h : PWord) (e : List PWord) : Option Instr :=
  let f1 : Reg := h.extractLsb' 6 3
  let f2 : Reg := h.extractLsb' 3 3
  let f3 : Reg := h.extractLsb' 0 3
  let e0 : PWord := e.getD 0 0
  let e1 : PWord := e.getD 1 0
  let e2 : PWord := e.getD 2 0
  match opcodeOf h with
  | 0x00 => some (.add c t f1 f2 f3) | 0x01 => some (.sub c t f1 f2 f3) | 0x02 => some (.and c t f1 f2 f3)
  | 0x03 => some (.or c t f1 f2 f3) | 0x04 => some (.xor c t f1 f2 f3) | 0x05 => some (.mul c t f1 f2 f3)
  | 0x06 => decodeXalu c t e0.toNat f1 f2 f3
  | 0x07 => match f3.toNat with
    | 0 => some (.mov c t f1 f2) | 1 => some (.not c t f1 f2) | 2 => some (.cmp c t f1 f2) | _ => none
  | 0x08 => decodeLd c t f1 f2 f3 none
  | 0x09 => decodeLd c t f1 f2 f3 (some e0)
  | 0x0A => decodeSt c t f1 f2 f3 none
  | 0x0B => decodeSt c t f1 f2 f3 (some e0)
  | 0x0C => some (.movi c t f1 (h.extractLsb' 0 6 ++ e0))
  | 0x0D => if h.extractLsb' 4 2 = 0 then some (.movil c t f1 (h.extractLsb' 0 4 ++ (e0 ++ e1))) else none
  | 0x0E => match f3.toNat with
    | 0 => some (.addi c t f1 f2 e0) | 1 => if f1 = 0 then some (.cmpi c t f2 e0) else none | _ => none
  | 0x0F => decodeOne c t (h.extractLsb' 3 6).toNat f3
  | 0x10 => if h.extractLsb' 1 3 = 0 then
      decodeBr c t (h.extractLsb' 5 4).toNat (h.getLsbD 4) (h.extractLsb' 0 1 ++ e0) else none
  | 0x11 => if h.getLsbD 6 || h.extractLsb' 1 2 ≠ 0 then none
      else some (.loop c t (h.extractLsb' 7 2) f2 (h.extractLsb' 0 1 ++ e0))
  | 0x12 =>
    let n : BitVec 4 := h.extractLsb' 3 4
    match (h.extractLsb' 7 2).toNat with
    | 0 => some (.lock c t f3 n) | 1 => some (.trylock c t f3 n)
    | 2 => if f3 = 0 then some (.unlock c t n) else none
    | _ => if f3 = 0 then some (.lrst c t n) else none
  | 0x13 => if h.getLsbD 7 then none
      else if h.getLsbD 8 then some (.mtt c t f3 (h.extractLsb' 3 4)) else some (.mft c t f3 (h.extractLsb' 3 4))
  | 0x14 => some (.trap c t (h.extractLsb' 0 9))
  | 0x15 => decodeVop c t (e0.extractLsb' 8 6).toNat f1 f2 f3 (e0.extractLsb' 5 3) (e0.extractLsb' 3 2) (e0.extractLsb' 0 3)
  | 0x16 => match f3.toNat with
    | 0 => some (.vld c t f1 f2 e0) | 1 => some (.vst c t f1 f2 e0) | 2 => some (.vldbc c t f1 f2 e0) | _ => none
  | 0x17 => if h.extractLsb' 0 2 ≠ 0 || e0.getLsbD 0 then none
      else some (.tcfg c t f1 (h.extractLsb' 2 4) (e0.extractLsb' 8 6) (e0.extractLsb' 2 6) (e0.getLsbD 1))
  | 0x18 => if e0.extractLsb' 0 7 ≠ 0 then none
      else some (.tld c t f1 f2 f3 (e0.extractLsb' 10 4) (e0.getLsbD 9) (e0.extractLsb' 7 2))
  | 0x19 => (decodeDrain e0 e1 e2).map fun o => .tdrain c t f1 f2 f3 o
  | 0x1A => if e0.extractLsb' 0 12 ≠ 0 then none else some (.tmma c t f1 f2 f3 (e0.getLsbD 13) (e0.getLsbD 12))
  | 0x1B => decodeTmisc c t f1 f2 f3
  | 0x1C => decodeDma c t f1 f2 f3
  | 0x1D => decodeSync c t f1 f2 f3 (e0.extractLsb' 8 6) (e0.getLsbD 7) (e0.extractLsb' 0 7)
  | 0x1E => decodeMsg c t f1 f2 f3 (e0.extractLsb' 10 4) (e0.extractLsb' 2 8) (e0.extractLsb' 0 2)
  | _ => none

/-- The instruction that words spell, or none for a reserved encoding, values of operands included. -/
def decodeWords (h : PWord) (e : List PWord) : Option Instr :=
  (decodeRaw c t h e).bind fun i => if reservedOperands i then none else some i

end

/-- A word of a program memory (03 R103). -/
def pmGet (pm : SMap PWord) (a : BitVec 15) : PWord := SMap.get (fun _ => 0) pm a.toNat

/-- The instruction of thread `t` of core `c` at an address of a program memory (04 R132, R133). -/
def decodeAt (c : CoreId) (t : Thr) (pm : SMap PWord) (a : BitVec 15) : Option Instr :=
  let h := pmGet pm a
  decodeWords c t h ((List.range (nExt h)).map fun i => pmGet pm (a + BitVec.ofNat 15 (i + 1)))

end Sys2Proof.Machine
end

