-- ==== Sys2Proof/Config.lean ====
section
/-! DEFINITION. The free values of the model: opaque constants of which nothing is known. -/

namespace Sys2Proof

/-- The words the spec leaves undefined, one for each use: the argument is the counter `State.free`, which every
use advances (log entry 4). -/
opaque Config.freeWord : Nat → Word

/-- The entries of the deferred-write buffer, whose size the spec does not give (11 R369; log entry 4). -/
opaque Config.deferredSize : Nat

/-- Where the headstock places the replica in a stack of a table of a job: by stack, job, level above it and index, in units of 32 KiB of the
stack's reserved pages (11 R359; log entry 27). -/
opaque Config.tableAddr : Nat → Nat → Nat → Nat → Nat

/-- The SHA-384 of the boot ROM, which an attestation report gives and the spec does not (16 R504; log entry 4). -/
opaque Config.romDigest : BitVec 384

/-- The rounding that the reserved code RND = 3 of a reduction selects (13 R429; log entry 4). -/
opaque Config.reservedRnd : Nat

end Sys2Proof
end

