-- ==== Sys2Proof/Machine/CoreState.lean ====
section
/-! DEFINITION. The state of one core: its threads, memories, blanks, DMA channels, flags, connections and router. -/

namespace Sys2Proof.Machine

/-- The thread states of CORE_STATUS (03 R120). -/
inductive TState where
  | idle
  | run
  | wait
  | stopped
  | halted
  | frozen
  | debug
  deriving DecidableEq, Repr

/-- A wake that has been decided (03 R108): the first cycle of the wake slot rule, c + 2, and the status. -/
structure Wake where
  cyc    : Count
  status : Word
  deriving DecidableEq, Repr

/-- A trap that a thread takes later, in its own slot or when it next runs (06 R232 to R235, 07 R562, 09 R314). -/
structure HeldTrap where
  code   : Byte
  detail : Byte
  faddr  : Word
  /-- the address EPC receives; none: the thread's next instruction -/
  epc    : Option (BitVec 15)
  deriving DecidableEq, Repr

/-- One thread (03 R85). -/
structure Thread where
  state   : TState
  /-- FROZEN or DEBUG: the thread was waiting and returns to its wait -/
  waits   : Bool
  g       : SMap Word
  v       : SMap (BitVec 512)
  pc      : BitVec 15
  /-- the status word, in CORE_THk_STATUS layout -/
  sw      : Word
  dsp     : BitVec 17
  /-- the return stack, top first -/
  rs      : List (BitVec 15)
  ls      : SMap (BitVec 15)
  le      : SMap (BitVec 15)
  lc      : SMap Word
  tcmp    : Count
  epc     : BitVec 15
  cause   : Word
  faddr   : Word
  /-- the wait record, in CORE_THk_WAITON layout -/
  waiton  : Word
  /-- working revolutions counted in the wait (CORE_THk_WDOG.COUNT) -/
  wcount  : BitVec 16
  /-- stochastic rounding key and counter (05 R178) -/
  key     : Word
  ctr     : Word
  /-- the wait instruction, while the thread waits or is stalled in it -/
  waiting : Option Instr
  /-- the wake decided for the wait -/
  wake    : Option Wake
  /-- the thread issues nothing until an engine completes its instruction (COPEN, MSEND, a synchronous tile instruction) -/
  stalled : Bool
  /-- a trap was entered while the thread was stalled: the instruction it is stalled in completes without moving PC (07 R274) -/
  aside   : Bool
  /-- the earliest cycle of the next issue -/
  next    : Count
  /-- the cycle at which each register is ready: g0 to g7 at 0 to 7, v0 to v7 at 8 to 15 -/
  ready   : SMap Count
  /-- the earliest cycle of the next FP64 add, multiply or VFMA (05 R193) -/
  fp64    : Count
  held    : Option HeldTrap
  /-- a step in progress: 1 before the stepped instruction, 2 after it (19 R547) -/
  step    : Nat
  /-- stop in place of the first issue after a start (19 R550) -/
  sas     : Bool
  /-- the breakpoint at this address is passed once (19 R551) -/
  bpPass  : Bool
  /-- the revolution in which the watchdog of the current wait was armed or went on, and its limit at the arming (02 R75, 03 R112) -/
  wrev    : BitVec 48
  wlimit  : Nat
  /-- barriers at which the thread has arrived since its last completed WAITB on them (08 R296) -/
  arrived : BitVec 16
  deriving DecidableEq, Repr

/-- A thread after a thread reset with START = 0 and DSHI = 0 (03 R86). -/
def Thread.reset : Thread :=
  { state := .idle, waits := false, g := [], v := [], pc := 0, sw := 0, dsp := 0, rs := [], ls := [], le := [], lc := [],
    tcmp := 0, epc := 0, cause := 0, faddr := 0, waiton := 0, wcount := 0, key := 0, ctr := 0, waiting := none, wake := none,
    stalled := false, aside := false, next := 0, ready := [], fp64 := 0, held := none, step := 0, sas := false, bpPass := false, wrev := 0, wlimit := 0,
    arrived := 0 }

/-- An entry of a tile queue (06 R211, R242). -/
structure TEntry where
  thr     : Thr
  pc      : BitVec 15
  i       : Instr
  ga      : BitVec 17
  gs      : BitVec 17
  /-- issue order over all queues of the core (06 R214) -/
  seq     : Nat
  /-- the cycle in which its work starts, once started -/
  start   : Option Count
  /-- the cycle of a load's or drain's next access -/
  next    : Count
  /-- row-steps done; of a load or drain, cycles of its work done -/
  row     : Nat
  /-- the words a load has read, in the image's order, and the word of bad parity or poison it stopped at (06 R235) -/
  got     : List Word
  bad     : Option (Nat × Byte)
  /-- held at a row boundary (06 R233, R236) -/
  held    : Bool
  /-- the thread waits for it (06 R219) -/
  sync    : Bool
  /-- the cycle it issued in -/
  iss     : Count
  /-- a drain's scale, bias and clip registers, read when it starts (06 R213) -/
  vregs   : List (BitVec 512)
  /-- the thread's key and counter as they stood at its start (05 R178), and the first of its free values -/
  key     : Word
  ctr     : Word
  free    : Nat
  deriving DecidableEq, Repr

/-- A tap request of a burst: still to be sent, or sent and its return expected (10 R329, R335). -/
structure TapReq where
  /-- the cycle its return or acknowledgement is due in, once it has been sent -/
  due   : Count
  /-- the unit (08 R277): its request flow, kind, address, payload and poison; of a write still to be sent the payload from word 16 -/
  flow  : BitVec 16
  kind  : BitVec 3
  addr  : BitVec 17
  words : List Word
  poison : BitVec 2
  /-- the return flow, and whether the unit is a STAGE unit -/
  rflow : BitVec 16
  stage : Bool
  /-- the transfer positions it stands for: `n` from `pos`, at payload words from `off`; `side`: the destination of COMPARE -/
  pos   : Nat
  off   : Nat
  n     : Nat
  side  : Bool
  deriving DecidableEq, Repr

/-- What a DMA channel holds beside its registers (07 R257 to R269). -/
structure Chan where
  /-- the descriptor's word address, for the completion record -/
  ga      : BitVec 17
  /-- the transfers the channel has started, to tell an old transfer's answers apart -/
  gen     : Nat
  /-- first cycle of the next request, burst or local access -/
  from_   : Count
  /-- a credit request is unanswered -/
  asked   : Bool
  /-- the refused channel asks again at this cycle -/
  retry   : Option Count
  /-- the region its grant came from -/
  region  : Reg
  /-- words of the burst in progress; 0: none -/
  n       : Nat
  /-- the flow in whose owned slots the burst is in progress; 65,536: at the local port (R265) -/
  on      : Option Nat
  /-- the burst's tap requests still to be sent, reads before writes, and those whose return is expected (10 R335) -/
  todo    : List TapReq
  due     : List TapReq
  /-- words in the engine, with their poison: 2 x transfer position for the source, + 1 for the destination of COMPARE -/
  buf     : List (Nat × Word × Bool)
  /-- words of the burst that have moved -/
  sent    : Nat
  /-- scratchpad lines in which the burst's writes were accepted, and those it has poisoned (R252; 10 R341) -/
  lines   : List Nat
  psns    : List Nat
  /-- PARITY or POISON found in the burst: 2 or 3 -/
  bad     : Nat
  /-- the channel has moved its last word, or fails: the cycle of its end and the CODE of an ERROR, 0 for DONE -/
  ends    : Option (Count × Nat)
  /-- the CODE with which the channel parks when its burst has finished: 8 `XLATE`, 9 `PREEMPT`, 0 it goes on (07 R269) -/
  park    : Nat
  /-- the revolution in which the timer was last armed or went on, and its limit at the arming (R271) -/
  trev    : BitVec 48
  tlim    : Nat
  deriving DecidableEq, Repr

/-- A channel that holds nothing. -/
def Chan.none : Chan :=
  { ga := 0, gen := 0, from_ := 0, asked := false, retry := Option.none, region := 0, n := 0, on := Option.none, todo := [], due := [],
    buf := [], sent := 0, lines := [], psns := [], bad := 0, ends := Option.none, park := 0, trev := 0, tlim := 0 }

/-- An entry of a DMA translation cache (11 R360, R361). -/
structure XEntry where
  job   : JobId
  vpn   : BitVec 36
  entry : BitVec 64
  write : Bool
  deriving DecidableEq, Repr

/-- What a connection holds beside its register (09 R308, R312, R313). -/
structure ConnX where
  /-- the receiving core, and the ring's line count (kept from the binding reply) -/
  dest    : CoreId
  count   : Nat
  /-- the message being sent: body word address, body bytes, handler -/
  body    : BitVec 17
  len     : Nat
  h       : Byte
  /-- where the claim was placed: pad line and pad lines (0: none), first line -/
  padLine : Nat
  padN    : Nat
  line    : Nat
  /-- units sent so far of the message, the pad header included -/
  sent    : Nat
  /-- counts the sends, to tell the answer to a withdrawn request apart -/
  gen     : Nat
  /-- the cycle of the repeated request after a refusal -/
  retry   : Option Count
  /-- a poisoned or bad body word was sent (09 R314): the trap the sender takes -/
  bad     : Option HeldTrap
  deriving DecidableEq, Repr

def ConnX.none : ConnX :=
  { dest := 0, count := 0, body := 0, len := 0, h := 0, padLine := 0, padN := 0, line := 0, sent := 0, gen := 0,
    retry := Option.none, bad := Option.none }

/-- A header unit the engine owes on a route for a claim it cannot use: a pad header or a VOID head line (09 R320 to R322). -/
structure Owed where
  conn : BitVec 4
  flow : BitVec 16
  dest : CoreId
  line : Nat
  n    : Nat
  void : Bool
  seq  : BitVec 16
  deriving DecidableEq, Repr

/-- What a ring holds beside its registers: the dispatcher's finding and the value at pass start (09 R316, R324). -/
structure RingX where
  /-- a message stands at the head -/
  found    : Bool
  /-- a line of TYPE 0 stops the ring and has been reported -/
  stuck    : Bool
  /-- credit that MDONE or the dispatcher has returned in a cycle, seen by decisions from the next (09 R318) -/
  fresh    : Count × Nat
  passHead : Nat
  deriving DecidableEq, Repr

def RingX.none : RingX := { found := false, stuck := false, fresh := (0, 0), passHead := 0 }

/-- Changes of flags in one cycle, to resolve changes that meet (08 R291): the path and the flags of register writes that set
and clear, and the flags that other changes set. -/
structure FlagCyc where
  cyc  : Count
  path : Nat
  rset : BitVec 64
  rclr : BitVec 64
  sets : BitVec 64
  deriving DecidableEq, Repr

def FlagCyc.at_ (c : Count) : FlagCyc := { cyc := c, path := 0, rset := 0, rclr := 0, sets := 0 }

/-- The bits that hardware events set in write-one-to-clear fields in one cycle, by register offset: a write that clears them in that
cycle leaves them set (00 R14). -/
structure EvCyc where
  cyc : Count
  set : SMap Word
  deriving DecidableEq, Repr

def EvCyc.none : EvCyc := { cyc := 0, set := [] }

/-- Note bits of a register as set in a cycle. -/
def EvCyc.note (e : EvCyc) (now : Count) (off : Nat) (m : Word) : EvCyc :=
  let l := if e.cyc = now then e.set else []
  { cyc := now, set := SMap.set (fun _ => 0) l off (SMap.get (fun _ => 0) l off ||| m) }

/-- The bits of a register set in the present cycle. -/
def EvCyc.bits (e : EvCyc) (now : Count) (off : Nat) : Word := if e.cyc = now then SMap.get (fun _ => 0) e.set off else 0

/-- One core. -/
structure Core where
  /-- the registers of the per-core window, by window offset -/
  win      : SMap Word
  thr      : SMap Thread
  /-- program memory and its parity bits (03 R103) -/
  pm       : SMap PWord
  pmPar    : SMap Bool
  /-- the scratchpad's bytes (07 R243), the parity bits P0 and P1 of its words (07 R247), lines' valid and poison bits -/
  sp       : SMap Byte
  spPar    : SMap (BitVec 2)
  valid    : SMap Bool
  psn      : SMap Bool
  /-- lock waiters in grant order (03 R117) -/
  lockq    : SMap (List Thr)
  fsq      : List CoreId
  fsqOvf   : Bool
  /-- flags 0 to 61; 62 and 63 are kept by hardware (03 R128) -/
  flags    : BitVec 64
  fcyc     : FlagCyc
  /-- barriers whose last notice came from an ABANDON command (08 R296) -/
  nst      : BitVec 16
  /-- the blanks' areas by word: data 2,048 words a blank, scale store 128, extension 1,024 (06 R197) -/
  bdata    : SMap Word
  bscale   : SMap Word
  bext     : SMap Word
  /-- the tile queues 0 primary, 1 fill, 2 load, 3 drain, oldest entry first (06 R211) -/
  tq       : SMap (List TEntry)
  tseq     : Nat
  /-- the matrix instruction whose invalid term TILE_XCAP holds (05 R195) -/
  xcap     : Option Nat
  /-- the staging image of TILE_QDATAm writes (06 R242) -/
  stage    : BitVec 128
  /-- tile timing: the last completion of a writer of blank b at b and of a reader at 8 + b, the first free cycle of the
  matrix unit at 16 and of the load and drain engines at 18 and 19, the cycle queue q was last left at 24 + q -/
  tdone    : SMap Count
  /-- the end of the last row-step that wrote row i of blank b, at 64 x b + i (06 R218) -/
  trow     : SMap Count
  chan     : SMap Chan
  /-- the first cycle in which input C, the edge tap's input X and the DMA engine's local access are free (08 R277; 07 R245) -/
  slotAt   : Count
  edgeAt   : Count
  locAt    : Count
  /-- the cycles in which the DMA engine sends a flag network message, one in each (08 R289) -/
  dmaMsgs  : List Count
  /-- the lines whose valid bit a commit has set in a cycle (07 R255) -/
  vset     : Count × List Nat
  /-- the words, with their faults, that a load woken by a guarded line has read in its grant cycle, by thread (07 R254) -/
  gots     : SMap (List (Word × Option Byte))
  /-- last channel served at each priority (07 R265), pattern slots and local port -/
  served   : SMap Nat
  xlate    : List XEntry
  conn     : SMap ConnX
  connSeq  : SMap (BitVec 16)
  ring     : SMap RingX
  /-- header units owed, oldest first; a reset core keeps its front bank and the units' routes until they have left (09 R322, 08 R287) -/
  owed     : List Owed
  dying    : Bool
  /-- the bed a reset core left, while it still owes units -/
  oldBed   : Option Nat
  /-- router banks in MESH_PDATA layout, at 1,024 x output + slot (08 R278, R284) -/
  front    : SMap Word
  back     : SMap Word
  /-- the revolution N for which MESH_SWITCH is armed (08 R563) -/
  swN      : BitVec 48
  /-- flags of the pass start for a rerun: barriers, local phases and phase bits (08 R300) -/
  snapBar  : SMap Word
  snapPh   : Word
  snapTlo  : Word
  snapThi  : Word
  /-- trace buffer, oldest first; the revolution an armed window opens in, until it has opened; the revolution it opened in; the
  cycle and fill of the 4-entry queue (19 R557, R558) -/
  trace    : List (BitVec 128)
  tarm     : Option (BitVec 48)
  topen    : Option (BitVec 48)
  tqCyc    : Count
  tqFill   : Nat
  /-- the write-one-to-clear bits set in the present cycle (00 R14) -/
  evs      : EvCyc
  deriving DecidableEq, Repr

/-- A core at reset: every register at its reset value, memories zeroed with valid parity (07 R246, 03 R106). -/
def Core.reset : Core :=
  { win := [], thr := [], pm := [], pmPar := [], sp := [], spPar := [], valid := [], psn := [], lockq := [], fsq := [],
    fsqOvf := false, flags := 0, fcyc := FlagCyc.at_ 0, nst := 0, bdata := [], bscale := [], bext := [], tq := [], tseq := 0, xcap := none, stage := 0, tdone := [], trow := [], chan := [],
    slotAt := 0, edgeAt := 0, locAt := 0, dmaMsgs := [], vset := (0, []), gots := [], served := [], xlate := [], conn := [], connSeq := [], ring := [], owed := [], dying := false, oldBed := none, front := [], back := [], swN := 0, snapBar := [], snapPh := 0,
    snapTlo := 0, snapThi := 0, trace := [], tarm := none, topen := none, tqCyc := 0, tqFill := 0, evs := EvCyc.none }

end Sys2Proof.Machine
end

