-- ==== Sys2Proof/Machine/ModuleState.lean ====
section
/-! DEFINITION. The state of the module outside the cores: flag network, mesh, memory tiers, jobs, fabric, reducer, host
link, headstock, spindle and power. -/

namespace Sys2Proof.Machine

/-- What a claim request is answered with (09 R312). -/
inductive ClaimRes where
  | refused
  | noRing
  /-- pad line and lines (0: none), the message's first line -/
  | granted (padLine padN line : Nat)
  deriving DecidableEq, Repr

/-- A message of the flag network (08 R288 to R295, 07 R257, 09 R308, R312, 19 R552). -/
inductive NetBody where
  | flag (n : BitVec 6) (v : Bool)
  | arrival (b : BitVec 4)
  | notice (b : BitVec 4) (abandoned : Bool)
  | fault (core : CoreId)
  | creditReq (ch : Reg) (gen : Nat) (word : BitVec 17) (left burst : Nat)
  | creditAns (ch : Reg) (gen g : Nat) (refused noregion : Bool) (region : Reg)
  /-- a CREDIT_REQ that arrived for a FLOW_RX context, on its way from the tap's anchor to the context's core (12 R417) -/
  | fabricReq (ctx : BitVec 14) (addr : BitVec 64) (left burst : Nat)
  | creditRet (region : Reg) (bytes : Nat)
  /-- a request, its answer and a returned grant between a core and the anchor of the edge tap, for another module (12 R417, 07 R259) -/
  | fabAsk (ch : Reg) (gen : Nat) (ctx : BitVec 14) (flow : BitVec 16) (word : BitVec 17) (left burst : Nat)
  | fabAns (ctx : BitVec 14) (addr : BitVec 64) (g : Nat) (refused noregion : Bool)
  | fabRet (ctx : BitVec 14) (flow : BitVec 16) (bytes : Nat)
  /-- a send COPEN's request with the route it reserved, and its binding reply: whether the ring is open, and its COUNT (09 R308) -/
  | openReq (t : Thr) (conn : BitVec 4) (ring route : Reg)
  | openAns (t : Thr) (conn : BitVec 4) (ring route : Reg) (ok : Bool) (count : Nat)
  | claimReq (conn : BitVec 4) (gen : Nat) (flow : BitVec 16) (ring : Reg) (n : Nat) (seq : BitVec 16)
  | claimAns (conn : BitVec 4) (gen : Nat) (flow : BitVec 16) (n : Nat) (seq : BitVec 16) (res : ClaimRes)
  /-- a bed stop or run on its way to the supervisor, and on its way to a core -/
  | bedCmd (run : Bool)
  | bedAct (run : Bool)
  deriving DecidableEq, Repr

/-- A message in flight: who sent it, who receives it, the cycle it arrives in. -/
structure NetMsg where
  src  : CoreId
  dst  : CoreId
  due  : Count
  body : NetBody
  deriving DecidableEq, Repr

/-- A transfer unit (08 R277); `words` is its payload. -/
structure MUnit where
  flow   : BitVec 16
  kind   : BitVec 3
  addr   : BitVec 17
  words  : List Word
  poison : BitVec 2
  deriving DecidableEq, Repr

/-- Where a unit is: at an input port of a router, or sent on its output C, T or X. -/
inductive Place where
  | inp (p : BitVec 3)
  | outC
  | outT
  | outX
  deriving DecidableEq, Repr

/-- A unit in flight on the mesh and the cycle in which it is at its place. -/
structure MeshUnit where
  core  : CoreId
  place : Place
  due   : Count
  u     : MUnit
  deriving DecidableEq, Repr

/-- A read or acknowledgement a tap presents (10 R331, R334); an acknowledgement names its stage line. -/
structure TapRet where
  due : Count
  u   : MUnit
  ack : Option (BitVec 68)
  deriving DecidableEq, Repr

/-- A pending row remapping (10 R340). -/
structure Remap where
  row  : Nat
  /-- scheduled by MT_RMAP_CMD -/
  cmd  : Bool
  /-- the revolution in which it was scheduled -/
  rev  : BitVec 48
  /-- the pass in which it was scheduled, of the job whose bed anchors the tap: it waits for the next -/
  pass : Option (JobId × BitVec 64)
  deriving DecidableEq, Repr

/-- One tap and its channel (10 R327 to R340). -/
structure Tap where
  /-- cycles and bursts accepted lately, newest first -/
  hist   : List (Count × Nat)
  rets   : List TapRet
  /-- the next burst patrol scrubbing reads -/
  scrub  : Nat
  spares : Nat
  /-- rows already redirected to a spare row -/
  remaps : List Nat
  /-- remappings that wait, oldest first, and the last revolution whose window 0 carried a remapping or a scrub -/
  remap  : List Remap
  maint  : Option (BitVec 48)
  /-- corrected bursts per row since start-up; by burst, the passes (or scrub, none) in which it logged UE -/
  ce     : SMap Nat
  ue     : SMap (List (Option (JobId × BitVec 64)))
  /-- units and bursts accepted so far -/
  units  : Nat
  bursts : Nat
  /-- shadow pages of the channel in use (11 R372) -/
  shUsed : Nat
  deriving DecidableEq, Repr

def Tap.reset : Tap :=
  { hist := [], rets := [], scrub := 0, spares := 512, remaps := [], remap := [], maint := none, ce := [], ue := [], units := 0, bursts := 0,
    shUsed := 0 }

/-- The states of a stage line (10). -/
inductive LineState where
  | filling
  | tentative
  | clean
  | dirty
  deriving DecidableEq, Repr

/-- A stage line held in a channel (10 R346 to R351); an INVALID line is not listed. -/
structure StageLine where
  tap     : Nat
  /-- the line's key: the home in bits 67:52; of this module's memory its local address / 4,096, of another module's its job in bits 51:40
  and its virtual line (11 R359: a module that is not the home uses only MODULE) -/
  addr    : BitVec 68
  /-- job and virtual line for which it was fetched -/
  job     : JobId
  vline   : BitVec 40
  st      : LineState
  present : BitVec 64
  /-- the words written by staged writes, by burst -/
  wrote   : SMap (BitVec 16)
  poison  : BitVec 64
  /-- the cycle in which a unit last accessed the line -/
  last    : Count
  /-- the cycle in which its fill or its first staged write began, and the units and bursts its tap had accepted by then (R347) -/
  since   : Count
  units   : Nat
  bursts  : Nat
  /-- the index of the free value that places the line in the stage pages of its channel (log entry 4) -/
  loc     : Nat
  /-- the burst requested of its home, with which the fill's data begins (12 R419) -/
  first   : BitVec 6
  /-- the fill in progress is for the next pass (11 R377) -/
  forNext : Bool
  data    : SMap Byte
  deriving DecidableEq, Repr

/-- A request to a line's home stager to make every other copy of a written line INVALID (10 R350): the home stager's region, the tap of the
written line, and its key. -/
structure InvReq where
  home : Nat
  tap  : Nat
  addr : BitVec 68
  deriving DecidableEq, Repr

/-- A FILL sent to another module (12 R419): its context, the virtual line, the tap of its stage line; `live` until that line is dropped
(10 R351). -/
structure FillReq where
  ctx   : Nat
  vline : BitVec 40
  tap   : Nat
  live  : Bool
  deriving DecidableEq, Repr

/-- A stream prefetcher (10 R352, R353). -/
structure Stream where
  job   : JobId
  twoD  : Bool
  conf  : Nat
  susp  : Bool
  x0    : BitVec 40
  s1    : Word
  s2    : Word
  n1    : BitVec 12
  /-- the tap of its latest request, requests seen in this pass, and in the pass before it was last kept -/
  tap   : Nat
  n     : Nat
  len   : Nat
  /-- lines fetched ahead so far: the index of the next -/
  ahead : Nat
  /-- order in which streams were taken -/
  taken : Nat
  /-- kept from an earlier pass -/
  kept  : Bool
  deriving DecidableEq, Repr

/-- A stager or fabric translation cache entry (11 R360). -/
structure TEnt where
  job   : JobId
  vpn   : BitVec 36
  entry : BitVec 64
  deriving DecidableEq, Repr

/-- The states of a pass on a module (11 R362, 17 R513). -/
inductive PassState where
  | run
  | done
  | flush
  | flushed
  | named
  | held
  deriving DecidableEq, Repr

/-- A write of one 64-byte burst that crosses modules or waits for its home (11 R369, R370). -/
structure RemoteWrite where
  /-- the module concerned: the home of a deferred write, the source of a received one -/
  modl   : BitVec 16
  va     : BitVec 64
  mask   : BitVec 16
  poison : Bool
  data   : List Word
  deriving DecidableEq, Repr

/-- An agreement message (12 R422, 17 R511). -/
structure AgreeMsg where
  kind    : Byte
  cause   : Byte
  delay   : BitVec 16
  nr      : Bool
  hold    : Bool
  pass    : BitVec 64
  n       : BitVec 64
  /-- write summaries: the module and its pages -/
  sums    : List (BitVec 16 × List (BitVec 36))
  deriving DecidableEq, Repr

/-- An agreement message received from a neighbour's module, and the cycle of its last packet. -/
structure AgreeIn where
  src  : BitVec 16
  at_  : Count
  msg  : AgreeMsg
  deriving DecidableEq, Repr

/-- COPY_IN data held in the headstock (15 R475): its command, address and bytes; the bursts it replaced, once applied. -/
structure CopyIn where
  ring  : BitVec 4
  cid   : BitVec 16
  va    : Nat
  bytes : List Byte
  /-- its pages are in the summary of the module's vote -/
  voted : Bool
  undo  : Option (List (Nat × List Byte × Bool))
  deriving DecidableEq, Repr

/-- One job held on the module (11, 15 R483 to R485). -/
structure Job where
  id       : JobId
  /-- the image, kept in the headstock's reserved pages -/
  image    : List Byte
  rank     : BitVec 16
  mods     : List (BitVec 16)
  lead     : Nat
  rerunMax : Nat
  deadline : Nat
  start    : BitVec 48
  bshadow  : Nat
  lshadow  : Nat
  bed      : BitVec 5
  ox       : Nat
  oy       : Nat
  w        : Nat
  h        : Nat
  supv     : CoreId
  parent   : Option (BitVec 16)
  kids     : List (BitVec 16)
  ctxs     : List Nat
  /-- level 3 translation entries by VPN (11 R359) and the demand-zero ranges: first page, pages, flags -/
  tab      : SMap (BitVec 64)
  dzero    : List (Nat × Nat × Nat)
  pass     : BitVec 64
  st       : PassState
  begun    : Bool
  frozen   : Bool
  /-- the revolution at whose angle 0 the pass deadline expires -/
  dline    : Option (BitVec 48)
  fails    : Nat
  /-- the named revolution of the boundary, rerun or first entry -/
  named    : Option (BitVec 48)
  /-- the named revolution begins a rerun of the pass -/
  again    : Bool
  /-- threads have been prepared for the named revolution -/
  entered  : Bool
  /-- the pass failed here or below: its cause (R374, from 1) -/
  cause    : Option Byte
  sat      : Bool
  written  : List (BitVec 36)
  nr       : Bool
  /-- messages of the agreement received in the pass, oldest first -/
  inbox    : List AgreeIn
  /-- kinds of messages sent in the pass -/
  sent     : List Byte
  sums     : List (BitVec 16 × List (BitVec 36))
  /-- bonded bursts preserved (local address, bytes, poison) and LPDDR6 pages (page address, bytes, poisoned bursts) -/
  shadow   : List (Nat × List Byte × Bool)
  /-- pages whose migration has begun, with their targets (R382) -/
  migs     : List (BitVec 36 × BitVec 48)
  shPages  : List Nat
  lshadows : List (Nat × List (Nat × Byte) × List Nat)
  deferred : List RemoteWrite
  /-- writes received for pages homed here, and WRITE_END counts by source -/
  recv     : List RemoteWrite
  ends     : List (BitVec 16 × Nat)
  applied  : List (BitVec 16)
  /-- homes to which this module sent WRITE_END, and those that have acknowledged -/
  sentEnd  : List (BitVec 16)
  ackEnd   : List (BitVec 16)
  /-- COPY_IN data waiting for the FLUSH of a pass that ends without failure -/
  copyIns  : List CopyIn
  freezeAt : Option (BitVec 48)
  thawAt   : Option (BitVec 48)
  heldTo   : Option (BitVec 48)
  /-- the job is to be held (17 R512) -/
  holdReq  : Bool
  /-- a FAIL of this pass had HOLD = 1, and the largest DELAY -/
  hold     : Bool
  delay    : Nat
  /-- the failed pass has been rolled back -/
  rolled   : Bool
  /-- the failure has been counted and posted -/
  posted   : Bool
  /-- neighbours declared lost, and neighbours no route reaches since a revolution (17 R510) -/
  gone     : List (BitVec 16)
  unrouted : List (BitVec 16 × BitVec 48)
  /-- the requester of the armed switch: ring and CID -/
  swReq    : Option (BitVec 4 × BitVec 16 × BitVec 48)
  deriving DecidableEq, Repr

/-- A saved core (11 R385): its job, the core, and what was saved. -/
structure SavedCore where
  job   : JobId
  core  : CoreId
  image : Core
  deriving DecidableEq, Repr

/-- The link states of a port (12 R399). -/
inductive PortState where
  | down
  | training
  | up
  | failed
  deriving DecidableEq, Repr

/-- A flit kept in a replay buffer: its LSEQ, the revolution it was first sent in, its lane, type and body (12 R394). -/
structure SentFlit where
  lseq : BitVec 12
  rev  : BitVec 48
  vl   : Bool
  type : BitVec 4
  eop  : Bool
  body : List Byte
  deriving DecidableEq, Repr

/-- The fields of a flit (12 R391); its CRC is not kept. -/
structure Flit where
  lseq  : BitVec 12
  type  : BitVec 4
  lack  : BitVec 12
  vl    : Bool
  cred0 : Byte
  cred1 : Byte
  eop   : Bool
  body  : List Byte
  deriving DecidableEq, Repr

/-- A packet that waits at a port: the source whose turn it takes, a context or the forwarded packets (12 R410), its lane and its bytes. -/
structure QPkt where
  src  : Nat
  vl   : Bool
  data : List Byte
  deriving DecidableEq, Repr

/-- One fabric port, or the Brepo link at index 40 (12 R389 to R399, 15 R460). -/
structure Port where
  lseq    : BitVec 12
  expect  : BitVec 12
  /-- the last LSEQ received in order -/
  lack    : BitVec 12
  replay  : List SentFlit
  naked   : Bool
  /-- flits sent on each lane whose buffers have not been returned -/
  cnt0    : Nat
  cnt1    : Nat
  /-- buffers of received flits to be returned in CRED -/
  free0   : Nat
  free1   : Nat
  lackAt  : Count
  /-- body bytes of the packet being received on each lane -/
  part0   : List Byte
  part1   : List Byte
  /-- whole packets received and not yet taken -/
  pkts    : List (Bool × List Byte)
  /-- packets that wait for their turn and for buffers; the packet being sent: its lane, whether its START flit has left, and the bodies of its
  flits left; the source served last (12 R393, R394, R410) -/
  queue   : List QPkt
  sending : Option (Bool × Bool × List (List Byte))
  turn    : Nat
  /-- the flits sent, 256 bytes each (12 R391) -/
  out     : List (List Byte)
  /-- the bit of the codeword being received at which the next flit begins, and whether that codeword could not be corrected (12 R390) -/
  rxPos   : Nat
  rxBad   : Bool
  lastOut : Count
  /-- the one-way delay measured in training, of the Brepo link -/
  delay   : BitVec 16
  /-- codewords corrected since the last pass boundary (17 R521) -/
  corr    : Nat
  /-- attempts of the headstock's retraining under way, and the revolution of the next (17 R521) -/
  retries : Nat
  trainAt : Option (BitVec 48)
  /-- marker bookkeeping (02 R58 to R60) -/
  good    : Nat
  miss    : Nat
  run     : Nat
  hold    : Bool
  hops    : BitVec 4
  mid     : BitVec 16
  /-- the last revolution whose marker has come, or has been counted as missed, and the last whose marker the port has sent (02 R56) -/
  got     : Option (BitVec 48)
  gave    : Option (BitVec 48)
  deriving DecidableEq, Repr

def Port.reset : Port :=
  { lseq := 1, expect := 1, lack := 0, replay := [], naked := false, cnt0 := 0, cnt1 := 0, free0 := 0, free1 := 0, lackAt := 0,
    part0 := [], part1 := [], pkts := [], queue := [], sending := none, turn := 0, out := [], rxPos := 0, rxBad := false, lastOut := 0, delay := 0, corr := 0, retries := 0, trainAt := none, good := 0,
    miss := 0, run := 0, hold := true, hops := 15, mid := 0, got := none, gave := none }

/-- A packet a context has sent and holds (12 R411, R413). -/
structure SentPkt where
  pkt  : Packet
  rev  : BitVec 48
  port : Option Nat
  deriving DecidableEq, Repr

/-- What a context holds beside its record (12 R411 to R413, R418). -/
structure Ctx where
  unack  : List SentPkt
  /-- revolution in which its retransmit timer was armed -/
  trev   : BitVec 48
  /-- packets accepted and not yet acknowledged, and the cycle of the first -/
  owed   : Nat
  owedAt : Count
  /-- DATA, CREDIT and other packets accepted and not yet handled, oldest first -/
  rx     : List Packet
  /-- FLOW_TX: channels whose CREDIT_REQ is unanswered: core, channel, its transfer (12 R417) -/
  asks   : List (CoreId × Reg × Nat)
  /-- REDUCE: a RESULT packet whose words are not all written, and the packets that came behind it (13 R449) -/
  wait   : List Packet
  stale  : Nat
  dup    : Nat
  ooo    : Nat
  deriving DecidableEq, Repr

def Ctx.none : Ctx := { unack := [], trev := 0, owed := 0, owedAt := 0, rx := [], asks := [], wait := [], stale := 0, dup := 0, ooo := 0 }

/-- A feed in progress in a converter (13 R431 to R434). -/
structure Feed where
  /-- header words, then data words not yet converted -/
  head   : List Word
  data   : List Word
  /-- words taken so far, the header included -/
  taken  : Nat
  /-- the next block -/
  block  : Nat
  bad    : Bool
  /-- its rejection has been recorded -/
  told   : Bool
  deriving DecidableEq, Repr

def Feed.none : Feed := { head := [], data := [], taken := 0, block := 0, bad := false, told := false }

/-- A block accumulator (13 R439). -/
structure Accum where
  sums  : SMap (BitVec 48)
  e     : Byte
  emax  : Byte
  flags : Byte
  ncont : Nat
  deriving DecidableEq, Repr

def Accum.zero : Accum := { sums := [], e := 0, emax := 0, flags := 0, ncont := 0 }

/-- A contribution record (13 R439). -/
structure CRec where
  h    : Nat
  n0   : Nat
  n1   : Nat
  sig0 : Word
  sig1 : Word
  deriving DecidableEq, Repr

def CRec.zero : CRec := { h := 0, n0 := 0, n1 := 0, sig0 := 0, sig1 := 0 }

/-- A segment at its home in the pass: for its scan and its data (13 R440, R445). -/
structure Seg where
  /-- the deadline's revolution of arming, once armed -/
  armed : Option (BitVec 48)
  recs  : SMap CRec
  /-- contributions complete -/
  done  : Nat
  deriving DecidableEq, Repr

def Seg.none : Seg := { armed := Option.none, recs := [], done := 0 }

/-- A reduction (13 R429, R430, R437). -/
structure Reduction where
  /-- the descriptor's sixteen words -/
  words  : SMap Word
  /-- segment, contributor and destination tables as in R430, in words of 4 bytes -/
  segs   : List (BitVec 64)
  conts  : List Word
  dests  : List (List Word)
  /-- exponent tables of even and odd passes -/
  etab0  : SMap Byte
  etab1  : SMap Byte
  /-- blocks whose agreed exponents of this pass have arrived, NEXTE exponents received in this pass -/
  agreed : List Nat
  nexte  : Nat
  /-- segments opened in the pass, at 2 x segment + (1: data), accumulators by block, scan maxima by block -/
  seg    : SMap Seg
  acc    : SMap Accum
  scan   : SMap Byte
  /-- result blocks written here by destination entry -/
  wrote  : SMap Nat
  deriving DecidableEq, Repr

def Reduction.none : Reduction :=
  { words := [], segs := [], conts := [], dests := [], etab0 := [], etab1 := [], agreed := [], nexte := 0, seg := [], acc := [],
    scan := [], wrote := [] }

/-- A fetched host command (15 R467, R479). -/
structure HostCmd where
  cid    : BitVec 16
  opc    : Byte
  order  : Bool
  noirq  : Bool
  words  : List Word
  /-- revolution at whose angle 0 its timer expires -/
  expire : BitVec 48
  /-- it has started and waits for an event (LOADPAT, SWITCH, PREEMPT, COPY_IN ...) -/
  started : Bool
  deriving DecidableEq, Repr

/-- A completion or event waiting to be written (15 R468). -/
structure HostCpl where
  status : BitVec 7
  sq     : BitVec 4
  cid    : BitVec 16
  noirq  : Bool
  words  : List Word
  /-- the command's timer runs on while its entry waits for room (15 R469); none for an event -/
  expire : Option (BitVec 48)
  /-- the job that a LAUNCH has installed (15 R479) -/
  launch : Option JobId
  deriving DecidableEq, Repr

/-- One command or completion ring (15 R465 to R472), by its registers and its queues. -/
structure HRing where
  base  : BitVec 64
  cfg   : Word
  tail  : BitVec 16
  head  : BitVec 16
  coal  : Word
  /-- entries fetched and not yet completed, in ring order -/
  cmds  : List HostCmd
  cpls  : List HostCpl
  /-- entries without NOIRQ written since the last MSI, and the cycle of the first -/
  icnt  : Nat
  iat   : Count
  deriving DecidableEq, Repr

def HRing.reset : HRing :=
  { base := 0, cfg := 0x40000, tail := 0, head := 0, coal := 0x40001, cmds := [], cpls := [], icnt := 0, iat := 0 }

/-- An outstanding MEM_RD of a command ring's entry (15 R461, R469). -/
structure HostRead where
  tag  : BitVec 16
  addr : BitVec 64
  ring : BitVec 4
  /-- its data, which waits for that of earlier entries of the ring -/
  data : Option (List Byte)
  deriving DecidableEq, Repr

/-- A packet the module sends to the adapter (15 R461). -/
inductive HostOut where
  | hregCpl (tag : BitVec 16) (data : Word) (access : Bool)
  | memRd (tag : BitVec 16) (addr : BitVec 64) (len : Nat)
  | memWr (addr : BitVec 64) (data : List Byte)
  | msi (vec : BitVec 6)
  | hb (rev : BitVec 48)
  deriving DecidableEq, Repr

/-- A register access path's latches (00 R11). -/
structure Latch where
  /-- the pair's _LO offset that loaded the read latch and bits [63:32] and [95:64] and [127:96] after it -/
  rpair : Option Nat
  rdata : List Word
  wpair : Option Nat
  wdata : Word
  deriving DecidableEq, Repr

def Latch.none : Latch := { rpair := Option.none, rdata := [], wpair := Option.none, wdata := 0 }

/-- The answer of the last access on a path (the MODEL's own record of what the path returned). -/
structure Answer where
  access : Bool
  data   : Word
  deriving DecidableEq, Repr

def Answer.none : Answer := { access := false, data := 0 }

/-- Rest revolutions of a bed (02 R77 to R79). -/
structure Rest where
  /-- the bed's rests since its launch, past and to come, as runs in rising order: the first revolution of each and its length -/
  runs : List (BitVec 48 × Nat)
  deriving DecidableEq, Repr

def Rest.none : Rest := { runs := [] }

/-- Thermal, margin and window state of a region (18 R531 to R533). -/
structure Region where
  /-- thermal rest count 0, 8 or 16 -/
  therm  : Nat
  /-- revolutions since the last alarm at VMAX, while a margin rest holds -/
  marg   : Option (BitVec 48)
  /-- the lowest and highest margin of the window are the command's; alarm seen in the window -/
  alarm  : Bool
  /-- the stack has been read since start-up; it is above 85 degrees -/
  read   : Bool
  hot    : Bool
  /-- whether windows 2, 4 and 6 refreshed before the last change of that need, and the revolution of that change (10 R336) -/
  was    : Bool
  since  : BitVec 48
  /-- the start of the last window in which the stack refreshed -/
  fresh  : Option Count
  /-- the region or stack has been below the thermal limits since this revolution -/
  cool   : Option (BitVec 48)
  deriving DecidableEq, Repr

def Region.reset : Region := { therm := 0, marg := none, alarm := false, read := false, hot := false, was := true, since := 0, fresh := none, cool := none }

/-- A key slot's hashes are fuses; what the model keeps of a firmware image is its header and verdicts (16 R491, R492). -/
structure Fuses where
  /-- logical width, LPDDR6 GiB -/
  width   : BitVec 8
  lpGib   : BitVec 12
  major   : Byte
  minor   : Byte
  serial  : BitVec 64
  /-- failed positions, 80 x row + column -/
  failed  : List Nat
  revoked : BitVec 4
  svn     : Byte
  initRest : BitVec 4
  /-- characterised VCORE, VMIN and VMAX in mV, for every region -/
  vchar   : BitVec 10
  vmin    : BitVec 10
  vmax    : BitVec 10
  deriving DecidableEq, Repr

/-- An entry of the retirement record (17 R524). -/
structure Retired where
  prow  : BitVec 6
  pcol  : BitVec 7
  cause : BitVec 2
  rev   : Word
  deriving DecidableEq, Repr

/-- A parity fault of a core (17 R517): its position as 80 x row + column, the pass and the attempt, told by the attempt's deadline, the
word (2^17 + address for program memory), and the revolution. -/
structure CoreFault where
  pos     : Nat
  job     : JobId
  pass    : BitVec 64
  attempt : Option (BitVec 48)
  word    : Nat
  rev     : BitVec 48
  deriving DecidableEq, Repr

/-- A retirement decided and not yet in effect (17 R517 to R519). -/
structure PendRet where
  prow    : BitVec 6
  pcol    : BitVec 7
  cause   : BitVec 2
  job     : Option JobId
  neutral : Bool
  nospare : Bool
  /-- RETIRE has loaded a pattern for the new map (17 R519) -/
  loaded  : Bool
  deriving DecidableEq, Repr

/-- A FW_ACTIVATE in progress (16 R499 to R501). -/
structure Handover where
  ring  : BitVec 4
  cid   : BitVec 16
  job   : JobId
  flash : Bool
  /-- the handover revolution once fixed -/
  rev   : Option (BitVec 48)
  /-- the roles have been exchanged -/
  swapped : Bool
  /-- the new firmware is confirmed and flash is being written -/
  writing : Bool
  deriving DecidableEq, Repr

/-- What a core or a unit reports to the headstock: a thread that entered STOPPED (03 R129); a parity or poison detection, or a poisoned
delivery, at a core (07 R249; 10 R339); a channel that ends with `CREDIT` or `TIMEOUT` (07 R270); a discarded unit, 1 STRAY or
2 MISROUTE (08 R279); an error of a flag unit, 1 BADCORE, 2 BADBAR (08 R290, R295); a ring stopped at a line of TYPE 0 (09 R316); a unit
that a tap discards (10 R330); a translation fault with its job, page and access, and for DMA the core and channel (11 R380), or in
a stream (10 R353); a failed port (12 R397); a packet discarded as `BADCTX` (12 R406); a reduction that differs (13 R444);
a bit set in SPN_EVENT (02 R80). -/
inductive Report where
  | stopped (c : CoreId) (t : Thr)
  | bad (c : CoreId)
  | dma (c : CoreId) (ch : Reg) (code : Nat)
  | discard (c : CoreId) (kind : Nat)
  | flagUnit (c : CoreId) (kind : Nat)
  | ring (c : CoreId) (n : Nat)
  | tap (t : Nat)
  | xlate (job : JobId) (vpn : BitVec 36) (write : Bool) (dma : Option (CoreId × Reg))
  | link (port : Nat)
  | badCtx (port ctx : Nat)
  | reduction (kind rid seg : Nat)
  | spindle (b : Nat)
  deriving DecidableEq, Repr

/-- The headstock (16, 17). -/
structure Headstock where
  flash    : Option FwImage
  running  : Option FwImage
  standby  : Option FwImage
  handover : Option Handover
  /-- the identity keys and their certificates (16 R502) -/
  idkeys   : List Byte
  certs    : List Byte
  /-- destructive tests run in TEST -/
  tested   : BitVec 4
  retired  : List Retired
  /-- entries of the record that flash holds -/
  inFlash  : Nat
  pending  : List PendRet
  log      : List (BitVec 128)
  logOvf   : Bool
  /-- `PARITY` and `IFETCH` faults of cores (17 R517) -/
  faults   : List CoreFault
  /-- reports received since start-up, oldest first -/
  reports  : List Report
  dtabGen  : Word
  deriving DecidableEq, Repr

/-- Power state (18 R527 to R529). -/
structure Power where
  stby    : Bool
  en      : Bool
  pgood   : Bool
  /-- overvoltage and thermal trip lock-outs -/
  ovLock  : Bool
  trip    : Bool
  fault   : Bool
  deriving DecidableEq, Repr

end Sys2Proof.Machine
end

