-- ==== Sys2Proof/Machine/State.lean ====
section
/-! DEFINITION. The state of the module as plain data, its state after reset, and the reasons a step can stop. -/

namespace Sys2Proof.Machine

/-- Why the machine stops with a fault. No rule of the spec stops the module: every fault of the spec is a next state. -/
inductive Fault where
  /-- Raised by no command: the spec names no event that stops the module. Safe. -/
  | never
  deriving DecidableEq, Repr

/-- Why a command is turned away. -/
inductive Refusal where
  /-- The command of this mnemonic has no meaning yet; raised by the arms of `exec`. Safe. -/
  | notModelled (mnemonic : String)
  /-- The command names a logical core at or above 40 x L, which does not exist (01 R26); raised by every command with a
  core operand. Safe. -/
  | noSuchCore
  /-- The command's operands cannot occur on the hardware (`WellFormed`): a port of 41 or more, a payload of the wrong
  length; raised by the commands WellFormed checks. Safe. -/
  | illFormed
  deriving DecidableEq, Repr

/-- The module. -/
structure State where
  /-- commands waiting, first in, first out: the model's own queue -/
  pending : List Instr
  /-- the spindle count, 4,096 x revolution + angle (02 R53, R54) -/
  now     : Count
  /-- device registers outside the per-core windows, by device offset -/
  dev     : SMap Word
  cores   : SMap Core
  net     : List NetMsg
  mesh    : List MeshUnit
  /-- the local memory's bytes by local address, and its poisoned bursts by address / 64 (10 R327, R342) -/
  dram    : SMap Byte
  dramPsn : SMap Bool
  taps    : SMap Tap
  lines   : List StageLine
  /-- invalidations asked of home stagers, FILLs whose FILL_DATA has not been taken, and the tap of the last MT_RMAP_CMD -/
  invs    : List InvReq
  fills   : List FillReq
  rmapTap : Nat
  /-- prefetch streams at 16 x region + stream -/
  streams : SMap (Option Stream)
  /-- by region, the last STAGE reads that no stream took, newest first, and the count of streams taken -/
  strHist : SMap (List (JobId × BitVec 40))
  strSeq  : Nat
  elog    : List (BitVec 64)
  /-- stager caches 20 x 256 and the fabric cache of 4,096 (11 R360) -/
  stgX    : SMap (List TEnt)
  fabX    : List TEnt
  jobs    : List Job
  saved   : List SavedCore
  ports   : SMap Port
  /-- route table by module number, in FX_RTDATA layout (12 R407) -/
  routes  : SMap Word
  /-- context records at 8 x context + word, and their queues (12 R402) -/
  ctxw    : SMap Word
  ctxs    : SMap Ctx
  reds    : SMap Reduction
  /-- converter feeds at (side, bed, flow) as 2^21 x side + 2^16 x bed + flow, and the free bytes of each input buffer -/
  feeds   : SMap (List Feed)
  feedBuf : SMap Nat
  accFree : Nat
  /-- SCAN and DATA packets in the reducer's input buffer, in arrival order (13 R443) -/
  redQ    : List Packet
  /-- host rings: command rings 0 to 15, completion rings 16 to 31 -/
  rings   : SMap HRing
  reads   : List HostRead
  /-- packets sent to the adapter, and those that wait for the link to be UP again (15 R462) -/
  hostOut : List HostOut
  hostLost : List HostOut
  /-- packets sent whose flits the link has not all acknowledged, with the number of those flits -/
  hostWait : List (HostOut × Nat)
  latches : SMap Latch
  answers : SMap Answer
  rests   : SMap Rest
  regions : SMap Region
  /-- lock measurement (02 R64, R67): values of e so far; error left to slew, in 1/16 cycle -/
  lockE   : List Int
  slewE   : Int
  /-- a change of MASTER takes effect at the next angle 0 (02 R71) -/
  masterTo : Option (Bool × BitVec 48)
  /-- revolution of the last drift step, in HOLDOVER (02 R68) -/
  driftRev : BitVec 48
  fuses   : Fuses
  hs      : Headstock
  power   : Power
  /-- in-band interrupts raised on the sideband, by bit of PW_EVENT (18 R542) -/
  ibis    : List Nat
  kpPrev  : Nat
  /-- beds that have completed a power window since launch -/
  windowed : BitVec 32
  /-- the write-one-to-clear bits set in the present cycle (00 R14) -/
  evs     : EvCyc
  /-- the next free value's index: the model's own field -/
  free    : Nat
  deriving DecidableEq, Repr

/-- The fuses of the model's module (log entry 3): a CM9-3040-15T with no failed position. -/
def Fuses.default : Fuses :=
  { width := 76, lpGib := 1536, major := 0, minor := 0, serial := 0, failed := [], revoked := 0, svn := 0, initRest := 0,
    vchar := 0, vmin := 0, vmax := 0 }

/-- The headstock at reset: no image running, empty log; flash holds no image (log entry 3). -/
def Headstock.reset : Headstock :=
  { flash := none, running := none, standby := none, handover := none, idkeys := [], certs := [],
    tested := 0, retired := [], inFlash := 0, pending := [], log := [], logOvf := false, faults := [], reports := [], dtabGen := 0 }

/-- Right after a power-on reset (00 R15): every register at its reset value (DEV_ORDER, at 0x4, at its fuses: 15 R485), nothing listed in
any memory, rails off. -/
def State.reset : State :=
  { pending := [], now := 0, dev := [(0x4, 0x4C600BE0#32)], cores := [], net := [], mesh := [], dram := [], dramPsn := [], taps := [], lines := [],
    invs := [], fills := [], rmapTap := 0, streams := [], strHist := [], strSeq := 0, elog := [], stgX := [], fabX := [], jobs := [], saved := [], ports := [], routes := [], ctxw := [], ctxs := [],
    reds := [], feeds := [], feedBuf := [], accFree := 131072, redQ := [], rings := [], reads := [], hostOut := [], hostLost := [], hostWait := [], latches := [], answers := [],
    rests := [], regions := [], lockE := [], slewE := 0, masterTo := none, driftRev := 0, fuses := Fuses.default,
    hs := Headstock.reset,
    power := { stby := false, en := false, pgood := false, ovLock := false, trip := false, fault := false },
    ibis := [], kpPrev := 0, windowed := 0, evs := EvCyc.none, free := 0 }

end Sys2Proof.Machine
end

