-- ==== Sys2Proof/Machine/Ops.lean ====
section
/-! DEFINITION. The named operations over the state: access to cores, threads and registers, the clock, the physical map,
the flag network, and taking a trap. -/

namespace Sys2Proof.Machine

/-- The outcome type of a command. -/
abbrev Out := Host.Outcome State Fault Refusal

/-! ### The spindle count (02 R53) -/

/-- The revolution counter. -/
def State.rev (s : State) : BitVec 48 := s.now.extractLsb' 12 48

/-- The angle. -/
def State.angle (s : State) : Nat := s.now.toNat % 4096

/-- The count at angle 0 of a revolution. -/
def revStart (r : BitVec 48) : Count := r ++ 0#12

/-- Whether count `a` is at or before count `b`: the counter wraps, and half its range lies ahead (02 R53). -/
def notAfter (a b : Count) : Bool := (b - a).toNat < 2 ^ 59

/-- The later of two counts. -/
def later (a b : Count) : Count := if notAfter a b then b else a

/-- Whether revolution `a` is at or before revolution `b`. -/
def revNotAfter (a b : BitVec 48) : Bool := (b - a).toNat < 2 ^ 47

/-- The first slot of thread `k` at or after a cycle (03 R81). -/
def slotFrom (k : Thr) (c : Count) : Count := c + BitVec.ofNat 60 ((k.toNat + 4 - c.toNat % 4) % 4)

/-- Whether revolution `r` is a rest revolution (02 R79). -/
def Rest.rests (x : Rest) (r : BitVec 48) : Bool :=
  x.runs.any fun (f, n) => revNotAfter f r && !revNotAfter (f + BitVec.ofNat 48 n) r

/-- The cycle `d`, or the end of the rest revolutions it lies in (02 R77, R78). -/
def Rest.skip (x : Rest) (d : Count) : Count :=
  x.runs.foldl (fun (d : Count) (f, n) =>
    let r := d.extractLsb' 12 48
    if revNotAfter f r && !revNotAfter (f + BitVec.ofNat 48 n) r then revStart (f + BitVec.ofNat 48 n) else d) d

/-- The rest revolutions after revolution `a` and before revolution `b`. -/
def Rest.between (x : Rest) (a b : BitVec 48) : Nat :=
  x.runs.foldl (fun (k : Nat) (f, n) =>
    let o := (f - (a + 1)).toInt
    k + (min (o + n) (b - (a + 1)).toInt - max o 0).toNat) 0

/-- The revolution at whose angle 0 a pausing timer expires that was armed in revolution `m` with `n` revolutions to count (02 R75, R80). -/
def Rest.expiry (x : Rest) (m : BitVec 48) (n : Nat) : BitVec 48 :=
  x.runs.foldl (fun (e : BitVec 48) (f, k) =>
    let o := (f - (m + 1)).toInt
    if o ≤ (e - (m + 1)).toInt then e + BitVec.ofNat 48 (max (o + k) 0 - max o 0).toNat else e) (m + BitVec.ofNat 48 (n + 1))

/-- Whether a timer armed in revolution `m` with count `n` has expired by revolution `r` (02 R75). -/
def expired (m : BitVec 48) (n : Nat) (r : BitVec 48) : Bool := revNotAfter (m + BitVec.ofNat 48 (n + 1)) r

/-! ### Device registers -/

/-- The word of a device register (00 R10): what the bank lists, else its reset value (00 R15). -/
def State.devW (s : State) (off : Nat) : Word := SMap.get devReset s.dev off

/-- Set a device register's word. -/
def State.setDev (s : State) (off : Nat) (w : Word) : State := { s with dev := SMap.set devReset s.dev off w }

/-- A hardware event sets write-one-to-clear bits of a device register in the present cycle (00 R14). -/
def State.evNote (s : State) (off : Nat) (m : Word) : State := { s with evs := s.evs.note s.now off m }

/-- A field of a device register. -/
def State.fld (s : State) (f : Fld) : Nat := f.of (s.devW f.off)

/-- Set a field of a device register. -/
def State.setFld (s : State) (f : Fld) (v : Nat) : State := s.setDev f.off (f.put (s.devW f.off) v)

/-! ### The logical and physical grids (01) -/

/-- The logical width L (01 R26). -/
def State.L (s : State) : Nat := s.fuses.width.toNat

/-- Whether physical position (x, y) is failed: at manufacture or retired (01). -/
def State.failedAt (s : State) (y x : Nat) : Bool :=
  s.fuses.failed.contains (80 * y + x) || s.hs.retired.any (fun r => r.prow.toNat == y && r.pcol.toNat == x)

/-- The working positions of physical row y, from the west. -/
def State.working (s : State) (y : Nat) : List Nat := (List.range 80).filter fun x => !s.failedAt y x

/-- The physical column of logical (c, y): the (c + 1)-th working position (01 R26). -/
def State.pcol (s : State) (c y : Nat) : Nat := (s.working y).getD c 79

/-- Row and column of a logical core, and its physical column (00 R9). -/
def State.lrow (s : State) (n : CoreId) : Nat := n.toNat / s.L
def State.lcol (s : State) (n : CoreId) : Nat := n.toNat % s.L
def State.px (s : State) (n : CoreId) : Nat := s.pcol (s.lcol n) (s.lrow n)

/-- The region of a physical position (01 R23). -/
def regionAt (x y : Nat) : Nat := x / 16 + 5 * (y / 10)

/-- The region of a core. -/
def State.region (s : State) (n : CoreId) : Nat := regionAt (s.px n) (s.lrow n)

/-- Whether a logical core exists: below 40 x L. -/
def State.hasCore (s : State) (n : CoreId) : Bool := n.toNat < 40 * s.L

def absDiff (a b : Nat) : Nat := (a - b) + (b - a)

/-- The flag network latency L(a, b) (08 R288). -/
def State.lat (s : State) (a b : CoreId) : Nat :=
  if a = b then 2
  else if s.region a = s.region b then 18 + (absDiff (s.px a) (s.px b) + absDiff (s.lrow a) (s.lrow b) + 1) / 2
  else 34 + 2 * (absDiff (s.px a / 16) (s.px b / 16) + absDiff (s.lrow a / 10) (s.lrow b / 10))

/-- The physical row and column of a tap (01 R25). -/
def tapRow (t : Nat) : Nat := 10 * (t / 16 / 5) + [1, 3, 6, 8].getD (t % 16 / 4) 0
def tapCol (t : Nat) : Nat := 16 * (t / 16 % 5) + [1, 5, 9, 13].getD (t % 4) 0

/-- The logical column of the anchor of a tap in its row: the core at the tap's position, else the nearest west of it, else
the nearest east (01 R30). -/
def State.anchorCol (s : State) (t : Nat) : Nat :=
  let ws := (s.working (tapRow t)).take s.L
  let west := (ws.filter (fun x => x ≤ tapCol t)).length
  if west = 0 then 0 else west - 1

/-- The anchor of a tap: a logical core (01 R30). -/
def State.anchor (s : State) (t : Nat) : CoreId := BitVec.ofNat 12 (tapRow t * s.L + s.anchorCol t)

/-- The tap a core anchors, the lowest-numbered; 320 for none. -/
def State.tapOf (s : State) (n : CoreId) : Nat := ((List.range 320).find? (fun t => s.anchor t = n)).getD 320

/-- Whether a router anchors a memory tap, or an edge fabric tap (08 R276, 01 R40). -/
def State.hasTap (s : State) (n : CoreId) : Bool := s.tapOf n < 320
def State.hasEdge (s : State) (n : CoreId) : Bool := s.lcol n == 0 || s.lcol n + 1 == s.L

/-- The neighbour on port N, E, S or W (0 to 3), if the grid has one. -/
def State.neighbour (s : State) (n : CoreId) (port : Nat) : Option CoreId :=
  let c := s.lcol n; let y := s.lrow n
  match port with
  | 0 => if y = 0 then none else some (BitVec.ofNat 12 ((y - 1) * s.L + c))
  | 1 => if c + 1 = s.L then none else some (BitVec.ofNat 12 (y * s.L + c + 1))
  | 2 => if y = 39 then none else some (BitVec.ofNat 12 ((y + 1) * s.L + c))
  | 3 => if c = 0 then none else some (BitVec.ofNat 12 (y * s.L + c - 1))
  | _ => none

/-- The cycles of a link: 1, or 3 for a crossing (08 R283, 01 R24). -/
def State.linkCost (s : State) (a b : CoreId) : Nat := if s.region a = s.region b then 1 else 3

/-! ### Cores and threads -/

/-- A core's record. -/
def State.core (s : State) (c : CoreId) : Core := SMap.get (fun _ => Core.reset) s.cores c.toNat

/-- Replace a core's record. -/
def State.setCore (s : State) (c : CoreId) (k : Core) : State :=
  { s with cores := SMap.set (fun _ => Core.reset) s.cores c.toNat k }

/-- Change a core's record. -/
def State.onCore (s : State) (c : CoreId) (f : Core → Core) : State := s.setCore c (f (s.core c))

/-- A thread's record. -/
def Core.th (k : Core) (t : Thr) : Thread := SMap.get (fun _ => Thread.reset) k.thr t.toNat

/-- Replace a thread's record. -/
def Core.setTh (k : Core) (t : Thr) (x : Thread) : Core := { k with thr := SMap.set (fun _ => Thread.reset) k.thr t.toNat x }

def Core.onTh (k : Core) (t : Thr) (f : Thread → Thread) : Core := k.setTh t (f (k.th t))

/-- A thread of a core of the module. -/
def State.th (s : State) (c : CoreId) (t : Thr) : Thread := (s.core c).th t

def State.onTh (s : State) (c : CoreId) (t : Thr) (f : Thread → Thread) : State := s.onCore c (fun k => k.onTh t f)

/-- The word of a window register: what the bank lists, else its reset value. -/
def Core.w (k : Core) (off : Nat) : Word := SMap.get winReset k.win off
def Core.setW (k : Core) (off : Nat) (w : Word) : Core := { k with win := SMap.set winReset k.win off w }
def Core.fld (k : Core) (f : Fld) : Nat := f.of (k.w f.off)
def Core.setFld (k : Core) (f : Fld) (v : Nat) : Core := k.setW f.off (f.put (k.w f.off) v)

/-- A hardware event sets write-one-to-clear bits of a window register in a cycle (00 R14). -/
def Core.evNote (k : Core) (now : Count) (off : Nat) (m : Word) : Core := { k with evs := k.evs.note now off m }

/-- Scalar and vector registers. -/
def Thread.gr (x : Thread) (r : Reg) : Word := SMap.get (fun _ => 0) x.g r.toNat
def Thread.setG (x : Thread) (r : Reg) (w : Word) : Thread := { x with g := SMap.set (fun _ => 0) x.g r.toNat w }
def Thread.vr (x : Thread) (r : Reg) : BitVec 512 := SMap.get (fun _ => 0) x.v r.toNat
def Thread.setV (x : Thread) (r : Reg) (w : BitVec 512) : Thread := { x with v := SMap.set (fun _ => 0) x.v r.toNat w }

/-- A bit of the status word (CORE_THk_STATUS). -/
def Thread.st (x : Thread) (i : Nat) : Bool := x.sw.getLsbD i
def Thread.setSt (x : Thread) (i : Nat) (b : Bool) : Thread :=
  { x with sw := if b then x.sw ||| (1#32 <<< i) else x.sw &&& ~~~(1#32 <<< i) }

/-- Positions of the status word's bits. -/
abbrev bZ : Nat := 0
abbrev bN : Nat := 1
abbrev bC : Nat := 2
abbrev bV : Nat := 3
abbrev bIT : Nat := 4
abbrev bTF : Nat := 5
abbrev bTA : Nat := 6
abbrev bTNV : Nat := 13

/-- The CORE-domain registers of a thread (03 R86). -/
def Core.start (k : Core) (t : Thr) : BitVec 15 := (k.w (R.CORE_TH_START t.toNat)).truncate 15
def Core.tvec (k : Core) (t : Thr) : BitVec 15 := (k.w (R.CORE_TH_TVEC t.toNat)).truncate 15
def Core.dslo (k : Core) (t : Thr) : Nat := bits (k.w (R.CORE_TH_DSLO t.toNat)).toNat 16 0
def Core.dshi (k : Core) (t : Thr) : Nat := bits (k.w (R.CORE_TH_DSHI t.toNat)).toNat 16 0

/-- The state codes of CORE_STATUS. -/
def TState.code : TState → Nat
  | .idle => 0
  | .run => 1
  | .wait => 2
  | .stopped => 3
  | .halted => 4
  | .frozen => 5
  | .debug => 6

/-- All four threads. -/
def allThr : List Thr := [0, 1, 2, 3]

/-- Whether no thread of the core is in RUN or WAIT. -/
def Core.quiet (k : Core) : Bool := allThr.all fun t => (k.th t).state != .run && (k.th t).state != .wait

/-- The bed a core belongs to (MESH_BED), if VALID. -/
def Core.bed (k : Core) : Option Nat := if k.fld F.MESH_BED_VALID = 1 then some (k.fld F.MESH_BED_BED) else none

/-- A bed's rests. -/
def State.rest (s : State) (b : Nat) : Rest := SMap.get (fun _ => Rest.none) s.rests b

/-- The rests a core keeps: those of its bed; a reset core's router keeps its old bed's while it owes units (09 R322). -/
def State.restOf (s : State) (c : CoreId) : Rest := (((s.core c).bed.orElse fun _ => (s.core c).oldBed).map s.rest).getD Rest.none

/-- The job of a bed. -/
def State.jobOfBed (s : State) (b : Nat) : Option Job := s.jobs.find? fun j => j.bed.toNat == b

/-- The job of a core's bed. -/
def State.jobOf (s : State) (c : CoreId) : Option Job := (s.core c).bed.bind s.jobOfBed

/-- The job with an ID. -/
def State.job (s : State) (id : JobId) : Option Job := s.jobs.find? fun j => j.id = id

/-- Change the job with an ID. -/
def State.onJob (s : State) (id : JobId) (f : Job → Job) : State :=
  { s with jobs := s.jobs.map fun j => if j.id = id then f j else j }

/-- Whether a logical core lies in a job's bed. -/
def Job.hasCore (s : State) (j : Job) (c : CoreId) : Bool :=
  j.ox ≤ s.lcol c && s.lcol c < j.ox + j.w && j.oy ≤ s.lrow c && s.lrow c < j.oy + j.h

/-- Whether the core's bed is frozen by a pre-emption (11 R384). -/
def State.frozenAt (s : State) (c : CoreId) : Bool := ((s.jobOf c).map Job.frozen).getD false

/-- The logical cores of a bed, in bed-relative order (15 R485). -/
def Job.cores (s : State) (j : Job) : List CoreId :=
  (List.range (j.w * j.h)).map fun i => BitVec.ofNat 12 ((j.oy + i / j.w) * s.L + j.ox + i % j.w)

/-! ### Headstock reports (17) -/

/-- A report reaches the headstock. -/
def State.toHeadstock (s : State) (r : Report) : State := { s with hs := { s.hs with reports := s.hs.reports ++ [r] } }

/-- Mark a pass of the job as failed on this module with a cause numbered as in R374; the first cause stands. -/
def Job.fail (j : Job) (cause : Byte) : Job := if j.cause.isSome then j else { j with cause := some cause }

/-- The headstock fails a core's part of the current pass (07 R249): the job of the core's bed records the cause. -/
def State.failCore (s : State) (c : CoreId) : State :=
  match s.jobOf c with
  | some j => s.onJob j.id (fun j => j.fail 1)
  | none => s

/-- Note a parity fault of a core, once for each word and attempt (17 R517). -/
def State.noteParity (s : State) (c : CoreId) (w : Nat) : State :=
  match s.jobOf c with
  | some j =>
    let f : CoreFault := { pos := 80 * s.lrow c + s.px c, job := j.id, pass := j.pass, attempt := j.dline, word := w, rev := s.rev }
    if s.hs.faults.any (fun x => x.pos == f.pos && x.job == f.job && x.pass == f.pass && x.attempt == f.attempt && x.word == w) then s
    else { s with hs := { s.hs with faults := s.hs.faults ++ [f] } }
  | none => s

/-- Append an entry to the headstock's error log (17 R523): a full log drops the newest and sets OVF. -/
def State.logHs (s : State) (kind : Nat) (job : JobId) (detail : Nat) : State :=
  if s.hs.log.length < 256 then
    { s with hs := { s.hs with log := s.hs.log ++
        [BitVec.ofNat 128 (kind <<< 124 + job.toNat <<< 112 + s.rev.toNat <<< 48 + detail % 2 ^ 48)] } }
  else { s with hs := { s.hs with logOvf := true } }

/-! ### Trace and counters (19 R556 to R558) -/

/-- Write a trace record of a kind, if the core's capture window is open and KINDS enables it. -/
def Core.traceAt (k : Core) (now : Count) (kind : Nat) (t : Thr) (aux data : Nat) : Core :=
  if k.topen.isNone || !(k.w R.CORE_TRCFG).getLsbD kind || kind = 0 || 13 ≤ kind then k
  else
    -- the 4-entry queue drains one record a cycle
    let fill := if k.tqCyc = now then k.tqFill else k.tqFill - (now - k.tqCyc).toNat
    let k := { k with tqCyc := now, tqFill := fill }
    if 4 ≤ fill then k.setFld F.CORE_TRSTAT_LOST (min 0xFFFF (k.fld F.CORE_TRSTAT_LOST + 1))
    else
      let k := { k with tqFill := fill + 1 }
      let r := BitVec.ofNat 128 ((now.toNat / 4096) <<< 80 + (now.toNat % 4096) <<< 68 + kind <<< 64 + t.toNat <<< 62 + aux <<< 32 + data)
      if k.trace.length < 256 then { k with trace := k.trace ++ [r] }
      else if (k.w R.CORE_TRCFG).getLsbD 30 then
        (({ k with trace := k.trace.drop 1 ++ [r] } : Core).evNote now R.CORE_TRSTAT 0x8000#32).setFld F.CORE_TRSTAT_WRAPPED 1
      else k

/-- Count `n` of an event in the counters that select it; `t` for a per-thread event. -/
def Core.count (k : Core) (event : Nat) (t : Option Thr) (n : Nat) : Core :=
  if k.topen.isNone then k
  else (List.range 4).foldl (fun k m =>
    let sel := (k.w R.CORE_CNTSEL).toNat >>> (8 * m)
    let on := match t with | some t => bit sel (4 + t.toNat) | none => true
    if bits sel 3 0 = event && on then
      k.setW (R.CORE_CNT m) (BitVec.ofNat 32 (min 0xFFFFFFFF ((k.w (R.CORE_CNT m)).toNat + n)))
    else k) k

/-- Trace in a core of the module, at the present cycle. -/
def State.trace (s : State) (c : CoreId) (kind : Nat) (t : Thr) (aux data : Nat) : State :=
  s.onCore c fun k => k.traceAt s.now kind t aux data

/-! ### The flag network (08 R288, R289) -/

/-- Send a message: it arrives L(src, dst) cycles after the present cycle. -/
def State.send (s : State) (src dst : CoreId) (b : NetBody) : State :=
  { s with net := s.net ++ [{ src := src, dst := dst, due := s.now + BitVec.ofNat 60 (s.lat src dst), body := b }] }

/-- The first message for a core that satisfies `p`, with the other messages. -/
def takeMsg (p : NetMsg → Bool) : List NetMsg → Option (NetMsg × List NetMsg)
  | [] => none
  | m :: ms => if p m then some (m, ms) else (takeMsg p ms).map fun (x, r) => (x, m :: r)

/-- The earliest message that satisfies `p`: messages of one core arrive by their due cycles, and in the order of
`before` within one cycle. -/
def earliest (p : NetMsg → Bool) (before : NetMsg → NetMsg → Bool) (ms : List NetMsg) : Option NetMsg :=
  (ms.filter p).foldl (fun b m => match b with
    | none => some m
    | some x => if m.due ≠ x.due then (if notAfter m.due x.due then some m else b)
      else if before m x then some m else b) none

/-- Remove one message. -/
def State.dropMsg (s : State) (m : NetMsg) : State := { s with net := s.net.erase m }

/-! ### Flags (08 R290, 03 R128) -/

/-- The 64 flags as they read: FSUM and FSQN are kept by hardware. -/
def Core.flagWord (k : Core) : BitVec 64 :=
  (k.flags &&& 0x3FFFFFFFFFFFFFFF#64)
    ||| (if k.fsq.isEmpty then 0#64 else 0x4000000000000000#64)
    ||| (if allThr.any (fun t => (k.th t).state == .stopped) then 0x8000000000000000#64 else 0#64)

/-- Decide the wake of a thread in WAIT for an event in cycle `at_` (03 R108): status and wake slot. A wake already decided
stands, but an event of the timer's own cycle overrides the timer, and TF is then 1 (03 R113). -/
def Thread.wakeAt (x : Thread) (at_ : Count) (status : Word) : Thread :=
  match x.wake with
  | some w =>
    if w.status = 1 ∧ status ≠ 1 ∧ w.cyc = at_ + 2 then { (x.setSt bTF true) with wake := some { cyc := at_ + 2, status := status } }
    else x
  | none => { x with wake := some { cyc := at_ + 2, status := status } }

/-- The wait kind and object of a wait record (CORE_THk_WAITON). -/
def Thread.wkind (x : Thread) : Nat := bits x.waiton.toNat 31 28
def Thread.wobj (x : Thread) : Nat := bits x.waiton.toNat 16 0

/-- Whether the thread is in a wait: in WAIT, or frozen or stopped by the debugger in one. -/
def Thread.inWait (x : Thread) : Bool := x.state == .wait || ((x.state == .frozen || x.state == .debug) && x.waits)

/-- Wake the threads of a core that wait and satisfy `p`. -/
def Core.wakeIf (k : Core) (now : Count) (status : Word) (p : Thr → Thread → Bool) : Core :=
  allThr.foldl (fun k t => if (k.th t).inWait && p t (k.th t) then k.onTh t (fun x => x.wakeAt now status) else k) k

/-- The instruction in which a thread waits or is stalled: the one it executed, or after a restore the one at its PC
(11 R387). -/
def Core.waitInstr (k : Core) (c : CoreId) (t : Thr) : Option Instr :=
  match (k.th t).waiting with
  | some i => some i
  | none => decodeAt c t k.pm (k.th t).pc

/-- The value WAITF awaits. -/
def waitPol : Option Instr → Bool
  | some (.waitf _ _ _ _ p) => p
  | _ => true

/-- A wake by an event of the present cycle is undone: a timer of the cycle stands (03 R113). -/
def Thread.unwake (x : Thread) (now : Count) : Thread :=
  if x.wake ≠ some { cyc := now + 2, status := 0 } then x
  else if x.st bTF && x.tcmp == now then { (x.setSt bTF false) with wake := some { cyc := now + 2, status := 1 } }
  else { x with wake := none }

/-- Wake the threads whose WAITF is satisfied by the flags as they stand after the changes of the cycle so far; a WAITF that a change of
this cycle had satisfied, and another has not left so, goes on waiting (08 R291, R292). -/
def Core.wakeFlags (k : Core) (c : CoreId) (now : Count) : Core :=
  let on (t : Thr) (x : Thread) : Bool := x.wkind == 1 && k.flagWord.getLsbD x.wobj == waitPol (k.waitInstr c t)
  let k := allThr.foldl (fun (k : Core) t =>
    let x := k.th t
    if x.inWait && x.wkind == 1 && !on t x then k.setTh t (x.unwake now) else k) k
  k.wakeIf now 0 on

/-- The address of a scratchpad word's bank (07 R243). -/
def bankOf (w : Nat) : Nat := w % 32

/-- Discard a thread's queued and running tile instructions (06 R203). -/
def Core.dropTiles (k : Core) (t : Thr) : Core :=
  { k with tq := (k.tq.map fun p => (p.1, p.2.filter fun e => e.thr ≠ t)).filter fun p => !p.2.isEmpty }

end Sys2Proof.Machine
end

