-- ==== Sys2Proof/Machine/Flags.lean ====
section
/-! DEFINITION. Condition codes and the flags (04 R148). -/

namespace Sys2Proof.Machine

/-- Whether condition code `cc` holds (04 R148). Code 14 is Always; code 15, CALL, always branches. -/
def condHolds (x : Thread) (cc : BitVec 4) : Bool :=
  let z := x.st bZ; let n := x.st bN; let c := x.st bC; let v := x.st bV
  match cc.toNat with
  | 0 => z
  | 1 => !z
  | 2 => n != v
  | 3 => n == v
  | 4 => z || n != v
  | 5 => !z && n == v
  | 6 => c
  | 7 => !c
  | 8 => c || z
  | 9 => !c && !z
  | 10 => n
  | 11 => !n
  | 12 => v
  | 13 => !v
  | _ => true

/-- Set Z, N, C and V from a result, a carry or borrow and a signed overflow. -/
def Thread.setFlags (x : Thread) (r : Word) (c v : Bool) : Thread :=
  (((x.setSt bZ (r == 0)).setSt bN r.msb).setSt bC c).setSt bV v

/-- `a + b + carry` with its carry out and signed overflow. -/
def addFlags (a b : Word) (cin : Bool) : Word × Bool × Bool :=
  let n := a.toNat + b.toNat + b2n cin
  let z := a.toInt + b.toInt + (b2n cin : Int)
  (BitVec.ofNat 32 n, decide (2 ^ 32 ≤ n), z < -(2 ^ 31) || 2 ^ 31 ≤ z)

/-- `a - b - borrow` with its borrow and signed overflow. -/
def subFlags (a b : Word) (bin : Bool) : Word × Bool × Bool :=
  let z := a.toInt - b.toInt - (b2n bin : Int)
  (a - b - BitVec.ofNat 32 (b2n bin), decide (a.toNat < b.toNat + b2n bin), z < -(2 ^ 31) || 2 ^ 31 ≤ z)

end Sys2Proof.Machine
end

