-- ==== Sys2Proof/Machine/Number.lean ====
section
/-! DEFINITION. Number formats and exact arithmetic with one rounding (05): the floating-point formats, the integer formats,
the rounding modes, the stochastic generator, and the operations on one lane. -/

namespace Sys2Proof.Machine

/-! ### Formats (05 R165, R166) -/

/-- A floating-point format: exponent and fraction bits, bias, the encoding of its largest finite magnitude, whether it has
infinities, and the encoding of its default NaN (0: none). -/
structure FFmt where
  eb   : Nat
  fb   : Nat
  bias : Nat
  top  : Nat
  inf  : Bool
  nan  : Nat
  deriving DecidableEq, Repr

def fp64 : FFmt := { eb := 11, fb := 52, bias := 1023, top := 0x7FEFFFFFFFFFFFFF, inf := true, nan := 0x7FF8000000000000 }
def fp32 : FFmt := { eb := 8, fb := 23, bias := 127, top := 0x7F7FFFFF, inf := true, nan := 0x7FC00000 }
def fp16 : FFmt := { eb := 5, fb := 10, bias := 15, top := 0x7BFF, inf := true, nan := 0x7E00 }
def bf16 : FFmt := { eb := 8, fb := 7, bias := 127, top := 0x7F7F, inf := true, nan := 0x7FC0 }
def e4m3 : FFmt := { eb := 4, fb := 3, bias := 7, top := 0x7E, inf := false, nan := 0x7F }
def e5m2 : FFmt := { eb := 5, fb := 2, bias := 15, top := 0x7B, inf := true, nan := 0x7E }
def e3m2 : FFmt := { eb := 3, fb := 2, bias := 3, top := 0x1F, inf := false, nan := 0 }
def e2m3 : FFmt := { eb := 2, fb := 3, bias := 1, top := 0x1F, inf := false, nan := 0 }
def e2m1 : FFmt := { eb := 2, fb := 1, bias := 1, top := 0x7, inf := false, nan := 0 }

/-- The width of a format. -/
def FFmt.width (f : FFmt) : Nat := 1 + f.eb + f.fb

/-- The exponent of the format's smallest step. -/
def FFmt.q (f : FFmt) : Int := 1 - (f.bias : Int) - f.fb

/-- A value: NaN, signalling or quiet; an infinity; or `(-1)^neg × m × 2^e`. -/
inductive Num where
  | nan (sig : Bool)
  | inf (neg : Bool)
  | fin (neg : Bool) (m : Nat) (e : Int)
  deriving DecidableEq, Repr

/-- Flags a result raises, as TFLAGS orders them (05 R194). -/
abbrev flNX : Nat := 1
abbrev flUF : Nat := 2
abbrev flOF : Nat := 4
abbrev flDZ : Nat := 8
abbrev flNV : Nat := 16

/-- Whether flags hold NV. -/
def hasNV (fl : Nat) : Bool := bit fl 4

/-- The value of an encoding (R165, R166): quiet and signalling NaNs by the top fraction bit; in 8-bit formats all quiet. -/
def FFmt.unpack (f : FFmt) (x : Nat) : Num :=
  let neg := bit x (f.eb + f.fb)
  let mag := x % 2 ^ (f.eb + f.fb)
  if f.top < mag then
    if f.inf && mag == f.top + 1 then .inf neg else .nan (decide (8 < f.width) && !bit x (f.fb - 1))
  else
    let ex := mag / 2 ^ f.fb
    let fr := mag % 2 ^ f.fb
    if ex = 0 then .fin neg fr f.q else .fin neg (fr + 2 ^ f.fb) (f.q + (ex - 1 : Nat))

/-- Put a sign on a magnitude's encoding. -/
def FFmt.signed (f : FFmt) (neg : Bool) (mag : Nat) : Nat := mag + b2n neg * 2 ^ (f.eb + f.fb)

/-- The encoding of an infinity. -/
def FFmt.infinity (f : FFmt) (neg : Bool) : Nat := f.signed neg (f.top + 1)

/-! ### Rounding (05 R174 to R178) -/

/-- Rounding codes (04 R154). -/
abbrev rne : Nat := 0
abbrev rtz : Nat := 1
abbrev sr : Nat := 2
/-- Away from zero: for the bounds of a drain's clip only (06 R228). -/
abbrev raz : Nat := 3

/-- Round `m + sticky` units of 2^-sh to an integer; whether it was inexact. `r` is the random number (R177). -/
def roundStep (mode r m sh : Nat) (sticky : Bool) : Nat × Bool :=
  let lo := m >>> sh
  let rem := m % 2 ^ sh
  let half := 2 ^ sh
  let up :=
    if mode = rtz then false
    else if mode = sr then r < (rem * 2 ^ 32) >>> sh
    else if mode = raz then rem ≠ 0 || sticky
    else half < 2 * rem || (2 * rem == half && sh ≠ 0 && (sticky || lo % 2 == 1))
  (lo + b2n up, rem ≠ 0 || sticky)

/-- Round `(-1)^neg × m × 2^e`, with more below the last unit where `sticky`, to a format: encoding and flags (R174 to
R177). A sticky operand has more bits than the format keeps. -/
def FFmt.round (f : FFmt) (mode r : Nat) (neg : Bool) (m : Nat) (e : Int) (sticky : Bool := false) : Nat × Nat :=
  if m = 0 then (f.signed neg 0, 0)
  else
    -- the exponent of the result's last place
    let q := max (e + (Nat.log2 m : Int) - f.fb) f.q
    let (k, inexact) := if q ≤ e then (m <<< (e - q).toNat, sticky) else roundStep mode r m (q - e).toNat sticky
    let enc := (q - f.q).toNat * 2 ^ f.fb + k
    if f.top < enc then
      if f.inf && (mode == rne || mode == raz) then (f.infinity neg, flOF + flNX) else (f.signed neg f.top, flOF + flNX)
    else (f.signed neg enc, if inexact then flNX + (if enc < 2 ^ f.fb then flUF else 0) else 0)

/-- `mix` of R178. -/
def mix (x : BitVec 64) : BitVec 64 :=
  let x := (x ^^^ (x >>> 31)) * 0xD6E8FEB86659FD93#64
  let x := (x ^^^ (x >>> 29)) * 0xC2B2AE3D27D4EB4F#64
  x ^^^ (x >>> 32)

/-- The random number of element `e` for a key and a counter (R178). -/
def srBits (key ctr : Word) (e : Nat) : Nat :=
  (mix ((mix (key ++ ctr)) ^^^ (BitVec.ofNat 64 e * 0x9E3779B97F4A7C15#64)) >>> 32).toNat

/-! ### Exact operations on values -/

/-- The sum of two finite values, exact; an exact zero is negative only where both are (IEEE 754 under RNE). -/
def finAdd (n1 : Bool) (m1 : Nat) (e1 : Int) (n2 : Bool) (m2 : Nat) (e2 : Int) : Bool × Nat × Int :=
  let e := min e1 e2
  let a : Int := (m1 <<< (e1 - e).toNat : Nat)
  let b : Int := (m2 <<< (e2 - e).toNat : Nat)
  let z := (if n1 then -a else a) + (if n2 then -b else b)
  (if z = 0 then n1 && n2 else decide (z < 0), z.natAbs, e)

/-- Compare two finite values: `a < b`. -/
def finLt (n1 : Bool) (m1 : Nat) (e1 : Int) (n2 : Bool) (m2 : Nat) (e2 : Int) : Bool :=
  let d := finAdd n1 m1 e1 (!n2) m2 e2
  d.1 && d.2.1 ≠ 0

/-- An exact value, rounded to a format under RNE or the mode given. -/
def FFmt.pack (f : FFmt) (mode r : Nat) (v : Bool × Nat × Int) : Nat × Nat := f.round mode r v.1 v.2.1 v.2.2

/-- The invalid result: the default NaN with NV. -/
def FFmt.invalid (f : FFmt) : Nat × Nat := (f.nan, flNV)

/-- Whether a value is a NaN; a signalling one. -/
def Num.isNaN : Num → Bool
  | .nan _ => true
  | _ => false
def Num.isSig : Num → Bool
  | .nan s => s
  | _ => false

/-- The default NaN for NaN operands: NV where one signals (R166, R175). -/
def FFmt.nanOf (f : FFmt) (xs : List Num) : Nat × Nat := (f.nan, if xs.any Num.isSig then flNV else 0)

/-- Addition of values. -/
def FFmt.addN (f : FFmt) (a b : Num) : Nat × Nat :=
  match a, b with
  | .inf x, .inf y => if x = y then (f.infinity x, 0) else f.invalid
  | .inf x, .fin .. => (f.infinity x, 0)
  | .fin .., .inf y => (f.infinity y, 0)
  | .fin n1 m1 e1, .fin n2 m2 e2 => f.pack rne 0 (finAdd n1 m1 e1 n2 m2 e2)
  | a, b => f.nanOf [a, b]

def Num.neg : Num → Num
  | .inf s => .inf (!s)
  | .fin s m e => .fin (!s) m e
  | x => x

/-- The exact product of values that are no NaN: none where it is 0 × ∞. -/
def prodN (a b : Num) : Option Num :=
  match a, b with
  | .inf x, .inf y => some (.inf (x != y))
  | .inf x, .fin y m _ => if m = 0 then none else some (.inf (x != y))
  | .fin x m _, .inf y => if m = 0 then none else some (.inf (x != y))
  | .fin x m e, .fin y n g => some (.fin (x != y) (m * n) (e + g))
  | _, _ => some (.nan false)

/-- Round a value that is no NaN. -/
def FFmt.ofN (f : FFmt) (mode r : Nat) : Num → Nat × Nat
  | .nan s => (f.nan, if s then flNV else 0)
  | .inf n => if f.inf then (f.infinity n, 0) else (f.signed n f.top, flOF)
  | .fin n m e => f.round mode r n m e

/-- Multiplication. -/
def FFmt.mulN (f : FFmt) (a b : Num) : Nat × Nat :=
  if a.isNaN || b.isNaN then f.nanOf [a, b]
  else match prodN a b with
    | some p => f.ofN rne 0 p
    | none => f.invalid

/-- Fused multiply-add: NV for 0 × ∞ whatever the addend (R190). -/
def FFmt.fmaN (f : FFmt) (a b c : Num) : Nat × Nat :=
  if a.isNaN || b.isNaN then f.nanOf [a, b, c]
  else match prodN a b with
    | some p => if c.isNaN then f.nanOf [c] else f.addN p c
    | none => f.invalid

/-- Division, correctly rounded; DZ for a finite nonzero value by zero (R190, R194). -/
def FFmt.divN (f : FFmt) (a b : Num) : Nat × Nat :=
  match a, b with
  | .inf _, .inf _ => f.invalid
  | .inf x, .fin y _ _ => (f.infinity (x != y), 0)
  | .fin x _ _, .inf y => (f.signed (x != y) 0, 0)
  | .fin x m e, .fin y n g =>
    if n = 0 then if m = 0 then f.invalid else (f.infinity (x != y), flDZ)
    else
      let k := f.fb + 4 + Nat.log2 n
      let d := m <<< k
      f.round rne 0 (x != y) (d / n) (e - g - k) (d % n ≠ 0)
  | a, b => f.nanOf [a, b]

/-- The integer square root below 2^n, bit by bit. -/
def isqrt (x n : Nat) : Nat :=
  (List.range n).foldl (fun r i => let b := 2 ^ (n - 1 - i); if (r + b) * (r + b) ≤ x then r + b else r) 0

/-- Square root, correctly rounded. -/
def FFmt.sqrtN (f : FFmt) (a : Num) : Nat × Nat :=
  match a with
  | .nan _ => f.nanOf [a]
  | .inf n => if n then f.invalid else (f.infinity false, 0)
  | .fin n m e =>
    if m = 0 then (f.signed n 0, 0)
    else if n then f.invalid
    else
      let k := 2 * (f.fb + 4)
      let k := if (e - k) % 2 = 0 then k else k + 1
      let x := m <<< k
      let r := isqrt x (Nat.log2 x / 2 + 1)
      f.round rne 0 false r ((e - k) / 2) (r * r ≠ x)

/-- The order of values that are no NaN, with -0 below +0 (R190). -/
def ordN (a b : Num) : Bool :=
  match a, b with
  | .inf x, .inf y => x || !y
  | .inf x, _ => x
  | _, .inf y => !y
  | .fin n1 m1 e1, .fin n2 m2 e2 =>
    if m1 = 0 && m2 = 0 then n1 || !n2 else !finLt n2 m2 e2 n1 m1 e1
  | _, _ => true

/-- Numerical `a ≤ b` and `a = b` of values that are no NaN. -/
def leN (a b : Num) : Bool :=
  match a, b with
  | .fin n1 m1 e1, .fin n2 m2 e2 => !finLt n2 m2 e2 n1 m1 e1
  | a, b => ordN a b
def eqN (a b : Num) : Bool := leN a b && leN b a

/-! ### Pairwise trees (05 R185, R192, R196) -/

/-- One level of a pairwise tree: values with the lowest input lane each covers, flags, and the lowest lane of a step that
raised NV (R192, R196). -/
def treeLevel (op : Nat → Nat → Nat × Nat) : List (Nat × Nat) → List (Nat × Nat) × Nat × Option Nat
  | a :: b :: xs =>
    let r := op a.1 b.1
    let (ys, fl, bad) := treeLevel op xs
    ((r.1, a.2) :: ys, fl ||| r.2, if hasNV r.2 then some a.2 else bad)
  | xs => (xs, 0, none)

/-- The tree over `n` levels. -/
def tree (op : Nat → Nat → Nat × Nat) : Nat → List (Nat × Nat) → Nat × Option Nat → Nat × Nat × Option Nat
  | 0, xs, (fl, bad) => ((xs.headD (0, 0)).1, fl, bad)
  | n + 1, xs, (fl, bad) =>
    let (ys, f2, b2) := treeLevel op xs
    let low := match bad, b2 with
      | some a, some b => some (min a b)
      | none, b => b
      | a, none => a
    tree op n ys (fl ||| f2, low)

/-! ### Integer formats (05 R168, R175) -/

/-- An integer format: width and signedness. -/
structure IFmt where
  w   : Nat
  sgn : Bool
  deriving DecidableEq, Repr

def int32 : IFmt := { w := 32, sgn := true }
def int8 : IFmt := { w := 8, sgn := true }
def uint8 : IFmt := { w := 8, sgn := false }
def int4 : IFmt := { w := 4, sgn := true }

/-- The value of an integer encoding. -/
def IFmt.val (f : IFmt) (x : Nat) : Int := if f.sgn then sext f.w x else (x % 2 ^ f.w : Nat)

/-- The encoding of an integer, wrapped to the width. -/
def IFmt.wrap (f : IFmt) (z : Int) : Nat := (z % (2 ^ f.w : Nat)).toNat

def IFmt.lo (f : IFmt) : Int := if f.sgn then -(2 ^ (f.w - 1) : Nat) else 0
def IFmt.hi (f : IFmt) : Int := if f.sgn then (2 ^ (f.w - 1) : Nat) - 1 else (2 ^ f.w : Nat) - 1

/-- Round a finite value to an integer format: beyond the range it saturates with NV and NX (R175). -/
def IFmt.round (f : IFmt) (mode r : Nat) (neg : Bool) (m : Nat) (e : Int) : Nat × Nat :=
  let (k, inexact) := if 0 ≤ e then (m <<< e.toNat, false) else roundStep mode r m (-e).toNat false
  let z : Int := if neg then -(k : Int) else k
  if z < f.lo then (f.wrap f.lo, flNV + flNX)
  else if f.hi < z then (f.wrap f.hi, flNV + flNX)
  else (f.wrap z, if inexact then flNX else 0)

/-- Convert a value to an integer format (R175). -/
def IFmt.ofN (f : IFmt) (mode r : Nat) : Num → Nat × Nat
  | .nan _ => (0, flNV)
  | .inf n => (f.wrap (if n then f.lo else f.hi), flNV)
  | .fin n m e => f.round mode r n m e

/-- An integer as a value. -/
def numOfInt (z : Int) : Num := .fin (decide (z < 0)) z.natAbs 0

end Sys2Proof.Machine
end

