-- ==== Sys2Proof/Machine/Operands.lean ====
section
/-! DEFINITION. Operand forms: the registers an instruction reads, scratchpad words and bytes, guarded lines and credit. -/

namespace Sys2Proof.Machine

/-- The scoreboard numbers of scalar and vector registers. -/
def gN (r : Reg) : Nat := r.toNat
def vN (r : Reg) : Nat := 8 + r.toNat

/-- The registers an instruction reads (03 R89), by scoreboard number. -/
def uses : Instr → List Nat
  | .add _ _ _ a b | .sub _ _ _ a b | .and _ _ _ a b | .or _ _ _ a b | .xor _ _ _ a b | .mul _ _ _ a b | .shl _ _ _ a b
  | .shr _ _ _ a b | .sar _ _ _ a b | .rot _ _ _ a b | .min _ _ _ a b | .max _ _ _ a b | .addc _ _ _ a b | .subc _ _ _ a b
  | .mulh _ _ _ a b | .mulhu _ _ _ a b | .div _ _ _ a b | .divu _ _ _ a b | .rem _ _ _ a b | .remu _ _ _ a b
  | .cmp _ _ a b | .vseed _ _ a b => [gN a, gN b]
  | .mov _ _ _ a | .not _ _ _ a | .addi _ _ _ a _ | .cmpi _ _ a _ => [gN a]
  | .ldw _ _ _ a _ | .ldh _ _ _ a _ | .ldhu _ _ _ a _ | .ldb _ _ _ a _ | .ldbu _ _ _ a _ => [gN a]
  | .stw _ _ r a _ | .sth _ _ r a _ | .stb _ _ r a _ => [gN r, gN a]
  | .sts _ _ r _ | .push _ _ r | .jr _ _ r | .callr _ _ r | .mts _ _ r | .settc _ _ r | .consume _ _ r | .thstart _ _ _ r
  | .mtt _ _ r _ | .loop _ _ _ r _ => [gN r]
  | .vadd _ _ _ _ a b | .vsub _ _ _ _ a b | .vmul _ _ _ _ a b | .vmin _ _ _ _ a b | .vmax _ _ _ _ a b | .vdiv _ _ _ _ a b
  | .vcmpeq _ _ _ _ a b | .vcmplt _ _ _ _ a b | .vcmple _ _ _ _ a b | .vand _ _ _ _ a b | .vor _ _ _ _ a b | .vxor _ _ _ _ a b
  | .vshl _ _ _ _ a b | .vshr _ _ _ _ a b | .vsar _ _ _ _ a b => [vN a, vN b]
  | .vfma _ _ _ _ a b x | .vsel _ _ _ _ a b x => [vN a, vN b, vN x]
  | .vabs _ _ _ _ a | .vneg _ _ _ _ a | .vsqrt _ _ _ _ a | .vcvt _ _ _ _ _ _ a | .vrsum _ _ _ _ a | .vrmax _ _ _ _ a => [vN a]
  | .vbcast _ _ _ _ a => [gN a]
  | .vext _ _ _ _ a b => [vN a, gN b]
  | .vins _ _ _ d a b => [vN d, gN a, gN b]
  | .vld _ _ _ a _ | .vldbc _ _ _ a _ => [gN a]
  | .vst _ _ r a _ => [vN r, gN a]
  | .tld _ _ _ a r _ _ _ => [gN a, gN r]
  | .tdrain _ _ _ a r _ => [gN a, gN r]
  | .dmago _ _ _ a => [gN a]
  | .setf _ _ g _ | .clrf _ _ g _ => [gN g]
  | .copen _ _ _ _ a => [gN a]
  | .msend _ _ _ a b _ => [gN a, gN b]
  | _ => []

/-- The FP64 instructions that issue no earlier than 2 slots after one another (05 R193). -/
def fp64Spaced : Instr → Bool
  | .vadd _ _ f _ _ _ | .vsub _ _ f _ _ _ | .vmul _ _ f _ _ _ | .vfma _ _ f _ _ _ _ => f == 1
  | _ => false

/-! ### Program memory (03 R103) -/

/-- The parity bit of a program memory word. -/
def pmParity (v : PWord) : Bool := (List.range 14).foldl (fun p i => p != v.getLsbD i) false

/-- Whether a program memory word's parity is bad. -/
def Core.pmIsBad (k : Core) (a : Nat) : Bool :=
  SMap.get (fun _ => false) k.pmPar a != pmParity (SMap.get (fun _ => (0 : PWord)) k.pm a)

/-! ### The scratchpad (07 R243 to R249) -/

/-- Words of the scratchpad. -/
abbrev spWords : Nat := 81920

/-- A byte of the scratchpad, by byte address. -/
def Core.spByte (k : Core) (a : Nat) : Byte := SMap.get (fun _ => 0) k.sp a

/-- A word of the scratchpad, by word address. -/
def Core.spWord (k : Core) (w : Nat) : Word :=
  k.spByte (4 * w + 3) ++ (k.spByte (4 * w + 2) ++ (k.spByte (4 * w + 1) ++ k.spByte (4 * w)))

/-- The parity bits of a word: P0, bit 0, makes the even-numbered bits and itself even, P1 the odd-numbered bits (07 R247). -/
def parityBits (v : Word) : BitVec 2 := (List.range 16).foldl (fun p i => p ^^^ v.extractLsb' (2 * i) 2) 0

/-- Whether the word's parity is bad: the bits it carries are not those of its contents. -/
def Core.isBad (k : Core) (w : Nat) : Bool := SMap.get (fun _ => 0) k.spPar w != parityBits (k.spWord w)

/-- Write a byte of a word, which is rewritten whole with its parity (07 R247, R248). -/
def Core.setSpByte (k : Core) (a : Nat) (b : Byte) : Core :=
  let k := { k with sp := SMap.set (fun _ => 0) k.sp a b }
  { k with spPar := SMap.set (fun _ => 0) k.spPar (a / 4) (parityBits (k.spWord (a / 4))) }

/-- A full-word write, which writes new parity (07 R247). -/
def Core.setSpWord (k : Core) (w : Nat) (v : Word) : Core :=
  (((k.setSpByte (4 * w) (v.extractLsb' 0 8)).setSpByte (4 * w + 1) (v.extractLsb' 8 8)).setSpByte (4 * w + 2)
    (v.extractLsb' 16 8)).setSpByte (4 * w + 3) (v.extractLsb' 24 8)

/-- Write consecutive words. -/
def Core.setSpWords (k : Core) (w : Nat) : List Word → Core
  | [] => k
  | v :: vs => (k.setSpWord w v).setSpWords (w + 1) vs

/-- Consecutive words. -/
def Core.spRange (k : Core) (w n : Nat) : List Word := (List.range n).map fun i => k.spWord (w + i)

/-- The line of a word. -/
def lineOf (w : Nat) : Nat := w / 16

/-- Whether a line is poisoned (10 R341). -/
def Core.isPsn (k : Core) (l : Nat) : Bool := SMap.get (fun _ => false) k.psn l
def Core.setPsn (k : Core) (l : Nat) (b : Bool) : Core := { k with psn := SMap.set (fun _ => false) k.psn l b }

/-- A line's valid bit (07 R250). -/
def Core.isValid (k : Core) (l : Nat) : Bool := SMap.get (fun _ => false) k.valid l
def Core.setValid (k : Core) (l : Nat) (b : Bool) : Core := { k with valid := SMap.set (fun _ => false) k.valid l b }

/-- Clear the valid bits of `n` lines from `l`. -/
def Core.clearValid (k : Core) (l n : Nat) : Core := (List.range n).foldl (fun k i => k.setValid (l + i) false) k

/-- What a checking read of a word finds: `POISON` above `PARITY` (07 R248, R249); the cause code. -/
def Core.readFault (k : Core) (w : Nat) : Option Byte :=
  if k.isPsn (lineOf w) then some 0x06 else if k.isBad w then some 0x05 else none

/-- The first word of a list with a fault. -/
def Core.firstBad (k : Core) (ws : List Nat) : Option (Nat × Byte) :=
  ws.findSome? fun w => (k.readFault w).map fun f => (w, f)

/-! ### Guarded regions and credit (07 R250 to R259) -/

/-- A region's registers. -/
def Core.gEn (k : Core) (n : Nat) : Bool := k.fld (F.DMA_GUARD_EN n) = 1
def Core.gBase (k : Core) (n : Nat) : Nat := k.fld (F.DMA_GUARD_BASE n)
def Core.gCount (k : Core) (n : Nat) : Nat := k.fld (F.DMA_GUARD_COUNT n)

/-- The enabled guarded region that covers a line, if any. -/
def Core.regionOf (k : Core) (l : Nat) : Option Nat :=
  (List.range 8).find? fun n => k.gEn n && k.gBase n ≤ l && l < k.gBase n + k.gCount n

/-- The credit counter of a region. -/
def Core.credit (k : Core) (n : Nat) : Nat := k.fld (F.DMA_CREDIT_BYTES n)

/-- Add to a region's credit, never above COUNT x 64 (07 R253, R259). -/
def Core.addCredit (k : Core) (n b : Nat) : Core :=
  k.setFld (F.DMA_CREDIT_BYTES n) (Nat.min (64 * k.gCount n) (k.credit n + b))

/-- Whether a guarded line makes a testing access wait (07 R254). -/
def Core.lineInvalid (k : Core) (l : Nat) : Bool := (k.regionOf l).isSome && !k.isValid l

/-! ### Scratchpad addresses (04 R144, 03 R94) -/

/-- The word address of a word access: ga[16:0] plus the offset, modulo 2^17. -/
def wordAddr (ga : Word) (off : Option (BitVec 14)) : Nat :=
  ((ga.truncate 17 : BitVec 17) + ((off.getD 0).signExtend 17)).toNat

/-- The byte address of a sub-word access: ga[18:0] plus the offset, modulo 2^19. -/
def byteAddr (ga : Word) (off : Option (BitVec 14)) : Nat :=
  ((ga.truncate 19 : BitVec 19) + ((off.getD 0).signExtend 19)).toNat

/-! ### What a load reads (03 R92, R95; 04 R155) -/

/-- First word and number of words of an access that tests valid bits (07 R254). -/
def loadSpan (x : Thread) : Instr → Option (Nat × Nat)
  | .ldw _ _ _ a off => some (wordAddr (x.gr a) off, 1)
  | .ldh _ _ _ a off | .ldhu _ _ _ a off | .ldb _ _ _ a off | .ldbu _ _ _ a off => some (byteAddr (x.gr a) off / 4, 1)
  | .lds _ _ _ off => some (x.dsp.toNat + off.toNat, 1)
  | .pop _ _ _ => some (x.dsp.toNat, 1)
  | .vld _ _ _ a off => some (wordAddr (x.gr a) (some off), 16)
  | .vldbc _ _ _ a off => some (wordAddr (x.gr a) (some off), 1)
  | _ => none

/-- The first line of a span of words that makes a testing access wait. -/
def Core.invalidLine (k : Core) (w n : Nat) : Option Nat :=
  [lineOf w, lineOf (w + n - 1)].find? fun l => k.lineInvalid l

/-- Wake the threads that wait on guarded lines and whose whole access is valid now (07 R254, R256). -/
def Core.wakeLines (k : Core) (c : CoreId) (now : Count) : Core :=
  k.wakeIf now 0 fun t x => x.wkind == 5 &&
    match (k.waitInstr c t).bind (loadSpan x) with
    | some (w, n) => (k.invalidLine w n).isNone
    | none => true

/-- The lines whose valid bit was set in the present cycle (07 R255). -/
def Core.justSet (k : Core) (now : Count) : List Nat := if k.vset.1 = now then k.vset.2 else []

/-- A commit in the present cycle sets the valid bits of the lines a write has ended in, and wakes the threads that wait on them (07 R251,
R254). -/
def Core.setValids (k : Core) (c : CoreId) (now : Count) (ls : List Nat) : Core :=
  let k := ls.foldl (fun (k : Core) l => k.setValid l true) { k with vset := (now, k.justSet now ++ ls) }
  k.wakeLines c now

/-- The first line for which a load of a span waits: an invalid guarded line, or one that a commit of the same cycle sets valid (07 R254,
R255). -/
def Core.heldLine (k : Core) (now : Count) (w n : Nat) : Option Nat :=
  [lineOf w, lineOf (w + n - 1)].find? fun l => k.lineInvalid l || ((k.regionOf l).isSome && (k.justSet now).contains l)

end Sys2Proof.Machine
end

