-- ==== Sys2Proof/Machine/TileOps.lean ====
section
/-! DEFINITION. Blanks: configuration, formats, storage, the queues' order and the words a tile instruction touches
(06 R197 to R199, R205, R211 to R215). -/

namespace Sys2Proof.Machine

/-! ### Formats by code (04 R156, 06 R198) -/

/-- The element width of a format code. -/
def tWidth (f : Nat) : Nat := [32, 16, 16, 8, 8, 8, 8, 4, 8, 8, 6, 6, 4, 8, 64].getD f 32

/-- The row granule of a format code in bytes (R198). -/
def tGranule (f : Nat) : Nat := [4, 4, 4, 4, 4, 4, 4, 4, 32, 32, 24, 24, 16, 32, 8].getD f 4

/-- Whether a format code is an MX format. -/
def tMX (f : Nat) : Bool := 8 ≤ f && f < 14

/-- The floating-point format of a code's elements; none for integers. -/
def tF (f : Nat) : Option FFmt :=
  match f with
  | 0 => some fp32
  | 1 => some bf16
  | 2 => some fp16
  | 3 | 8 => some e4m3
  | 4 | 9 => some e5m2
  | 10 => some e2m3
  | 11 => some e3m2
  | 12 => some e2m1
  | _ => none

/-- The integer format of a code's elements. -/
def tI (f : Nat) : IFmt :=
  match f with
  | 6 => uint8
  | 7 => int4
  | _ => int8

/-- The exponent q of a narrow format's smallest step (R180). -/
def tq_ (f : Nat) : Int := match tF f with | some g => g.q | none => if f = 13 then -6 else 0

/-- The value of an element's bits, its block scale not applied. -/
def tNum (f x : Nat) : Num :=
  match tF f with
  | some g => g.unpack x
  | none =>
    let z := (tI f).val x
    .fin (decide (z < 0)) z.natAbs (if f = 13 then -6 else 0)

/-- A value times 2^(X - 127); X = 0xFF makes it a NaN (R169). -/
def scaled (x : Nat) : Num → Num
  | .fin s m e => if x = 255 then .nan false else .fin s m (e + x - 127)
  | v => if x = 255 then .nan false else v

/-- Words of the scratchpad image of a row of n elements in a format (R169, R171); none where it is no whole number of words or
of blocks (ROWIMG). -/
def rowWords (f n : Nat) : Option Nat :=
  if tMX f then if n % 32 = 0 then some (n / 32 * (1 + tWidth f)) else none
  else if n * tWidth f % 32 = 0 then some (n * tWidth f / 32) else none

/-! ### Configuration (R197 to R199) -/

def Core.tCfg (k : Core) (b : Reg) : Bool := k.fld (F.TILE_CFG_CFG b.toNat) = 1
def Core.tOwner (k : Core) (b : Reg) : Nat := k.fld (F.TILE_CFG_OWNER b.toNat)
def Core.tFmt (k : Core) (b : Reg) : Nat := k.fld (F.TILE_CFG_FMT b.toNat)
def Core.tRows (k : Core) (b : Reg) : Nat := k.fld (F.TILE_CFG_ROWSM1 b.toNat) + 1
def Core.tBpr (k : Core) (b : Reg) : Nat := 4 * (k.fld (F.TILE_CFG_BPRM1 b.toNat) + 1)
/-- Elements per row. -/
def Core.tE (k : Core) (b : Reg) : Nat := 8 * k.tBpr b / tWidth (k.tFmt b)

/-- Set sticky flags of a blank (05 R194). -/
def Core.tFlag (k : Core) (b : Reg) (fl : Nat) : Core :=
  k.setW (R.TILE_CFG b.toNat) (k.w (R.TILE_CFG b.toNat) ||| BitVec.ofNat 32 (fl <<< 5))

/-- Zero a blank's data area, scale store and extension. -/
def Core.tClear (k : Core) (b : Reg) : Core :=
  { k with
    bdata := SMap.keep (fun i => i / 2048 ≠ b.toNat) k.bdata
    bscale := SMap.keep (fun i => i / 128 ≠ b.toNat) k.bscale
    bext := SMap.keep (fun i => i / 1024 ≠ b.toNat) k.bext }

/-! ### Storage (R199) -/

/-- Words of the areas. -/
def Core.bw (k : Core) (b i : Nat) : Nat := (SMap.get (fun _ => (0 : Word)) k.bdata (2048 * b + i % 2048)).toNat
def Core.setBw (k : Core) (b i : Nat) (v : Word) : Core :=
  { k with bdata := SMap.set (fun _ => 0) k.bdata (2048 * b + i % 2048) v }

/-- `w` bits of a blank's data area from bit `off`. -/
def Core.tBits (k : Core) (b : Reg) (off w : Nat) : Nat :=
  let i := off / 32
  ((k.bw b.toNat i + k.bw b.toNat (i + 1) * 2 ^ 32 + k.bw b.toNat (i + 2) * 2 ^ 64) >>> (off % 32)) % 2 ^ w

/-- Replace `w` bits of a blank's data area from bit `off`. -/
def Core.tSetBits (k : Core) (b : Reg) (off w v : Nat) : Core :=
  let i := off / 32
  let lo := off % 32
  let old := k.bw b.toNat i + k.bw b.toNat (i + 1) * 2 ^ 32 + k.bw b.toNat (i + 2) * 2 ^ 64
  let new := old - (old >>> lo) % 2 ^ w * 2 ^ lo + v % 2 ^ w * 2 ^ lo
  let k := k.setBw b.toNat i (BitVec.ofNat 32 new)
  let k := if 32 < lo + w then k.setBw b.toNat (i + 1) (BitVec.ofNat 32 (new >>> 32)) else k
  if 64 < lo + w then k.setBw b.toNat (i + 2) (BitVec.ofNat 32 (new >>> 64)) else k

/-- Element (i, j): the bits at its place. -/
def Core.tElem (k : Core) (b : Reg) (i j : Nat) : Nat :=
  k.tBits b (8 * k.tBpr b * i + tWidth (k.tFmt b) * j) (tWidth (k.tFmt b))
def Core.tSetElem (k : Core) (b : Reg) (i j v : Nat) : Core :=
  k.tSetBits b (8 * k.tBpr b * i + tWidth (k.tFmt b) * j) (tWidth (k.tFmt b)) v

/-- The scale byte of block n of row i. -/
def Core.tScale (k : Core) (b : Reg) (i n : Nat) : Nat :=
  let a := i * (k.tBpr b / tGranule (k.tFmt b)) + n
  bits (SMap.get (fun _ => (0 : Word)) k.bscale (128 * b.toNat + a / 4 % 128)).toNat (8 * (a % 4) + 7) (8 * (a % 4))
def Core.tSetScale (k : Core) (b : Reg) (i n x : Nat) : Core :=
  let a := i * (k.tBpr b / tGranule (k.tFmt b)) + n
  let key := 128 * b.toNat + a / 4 % 128
  let old := (SMap.get (fun _ => (0 : Word)) k.bscale key).toNat
  let sh := 8 * (a % 4)
  { k with bscale := SMap.set (fun _ => 0) k.bscale key (BitVec.ofNat 32 (old - old >>> sh % 256 * 2 ^ sh + x % 256 * 2 ^ sh)) }

/-- The value of element (i, j) of a blank that is not ACC64, block scale applied. -/
def Core.tVal (k : Core) (b : Reg) (i j : Nat) : Num :=
  let v := tNum (k.tFmt b) (k.tElem b i j)
  if tMX (k.tFmt b) then scaled (k.tScale b i (j / 32)) v else v

/-! ### Exact accumulators (05 R171, R181, R183; 06 R199) -/

/-- An accumulator's state code (0 NUMBER, 1 +INF, 2 -INF, 3 OVR, 4 NAN) and its sum T. -/
structure AccV where
  st : Nat
  t  : Int
  deriving DecidableEq, Repr

def Core.tAcc (k : Core) (b : Reg) (i j : Nat) : AccV :=
  let lo := k.tBits b (8 * k.tBpr b * i + 64 * j) 64
  let x := (SMap.get (fun _ => (0 : Word)) k.bext (1024 * b.toNat + (i * k.tE b + j) % 1024)).toNat
  { st := bits x 26 24, t := sext 88 (lo + x % 2 ^ 24 * 2 ^ 64) }

def Core.tSetAcc (k : Core) (b : Reg) (i j : Nat) (a : AccV) : Core :=
  let n := (a.t % (2 ^ 88 : Nat)).toNat
  let k := k.tSetBits b (8 * k.tBpr b * i + 64 * j) 64 n
  { k with
    bext := SMap.set (fun _ => 0) k.bext (1024 * b.toNat + (i * k.tE b + j) % 1024)
      (BitVec.ofNat 32 (n / 2 ^ 64 + a.st * 2 ^ 24)) }

/-- The state of an accumulator as it is read: OVR where T is out of range (R183). -/
def AccV.read (a : AccV) : Nat := if a.st = 0 && (2 ^ 63 - 1 : Int) < a.t.natAbs then 3 else a.st

/-! ### Queues and order (R211 to R215) -/

/-- The queue of a tile instruction: 0 primary, 1 fill, 2 load, 3 drain. -/
def tileQueue : Instr → Option Nat
  | .tmma _ _ _ _ _ q _ => some (if q then 1 else 0)
  | .tld .. => some 2
  | .tdrain .. => some 3
  | _ => none

/-- The depth of a queue. -/
def tileDepth (q : Nat) : Nat := if q < 2 then 4 else 2

/-- The entries of a queue, oldest first. -/
def Core.tqOf (k : Core) (q : Nat) : List TEntry := SMap.get (fun _ => []) k.tq q
def Core.setTq (k : Core) (q : Nat) (l : List TEntry) : Core := { k with tq := SMap.set (fun _ => []) k.tq q l }

/-- All entries not completed. -/
def Core.tqAll (k : Core) : List TEntry := [0, 1, 2, 3].flatMap k.tqOf

/-- Blanks an instruction reads, and blanks it writes (R214); a drain writes the flags of the blank it drains. -/
def tileReads : Instr → List Reg
  | .tmma _ _ tc ta tb _ _ => [tc, ta, tb]
  | .tdrain _ _ tc _ _ o => tc :: ((if o.se && !o.sk then [o.sreg] else []) ++ (if o.be && !o.bk then [o.breg] else []))
  | _ => []
def tileWrites : Instr → List Reg
  | .tmma _ _ tc _ _ _ _ => [tc]
  | .tld _ _ tb _ _ _ _ _ => [tb]
  | .tdrain _ _ tc _ _ o => tc :: (if o.ste then [o.stb] else [])
  | _ => []

/-- Whether an entry counts as incomplete for the order of R214: a held TMMA counts as complete (R233). -/
def TEntry.open_ (e : TEntry) : Bool := !e.held

/-- Whether an issued instruction that has not completed names a blank (TILE_CFGn.BUSY). -/
def Core.tBusy (k : Core) (b : Reg) : Bool := k.tqAll.any fun e => (tileReads e.i).contains b || (tileWrites e.i).contains b

/-- Whether some incomplete instruction names a blank, or writes it, for the order of R214. -/
def Core.tNamed (k : Core) (b : Reg) : Bool :=
  k.tqAll.any fun e => e.open_ && ((tileReads e.i).contains b || (tileWrites e.i).contains b)
def Core.tWritten (k : Core) (b : Reg) : Bool := k.tqAll.any fun e => e.open_ && (tileWrites e.i).contains b

/-- Whether an instruction is a TMMA. -/
def isTmma : Instr → Bool
  | .tmma .. => true
  | _ => false

/-- The scratchpad image of a queued load or drain: first word, rows, stride, words a row (R212). -/
def Core.tImage (k : Core) (i : Instr) (ga gs : Nat) : Option (Nat × Nat × Nat × Nat) :=
  match i with
  | .tld _ _ tb _ _ sfmt tr _ =>
    let (rows, n) := if tr then (k.tE tb, k.tRows tb) else (k.tRows tb, k.tE tb)
    (rowWords sfmt.toNat n).map fun w => (ga, rows, gs, w)
  | .tdrain _ _ tc _ _ o => (rowWords o.ofmt.toNat (k.tE tc)).map fun w => (ga, k.tRows tc, gs, w)
  | _ => none

/-- Whether an image touches a span of words. -/
def imageTouches (im : Nat × Nat × Nat × Nat) (w n : Nat) : Bool :=
  (List.range im.2.1).any fun r => im.1 + r * im.2.2.1 < w + n && w < im.1 + r * im.2.2.1 + im.2.2.2

/-- Whether two images overlap. -/
def imagesMeet (a b : Nat × Nat × Nat × Nat) : Bool :=
  (List.range a.2.1).any fun r => imageTouches b (a.1 + r * a.2.2.1) a.2.2.2

/-- The image of an entry. -/
def Core.eImage (k : Core) (e : TEntry) : Option (Nat × Nat × Nat × Nat) := k.tImage e.i e.ga.toNat e.gs.toNat

/-- Words a thread's load or store touches. -/
def memSpan (x : Thread) (i : Instr) : Option (Nat × Nat) :=
  match loadSpan x i with
  | some p => some p
  | none =>
    match i with
    | .stw _ _ _ a off => some (wordAddr (x.gr a) off, 1)
    | .sth _ _ _ a off | .stb _ _ _ a off => some (byteAddr (x.gr a) off / 4, 1)
    | .sts _ _ _ off => some (x.dsp.toNat + off.toNat, 1)
    | .push _ _ _ => some (x.dsp.toNat - 1, 1)
    | .vst _ _ _ a off => some (wordAddr (x.gr a) (some off), 16)
    | _ => none

/-- The vector register an instruction writes. -/
def writesV : Instr → Option Reg
  | .vadd _ _ _ d _ _ | .vsub _ _ _ d _ _ | .vmul _ _ _ d _ _ | .vmin _ _ _ d _ _ | .vmax _ _ _ d _ _ | .vdiv _ _ _ d _ _
  | .vcmpeq _ _ _ d _ _ | .vcmplt _ _ _ d _ _ | .vcmple _ _ _ d _ _ | .vand _ _ _ d _ _ | .vor _ _ _ d _ _
  | .vxor _ _ _ d _ _ | .vshl _ _ _ d _ _ | .vshr _ _ _ d _ _ | .vsar _ _ _ d _ _ | .vfma _ _ _ d _ _ _
  | .vsel _ _ _ d _ _ _ | .vabs _ _ _ d _ | .vneg _ _ _ d _ | .vsqrt _ _ _ d _ | .vcvt _ _ _ _ _ d _ | .vrsum _ _ _ d _
  | .vrmax _ _ _ d _ | .vbcast _ _ _ d _ | .vins _ _ _ d _ _ | .vld _ _ d _ _ | .vldbc _ _ d _ _ => some d
  | _ => none

/-- Vector registers a drain reads when it starts (R213). -/
def drainVregs : Instr → List Reg
  | .tdrain _ _ _ _ _ o =>
    (if o.se && o.sk then [o.sreg] else []) ++ (if o.be && o.bk then [o.breg] else []) ++ (if o.ce then [o.creg] else [])
  | _ => []

/-- Whether the thread's tile instructions make instruction `i` stall (R213, R215). -/
def Core.tileStalls (k : Core) (t : Thr) (i : Instr) : Bool :=
  (match writesV i with
    | some d => (k.tqOf 3).any fun e => e.thr == t && e.start.isNone && (drainVregs e.i).contains d
    | none => false) ||
  (match memSpan (k.th t) i with
    | some (w, n) => (k.tqOf 2 ++ k.tqOf 3).any fun e => e.thr == t && (match k.eImage e with
      | some im => imageTouches im w n
      | none => false)
    | none => false)

/-- A cycle no earlier than `d` and than a recent cycle `r`; a cycle far from `d` is long past. -/
def notBefore (d r : Count) : Count := if (r - d).toNat < 2 ^ 20 then r else d

end Sys2Proof.Machine
end

