-- ==== Sys2Proof/Machine/TileNum.lean ====
section
/-! DEFINITION. The arithmetic of the tile engines: MX blocks, the matrix product, loads and drains (05 R169 to R188;
06 R223 to R231). -/

namespace Sys2Proof.Machine

/-! ### MX blocks (05 R170) -/

/-- Convert a value, already divided by the block scale, to an MX element: no infinity, overflow saturates with OF (R175). -/
def mxElem (f mode r : Nat) (v : Num) : Nat × Nat :=
  match tF f with
  | some g => { g with inf := false }.ofN mode r v
  | none =>
    match v with
    | .nan _ => (0, flNV)
    | .inf n => (if n then 128 else 127, flOF)
    | .fin n m e =>
      let x := int8.round mode r n m (e + 6)
      if hasNV x.2 then (x.1, flOF + flNX) else x

/-- The larger magnitude of two finite values. -/
def magMax (a b : Nat × Int) : Nat × Int := if finLt false a.1 a.2 false b.1 b.2 then b else a

/-- The scale byte of 32 values (R170). -/
def mxScale (f : Nat) (vs : List Num) : Nat :=
  if vs.any Num.isNaN then 255
  else
    let a := vs.foldl (fun a v => match v with | .fin _ m e => magMax a (m, e) | _ => a) (0, 0)
    if a.1 = 0 then 0
    else
      let emax : Int := match f with | 8 => 8 | 9 => 15 | 10 => 2 | 11 => 4 | 12 => 2 | _ => 0
      (max 0 (min 254 ((Nat.log2 a.1 : Int) + a.2 - emax + 127))).toNat

/-- Form a block: scale, element bits and flags of each. In a block with a NaN the elements' bits are not stated: `free`. -/
def mxBlock (f mode : Nat) (rs free : Nat → Nat) (vs : List Num) : Nat × List (Nat × Nat) :=
  let x := mxScale f vs
  if x = 255 then
    (255, (vs.zip (List.range vs.length)).map fun (v, e) => (free e % 2 ^ tWidth f, if v.isNaN then flNV else 0))
  else
    (x, (vs.zip (List.range vs.length)).map fun (v, e) => mxElem f mode (rs e)
      (match v with | .fin n m g => .fin n m (g + 127 - x) | v => v))

/-- Convert a value to a format that is not MX (R174, R175). -/
def tConv (f mode r : Nat) (v : Num) : Nat × Nat :=
  match tF f with
  | some g => g.ofN mode r v
  | none => (tI f).ofN mode r v

/-! ### Binary32 steps -/

def add32 (a b : Nat) : Nat × Nat := fp32.addN (fp32.unpack a) (fp32.unpack b)
def mul32 (a b : Nat) : Nat × Nat := fp32.mulN (fp32.unpack a) (fp32.unpack b)
def max32 (a b : Nat) : Nat × Nat :=
  let x := fp32.unpack a; let y := fp32.unpack b
  if x.isNaN || y.isNaN then fp32.nanOf [x, y] else if ordN y x then (a, 0) else (b, 0)

/-- The smaller of two optional indexes. -/
def optMin : Option Nat → Option Nat → Option Nat
  | some a, some b => some (min a b)
  | none, b => b
  | a, none => a

/-- The sum of values with their indexes in the order of R185: a tree in each group of 32, padded with +0, then groups in
sequence onto `c0`; flags, and the lowest index under a step that raised NV. DESIGN CHOICE (log entry 49): where an addition is the invalid
operation, the k that R195 captures is the lowest that the addition covers, the group's first for the addition onto `c0`. -/
def sum185 (c0 : Option Nat) (xs : List (Nat × Nat)) : Nat × Nat × Option Nat :=
  let groups := (List.range ((xs.length + 31) / 32)).map fun g =>
    (List.range 32).map fun t => xs.getD (32 * g + t) (0, 32 * g + t)
  let r := groups.foldl (fun (acc : Option Nat × Nat × Option Nat) g =>
    let (v, fl, bad) := tree add32 5 g (0, none)
    match acc.1 with
    | none => (some v, acc.2.1 ||| fl, optMin acc.2.2 bad)
    | some c =>
      let s := add32 c v
      (some s.1, acc.2.1 ||| fl ||| s.2, optMin (optMin acc.2.2 bad) (if hasNV s.2 then (g.headD (0, 0)).2 else none)))
    (c0, 0, none)
  (r.1.getD 0, r.2.1, r.2.2)

/-! ### The matrix product (05 R181, R185) -/

/-- One element of a row-step: what it raised and the lowest k of an invalid term. -/
structure Term where
  fl  : Nat
  bad : Option Nat
  deriving DecidableEq, Repr

/-- Fixed-order accumulation of one row against one column (R185). DESIGN CHOICE (log entry 49): an MX operand whose scaled value lies outside
the FP32 range enters the multiplication exact. -/
def dotFix (as bs : List Num) (c0 : Nat) : Nat × Term :=
  let ps := (List.zip as bs).map fun (a, b) => fp32.mulN a b
  let ix := ps.zip (List.range ps.length)
  let pf := ps.foldl (fun a p => a ||| p.2) 0
  let pb := (ix.find? fun (p, _) => hasNV p.2).map Prod.snd
  let (v, fl, bad) := sum185 (some c0) (ix.map fun (p, k) => (p.1, k))
  (v, { fl := pf ||| fl, bad := optMin pb bad })

/-- An operand of exact accumulation: its scale byte and its element. -/
structure XOp where
  x : Nat
  v : Num
  deriving DecidableEq, Repr

/-- Join two accumulator states (R181); NV for infinities of both signs. -/
def accJoin (a b : Nat) : Nat × Nat :=
  if a = 4 || b = 4 then (4, 0)
  else if (a = 1 && b = 2) || (a = 2 && b = 1) then (4, flNV)
  else if a = 1 || a = 2 then (a, 0)
  else if b = 1 || b = 2 then (b, 0)
  else if a = 3 || b = 3 then (3, 0)
  else (0, 0)

/-- The integer of a finite element in units of 2^q. -/
def unitsOf (q : Int) (n : Bool) (m : Nat) (e : Int) : Int :=
  let z : Int := (m <<< (e - q).toNat : Nat)
  if n then -z else z

/-- Add one product to an accumulator (R181): the accumulator and the flags raised. -/
def accMul (qa qb d : Int) (a b : XOp) (c : AccV) : AccV × Nat :=
  let sh : Int := ((a.x : Int) - 127) + ((b.x : Int) - 127) - d
  match (if a.x = 255 then .nan false else a.v), (if b.x = 255 then .nan false else b.v) with
  | .nan _, _ | _, .nan _ => ({ c with st := 4 }, flNV)
  | .inf x, .inf y => let j := accJoin c.st (if x != y then 2 else 1); ({ c with st := j.1 }, j.2)
  | .inf x, .fin y m _ | .fin y m _, .inf x =>
    if m = 0 then ({ c with st := 4 }, flNV)
    else let j := accJoin c.st (if x != y then 2 else 1); ({ c with st := j.1 }, j.2)
  | .fin n1 m1 e1, .fin n2 m2 e2 =>
    let p := unitsOf qa n1 m1 e1 * unitsOf qb n2 m2 e2
    let u : Int := if 0 ≤ sh then p * (2 ^ sh.toNat : Nat) else p.tdiv (2 ^ (-sh).toNat : Nat)
    let nx := if sh < 0 && p.tmod (2 ^ (-sh).toNat : Nat) ≠ 0 then flNX else 0
    if (2 ^ 71 : Nat) ≤ u.natAbs then ({ c with st := (accJoin c.st 3).1 }, nx ||| flOF) else ({ c with t := c.t + u }, nx)

/-- Exact accumulation of one row against one column. -/
def dotAcc (qa qb d : Int) (as bs : List XOp) (c0 : AccV) : AccV × Term :=
  ((List.zip as bs).zip (List.range as.length)).foldl (fun (acc : AccV × Term) p =>
    let (c, fl) := accMul qa qb d p.1.1 p.1.2 acc.1
    (c, { fl := acc.2.fl ||| fl, bad := if acc.2.bad.isNone && hasNV fl then some p.2 else acc.2.bad })) (c0, { fl := 0, bad := none })

/-- The operand row of a blank for exact accumulation. -/
def Core.xRow (k : Core) (b : Reg) (i : Nat) : List XOp :=
  (List.range (k.tE b)).map fun j =>
    { x := if tMX (k.tFmt b) then k.tScale b i (j / 32) else 127, v := tNum (k.tFmt b) (k.tElem b i j) }

/-- D of R180. -/
def anchorD (fa fb : Nat) : Int := if tMX fa || tMX fb then -24 else 0

/-- One row-step of tc += ta x tb: the core, flags, and the invalid term of lowest k, then column (R195, R204). -/
def Core.rowStep (k : Core) (tc ta tb : Reg) (i : Nat) : Core × Nat × Option (Nat × Nat) :=
  let n := k.tE tc
  if k.tFmt tc = 14 then
    let fa := k.tFmt ta; let fb := k.tFmt tb
    let as := k.xRow ta i
    (List.range n).foldl (fun (acc : Core × Nat × Option (Nat × Nat)) j =>
      let (v, t) := dotAcc (tq_ fa) (tq_ fb) (anchorD fa fb) as (acc.1.xRow tb j) (acc.1.tAcc tc i j)
      (acc.1.tSetAcc tc i j v, acc.2.1 ||| t.fl,
        match t.bad, acc.2.2 with
        | some x, some y => if x < y.1 then some (x, j) else some y
        | some x, none => some (x, j)
        | none, y => y)) (k, 0, none)
  else
    let as := (List.range (k.tE ta)).map fun x => k.tVal ta i x
    (List.range n).foldl (fun (acc : Core × Nat × Option (Nat × Nat)) j =>
      let bs := (List.range (k.tE tb)).map fun x => acc.1.tVal tb j x
      let (v, t) := dotFix as bs (acc.1.tElem tc i j)
      (acc.1.tSetElem tc i j v, acc.2.1 ||| t.fl,
        match t.bad, acc.2.2 with
        | some x, some y => if x < y.1 then some (x, j) else some y
        | some x, none => some (x, j)
        | none, y => y)) (k, 0, none)

/-! ### Loads (06 R223 to R225) -/

/-- Where element j of a row image lies: first bit of the element, and its block's first word (MX). -/
def elemAt (f j : Nat) : Nat × Nat :=
  if tMX f then (32 * (j / 32 * (1 + tWidth f) + 1) + j % 32 * tWidth f, j / 32 * (1 + tWidth f)) else (j * tWidth f, 0)

/-- What a load has done: the core, the flags, the first invalid element. -/
structure TRes where
  k   : Core
  fl  : Nat
  bad : Option Nat

/-- `w` bits from bit `off` of the words read from an image. -/
def gotBits (ws : List Word) (off w : Nat) : Nat :=
  let g (i : Nat) : Nat := (ws.getD (off / 32 + i) 0).toNat
  ((g 0 + g 1 * 2 ^ 32 + g 2 * 2 ^ 64) >>> (off % 32)) % 2 ^ w

/-- Load a blank from the words `ws` that a load has read of its image, in the image's order; elements whose accesses have not been made keep
their values (R223 to R225, R235). -/
def Core.tLoad (k : Core) (tb : Reg) (ws : List Word) (sf : Nat) (tr : Bool) (mode : Nat) (rs free : Nat → Nat) : TRes :=
  let f := k.tFmt tb
  let rows := k.tRows tb
  let e := k.tE tb
  let w := (rowWords sf (if tr then rows else e)).getD 0
  -- source row and element of (i, j), and whether its words have been read
  let src (i j : Nat) : Nat × Nat := if tr then (j, i) else (i, j)
  let made (i j : Nat) : Bool :=
    let (r, x) := src i j
    r * w + ((elemAt sf x).1 + tWidth sf - 1) / 32 < ws.length
  let rawBits (i j : Nat) : Nat := let (r, x) := src i j; gotBits ws (32 * (r * w) + (elemAt sf x).1) (tWidth sf)
  let scaleOf (i j : Nat) : Nat := let (r, x) := src i j; gotBits ws (32 * (r * w) + 32 * (elemAt sf x).2) 8
  let value (i j : Nat) : Num :=
    let v := tNum sf (rawBits i j)
    if tMX sf then scaled (scaleOf i j) v else v
  let cells := (List.range rows).flatMap fun i => (List.range e).map fun j => (i, j)
  if f = 14 then
    { k := cells.foldl (fun k (i, j) =>
        if made i j then
          let n := rawBits i j
          k.tSetAcc tb i j { st := if n = 2 ^ 63 then 4 else 0, t := sext 64 n }
        else k) k
      fl := 0
      bad := none }
  else if sf = f && !tr then
    { k := cells.foldl (fun k (i, j) =>
        if made i j then
          let k := k.tSetElem tb i j (rawBits i j)
          if tMX f && j % 32 = 0 then k.tSetScale tb i (j / 32) (scaleOf i j) else k
        else k) k
      fl := 0
      bad := none }
  else if tMX f then
    let blocks := (List.range rows).flatMap fun i => (List.range (e / 32)).map fun b => (i, b)
    blocks.foldl (fun (r : TRes) (i, b) =>
      if (List.range 32).all fun j => made i (32 * b + j) then
        let base := i * e + 32 * b
        let (x, es) := mxBlock f mode (fun q => rs (base + q)) (fun q => free (base + q))
          ((List.range 32).map fun j => value i (32 * b + j))
        let k := (es.zip (List.range 32)).foldl (fun k (v, j) => k.tSetElem tb i (32 * b + j) v.1) (r.k.tSetScale tb i b x)
        { k := k
          fl := es.foldl (fun a v => a ||| v.2) r.fl
          bad := if r.bad.isSome then r.bad else (es.findIdx? fun v => hasNV v.2).map (base + ·) }
      else r) { k := k, fl := 0, bad := none }
  else
    cells.foldl (fun (r : TRes) (i, j) =>
      if made i j then
        let v := tConv f mode (rs (i * e + j)) (value i j)
        { k := r.k.tSetElem tb i j v.1
          fl := r.fl ||| v.2
          bad := if r.bad.isNone && hasNV v.2 then some (i * e + j) else r.bad }
      else r) { k := k, fl := 0, bad := none }

/-! ### Drains (06 R226 to R231) -/

/-- A value to drain, and the flags its state raises in place of a conversion's (05 R188). -/
structure DVal where
  v  : Num
  fl : Option Nat
  deriving DecidableEq, Repr

/-- The value of element (i, j) of the blank to drain to format `o`; `anchor` is A of an ACC64 blank. -/
def Core.dVal (k : Core) (tc : Reg) (o : Nat) (anchor : Int) (i j : Nat) : DVal :=
  if k.tFmt tc ≠ 14 then { v := k.tVal tc i j, fl := none }
  else
    let a := k.tAcc tc i j
    let int := (tF o).isNone && !tMX o
    match a.read with
    | 0 => { v := .fin (decide (a.t < 0)) a.t.natAbs anchor, fl := none }
    | 1 => { v := .inf false, fl := some (if int then flNV else flOF) }
    | 2 => { v := .inf true, fl := some (if int then flNV else flOF) }
    | 3 => { v := .nan false, fl := some (if int then flNV else flOF) }
    | _ => { v := .nan false, fl := some flNV }

/-- scale x v + bias, exact, with the flags of an invalid product or sum (R226). -/
def affine (s v b : Num) : Num × Nat :=
  if s.isNaN || v.isNaN then (.nan false, if s.isSig || v.isSig || b.isSig then flNV else 0)
  else
    match prodN s v with
    | none => (.nan false, flNV)
    | some p =>
      match p, b with
      | _, .nan g => (.nan false, if g then flNV else 0)
      | .inf x, .inf y => if x = y then (.inf x, 0) else (.nan false, flNV)
      | .inf x, _ => (.inf x, 0)
      | _, .inf y => (.inf y, 0)
      | .fin n1 m1 e1, .fin n2 m2 e2 => let r := finAdd n1 m1 e1 n2 m2 e2; (.fin r.1 r.2.1 r.2.2, 0)
      | x, _ => (x, 0)

/-- The scale or bias of column j: absent, from a blank's row 0, or from a lane of a vector register (R227). -/
def Core.dAux (k : Core) (en vec : Bool) (r : Reg) (v : BitVec 512) (absent : Num) (j : Nat) : Num :=
  if !en then absent
  else if vec then fp32.unpack ((v.toNat >>> (32 * (j % 16))) % 2 ^ 32)
  else fp32.unpack (k.tElem r 0 j)

/-- A clip bound converted to the output format, in units of a block scale x (127: none): lo toward +∞, hi toward -∞; none for
a NaN (R228). -/
def clipBound (o : Nat) (x : Nat) (up : Bool) (b : Num) : Option Nat :=
  match b with
  | .nan _ => none
  | .inf n => some (if tMX o then (mxElem o rtz 0 (.inf n)).1 else (tConv o rtz 0 (.inf n)).1)
  | .fin n m e =>
    let mode := if n = up then rtz else raz
    let v := Num.fin n m (e + 127 - x)
    some (if tMX o then (mxElem o mode 0 v).1 else (tConv o mode 0 v).1)

/-- Clip an encoding: min(max(x, lo), hi) (R228). -/
def clip (o : Nat) (lo hi : Option Nat) (x : Nat) : Nat :=
  if (tNum o x).isNaN then x
  else
    let y := match lo with | some l => if ordN (tNum o l) (tNum o x) then x else l | none => x
    match hi with | some h => if ordN (tNum o y) (tNum o h) then y else h | none => y

/-- One row drained: its elements' bits with their block scales, flags, and its first invalid column. -/
structure DRow where
  elems  : List Nat
  scales : List Nat
  fl     : Nat
  bad    : Option Nat

/-- Drain row i (R226 to R228). `rs` and `free` give the random number and the free bits of column j. -/
def Core.dRow (k : Core) (tc : Reg) (o : DrainOpt) (regs : List (BitVec 512)) (anchor : Int) (rs free : Nat → Nat) (i : Nat) : DRow :=
  let f := o.ofmt.toNat
  let n := k.tE tc
  let sv := regs.getD 0 0; let bv := regs.getD 1 0; let cv := regs.getD 2 0
  let lo := fp32.unpack (cv.toNat % 2 ^ 32)
  let hi := fp32.unpack ((cv.toNat >>> 32) % 2 ^ 32)
  let cl (x : Nat) (v : Nat) : Nat := if o.ce then clip f (clipBound f x true lo) (clipBound f x false hi) v else v
  let vals : List (Num × Option Nat × Nat) := (List.range n).map fun j =>
    let d := k.dVal tc f anchor i j
    match d.fl with
    | some fl => (d.v, some fl, 0)
    | none =>
      let a := affine (k.dAux o.se o.sk o.sreg sv (.fin false 1 0) j) d.v (k.dAux o.be o.bk o.breg bv (.fin false 0 0) j)
      (a.1, none, a.2)
  let flagsOf (p : Num × Option Nat × Nat) (conv : Nat) : Nat := match p.2.1 with | some fl => fl | none => p.2.2 ||| conv
  if tMX f then
    let bs := (List.range (n / 32)).map fun b =>
      let vs := (vals.drop (32 * b)).take 32
      let (x, es) := mxBlock f o.rnd.toNat (fun q => rs (32 * b + q)) (fun q => free (32 * b + q)) (vs.map Prod.fst)
      (x, (es.zip vs).map fun (e, v) => (if x = 255 then e.1 else cl x e.1, flagsOf v e.2))
    let es := bs.flatMap Prod.snd
    { elems := es.map Prod.fst
      scales := bs.map Prod.fst
      fl := es.foldl (fun a e => a ||| e.2) 0
      bad := es.findIdx? fun e => hasNV e.2 }
  else
    let es := (vals.zip (List.range n)).map fun (v, j) =>
      let c := tConv f o.rnd.toNat (rs j) v.1
      (cl 127 c.1, flagsOf v c.2)
    { elems := es.map Prod.fst
      scales := []
      fl := es.foldl (fun a e => a ||| e.2) 0
      bad := es.findIdx? fun e => hasNV e.2 }

/-- An ACC64 row stored as images (R171, R183): OF where a sum is out of range. -/
def Core.dAccRow (k : Core) (tc : Reg) (i : Nat) : DRow :=
  let as := (List.range (k.tE tc)).map fun j => k.tAcc tc i j
  { elems := as.map fun a => if a.read = 0 then (a.t % (2 ^ 64 : Int)).toNat else 2 ^ 63
    scales := []
    fl := if as.any fun a => a.st = 0 && a.read = 3 then flOF else 0
    bad := none }

/-- The words of a drained row's image (R229). -/
def DRow.image (r : DRow) (f : Nat) : List Word :=
  let pack (xs : List Nat) : Nat := xs.foldr (fun x acc => x % 2 ^ tWidth f + 2 ^ tWidth f * acc) 0
  let wordsOf (n : Nat) (x : Nat) : List Word := (List.range n).map fun i => BitVec.ofNat 32 (x >>> (32 * i))
  if tMX f then
    (r.scales.zip (List.range r.scales.length)).flatMap fun (x, b) =>
      BitVec.ofNat 32 x :: wordsOf (tWidth f) (pack ((r.elems.drop (32 * b)).take 32))
  else wordsOf (r.elems.length * tWidth f / 32) (pack r.elems)

/-- The partial statistics of a drained row: sum, sum of squares, maximum, count; flags (R230). -/
def DRow.stats (r : DRow) (f : Nat) : Nat × Nat × Nat × Nat × Nat :=
  let vs := (r.elems.zip (List.range r.elems.length)).map fun (x, j) =>
    let v := tNum f x
    (fp32.ofN rne 0 (if tMX f then scaled (r.scales.getD (j / 32) 127) v else v)).1
  let sq := vs.map fun v => mul32 v v
  let ix (l : List Nat) : List (Nat × Nat) := l.zip (List.range l.length)
  let s := sum185 none (ix vs)
  let q := sum185 none (ix (sq.map Prod.fst))
  let m := vs.tail.foldl (fun (a : Nat × Nat) v => let y := max32 a.1 v; (y.1, a.2 ||| y.2)) (vs.headD 0, 0)
  (s.1, q.1, m.1, (fp32.ofN rne 0 (numOfInt vs.length)).1, s.2.1 ||| q.2.1 ||| m.2 ||| sq.foldl (fun a p => a ||| p.2) 0)

/-- Combine a row's partial into row i of the statistics blank (R230). -/
def Core.addStats (k : Core) (sb : Reg) (i : Nat) (p : Nat × Nat × Nat × Nat × Nat) : Core × Nat :=
  let put (k : Core) (j v : Nat) : Core := k.tSetElem sb i j v
  if !(fp32.unpack (k.tElem sb i 3)).isNaN && eqN (fp32.unpack (k.tElem sb i 3)) (.fin false 0 0) then
    (put (put (put (put k 0 p.1) 1 p.2.1) 2 p.2.2.1) 3 p.2.2.2.1, p.2.2.2.2)
  else
    let a := add32 (k.tElem sb i 0) p.1
    let b := add32 (k.tElem sb i 1) p.2.1
    let m := max32 (k.tElem sb i 2) p.2.2.1
    let n := add32 (k.tElem sb i 3) p.2.2.2.1
    (put (put (put (put k 0 a.1) 1 b.1) 2 m.1) 3 n.1, p.2.2.2.2 ||| a.2 ||| b.2 ||| m.2 ||| n.2)

/-! ### The pair and count of an exact accumulator (05 R180, 06 R205) -/

/-- The accumulator format a pair needs, and Kc (R205). -/
def accOf (fa fb : Nat) : Nat × Nat :=
  let w := max (tWidth fa) (tWidth fb)
  if w = 32 then (0, 8) else if w = 16 then (0, 32) else if w = 8 then (14, 64) else (14, 128)

/-- The format pair and product count of an ACC64 blank (TILE_ACCn). -/
structure AccP where
  pair : Option (Nat × Nat)
  n    : Nat
  deriving DecidableEq, Repr

def Core.accP (k : Core) (b : Reg) : AccP :=
  let i := b.toNat
  { pair := if k.fld (F.TILE_ACC_PAIRV i) = 1 then some (k.fld (F.TILE_ACC_FA i), k.fld (F.TILE_ACC_FB i)) else none
    n := k.fld (F.TILE_ACC_COUNT i) }

def Core.setAccP (k : Core) (b : Reg) (p : AccP) : Core :=
  k.setW (R.TILE_ACC b.toNat) (match p.pair with
    | some (x, y) => BitVec.ofNat 32 (0x80000000 + x <<< 27 + y <<< 23 + p.n)
    | none => BitVec.ofNat 32 p.n)

/-! ### Queue heads and engines' work -/

/-- A half of TILE_SROW as the head of its queue gives it; `old` where the queue is empty (R221, R233, R236). -/
def Core.srowHalf (k : Core) (q old : Nat) : Nat :=
  match (k.tqOf q).head? with
  | some e =>
    let rows := match e.i with | .tmma _ _ tc _ _ _ _ => k.tRows tc | _ => 0
    b2n (0 < e.row && e.row < rows) * 2 ^ 15 + b2n (e.held || (k.th e.thr).state == .debug && 0 < e.row) * 2 ^ 14
      + e.thr.toNat * 2 ^ 12 + e.row % 64 * 2 ^ 6
  | none => old

/-- TILE_SROW; a half whose queue is empty stands as it was written. -/
def Core.srow (k : Core) : Word :=
  let w := (k.w R.TILE_SROW).toNat
  BitVec.ofNat 32 (k.srowHalf 0 (w / 2 ^ 16) * 2 ^ 16 + k.srowHalf 1 (w % 2 ^ 16))

/-- The queues have changed: one that has become empty leaves nothing of its last head in TILE_SROW. -/
def Core.syncSrow (k : Core) : Core := k.setW R.TILE_SROW (BitVec.ofNat 32 (k.srowHalf 0 0 * 2 ^ 16 + k.srowHalf 1 0))

/-- The rows of a TMMA, and the cycles of its row-step (R207). -/
def Core.tmmaRows (k : Core) (i : Instr) : Nat := match i with | .tmma _ _ tc _ _ _ _ => k.tRows tc | _ => 0
def Core.tmmaS (k : Core) (i : Instr) : Nat :=
  match i with
  | .tmma _ _ tc ta tb _ _ =>
    let kc := (accOf (k.tFmt ta) (k.tFmt tb)).2
    (k.tE tc + 31) / 32 * ((k.tE ta + kc - 1) / kc)
  | _ => 1

/-- The accesses of a row of an image: 16 words each (R217). -/
def rowAccesses (im : Nat × Nat × Nat × Nat) : Nat := (im.2.2.2 + 15) / 16

/-- The cycles of work of a row of a load or drain (R217). -/
def Core.rowWork (k : Core) (i : Instr) (im : Nat × Nat × Nat × Nat) : Nat :=
  match i with
  | .tdrain _ _ tc _ _ _ => max ((k.tE tc + 31) / 32) (rowAccesses im)
  | _ => rowAccesses im

/-- The cycles a load or drain works (R217). -/
def Core.tWork (k : Core) (i : Instr) : Nat :=
  match k.tImage i 0 0 with
  | some im => im.2.1 * k.rowWork i im
  | none => 0

/-- The anchor A of an ACC64 blank (R180): a free value where no pair is fixed (log entry 4). -/
def accAnchor (k : Core) (tc : Reg) (n : Nat) : Int :=
  match (k.accP tc).pair with
  | some (fa, fb) => tq_ fa + tq_ fb + anchorD fa fb
  | none => (Config.freeWord n).toInt

/-- Row i of a drain: its elements, and its image's words (R226 to R229). -/
def Core.drainRow (k : Core) (e : TEntry) (tc : Reg) (o : DrainOpt) (i : Nat) : DRow × List Word :=
  let n := k.tE tc
  let d := if o.ofmt = 14 then k.dAccRow tc i
    else k.dRow tc o e.vregs (accAnchor k tc e.free) (fun j => srBits e.key e.ctr (i * n + j))
      (fun j => (Config.freeWord (e.free + 1 + i * n + j)).toNat) i
  (d, (d.image o.ofmt.toNat).take ((rowWords o.ofmt.toNat n).getD 0))

/-- What the completion of a drain adds to its rows' images: the flags, the statistics, and its first invalid element (R226, R230, R231). -/
def Core.drainStats (k : Core) (e : TEntry) (tc : Reg) (o : DrainOpt) : TRes :=
  let n := k.tE tc
  (List.range (k.tRows tc)).foldl (fun (r : TRes) i =>
    let d := (k.drainRow e tc o i).1
    let (k2, sf) := if o.ste then r.k.addStats o.stb i (d.stats o.ofmt.toNat) else (r.k, 0)
    { k := k2
      fl := r.fl ||| d.fl ||| sf
      bad := if r.bad.isSome then r.bad
        else match d.bad with
          | some j => some (i * n + j)
          | none => if hasNV sf then some (i * n) else none }) { k := k, fl := 0, bad := none }

/-! ### The load and drain engines, cycle by cycle (R217, R231, R235; 07 R245) -/

/-- One cycle of work of a load or drain: a load reads 16 words of its image, or stops at a word of bad parity or poison; a drain writes the
words of its row's image in the last cycles of the row's work (log entry 47). -/
def Core.workCycle (k : Core) (e : TEntry) : Core × TEntry :=
  match k.eImage e with
  | none => (k, { e with row := e.row + 1 })
  | some im =>
    let per := k.rowWork e.i im
    let r := e.row / per
    let a := im.1 + r * im.2.2.1
    match e.i with
    | .tdrain _ _ tc _ _ o =>
      let x := e.row % per + rowAccesses im
      let k := if per ≤ x then k.setSpWords (a + 16 * (x - per)) ((((k.drainRow e tc o r).2.drop (16 * (x - per)))).take 16) else k
      (k, { e with row := e.row + 1 })
    | _ =>
      let p := 16 * (e.row % per)
      let ws := (List.range (min 16 (im.2.2.2 - p))).map fun i => a + p + i
      match ws.findSome? fun w => (k.readFault w).map fun f => (w, f) with
      | some f => (k, { e with row := k.tWork e.i, bad := some f })
      | none => (k, { e with row := e.row + 1, got := e.got ++ ws.map k.spWord })

/-- Up to `n` cycles of work in the cycles before `d`, none of them in a rest revolution (R77). -/
def workBefore (r : Rest) (d : Count) : Nat → Core × TEntry → Core × TEntry
  | 0, p => p
  | n + 1, p =>
    let t := r.skip p.2.next
    if p.1.tWork p.2.i ≤ p.2.row || notAfter d t then p
    else
      let q := p.1.workCycle p.2
      workBefore r d n (q.1, { q.2 with next := t + 1 })

/-- A load or drain as it will be once its work is done. -/
def Core.workDone (k : Core) (r : Rest) (e : TEntry) : TEntry := (workBefore r (e.next + 2 ^ 58) (k.tWork e.i) (k, e)).2

/-- Replace the entry of the same sequence number in a queue. -/
def Core.putEntry (k : Core) (q : Nat) (e : TEntry) : Core := k.setTq q ((k.tqOf q).map fun x => if x.seq = e.seq then e else x)

/-- The load and drain engines do the work of the cycles before `d`. -/
def Core.runEngines (k : Core) (r : Rest) (d : Count) : Core :=
  [2, 3].foldl (fun k q => ((k.tqOf q).filter fun e => e.start.isSome).foldl (fun k e =>
    let p := workBefore r d (k.tWork e.i) (k, e)
    p.1.putEntry q p.2) k) k

/-- The blank of a load takes what its accesses have read (R223 to R225, R235). -/
def Core.takeLoad (k : Core) (e : TEntry) : TRes :=
  match e.i with
  | .tld _ _ tb _ _ sfmt tr rnd =>
    k.tLoad tb e.got sfmt.toNat tr rnd.toNat (fun i => srBits e.key e.ctr i) (fun i => (Config.freeWord (e.free + i)).toNat)
  | _ => { k := k, fl := 0, bad := none }

/-! ### The pair and count that later instructions find (R206) -/

/-- Entries in issue order. -/
def insSeq (e : TEntry) : List TEntry → List TEntry
  | [] => [e]
  | x :: xs => if e.seq ≤ x.seq then e :: x :: xs else x :: insSeq e xs
def sortSeq (es : List TEntry) : List TEntry := es.foldr insSeq []

/-- Whether an entry resets the pair and count of blank b when it completes: an ACC64 load, or a drain that zeroes. -/
def resetsAcc (b : Reg) (e : TEntry) : Bool :=
  match e.i with
  | .tld _ _ tb _ _ _ _ _ => tb == b
  | .tdrain _ _ tc _ _ o => tc == b && o.za
  | _ => false

/-- Whether an entry drains blank b, and whether it zeroes b before it accumulates. -/
def drainsAcc (b : Reg) (e : TEntry) : Bool := match e.i with | .tdrain _ _ tc _ _ _ => tc == b | _ => false
def zeroesAcc (b : Reg) (e : TEntry) : Bool := match e.i with | .tmma _ _ tc _ _ _ z => tc == b && z | _ => false

/-- What an instruction makes of the pair and count of blank b. -/
def Core.accStep (k : Core) (b : Reg) (p : AccP) (i : Instr) : AccP :=
  match i with
  | .tmma _ _ tc ta tb _ z =>
    if tc = b then
      let p := if z then { pair := none, n := 0 } else p
      { pair := some (p.pair.getD (k.tFmt ta, k.tFmt tb)), n := p.n + k.tE ta }
    else p
  | .tld _ _ tb _ _ _ _ _ => if tb = b then { pair := none, n := 1 } else p
  | .tdrain _ _ tc _ _ o => if tc = b && o.za then { pair := none, n := 0 } else p
  | _ => p

/-- The entries, from the first that resets the pair and count, or zeroes b behind a drain that still needs them. -/
def accFrom (b : Reg) : Bool → List TEntry → List TEntry
  | _, [] => []
  | drained, e :: es =>
    if resetsAcc b e || (drained && zeroesAcc b e) then e :: es else accFrom b (drained || drainsAcc b e) es

/-- The incomplete instructions that TILE_ACCn of blank b does not yet show (R206, R226). -/
def Core.accPending (k : Core) (b : Reg) : List TEntry := accFrom b false (sortSeq k.tqAll)

/-- The pair and count as they will be after every earlier-issued instruction (R206). TILE_ACCn shows the rest. -/
def Core.accAfter (k : Core) (b : Reg) : AccP := (k.accPending b).foldl (fun p e => k.accStep b p e.i) (k.accP b)

/-- TILE_ACCn takes the effects of entries. -/
def Core.accShow (k : Core) (b : Reg) (es : List TEntry) : Core :=
  if k.tFmt b = 14 && !es.isEmpty then k.setAccP b (es.foldl (fun p e => k.accStep b p e.i) (k.accP b)) else k

/-- An instruction on blank b has left its queue, `old` being the core before: TILE_ACCn shows its effect, where it completed in full, and those
that waited for it (R206, R235). -/
def Core.accLeave (k old : Core) (b : Reg) (e : TEntry) (full : Bool) : Core :=
  let was := old.accPending b
  k.accShow b ((was.take (was.length - (k.accPending b).length)).filter fun x => full || decide (x.seq ≠ e.seq))

/-! ### What a thread's events do to its tile instructions (R203, R233, R234, R237) -/

/-- A load or drain in progress of some threads stops after its current access: what its accesses have done stays (R203, R231, R237). -/
def Core.stopEngines (k : Core) (r : Rest) (p : Thr → Bool) (now : Count) : Core :=
  let k := k.runEngines r (now + 1)
  let k := ((k.tqOf 2).filter fun e => e.start.isSome && p e.thr).foldl (fun k e => (k.takeLoad e).k) k
  [2, 3].foldl (fun (k : Core) q =>
    if (k.tqOf q).any fun e => e.start.isSome && p e.thr then { k with tdone := SMap.set (fun _ => 0) k.tdone (16 + q) (now + 1) } else k) k

/-- The thread's queued and running tile instructions are discarded (R203); TILE_ACCn keeps what its TMMA fixed and counted (R206). -/
def Core.discardTiles (k : Core) (r : Rest) (t : Thr) (now : Count) : Core :=
  let k := k.stopEngines r (· == t) now
  ((List.range 8).foldl (fun (x : Core) b =>
    let b : Reg := BitVec.ofNat 3 b
    x.accShow b ((k.accPending b).filter fun e => isTmma e.i && e.thr == t)) (k.dropTiles t)).syncSrow

/-- A thread reset also makes the thread's blanks EMPTY (R203, TILE_CFGn). -/
def Core.resetTiles (k : Core) (r : Rest) (t : Thr) (now : Count) : Core :=
  (List.range 8).foldl (fun k b =>
    if k.fld (F.TILE_CFG_CFG b) = 1 && k.fld (F.TILE_CFG_OWNER b) = t.toNat then k.setW (R.TILE_CFG b) 0 else k)
    (k.discardTiles r t now)

end Sys2Proof.Machine
end

