-- ==== Sys2Proof/Machine/Clock.lean ====
section
/-! DEFINITION. The clock: the spindle count moves on, and with it what works from cycle to cycle of itself (02 R53; 06 R217; 07 R245). -/

namespace Sys2Proof.Machine

/-- The words of a span with their faults. -/
def Core.readSpan (k : Core) (w n : Nat) : List (Word × Option Byte) := (List.range n).map fun i => (k.spWord (w + i), k.readFault (w + i))

/-- The clock passes to cycle `d`: a load that a guarded line has woken in cycle c reads its words in c + 1, the grant of its access, as they
stand after cycle c (07 R245, R254). -/
def Core.grantLoads (k : Core) (r : Rest) (c : CoreId) (d : Count) : Core :=
  { k with gots := allThr.foldl (fun (g : SMap (List (Word × Option Byte))) t =>
      let x := k.th t
      match x.wake, (k.waitInstr c t).bind (loadSpan x) with
      | some w, some (a, n) =>
        if x.inWait && x.wkind == 5 && notAfter (w.cyc - 1) d && (SMap.get (fun _ => []) g t.toNat).isEmpty then
          SMap.set (fun _ => []) g t.toNat ((k.runEngines r (w.cyc - 1)).readSpan a n)
        else g
      | _, _ => g) k.gots }

/-- Move the spindle count forward to a cycle; it never moves back. Cores with an open capture window count the cycles
(19 R556, event 1), loads that a line has woken are granted, and the load and drain engines work (06 R217). -/
def State.advanceTo (s : State) (d : Count) : State :=
  if notAfter d s.now then s
  else
    let n := (d - s.now).toNat
    { s with
      now := d
      cores := s.cores.map fun p =>
        let c : CoreId := BitVec.ofNat 12 p.1
        let k := (p.2.grantLoads (s.restOf c) c d).runEngines (s.restOf c) d
        (p.1, if k.topen.isSome then k.count 1 none n else k) }

/-- What an empty queue leaves: one cycle of the spindle count, which runs from power-good (02 R53; log entry 1). -/
def State.idleCycle (s : State) : State := if s.power.pgood then s.advanceTo (s.now + 1) else s

end Sys2Proof.Machine
end

