-- ==== Sys2Proof/Machine/Trap.lean ====
section
/-! DEFINITION. Taking a trap: one shared operation, and what engines and errors raise (03 R122 to R129; 07 R249, R274, R562). -/

namespace Sys2Proof.Machine

/-- The loop-end check after an instruction at `a` of `len` words that is no taken branch (03 R99). -/
def Thread.loopEnd (x : Thread) (a : BitVec 15) (len : Nat) : Thread :=
  let nxt := a + BitVec.ofNat 15 len
  let rec go (x : Thread) : Nat → Thread
    | 0 => { x with pc := nxt }
    | lv + 1 =>
      if !x.st (16 + lv) || SMap.get (fun _ => 0) x.le lv != a then go x lv
      else
        let n := SMap.get (fun _ => (0 : Word)) x.lc lv
        if 1 < n.toNat then
          { x with lc := SMap.set (fun _ => 0) x.lc lv (n - 1), pc := SMap.get (fun _ => 0) x.ls lv }
        else go ({ x with lc := SMap.set (fun _ => 0) x.lc lv 0 }.setSt (16 + lv) false) lv
  if x.st bIT then { x with pc := nxt } else go x 4

/-! ### The status word's trap fields and trap entry (03 R122 to R127) -/

/-- A thread that enters a trap: EPC, CAUSE, FADDR, IT and PC (03 R122); while IT is 1 it stops by double fault (R127). -/
def Thread.trap (x : Thread) (tvec : BitVec 15) (now : Count) (at_ : BitVec 15) (code detail : Byte) (faddr : Word) : Thread :=
  let x := { x with waiting := none, wake := none, waiton := 0, wcount := 0, stalled := false, aside := false, waits := false }
  if x.st bIT then
    { x with
      state := .stopped
      pc := at_
      step := 0
      cause := (x.cause &&& 0xBF00FFFF#32) ||| 0x40000000#32 ||| (code.zeroExtend 32 <<< 16) }
  else
    { (x.setSt bIT true) with
      state := .run
      epc := at_
      cause := 0x80000000#32 ||| (detail.zeroExtend 32 <<< 8) ||| code.zeroExtend 32
      faddr := faddr
      pc := tvec
      next := now + 5 }

/-- A thread stops: it is reported to the headstock, and its core number goes to the supervisor, if CORE_SUPV names one (03 R129). -/
def State.faultReport (s : State) (c : CoreId) (t : Thr) : State :=
  let k := s.core c
  let s := s.toHeadstock (.stopped c t)
  if k.fld F.CORE_SUPV_VALID = 1 then s.send c (BitVec.ofNat 12 (k.fld F.CORE_SUPV_SUPV)) (.fault c) else s

/-- A thread's wait ends without its event: it leaves the waiters of a lock, and an MSEND wait withdraws its request
(03 R117, 09 R320). -/
def Core.endWait (k : Core) (t : Thr) : Core :=
  let x := k.th t
  let k : Core := { k with
    lockq := (k.lockq.map fun p => (p.1, p.2.filter fun w => w ≠ t)).filter fun p => !p.2.isEmpty
    gots := SMap.set (fun _ => []) k.gots t.toNat [] }
  if x.inWait && x.wkind == 4 && bit x.wobj 4 then
    let n := x.wobj % 16
    let k : Core := if k.fld (F.MESH_CONN_STATE n) = 3 then k.setFld (F.MESH_CONN_STATE n) 2 else k
    { k with conn := SMap.upd (fun _ => ConnX.none) k.conn n fun cx => { cx with gen := cx.gen + 1, retry := none } }
  else k

/-- Take a trap in the present cycle: the thread enters its handler, or stops by double fault, which discards its tile
instructions, sets FSUM and reports to the supervisor in the next cycle (03 R122, R127 to R129). -/
def State.takeTrap (s : State) (c : CoreId) (t : Thr) (at_ : BitVec 15) (code detail : Byte) (faddr : Word) : State :=
  let k := (s.core c).endWait t
  let x := k.th t
  let s := s.setCore c (k.setTh t (x.trap (k.tvec t) s.now at_ code detail faddr))
  if x.st bIT then
    let s := s.onCore c fun k => k.discardTiles (s.restOf c) t s.now
    let s := s.onCore c fun k => k.wakeFlags c s.now
    -- the report leaves in the following cycle
    { ({ s with now := s.now + 1 } : State).faultReport c t with now := s.now }
  else s.trace c 2 t (at_.toNat <<< 8 + code.toNat) faddr.toNat

/-- Queued tile instructions of some threads go on at `now`: none starts its work, or its next row-step, before it (06 R234, R236, R238). -/
def Core.tilesFrom (k : Core) (p : TEntry → Bool) (now : Count) : Core :=
  [0, 1, 2, 3].foldl (fun (k : Core) q =>
    if (k.tqOf q).any p then
      k.setTq q ((k.tqOf q).map fun e => if p e then { e with iss := later e.iss now, start := e.start.map fun t0 => later t0 now } else e)
    else k) k

/-- A thread leaves DEBUG stop: its matrix instruction held for the stop goes on; one held for a trap stays held until its RTE (06 R233,
R236). -/
def Core.tilesRun (k : Core) (t : Thr) (now : Count) : Core :=
  let x := k.th t
  let k := if x.st bIT || x.held.isSome then k
    else [0, 1].foldl (fun (k : Core) q =>
      if (k.tqOf q).any fun e => e.held && e.thr == t then
        k.setTq q ((k.tqOf q).map fun e => if e.thr = t then { e with held := false } else e)
      else k) k
  k.tilesFrom (fun e => e.thr == t && isTmma e.i) now

/-- Hold a trap; a thread holds one at most (07 R562). -/
def State.hold (s : State) (c : CoreId) (t : Thr) (code detail : Byte) (faddr : Word) (epc : Option (BitVec 15)) : State :=
  s.onTh c t fun x =>
    if x.held.isSome then x else { x with held := some { code := code, detail := detail, faddr := faddr, epc := epc } }

/-- A trap that an engine raises for a thread after the instruction issued: a thread in RUN or WAIT enters it now, its wait
cancelled; one in FROZEN, DEBUG stop or HALTED, or stalled in an
instruction that an engine completes, holds it; one in IDLE or STOPPED takes none (07 R274, R562,
and the same for the traps of 06 R232 to R235 and 09 R314). -/
def State.laterTrap (s : State) (c : CoreId) (t : Thr) (code detail : Byte) (faddr : Word) (epc : Option (BitVec 15)) : State :=
  let x := s.th c t
  match x.state with
  | .run | .wait =>
    if x.stalled then s.hold c t code detail faddr epc else s.takeTrap c t (epc.getD x.pc) code detail faddr
  | .frozen | .debug | .halted => s.hold c t code detail faddr epc
  | .idle | .stopped => s

/-- The `OVERRUN` LINE trap of a starter thread (07 R274, R562). A thread stalled in an instruction has issued it: it enters the trap now, at
the instruction after it, and what it is stalled in completes beside the handler, which issues nothing before that
(DEDUCED, log entry 14). -/
def State.lineTrap (s : State) (c : CoreId) (t : Thr) (w : Nat) : State :=
  let x := s.th c t
  let faddr := BitVec.ofNat 32 (4 * w)
  if x.state = .run ∧ x.stalled = true then
    let y := match x.waiting with | some i => x.loopEnd x.pc (instrLen i) | none => x
    ((s.onTh c t fun _ => y).takeTrap c t y.pc 0x0F 1 faddr).onTh c t fun z =>
      { z with stalled := z.state == .run, waiting := x.waiting, aside := true }
  else s.laterTrap c t 0x0F 1 faddr none

/-- Record a parity or poison detection (07 R249): SPERR_STAT and ADDR, FAIL, and the report to the headstock. -/
def State.spErr (s : State) (c : CoreId) (src : Nat) (t : Thr) (ch : Reg) (w : Nat) : State :=
  let k := s.core c
  let k := if k.fld F.DMA_SPERR_STAT_VALID = 1 then k.setFld F.DMA_SPERR_STAT_MORE 1
    else
      let k := (k.evNote s.now R.DMA_SPERR_STAT 0x80000000#32).setW R.DMA_SPERR_STAT (((k.w R.DMA_SPERR_STAT) &&& 0x30000000#32)
        ||| BitVec.ofNat 32 (0x80000000 + src <<< 21 + t.toNat <<< 19 + ch.toNat <<< 16 + bankOf w))
      k.setW R.DMA_SPERR_ADDR (BitVec.ofNat 32 w)
  let s := if k.isBad w then s.noteParity c w else s
  ((s.setCore c ((k.evNote s.now R.DMA_SPERR_STAT 0x20000000#32).setFld F.DMA_SPERR_STAT_FAIL 1)).failCore c).toHeadstock (.bad c)

end Sys2Proof.Machine
end

