-- ==== Sys2Proof/Machine/Issue.lean ====
section
/-! DEFINITION. The issue of a thread's instruction: its slot, the checks before it executes, and what follows it
(03 R81 to R83, R89, R99, R122; 04 R138; 19 R547 to R551). -/

namespace Sys2Proof.Machine

/-- What the execution of an instruction comes to. -/
inductive Res where
  /-- it completes; the next instruction follows it, loop ends checked -/
  | seq (s : State)
  /-- it completes with a taken branch -/
  | jump (s : State) (target : BitVec 15)
  /-- it completes and the thread leaves RUN or is stalled in it: PC is as the meaning left it -/
  | stay (s : State)
  /-- it faults: cause code, detail, FADDR; the state carries only what the owning chapter lets a fault change -/
  | fault (s : State) (code detail : Byte) (faddr : Word)
  /-- the thread waits: kind and object -/
  | wait (s : State) (kind obj : Nat)
  /-- the slot stays idle -/
  | stall

/-- The cycle `d`, or the end of the rest revolutions of the core's bed that `d` falls in (02 R77, R78). -/
def State.afterRest (s : State) (c : CoreId) (d : Count) : Count := (s.restOf c).skip d

/-- The watchdog's limit: 0 acts as 1,024 (03 R112). -/
def Core.wdogLimit (k : Core) (t : Thr) : Nat :=
  let n := k.fld (F.CORE_TH_WDOG_LIMIT t.toNat)
  if n = 0 then 1024 else n

/-- The cycle in which the thread would issue: its first slot at or after its earliest next issue in which every register
it reads is ready, not in a rest revolution of its bed (03 R81, R89; 02 R77, R78). -/
def State.issueCyc (s : State) (c : CoreId) (t : Thr) (i : Instr) : Count :=
  let x := s.th c t
  let d := (uses i).foldl (fun d r => notBefore d (SMap.get (fun _ => 0) x.ready r)) (later s.now x.next)
  let d := if fp64Spaced i then notBefore d x.fp64 else d
  let d := slotFrom t d
  slotFrom t (s.afterRest c d)

/-- The actions of the breakpoints that match a thread at an address, ACTION 0 left out (19 R551). -/
def Core.bpActs (k : Core) (t : Thr) (a : BitVec 15) : List Nat :=
  ((List.range 4).filter fun n => bit (k.fld (F.CORE_BP_THRMASK n)) t.toNat && k.fld (F.CORE_BP_ADDR n) == a.toNat).map
    (fun n => k.fld (F.CORE_BP_ACTION n)) |>.filter (· != 0)

/-- A thread enters DEBUG stop, from RUN or WAIT (19 R547). -/
def Thread.stop (x : Thread) : Thread :=
  { x with state := .debug, waits := x.waits || x.state == .wait, step := 0, sas := false }

/-- Take the trap a thread holds, at its next instruction or its wait instruction (07 R562, 06 R232, 09 R314). A step ends at the handler's
first instruction. -/
def State.enterHeld (s : State) (c : CoreId) (t : Thr) : State :=
  match (s.th c t).held with
  | some h =>
    let s := s.onTh c t fun x => { x with held := none, step := if x.step = 1 then 2 else x.step }
    s.takeTrap c t (h.epc.getD (s.th c t).pc) h.code h.detail h.faddr
  | none => s

/-- The first word of the instruction with bad parity (04 R138). -/
def Core.badFetch (k : Core) (a : BitVec 15) (len : Nat) : Option (BitVec 15) :=
  ((List.range len).map fun i => a + BitVec.ofNat 15 i).find? fun w => k.pmIsBad w.toNat

/-- Complete the issue bookkeeping of an instruction that issued in the present cycle: the step, the passed breakpoint,
trace and counters (19). -/
def State.issued (s : State) (c : CoreId) (t : Thr) (pc : BitVec 15) (tile : Bool) : State :=
  let s := s.onTh c t fun x => { x with bpPass := false, step := if x.step = 1 then 2 else x.step }
  let k := (s.core c).count 2 (some t) 1
  let k := if tile then k.count 11 (some t) 1 else k
  let k := if k.fld F.CORE_TRPC_LO ≤ pc.toNat ∧ pc.toNat ≤ k.fld F.CORE_TRPC_HI then k.traceAt s.now 1 t 0 pc.toNat else k
  s.setCore c k

/-- Whether an instruction is a tile instruction. -/
def isTile : Instr → Bool
  | .tcfg .. | .tld .. | .tdrain .. | .tmma .. | .trel .. | .tzero .. | .tflags .. | .tclrf .. | .txcap .. => true
  | _ => false

/-- Whether no thread of a core's job issues: the job is DONE, or past it, until its threads have been reset for the next pass (11 R362). -/
def State.passOver (s : State) (c : CoreId) : Bool :=
  match s.jobOf c with
  | some j => j.st == .done || j.st == .flush || j.st == .flushed
  | none => false

/-- Issue instruction `i` of thread `t` of core `c`, whose execution is `body`, run in the issue cycle. A thread that does
not issue leaves its slot idle: the state is unchanged (03 R83). -/
def issue (c : CoreId) (t : Thr) (i : Instr) (body : State → Res) (s : State) : Out :=
  if !s.hasCore c then .refused .noSuchCore
  else
    let x := s.th c t
    if x.state != .run || x.stalled || s.passOver c then .next s
    else
      let cyc := s.issueCyc c t i
      let s1 := s.advanceTo cyc
      if x.held.isSome then .next (s1.enterHeld c t)
      else if x.sas || x.step == 2 then
        -- SAS: stop in place of the first issue; a step ends at the next issue
        .next ((s1.onTh c t Thread.stop).trace c 12 t (if x.step == 2 then 3 else 1) x.pc.toNat)
      else
        let bp := if x.bpPass then [] else (s.core c).bpActs t x.pc
        if bp.any (· != 3) then .next s
        else
          let len := instrLen i
          let idle := (cyc - slotFrom t (later s.now x.next)).toNat / 4
          let s2 := s1.onCore c fun k => k.count 4 (some t) idle
          let s2 := s2.onTh c t fun x => { x with next := cyc + 4 }
          let s2 := if bp ≠ [] then s2.trace c 12 t 4 x.pc.toNat else s2
          match (s.core c).badFetch x.pc len with
          | some w =>
            let s2 := ((s2.noteParity c (131072 + w.toNat)).failCore c).onCore c fun k => k.setFld F.DMA_SPERR_STAT_FAIL 1
            .next (s2.takeTrap c t x.pc 0x02 0 (w.zeroExtend 32))
          | none =>
            if reservedOperands i then
              .next ((s2.issued c t x.pc false).takeTrap c t x.pc 0x01 0 ((headOf i).zeroExtend 32))
            else if (s.core c).tileStalls t i then .next s
            else
              match body s2 with
              | .stall => .next s
              | .seq s' => .next ((s'.onTh c t fun y => y.loopEnd x.pc len).issued c t x.pc (isTile i))
              | .jump s' target => .next ((s'.onTh c t fun y => { y with pc := target }).issued c t x.pc (isTile i))
              | .stay s' => .next (s'.issued c t x.pc (isTile i))
              | .fault s' code detail faddr =>
                .next ((s'.issued c t x.pc (isTile i)).takeTrap c t x.pc code detail faddr)
              | .wait s' kind obj =>
                let s' := s'.onTh c t fun y =>
                  { y with
                    state := .wait
                    waiting := some i
                    wake := none
                    waiton := BitVec.ofNat 32 (kind <<< 28 + obj)
                    wcount := 0
                    wrev := cyc.extractLsb' 12 48
                    wlimit := (s.core c).wdogLimit t }
                -- a line that a commit of this cycle has set valid wakes the load that waits on it (07 R255)
                let s' := if kind = 5 then s'.onCore c fun k => k.wakeLines c cyc else s'
                .next ((s'.issued c t x.pc false).trace c 3 t kind obj)

/-- Write a scalar register in the present cycle; it is ready `n` slots later (03 R87). -/
def State.putG (s : State) (c : CoreId) (t : Thr) (d : Reg) (v : Word) (n : Nat) : State :=
  s.onTh c t fun x => { x.setG d v with ready := SMap.set (fun _ => 0) x.ready (gN d) (s.now + BitVec.ofNat 60 (4 * n)) }

/-- Write a vector register in the present cycle; it is ready `n` slots later (05 R193). -/
def State.putV (s : State) (c : CoreId) (t : Thr) (d : Reg) (v : BitVec 512) (n : Nat) : State :=
  s.onTh c t fun x => { x.setV d v with ready := SMap.set (fun _ => 0) x.ready (vN d) (s.now + BitVec.ofNat 60 (4 * n)) }

/-- A command that names a core: refused where the core does not exist (01 R26). -/
def withCore (s : State) (c : CoreId) (f : Out) : Out := if s.hasCore c then f else .refused .noSuchCore

end Sys2Proof.Machine
end

