-- ==== Sys2Proof/Machine/MeshOps.lean ====
section
/-! DEFINITION. Operations of the scheduled mesh: pattern entries, owned slots, units, discards, and a write that enters a
scratchpad (08 R276 to R287; 07 R247, R251, R252, R258; 10 R339, R341). -/

namespace Sys2Proof.Machine

/-! ### Patterns (08 R278, R280, R281) -/

/-- The ports of a router (08 R276). -/
abbrev pC : Nat := 4
abbrev pT : Nat := 5
abbrev pX : Nat := 6

/-- A header's VALID, with the LOGP codes that make it read 0. -/
def hdrValid (w : Word) : Bool := w.msb && decide (6 ≤ bits w.toNat 27 24) && decide (bits w.toNat 27 24 ≤ 10)

/-- The period of the front pattern. -/
def Core.period (k : Core) : Nat := 2 ^ bits (k.w R.MESH_FHDR).toNat 27 24

/-- The front entry of an output for slot `s`: input code and flow, if the entry is valid; IN 7 acts as V = 0. -/
def Core.rawEntry (k : Core) (out s : Nat) : Option (Nat × BitVec 16) :=
  let w := SMap.get (fun _ => (0 : Word)) k.front (1024 * out + s)
  if hdrValid (k.w R.MESH_FHDR) && w.msb && bits w.toNat 30 28 != 7 then some (bits w.toNat 30 28, w.truncate 16) else none

/-- Whether a port leads out of the bed, or to a tap the router does not anchor (08 R280). -/
def State.portIdle (s : State) (c : CoreId) (p : Nat) : Bool :=
  if p < 4 then !(bit (bits ((s.core c).w R.MESH_BED).toNat 3 0) p)
  else if p = pT then !s.hasTap c
  else if p = pX then !s.hasEdge c
  else false

/-- The entry that acts for an output at an angle: none where the router treats it as idle (08 R278, R280). -/
def State.entryAt (s : State) (c : CoreId) (out angle : Nat) : Option (Nat × BitVec 16) :=
  let k := s.core c
  let slot := angle % k.period
  match k.rawEntry out slot with
  | some (i, f) =>
    if s.portIdle c i || s.portIdle c out || (i = pC && (k.rawEntry pC slot).isSome) then none else some (i, f)
  | none => none

/-- Whether the core owns the slot of a cycle on a flow (08 R281). -/
def State.owns (s : State) (c : CoreId) (flow : BitVec 16) (d : Count) : Bool :=
  (List.range 7).any fun o => s.entryAt c o (d.toNat % 4096) == some (pC, flow)

/-- The first owned slot of a flow at or after a cycle (08 R281): in one period of the pattern. -/
def State.ownedFrom (s : State) (c : CoreId) (flow : BitVec 16) (d : Count) : Option Count :=
  ((List.range (s.core c).period).map fun i => d + BitVec.ofNat 60 i).find? fun t => s.owns c flow t

/-- The first owned slot of a flow at or after a cycle that lies in no rest revolution (08 R281, 02 R77). -/
def State.nextOwned (s : State) (c : CoreId) (flow : BitVec 16) (d : Count) : Option Count :=
  match s.ownedFrom c flow d with
  | some t => if s.afterRest c t = t then some t else s.ownedFrom c flow (s.afterRest c t)
  | none => none

/-- G of R286: the largest DRAIN among the back headers of the bed's routers armed for `n`, up to 3,072. -/
def State.drainG (s : State) (bed : Nat) (n : BitVec 48) : Nat :=
  (s.cores.map Prod.snd).foldl (fun g k =>
    if k.bed = some bed ∧ k.fld F.MESH_SWITCH_ARM = 1 ∧ k.swN = n then Nat.max g (Nat.min 3072 (k.fld F.MESH_BHDR_DRAIN)) else g) 0

/-- Whether no burst or delivery of a core's bed starts in a cycle: a router of the bed is armed for the next revolution, and its last G
cycles before that have begun (08 R286). -/
def State.guarded (s : State) (c : CoreId) (d : Count) : Bool :=
  match (s.core c).bed with
  | some b => decide (4096 ≤ d.toNat % 4096 + s.drainG b (d.extractLsb' 12 48 + 1))
  | none => false

/-- Where a unit of a flow that is at input `p` of core `c` in cycle `d` comes out at port `goal` (T or X), by the front
patterns (08 R279, R283). -/
def State.follow (s : State) (flow : BitVec 16) (goal : Nat) : Nat → CoreId → Nat → Count → Option (CoreId × Count)
  | 0, _, _, _ => none
  | n + 1, c, p, d =>
    let outs := (List.range 7).filter fun o => s.entryAt c o (d.toNat % 4096) == some (p, flow)
    if outs.contains goal then some (c, d)
    else outs.findSome? fun o =>
      match s.neighbour c o with
      | some nb => s.follow flow goal n nb (o ^^^ 2) (d + BitVec.ofNat 60 (s.linkCost c nb))
      | none => none

/-- The cost of the X-then-Y route (01 R36). -/
def State.meshCost (s : State) (a b : CoreId) : Nat :=
  let xs := (List.range (absDiff (s.lcol a) (s.lcol b))).map fun i =>
    if s.lcol a ≤ s.lcol b then (s.lcol a + i, s.lcol a + i + 1) else (s.lcol a - i, s.lcol a - i - 1)
  let ys := (List.range (absDiff (s.lrow a) (s.lrow b))).map fun i =>
    if s.lrow a ≤ s.lrow b then (s.lrow a + i, s.lrow a + i + 1) else (s.lrow a - i, s.lrow a - i - 1)
  let at_ (x y : Nat) : CoreId := BitVec.ofNat 12 (y * s.L + x)
  (xs.foldl (fun n p => n + s.linkCost (at_ p.1 (s.lrow a)) (at_ p.2 (s.lrow a))) 0)
    + (ys.foldl (fun n p => n + s.linkCost (at_ (s.lcol b) p.1) (at_ (s.lcol b) p.2)) 0)

/-! ### Units (08 R277, R279, R283) -/

/-- Put a unit at a place of a core in a cycle. -/
def State.putUnit (s : State) (c : CoreId) (p : Place) (d : Count) (u : MUnit) : State :=
  { s with mesh := s.mesh ++ [{ core := c, place := p, due := d, u := u }] }

/-- The earliest unit at a place of a core. -/
def State.unitAt (s : State) (c : CoreId) (p : Place) : Option MeshUnit :=
  (s.mesh.filter fun m => m.core == c && decide (m.place = p)).foldl (fun b m => match b with
    | none => some m
    | some x => if m.due ≠ x.due && notAfter m.due x.due then some m else b) none

/-- Record a discard: `STRAY` 1 at an input, `MISROUTE` 2 at an output (08 R279). -/
def Core.discard (k : Core) (now : Count) (kind port angle : Nat) (expect got : BitVec 16) : Core :=
  let f := if kind = 1 then F.MESH_CNT_STRAY else F.MESH_CNT_MISROUTE
  let k := k.setW R.MESH_CNT (f.inc (k.w R.MESH_CNT))
  if k.fld F.MESH_ERR_VALID = 1 then k.setFld F.MESH_ERR_MORE 1
  else ((k.evNote now R.MESH_ERR 0x80000000#32).setW R.MESH_ERR (BitVec.ofNat 32 (0x80000000 + kind <<< 28 + port <<< 24 + angle))).setW R.MESH_ERRFLOW (expect ++ got)

/-- Forward a unit on an output in a cycle (08 R283). -/
def State.sendOut (s : State) (c : CoreId) (out : Nat) (d : Count) (u : MUnit) : State :=
  if out = pC then s.putUnit c .outC d u
  else if out = pT then s.putUnit c .outT d u
  else if out = pX then s.putUnit c .outX d u
  else match s.neighbour c out with
    | some nb => s.putUnit nb (.inp (BitVec.ofNat 3 (out ^^^ 2))) (d + BitVec.ofNat 60 (s.linkCost c nb)) u
    | none => s

/-! ### Writes into a scratchpad (07 R247, R251, R252, R258; 10 R339, R341) -/

/-- The part of `n` words from word `w` in each line: line, first word, number of words. -/
def lineParts (w n : Nat) : List (Nat × Nat × Nat) :=
  if n = 0 then []
  else (List.range (lineOf (w + n - 1) + 1 - lineOf w)).map fun i =>
    let l := lineOf w + i
    let lo := Nat.max w (16 * l)
    (l, lo, Nat.min (w + n) (16 * l + 16) - lo)

/-- What a write of words into a scratchpad comes to. -/
structure Entered where
  k      : Core
  /-- lines the write entered -/
  lines  : List Nat
  /-- first word dropped at a valid guarded line (R252) -/
  drop   : Option Nat
  /-- first word dropped outside every enabled region (R258) -/
  out    : Option Nat
  /-- lines poisoned (10 R339) -/
  psn    : List Nat

/-- Write the words of one unit or local access from word `w`. `remote`: only guarded lines take words (07 R257, R258).
`poison`: bit i for the i-th 16 words. `again`: lines in which the same write was accepted before. The valid bits are set after. -/
def Core.enter (k : Core) (w : Nat) (ws : List Word) (poison : BitVec 2) (remote : Bool) (again : List Nat) : Entered :=
  (lineParts w ws.length).foldl (fun e p =>
    let (l, a, n) := p
    let i := a - w
    if 5120 ≤ l || (remote && (e.k.regionOf l).isNone) then { e with out := e.out.getD a |> some }
    else if (e.k.regionOf l).isSome && e.k.isValid l && !again.contains l then { e with drop := e.drop.getD a |> some }
    else
      let k := e.k.setSpWords a ((ws.drop i).take n)
      let bad := (List.range n).any fun j => poison.getLsbD ((i + j) / 16)
      let k := if bad then k.setPsn l true else if n = 16 then k.setPsn l false else k
      { e with k := k, lines := e.lines ++ [l], psn := if bad then e.psn ++ [l] else e.psn })
    { k := k, lines := [], drop := none, out := none, psn := [] }

/-- Record the first word a remote write dropped (07 R252, R258). -/
def Core.rxDrop (k : Core) (now : Count) (w : Nat) (out : Bool) : Core :=
  if k.fld F.DMA_RXOVR_VALID = 1 then k.setFld F.DMA_RXOVR_MORE 1
  else (k.evNote now R.DMA_RXOVR 0x80000000#32).setW R.DMA_RXOVR (BitVec.ofNat 32 (0x80000000 + b2n out * 2 ^ 29 + w % 2 ^ 17))

/-- A poisoned unit was delivered (10 R339): MESH_ECC, FAIL, and the core's part of the pass fails. -/
def State.eccFlag (s : State) (c : CoreId) (l : Nat) : State :=
  ((s.onCore c fun k =>
    let k := if k.fld F.MESH_ECC_VALID = 1 then k.setFld F.MESH_ECC_MORE 1
      else (k.evNote s.now R.MESH_ECC 0x80000000#32).setW R.MESH_ECC (BitVec.ofNat 32 (0x80000000 + l))
    (k.evNote s.now R.DMA_SPERR_STAT 0x20000000#32).setFld F.DMA_SPERR_STAT_FAIL 1).failCore c).toHeadstock (.bad c)

/-- A remote write commits in the present cycle: words, valid bits, drops, poison, and the threads it wakes. -/
def State.remoteWrite (s : State) (c : CoreId) (w : Nat) (ws : List Word) (poison : BitVec 2) : State :=
  let e := (s.core c).enter w ws poison true []
  let k := e.k.setValids c s.now e.lines
  let k := match e.drop, e.out with
    | some a, some b => k.rxDrop s.now (Nat.min a b) (decide (b < a))
    | some a, none => k.rxDrop s.now a false
    | none, some b => k.rxDrop s.now b true
    | none, none => k
  let s := s.setCore c k
  match e.psn with
  | l :: _ => s.eccFlag c l
  | [] => s

end Sys2Proof.Machine
end

