-- ==== Sys2Proof/Machine/FabricOps.lean ====
section
/-! DEFINITION. Operations of the Utlas fabric: contexts, packets, routes, ports and flits (12 R389 to R413). -/

namespace Sys2Proof.Machine

/-! ### Ports (12 R391 to R394) -/

/-- A port's record. -/
def State.port (s : State) (p : Nat) : Port := SMap.get (fun _ => Port.reset) s.ports p
def State.setPort (s : State) (p : Nat) (x : Port) : State := { s with ports := SMap.set (fun _ => Port.reset) s.ports p x }

/-- Port states as FX_PORTn_STAT.STATE codes. -/
abbrev portDown : Nat := 0
abbrev portTraining : Nat := 1
abbrev portUp : Nat := 2
abbrev portFailed : Nat := 3

/-- A port's state; port 40 is the Brepo link, whose state is HL_STATUS.LINK. -/
def State.portState (s : State) (p : Nat) : Nat := if p < 40 then s.fld (F.FX_PORT_STAT_STATE p) else s.fld F.HL_STATUS_LINK
def State.setPortState (s : State) (p v : Nat) : State :=
  if p < 40 then s.setFld (F.FX_PORT_STAT_STATE p) v else s.setFld F.HL_STATUS_LINK v

/-- Record a fabric error (12 R424): kind, port or 0x3F, context. -/
def State.fxErr (s : State) (kind port ctx : Nat) : State :=
  if s.fld F.FX_ERR_VALID = 1 then s.setFld F.FX_ERR_MORE 1
  else (s.evNote R.FX_ERR 0x80000000#32).setDev R.FX_ERR (BitVec.ofNat 32 (0x80000000 + kind <<< 26 + (port % 64) <<< 20 + ctx % 2 ^ 14))

/-- Whether the receiver has buffers for `n` more flits on a lane: 128 of each lane and 1,792 shared (12 R393); the Brepo link has
one lane, which all 2,048 serve (15 R460). -/
def Port.room (x : Port) (brepo vl : Bool) (n : Nat) : Bool :=
  if brepo then decide (x.cnt0 + n ≤ 2048) else
  let c0 := x.cnt0 + (if vl then 0 else n)
  let c1 := x.cnt1 + (if vl then n else 0)
  decide ((if vl then c1 else c0) ≤ 128) || decide ((c0 - 128) + (c1 - 128) ≤ 1792)

/-- A flit's bytes (12 R391): header fields, BODY with the bytes in use and EOP, the CRC-32 over bytes 0 to 11 and 16 to 255, and the body. -/
def flitBytes (f : Flit) : List Byte :=
  let head := leBytes 2 (f.lseq.toNat + f.type.toNat * 4096) ++ leBytes 2 (f.lack.toNat + b2n f.vl * 4096) ++ [f.cred0, f.cred1]
    ++ leBytes 2 (f.body.length + b2n f.eop * 256) ++ leBytes 4 0
  let body := f.body ++ List.replicate (240 - f.body.length) (0 : Byte)
  head ++ leBytes 4 (crc32 (head ++ body)).toNat ++ body

/-- Whether 256 bytes carry a good CRC, and the fields they spell. -/
def flitOk (bs : List Byte) : Bool := decide ((crc32 (bs.take 12 ++ bs.drop 16)).toNat = ofLe ((bs.drop 12).take 4))
def flitOf (bs : List Byte) : Flit :=
  let w (i : Nat) : Nat := ofLe ((bs.drop i).take 2)
  { lseq := BitVec.ofNat 12 (w 0), type := BitVec.ofNat 4 (w 0 / 4096), lack := BitVec.ofNat 12 (w 2), vl := bit (w 2) 12
    cred0 := BitVec.ofNat 8 (w 4), cred1 := BitVec.ofNat 8 (w 4 / 256), eop := bit (w 6) 8, body := (bs.drop 16).take (w 6 % 256) }

/-- Send one flit: control flits carry LSEQ 0. It returns LACK and the buffers freed (12 R391, R395). -/
def Port.emit (x : Port) (now : Count) (type : BitVec 4) (lseq : BitVec 12) (vl eop : Bool) (body : List Byte) : Port :=
  let f0 := Nat.min 255 x.free0
  let f1 := Nat.min 255 x.free1
  { x with
    out := x.out ++ [flitBytes { type := type, lseq := lseq, lack := x.lack, vl := vl, cred0 := BitVec.ofNat 8 f0, cred1 := BitVec.ofNat 8 f1,
                                 eop := eop, body := body }]
    free0 := x.free0 - f0
    free1 := x.free1 - f1
    lastOut := now }

/-- Send a new START or CONT flit (12 R394). -/
def Port.emitNew (x : Port) (now : Count) (type : BitVec 4) (vl eop : Bool) (body : List Byte) : Port :=
  let x := if x.replay.isEmpty then { x with lackAt := now } else x
  let y := x.emit now type x.lseq vl eop body
  { y with
    lseq := x.lseq + 1
    replay := x.replay ++ [{ lseq := x.lseq, rev := now.extractLsb' 12 48, vl := vl, type := type, eop := eop, body := body }]
    cnt0 := x.cnt0 + (if vl then 0 else 1)
    cnt1 := x.cnt1 + (if vl then 1 else 0) }

/-- Cut bytes into pieces of at most `n`. -/
def chunks (n : Nat) (bs : List Byte) : List (List Byte) :=
  (List.range ((bs.length + n - 1) / n)).map fun i => (bs.drop (n * i)).take n

/-- The 32 header bytes and the payload of a packet (12 R404). -/
def packetBytes (p : Packet) : List Byte :=
  leBytes 2 p.dmod.toNat ++ leBytes 2 p.smod.toNat ++ leBytes 2 p.dctx.toNat ++ leBytes 2 (p.job.toNat + p.op.toNat * 4096)
    ++ leBytes 3 p.seq.toNat ++ leBytes 1 p.epoch.toNat ++ leBytes 2 p.data.length ++ leBytes 1 p.hops.toNat ++ [0]
    ++ leBytes 8 p.aux.toNat ++ leBytes 8 p.addr.toNat ++ p.data

/-- The forwarded packets' turn: one source beside contexts 0 to 9,999 (12 R410). -/
abbrev fwdSrc : Nat := 10000

/-- The packet a port serves next: of those first of their source and lane, and with room for all their flits, one of the source that follows the
one served last, in ascending order; in turn by context, forwarded packets as one further source (12 R393, R410; log entry 55). -/
def Port.nextPkt (x : Port) (brepo : Bool) : Option QPkt :=
  let heads := x.queue.filter fun q => decide (x.queue.find? (fun r => r.src == q.src && r.vl == q.vl) = some q)
  let ready := heads.filter fun q => x.room brepo q.vl (chunks 240 q.data).length
  let dist (q : QPkt) : Nat := (q.src + fwdSrc - x.turn % (fwdSrc + 1)) % (fwdSrc + 1)
  ready.foldl (fun (b : Option QPkt) q => match b with
    | none => some q
    | some r => if dist q < dist r then some q else b) none

/-- Send what a port can send now, whole packets in turn; no new flit while the replay buffer is full (12 R393, R394, R410). -/
def Port.pump (brepo : Bool) (now : Count) : Nat → Port → Port
  | 0, x => x
  | n + 1, x =>
    match x.sending with
    | some (vl, first, f :: fs) =>
      if x.replay.length < 2048 then
        ({ x.emitNew now (if first then 1 else 2) vl fs.isEmpty f with sending := if fs.isEmpty then none else some (vl, false, fs) }).pump brepo now n
      else x
    | _ =>
      match x.nextPkt brepo with
      | some q => ({ x with queue := x.queue.erase q, sending := some (q.vl, true, chunks 240 q.data), turn := q.src }).pump brepo now n
      | none => { x with sending := none }

/-- Flits and packets that a port has still to send. -/
def Port.todo (x : Port) : Nat :=
  (x.queue.map fun q => (chunks 240 q.data).length + 1).foldl (· + ·) 0 + ((x.sending.map fun y => y.2.2.length).getD 0) + 1

/-- Let a port send what it can. -/
def State.pumpPort (s : State) (p : Nat) : State :=
  if s.portState p = portUp then s.setPort p ((s.port p).pump (p == 40) s.now (s.port p).todo) else s

/-! ### Routes (12 R407, R408) -/

/-- The route entry of a module, in FX_RTDATA layout. -/
def State.route (s : State) (m : BitVec 16) : Word := SMap.get (fun _ => (0 : Word)) s.routes m.toNat

/-- The port a packet for a module leaves on, if it finds a usable one. -/
def State.routePort (s : State) (m : BitVec 16) : Option Nat :=
  let w := (s.route m).toNat
  if !bit w 31 then none
  else if bits w 21 16 < 40 && s.portState (bits w 21 16) = portUp then some (bits w 21 16)
  else if bit w 7 && bits w 13 8 < 40 && s.portState (bits w 13 8) = portUp then some (bits w 13 8)
  else none

/-- Queue a packet on the port its route names; `none` where it is discarded as `UNROUTABLE`. A forwarded packet leaves on lane 1 where the
entry has DL set, and otherwise on the lane it came on; one that the module originates, for the turn of context `src`, leaves on lane 0 (12
R407, R408, R410). -/
def State.sendPacket (s : State) (src : Nat) (vl : Bool) (p : Packet) : State × Option Nat :=
  match s.routePort p.dmod with
  | some n =>
    let vl := src == fwdSrc && (vl || bit (s.route p.dmod).toNat 30)
    ((s.setPort n { s.port n with queue := (s.port n).queue ++ [{ src := src, vl := vl, data := packetBytes p }] }).pumpPort n, some n)
  | none => (s.fxErr 3 0x3F p.dctx.toNat, none)

/-! ### Contexts (12 R401, R402, R411) -/

/-- A word of a context's record. -/
def State.cw (s : State) (n m : Nat) : Nat := (SMap.get (fun _ => (0 : Word)) s.ctxw (8 * n + m)).toNat
def State.setCw (s : State) (n m v : Nat) : State :=
  { s with ctxw := SMap.set (fun _ => (0 : Word)) s.ctxw (8 * n + m) (BitVec.ofNat 32 v) }

/-- The bits of word m of a context's record that its fields take; the others are 0 (R402). -/
def ctxMask : Nat → Nat
  | 1 => 0xFFFFFFC0
  | 2 => 0xFFFF7FFF
  | 4 => 0x00FFFFFF
  | 5 => 0x00FFFFFF
  | 6 => 0x8000FFFF
  | _ => 0xFFFFFFFF

/-- What a context holds beside its record. -/
def State.ctx (s : State) (n : Nat) : Ctx := SMap.get (fun _ => Ctx.none) s.ctxs n
def State.setCtx (s : State) (n : Nat) (x : Ctx) : State := { s with ctxs := SMap.set (fun _ => Ctx.none) s.ctxs n x }

abbrev ctxFlowTx : Nat := 1
abbrev ctxFlowRx : Nat := 2
abbrev ctxReduce : Nat := 3
abbrev ctxPeer : Nat := 4
abbrev ctxAgree : Nat := 5

/-- The type of a valid context; 0 where it is not in use. -/
def State.ctxType (s : State) (n : Nat) : Nat := if n < 10000 && bit (s.cw n 0) 31 then bits (s.cw n 0) 30 28 else 0
def State.ctxJob (s : State) (n : Nat) : JobId := BitVec.ofNat 12 (bits (s.cw n 0) 27 16)
def State.ctxRmod (s : State) (n : Nat) : BitVec 16 := BitVec.ofNat 16 (bits (s.cw n 0) 15 0)

/-- The HOPS a source sets (12 R407, R424). -/
def State.hopLim (s : State) : Nat := if s.fld F.FX_CTRL_HOPLIM = 0 then 8 else s.fld F.FX_CTRL_HOPLIM

/-- The packet a context sends next for an operation (12 R404, R411). -/
def State.ctxPacket (s : State) (n op aux addr : Nat) (data : List Byte) : Packet :=
  { dmod := s.ctxRmod n, smod := BitVec.ofNat 16 (s.fld F.FX_CTRL_MODULE), dctx := BitVec.ofNat 14 (bits (s.cw n 1) 31 18),
    job := s.ctxJob n, op := BitVec.ofNat 4 op, seq := if op = 9 then 0 else BitVec.ofNat 24 (bits (s.cw n 3) 23 0),
    epoch := BitVec.ofNat 8 (bits (s.cw n 3) 31 24), hops := BitVec.ofNat 4 s.hopLim, aux := BitVec.ofNat 64 aux,
    addr := BitVec.ofNat 64 addr, data := data }

/-- A context originates a packet: every packet but ACK takes the next SEQ and is held until an ACK covers it (12 R405,
R411). The fabric complex sends only with FX_CTRL.EN = 1. -/
def State.originate (s : State) (n op aux addr : Nat) (data : List Byte) : State :=
  let p := s.ctxPacket n op aux addr data
  let (s, port) := if s.fld F.FX_CTRL_EN = 1 then s.sendPacket n false p else (s, none)
  if op = 9 then s
  else
    let x := s.ctx n
    let s := s.setCtx n { x with unack := x.unack ++ [{ pkt := p, rev := s.rev, port := port }] }
    s.setCw n 3 (bits (s.cw n 3) 31 24 * 2 ^ 24 + (bits (s.cw n 3) 23 0 + 1) % 2 ^ 24)

/-- The first context that satisfies a test. -/
def State.findCtx (s : State) (p : Nat → Bool) : Option Nat := (s.ctxw.map fun e => e.1 / 8).find? p

/-- The PEER context of a job with a module; the AGREE context of a job with a neighbour. -/
def State.peerOf (s : State) (j : JobId) (m : BitVec 16) : Option Nat :=
  s.findCtx fun n => s.ctxType n == ctxPeer && s.ctxJob n == j && s.ctxRmod n == m
def State.agreeOf (s : State) (j : JobId) (m : BitVec 16) : Option Nat :=
  s.findCtx fun n => s.ctxType n == ctxAgree && s.ctxJob n == j && s.ctxRmod n == m

/-- The FLOW_TX context of a bed's outbound flow (12 R416). -/
def State.flowTx (s : State) (bed : Nat) (flow : BitVec 16) : Option Nat :=
  s.findCtx fun n => s.ctxType n == ctxFlowTx && bits (s.cw n 1) 17 13 == bed && bits (s.cw n 2) 31 16 == flow.toNat

/-- The edge tap of a FLOW_RX context (12 R402, R418). -/
def State.rxEdge (s : State) (n : Nat) : CoreId :=
  BitVec.ofNat 12 (bits (s.cw n 1) 11 6 * s.L + (if bit (s.cw n 1) 12 then s.L - 1 else 0))

/-- A packet's bytes as a header and payload; none for fewer than 32 bytes or a LEN that does not fit. -/
def packetOf (bs : List Byte) : Option Packet :=
  let f (a n : Nat) : Nat := ofLe ((bs.drop a).take n)
  if bs.length < 32 || f 12 2 ≠ bs.length - 32 then none
  else some { dmod := BitVec.ofNat 16 (f 0 2), smod := BitVec.ofNat 16 (f 2 2), dctx := BitVec.ofNat 14 (f 4 2),
              job := BitVec.ofNat 12 (f 6 2), op := BitVec.ofNat 4 (f 6 2 / 4096), seq := BitVec.ofNat 24 (f 8 3),
              epoch := BitVec.ofNat 8 (f 11 1), hops := BitVec.ofNat 4 (f 14 1), aux := BitVec.ofNat 64 (f 16 8),
              addr := BitVec.ofNat 64 (f 24 8), data := bs.drop 32 }

end Sys2Proof.Machine
end

