-- ==== Sys2Proof/Machine/FeedOps.lean ====
section
/-! DEFINITION. Reduction descriptors, their tables, and the feeds of the converters (13 R425 to R432, R438). -/

namespace Sys2Proof.Machine

/-- A reduction and the VALID of its descriptor (13 R429). -/
def State.red (s : State) (rid : Nat) : Reduction := SMap.get (fun _ => Reduction.none) s.reds rid
def State.setRed (s : State) (rid : Nat) (r : Reduction) : State := { s with reds := SMap.set (fun _ => Reduction.none) s.reds rid r }
def Reduction.w (r : Reduction) (m : Nat) : Nat := (SMap.get (fun _ => (0 : Word)) r.words m).toNat

/-- Fields of a descriptor (R429). -/
def Reduction.valid (r : Reduction) : Bool := bit (r.w 0) 31
def Reduction.job (r : Reduction) : JobId := BitVec.ofNat 12 (bits (r.w 0) 23 12)
def Reduction.rnd (r : Reduction) : Nat := bits (r.w 0) 29 28
def Reduction.ofmt (r : Reduction) : Nat := bits (r.w 0) 27 26
def Reduction.b (r : Reduction) : Nat := bits (r.w 2) 27 0
def Reduction.carried (r : Reduction) : Bool := bit (r.w 14) 29
/-- Bytes of a result block, and the most blocks a RESULT packet holds (R446, R454). -/
def Reduction.rsize (r : Reduction) : Nat := [256, 128, 392].getD r.ofmt 256
def Reduction.maxRes (r : Reduction) : Nat := [16, 32, 10].getD r.ofmt 16

/-- A segment's home, blocks and first block (R430). -/
def Reduction.segHome (r : Reduction) (i : Nat) : BitVec 16 := (r.segs.getD i 0).extractLsb' 48 16
def Reduction.segCount (r : Reduction) (i : Nat) : Nat := bits (r.segs.getD i 0).toNat 44 28 + 1
def Reduction.segFirst (r : Reduction) (i : Nat) : Nat := bits (r.segs.getD i 0).toNat 27 0
/-- The segment of a block. -/
def Reduction.segOf (r : Reduction) (b : Nat) : Option Nat :=
  (List.range r.segs.length).find? fun i => r.segFirst i ≤ b && b < r.segFirst i + r.segCount i
/-- Whether a block begins a segment. -/
def Reduction.begins (r : Reduction) (b : Nat) : Bool := (List.range r.segs.length).any fun i => r.segFirst i == b

/-- The module that feeds a copy of a contribution, if there is one (R427, R430). -/
def Reduction.feeder (r : Reduction) (k : Nat) (copy : Bool) : Option (BitVec 16) :=
  match r.conts[k]? with
  | some w =>
    let m : BitVec 16 := if copy then w.extractLsb' 16 16 else w.truncate 16
    if copy && m == 0xFFFF then Option.none else some m
  | Option.none => Option.none

/-- The modules named in the contributor table, each once. -/
def Reduction.named (r : Reduction) : List (BitVec 16) :=
  r.conts.foldl (fun (l : List (BitVec 16)) w =>
    let add (l : List (BitVec 16)) (m : BitVec 16) : List (BitVec 16) := if m = 0xFFFF ∨ l.contains m then l else l ++ [m]
    add (add l (w.truncate 16)) (w.extractLsb' 16 16)) []

/-- The key of a converter's flow: side, bed and flow. -/
def feedKey (side bed : Nat) (flow : BitVec 16) : Nat := 2097152 * side + 65536 * bed + flow.toNat
def State.feed (s : State) (k : Nat) : List Feed := SMap.get (fun _ => []) s.feeds k
def State.setFeed (s : State) (k : Nat) (l : List Feed) : State := { s with feeds := SMap.set (fun _ => []) s.feeds k l }

/-- Fields of a feed's header (R432). -/
def Feed.w (f : Feed) (i : Nat) : Nat := (f.head.getD i 0).toNat
def Feed.kind (f : Feed) : Nat := bits (f.w 0) 31 30
def Feed.bf16 (f : Feed) : Bool := bit (f.w 0) 29
def Feed.copy (f : Feed) : Bool := bit (f.w 0) 28
def Feed.rid (f : Feed) : Nat := bits (f.w 0) 9 0
def Feed.k (f : Feed) : Nat := bits (f.w 1) 23 0
def Feed.first (f : Feed) : Nat := bits (f.w 2) 27 0
def Feed.count (f : Feed) : Nat := bits (f.w 3) 27 0
/-- Words of a block, and of the whole feed once its header is known. -/
def Feed.blockW (f : Feed) : Nat := if f.bf16 then 32 else 64
def Feed.total (f : Feed) : Nat := 4 + f.count * f.blockW
def Feed.whole (f : Feed) : Bool := f.head.length == 4 && decide (f.total ≤ f.taken)

/-- Whether a CONVERT feed of an agreed pass waits for agreed exponents of its segments (R438). -/
def State.feedWaits (s : State) (f : Feed) : Bool :=
  let r := s.red f.rid
  f.head.length == 4 && !f.bad && f.kind == 2 && r.valid && !r.carried &&
    (List.range r.segs.length).any fun i =>
      decide (f.first < r.segFirst i + r.segCount i) && decide (r.segFirst i < f.first + f.count) &&
        (List.range (r.segCount i)).any fun j => !r.agreed.contains (r.segFirst i + j)

end Sys2Proof.Machine
end

