-- ==== Sys2Proof/Machine/DmaOps.lean ====
section
/-! DEFINITION. Operations of the DMA engine: descriptors, credit requests, bursts and channel ends (07 R257 to R272; 10 R329,
R333, R335; 11 R360, R361). -/

namespace Sys2Proof.Machine

/-! ### Channels and their registers (07 R262, R275) -/

def Core.ch (k : Core) (c : Reg) : Chan := SMap.get (fun _ => Chan.none) k.chan c.toNat
def Core.setCh (k : Core) (c : Reg) (x : Chan) : Core := { k with chan := SMap.set (fun _ => Chan.none) k.chan c.toNat x }
def Core.onCh (k : Core) (c : Reg) (f : Chan → Chan) : Core := k.setCh c (f (k.ch c))

/-- The STATE codes of DMA_CHc_STAT. -/
abbrev chIdle : Nat := 0
abbrev chRunning : Nat := 1
abbrev chParked : Nat := 2
abbrev chDone : Nat := 3
abbrev chDisabled : Nat := 4
abbrev chError : Nat := 5

def Core.chState (k : Core) (c : Reg) : Nat := k.fld (F.DMA_CH_STAT_STATE c.toNat)
def Core.chThr (k : Core) (c : Reg) : Thr := BitVec.ofNat 2 (k.fld (F.DMA_CH_STAT_THR c.toNat))
def Core.setChState (k : Core) (c : Reg) (st code : Nat) : Core :=
  (k.setFld (F.DMA_CH_STAT_STATE c.toNat) st).setFld (F.DMA_CH_STAT_CODE c.toNat) code
def Core.grant (k : Core) (c : Reg) : Nat := k.fld (F.DMA_CH_GRANT_BYTES c.toNat)
def Core.setGrant (k : Core) (c : Reg) (n : Nat) : Core := k.setFld (F.DMA_CH_GRANT_BYTES c.toNat) n

/-- A descriptor (07 R262). -/
structure Desc where
  op     : Nat
  pri    : Nat
  /-- burst size in words -/
  burst  : Nat
  sk     : Nat
  dk     : Nat
  cre    : Bool
  cfe    : Bool
  cflag  : Nat
  nrows  : Nat
  rowlen : Nat
  ss     : Int
  ds     : Int
  /-- LOCAL, CORE and XMOD: a word address; MEM: virtual address / 4 -/
  src    : Nat
  dst    : Nat
  fill   : Word
  /-- CORE: target core and flow; XMOD: context -/
  target : CoreId
  flow   : BitVec 16
  ctx    : BitVec 14

/-- Operation, source and destination kinds. -/
abbrev opCopy : Nat := 0
abbrev opFill : Nat := 1
abbrev opCompare : Nat := 2
abbrev skMem : Nat := 1
abbrev dkLocal : Nat := 0
abbrev dkCore : Nat := 1
abbrev dkXmod : Nat := 2
abbrev dkMem : Nat := 3

/-- The descriptor that eight words spell. -/
def descOf (ws : List Word) : Desc :=
  let w (i : Nat) : Nat := (nthWord ws i).toNat
  let va (lo hi : Nat) : Nat := (bits hi 19 0 * 2 ^ 32 + lo) / 4
  { op := bits (w 0) 31 28, pri := bits (w 0) 27 26, burst := 16 * (bits (w 0) 25 23 + 1), sk := bits (w 0) 22 20,
    dk := bits (w 0) 19 17, cre := bit (w 0) 16, cfe := bit (w 0) 15, cflag := bits (w 0) 13 8,
    nrows := bits (w 1) 31 16 + 1, rowlen := bits (w 1) 15 0 + 1, ss := sext 32 (w 2), ds := sext 32 (w 3),
    src := if bits (w 0) 22 20 = skMem then va (w 4) (w 5) else w 4,
    dst := if bits (w 0) 19 17 = dkMem then va (w 6) (w 7) else w 6,
    fill := nthWord ws 4, target := BitVec.ofNat 12 (bits (w 7) 31 20), flow := BitVec.ofNat 16 (bits (w 7) 15 0),
    ctx := BitVec.ofNat 14 (bits (w 7) 13 0) }

/-- Whether the words break the table of R262; `cores` is 40 x L (R263). -/
def descBad (ws : List Word) (cores : Nat) : Bool :=
  let w (i : Nat) : Nat := (nthWord ws i).toNat
  let d := descOf ws
  decide (2 < d.op) || decide (1 < d.sk) || (d.op == opFill && d.sk != 0) || decide (3 < d.dk)
    || (d.op == opCompare && d.dk != dkLocal && d.dk != dkMem)
    || bit (w 0) 14 || bits (w 0) 7 0 != 0 || (d.cfe && decide (61 < d.cflag))
    || (if d.op = opFill then w 5 != 0 else if d.sk = skMem then w 4 % 4 != 0 || w 5 >>> 20 != 0 else w 4 >>> 17 != 0 || w 5 != 0)
    || (if d.dk = dkMem then w 6 % 4 != 0 || w 7 >>> 20 != 0
        else w 6 >>> 17 != 0 || (if d.dk = dkLocal then w 7 != 0
          else if d.dk = dkCore then bits (w 7) 19 16 != 0 || decide (cores ≤ d.target.toNat) else w 7 >>> 14 != 0))

/-- Words of the transfer, and the word address of a position at one end (R263). -/
def Desc.total (d : Desc) : Nat := d.nrows * d.rowlen
def Desc.at_ (d : Desc) (dst : Bool) (i : Nat) : Int :=
  (if dst then d.dst else d.src : Nat) + (i / d.rowlen : Nat) * (if dst then d.ds else d.ss) + (i % d.rowlen : Nat)

/-- The first position of a LOCAL end outside the scratchpad, by row (R261): its row, word and address. -/
def Desc.outside (d : Desc) (dst : Bool) : Option (Nat × Nat × Int) :=
  (List.range d.nrows).findSome? fun r =>
    let a := d.at_ dst (r * d.rowlen)
    if a < 0 then some (r, 0, a)
    else if spWords < a.toNat + d.rowlen then
      let k := spWords - a.toNat
      some (r, k, a + k)
    else none

/-- The address of the first LOCAL word outside the scratchpad, in transfer order; a source word comes before the
destination word of its position. -/
def Desc.rangeFault (d : Desc) : Option Int :=
  let s := if d.op ≠ opFill ∧ d.sk ≠ skMem then d.outside false else none
  let t := if d.dk = dkLocal then d.outside true else none
  match s, t with
  | some (r, k, a), some (r', k', a') => if r * d.rowlen + k ≤ r' * d.rowlen + k' then some a else some a'
  | some (_, _, a), none => some a
  | none, some (_, _, a) => some a
  | none, none => none

/-- The descriptor in a channel's registers. -/
def Core.desc (k : Core) (c : Reg) : Desc := descOf ((List.range 8).map fun m => k.w (R.DMA_CH_DESC c.toNat m))

/-- Whether an end of the descriptor is memory: the source, or the destination. -/
def Desc.mem (d : Desc) (dst : Bool) : Bool := if dst then d.dk == dkMem else d.op != opFill && d.sk == skMem

/-- Whether the destination is remote: its words enter under credit (R257). -/
def Desc.remote (d : Desc) : Bool := d.dk == dkCore || d.dk == dkXmod

/-- How many of `m` words from a position are consecutive at one end (R263). -/
def Desc.run (d : Desc) (dst : Bool) (i m : Nat) : Nat :=
  if (if dst then d.ds else d.ss) = d.rowlen then m else Nat.min m (d.rowlen - i % d.rowlen)

/-- The word address of a memory position in the job's address space. -/
def Desc.va (d : Desc) (dst : Bool) (i : Nat) : Int := d.at_ dst i % (2 ^ 50 : Int)

/-- How many of `m` words from a position one burst may move at a memory end: consecutive words of one 4 KiB of memory and, of a read, as
many as ceil(bytes / 128) units of two 64-byte bursts bring (10 R329; log entry 20). -/
def Desc.memRun (d : Desc) (dst read : Bool) (i m : Nat) : Nat :=
  let a := d.va dst i
  let m := Nat.min (d.run dst i m) (1024 - (a % 1024).toNat)
  if read then Nat.min m (32 * ((m + 31) / 32) - (a % 16).toNat) else m

/-- Words moved (ROWS and WORD). -/
def Core.chPos (k : Core) (c : Reg) : Nat :=
  k.fld (F.DMA_CH_STAT_ROWS c.toNat) * (k.desc c).rowlen + k.fld (F.DMA_CH_WORD_WORD c.toNat)

/-- The words of the next burst (R265, R269): up to the burst size, at a remote or memory end consecutive words, so that its units are
those that R265 and 10 R329 count (log entry 20). -/
def Core.chNext (k : Core) (c : Reg) : Nat :=
  let d := k.desc c
  let i := k.chPos c
  let n := Nat.min d.burst (d.total - i)
  let n := if d.mem false then d.memRun false true i n else n
  if d.mem true then d.memRun true (d.op == opCompare) i n else if d.remote then d.run true i n else n
def Core.setPos (k : Core) (c : Reg) (i : Nat) : Core :=
  (k.setFld (F.DMA_CH_STAT_ROWS c.toNat) (i / (k.desc c).rowlen)).setFld (F.DMA_CH_WORD_WORD c.toNat) (i % (k.desc c).rowlen)

/-- The channel timer's limit (DMA_TLIMIT). -/
def Core.tlimit (k : Core) : Nat := if k.fld F.DMA_TLIMIT_LIMIT = 0 then 2048 else k.fld F.DMA_TLIMIT_LIMIT

/-- Arm a channel's timer (R271). -/
def Core.armCh (k : Core) (c : Reg) (rev : BitVec 48) : Core :=
  (k.setW (R.DMA_CH_TIMER c.toNat) 0).onCh c fun x => { x with trev := rev, tlim := k.tlimit }

/-- The channel's timer as it reads: while the channel runs, the whole working revolutions since it was armed (R271, 02 R80). -/
def Core.chTimer (k : Core) (c : Reg) (r : Rest) (rev : BitVec 48) : Word :=
  let w := (k.w (R.DMA_CH_TIMER c.toNat)).toNat
  let t := (k.ch c).trev
  BitVec.ofNat 32 (if k.chState c = chRunning ∧ revNotAfter (t + 1) rev = true then Nat.min 0xFFFF (w + ((rev - t).toNat - 1 - r.between t rev)) else w)

/-! ### Credit (07 R257 to R259; 12 R416, R417) -/

/-- The fabric route of a context: the lowest-numbered valid MESH_FABRTr (12 R416). -/
def Core.fabFlow (k : Core) (ctx : BitVec 14) : Option (BitVec 16) :=
  ((List.range 4).find? fun r => let w := (k.w (R.MESH_FABRT r)).toNat; bit w 31 && bits w 29 16 == ctx.toNat).map fun r =>
    (k.w (R.MESH_FABRT r)).truncate 16

/-- The edge tap that a flow of a core leaves by, from its next owned slot. -/
def State.edgeOf (s : State) (c : CoreId) (flow : BitVec 16) (d : Count) : Option CoreId :=
  (s.nextOwned c flow d).bind fun t => (s.follow flow pX 240 c pC t).map Prod.fst

/-- The converter half an edge tap reaches: 0 west, 1 east (13 R431). -/
def State.sideOf (s : State) (c : CoreId) : Nat := if s.lcol c = 0 then 0 else 1

/-- The context number of the converter (13 R431), and its input buffer's free bytes. -/
abbrev convCtx : BitVec 14 := 16383
def State.convFree (s : State) (side : Nat) : Nat := SMap.get (fun _ => 524288) s.feedBuf side
def State.setConvFree (s : State) (side n : Nat) : State := { s with feedBuf := SMap.set (fun _ => 524288) s.feedBuf side n }

/-- The first cycle from `d` in which the DMA engine of a core sends no flag network message yet (08 R289). -/
def Core.msgCyc (k : Core) (d : Count) : Count :=
  ((List.range (k.dmaMsgs.length + 1)).map fun i => d + BitVec.ofNat 60 i).find? (fun t => !k.dmaMsgs.contains t) |>.getD d

/-- The DMA engine of a core sends a flag network message in the first cycle it can from `d` (08 R288, R289). -/
def State.dmaSend (s : State) (c dst : CoreId) (d : Count) (b : NetBody) : State :=
  let k := s.core c
  let t := k.msgCyc d
  { s.setCore c { k with dmaMsgs := (k.dmaMsgs.filter fun x => notAfter s.now x) ++ [t] } with
    net := s.net ++ [{ src := c, dst := dst, due := t + BitVec.ofNat 60 (s.lat c dst), body := b }] }

/-- Whether a message is a request of channel `ch` of `c` that has not left the core by the present cycle. -/
def State.unsentAsk (s : State) (c : CoreId) (ch : Reg) (m : NetMsg) : Bool :=
  m.src == c && !notAfter (m.due - BitVec.ofNat 60 (s.lat c m.dst)) s.now && match m.body with
  | .creditReq h .. => h == ch
  | .fabAsk h .. => h == ch
  | _ => false

/-- A channel sends a credit request from cycle `d` on (R257): to the receiving core, or to the anchor of the edge tap its flow leaves by
(12 R417). -/
def State.askCredit (s : State) (c : CoreId) (ch : Reg) (d : Count) : State :=
  let k := s.core c
  let q := k.desc ch
  let x := k.ch ch
  let left := 4 * (q.total - k.chPos ch)
  let burst := 4 * k.chNext ch
  let word := BitVec.ofInt 17 (q.at_ true (k.chPos ch))
  let s := s.setCore c (k.setCh ch { x with asked := true, retry := none })
  if q.dk = dkCore then s.dmaSend c q.target d (.creditReq ch x.gen word left burst)
  else
    match (k.fabFlow q.ctx).bind fun flow => (s.edgeOf c flow d).map fun e => (flow, e) with
    | some (flow, e) => s.dmaSend c e d (.fabAsk ch x.gen q.ctx flow word left burst)
    | none => s

/-- A grant that channel `ch` does not use returns to its region, in a message from cycle `d` on (R259): to the granting core, or by the
edge tap of an XMOD destination into the fabric complex (log entry 46). -/
def State.giveBack (s : State) (c : CoreId) (ch : Reg) (g : Nat) (src : CoreId) (region : Reg) (d : Count) : State :=
  let k := s.core c
  let q := k.desc ch
  if g = 0 then s
  else if q.dk = dkXmod then
    match (k.fabFlow q.ctx).bind fun flow => (s.edgeOf c flow d).map fun e => (flow, e) with
    | some (flow, e) => s.dmaSend c e d (.fabRet q.ctx flow g)
    | none => s
  else s.dmaSend c src d (.creditRet region g)

/-! ### The ends of channels (07 R266, R268, R270) -/

/-- The changes that have met in the present cycle (08 R291). -/
def Core.flagCyc (k : Core) (now : Count) : FlagCyc := if k.fcyc.cyc = now then k.fcyc else FlagCyc.at_ now

/-- The flags after a cycle's changes so far, with a trace record for each that changed (19 R557), and the threads they wake. -/
def Core.putFlags (k : Core) (c : CoreId) (now : Count) (f : BitVec 64) (fc : FlagCyc) : Core :=
  let k := (List.range 62).foldl (fun (k : Core) n =>
    if f.getLsbD n = k.flags.getLsbD n then k else k.traceAt now 7 0 (2 * n + b2n (f.getLsbD n)) 0) k
  ({ k with flags := f &&& 0x3FFFFFFFFFFFFFFF#64, fcyc := fc }).wakeFlags c now

/-- A change of a flag that is no register write, in the present cycle (08 R290 to R292): a register write of the cycle governs,
and a set governs a clear. Flags 62 and 63 are hardware's. -/
def State.flagTo (s : State) (c : CoreId) (n : Nat) (v : Bool) : State :=
  if 62 ≤ n then s
  else s.onCore c fun k =>
    let m : BitVec 64 := 1#64 <<< n
    let fc := k.flagCyc s.now
    if (fc.rset ||| fc.rclr) &&& m ≠ 0 then k
    else if v then k.putFlags c s.now (k.flags ||| m) { fc with sets := fc.sets ||| m }
    else if fc.sets &&& m ≠ 0 then k
    else k.putFlags c s.now (k.flags &&& ~~~m) fc

/-- Words that one of the core's own channels writes from word `w`, not as part of a burst: a completion record (R251, R252). -/
def State.ownWrite (s : State) (c : CoreId) (t : Thr) (w : Nat) (ws : List Word) : State :=
  let e := (s.core c).enter w ws 0 false []
  let s := s.setCore c (e.k.setValids c s.now e.lines)
  match e.drop with
  | some a => s.lineTrap c t a
  | none => s

/-- What a channel leaves when it moves no more words. -/
def Chan.over_ (x : Chan) : Chan := { Chan.none with ga := x.ga, gen := x.gen, asked := x.asked, region := x.region }

/-- End a channel in the present cycle, DONE or ERROR, with its completion effects in the following cycles (R266): the record, which
enters a guarded line as any write of the channel does, then the flag. A `CREDIT` or `TIMEOUT` is reported (R270). -/
def State.endChan (s : State) (c : CoreId) (ch : Reg) (code : Nat) : State :=
  let k := s.core c
  let d := k.desc ch
  let x := k.ch ch
  let t := k.chThr ch
  let st := if code = 0 then chDone else chError
  let s := if code = 0 then s else s.giveBack c ch (k.grant ch) d.target x.region s.now
  let k := ((s.core c).setChState ch st code).setCh ch x.over_
  let k := if code = 0 then k else k.setGrant ch 0
  let k := k.traceAt s.now 5 t (8 * ch.toNat + st) (k.w (R.DMA_CH_STAT ch.toNat)).toNat
  let s := s.setCore c k
  let s := if 4 ≤ code then s.toHeadstock (.dma c ch code) else s
  let s := if d.cre then
      (s.advanceTo (s.now + 1)).ownWrite c t x.ga.toNat
        [k.w (R.DMA_CH_STAT ch.toNat), k.w (R.DMA_CH_CMPCNT ch.toNat), k.w (R.DMA_CH_CMPA_LO ch.toNat), k.w (R.DMA_CH_CMPA_HI ch.toNat)]
    else s
  if d.cfe then (s.advanceTo (s.now + 1)).flagTo c d.cflag true else s

/-- Disable a channel that is RUNNING or PARKED (R268): what it has not sent is dropped, a request that has not left with it (R260), its
grant returns from the next cycle on, and ROWS and WORD become free values. A channel whose last word has moved by now stays DONE (R273). -/
def State.disableCh (s : State) (c : CoreId) (ch : Reg) : State :=
  let k := s.core c
  let x := k.ch ch
  let past : Bool := match x.ends with | some (e, _) => notAfter e s.now | none => false
  if (k.chState ch ≠ chRunning ∧ k.chState ch ≠ chParked) ∨ past then s
  else
    let unsent := s.net.filter (s.unsentAsk c ch)
    let s := { s.setCore c { k with dmaMsgs := k.dmaMsgs.filter fun t => !unsent.any fun m => m.due - BitVec.ofNat 60 (s.lat c m.dst) == t } with
               net := s.net.filter fun m => !s.unsentAsk c ch m }
    let s := s.giveBack c ch (k.grant ch) (k.desc ch).target x.region (s.now + 1)
    let k := (((s.core c).setChState ch chDisabled 0).setGrant ch 0).setCh ch { x.over_ with asked := x.asked && unsent.isEmpty }
    let k := (k.setFld (F.DMA_CH_STAT_ROWS ch.toNat) (Config.freeWord s.free).toNat).setFld (F.DMA_CH_WORD_WORD ch.toNat)
      (Config.freeWord (s.free + 1)).toNat
    { s.setCore c (k.traceAt s.now 5 (k.chThr ch) (8 * ch.toNat + chDisabled) (k.w (R.DMA_CH_STAT ch.toNat)).toNat) with free := s.free + 2 }

/-- A channel without its burst: the words of the burst it was in have not moved. -/
def Chan.idle (x : Chan) : Chan := { x with n := 0, on := Option.none, todo := [], due := [], buf := [], sent := 0, lines := [], psns := [], bad := 0 }

/-- Park a channel (R269): its timer stops, and the count so far is kept. -/
def Core.parkCh (k : Core) (ch : Reg) (code : Nat) (r : Rest) (rev : BitVec 48) : Core :=
  let x := k.ch ch
  let k := k.setW (R.DMA_CH_TIMER ch.toNat) (k.chTimer ch r rev)
  (k.setChState ch chParked code).setCh ch { x.idle with park := 0 }

/-- Whether a channel asks for credit now: its grant is smaller than its next burst, and it waits for no answer (R257). -/
def Core.wantsCredit (k : Core) (ch : Reg) : Bool :=
  (k.desc ch).remote && !(k.ch ch).asked && k.grant ch < 4 * k.chNext ch

/-- A burst has moved `n` words and finishes in the present cycle (R265, R266, R269, R271); `e`: the cycle of the end, if the last word of
the transfer is among them. -/
def State.finishBurst (s : State) (c : CoreId) (ch : Reg) (n : Nat) (e : Count) : State :=
  let k := s.core c
  let x := k.ch ch
  let k := (k.setPos ch (k.chPos ch + n)).armCh ch s.rev
  let ends := if x.bad ≠ 0 then some (s.now, x.bad) else if k.chPos ch = (k.desc ch).total then some (e, 0) else none
  let k := k.setCh ch { (k.ch ch).idle with ends := ends }
  let s := s.setCore c k
  if ends.isSome then s
  else if x.park ≠ 0 then s.setCore c (k.parkCh ch x.park (s.restOf c) s.rev)
  else if k.wantsCredit ch then s.askCredit c ch s.now else s

/-! ### Memory endpoints (10 R327, R329, R333; 11 R359 to R361, R380) -/

/-- The VPN and the translation of a memory word address of a core's job. -/
def vpnOf (va : Int) : BitVec 36 := BitVec.ofInt 36 (va / 16384)

/-- The cached entry that permits an access (11 R361). -/
def Core.xlateOf (k : Core) (job : JobId) (vpn : BitVec 36) (wr : Bool) : Option (BitVec 64) :=
  (k.xlate.find? fun e => e.job == job && e.vpn == vpn && (if wr then e.write else e.entry.getLsbD 2)).map XEntry.entry

/-- A level 3 entry's fields (11 R359). -/
def pteModule (e : BitVec 64) : BitVec 16 := e.extractLsb' 48 16
def pteFrame (e : BitVec 64) : Nat := (e.extractLsb' 16 32).toNat * 65536

/-- The fault of a translation: 0 `NOTMAPPED`, 1 `PROT`, 2 `MIG` (11 R380). -/
def pteFault (e : BitVec 64) (wr : Bool) : Option Nat :=
  if !e.getLsbD 0 then some 0
  else if wr && !e.getLsbD 3 then some 1
  else if !wr && !e.getLsbD 2 then some 1
  else if e.getLsbD 7 then some 2
  else none

/-- The end of the bonded tier, and the tap and burst index of a bonded local address (10 R327). -/
abbrev bondedEnd : Nat := 0x003C00000000
def tapOfAddr (a : Nat) : Nat := a / 65536 % 320
def burstOfAddr (a : Nat) : Nat := 1024 * (a / 65536 / 320) + a / 64 % 1024

/-- The tap route of a page's entry: route number and STAGE (10 R333). -/
def State.tapRoute (s : State) (c : CoreId) (e : BitVec 64) : Option (Nat × Bool) :=
  let k := s.core c
  let bonded := pteModule e = BitVec.ofNat 16 (s.fld F.FX_CTRL_MODULE) ∧ pteFrame e < bondedEnd
  ((List.range 8).find? fun r =>
    let w := (k.w (R.MESH_TAPRT r)).toNat
    bit w 31 && (if bonded then bits w 8 0 == tapOfAddr (pteFrame e) else bit w 30)).map fun r => (r, !decide bonded)

/-- The parts of `n` consecutive memory words, the first at word `o` of its 64-byte burst, cut every `size` words from that burst's start:
first word and words. -/
def cuts (size o n : Nat) : List (Nat × Nat) :=
  (List.range ((o + n + size - 1) / size)).map fun u =>
    let lo := Nat.max (u * size) o - o
    (lo, Nat.min ((u + 1) * size) (o + n) - o - lo)

/-- Words 0 and 1 of a tap request, and its STAGE words (10 R329). Of a page that is not this module's, `own` false, FRAME is ignored, and
the local part of the global physical address is the job virtual address (11 R359; log entry 27). -/
def tapWords (own : Bool) (e : BitVec 64) (job : JobId) (va : Int) (two stage : Bool) (w1 : Nat) : List Word :=
  let line := va.toNat / 16 * 64
  let gpa := (pteModule e).toNat * 2 ^ 48 + (if own then pteFrame e + line % 65536 else line % 2 ^ 48)
  let w0 := if stage then 2 ^ 31 + b2n two * 2 ^ 30 + job.toNat else b2n two * 2 ^ 30 + burstOfAddr (pteFrame e + line % 65536)
  [BitVec.ofNat 32 w0, BitVec.ofNat 32 w1]
    ++ (if stage then [BitVec.ofNat 32 gpa, BitVec.ofNat 32 (gpa / 2 ^ 32), BitVec.ofNat 32 line, BitVec.ofNat 32 (line / 2 ^ 32)] else [])

/-- The tap requests of a burst for `n` words from position `i` at one memory end (10 R329, R333): none where the page is not translated or
no route reaches it. A read of whole bursts into consecutive scratchpad words goes there; any other returns to the engine (ADDR 0x1_FFFF,
10 R334). A write's payload begins at word 16: its data is read when it leaves. -/
def State.tapReqs (s : State) (c : CoreId) (ch : Reg) (dst wr : Bool) (i n : Nat) : Option (List TapReq) :=
  let k := s.core c
  let d := k.desc ch
  let a := d.va dst i
  (s.jobOf c).bind fun j => (k.xlateOf j.id (vpnOf a) wr).bind fun e => (s.tapRoute c e).map fun (r, stage) =>
    let fl := (k.w (R.MESH_TAPFL r)).toNat
    (cuts (if wr then 16 else 32) (a % 16).toNat n).map fun (p, m) =>
      let a := a + (p : Int)
      let o := (a % 16).toNat
      let two := !wr && decide (16 < o + m)
      let whole := d.op == opCopy && d.dk == dkLocal && o == 0 && m == (if two then 32 else 16) && d.run true (i + p) m == m
      { due := 0, flow := BitVec.ofNat 16 (bits fl 15 0), kind := if wr then 2 else 1,
        addr := if wr then 0 else if whole then BitVec.ofInt 17 (d.at_ true (i + p)) else 0x1FFFF,
        words := tapWords (pteModule e == BitVec.ofNat 16 (s.fld F.FX_CTRL_MODULE)) e j.id a two stage ((if wr then (2 ^ m - 1) * 2 ^ o * 65536 else 0) + bits fl 31 16),
        poison := 0, rflow := BitVec.ofNat 16 (bits fl 31 16), stage := stage, pos := i + p, off := o, n := m, side := dst }

/-- All the tap requests of a burst, reads first: none while an end is not translated and routed, so that a burst starts only as a whole
(R269; 11 R380). -/
def State.burstReqs (s : State) (c : CoreId) (ch : Reg) (i n : Nat) : Option (List TapReq) :=
  let d := (s.core c).desc ch
  let one (dst wr : Bool) : Option (List TapReq) := if d.mem dst then s.tapReqs c ch dst wr i n else some []
  (one false false).bind fun r => (one true (d.op != opCompare)).map fun w => r ++ w

/-! ### What a channel does next (07 R245, R265) -/

/-- The next unit or access of a burst. -/
inductive ChStep where
  /-- an access through the local port -/
  | loc
  /-- a unit in an owned slot of a flow, to a core or the fabric -/
  | send (flow : BitVec 16)
  /-- a request to a tap -/
  | mem (q : TapReq)

/-- The flow of a step; the local port is 65,536. -/
def ChStep.flow : ChStep → Nat
  | .loc => 65536
  | .send f => f.toNat
  | .mem q => q.flow.toNat

/-- A word in the engine's buffer. -/
def Chan.got (x : Chan) (key : Nat) : Option (Word × Bool) := (x.buf.find? fun e => e.1 == key).map Prod.snd

/-- The source word of a position, with its fault: the constant, a word in the engine, or the scratchpad's word. -/
def Core.srcWord (k : Core) (ch : Reg) (i : Nat) : Word × Option Byte :=
  let d := k.desc ch
  if d.op = opFill then (d.fill, none)
  else match (k.ch ch).got (2 * i) with
    | some (w, p) => (w, if p then some 0x06 else none)
    | none => if d.sk = skMem then (0, none) else let w := (d.at_ false i).toNat; (k.spWord w, k.readFault w)

/-- The burst a channel is in, or the one it has ready: its words and the tap requests left (R265). A new burst to a remote destination
needs a grant of its size. -/
def State.chBurst (s : State) (c : CoreId) (ch : Reg) : Option (Nat × List TapReq) :=
  let k := s.core c
  let x := k.ch ch
  let n := k.chNext ch
  if x.n ≠ 0 then some (x.n, x.todo)
  else if n = 0 ∨ ((k.desc ch).remote ∧ k.grant ch < 4 * n) then none
  else (s.burstReqs c ch (k.chPos ch) n).map fun l => (n, l)

/-- What the channel does next in its burst: its tap requests in order, a write once every read has returned, a STAGE unit while none is
unanswered (10 R335); then its units or local accesses, once every read has returned. -/
def State.chStep (s : State) (c : CoreId) (ch : Reg) : Option (Nat × List TapReq × ChStep) :=
  let k := s.core c
  let d := k.desc ch
  let x := k.ch ch
  if k.chState ch ≠ chRunning ∨ x.ends.isSome then none
  else (s.chBurst c ch).bind fun (n, todo) =>
    match todo with
    | q :: _ => if (q.stage && !x.due.isEmpty) || (q.kind == 2 && x.due.any fun e => e.kind == 1) then none else some (n, todo, .mem q)
    | [] =>
      if !x.due.isEmpty ∨ n ≤ x.sent then none
      else if d.dk = dkCore then some (n, todo, .send d.flow)
      else if d.dk = dkXmod then (k.fabFlow d.ctx).map fun f => (n, todo, .send f)
      else some (n, todo, .loc)

/-- The cycle in which a channel's step takes place: a burst starts in no rest revolution and in no drain guard, and one in progress goes on
(R77, R273; 08 R286). -/
def State.stepAt (s : State) (c : CoreId) (ch : Reg) (f : Nat) : Option Count :=
  let k := s.core c
  let d := notBefore s.now (k.ch ch).from_
  let fl := BitVec.ofNat 16 f
  if (k.ch ch).n ≠ 0 then if f = 65536 then some (notBefore d k.locAt) else s.ownedFrom c fl (notBefore d k.slotAt)
  else (if f = 65536 then some (s.afterRest c (notBefore d k.locAt)) else s.nextOwned c fl (notBefore d k.slotAt)).bind fun t =>
    if s.guarded c t then none else some t

/-- What takes a slot: the channel, the words and tap requests of its burst, its step and the cycle. -/
structure Pick where
  ch   : Reg
  n    : Nat
  todo : List TapReq
  st   : ChStep
  t    : Count

/-- The channel that takes the next slot of a flow (R265): the one whose burst is in progress there; else of the channels eligible at the
first slot that any can use, the highest priority, then channel order after the last served at that priority. -/
def State.pickChan (s : State) (c : CoreId) (f : Nat) : Option Pick :=
  let k := s.core c
  let all := (List.range 8).filterMap fun n =>
    let ch := BitVec.ofNat 3 n
    (s.chStep c ch).bind fun (n, todo, st) =>
      if st.flow = f then (s.stepAt c ch f).map fun t => ({ ch := ch, n := n, todo := todo, st := st, t := t } : Pick) else none
  match all.find? (fun x => (k.ch x.ch).on == some f), all with
  | some x, _ => some x
  | none, [] => none
  | none, a :: as =>
    let t0 := (as.foldl (fun b x => if notAfter b.t x.t then b else x) a).t
    let here := all.filter fun x => x.t == t0
    let pri (x : Pick) : Nat := (k.desc x.ch).pri
    let top := here.foldl (fun m x => Nat.max m (pri x)) 0
    let last := SMap.get (fun _ => 7) k.served top
    let rank (x : Pick) : Nat := (x.ch.toNat + 7 - last) % 8
    (here.filter fun x => pri x == top).foldl (fun b x => match b with
      | none => some x
      | some y => if rank x < rank y then some x else b) none

/-- Record the faults of the words a burst reads in the scratchpad (R248, R249), and the CODE they give. -/
def State.burstFaults (s : State) (c : CoreId) (ch : Reg) (src : Nat) (dst : Bool) (is : List Nat) : State :=
  is.foldl (fun s i =>
    let k := s.core c
    let w := ((k.desc ch).at_ dst i).toNat
    match k.readFault w with
    | none => s
    | some f =>
      (s.spErr c src (k.chThr ch) ch w).onCore c fun k => k.onCh ch fun x =>
        { x with bad := if 1 < x.bad then x.bad else if f = 0x06 then 3 else 2 }) s

/-- Whether the burst's source words are read in the scratchpad, at the present cycle. -/
def Desc.spSource (d : Desc) : Bool := d.op != opFill && d.sk != skMem

/-- An `OVERRUN` LINE by a channel's own write, in the present cycle (R252, R274): no trap where the burst raises PARITY or POISON, which
the source words it has yet to read show (R270; log entry 20). -/
def State.overrun (s : State) (c : CoreId) (ch : Reg) (w : Nat) : State :=
  let k := s.core c
  let d := k.desc ch
  let x := k.ch ch
  let later : Bool := d.spSource && (List.range x.n).any fun j => decide (x.sent ≤ j) && (k.readFault (d.at_ false (k.chPos ch + j)).toNat).isSome
  if x.bad ≠ 0 then s
  else
    let s := s.setCore c (k.setCh ch { x with bad := 1 })
    if later then s else s.lineTrap c (k.chThr ch) w

/-! ### Writes of a burst into the core's own scratchpad (R251, R252; 10 R341) -/

/-- The position whose word a burst of `n` words from `i` writes last at the highest address of a line (R251). -/
def Desc.lineEnd (d : Desc) (i n l : Nat) : Option Nat :=
  ((List.range n).map (i + ·)).foldl (fun (b : Option Nat) p =>
    if (d.at_ true p).toNat / 16 = l then
      match b with
      | some q => if d.at_ true q ≤ d.at_ true p then some p else b
      | none => some p
    else b) none

/-- Whether the burst writes every word of a line. -/
def Desc.covers (d : Desc) (i n l : Nat) : Bool :=
  (List.range 16).all fun j => (List.range n).any fun p => d.at_ true (i + p) == ((16 * l + j : Nat) : Int)

/-- A channel's burst writes `ws` from position `p`, to consecutive words, in the present cycle: each line is accepted or dropped at its first
word (R252), is valid once its highest word is written (R251), and loses its poison bit if the burst writes it whole, unpoisoned (10
R341). -/
def State.commitBurst (s : State) (c : CoreId) (ch : Reg) (p : Nat) (ws : List Word) (poison : BitVec 2) : State :=
  let k := s.core c
  let d := k.desc ch
  let x := k.ch ch
  let i := k.chPos ch
  let w := (d.at_ true p).toNat
  let e := k.enter w ws poison false x.lines
  let lines := x.lines ++ e.lines.filter fun l => !x.lines.contains l
  let psns := x.psns ++ e.psn
  let done := ((lineParts w ws.length).map Prod.fst).filter fun l =>
    lines.contains l && ((d.lineEnd i x.n l).map fun q => p ≤ q && q < p + ws.length).getD false
  let k := e.k.onCh ch fun x => { x with lines := lines, psns := psns }
  let k := done.foldl (fun (k : Core) l => if !psns.contains l && d.covers i x.n l then k.setPsn l false else k) k
  let s := s.setCore c (k.setValids c s.now done)
  let s := match e.psn with | l :: _ => s.eccFlag c l | [] => s
  match e.drop with | some w => s.overrun c ch w | none => s

/-- COMPARE: count the words of `n` positions from `p` that differ, and record the first (R264). -/
def State.compare_ (s : State) (c : CoreId) (ch : Reg) (p : Nat) (a b : List Word) : State :=
  s.onCore c fun k =>
    let d := k.desc ch
    let diff := (List.range a.length).filter fun j => nthWord a j != nthWord b j
    let cnt := (k.w (R.DMA_CH_CMPCNT ch.toNat)).toNat
    let src (j : Nat) : Nat := (d.va false (p + j)).toNat * 4
    let k := match diff.head? with
      | some j => if cnt = 0 then
          (k.setW (R.DMA_CH_CMPA_LO ch.toNat) (BitVec.ofNat 32 (src j))).setW (R.DMA_CH_CMPA_HI ch.toNat) (BitVec.ofNat 32 (src j / 2 ^ 32))
        else k
      | none => k
    k.setW (R.DMA_CH_CMPCNT ch.toNat) (BitVec.ofNat 32 (Nat.min 0xFFFFFFFF (cnt + diff.length)))

end Sys2Proof.Machine
end

