-- ==== Sys2Proof/Machine/HostOps.lean ====
section
/-! DEFINITION. Operations of the host interface: access paths and their answers, rings, completions and events (00 R10, R11;
15 R460 to R472). -/

namespace Sys2Proof.Machine

/-! ### Access paths (00 R11; 15 R463) -/

/-- The key of a path's latches and answer. -/
def pathKey : Path → Nat
  | .brepo => 0
  | .debug => 1
  | .sideband => 2
  | .hs n => 3 + n.toNat

/-- Whether a path is a headstock core. -/
def isHs : Path → Bool
  | .hs _ => true
  | _ => false

/-- The offset of a window register in device register space (00 R8, 15 R464). -/
def winOff (c : CoreId) (o : Nat) : Nat := 0x1000000 + 0x1000 * c.toNat + o

/-- What the path returns for its access: `ACCESS`, and the data of a read. -/
def State.answer (s : State) (p : Path) (access : Bool) (data : Word) : State :=
  { s with answers := SMap.set (fun _ => Answer.none) s.answers (pathKey p) { access := access, data := data } }

/-- Record a rejected access over the Brepo link in HL_ACCERR (15 R463, R470): kind 1 read, 2 write, 3 BADDB. -/
def State.accErr (s : State) (kind off : Nat) : State :=
  if s.fld F.HL_ACCERR_VALID = 1 then s.setFld F.HL_ACCERR_MORE 1
  else (s.evNote R.HL_ACCERR 0x80000000#32).setDev R.HL_ACCERR (BitVec.ofNat 32 (0x80000000 + kind <<< 28 + off % 2 ^ 26))

/-- A write is answered: `none` is a rejection with `ACCESS`, which changes no register (00 R10). -/
def State.ack (s : State) (p : Path) (off : Nat) : Option State → State
  | some s' => s'.answer p false 0
  | none => (if p = .brepo then s.accErr 2 off else s).answer p true 0

/-- A path's latches (00 R11). -/
def State.latch (s : State) (p : Path) : Latch := SMap.get (fun _ => Latch.none) s.latches (pathKey p)
def State.setLatch (s : State) (p : Path) (l : Latch) : State := { s with latches := SMap.set (fun _ => Latch.none) s.latches (pathKey p) l }

/-- A 64-bit write through a pair leaves the path's write latch empty (00 R11). -/
def State.emptyWl (s : State) (p : Path) : State := s.setLatch p { s.latch p with wpair := none, wdata := 0 }

/-! ### Packets to the adapter (15 R461, R462) -/

/-- A packet's bytes: the 16-byte header, then the payload (R461). -/
def hostBytes : HostOut → List Byte
  | .hregCpl tag d a => hdr 3 tag 8 0 ++ leBytes 4 d.toNat ++ leBytes 4 (b2n a)
  | .memRd tag addr len => hdr 5 tag len addr.toNat
  | .memWr addr data => hdr 7 0 data.length addr.toNat ++ data
  | .msi v => hdr 8 0 4 0 ++ leBytes 4 v.toNat
  | .hb r => hdr 9 0 8 0 ++ leBytes 8 r.toNat
where
  hdr (op : Nat) (tag : BitVec 16) (len addr : Nat) : List Byte := leBytes 2 op ++ leBytes 2 tag.toNat ++ leBytes 4 len ++ leBytes 8 addr

/-- Send a packet: while the link is not UP, reads and writes wait for it, as they do behind those to be re-issued; others are lost
(R462). -/
def State.hostSend (s : State) (o : HostOut) : State :=
  let mem := match o with
    | .memRd .. | .memWr .. => true
    | _ => false
  if s.fld F.HL_STATUS_LINK = portUp && (!mem || s.hostLost.isEmpty) then
    let bs := hostBytes o
    let x := s.port 40
    ({ s with hostOut := s.hostOut ++ [o], hostWait := s.hostWait ++ [(o, (chunks 240 bs).length)] }.setPort 40
      { x with queue := x.queue ++ [({ src := 0, vl := false, data := bs } : QPkt)] }).pumpPort 40
  else if mem then { s with hostLost := s.hostLost ++ [o] }
  else s

/-- Write bytes to host memory, 4,096 at a time. -/
def State.hostWrite (s : State) (addr : Nat) (bs : List Byte) : State :=
  ((chunks 4096 bs).zipIdx).foldl (fun s (b, i) => s.hostSend (.memWr (BitVec.ofNat 64 (addr + 4096 * i)) b)) s

/-! ### Rings (15 R465 to R472) -/

/-- A ring's record: command rings 0 to 15, completion rings 16 to 31. -/
def State.ring (s : State) (n : Nat) : HRing := SMap.get (fun _ => HRing.reset) s.rings n
def State.setRing (s : State) (n : Nat) (r : HRing) : State := { s with rings := SMap.set (fun _ => HRing.reset) s.rings n r }

/-- The key under which a ring's ERR is noted as set in the present cycle (00 R14): each ring has an HL_RCFG of its own. -/
def ringEv (n : Nat) : Nat := 0x8000000 + n

/-- Fields of HL_RCFG. -/
def HRing.en (r : HRing) : Bool := bit r.cfg.toNat 31
def HRing.err (r : HRing) : Bool := bit r.cfg.toNat 30
def HRing.cq (r : HRing) : Nat := bits r.cfg.toNat 15 12
/-- Entries of the ring: LOGSIZE values other than 4 to 15 read 4. -/
def HRing.size (r : HRing) : Nat := 2 ^ Nat.max 4 (bits r.cfg.toNat 19 16)

/-- Whether a completion ring has an entry the host has released: one entry stays free, as the indexes cannot tell a full
ring from an empty one (R469). -/
def HRing.room (r : HRing) : Bool := (r.head.toNat + r.size - r.tail.toNat) % r.size < r.size - 1

/-- Whether a completion ring takes one more entry behind those that wait for it (R466, R469). -/
def HRing.takes (r : HRing) : Bool := (r.head.toNat + r.size - r.tail.toNat) % r.size + r.cpls.length < r.size - 1

/-- Status codes (R480). -/
abbrev stOK : Nat := 0
abbrev stBADCMD : Nat := 1
abbrev stNOJOB : Nat := 2
abbrev stBUSY : Nat := 3
abbrev stLATE : Nat := 4
abbrev stNOPATTERN : Nat := 5
abbrev stWITHDRAWN : Nat := 6
abbrev stBADIMAGE : Nat := 7
abbrev stNOBED : Nat := 8
abbrev stNOCONTEXT : Nat := 9
abbrev stNOREDUCE : Nat := 10
abbrev stDEADLINE : Nat := 11
abbrev stNOSHADOW : Nat := 12
abbrev stNOTROOT : Nat := 13
abbrev stNOTHOME : Nat := 14
abbrev stXLATE : Nat := 15
abbrev stTIMEOUT : Nat := 16
abbrev stCANCELLED : Nat := 17
abbrev stSHADOW_FULL : Nat := 18
abbrev stNOROLLBACK : Nat := 19
abbrev stRERUN_LIMIT : Nat := 20
abbrev stLOST : Nat := 21
abbrev stBADSIG : Nat := 22
abbrev stREVOKED : Nat := 23
abbrev stFWFAIL : Nat := 24
abbrev stFLASHERR : Nat := 25

/-- Whether an earlier command of a ring has not completed: its entry is still to be written. -/
def State.cplWaits (s : State) (ring : BitVec 4) : Bool :=
  (s.ring (16 + (s.ring ring.toNat).cq)).cpls.any fun c => c.sq == ring && c.expire.isSome

/-- The command of a ring with a CID and an opcode, if it may start or has started (R471): commands start in ring order, and
with ORDER only after every earlier one has completed. -/
def State.hostCmd (s : State) (ring : BitVec 4) (cid : BitVec 16) (p : Byte → Bool) : Option HostCmd :=
  let cs := (s.ring ring.toNat).cmds
  let before := cs.takeWhile fun x => x.cid != cid
  match cs.find? (fun x => x.cid == cid) with
  | some x =>
    if !p x.opc then none
    else if x.started then some x
    else if before.all (fun y => y.started) && (!x.order || (before.isEmpty && !s.cplWaits ring)) then some x
    else none
  | none => none

/-- Change a command of a ring. -/
def State.onCmd (s : State) (ring : BitVec 4) (cid : BitVec 16) (f : HostCmd → HostCmd) : State :=
  let r := s.ring ring.toNat
  s.setRing ring.toNat { r with cmds := r.cmds.map fun x => if x.cid = cid then f x else x }

/-- A command leaves its ring: its entry waits for its completion ring (R468, R469). -/
def State.retireCmd (s : State) (ring : BitVec 4) (cid : BitVec 16) (status : Nat) (words : List Word) : State :=
  let r := s.ring ring.toNat
  match r.cmds.find? (fun x => x.cid == cid) with
  | some x =>
    let s := s.setRing ring.toNat { r with cmds := r.cmds.erase x }
    let q := s.ring (16 + r.cq)
    s.setRing (16 + r.cq) { q with cpls := q.cpls ++
      [{ status := BitVec.ofNat 7 status, sq := ring, cid := cid, noirq := x.noirq, words := words, expire := some x.expire, launch := none }] }
  | none => s

/-- NOP commands at the start of what waits in a ring complete as soon as they may start (R471, R473). -/
def State.drainNops (s : State) (ring : BitVec 4) : Nat → State
  | 0 => s
  | n + 1 =>
    match ((s.ring ring.toNat).cmds.find? fun x => !x.started) with
    | some x =>
      if (s.hostCmd ring x.cid (· == 0)).isSome then (s.retireCmd ring x.cid stOK []).drainNops ring n else s
    | none => s

def State.nops (s : State) (ring : BitVec 4) : State := s.drainNops ring (s.ring ring.toNat).cmds.length

/-- The command has started and waits for an event. -/
def State.startCmd (s : State) (ring : BitVec 4) (cid : BitVec 16) : State :=
  (s.onCmd ring cid fun x => { x with started := true }).nops ring

/-- A command completes with a status and results. -/
def State.complete (s : State) (ring : BitVec 4) (cid : BitVec 16) (status : Nat) (words : List Word) : State :=
  (s.retireCmd ring cid status words).nops ring

/-- Post an event (R473 table, R466): with no ring named, or one that is full, it is dropped and counted in HL_EVTLOST. -/
def State.event (s : State) (code : Nat) (words : List Word) : State :=
  let n := 16 + s.fld F.HL_EVTCFG_RING
  let r := s.ring n
  if s.fld F.HL_EVTCFG_EN = 0 ∨ (r.en && !r.takes) = true then
    s.setDev R.HL_EVTLOST (F.HL_EVTLOST_COUNT.inc (s.devW R.HL_EVTLOST))
  else
    s.setRing n { r with cpls := r.cpls ++
      [{ status := BitVec.ofNat 7 code, sq := 0, cid := 0xFFFF, noirq := false, words := words, expire := none, launch := none }] }

/-- The words of an event of a job: job, pass number, and a last word (R473 table). -/
def jobEvent (id : JobId) (pass : BitVec 64) (last : Nat) : List Word :=
  [id.zeroExtend 32, pass.truncate 32, (pass >>> 32).truncate 32, BitVec.ofNat 32 last]

/-- A port's event, and the spindle's. -/
def State.portEvent (s : State) (p : Nat) : State := s.event 0x43 [BitVec.ofNat 32 p, 0, 0, s.devW (R.FX_PORT_STAT p)]
def State.spnEvent (s : State) : State := s.event 0x44 [0, 0, 0, s.devW R.SPN_EVENT]

/-- Set a bit of SPN_EVENT, reported to the headstock (02 R80). -/
def State.spnSet (s : State) (b : Nat) : State :=
  let s := (s.evNote R.SPN_EVENT (BitVec.ofNat 32 (2 ^ b))).setDev R.SPN_EVENT ((s.devW R.SPN_EVENT) ||| BitVec.ofNat 32 (2 ^ b))
  s.spnEvent.toHeadstock (.spindle b)

end Sys2Proof.Machine
end

