-- ==== Sys2Proof/Machine/Accepts.lean ====
section
/-! DEFINITION. Which writes of a register are accepted, by path, by register and by the state (03 R130; 06 R241; 07 R250, R275;
08 R303, R563; 09 R326; 10 R355; 11 R388; 12 R424; 13 R456; 15 R464, R465; 16 R498, R506; 18 R544; 19 R554, R559). -/

namespace Sys2Proof.Machine

/-- Window registers written only while no thread of the core is in RUN or WAIT. -/
def quietOnly (o : Nat) : Bool :=
  [R.CORE_LOCK_STATE, R.CORE_LOCK_OWNER, R.CORE_LOCK_WPOS, R.DMA_VDATA, R.MESH_BED, R.FLAG_PHASE, R.FLAG_TPH_LO, R.FLAG_TPH_HI,
   R.FLAG_SNAP_LO, R.FLAG_SNAP_HI, R.FLAG_PASSCFG, R.MESH_PSNDATA].contains o
  || (0x420 ≤ o && o < 0x460) || (0x880 ≤ o && o < 0x940) || (0x980 ≤ o && o < 0x9C0) || (0x9D0 ≤ o && o < 0x9E0) || 0xC00 ≤ o

/-- Window registers written only from a headstock core. -/
def hsOnly (o : Nat) : Bool := o = R.MESH_PSNDATA || (0x8C0 ≤ o && o < 0x940) || o = R.MESH_FHDR

/-- Whether a DMA_GUARDn value keeps the rules of R250: no overlap of enabled regions, none past line 5,119, COUNT not 0 with EN. -/
def Core.guardFits (k : Core) (n : Nat) (v : Word) : Bool :=
  let b := F.DMA_GUARD_BASE 0 |>.of v
  let m := F.DMA_GUARD_COUNT 0 |>.of v
  let en := v.msb
  (!en || m != 0) && (m = 0 || b + m ≤ 5120)
    && (!en || (List.range 8).all fun i => i = n || !k.gEn i || decide (b + m ≤ k.gBase i) || decide (k.gBase i + k.gCount i ≤ b))

/-- Whether the thread's registers may be written through CORE_TRDATA (19 R554). -/
def Thread.open_ (x : Thread) : Bool :=
  match x.state with
  | .idle | .stopped | .halted | .frozen => true
  | .debug => x.step = 0
  | _ => false

/-- Whether a write of a window register is accepted; an offset that holds no register ignores it (00 R12). -/
def State.acceptsWin (s : State) (p : Path) (c : CoreId) (o : Nat) (v : Word) : Bool :=
  let k := s.core c
  let quiet := k.quiet
  if (findRow winRows o).isNone then true
  else if !(isHs p || p == .debug) then false
  else if hsOnly o && !(isHs p) then false
  else if quietOnly o && !quiet then false
  else if o = R.CORE_SUPV then !(bit v.toNat 16 && decide (40 * s.L ≤ bits v.toNat 11 0))
  else if [R.CORE_TRCFG, R.CORE_TRSTART, R.CORE_TRPC, R.CORE_CNTSEL].contains o then
    -- a write of CORE_TRCFG that only clears ARM ends an open window of LEN 0 (R557)
    k.fld F.CORE_TRCFG_ARM = 0 || (o = R.CORE_TRCFG && !v.msb && decide ((v ^^^ k.w o).toNat % 2 ^ 16 = 0) && v.getLsbD 30 == (k.w o).getLsbD 30)
  else if o = R.CORE_TRDATA then (k.th (BitVec.ofNat 2 (k.fld F.CORE_TRSEL_THR))).open_
  else if 0x420 ≤ o ∧ o < 0x440 then k.guardFits ((o - 0x420) / 4) v
  else if 0x600 ≤ o ∧ o < 0x800 then k.chState (BitVec.ofNat 3 ((o - 0x600) / 64)) != chRunning
  else if o = R.MESH_FHDR then k.fld F.MESH_BED_VALID = 0
  else if o = R.MESH_BHDR then k.fld F.MESH_SWITCH_ARM = 0
  else if o = R.MESH_PDATA then
    if k.fld F.MESH_PSEL_BANK = 1 then k.fld F.MESH_SWITCH_ARM = 0 else isHs p && k.fld F.MESH_BED_VALID = 0
  else if o = R.MESH_SWITCH then !v.msb || hdrValid (k.w R.MESH_BHDR)
  else if 0xA40 ≤ o ∧ o < 0xA80 then quiet || ((v ^^^ k.w o) &&& 0xCFFFFFFF#32) = 0
  else if 0x880 ≤ o ∧ o < 0x8A0 then !(v.msb && decide (40 * s.L ≤ bits v.toNat 27 16))
  else true

/-- The number of beds the module holds (DEV_STATUS.BEDS). -/
def State.beds (s : State) : Nat := s.jobs.length

/-- Module states of DEV_STATUS.STATE. -/
abbrev mBOOT : Nat := 0
abbrev mVERIFY : Nat := 1
abbrev mCALIBRATE : Nat := 2
abbrev mINIT : Nat := 3
abbrev mSERVICE : Nat := 4
abbrev mRECOVERY : Nat := 5
abbrev mTEST : Nat := 6

/-- The ring HL_RINGSEL selects. -/
def State.selRing (s : State) : Nat := 16 * s.fld F.HL_RINGSEL_KIND + s.fld F.HL_RINGSEL_RING

/-- Whether a write of a word of the selected context record is accepted (12 R424). -/
def State.acceptsCtx (s : State) (m : Nat) (v : Word) : Bool :=
  let valid := bit (s.cw (s.fld F.FX_CTXSEL_CTX) 0) 31
  !valid || (m = 0 && !v.msb)

/-- Whether the state of the module takes a write of an offset from a path (16 R505; 18 R542): over the Brepo link, before SERVICE only
HS_CTRL and the ring configuration, and in RECOVERY only HS_CTRL and HS_RECOV_; over the sideband, before PGOOD only PW_. -/
def State.stateTakes (s : State) (p : Path) (off : Nat) : Bool :=
  let st := s.fld F.DEV_STATUS_STATE
  match p with
  | .brepo =>
    if st ≤ mINIT then off = R.HS_CTRL || [R.HL_RINGSEL, R.HL_RBASE_LO, R.HL_RBASE_HI, R.HL_RCFG, R.HL_ICOAL].contains off
    else if st = mRECOVERY then off = R.HS_CTRL || [R.HS_RECOV_ADDR_LO, R.HS_RECOV_ADDR_HI, R.HS_RECOV_LEN, R.HS_RECOV_CMD].contains off
    else true
  | .sideband => s.power.pgood || (decide (0x500000 ≤ off) && decide (off < 0x1000000))
  | _ => true

/-- Whether a write of a device register outside the per-core windows is accepted; an offset that holds no register ignores it
(00 R12). -/
def State.acceptsDev (s : State) (p : Path) (off : Nat) (v : Word) : Bool :=
  if (findRow devRows off).isNone then true
  else if !s.stateTakes p off then false
  else if off < 0x10000 then true
  else if off < 0x100000 then
    -- HS_ (16 R498, R506)
    if off = R.HS_CTRL then (isHs p || p == .brepo) && (!v.getLsbD 0 || s.beds = 0 || s.fld F.DEV_STATUS_STATE != mSERVICE)
    else if [R.HS_RECOV_ADDR_LO, R.HS_RECOV_ADDR_HI, R.HS_RECOV_LEN, R.HS_RECOV_CMD].contains off then
      isHs p || (p == .brepo && s.fld F.DEV_STATUS_STATE == mRECOVERY)
    else isHs p
  else if off < 0x200000 then
    -- SPN_ (02 R79, 15 R464): a write of SPN_REST_CMD from another path is ignored, not rejected
    isHs p || off = R.SPN_CTRL || off = R.SPN_EVENT || off = R.SPN_REST_CMD || (0x100100 ≤ off && off < 0x1001A0)
  else if off < 0x300000 then
    -- HL_ (15 R465)
    let r := s.ring s.selRing
    if off = R.HL_RBASE_LO ∨ off = R.HL_RBASE_HI then !r.en
    else if off = R.HL_RCFG then !r.en || ((v ^^^ r.cfg) &&& 0x3F8FF000#32) = 0
    else true
  else if off < 0x400000 then
    -- FX_ (12 R424, 13 R456)
    isHs p && (
      if R.FX_CTXDATA 0 ≤ off ∧ off ≤ R.FX_CTXDATA 7 then s.acceptsCtx ((off - R.FX_CTXDATA 0) / 4) v
      else if R.FX_RED_DATA 0 ≤ off ∧ off ≤ R.FX_RED_DATA 15 then
        let m := (off - R.FX_RED_DATA 0) / 4
        m != 14 && (!bit ((s.red (s.fld F.FX_RED_SEL_RID)).w 0) 31 || (m = 0 && !v.msb))
      else if off = R.FX_RED_CTRL then s.beds = 0
      else if 0x300100 ≤ off ∧ off < 0x300380 ∧ off % 16 = 0 then
        !v.getLsbD 1 || s.portState ((off - 0x300100) / 16) = portDown || s.portState ((off - 0x300100) / 16) = portFailed
      else true)
  else if off < 0x500000 then
    -- MT_ and LP_ (10 R355, 11 R388)
    isHs p && (!(off = R.MT_SC_CFG || off = R.MT_SHADOW_CFG) || s.beds = 0)
  else if off < 0x1000000 then
    -- PW_ (18 R544)
    if off = R.PW_CTRL ∨ off = R.PW_CAP ∨ off = R.PW_EVENT then isHs p || p == .brepo || p == .sideband else isHs p
  else if 0x2000000 ≤ off ∧ off < 0x3000000 then p == .brepo || p == .sideband
  else true

/-- Whether a write is accepted: aligned, and by the rules of its register (00 R10). A window beyond 40 x L holds no register. -/
def State.accepts (s : State) (p : Path) (off : Nat) (v : Word) : Bool :=
  off % 4 = 0 &&
    (if 0x1000000 ≤ off ∧ off < 0x2000000 then
      let c : CoreId := BitVec.ofNat 12 ((off - 0x1000000) / 0x1000)
      !s.hasCore c || s.acceptsWin p c (off % 0x1000) v
    else s.acceptsDev p off v)

/-- A write of a window register by a command: its effect where it is accepted, `ACCESS` where not (00 R10, R12). -/
def State.winWrite (s : State) (p : Path) (c : CoreId) (o : Nat) (v : Word) (f : State → State) : Out :=
  .next (s.ack p (winOff c o)
    (if !s.hasCore c then some s else if s.acceptsWin p c o v then some (f s) else none))

/-- A write of a device register by a command. -/
def State.devWrite (s : State) (p : Path) (off : Nat) (v : Word) (f : State → State) : Out :=
  .next (s.ack p off (if s.acceptsDev p off v then some (f s) else none))

/-- A read of a window register by a command: its value, and what the read does. -/
def State.winRead (s : State) (p : Path) (c : CoreId) (val : Word) (f : State → State) : Out :=
  .next (if s.hasCore c then (f s).answer p false val else s.answer p false 0)

/-- An access that reads, or writes where it is accepted, and then steps a pointer. -/
def State.winAccess (s : State) (p : Path) (c : CoreId) (o : Nat) (wr : Option Word) (val : Word) (put : Word → State → State)
    (adv : State → State) : Out :=
  match wr with
  | some v => s.winWrite p c o v fun s => adv (put v s)
  | none => s.winRead p c val adv

/-- Put the bits of a register that software writes (RW fields) into its word. -/
def rwMask (rows : List RegRow) (off : Nat) : Word := match findRow rows off with | some r => r.rw | none => 0
def putRw (rows : List RegRow) (off : Nat) (old v : Word) : Word := (old &&& ~~~ rwMask rows off) ||| (v &&& rwMask rows off)

end Sys2Proof.Machine
end

