-- ==== Sys2Proof/Machine/FlagOps.lean ====
section
/-! DEFINITION. Flags, barriers and locks of a core: what registers, messages and instructions share (08 R290 to R303; 03 R115 to
R119). -/

namespace Sys2Proof.Machine

/-! ### Flags (08 R291, R302) -/

/-- A write of FLAG_SET or FLAG_CLR on a path, in the present cycle: it governs other changes of the cycle, and a set on another
path governs a clear. -/
def State.flagReg (s : State) (p : Path) (c : CoreId) (mask : BitVec 64) (v : Bool) : State :=
  s.onCore c fun k =>
    let fc := k.flagCyc s.now
    let same := fc.path = pathKey p
    if v then
      k.putFlags c s.now (k.flags ||| mask) { fc with path := pathKey p, rset := fc.rset ||| mask, rclr := fc.rclr &&& ~~~mask }
    else
      let m := if same then mask else mask &&& ~~~fc.rset
      k.putFlags c s.now (k.flags &&& ~~~m) { fc with path := pathKey p, rset := fc.rset &&& ~~~m, rclr := fc.rclr ||| m }

/-- Record an error of the flag unit (08 R290, R295): 1 BADCORE, 2 BADBAR, 3 OVER. -/
def Core.flagErr (k : Core) (now : Count) (kind thr bar core : Nat) : Core :=
  if k.fld F.FLAG_ERR_VALID = 1 then k.setFld F.FLAG_ERR_MORE 1
  else (k.evNote now R.FLAG_ERR 0x80000000#32).setW R.FLAG_ERR (BitVec.ofNat 32 (0x80000000 + kind <<< 28 + thr <<< 26 + bar <<< 12 + core))

/-! ### Barriers (08 R294 to R296, R302) -/

/-- The core's local PHASE of a barrier, and a thread's phase bit. -/
def Core.phase (k : Core) (b : BitVec 4) : Bool := (k.w R.FLAG_PHASE).getLsbD b.toNat
def tphReg (t : Thr) : Nat := if t.toNat < 2 then R.FLAG_TPH_LO else R.FLAG_TPH_HI
def Core.tph (k : Core) (t : Thr) (b : BitVec 4) : Bool := (k.w (tphReg t)).getLsbD (16 * (t.toNat % 2) + b.toNat)
def setBit (w : Word) (i : Nat) (v : Bool) : Word := if v then w ||| (1#32 <<< i) else w &&& ~~~(1#32 <<< i)
def Core.setTph (k : Core) (t : Thr) (b : BitVec 4) (v : Bool) : Core :=
  k.setW (tphReg t) (setBit (k.w (tphReg t)) (16 * (t.toNat % 2) + b.toNat) v)

/-- The status of a WAITB whose generation has completed. -/
def Core.barStatus (k : Core) (b : BitVec 4) : Word := if k.nst.getLsbD b.toNat then 2 else 0

/-- A WAITB completes with `OK` or `ABANDONED`: the phase bit becomes the local PHASE (R296). -/
def Core.endWaitb (k : Core) (t : Thr) (b : BitVec 4) : Core :=
  (k.setTph t b (k.phase b)).onTh t fun x => { x with arrived := x.arrived &&& ~~~(1#16 <<< b.toNat) }

/-- The cores whose CORE_SUPV names `c`: the bed of which it is the supervisor (R294). -/
def State.membersOf (s : State) (c : CoreId) : List CoreId :=
  s.cores.filterMap fun p =>
    if p.2.fld F.CORE_SUPV_VALID = 1 ∧ p.2.fld F.CORE_SUPV_SUPV = c.toNat then some (BitVec.ofNat 12 p.1) else none

/-- A generation completes at the supervisor in the present cycle: PHASE toggles, `left` arrivals stay, and a notice leaves for
every core of the bed (R295, R302; 11 R363). -/
def State.completeBar (s : State) (c : CoreId) (b : BitVec 4) (left : Nat) (abandoned : Bool) (origin : Nat) : State :=
  let s := s.onCore c fun k =>
    let n := b.toNat
    let k := (k.setFld (F.FLAG_BARCFG_PHASE n) (1 - k.fld (F.FLAG_BARCFG_PHASE n))).setFld (F.FLAG_BARCFG_ARR n) left
    let k := if left = 0 then k else
      ((k.evNote s.now (R.FLAG_BARCFG n) 0x20000000#32).setFld (F.FLAG_BARCFG_OVER n) 1).flagErr s.now 3 0 n origin
    if k.fld F.FLAG_PASSCFG_EN = 1 ∧ k.fld F.FLAG_PASSCFG_BAR = n then k.setFld F.FLAG_PASSCFG_DONE 1 else k
  (s.membersOf c).foldl (fun s d => s.send c d (.notice b abandoned)) s

/-- FLAG_BARCMD (R302): 1 COMPLETE, 2 ABANDON, 3 RESET, in a core that is a supervisor. -/
def State.barCmd (s : State) (c : CoreId) (cmd : Nat) (b : BitVec 4) : State :=
  if (s.membersOf c).isEmpty then s
  else
    let k := s.core c
    let arr := k.fld (F.FLAG_BARCFG_ARR b.toNat)
    let cnt := k.fld (F.FLAG_BARCFG_COUNT b.toNat)
    if cmd = 3 then s.onCore c fun k => (k.setFld (F.FLAG_BARCFG_ARR b.toNat) 0).setFld (F.FLAG_BARCFG_OVER b.toNat) 0
    else if cmd = 1 ∨ cmd = 2 then s.completeBar c b (arr - cnt) (cmd = 2) c.toNat
    else s

/-! ### Locks (03 R115 to R119) -/

abbrev lockFree : Nat := 0
abbrev lockHeld : Nat := 1
abbrev lockAbandoned : Nat := 2

/-- A lock's state and owner (CORE_LOCK_STATE, CORE_LOCK_OWNER); a state of 3 acts as FREE. -/
def Core.lock (k : Core) (n : BitVec 4) : Nat := let v := bits (k.w R.CORE_LOCK_STATE).toNat (2 * n.toNat + 1) (2 * n.toNat); if v = 3 then 0 else v
def Core.lockOwner (k : Core) (n : BitVec 4) : Thr := BitVec.ofNat 2 (bits (k.w R.CORE_LOCK_OWNER).toNat (2 * n.toNat + 1) (2 * n.toNat))
def Core.setLock (k : Core) (n : BitVec 4) (st : Nat) (o : Thr) : Core :=
  let f (r : Nat) : Fld := ⟨r, 2 * n.toNat + 1, 2 * n.toNat⟩
  (k.setFld (f R.CORE_LOCK_STATE) st).setFld (f R.CORE_LOCK_OWNER) o.toNat

/-- The waiters of a lock, in grant order. -/
def Core.waiters (k : Core) (n : BitVec 4) : List Thr := SMap.get (fun _ => []) k.lockq n.toNat
def Core.setWaiters (k : Core) (n : BitVec 4) (l : List Thr) : Core := { k with lockq := SMap.set (fun _ => []) k.lockq n.toNat l }

/-- Release a lock: the earliest waiter whose wait has not ended in an earlier cycle becomes the owner and wakes with `OK`;
with none the lock becomes FREE (R117). -/
def Core.unlock (k : Core) (n : BitVec 4) (now : Count) : Core :=
  let waits (t : Thr) : Bool := match (k.th t).wake with
    | none => true
    | some w => w.status = 1 && w.cyc == now + 2
  match (k.waiters n).find? waits with
  | some t => ((k.setLock n lockHeld t).setWaiters n ((k.waiters n).erase t)).onTh t fun x => x.wakeAt now 0
  | none => k.setLock n lockFree 0

/-- A thread's reset abandons its locks: every waiter of them wakes with `ABANDONED` (R118). -/
def Core.abandonLocks (k : Core) (t : Thr) (now : Count) : Core :=
  (List.range 16).foldl (fun (k : Core) i =>
    let n := BitVec.ofNat 4 i
    if k.lock n = lockHeld ∧ k.lockOwner n = t then
      let k := (k.waiters n).foldl (fun (k : Core) w => k.onTh w fun x => x.wakeAt now 2) k
      (k.setLock n lockAbandoned 0).setWaiters n []
    else k) k

/-- CORE_LOCK_WPOS as it reads: each waiting thread's place in the grant order of its lock (03 R561). -/
def Core.wpos (k : Core) : Word :=
  BitVec.ofNat 32 (allThr.foldl (fun v t =>
    let x := k.th t
    if x.wkind = 3 then v + ((k.waiters (BitVec.ofNat 4 x.wobj)).findIdx (· == t) % 4) <<< (2 * t.toNat) else v) 0)

/-- A write of CORE_LOCK_WPOS rebuilds every lock's waiter list (03 R561). -/
def Core.putWpos (k : Core) (v : Word) : Core :=
  let place (t : Thr) : Nat := bits v.toNat (2 * t.toNat + 1) (2 * t.toNat)
  { k with lockq := ((List.range 16).map fun n =>
      (n, ([0, 1, 2, 3].flatMap fun q => allThr.filter fun t =>
        (k.th t).wkind = 3 && (k.th t).wobj % 16 = n && place t == q))).filter fun p => !p.2.isEmpty }

end Sys2Proof.Machine
end

