-- ==== Sys2Proof/Machine/ChanOps.lean ====
section
/-! DEFINITION. Connections, routes and rings: what instructions, messages and resets share (09 R304 to R326). -/

namespace Sys2Proof.Machine

/-! ### Connections and routes (R304, R305) -/

abbrev cnClosed : Nat := 0
abbrev cnRecv : Nat := 1
abbrev cnIdle : Nat := 2
abbrev cnWait : Nat := 3
abbrev cnSending : Nat := 4
abbrev cnSuspended : Nat := 5

def Core.cn (k : Core) (n : BitVec 4) : ConnX := SMap.get (fun _ => ConnX.none) k.conn n.toNat
def Core.setCn (k : Core) (n : BitVec 4) (x : ConnX) : Core := { k with conn := SMap.set (fun _ => ConnX.none) k.conn n.toNat x }
def Core.onCn (k : Core) (n : BitVec 4) (f : ConnX → ConnX) : Core := k.setCn n (f (k.cn n))
def Core.cnState (k : Core) (n : BitVec 4) : Nat := k.fld (F.MESH_CONN_STATE n.toNat)
def Core.setCnState (k : Core) (n : BitVec 4) (v : Nat) : Core := k.setFld (F.MESH_CONN_STATE n.toNat) v
def Core.cnOwner (k : Core) (n : BitVec 4) : Thr := BitVec.ofNat 2 (k.fld (F.MESH_CONN_OWNER n.toNat))
def Core.cnRing (k : Core) (n : BitVec 4) : Reg := BitVec.ofNat 3 (k.fld (F.MESH_CONN_RING n.toNat))
def Core.cnSeq (k : Core) (n : BitVec 4) : BitVec 16 := BitVec.ofNat 16 (k.fld (F.MESH_CONN_SEQ n.toNat))
/-- The flow of a send connection's route. -/
def Core.cnFlow (k : Core) (n : BitVec 4) : BitVec 16 := BitVec.ofNat 16 (k.fld (F.MESH_ROUTE_FLOW (k.fld (F.MESH_CONN_ROUTE n.toNat))))

/-- Whether a connection is SENDING, shown as SUSPENDED while its owner is FROZEN or in DEBUG stop. -/
def Core.cnSends (k : Core) (n : BitVec 4) : Bool := k.cnState n == cnSending || k.cnState n == cnSuspended

/-- MESH_CONN as it reads. -/
def Core.connWord (k : Core) (n : BitVec 4) : Word :=
  if k.cnSends n then
    let x := k.th (k.cnOwner n)
    (F.MESH_CONN_STATE 0).put (k.w (R.MESH_CONN n.toNat)) (if x.state = .debug ∨ x.state = .frozen then cnSuspended else cnSending)
  else k.w (R.MESH_CONN n.toNat)

/-- Lines of a message (R310). -/
def msgLines (len : Nat) : Nat := (8 + len + 63) / 64

/-- The two header words (R310). -/
def headerWords (type lines h len : Nat) (seq : BitVec 16) (conn : BitVec 4) (c : CoreId) : List Word :=
  [BitVec.ofNat 32 (type <<< 30 + (lines - 1) <<< 24 + h <<< 16 + len), BitVec.ofNat 32 (seq.toNat <<< 16 + conn.toNat <<< 12 + c.toNat)]

/-- A send that ends without its message: a waiting request is withdrawn; a grant is owed its pad header, if it has not left, and a
VOID head line (R320, R321). -/
def Core.dropSend (k : Core) (n : BitVec 4) : Core :=
  let x := k.cn n
  if k.cnState n = cnWait then (k.setCnState n cnIdle).onCn n fun x => { x with gen := x.gen + 1, retry := none }
  else if k.cnSends n then
    let o (line m : Nat) (v : Bool) : Owed :=
      { conn := n, flow := k.cnFlow n, dest := x.dest, line := line, n := m, void := v, seq := k.cnSeq n }
    let pad := if x.padN ≠ 0 ∧ x.sent = 0 then [o x.padLine x.padN false] else []
    { (k.setCnState n cnIdle).onCn n (fun x => { x with gen := x.gen + 1, sent := 0, bad := none }) with
      owed := k.owed ++ pad ++ [o x.line (msgLines x.len) true] }
  else k

/-- Close a connection: its route becomes free, or its ring stops granting (R309, R322). -/
def Core.closeConn (k : Core) (n : BitVec 4) : Core :=
  let st := k.cnState n
  let k := if st = cnRecv then k.setFld (F.MESH_RING_OPEN (k.cnRing n).toNat) 0
    else if st = cnClosed then k
    else k.setFld (F.MESH_ROUTE_BOUND (k.fld (F.MESH_CONN_ROUTE n.toNat))) 0
  k.setW (R.MESH_CONN n.toNat) 0

/-- A thread reset closes every connection the thread owns (R322). -/
def Core.closeConns (k : Core) (t : Thr) : Core :=
  (List.range 16).foldl (fun (k : Core) i =>
    let n := BitVec.ofNat 4 i
    if k.cnState n ≠ cnClosed ∧ k.cnOwner n = t then (k.dropSend n).closeConn n else k) k

/-- A COPEN in progress for a connection, or of a thread. -/
def State.opening (s : State) (c : CoreId) (p : Thr → BitVec 4 → Bool) : Option NetMsg :=
  s.net.find? fun m => match m.body with
    | .openReq t n _ _ => m.src == c && p t n
    | .openAns t n _ _ _ _ => m.dst == c && p t n
    | _ => false

/-- A thread's COPEN in progress is dropped, and its route is free again. -/
def State.dropOpen (s : State) (c : CoreId) (t : Thr) : State :=
  match s.opening c fun u _ => u == t with
  | some m =>
    match m.body with
    | .openReq _ _ _ route => (s.dropMsg m).onCore c fun k => k.setFld (F.MESH_ROUTE_BOUND route.toNat) 0
    | .openAns _ _ _ route _ _ => (s.dropMsg m).onCore c fun k => k.setFld (F.MESH_ROUTE_BOUND route.toNat) 0
    | _ => s
  | none => s

/-- The flows on which a reset core still owes units, or may: its claim requests without an answer (R322). -/
def State.owedFlows (s : State) (c : CoreId) : List (BitVec 16) :=
  (s.core c).owed.map (fun o => o.flow) ++ s.net.filterMap fun m => match m.body with
    | .claimReq _ _ f .. => if m.src == c then some f else none
    | .claimAns _ _ f .. => if m.dst == c then some f else none
    | _ => none

/-- A reset core keeps the route record of each claim until the claim's answer and the units it owes are gone, and its front bank until the
last of them (R322, 08 R287). -/
def State.finishReset (s : State) (c : CoreId) : State :=
  let k := s.core c
  if !k.dying then s
  else
    let fs := s.owedFlows c
    let live (p : Nat × Word) : Bool :=
      if 0x880 ≤ p.1 ∧ p.1 < 0x8A0 then fs.contains (BitVec.ofNat 16 (bits p.2.toNat 15 0)) else true
    let k := { k with win := k.win.filter live }
    s.setCore c (if fs.isEmpty then { k with win := k.win.filter (fun p => p.1 ≠ R.MESH_FHDR), front := [], dying := false, oldBed := none }
      else k)

/-- Send the claim request of a connection, in the present cycle (R312). -/
def State.claimReq (s : State) (c : CoreId) (n : BitVec 4) : State :=
  let k := s.core c
  let x := k.cn n
  s.send c x.dest (.claimReq n x.gen (k.cnFlow n) (k.cnRing n) (msgLines x.len) (k.cnSeq n))

/-- An MSEND that has been sent or given up completes in cycle `d`: status in gb, the next instruction in the first slot at or
after d + 2 (R313, R321). -/
def Core.endSend (k : Core) (c : CoreId) (t : Thr) (status : Word) (d : Count) : Core :=
  match k.waitInstr c t with
  | some (.msend _ _ _ _ gb _) =>
    k.onTh t fun x =>
      let y := { (x.setG gb status) with stalled := false, aside := false, waiting := none, wake := none, next := later x.next (slotFrom t (d + 2)) }
      if x.aside then y else y.loopEnd y.pc 2
  | _ => k.onTh t fun x => { x with stalled := false, aside := false }

/-- A thread that runs again completes an MSEND whose send was abandoned while it was stopped (R321). -/
def Core.endAbandoned (k : Core) (c : CoreId) (t : Thr) (d : Count) : Core :=
  match (k.th t).stalled, (k.th t).wake with
  | true, some w => k.endSend c t w.status d
  | _, _ => k

/-! ### Rings (R306, R316) -/

def Core.rg (k : Core) (n : Nat) : RingX := SMap.get (fun _ => RingX.none) k.ring n
def Core.setRg (k : Core) (n : Nat) (x : RingX) : Core := { k with ring := SMap.set (fun _ => RingX.none) k.ring n x }
def Core.rgHead (k : Core) (n : Nat) : Nat := k.fld (F.MESH_RPTR_HEAD n)
def Core.rgTail (k : Core) (n : Nat) : Nat := k.fld (F.MESH_RPTR_TAIL n)
def Core.rgOut (k : Core) (n : Nat) : Nat := k.fld (F.MESH_RING_OUT n)

/-- A line `m` lines after `l` in a ring, wrapping at the region's end. -/
def Core.rgNext (k : Core) (n l m : Nat) : Nat := if k.gBase n + k.gCount n ≤ l + m then k.gBase n + (l + m - (k.gBase n + k.gCount n)) else l + m

/-- The header word 0 at a line, and its TYPE, lines and handler. -/
def Core.hdr (k : Core) (l : Nat) : Nat := (k.spWord (16 * l)).toNat
def hdrType (w : Nat) : Nat := bits w 31 30
def hdrLines (w : Nat) : Nat := bits w 29 24 + 1
def hdrHandler (w : Nat) : Nat := bits w 23 16

/-- Set a ring to hold nothing from a line on: HEAD, TAIL, OUT, DISP, valid bits and credit (R308, R324). -/
def Core.emptyRing (k : Core) (n head : Nat) : Core :=
  let k := k.clearValid (k.gBase n) (k.gCount n)
  let k := k.setW (R.MESH_RPTR n) (BitVec.ofNat 32 (head <<< 16 + head))
  let k := (k.setFld (F.MESH_RING_OUT n) 0).setFld (F.MESH_RING_DISP n) 0
  let k := k.setFld (F.DMA_CREDIT_BYTES n) (64 * k.gCount n)
  k.setRg n { k.rg n with found := false, stuck := false, fresh := (0, 0) }

/-- Return credit to a ring in the present cycle; decisions see it from the next (R318). -/
def Core.ringCredit (k : Core) (n : Nat) (now : Count) (b : Nat) : Core :=
  let x := k.rg n
  let k' := k.addCredit n b
  let old := if x.fresh.1 = now then x.fresh.2 else 0
  k'.setRg n { x with fresh := (now, old + (k'.credit n - k.credit n)) }

/-- The credit of a ring that a decision in the present cycle sees (R318). -/
def Core.seenCredit (k : Core) (n : Nat) (now : Count) : Nat := k.credit n - (if (k.rg n).fresh.1 = now then (k.rg n).fresh.2 else 0)

/-- The connection open on a ring, if any. -/
def Core.ringConn (k : Core) (n : Nat) : Option (BitVec 4) :=
  ((List.range 16).map (BitVec.ofNat 4)).find? fun i => k.cnState i == cnRecv && (k.cnRing i).toNat == n

/-- Wake the MRECV that waits on a ring (R317, R322). -/
def Core.wakeRecv (k : Core) (n : Nat) (now : Count) (status : Word) : Core :=
  match k.ringConn n with
  | some i => k.wakeIf now status fun _ x => x.wkind == 4 && x.wobj == i.toNat
  | none => k

/-- The dispatcher acts on a valid head line (R316). -/
def Core.dispatch (k : Core) (n : Nat) (now : Count) : Core :=
  let l := k.rgHead n
  let w := k.hdr l
  let x := k.rg n
  if k.fld (F.MESH_RING_OPEN n) = 0 ∨ x.found = true ∨ x.stuck = true ∨ k.fld (F.MESH_RING_DISP n) = 1 ∨ k.isValid l = false then k
  else if hdrType w = 0 then k.setRg n { x with stuck := true }
  else if hdrType w = 1 then
    ((k.setFld (F.MESH_RING_OUT n) (k.rgOut n - 1)).setRg n { x with found := true }).wakeRecv n now 0
  else
    let m := hdrLines w
    let k := (k.clearValid l m).ringCredit n now (64 * m)
    let k := k.setFld (F.MESH_RPTR_HEAD n) (if hdrType w = 2 then k.gBase n else k.rgNext n l m)
    if hdrType w = 3 then k.setFld (F.MESH_RING_OUT n) (k.rgOut n - 1) else k

/-- Dispatch the message at the head to a thread: handler's entry, or none where the table word has bit 31 clear (R317). -/
def Core.takeMsg (k : Core) (n : Nat) (t : Thr) (now : Count) (conn : BitVec 4) : Option (Core × Nat × BitVec 15) :=
  let l := k.rgHead n
  let e := k.spWord ((k.fld (F.MESH_RING_HTAB n) + hdrHandler (k.hdr l)) % 2 ^ 17)
  if e.msb then
    some ((k.setFld (F.MESH_RING_DISP n) 1).traceAt now 9 t conn.toNat (k.spWord (16 * l + 1)).toNat, 16 * l, e.truncate 15)
  else none

end Sys2Proof.Machine
end

