-- ==== Sys2Proof/Machine/Dma.lean ====
section
/-! DEFINITION. DMA instructions, bursts, credit and the deliveries of units (07 R251 to R274, R562; 10 R331, R334, R335). -/

namespace Sys2Proof.Machine

/-! ### Instructions (07 R260, R261, R267, R268) -/

/-- A channel starts: its registers, its timer and its first credit request, 4 cycles after the issue (R260, R264, R271). -/
def State.startChan (s : State) (c : CoreId) (t : Thr) (ch : Reg) (ga : Nat) (ws : List Word) : State :=
  let k := s.core c
  let d := descOf ws
  let k := (ws.zipIdx).foldl (fun k (w, m) => k.setW (R.DMA_CH_DESC ch.toNat m) w) k
  let k := k.setW (R.DMA_CH_STAT ch.toNat) (BitVec.ofNat 32 (chRunning <<< 29 + t.toNat <<< 22))
  let k := (k.setW (R.DMA_CH_WORD ch.toNat) 0).setW (R.DMA_CH_GRANT ch.toNat) 0
  let k := if d.op = opCompare then
      ((k.setW (R.DMA_CH_CMPCNT ch.toNat) 0).setW (R.DMA_CH_CMPA_LO ch.toNat) 0xFFFFFFFF).setW (R.DMA_CH_CMPA_HI ch.toNat) 0xFFFFFFFF
    else k
  let x := { Chan.none with ga := BitVec.ofNat 17 ga, gen := (k.ch ch).gen + 1, from_ := s.now + 4 }
  let x := if d.dk = dkXmod ∧ (k.fabFlow d.ctx).isNone then { x with ends := some (s.now + 4, 4) } else x
  let s := s.setCore c ((k.setCh ch x).armCh ch s.rev)
  if d.remote && x.ends.isNone then s.askCredit c ch (s.now + 4) else s

/-- DMAGO: read a descriptor and start a channel (R260, R261). -/
def execDmago (c : CoreId) (t : Thr) (ch ga : Reg) (s : State) : Out :=
  issue c t (.dmago c t ch ga) (fun s =>
    let k := s.core c
    let a := ((k.th t).gr ga).toNat % 2 ^ 17
    if a % 8 ≠ 0 then .fault s 0x04 0 (BitVec.ofNat 32 (4 * a))
    else if spWords ≤ a + 7 then .fault s 0x03 0 (BitVec.ofNat 32 (4 * a))
    else if k.chState ch = chRunning ∨ k.chState ch = chParked then .fault s 0x0F 2 (ch.zeroExtend 32)
    else
      match k.firstBad ((List.range 8).map (a + ·)) with
      | some (b, code) => .fault (s.spErr c 0 t 0 b) code (BitVec.ofNat 8 (bankOf b)) (BitVec.ofNat 32 (4 * b))
      | none =>
        let ws := k.spRange a 8
        if descBad ws (40 * s.L) then .fault s 0x0F 3 (BitVec.ofNat 32 (4 * a))
        else
          match (descOf ws).rangeFault with
          | some w => .fault s 0x03 0 (BitVec.ofInt 32 (4 * w))
          | none => .seq (s.startChan c t ch a ws)) s

/-- DMASTAT: read a channel's status (R267). -/
def execDmastat (c : CoreId) (t : Thr) (gd ch : Reg) (s : State) : Out :=
  issue c t (.dmastat c t gd ch) (fun s => .seq (s.putG c t gd ((s.core c).w (R.DMA_CH_STAT ch.toNat)) 1)) s

/-- DMADIS: disable a channel; on one that is neither RUNNING nor PARKED it has no effect (R268). -/
def execDmadis (c : CoreId) (t : Thr) (ch : Reg) (s : State) : Out :=
  issue c t (.dmadis c t ch) (fun s => .seq (s.disableCh c ch)) s

/-! ### Bursts (07 R245, R263 to R265) -/

/-- The cycle in which the return of a tap request that leaves in cycle `t` is due at the core, and the one in which the tap accepts it (10
R335). -/
def State.dueAt (s : State) (c : CoreId) (flow rflow : BitVec 16) (t : Count) : Count × Count :=
  match s.follow flow pT 240 c pC t with
  | some (a, d) => match s.follow rflow pC 240 a pT (d + 112) with
    | some (_, e) => (e, d)
    | none => (d + 112, d)
  | none => (t + 112, t)

/-- A channel takes its arbiter `f` in the present cycle: for a new burst of `n` words with its tap requests, or to go on with one (R265). -/
def Core.takeArb (k : Core) (ch : Reg) (f n : Nat) (todo : List TapReq) : Core :=
  let x := k.ch ch
  let k := if x.n = 0 then (k.setCh ch { x.idle with n := n, todo := todo }).count 7 none 1 else k
  let k := if x.on = some f then k else { k with served := SMap.set (fun _ => 7) k.served (k.desc ch).pri ch.toNat }
  k.onCh ch fun x => { x with on := some f }

/-- A unit leaves at input C in the present cycle (08 R277). -/
def State.leave (s : State) (c : CoreId) (ch : Reg) (u : MUnit) : State :=
  (s.putUnit c (.inp 4) s.now u).onCore c fun k =>
    ({ k with slotAt := s.now + 1 } : Core).onCh ch fun x => { x with from_ := s.now + 1 }

/-- The poison bits of payload words with their faults. -/
def faultPoison (vs : List (Word × Option Byte)) : BitVec 2 :=
  let psn (h : Nat) : Nat := b2n (((vs.drop (16 * h)).take 16).any fun v => v.2.isSome)
  BitVec.ofNat 2 (psn 0 + 2 * psn 1)

/-- A burst's next unit leaves for a core or the fabric (R248, R257, R265): up to 32 words, taken from the grant. -/
def State.sendUnit (s : State) (c : CoreId) (ch : Reg) (flow : BitVec 16) : State :=
  let k := s.core c
  let d := k.desc ch
  let x := k.ch ch
  let p := k.chPos ch + x.sent
  let m := Nat.min 32 (x.n - x.sent)
  let ps := (List.range m).map (p + ·)
  let vs := ps.map (k.srcWord ch)
  let s := s.leave c ch { flow := flow, kind := if d.dk = dkCore then 0 else 4, addr := BitVec.ofInt 17 (d.at_ true p), words := vs.map Prod.fst,
                          poison := faultPoison vs }
  let s := if d.spSource then s.burstFaults c ch 3 false ps else s
  let s := s.onCore c fun k => (k.setGrant ch (k.grant ch - 4 * m)).onCh ch fun y => { y with sent := x.sent + m }
  if x.n ≤ x.sent + m then s.finishBurst c ch x.n s.now else s

/-- A burst's next request leaves for a tap (10 R329, R331, R335). A STAGE unit frees the arbiter, as does the last request of a flow. -/
def State.sendReq (s : State) (c : CoreId) (ch : Reg) (q : TapReq) (todo : List TapReq) : State :=
  let k := s.core c
  let d := k.desc ch
  let wr := q.kind = 2
  let ps := (List.range q.n).map (q.pos + ·)
  let vs := ps.map (k.srcWord ch)
  let data := (List.range 16).map fun x => if q.off ≤ x ∧ x < q.off + q.n then (vs.getD (x - q.off) (0, none)).1 else 0
  let ws := if wr then data ++ q.words ++ List.replicate (16 - q.words.length) 0 else q.words
  let psn : BitVec 2 := if wr ∧ vs.any (fun v => v.2.isSome) = true then 1 else 0
  let (due, acc) := s.dueAt c q.flow q.rflow s.now
  let s := s.leave c ch { flow := q.flow, kind := q.kind, addr := q.addr, words := ws, poison := psn }
  let s := if wr ∧ d.spSource = true then s.burstFaults c ch 3 false ps else s
  let go : Bool := match todo with | r :: _ => !q.stage && !r.stage && r.flow == q.flow && r.kind == q.kind | [] => false
  let s := s.onCore c fun k => k.onCh ch fun x =>
    { x with
      todo := todo
      on := if go then x.on else none
      due := if wr ∧ q.stage = false then x.due else x.due ++ [{ q with due := due, words := ws, poison := psn }]
      sent := if wr then x.sent + q.n else x.sent }
  let x := (s.core c).ch ch
  if todo.isEmpty && x.due.isEmpty && decide (x.sent = x.n) then s.finishBurst c ch x.n acc else s

/-- A burst's next access through the local port, in the present cycle: up to 16 words of one row are read into the engine, or written, or
compared (R245, R248, R264). Bad parity or poison ends the burst before these words. -/
def State.localStep (s : State) (c : CoreId) (ch : Reg) : State :=
  let k := s.core c
  let d := k.desc ch
  let x := k.ch ch
  let p := k.chPos ch + x.sent
  let m := Nat.min (Nat.min 16 (x.n - x.sent)) (d.rowlen - p % d.rowlen)
  let ps := (List.range m).map (p + ·)
  let s := s.onCore c fun k => ({ k with locAt := s.now + 1 } : Core).onCh ch fun x => { x with from_ := s.now + 1 }
  let held := (x.got (2 * p)).isSome || d.op == opFill
  -- the end this access reads: the source first, then the destination of COMPARE
  let rd : Option Bool := if !held then some false else if d.op = opCompare ∧ d.dk = dkLocal then some true else none
  let bad : Bool := match rd with | some e => ps.any fun q => (k.readFault (d.at_ e q).toNat).isSome | none => false
  let moved (s : State) : State :=
    let s := s.onCore c fun k => k.onCh ch fun y => { y with sent := x.sent + m, buf := y.buf.filter fun e => !ps.contains (e.1 / 2) }
    if x.n ≤ x.sent + m then s.finishBurst c ch x.n s.now else s
  let val (dst : Bool) (q : Nat) : Word := match x.got (2 * q + b2n dst) with
    | some v => v.1
    | none => k.spWord (d.at_ dst q).toNat
  match rd with
  | some e =>
    if bad then (s.burstFaults c ch 2 e ps).finishBurst c ch x.sent s.now
    else if d.op = opCompare ∧ (e = true ∨ d.dk = dkMem) then moved (s.compare_ c ch p (ps.map (val false)) (ps.map (val true)))
    else s.onCore c fun k => k.onCh ch fun y => { y with buf := y.buf ++ ps.map fun q => (2 * q, val false q, false) }
  | none => moved (s.commitBurst c ch p (ps.map fun q => (k.srcWord ch q).1) 0)

/-- DMA_BURST: at an owned slot of a flow, or at the local port, the engine starts a burst of the channel that takes it, or sends the next
unit of the burst in progress there (R265; log entry 20). -/
def execDmaBurst (c : CoreId) (flow : Option (BitVec 16)) (s : State) : Out :=
  withCore s c (
    let f : Nat := (flow.map BitVec.toNat).getD 65536
    match s.pickChan c f with
    | none => .next s
    | some p =>
      let s := (s.advanceTo p.t).onCore c fun k => k.takeArb p.ch f p.n p.todo
      match p.st with
      | .loc => .next (s.localStep c p.ch)
      | .send fl => .next (s.sendUnit c p.ch fl)
      | .mem q => .next (s.sendReq c p.ch q (p.todo.drop 1)))

/-- DMA_CHANNEL_DONE: a channel that has moved its last word, or has failed, ends (R266, R270). -/
def execDmaChannelDone (c : CoreId) (ch : Reg) (s : State) : Out :=
  withCore s c (
    let k := s.core c
    match (k.ch ch).ends with
    | some (e, code) => if k.chState ch = chRunning then .next ((s.advanceTo e).endChan c ch code) else .next s
    | none => .next s)

/-- A parked channel continues from its restart record (R269, R271), unless its bed is frozen. -/
def State.resumeCh (s : State) (c : CoreId) (ch : Reg) : State :=
  let k := s.core c
  if k.chState ch ≠ chParked ∨ s.frozenAt c = true then s
  else
    let k := (k.setChState ch chRunning 0).onCh ch fun x => { x with trev := s.rev, from_ := s.now }
    let s := s.setCore c k
    if k.wantsCredit ch then s.askCredit c ch s.now else s

/-- DMA_CHANNEL_RESUME: the headstock resumes a parked channel (R269, R271). -/
def execDmaChannelResume (c : CoreId) (ch : Reg) (s : State) : Out := withCore s c (.next (s.resumeCh c ch))

/-- The first cycle of the revolution in which a channel's timer expires (R271, 02 R75). -/
def State.chDeadline (s : State) (c : CoreId) (ch : Reg) : Count :=
  let k := s.core c
  revStart ((s.restOf c).expiry (k.ch ch).trev ((k.ch ch).tlim - (k.w (R.DMA_CH_TIMER ch.toNat)).toNat))

/-- Whether a channel's burst completes in cycle `t`, at which its timer expires: its last unit leaves, its last access takes place, or the
last return it awaits is committed then (R273). -/
def State.burstEndsAt (s : State) (c : CoreId) (ch : Reg) (t : Count) : Bool :=
  let k := s.core c
  let x := k.ch ch
  let last : Bool := match s.chStep c ch with
    | some (n, todo, st) => x.on == some st.flow && s.stepAt c ch st.flow == some t && (match st with
      | .loc => decide (n ≤ x.sent + 16)
      | .send _ => decide (n ≤ x.sent + 32)
      | .mem q => q.kind == 2 && !q.stage && todo.length == 1)
    | none => false
  let back : Bool := match x.due with
    | [e] => x.todo.isEmpty && e.due == t && s.mesh.any fun m => m.core == c && decide (m.place = .outC) && m.due == t && m.u.flow == e.rflow
    | _ => false
  last || back

/-- DMA_TIMEOUT: a channel's timer expires (R271, R75): n working revolutions after it was armed, in a revolution in which its
bed does not rest. A burst that completes in that cycle re-arms it first (R273). -/
def execDmaTimeout (c : CoreId) (ch : Reg) (s : State) : Out :=
  withCore s c (
    let k := s.core c
    let t := s.chDeadline c ch
    if k.chState ch ≠ chRunning ∨ (k.ch ch).ends.isSome ∨ s.burstEndsAt c ch t = true then .next s
    else .next ((s.advanceTo t).endChan c ch 5))

/-! ### Credit (07 R257 to R259, 08 R289; 12 R417) -/

/-- Whether the region is open as a ring (09 R306). -/
def Core.ringOpen (k : Core) (n : Nat) : Bool := k.fld (F.MESH_RING_OPEN n) = 1

/-- Whether two cores belong to one bed (R258). -/
def sameBed (a b : Core) : Bool := a.bed.isSome && a.bed == b.bed

/-- The decision on a request for a region (R257, R258): the grant, refused, NOREGION, and the counter it leaves. -/
def Core.decide_ (k : Core) (region : Option Nat) (left burst : Nat) : Core × Nat × Bool × Bool :=
  match region with
  | none => (k, 0, false, true)
  | some n =>
    if k.ringOpen n then (k, 0, false, true)
    else if Nat.min left burst ≤ k.credit n then
      let g := Nat.min (Nat.min left 16384) (k.credit n)
      (k.setFld (F.DMA_CREDIT_BYTES n) (k.credit n - g), g, false, false)
    else (k, 0, true, false)

/-- Requests of one cycle are decided in ascending order of requesting core, then channel or connection (08 R289). -/
def reqBefore (a b : NetMsg) : Bool :=
  let key (m : NetMsg) : Nat := 16 * m.src.toNat + match m.body with
    | .creditReq ch _ _ _ _ => ch.toNat
    | .claimReq cn .. => cn.toNat
    | .fabAsk ch .. => ch.toNat
    | _ => 0
  decide (key a < key b)

/-- Whether a message is a request for credit that `c` decides, or one or its answer that passes into the fabric complex at `c` (12 R417). -/
def NetMsg.asks (m : NetMsg) (c : CoreId) : Bool :=
  m.dst == c && match m.body with | .creditReq .. => true | .fabricReq .. => true | .fabAsk .. => true | .fabAns .. => true | _ => false

/-- Whether a message is the answer to the request of channel `ch` of `c`. -/
def NetMsg.answers (m : NetMsg) (c : CoreId) (ch : Reg) : Bool :=
  m.dst == c && match m.body with | .creditAns h .. => h == ch | _ => false

/-- Whether a message returns a grant to `c`, or by its edge tap to another module. -/
def NetMsg.returns (m : NetMsg) (c : CoreId) : Bool := m.dst == c && match m.body with | .creditRet .. => true | .fabRet .. => true | _ => false

/-- The enabled region in which a scratchpad word lies (R258). -/
def Core.regionAt (k : Core) (word : Nat) : Option Nat := if word < spWords then k.regionOf (lineOf word) else none

/-- The region of `k` that a request of a core of the same bed for a scratchpad word names (R257, R258). -/
def Core.regionFor (k from_ : Core) (word : Nat) : Option Nat := if sameBed from_ k then k.regionAt word else none

/-- A credit request passes into the fabric complex at an edge tap (12 R417; 13 R431, R438): to the converter, which answers in the next
cycle, or as a CREDIT_REQ on the FLOW_TX context of its bed and flow. -/
def State.fabRequest (s : State) (e c : CoreId) (ch : Reg) (gen : Nat) (ctx : BitVec 14) (flow : BitVec 16) (word : BitVec 17) (left burst : Nat) :
    State :=
  let bed := (s.core c).bed
  if ctx = convCtx then
    let f := s.convFree (s.sideOf e)
    -- a CONVERT feed that waits for agreed exponents is granted none (13 R438)
    let held := (s.feed (feedKey (s.sideOf e) (bed.getD 0) flow)).any s.feedWaits
    let ok := !held && decide (Nat.min left burst ≤ f)
    let g := if ok then Nat.min (Nat.min left 16384) f else 0
    { (s.setConvFree (s.sideOf e) (f - g)) with
      net := s.net ++ [{ src := e, dst := c, due := s.now + 1 + BitVec.ofNat 60 (s.lat e c), body := .creditAns ch gen g (!ok) false 0 }] }
  else
    match bed.bind fun b => s.flowTx b flow with
    | none => s.fxErr 2 0x3F 0x3FFF
    | some n =>
      let s := s.setCtx n { s.ctx n with asks := (s.ctx n).asks ++ [(c, ch, gen)] }
      s.originate n 1 (left + burst * 2 ^ 32) word.toNat []

/-- CREDIT_REQUEST: the receiver decides the next credit request in the cycle after its arrival (R257, R258); at the anchor of an edge tap a
request or an answer of another module passes on in the next cycle (12 R417). -/
def execCreditRequest (c : CoreId) (s : State) : Out :=
  withCore s c (
    match earliest (fun m => m.asks c) reqBefore s.net with
    | none => .next s
    | some m =>
      let s := (s.dropMsg m).advanceTo (m.due + 1)
      let k := (s.core c).count 9 none 1
      match m.body with
      | .creditReq ch gen word left burst =>
        let region := k.regionFor (s.core m.src) word.toNat
        let (k, g, ref, noreg) := k.decide_ region left burst
        .next ((s.setCore c k).send c m.src (.creditAns ch gen g ref noreg (BitVec.ofNat 3 (region.getD 0))))
      | .fabricReq ctx addr left burst =>
        let n := bits (s.cw ctx.toNat 2) 14 12
        let (k, g, ref, noreg) := k.decide_ (if k.gEn n && (k.regionAt addr.toNat).isSome then some n else none) left burst
        .next ((s.setCore c k).send c (s.rxEdge ctx.toNat) (.fabAns ctx addr g ref noreg))
      | .fabAsk ch gen ctx flow word left burst => .next ((s.setCore c k).fabRequest c m.src ch gen ctx flow word left burst)
      | .fabAns ctx addr g ref noreg =>
        .next ((s.setCore c k).originate ctx.toNat 2 (g + b2n ref * 2 ^ 20 + b2n noreg * 2 ^ 21) addr.toNat [])
      | _ => .next s)

/-- The grant of a transfer that no longer waits returns to its giver in the next cycle (R259). -/
def State.grantBack (s : State) (c : CoreId) (ch : Reg) (src : CoreId) (gen g : Nat) (region : BitVec 3) : State :=
  let s := if gen = ((s.core c).ch ch).gen then s.onCore c fun k => k.onCh ch fun x => { x with asked := false } else s
  s.giveBack c ch g src region (s.now + 1)

/-- CREDIT_ANSWER: a channel receives its grant or refusal (R257 to R259, R269, R271). A grant re-arms the timer, of a parked channel
too. -/
def execCreditAnswer (c : CoreId) (ch : Reg) (s : State) : Out :=
  withCore s c (
    match earliest (fun m => m.answers c ch) (fun _ _ => false) s.net with
    | none => .next s
    | some m =>
      match m.body with
      | .creditAns _ gen g ref noreg region =>
        let s := (s.dropMsg m).advanceTo m.due
        let k := (s.core c).count 9 none 1
        let s := s.setCore c k
        let x := k.ch ch
        let waits := gen = x.gen ∧ (k.chState ch = chRunning ∨ k.chState ch = chParked)
        if ¬ waits then .next (s.grantBack c ch m.src gen g region)
        else if noreg then .next ((s.onCore c fun k => k.onCh ch fun x => { x with asked := false }).endChan c ch 4)
        else if ref then .next (s.onCore c fun k => k.onCh ch fun x => { x with retry := some (s.now + 256) })
        else
          let k := (k.setGrant ch (k.grant ch + g)).onCh ch fun x => { x with asked := false, region := region }
          .next (s.setCore c (k.armCh ch s.rev))
      | _ => .next s)

/-- CREDIT_RETRY: a refused channel requests again 256 cycles after the refusal arrived (R258); one that is parked then, once it is resumed. -/
def execCreditRetry (c : CoreId) (ch : Reg) (s : State) : Out :=
  withCore s c (
    let k := s.core c
    match (k.ch ch).retry with
    | some t =>
      let s := s.advanceTo t
      if k.chState ch = chRunning then .next (s.askCredit c ch s.now)
      else if k.chState ch = chParked then .next s
      else .next (s.onCore c fun k => k.onCh ch fun x => { x with retry := none, asked := false })
    | none => .next s)

/-- CREDIT_RETURN: a returned grant arrives and is added to the region's counter (R259); at the anchor of an edge tap it passes into the
fabric complex: to the converter's buffer, or on the context of its bed and flow in a CREDIT_ANS (log entry 46). -/
def execCreditReturn (c : CoreId) (s : State) : Out :=
  withCore s c (
    match earliest (fun m => m.returns c) (fun _ _ => false) s.net with
    | some m =>
      let s := (s.dropMsg m).advanceTo m.due
      let s := s.onCore c fun k => k.count 9 none 1
      match m.body with
      | .creditRet region b => .next (s.onCore c fun k => k.addCredit region.toNat b)
      | .fabRet ctx flow b =>
        if ctx = convCtx then .next (s.setConvFree (s.sideOf c) (s.convFree (s.sideOf c) + b))
        else match (s.core m.src).bed.bind fun bed => s.flowTx bed flow with
        | some n => .next ((s.advanceTo (m.due + 1)).originate n 2 b 0 [])
        | none => .next s
      | _ => .next s
    | none => .next s)

/-! ### Deliveries (07 R251, R252; 10 R331, R334, R339) -/

/-- The channel and request a TAP_DATA unit answers: the one whose return is due in this cycle (10 R335). -/
def Core.answers (k : Core) (now : Count) (u : MUnit) : Option (Reg × TapReq) :=
  let fits (e : TapReq) : Bool := e.due == now && e.rflow == u.flow &&
    (if u.words.length = 1 then e.kind == 2 && u.addr == 0x1FFFF else e.kind == 1 && e.addr == u.addr)
  (List.range 8).findSome? fun n => (((k.ch (BitVec.ofNat 3 n)).due).find? fits).map fun e => ((BitVec.ofNat 3 n : Reg), e)

/-- The runs of consecutive destination words in `n` positions from `p`: first position and words. -/
def Desc.runs (d : Desc) (p n : Nat) : List (Nat × Nat) :=
  (List.range n).foldl (fun (l : List (Nat × Nat)) j => match l with
    | (q, m) :: rest => if d.at_ true (p + j) = d.at_ true q + m then (q, m + 1) :: rest else (p + j, 1) :: l
    | [] => [(p + j, 1)]) [] |>.reverse

/-- A poisoned word of memory was read (R270, R249): its scratchpad address is none, so DMA_SPERR_ADDR and BANK hold a free value. -/
def State.memPoison (s : State) (c : CoreId) (ch : Reg) : State :=
  let w := (Config.freeWord s.free).toNat % spWords
  let s := { s with free := s.free + 1 }
  (s.spErr c 3 ((s.core c).chThr ch) ch w).onCore c fun k => k.onCh ch fun x => { x with bad := 3 }

/-- A read or acknowledgement has come back for a channel (10 R334, R335). Words that return to the engine for a LOCAL destination are
written now; a poisoned word of another transfer ends the channel with `POISON`, and what it read leaves poisoned (R270). -/
def State.tapBack (s : State) (c : CoreId) (ch : Reg) (e : TapReq) (u : MUnit) : State :=
  let s := s.onCore c fun k => k.onCh ch fun x => { x with due := x.due.erase e }
  let d := (s.core c).desc ch
  let toLocal := d.op == opCopy && d.dk == dkLocal
  let val (j : Nat) : Word := nthWord u.words (e.off + j)
  let psn (j : Nat) : Bool := u.poison.getLsbD ((e.off + j) / 16)
  let s :=
    if e.kind = 2 then s
    else if toLocal then
      if u.addr ≠ 0x1FFFF then s
      else (d.runs e.pos e.n).foldl (fun (s : State) (p, m) =>
        let js := (List.range m).map fun j => p - e.pos + j
        s.commitBurst c ch p (js.map val) (BitVec.ofNat 2 (3 * b2n (js.any psn)))) s
    else
      let s := s.onCore c fun k => k.onCh ch fun x =>
        { x with buf := x.buf ++ (List.range e.n).map fun j => (2 * (e.pos + j) + b2n e.side, val j, psn j) }
      if (List.range e.n).any psn then s.memPoison c ch else s
  let x := (s.core c).ch ch
  let i := (s.core c).chPos ch
  let all (b : Nat) : List Word := (List.range x.n).map fun j => ((x.got (2 * (i + j) + b)).map Prod.fst).getD 0
  if !x.todo.isEmpty || !x.due.isEmpty then s
  else if e.kind = 2 ∨ toLocal = true then s.finishBurst c ch x.n s.now
  else if d.op = opCompare ∧ d.mem false = true ∧ d.mem true = true then (s.compare_ c ch i (all 0) (all 1)).finishBurst c ch x.n s.now
  else s

/-- The state in the cycle in which a unit leaves at output C; the core counts it (19 R556). -/
def State.outTaken (s : State) (c : CoreId) (m : MeshUnit) : State :=
  (({ s with mesh := s.mesh.erase m } : State).advanceTo m.due).onCore c fun k => k.count 8 none 1

/-- A TAP_DATA unit writes its words as the core's own write: those of the channel it answers, or of none (10 R334). -/
def State.tapEnter (s : State) (c : CoreId) (u : MUnit) (a : Option (Reg × TapReq)) : State :=
  match a with
  | some (ch, e) => s.commitBurst c ch e.pos u.words u.poison
  | none =>
    let e := (s.core c).enter u.addr.toNat u.words u.poison false []
    let s := s.setCore c (e.k.setValids c s.now e.lines)
    match e.psn with | l :: _ => s.eccFlag c l | [] => s

/-- DATA_UNIT_COMMIT: a unit at output C writes its words (08 R277): DATA and FAB_IN as remote writes, TAP_DATA as the core's own
write or, at ADDR 0x1_FFFF, to the DMA engine (10 R334). -/
def execDataUnitCommit (c : CoreId) (s : State) : Out :=
  withCore s c (
    match s.unitAt c .outC with
    | none => .next s
    | some m =>
      let s := s.outTaken c m
      if m.u.kind = 0 ∨ m.u.kind = 5 then .next (s.remoteWrite c m.u.addr.toNat m.u.words m.u.poison)
      else if m.u.kind = 3 then
        let a := (s.core c).answers s.now m.u
        let s := if m.u.addr = 0x1FFFF then s else s.tapEnter c m.u a
        match a with
        | some (ch, e) => .next (s.tapBack c ch e m.u)
        | none => .next s
      else .next s)

/-- HELD_TRAP_ENTRY: a thread that holds a trap and has left FROZEN, DEBUG stop or HALTED enters it (R562). -/
def execHeldTrapEntry (c : CoreId) (t : Thr) (s : State) : Out :=
  withCore s c (
    let x := s.th c t
    if x.held.isSome && (x.state == .run || x.state == .wait) then .next (s.enterHeld c t) else .next s)

/-- Whether what a channel expects is on its way: the request, or the return. -/
def State.coming (s : State) (e : TapReq) : Bool :=
  s.mesh.any (fun m => (m.u.flow == e.rflow && m.u.addr == (if e.kind = 1 then e.addr else 0x1FFFF)) ||
    (m.u.flow == e.flow && decide (m.u.words = e.words) && m.u.kind == e.kind)) ||
  s.taps.any (fun p => p.2.rets.any fun r => r.u.flow == e.rflow && r.u.addr == (if e.kind = 1 then e.addr else 0x1FFFF))

/-- What a RUNNING channel expects that will not come. -/
def State.overdue (s : State) (c : CoreId) (ch : Reg) : Option TapReq :=
  if (s.core c).chState ch = chRunning then (((s.core c).ch ch).due).find? (fun e => !s.coming e) else none

/-- The request of `e` sent again in the slot `t` (10 R335). -/
def State.tapAgain (s : State) (c : CoreId) (ch : Reg) (e : TapReq) (t : Count) : State :=
  let s := s.advanceTo t
  let (due, _) := s.dueAt c e.flow e.rflow t
  (s.leave c ch { flow := e.flow, kind := e.kind, addr := e.addr, words := e.words, poison := e.poison }).onCore c fun k => k.onCh ch fun x =>
    { x with due := x.due.map fun y => if y = e then { y with due := due } else y }

/-- TAP_RETRY: a read or staged write whose return did not come is sent again, in the next owned slot from 256 cycles after its
due cycle (10 R335). It starts no burst, so neither a rest nor a drain guard holds it (02 R77; 08 R286). -/
def execTapRetry (c : CoreId) (ch : Reg) (s : State) : Out :=
  withCore s c (
    match s.overdue c ch with
    | none => .next s
    | some e =>
      match s.ownedFrom c e.flow (notBefore (notBefore s.now (e.due + 256)) (s.core c).slotAt) with
      | none => .next s
      | some t => .next (s.tapAgain c ch e t))

end Sys2Proof.Machine
end

