-- ==== Sys2Proof/Machine/Channel.lean ====
section
/-! DEFINITION. Channels and active messages: their instructions, the claims and units of the engine, the dispatcher and the
releases by hand (09 R304 to R326). -/

namespace Sys2Proof.Machine

/-- A `CHANNEL` fault (R325). -/
def chFault (s : State) (detail : Byte) (faddr : Nat) : Res := .fault s 0x10 detail (BitVec.ofNat 32 faddr)

/-- Whether the thread may not use the connection: closed, not its own, or of the wrong direction (R304, R325). -/
def Core.badConn (k : Core) (t : Thr) (n : BitVec 4) (send recv : Bool) : Bool :=
  k.cnState n == cnClosed || k.cnOwner n != t || (k.cnState n == cnRecv && !recv) || (k.cnState n != cnRecv && !send)

/-! ### Opening and closing (R307 to R309) -/

/-- COPEN: open a connection from a two-word descriptor; a send COPEN reserves a route and stalls until the binding reply. -/
def execCopen (c : CoreId) (t : Thr) (gd : Reg) (conn : BitVec 4) (ga : Reg) (s : State) : Out :=
  issue c t (.copen c t gd conn ga) (fun s =>
    let k := s.core c
    let a := ((k.th t).gr ga).toNat % 2 ^ 17
    if spWords ≤ a + 1 then chFault s 2 (4 * a)
    else match k.firstBad [a, a + 1] with
    | some (b, code) => .fault (s.spErr c 0 t 0 b) code (BitVec.ofNat 8 (bankOf b)) (BitVec.ofNat 32 (4 * b))
    | none =>
      let w0 := (k.spWord a).toNat
      let w1 := (k.spWord (a + 1)).toNat
      let recv := bit w0 31
      let ring := bits w0 14 12
      let dest := bits w0 11 0
      let htab := bits w1 16 0
      let bad : Bool := bits w0 30 15 != 0 || bits w1 31 17 != 0 ||
        (if recv then dest != 0 || !k.gEn ring || decide (spWords ≤ htab + 255) else htab != 0 || decide (40 * s.L ≤ dest))
      let busy := k.cnState conn != cnClosed || (s.opening c fun _ n => n == conn).isSome
      let routes := (List.range 8).filter fun r => k.fld (F.MESH_ROUTE_VALID r) = 1 && k.fld (F.MESH_ROUTE_DEST r) == dest
      if bad then chFault s 2 (4 * a)
      else if recv then
        if busy || k.ringOpen ring || k.rgOut ring != 0 then .seq (s.putG c t gd 3 1)
        else
          let k := (k.emptyRing ring (k.gBase ring)).setW (R.MESH_RING ring) (BitVec.ofNat 32 (2 ^ 31 + htab))
          let k := k.setW (R.MESH_CONN conn.toNat) (BitVec.ofNat 32 (cnRecv <<< 29 + t.toNat <<< 27 + ring <<< 24))
          .seq ((s.setCore c k).putG c t gd 0 1)
      else if busy then .seq (s.putG c t gd 3 1)
      else if routes.isEmpty then .seq (s.putG c t gd 4 1)
      else match routes.find? (fun r => k.fld (F.MESH_ROUTE_BOUND r) = 0) with
      | none => .seq (s.putG c t gd 3 1)
      | some r =>
        let d : CoreId := BitVec.ofNat 12 dest
        let s := s.onCore c fun k => (k.setFld (F.MESH_ROUTE_BOUND r) 1).onTh t fun x =>
          { x with stalled := true, waiting := some (.copen c t gd conn ga) }
        .stay (s.send c d (.openReq t conn (BitVec.ofNat 3 ring) (BitVec.ofNat 3 r)))) s

/-- The binding reply from `src`, the ring's core, takes effect: the connection opens, or its route is free again, and the stalled COPEN
completes (R308). -/
def State.bindReply (s : State) (c : CoreId) (t : Thr) (src : CoreId) (conn : BitVec 4) (ring route : BitVec 3) (ok : Bool) (count : Nat)
    (due : Count) : State :=
  s.onCore c fun k =>
    let k := k.count 9 none 1
    let k := if ok then
      (k.setW (R.MESH_CONN conn.toNat)
          (BitVec.ofNat 32 (cnIdle <<< 29 + t.toNat <<< 27 + ring.toNat <<< 24 + route.toNat <<< 20))).setCn conn
        { ConnX.none with dest := src, count := count, gen := (k.cn conn).gen + 1 }
    else k.setFld (F.MESH_ROUTE_BOUND route.toNat) 0
    let gd : Option Reg := match k.waitInstr c t with | some (.copen _ _ gd _ _) => some gd | _ => none
    k.onTh t fun x =>
      let y := (gd.map fun g => x.setG g (if ok then 0 else 5)).getD x
      let y := { y with stalled := false, aside := false, waiting := none, next := later x.next (slotFrom t (due + 2)) }
      if x.aside then y else y.loopEnd y.pc 2

/-- COPEN_COMPLETE: a send COPEN goes on: its request is decided at the ring's core in the cycle after it arrives, and the binding reply
leaves with the result and the ring's COUNT; the reply arrives, and the connection is open, or its route is free again (R308). -/
def execCopenComplete (c : CoreId) (t : Thr) (s : State) : Out :=
  withCore s c (
    match s.opening c fun u _ => u == t with
    | none => .next s
    | some m =>
      match m.body with
      | .openReq _ conn ring route =>
        let s := ((s.dropMsg m).advanceTo (m.due + 1)).onCore m.dst fun k => k.count 9 none 1
        let k := s.core m.dst
        .next (s.send m.dst c (.openAns t conn ring route (k.ringOpen ring.toNat) (k.gCount ring.toNat)))
      | .openAns _ conn ring route ok count =>
        .next (((s.dropMsg m).advanceTo m.due).bindReply c t m.src conn ring route ok count m.due)
      | _ => .next s)

/-- CCLOSE: close a connection; with a send in progress, or an unconsumed message or outstanding claim, it faults (R309). -/
def execCclose (c : CoreId) (t : Thr) (conn : BitVec 4) (s : State) : Out :=
  issue c t (.cclose c t conn) (fun s =>
    let k := s.core c
    let r := (k.cnRing conn).toNat
    if k.badConn t conn true true then chFault s 1 conn.toNat
    else if k.cnState conn = cnRecv then
      if k.rgOut r ≠ 0 ∨ k.fld (F.MESH_RING_DISP r) = 1 ∨ k.credit r ≠ 64 * k.gCount r then chFault s 4 conn.toNat
      else .seq (s.setCore c (k.closeConn conn))
    else if k.cnState conn ≠ cnIdle then chFault s 4 conn.toNat
    else .seq (s.setCore c (k.closeConn conn))) s

/-! ### Sending (R311 to R314) -/

/-- MSEND: check the message, send a claim request and wait (R311, R312, R320). -/
def execMsend (c : CoreId) (t : Thr) (conn : BitVec 4) (ga gb : Reg) (h : BitVec 8) (s : State) : Out :=
  issue c t (.msend c t conn ga gb h) (fun s =>
    let k := s.core c
    let x := k.th t
    let a := (x.gr ga).toNat % 2 ^ 17
    let len := (x.gr gb).toNat
    if k.badConn t conn true false || k.cnState conn != cnIdle then chFault s 1 conn.toNat
    else if len % 4 ≠ 0 ∨ 4088 < len ∨ ((k.cn conn).count + 1) / 2 < msgLines len then chFault s 5 len
    else if len ≠ 0 ∧ spWords < a + len / 4 then .fault s 0x03 0 (BitVec.ofNat 32 (4 * Nat.max a spWords))
    else
      let s := s.onCore c fun k => (k.setCnState conn cnWait).onCn conn fun y =>
        { y with body := BitVec.ofNat 17 a, len := len, h := h, gen := y.gen + 1, padN := 0, sent := 0, retry := none, bad := none }
      .wait (s.claimReq c conn) 4 (16 + conn.toNat)) s

/-- Whether a message is a claim request to `c`; whether it is the answer to the claim of a connection of `c`. -/
def NetMsg.claims (m : NetMsg) (c : CoreId) : Bool := m.dst == c && match m.body with | .claimReq .. => true | _ => false
def NetMsg.claimed (m : NetMsg) (c : CoreId) (conn : BitVec 4) : Bool :=
  m.dst == c && match m.body with | .claimAns n .. => n == conn | _ => false

/-- The decision on a claim of `n` lines of a ring (R312): the ring's core after it, and the answer. -/
def Core.decideClaim (k : Core) (now : Count) (r n : Nat) : Core × ClaimRes :=
  let tail := k.rgTail r
  let e := k.gBase r + k.gCount r - tail
  let need := if n ≤ e then 64 * n else 64 * (e + n)
  if !k.ringOpen r then (k, .noRing)
  else if k.seenCredit r now < need then (k, .refused)
  else
    let line := if n ≤ e then tail else k.gBase r
    let k := k.setFld (F.DMA_CREDIT_BYTES r) (k.credit r - need)
    ((k.setFld (F.MESH_RING_OUT r) (k.rgOut r + 1)).setFld (F.MESH_RPTR_TAIL r) (k.rgNext r line n),
      if n ≤ e then .granted 0 0 line else .granted tail e line)

/-- CLAIM_REQUEST: the receiver decides the next claim request in the cycle after its arrival (R312). -/
def execClaimRequest (c : CoreId) (s : State) : Out :=
  withCore s c (
    match earliest (fun m => m.claims c) reqBefore s.net with
    | none => .next s
    | some m =>
      let s := (s.dropMsg m).advanceTo (m.due + 1)
      let s := s.onCore c fun k => k.count 9 none 1
      let k := s.core c
      match m.body with
      | .claimReq conn gen flow ring n seq =>
        let (k, res) := k.decideClaim s.now ring.toNat n
        .next ((s.setCore c k).send c m.src (.claimAns conn gen flow n seq res))
      | _ => .next s)

/-- The answer to a claim request of a send that still waits for it (R312). -/
def Core.claimAnswer (k : Core) (conn : BitVec 4) (now : Count) (res : ClaimRes) : Core :=
  let t := k.cnOwner conn
  match res with
  | .granted pl pn line =>
    ((k.setCnState conn cnSending).onCn conn fun x => { x with padLine := pl, padN := pn, line := line, sent := 0 }).onTh t
      fun x => { x with state := if x.state = .wait then .run else x.state
                        waits := false, stalled := true, waiton := 0, wcount := 0, wake := none }
  | .refused => k.onCn conn fun x => { x with retry := some (now + 256) }
  | .noRing => (k.setCnState conn cnIdle).onTh t fun x => x.wakeAt now 5

/-- The answer to a withdrawn claim: the lines of a grant are owed as PAD and VOID headers (R320). -/
def State.claimVoid (s : State) (c : CoreId) (conn : BitVec 4) (flow : BitVec 16) (src : CoreId) (n seq : Nat) (res : ClaimRes) :
    State :=
  match res with
  | .granted pl pn line =>
    let o (l m' : Nat) (v : Bool) : Owed := { conn := conn, flow := flow, dest := src, line := l, n := m', void := v, seq := seq }
    s.onCore c fun k => { k with owed := k.owed ++ (if pn = 0 then [] else [o pl pn false]) ++ [o line n true] }
  | _ => s.finishReset c

/-- CLAIM_GRANT: the answer to a claim request arrives: the send begins, or is repeated later, or completes with NORING; a grant
for a withdrawn request is voided (R312, R313, R320). -/
def execClaimGrant (c : CoreId) (conn : BitVec 4) (s : State) : Out :=
  withCore s c (
    match earliest (fun m => m.claimed c conn) (fun _ _ => false) s.net with
    | none => .next s
    | some m =>
      let s := ((s.dropMsg m).advanceTo m.due).onCore c fun k => k.count 9 none 1
      let k := s.core c
      match m.body with
      | .claimAns _ gen flow n seq res =>
        if gen = (k.cn conn).gen ∧ k.cnState conn = cnWait then .next (s.setCore c (k.claimAnswer conn s.now res))
        else .next (s.claimVoid c conn flow m.src n seq.toNat res)
      | _ => .next s)

/-- CLAIM_RETRY: a refused claim is requested again 256 cycles after the refusal arrived (R312). -/
def execClaimRetry (c : CoreId) (conn : BitVec 4) (s : State) : Out :=
  withCore s c (
    match ((s.core c).cn conn).retry with
    | some d =>
      let s := s.onCore c fun k => k.onCn conn fun x => { x with retry := none }
      if (s.core c).cnState conn = cnWait then .next ((s.advanceTo d).claimReq c conn) else .next s
    | none => .next s)

/-- The word `m` of a connection's message, with its fault (R310, R314). -/
def Core.msgWord (k : Core) (c : CoreId) (conn : BitVec 4) (m : Nat) : Word × Option Byte :=
  let x := k.cn conn
  if m < 2 then (nthWord (headerWords 1 (msgLines x.len) x.h.toNat x.len (k.cnSeq conn) conn c) m, none)
  else let w := x.body.toNat + m - 2; (k.spWord w, k.readFault w)

/-- The unit a connection sends next (R313): its line, its words, and whether it is the last. -/
def Core.nextUnit (k : Core) (c : CoreId) (conn : BitVec 4) : Nat × List (Nat × Word × Option Byte) × Bool :=
  let x := k.cn conn
  let n := msgLines x.len
  let p := if x.padN = 0 then 0 else 1
  let j := x.sent - p
  let part (a z : Nat) : List (Nat × Word × Option Byte) :=
    (List.range (Nat.min (16 * (z + 1)) (2 + x.len / 4) - 16 * a)).map fun i => (16 * a + i, k.msgWord c conn (16 * a + i))
  if x.sent < p then (x.padLine, (headerWords 2 x.padN 0 0 (k.cnSeq conn) conn c).map fun w => (0, w, none), false)
  else if 2 * j + 1 < n then (x.line + 1 + 2 * j, part (1 + 2 * j) (Nat.min (2 + 2 * j) (n - 1)), false)
  else (x.line, part 0 0, true)

/-- The next owned slot of a flow that the engine has not used. -/
def State.freeSlot (s : State) (c : CoreId) (f : BitVec 16) : Option Count :=
  s.nextOwned c f (notBefore s.now (s.core c).slotAt)

/-- A unit of a message: to the ring line `line`. -/
def msgUnit (f : BitVec 16) (line : Nat) (ws : List Word) (psn : BitVec 2) : MUnit :=
  { flow := f, kind := 0, addr := BitVec.ofNat 17 (16 * line), words := ws, poison := psn }

/-- Input C is used in cycle `d` (08 R277). -/
def Core.usedSlot (k : Core) (d : Count) : Core := { k with slotAt := d + 1 }

/-- A header unit that is owed leaves in the slot `d` (R313, R320). -/
def State.sendOwed (s : State) (c : CoreId) (o : Owed) (d : Count) : State :=
  let s := s.advanceTo d
  let k := s.core c
  let s := (s.setCore c (({ k with owed := k.owed.erase o } : Core).usedSlot d)).finishReset c
  s.putUnit c (.inp 4) d (msgUnit o.flow o.line (headerWords (if o.void then 3 else 2) o.n 0 0 o.seq o.conn c) 0)

/-- The fault of a send: the first that reading its words met (R314). -/
def Core.sendBad (k : Core) (conn : BitVec 4) (ws : List (Nat × Word × Option Byte)) : Option HeldTrap :=
  let x := k.cn conn
  match x.bad, ws.find? (fun v => v.2.2.isSome) with
  | some b, _ => some b
  | none, some (m, _, some code) =>
    let w := x.body.toNat + m - 2
    some { code := code, detail := BitVec.ofNat 8 (bankOf w), faddr := BitVec.ofNat 32 (4 * w), epc := none }
  | none, _ => none

/-- The unit `u` of a message (its line, its words, whether it is the last) leaves in the slot `d`; with the last MSEND completes
(R313, R314). -/
def State.sendMsgUnit (s : State) (c : CoreId) (conn : BitVec 4) (u : Nat × List (Nat × Word × Option Byte) × Bool) (d : Count) : State :=
  let k0 := s.core c
  let f := k0.cnFlow conn
  let ws := u.2.1
  let bad := k0.sendBad conn ws
  let psn (h : Nat) : Nat := b2n (((ws.drop (16 * h)).take 16).any fun v => v.2.2.isSome)
  let s := s.advanceTo d
  let s := s.putUnit c (.inp 4) d (msgUnit f u.1 (ws.map fun v => v.2.1) (BitVec.ofNat 2 (psn 0 + 2 * psn 1)))
  let s := ws.foldl (fun s v => if v.2.2.isSome then s.spErr c 3 0 0 ((k0.cn conn).body.toNat + v.1 - 2) else s) s
  let k := (s.core c).usedSlot d
  if !u.2.2 then s.setCore c (k.onCn conn fun y => { y with sent := y.sent + 1, bad := bad })
  else
    let t := k0.cnOwner conn
    let k := (k.setCnState conn cnIdle).setFld (F.MESH_CONN_SEQ conn.toNat) ((k.cnSeq conn).toNat + 1)
    let k := (k.onCn conn fun y => { y with sent := 0, bad := none }).endSend c t 0 d
    let s := s.setCore c k
    match bad with
    | some b => s.hold c t b.code b.detail b.faddr none
    | none => s

/-- Whether the engine may send the next unit of a connection's message: the send is under way, its thread is neither in DEBUG stop nor
FROZEN, and no header unit is owed on its flow. -/
def Core.maySend (k : Core) (conn : BitVec 4) : Bool :=
  let st := (k.th (k.cnOwner conn)).state
  k.cnSends conn && st != .debug && st != .frozen && !k.owed.any (fun o => o.flow == k.cnFlow conn)

/-- MESSAGE_UNIT_SEND: in the next owned slot of a connection's route the engine sends a header unit it owes, else the next unit of
the message; with the last unit MSEND completes (R313, R314, R320 to R322). -/
def execMessageUnitSend (c : CoreId) (conn : BitVec 4) (s : State) : Out :=
  withCore s c (
    let k := s.core c
    match k.owed.find? (fun o => o.conn == conn) with
    | some o =>
      (match s.freeSlot c o.flow with
        | none => .next s
        | some d => .next (s.sendOwed c o d))
    | none =>
      if s.frozenAt c || !k.maySend conn then .next s
      else match s.freeSlot c (k.cnFlow conn) with
      | none => .next s
      | some d => .next (s.sendMsgUnit c conn (k.nextUnit c conn) d))

/-! ### Receiving (R315 to R318) -/

/-- MRECV: wait for the message at the head of the ring and branch to its handler (R317). -/
def execMrecv (c : CoreId) (t : Thr) (gd : Reg) (conn : BitVec 4) (s : State) : Out :=
  issue c t (.mrecv c t gd conn) (fun s =>
    let k := s.core c
    let x := k.th t
    let r := (k.cnRing conn).toNat
    if k.badConn t conn false true then chFault s 1 conn.toNat
    else if gd = 7 then chFault s 3 conn.toNat
    else if k.fld (F.MESH_RING_DISP r) = 1 then chFault s 4 conn.toNat
    else if 16 ≤ x.rs.length then .fault s 0x07 0 0
    else if (k.rg r).found then
      match k.takeMsg r t s.now conn with
      | none => chFault s 6 (hdrHandler (k.hdr (k.rgHead r)))
      | some (k, addr, target) =>
        let s := ((s.setCore c k).putG c t gd 0 1).putG c t (gd + 1) (BitVec.ofNat 32 addr) 1
        .jump (s.onTh c t fun x => { x with rs := (x.pc + 2) :: x.rs }) target
    else if x.st bTF then .seq ((s.onTh c t fun x => x.setSt bTF false).putG c t gd 1 1)
    else .wait s 4 conn.toNat) s

/-- MDONE: consume the dispatched message (R318). -/
def execMdone (c : CoreId) (t : Thr) (conn : BitVec 4) (s : State) : Out :=
  issue c t (.mdone c t conn) (fun s =>
    let k := s.core c
    let r := (k.cnRing conn).toNat
    if k.badConn t conn false true then chFault s 1 conn.toNat
    else if k.fld (F.MESH_RING_DISP r) = 0 then chFault s 4 conn.toNat
    else
      let l := k.rgHead r
      let n := hdrLines (k.hdr l)
      let k := ((k.clearValid l n).ringCredit r s.now (64 * n)).setFld (F.MESH_RPTR_HEAD r) (k.rgNext r l n)
      .seq (s.setCore c ((k.setFld (F.MESH_RING_DISP r) 0).setRg r { k.rg r with found := false }))) s

/-- RING_DISPATCH: in the cycle after the head line becomes valid the dispatcher acts on it; a line of TYPE 0 is reported (R316). -/
def execRingDispatch (c : CoreId) (ring : BitVec 3) (s : State) : Out :=
  withCore s c (
    let k := s.core c
    if k.dispatch ring.toNat (s.now + 1) = k then .next s
    else
      let s := (s.advanceTo (s.now + 1)).onCore c fun k => k.dispatch ring.toNat (s.now + 1)
      .next (if ((s.core c).rg ring.toNat).stuck then s.toHeadstock (.ring c ring.toNat) else s))

/-! ### Registers (R320 to R322, R326) -/

/-- Abandon a send whose owner is in DEBUG stop, FROZEN or STOPPED (R321): its MSEND completes with `ABANDONED` when the thread runs
again. -/
def Core.abandonSend (k : Core) (conn : BitVec 4) (now : Count) : Core :=
  let t := k.cnOwner conn
  let st := (k.th t).state
  if st != .debug && st != .frozen && st != .stopped then k
  else if k.cnState conn = cnWait then (k.dropSend conn).onTh t fun x => x.wakeAt now 2
  else if k.cnSends conn then (k.dropSend conn).onTh t fun x => { x with wake := some { cyc := now + 2, status := 2 } }
  else k

/-- Whether the last unit of a connection's message leaves in the present cycle (R323). -/
def State.lastUnitNow (s : State) (c : CoreId) (conn : BitVec 4) : Bool :=
  let k := s.core c
  k.maySend conn && (k.nextUnit c conn).2.2 && s.freeSlot c (k.cnFlow conn) == some s.now

/-- MESH_MCMD ABANDON in the present cycle: no effect where the last unit leaves in it (R321, R323). -/
def State.abandon (s : State) (c : CoreId) (conn : BitVec 4) : State :=
  if s.lastUnitNow c conn then s else s.onCore c fun k => k.abandonSend conn s.now

/-- MESH_MCMD RELEASE in the present cycle: an MRECV on the ring wakes with `ABANDONED`, but not where a message's head line commits in it,
at the ring's head (R322, R323). -/
def State.release (s : State) (c : CoreId) (n : Nat) : State :=
  let k := s.core c
  let l := k.rgHead n
  if 8 ≤ n ∨ ((k.justSet s.now).contains l && hdrType (k.hdr l) == 1) = true then s
  else s.onCore c fun k => k.wakeRecv n s.now 2

/-- ABANDON: MESH_MCMD ABANDON (R321). -/
def execAbandon (p : Path) (c : CoreId) (conn : BitVec 4) (s : State) : Out :=
  s.winWrite p c R.MESH_MCMD (BitVec.ofNat 32 (2 ^ 30 + conn.toNat)) fun s => s.abandon c conn

/-- RELEASE: MESH_MCMD RELEASE wakes an MRECV on a ring with `ABANDONED` (R322). -/
def execRelease (p : Path) (c : CoreId) (ring : BitVec 4) (s : State) : Out :=
  s.winWrite p c R.MESH_MCMD (BitVec.ofNat 32 (2 ^ 31 + ring.toNat)) fun s => s.release c ring.toNat

/-- A write of MESH_CONN restores a connection; a send connection reloads the ring's line count (R326). -/
def State.restoreConn (s : State) (c : CoreId) (conn : BitVec 4) (v : Word) : State :=
  let s := s.onCore c fun k => k.setW (R.MESH_CONN conn.toNat) (v &&& 0xFF70FFFF#32)
  let k := s.core c
  if 2 ≤ k.cnState conn ∧ k.cnState conn ≤ 5 then
    let d : CoreId := BitVec.ofNat 12 (k.fld (F.MESH_ROUTE_DEST (k.fld (F.MESH_CONN_ROUTE conn.toNat))))
    s.onCore c fun k => k.onCn conn fun x => { x with dest := d, count := (s.core d).gCount (k.cnRing conn).toNat }
  else s

/-- CONNECTION_RESTORE: a write of MESH_CONN (R326). -/
def execConnectionRestore (p : Path) (c : CoreId) (conn : BitVec 4) (v : Word) (s : State) : Out :=
  s.winWrite p c (R.MESH_CONN conn.toNat) v fun s => s.restoreConn c conn v

end Sys2Proof.Machine
end

