-- ==== Sys2Proof/Machine/Mesh.lean ====
section
/-! DEFINITION. The scheduled mesh: units at a router, pattern banks and the pattern switch (08 R276 to R287, R303, R563). -/

namespace Sys2Proof.Machine

/-- The outputs of a router whose entry at an angle names the input, with the flow that entry names (R278, R279). -/
def State.outsFor (s : State) (c : CoreId) (port : BitVec 3) (angle : Nat) : List (Nat × BitVec 16) :=
  (List.range 7).filterMap fun o => match s.entryAt c o angle with
    | some (i, f) => if i = port.toNat then some (o, f) else none
    | none => none

/-- A unit at an output: sent where the entry names its flow, else discarded as `MISROUTE` (R279). -/
def State.atOutput (s : State) (c : CoreId) (m : MeshUnit) (o : Nat) (f : BitVec 16) : State :=
  if f = m.u.flow then s.sendOut c o m.due m.u else (s.onCore c fun k => k.discard m.due 2 o (m.due.toNat % 4096) f m.u.flow).toHeadstock (.discard c 2)

/-- MESH_UNIT_ARRIVE: each output whose entry names the input carries the unit or discards its copy as `MISROUTE`; a unit that no
entry names is discarded as `STRAY` (R279, R280, R283). -/
def execMeshUnitArrive (c : CoreId) (port : BitVec 3) (s : State) : Out :=
  withCore s c (
    match s.unitAt c (.inp port) with
    | none => .next s
    | some m =>
      let s := ({ s with mesh := s.mesh.erase m }).advanceTo m.due
      let outs := s.outsFor c port (m.due.toNat % 4096)
      if outs.isEmpty then .next ((s.onCore c fun k => k.discard m.due 1 port.toNat (m.due.toNat % 4096) 0 m.u.flow).toHeadstock (.discard c 1))
      else .next (outs.foldl (fun s (o, f) => s.atOutput c m o f) s))

/-- The entries of a back pattern: `p` slots for each of the seven outputs, output N first (R284, 15 R485). -/
def Core.loadBack (k : Core) (logp drain : Nat) (es : List Word) : Core :=
  let p := 2 ^ logp
  let k := (es.zipIdx).foldl (fun (k : Core) (e, i) =>
    { k with back := SMap.set (fun _ => (0 : Word)) k.back (1024 * (i / p) + i % p) (e &&& 0xF000FFFF#32) }) k
  k.setW R.MESH_BHDR (BitVec.ofNat 32 (0x80000000 + logp * 2 ^ 24 + drain))

/-- PATTERN_LOAD: the headstock loads a back bank and sets BHDR.VALID; it waits while a switch is armed (R284). -/
def execPatternLoad (c : CoreId) (logp : BitVec 4) (drain : BitVec 12) (entries : List Word) (s : State) : Out :=
  withCore s c (
    if logp.toNat < 6 ∨ 10 < logp.toNat ∨ entries.length ≠ 7 * 2 ^ logp.toNat then .refused .illFormed
    else if (s.core c).fld F.MESH_SWITCH_ARM = 1 then .next s
    else .next (s.onCore c fun k => k.loadBack logp.toNat drain.toNat entries))

/-- The first revolution after `r` whose low 16 bits are `n`. -/
def revMatching (r : BitVec 48) (n : BitVec 16) : BitVec 48 := r + 1 + ((n - (r + 1).truncate 16).zeroExtend 48)

/-- Arm a router for revolution N (R563). -/
def State.armSwitch (s : State) (c : CoreId) (rev : BitVec 16) : State :=
  s.onCore c fun k => { ((k.setFld F.MESH_SWITCH_ARM 1).setFld F.MESH_SWITCH_REV rev.toNat) with swN := revMatching s.rev rev }

/-- SWITCH_ARM: a write of MESH_SWITCH that sets ARM; rejected while the back bank is not complete (R563). -/
def execSwitchArm (p : Path) (c : CoreId) (rev : BitVec 16) (s : State) : Out :=
  s.winWrite p c R.MESH_SWITCH (BitVec.ofNat 32 (0x80000000 + rev.toNat)) fun s => s.armSwitch c rev

/-- SWITCH_WITHDRAW: a write that clears ARM withdraws the router's switch (R563). -/
def execSwitchWithdraw (p : Path) (c : CoreId) (s : State) : Out :=
  s.winWrite p c R.MESH_SWITCH 0 fun s => s.onCore c fun k => k.setFld F.MESH_SWITCH_ARM 0

/-- The armed cores, and the earliest revolution for which one is armed. -/
def State.armedFor (s : State) (p : Core → Bool) : Option (BitVec 48) :=
  ((s.cores.map Prod.snd).filter fun k => k.fld F.MESH_SWITCH_ARM = 1 && p k).foldl (fun b k => match b with
    | none => some k.swN
    | some n => if revNotAfter n k.swN then some n else some k.swN) none

/-- PATTERN_DRAIN_GUARD: angle 4,096 - G of N - 1 comes, from which no burst or delivery starts in the bed (R286, `State.guarded`). -/
def execPatternDrainGuard (bed : BitVec 5) (s : State) : Out :=
  match s.armedFor fun k => k.bed == some bed.toNat with
  | none => .next s
  | some n => .next (s.advanceTo (revStart n - BitVec.ofNat 60 (s.drainG bed.toNat n)))

/-- Exchange a router's banks; ARM clears and DONE sets (R285, R563). -/
def Core.exchange (k : Core) (now : Count) : Core :=
  let fh := k.w R.MESH_FHDR
  let bh := k.w R.MESH_BHDR
  let k := { k with front := k.back, back := k.front }
  ((((k.evNote now R.MESH_SWITCH 0x40000000#32).setW R.MESH_FHDR bh).setW R.MESH_BHDR fh).setFld F.MESH_SWITCH_ARM 0).setFld F.MESH_SWITCH_DONE 1

/-- The routers armed for revolution `n` exchange their banks, in the present cycle (R285). -/
def State.exchangeAll (s : State) (n : BitVec 48) : State :=
  s.cores.foldl (fun (s : State) (i, k) =>
    if k.fld F.MESH_SWITCH_ARM = 1 && k.swN == n then s.setCore (BitVec.ofNat 12 i) (k.exchange s.now) else s) s

/-- The beds that hold a router armed for revolution `n`. -/
def State.armedBeds (s : State) (n : BitVec 48) : List Nat :=
  (s.cores.map Prod.snd).filterMap fun k => if k.fld F.MESH_SWITCH_ARM = 1 && k.swN == n then k.bed else none

/-- PATTERN_SWITCH: at angle 0 of N every router armed for N exchanges its banks in the same cycle; a host SWITCH for N completes
(R285, 15 R477). -/
def execPatternSwitch (s : State) : Out :=
  match s.armedFor fun _ => true with
  | none => .next s
  | some n =>
    let s := s.advanceTo (revStart n)
    let beds := s.armedBeds n
    let s := s.exchangeAll n
    .next (s.jobs.foldl (fun s j =>
      match j.swReq with
      | some (ring, cid, m) =>
        if m = n ∧ beds.contains j.bed.toNat = true then
          (s.complete ring cid stOK []).onJob j.id fun j => { j with swReq := none }
        else s
      | none => s) s)

/-! ### MESH_PDATA (R303) -/

/-- The bank and key MESH_PSEL selects: none for OUT 7. -/
def Core.pSel (k : Core) : Option Nat :=
  if k.fld F.MESH_PSEL_OUT = 7 then none else some (1024 * k.fld F.MESH_PSEL_OUT + k.fld F.MESH_PSEL_SLOT)

/-- The entry MESH_PSEL selects. -/
def Core.pdata (k : Core) : Word :=
  match k.pSel with
  | some i => SMap.get (fun _ => (0 : Word)) (if k.fld F.MESH_PSEL_BANK = 1 then k.back else k.front) i
  | none => 0

/-- Write the selected entry. -/
def Core.putPdata (k : Core) (v : Word) : Core :=
  match k.pSel with
  | some i =>
    let v := v &&& 0xF000FFFF#32
    if k.fld F.MESH_PSEL_BANK = 1 then { k with back := SMap.set (fun _ => (0 : Word)) k.back i v }
    else { k with front := SMap.set (fun _ => (0 : Word)) k.front i v }
  | none => k

/-- The step of MESH_PSEL after an access. -/
def Core.stepPsel (k : Core) : Core :=
  let n := 1024 * k.fld F.MESH_PSEL_OUT + k.fld F.MESH_PSEL_SLOT + 1
  (k.setFld F.MESH_PSEL_SLOT (n % 1024)).setFld F.MESH_PSEL_OUT (n / 1024 % 8)

/-- MESH_PDATA_ACCESS: read or write a pattern entry and advance the selection (R284, R303). -/
def execMeshPdataAccess (p : Path) (c : CoreId) (wr : Option Word) (s : State) : Out :=
  s.winAccess p c R.MESH_PDATA wr (s.core c).pdata (fun v s => s.onCore c fun k => k.putPdata v)
    (fun s => s.onCore c Core.stepPsel)

end Sys2Proof.Machine
end

