-- ==== Sys2Proof/Machine/TierOps.lean ====
section
/-! DEFINITION. Operations of the memory tiers: bytes and bursts of local memory, pass shadows, the error log, stage lines, and the
acceptance of a unit at a tap (10 R327 to R350; 11 R357 to R373). -/

namespace Sys2Proof.Machine

/-! ### Local memory (10 R327, R342) -/

/-- A byte of local memory. -/
def State.byte (s : State) (a : Nat) : Byte := SMap.get (fun _ => 0) s.dram a
def State.setByte (s : State) (a : Nat) (b : Byte) : State := { s with dram := SMap.set (fun _ => 0) s.dram a b }

/-- `n` bytes from an address. -/
def State.bytes (s : State) (a n : Nat) : List Byte := (List.range n).map fun i => s.byte (a + i)

/-- Store bytes from an address. -/
def State.setBytes (s : State) (a : Nat) : List Byte → State
  | [] => s
  | b :: bs => (s.setByte a b).setBytes (a + 1) bs

/-- Whether the burst at a 64-byte aligned address is poisoned. -/
def State.psnAt (s : State) (a : Nat) : Bool := SMap.get (fun _ => false) s.dramPsn (a / 64)
def State.setPsnAt (s : State) (a : Nat) (p : Bool) : State := { s with dramPsn := SMap.set (fun _ => false) s.dramPsn (a / 64) p }

/-- The start of the LPDDR6 tier, and its end in this module's variant. -/
abbrev lpBase : Nat := 0x010000000000
def State.lpEnd (s : State) : Nat := lpBase + s.fuses.lpGib.toNat * 2 ^ 30

/-- Whether a local address is populated (11 R357). -/
def State.populated (s : State) (a : Nat) : Bool := decide (a < bondedEnd) || (decide (lpBase ≤ a) && decide (a < s.lpEnd))

/-- The local address of a burst of a tap's channel (10 R327, R356). -/
def tapAddr (tap b : Nat) : Nat := (b / 1024 * 320 + tap) * 65536 + b % 1024 * 64

/-- Bursts of a channel. -/
abbrev chanBursts : Nat := 12582912

/-- The two bonded pages that hold the distance table, and the pages of a job's address space at which they are mapped (01 R32). The spec does
not say which reserved pages they are (log entry 21). -/
def dtabPage (i : Nat) : Nat := (7372 * 320 + i) * 65536
def dtabVpn (i : Nat) : Nat := 0xFFFF00000 + i

/-- Stage pages per channel (MT_SC_CFG), and shadow pages per channel (MT_SHADOW_CFG). -/
def State.scPages (s : State) : Nat := Nat.max 16 (Nat.min 4915 (s.fld F.MT_SC_CFG_PAGES))
def State.shPages (s : State) : Nat := Nat.min (12288 - 4 - s.scPages) (s.fld F.MT_SHADOW_CFG_SPAGES)

/-- Whether a page can be a job's: whole, populated, and not reserved by the headstock for stage lines or the distance table (10 R328; 11 R357; 01
R32). -/
def State.pageOk (s : State) (a : Nat) : Bool :=
  decide (a % 65536 = 0) && s.populated a &&
    (decide (bondedEnd ≤ a) || (decide (a / 65536 / 320 < 12288 - s.scPages) && a != dtabPage 0 && a != dtabPage 1))

def State.tap (s : State) (t : Nat) : Tap := SMap.get (fun _ => Tap.reset) s.taps t
def State.setTap (s : State) (t : Nat) (x : Tap) : State := { s with taps := SMap.set (fun _ => Tap.reset) s.taps t x }

/-- The module's own number. -/
def State.ownModule (s : State) : BitVec 16 := BitVec.ofNat 16 (s.fld F.FX_CTRL_MODULE)

/-- Whether LPDDR6 channel of a local address is in service (10 R342, R345). -/
def State.lpUp (s : State) (a : Nat) : Bool := (s.devW R.LP_TRAINED).getLsbD ((a - lpBase) / 65536 % 32)

/-! ### Windows in use (10 R336) -/

def State.rgn (s : State) (n : Nat) : Region := SMap.get (fun _ => Region.reset) s.regions n
def State.setRegion (s : State) (n : Nat) (x : Region) : State := { s with regions := SMap.set (fun _ => Region.reset) s.regions n x }

/-- Whether a stack's temperature calls for windows 2, 4 and 6. -/
def Region.need (x : Region) : Bool := x.hot || !x.read

/-- Whether windows 2, 4 and 6 refresh in a stack: what its temperature calls for, from the first revolution after it last changed; always
with MT_CTRL.RFORCE = 1. -/
def State.hotWindows (s : State) (n : Nat) : Bool :=
  s.fld F.MT_CTRL_RFORCE == 1 || (if (s.rgn n).since = s.rev then (s.rgn n).was else (s.rgn n).need)

/-- A region's record after a reading: a change of what its temperature calls for waits for the next revolution. -/
def State.putNeed (s : State) (n : Nat) (x : Region) : Region :=
  if x.need = (s.rgn n).need ∨ (s.rgn n).since = s.rev then x
  else { x with was := (s.rgn n).need, since := s.rev }

/-! ### The error log and counts (10 R338, R339, R356) -/

/-- Append an entry to MT_ELOG; a full log sets OVF. -/
def State.elogAdd (s : State) (src kind unit loc : Nat) (job : JobId) : State :=
  if s.elog.length < 64 then
    { s with elog := s.elog ++ [BitVec.ofNat 64 (src * 2 ^ 62 + kind * 2 ^ 60 + unit * 2 ^ 51 + loc % 2 ^ 30 * 2 ^ 21 + job.toNat * 2 ^ 9)] }
  else (s.evNote R.MT_ELOG_STAT 0x80000000#32).setFld F.MT_ELOG_STAT_OVF 1

/-- The job whose bed anchors a tap, and the pass it is in. -/
def State.tapJob (s : State) (t : Nat) : Option Job := s.jobOf (s.anchor t)
def State.tapPass (s : State) (t : Nat) : Option (JobId × BitVec 64) := (s.tapJob t).map fun j => (j.id, j.pass)

/-- Schedule a row remapping, if none of the row waits; a row once redirected is scheduled again by a command only (10 R340; log entry 51). -/
def State.wantRemap (s : State) (t row : Nat) (cmd : Bool) : State :=
  let x := s.tap t
  if x.remap.any (fun r => r.row == row) || (!cmd && x.remaps.contains row) then s
  else (s.setTap t { x with remap := x.remap ++ [{ row := row, cmd := cmd, rev := s.rev, pass := if cmd then none else s.tapPass t }] }).setFld
    F.MT_RMAP_STAT_BUSY 1

/-- Count a corrected burst of a row (10 R338); at CE_LIMIT the row is remapped (10 R340). -/
def State.countCe (s : State) (t row : Nat) : State :=
  let r := R.MT_CE (t / 16)
  let s := s.setDev r (BitVec.ofNat 32 (Nat.min 0xFFFFFFFF ((s.devW r).toNat + 1)))
  let x := s.tap t
  let n := SMap.get (fun _ => 0) x.ce row + 1
  let s := s.setTap t { x with ce := SMap.set (fun _ => 0) x.ce row n }
  let lim := s.fld F.MT_CTRL_CE_LIMIT
  if lim ≠ 0 ∧ lim ≤ n then s.wantRemap t row false else s

/-- Record an uncorrectable burst, found in a pass or in scrubbing: the log, and the remapping of its row once it has logged UE in two
passes or in one of each (10 R339, R340). -/
def State.noteUe (s : State) (t b : Nat) (job : Option JobId) (scrub : Bool) : State :=
  let s := s.elogAdd (if scrub then 1 else 0) 1 t b (job.getD 0xFFF)
  let x := s.tap t
  let w : Option (JobId × BitVec 64) := if scrub then none else some (job.getD 0xFFF, ((job.bind s.job).map Job.pass).getD 0)
  let l := SMap.get (fun _ => []) x.ue b
  let l := if l.contains w then l else l ++ [w]
  let s := s.setTap t { x with ue := SMap.set (fun _ => []) x.ue b l }
  if 2 ≤ l.length then s.wantRemap t (b / 32) false else s

/-- The LPDDR6 channel of an address, and the index of its burst within the channel (10 R342). -/
def lpChan (a : Nat) : Nat := (a - lpBase) / 65536 % 32
def lpBurst (a : Nat) : Nat := (a - lpBase) / 65536 / 32 * 1024 + a / 64 % 1024

/-- Count in a channel's LP_CHn_STAT (10 R344). -/
def State.lpCount (s : State) (f : Fld) (n : Nat) : State := s.setFld f (Nat.min (2 ^ (f.hi - f.lo + 1) - 1) (s.fld f + n))

/-- A burst of local memory is found uncorrectable as its page is read or written for the stage network: by the LPDDR6 controller, or by
the stack (10 R339, R344). -/
def State.ueAt (s : State) (a : Nat) (job : JobId) : State :=
  if lpBase ≤ a then (s.lpCount (F.LP_CH_STAT_UE (lpChan a)) 1).elogAdd 2 1 (lpChan a) (lpBurst a) job
  else s.noteUe (tapOfAddr a) (burstOfAddr a) (some job) false

/-- A burst read for the stage network was corrected (10 R338, R344). -/
def State.ceAt (s : State) (a : Nat) : State :=
  if lpBase ≤ a then s.lpCount (F.LP_CH_STAT_CE (lpChan a)) 1 else s.countCe (tapOfAddr a) (burstOfAddr a / 32)

/-- What moving the bursts `is` of the line at a local address finds: repeats, corrections, and bursts in error (10 R344). -/
def State.lineErrs (s : State) (a : Nat) (is : List Nat) (job : JobId) (e : LpErrs) : State :=
  let s := if lpBase ≤ a then s.lpCount (F.LP_CH_STAT_LINKRTY (lpChan a)) e.rty.toNat else s
  is.foldl (fun (s : State) i =>
    if e.ue.getLsbD i then s.ueAt (a + 64 * i) job else if e.ce.getLsbD i then s.ceAt (a + 64 * i) else s) s

/-! ### Pages of jobs and their shadows (11 R359, R371, R372, R376) -/

/-- A job's level 3 entry of a page. -/
def Job.pte (j : Job) (vpn : BitVec 36) : BitVec 64 := SMap.get (fun _ => 0) j.tab vpn.toNat

/-- The entry of a level 1 or level 2 table that leads to a page, in the replica of a stack: it names the table below where that one holds a
valid entry. The headstock places the tables in its reserved pages, 32 KiB aligned; where is a free value (11 R359; log entry 27). -/
def Job.dirEntry (j : Job) (stack level : Nat) (vpn : BitVec 36) : BitVec 64 :=
  let up := vpn.toNat / 2 ^ (if level = 1 then 24 else 12)
  if j.tab.any fun (v, e) => e.getLsbD 0 && v / 2 ^ (if level = 1 then 24 else 12) == up then
    BitVec.ofNat 64 (Config.tableAddr stack j.id.toNat level up % 2 ^ 33 * 2 ^ 15 + 1)
  else 0

/-- A walk of three entries in the replica of a stack: the level 3 entry, or 0 where an entry above it is not valid (11 R359, R360). -/
def Job.walk (j : Job) (stack : Nat) (vpn : BitVec 36) : BitVec 64 :=
  if (j.dirEntry stack 1 vpn).getLsbD 0 && (j.dirEntry stack 2 vpn).getLsbD 0 then j.pte vpn else 0

/-- The job and page that own the local page at an address. -/
def State.owner (s : State) (page : Nat) : Option (Job × BitVec 36 × BitVec 64) :=
  s.jobs.findSome? fun j =>
    (j.tab.find? fun (_, e) => e.getLsbD 0 && e.getLsbD 1 && pteModule e == s.ownModule && pteFrame e == page).map fun (v, e) =>
      (j, BitVec.ofNat 36 v, e)

/-- Record a page as written in the pass; a page with SH = 0 leaves the pass without rollback (11 R375, R376). -/
def Job.write (j : Job) (vpn : BitVec 36) (sh : Bool) : Job :=
  { j with written := if j.written.contains vpn then j.written else j.written ++ [vpn], nr := j.nr || !sh }

/-- A first write found a shadow pool empty: the pass fails with cause 6, whatever failed it before, and the job is to be cancelled with
`SHADOW_FULL` (11 R372; DEDUCED, log entry 57). -/
def State.shadowFull (s : State) (id : JobId) : State :=
  ((s.evNote R.MT_SHADOW_STAT 0x80000000#32).setFld F.MT_SHADOW_STAT_FULL 1).onJob id fun j => { j with cause := some 6 }

/-- Preserve a bonded burst before the first write of the pass changes it (11 R371): its page takes a frame of the channel's shadow
pool; with the pool empty the write is unshadowed and the pass fails (11 R372). -/
def State.preserve (s : State) (a : Nat) : State :=
  let page := a / 65536 * 65536
  let b := a / 64 * 64
  match s.owner page with
  | none => s
  | some (j, vpn, e) =>
    let s := s.onJob j.id fun j => j.write vpn (e.getLsbD 6)
    if !e.getLsbD 6 || j.shadow.any (fun x => x.1 == b) then s
    else if j.shPages.contains page then
      s.onJob j.id fun j => { j with shadow := j.shadow ++ [(b, s.bytes b 64, s.psnAt b)] }
    else
      let t := tapOfAddr a
      let x := s.tap t
      if s.shPages ≤ x.shUsed then s.shadowFull j.id
      else
        (s.setTap t { x with shUsed := x.shUsed + 1 }).onJob j.id fun j =>
          { j with shPages := j.shPages ++ [page], shadow := j.shadow ++ [(b, s.bytes b 64, s.psnAt b)] }

/-- The listed bytes of the page at an address, and its poisoned bursts. -/
def State.pageOf (s : State) (page : Nat) : List (Nat × Byte) × List Nat :=
  let inPage (k : Nat) : Bool := page ≤ k && k < page + 65536
  (s.dram.filter fun x => inPage x.1, (s.dramPsn.filter fun x => inPage (64 * x.1)).map fun x => x.1)

/-- Preserve an LPDDR6 page before the first write-back of the pass (11 R371): its listed bytes and poisoned bursts. -/
def State.preservePage (s : State) (a : Nat) : State :=
  let page := a / 65536 * 65536
  match s.owner page with
  | none => s
  | some (j, vpn, e) =>
    let s := s.onJob j.id fun j => j.write vpn (e.getLsbD 6)
    if !e.getLsbD 6 || j.lshadows.any (fun x => x.1 == page) then s
    else if j.lshadow ≤ j.lshadows.length then s.shadowFull j.id
    else s.onJob j.id fun j => { j with lshadows := j.lshadows ++ [(page, s.pageOf page)] }

/-- Write the words that a mask enables of the burst at a 64-byte aligned address, and its poison (10 R332). -/
def State.putBurst (s : State) (a : Nat) (mask : Nat) (ws : List Word) (psn : Bool) : State :=
  let s := (List.range 16).foldl (fun (s : State) i => if bit mask i then s.setBytes (a + 4 * i) (leBytes 4 (nthWord ws i).toNat) else s) s
  s.setPsnAt a (if psn then true else if mask % 65536 = 0xFFFF then false else s.psnAt a)

/-- A burst of a page as at the start of the pass: from its shadow, else live (11 R373). -/
def State.oldBurst (s : State) (a : Nat) : List Byte × Bool :=
  match s.owner (a / 65536 * 65536) with
  | none => (s.bytes a 64, s.psnAt a)
  | some (j, _, _) =>
    match j.shadow.find? (fun x => x.1 == a) with
    | some (_, bs, p) => (bs, p)
    | none =>
      match j.lshadows.find? (fun x => x.1 == a / 65536 * 65536) with
      | some (_, m, ps) => ((List.range 64).map fun i => SMap.get (fun _ => (0 : Byte)) m (a + i), ps.contains (a / 64))
      | none => (s.bytes a 64, s.psnAt a)

/-! ### Stage lines (10 R346 to R351) -/

/-- The line of a tap's channel under a key. -/
def State.lineAt (s : State) (t : Nat) (g : BitVec 68) : Option StageLine := s.lines.find? fun l => l.tap == t && l.addr == g
def State.onLine (s : State) (t : Nat) (g : BitVec 68) (f : StageLine → StageLine) : State :=
  { s with lines := s.lines.map fun l => if l.tap = t ∧ l.addr = g then f l else l }

/-- The home of a line, and the local address of one homed here. -/
def lineModule (g : BitVec 68) : BitVec 16 := g.extractLsb' 52 16
def lineLocal (g : BitVec 68) : Nat := (g.toNat % 2 ^ 36) * 4096

/-- The key of the line at a global physical address, at a job virtual address of a job: a module that is not the home uses only MODULE, and
knows the line by its job and virtual line (11 R359). -/
def State.lineKey (s : State) (job : JobId) (gpa va : Nat) : BitVec 68 :=
  let m := gpa / 2 ^ 48 % 65536
  if m = s.ownModule.toNat then BitVec.ofNat 68 (m * 2 ^ 52 + gpa % 2 ^ 48 / 4096)
  else BitVec.ofNat 68 (m * 2 ^ 52 + job.toNat * 2 ^ 40 + va / 4096 % 2 ^ 40)

/-- The key of the line at a local address of this module. -/
def State.ownKey (s : State) (a : Nat) : BitVec 68 := BitVec.ofNat 68 (s.ownModule.toNat * 2 ^ 52 + a / 4096)

/-- FILL_DATA that answers a FILL whose line is gone is discarded: of each context and line, the packets answer the FILLs in order (10
R351; 12 R419). -/
def State.purgeFills (s : State) (n : Nat) (vline : BitVec 40) : State :=
  let mine (f : FillReq) : Bool := f.ctx == n && f.vline == vline
  let ps := (s.ctx n).rx.filter fun p => p.op == 4 && p.addr.toNat / 4096 == vline.toNat
  let gone := ((s.fills.filter mine).zip ps).filter fun x => !x.1.live
  if gone.isEmpty then s
  else
    ({ s with fills := gone.foldl (fun fs x => fs.erase x.1) s.fills } : State).setCtx n
      { s.ctx n with rx := gone.foldl (fun rx x => rx.erase x.2) (s.ctx n).rx }

/-- The FILLs of a line that is dropped have no line to fill. -/
def State.killFills (s : State) (l : StageLine) : State :=
  if l.st = .filling ∧ lineModule l.addr ≠ s.ownModule then
    match s.peerOf l.job (lineModule l.addr) with
    | some n => ({ s with fills := s.fills.map fun f => if f.ctx = n ∧ f.vline = l.vline ∧ f.tap = l.tap then { f with live := false } else f } :
        State).purgeFills n l.vline
    | none => s
  else s

/-- The lines that a test names become INVALID; a fill in progress is discarded (10 R351). -/
def State.dropLines (s : State) (p : StageLine → Bool) : State :=
  (s.lines.filter p).foldl State.killFills { s with lines := s.lines.filter fun l => !p l }
def State.dropLine (s : State) (t : Nat) (g : BitVec 68) : State := s.dropLines fun l => l.tap == t && l.addr == g

/-- Whether the LPDDR6 channel of a local address is in service; a bonded address needs none (10 R345). -/
def State.lpReady (s : State) (a : Nat) : Bool := !decide (lpBase ≤ a) || s.lpUp a

/-- Take a line for use: an INVALID one, else the least recently used CLEAN one not accessed within 112 cycles (10 R349). -/
def State.freeLine (s : State) (t : Nat) : Option State :=
  let mine := s.lines.filter fun l => l.tap == t
  if mine.length < 16 * s.scPages then some s
  else
    let c := mine.filter fun l => l.st == .clean && decide (112 < (s.now - l.last).toNat)
    match c.foldl (fun (b : Option StageLine) l => match b with
        | none => some l
        | some x => if notAfter x.last l.last then b else some l) none with
    | some l => some (s.dropLine t l.addr)
    | none => none

/-- A new line, last accessed in cycle `last`; the place of its data in the stage pages is free value `loc` (log entry 4). -/
def State.newLine (s : State) (t : Nat) (g : BitVec 68) (job : JobId) (va : Nat) (st : LineState) (last : Count) (next : Bool) : StageLine :=
  { tap := t, addr := g, job := job, vline := BitVec.ofNat 40 (va / 4096), st := st, present := 0, wrote := [], poison := 0, last := last
    since := s.now, units := (s.tap t).units, bursts := (s.tap t).bursts, loc := s.free
    first := BitVec.ofNat 6 (va / 64), forNext := next, data := [] }

/-- Add a new line, which takes a free value for its place. -/
def State.addLine (s : State) (l : StageLine) : State := { s with lines := s.lines ++ [l], free := s.free + 1 }

/-- The burst index, within the channel, of a line's burst: in the stage pages (10 R328, R339, R346). -/
def State.stageBurst (s : State) (l : StageLine) (i : Nat) : Nat :=
  1024 * (12288 - s.scPages) + (Config.freeWord l.loc).toNat % (16 * s.scPages) * 64 + i

/-- Ask a line's home for it: this module's LPDDR6 controller answers a STAGE_FILL; another module is sent a FILL for the requested
burst on the job's PEER context (12 R419). `none` where no context reaches it. -/
def State.fetchLine (s : State) (t : Nat) (g : BitVec 68) (job : JobId) (va : Nat) : Option State :=
  if lineModule g = s.ownModule then some s
  else (s.peerOf job (lineModule g)).map fun n =>
    ({ s with fills := s.fills ++ [{ ctx := n, vline := BitVec.ofNat 40 (va / 4096), tap := t, live := true }] } : State).originate n 3 0 (va / 64 * 64) []

/-- A miss: unless the line is FILLING, one is allocated, marked FILLING and fetched; with no line to allocate nothing starts
(10 R348, R349). `next`: a prefetch for the next pass; `pf`: a prefetch, which is no unit's access. -/
def State.stageMiss (s : State) (t : Nat) (g : BitVec 68) (job : JobId) (va : Nat) (next pf : Bool) : State :=
  let last := if pf then s.now - 113 else s.now
  match s.lineAt t g with
  | some l =>
    if l.st = .filling then s
    else ((s.fetchLine t g job va).map fun s => s.onLine t g fun l =>
        { l with st := .filling, last := s.now, first := BitVec.ofNat 6 (va / 64), since := s.now, units := (s.tap t).units, bursts := (s.tap t).bursts }).getD s
  | none =>
    match s.freeLine t with
    | none => s
    | some s' => ((s'.fetchLine t g job va).map fun s' => s'.addLine (s'.newLine t g job va .filling last next)).getD s

/-- The bytes of a line's burst, and their words. -/
def StageLine.burst (l : StageLine) (i : Nat) : List Byte := (List.range 64).map fun j => SMap.get (fun _ => (0 : Byte)) l.data (64 * i + j)

/-- Put the words a mask enables into a burst of a line. -/
def StageLine.put (l : StageLine) (i mask : Nat) (ws : List Word) : StageLine :=
  { l with data := (List.range 16).foldl (fun m j =>
      if bit mask j then (leBytes 4 (nthWord ws j).toNat).zipIdx.foldl (fun m (b, k) =>
        SMap.set (fun _ => (0 : Byte)) m (64 * i + 4 * j + k) b) m
      else m) l.data }

/-- A staged write of one burst: its words, its mask, its poison; the written burst is present (10 R332, R350). -/
def StageLine.write (l : StageLine) (i mask : Nat) (ws : List Word) (psn : Bool) (now : Count) : StageLine :=
  let m := SMap.get (fun _ => (0 : BitVec 16)) l.wrote i ||| BitVec.ofNat 16 mask
  let b : BitVec 64 := 1#64 <<< i
  { l.put i mask ws with
    wrote := SMap.set (fun _ => 0) l.wrote i m
    present := l.present ||| b
    poison := if psn then l.poison ||| b else if mask % 65536 = 0xFFFF then l.poison &&& ~~~b else l.poison
    st := if l.st = .filling then .filling else .dirty
    last := now }

/-- A fill of one burst: the words that staged writes have not written (10 R351). -/
def StageLine.fill (l : StageLine) (i : Nat) (bs : List Byte) (psn : Bool) : StageLine :=
  let m := SMap.get (fun _ => (0 : BitVec 16)) l.wrote i
  let b : BitVec 64 := 1#64 <<< i
  { l.put i (65535 - m.toNat) (wordsOfBytes bs) with
    poison := if psn && m != 0xFFFF then l.poison ||| b else l.poison }

/-! ### Acceptance at a tap (10 R330) -/

/-- A tap request's fields (10 R329). -/
structure Req where
  stage : Bool
  two   : Bool
  burst : Nat
  job   : JobId
  rflow : BitVec 16
  mask  : Nat
  gpa   : Nat
  va    : Nat

/-- The fields in words `w0` on of a unit. -/
def reqOf (u : MUnit) (o : Nat) : Req :=
  let w (i : Nat) : Nat := (nthWord u.words (o + i)).toNat
  { stage := bit (w 0) 31, two := bit (w 0) 30, burst := bits (w 0) 23 0, job := BitVec.ofNat 12 (bits (w 0) 11 0),
    rflow := BitVec.ofNat 16 (bits (w 1) 15 0), mask := bits (w 1) 31 16, gpa := w 3 * 2 ^ 32 + w 2, va := w 5 * 2 ^ 32 + w 4 }

/-- Bursts a unit asks for. -/
def reqBursts (u : MUnit) : Nat := if u.kind = 1 ∧ (reqOf u 0).two = true then 2 else 1

/-- Whether a unit's payload breaks R329, or names a burst beyond the channel or on a stage page. -/
def State.badReq (s : State) (u : MUnit) : Bool :=
  let o := if u.kind = 1 then 0 else 16
  let w (i : Nat) : Nat := (nthWord u.words (o + i)).toNat
  let r := reqOf u o
  let n := if r.two then 1 else 0
  if u.kind ≠ 1 ∧ u.kind ≠ 2 then true
  else
    bits (w 0) 29 24 != 0 || (u.kind == 1 && r.mask != 0) || (u.kind == 2 && r.two)
      || (if u.kind = 1 then u.words.length != (if r.stage then 6 else 2)
          else u.words.length != 32 || (List.range 16).any fun i => i ≥ (if r.stage then 6 else 2) && w i != 0)
      || (if r.stage then bits (w 0) 23 12 != 0 || r.gpa % 64 != 0 || r.va % 64 != 0 || r.gpa % 4096 / 64 + n ≥ 64
          else decide (chanBursts ≤ r.burst + n) || decide (12288 - s.scPages ≤ (r.burst + n) / 1024))

/-- Record a discard at a tap, and report it to the headstock (10 R330). -/
def State.tapErr (s : State) (kind t : Nat) : State :=
  let s := s.toHeadstock (.tap t)
  if s.fld F.MT_TAPERR_VALID = 1 then s.setFld F.MT_TAPERR_MORE 1
  else (s.evNote R.MT_TAPERR 0x80000000#32).setDev R.MT_TAPERR (BitVec.ofNat 32 (0x80000000 + kind * 2 ^ 28 + t * 2 ^ 12 + s.angle))

/-- Accept a unit in the present cycle, or discard it: 1 `RESERVED`, 2 `OVERRATE`, 3 `BADREQ` (10 R330). -/
def State.acceptUnit (s : State) (t : Nat) (u : MUnit) : State × Bool :=
  let x := s.tap t
  let h := x.hist.filter fun p => decide ((s.now - p.1).toNat < 3)
  let n := (h.map Prod.snd).foldl (· + ·) 0
  if 480 ≤ s.angle % 512 then (s.tapErr 1 t, false)
  else if 5 < n + reqBursts u ∨ h.any (fun p => p.1 == s.now) = true then (s.tapErr 2 t, false)
  else if s.badReq u then (s.tapErr 3 t, false)
  else (s.setTap t { x with hist := (s.now, reqBursts u) :: h, units := x.units + 1, bursts := x.bursts + reqBursts u }, true)

/-- A tap presents a unit at input T of its anchor 112 cycles after the present cycle (10 R331, R334). -/
def State.present (s : State) (t : Nat) (u : MUnit) (ack : Option (BitVec 68)) : State :=
  let x := s.tap t
  s.setTap t { x with rets := x.rets ++ [{ due := s.now + 112, u := u, ack := ack }] }

/-- The tap that a unit at output T of a core is for. A core that anchors several taps has one output T: the unit goes to the tap of a
tap route of the bed whose FLOW is the unit's and whose tap the core anchors; a unit of no such flow to the lowest-numbered (01 R30; log
entry 52). -/
def State.unitTap (s : State) (c : CoreId) (u : MUnit) : Nat :=
  let named := (s.cores.filter fun p => p.2.bed.isSome && p.2.bed == (s.core c).bed).findSome? fun p =>
    (List.range 8).findSome? fun r =>
      let t := bits (p.2.w (R.MESH_TAPRT r)).toNat 8 0
      if bit (p.2.w (R.MESH_TAPRT r)).toNat 31 && bits (p.2.w (R.MESH_TAPFL r)).toNat 15 0 == u.flow.toNat && decide (t < 320) && s.anchor t == c
      then some t else none
  named.getD (s.tapOf c)

/-- The unit a tap takes next at output T of its anchor. -/
def State.tapUnit (s : State) (t : Nat) (p : MUnit → Bool) : Option MeshUnit :=
  match s.unitAt (s.anchor t) .outT with
  | some m => if s.unitTap (s.anchor t) m.u = t ∧ p m.u = true then some m else none
  | none => none

end Sys2Proof.Machine
end

