-- ==== Sys2Proof/Machine/Tier.lean ====
section
/-! DEFINITION. The bonded tier's taps, maintenance windows and remapping, the LPDDR6 tier, the stage cache and the prefetchers
(10 R327 to R356). -/

namespace Sys2Proof.Machine

/-! ### Streams (R352, R353) -/

def State.stream (s : State) (r i : Nat) : Option Stream := SMap.get (fun _ => none) s.streams (16 * r + i)
def State.setStream (s : State) (r i : Nat) (x : Option Stream) : State := { s with streams := SMap.set (fun _ => none) s.streams (16 * r + i) x }

/-- Line `i` of a stream. -/
def Stream.line (x : Stream) (i : Nat) : BitVec 40 :=
  let a (n : Nat) (d : Word) : BitVec 40 := BitVec.ofNat 40 n * d.signExtend 40
  if x.twoD then x.x0 + a (i % Nat.max 1 x.n1.toNat) x.s1 + a (i / Nat.max 1 x.n1.toNat) x.s2 else x.x0 + a i x.s1

/-- The two-dimensional form four lines fit, oldest first, with N1 = 2 or 3 (R352; log entry 12). -/
def form2D (a b c d : BitVec 40) : Option (Word × Word × BitVec 12) :=
  let s (x y : BitVec 40) : Word := (y - x).truncate 32
  if b - a = d - c ∧ a ≠ b ∧ a ≠ c then some (s a b, s a c, 2)
  else if b - a = c - b ∧ a ≠ b ∧ a ≠ d then some (s a b, s a d, 3)
  else none

/-- The linear form of four lines that ends in line `d`, its other three among earlier lines, newest first: its first line and stride
(R352). -/
def formLin (d : BitVec 40) : List (BitVec 40) → Option (BitVec 40 × Word)
  | [] => none
  | c :: rest =>
    let st := d - c
    let older := (rest.dropWhile (· != c - st)).drop 1
    let w : Word := st.truncate 32
    if st ≠ 0 ∧ w.signExtend 40 = st ∧ older.contains (c - st - st) = true then some (c - st - st, w) else formLin d rest

/-- The form of four lines of a job's reads in a pass, the newest first and no line twice: linear, of any four that end in the newest, or
two-dimensional, of the last four. -/
def streamForm (ls : List (BitVec 40)) : Option (BitVec 40 × Bool × Word × Word × BitVec 12) :=
  match ls with
  | [] => none
  | d :: rest =>
    match formLin d rest with
    | some (a, st) => some (a, false, st, 0, 0)
    | none =>
      match rest with
      | c :: b :: a :: _ => (form2D a b c d).map fun (s1, s2, n1) => (a, true, s1, s2, n1)
      | _ => none

/-- The prefetcher to take: a free one, else the one of the lowest CONF, then the one taken earliest (R352). -/
def State.pickStream (s : State) (r : Nat) : Nat :=
  match (List.range 16).find? (fun i => (s.stream r i).isNone) with
  | some i => i
  | none => (List.range 16).foldl (fun b i => match s.stream r i, s.stream r b with
      | some x, some y => if x.conf < y.conf || (x.conf == y.conf && x.taken < y.taken) then i else b
      | _, _ => b) 0

/-- A stager sees an accepted STAGE read of a line: a stream goes on, or four reads make a new one (R352). A read of the line a stream is
at, or of one already seen, changes nothing. -/
def State.seeRead (s : State) (t : Nat) (job : JobId) (l : BitVec 40) : State :=
  let r := t / 16
  let on (i : Nat) : Bool := match s.stream r i with | some x => x.job == job && x.line x.n == l | none => false
  let at_ (i : Nat) : Bool := match s.stream r i with | some x => x.job == job && x.n != 0 && x.line (x.n - 1) == l | none => false
  let h := SMap.get (fun _ => []) s.strHist r
  match (List.range 16).find? on with
  | some i =>
    match s.stream r i with
    | some x => s.setStream r i (some { x with n := x.n + 1, tap := t })
    | none => s
  | none =>
    if (List.range 16).any at_ || h.contains (job, l) then s
    else
      let h := (job, l) :: h
      match streamForm ((h.filter fun p => p.1 == job).map Prod.snd) with
      | some (a, twoD, s1, s2, n1) =>
        let x : Stream := { job := job, twoD := twoD, conf := 0, susp := false, x0 := a, s1 := s1, s2 := s2, n1 := n1, tap := t,
                            n := 4, len := 0, ahead := 0, taken := s.strSeq, kept := false }
        let s := s.setStream r (s.pickStream r) (some x)
        let used (p : JobId × BitVec 40) : Bool := p.1 == job && (List.range 4).any fun i => x.line i == p.2
        { s with strHist := SMap.set (fun _ => []) s.strHist r (h.filter fun p => !used p), strSeq := s.strSeq + 1 }
      | none => { s with strHist := SMap.set (fun _ => []) s.strHist r (h.take 64) }

/-! ### Tap requests (R329 to R335) -/

/-- What reading one bonded burst finds: poison stored with it, or what the code finds (R332, R338, R339). -/
def State.readBonded (s : State) (t b : Nat) (job : Option JobId) (found : EccFound) : State × List Byte × Bool :=
  let a := tapAddr t b
  let bs := s.bytes a 64
  if s.psnAt a then (s, bs, true)
  else match found with
    | .clean => (s, bs, false)
    | .corrected => (s.countCe t (b / 32), bs, false)
    | .uncorrectable => (s.noteUe t b job false, bs, true)

/-- Whether a STAGE read hits: the line CLEAN or DIRTY with the bursts present (R348). -/
def StageLine.hit (l : StageLine) (i n : Nat) : Bool :=
  (l.st == .clean || l.st == .dirty) && (List.range n).all fun j => l.present.getLsbD (i + j)

/-- A unit TAP_DATA. -/
def dataUnit (q : Req) (addr : BitVec 17) (ws : List Word) (poison : BitVec 2) : MUnit :=
  { flow := q.rflow, kind := 3, addr := addr, words := ws, poison := poison }

/-- Whether the stager delivers in the cycle in which a unit accepted now would return: not into the drain guard, but for what a tap accepted
before the guard (08 R286). -/
def State.mayDeliver (s : State) (t : Nat) : Bool := !(s.guarded (s.anchor t) s.now && s.guarded (s.anchor t) (s.now + 112))

/-- A stager presents a unit, if it may deliver it. -/
def State.presentStaged (s : State) (t : Nat) (u : MUnit) (ack : Option (BitVec 68)) : State :=
  if s.mayDeliver t then s.present t u ack else s

/-- What the stack finds as it reads a stage line's bursts from burst `i` on (R338, R339): a burst stored poisoned is neither counted nor
logged again. -/
def State.readStaged (s : State) (t : Nat) (q : Req) (l : StageLine) (i : Nat) (fs : List EccFound) : State :=
  fs.zipIdx.foldl (fun (s : State) (f, j) =>
    if l.poison.getLsbD (i + j) then s
    else match f with
      | .clean => s
      | .corrected => s.countCe t (s.stageBurst l (i + j) / 32)
      | .uncorrectable => s.noteUe t (s.stageBurst l (i + j)) (some q.job) false) s

/-- A STAGE read at a tap (R331, R348; 11 R377): a hit is read from the line; any other presents nothing. -/
def State.stageRead (s : State) (t : Nat) (q : Req) (n : Nat) (addr : BitVec 17) (f0 f1 : EccFound) : State :=
  let s := s.seeRead t q.job (BitVec.ofNat 40 (q.va / 4096))
  let g := s.lineKey q.job q.gpa q.va
  let i := q.gpa / 64 % 64
  match s.lineAt t g with
  | some l =>
    if l.st = .tentative then s.onLine t g fun l => { l with st := .clean, last := s.now }
    else if l.hit i n then
      let s := s.onLine t g fun l => { l with last := s.now }
      let fs := [f0, f1].take n
      let bad (j : Nat) : Bool := l.poison.getLsbD (i + j) || fs[j]? == some .uncorrectable
      let s := s.readStaged t q l i fs
      let ws := (List.range n).flatMap fun j => wordsOfBytes (l.burst (i + j))
      s.presentStaged t (dataUnit q addr ws (BitVec.ofNat 2 (b2n (bad 0) + 2 * b2n (decide (n = 2) && bad 1)))) none
    else s.stageMiss t g q.job q.va false false
  | none => s.stageMiss t g q.job q.va false false

/-- The state in the cycle in which a unit is taken from the mesh. -/
def State.unitTaken (s : State) (m : MeshUnit) : State := ({ s with mesh := s.mesh.erase m } : State).advanceTo m.due

/-- A read of one or two bonded bursts at a tap (R331, R332). -/
def State.bondedRead (s : State) (t : Nat) (q : Req) (n : Nat) (addr : BitVec 17) (f0 f1 : EccFound) : State :=
  let job := (s.tapJob t).map fun j => j.id
  let (s, b0, p0) := s.readBonded t q.burst job f0
  if n = 1 then s.present t (dataUnit q addr (wordsOfBytes b0) (BitVec.ofNat 2 (b2n p0))) none
  else
    let (s, b1, p1) := s.readBonded t (q.burst + 1) job f1
    s.present t (dataUnit q addr (wordsOfBytes (b0 ++ b1)) (BitVec.ofNat 2 (b2n p0 + 2 * b2n p1))) none

/-- TAP_RD: a tap accepts the read request that reaches it, or discards it (R330, R331). -/
def execTapRd (tap : BitVec 9) (ecc ecc2 : EccFound) (s : State) : Out :=
  let t := tap.toNat
  if 320 ≤ t then .refused .illFormed
  else match s.tapUnit t (fun u => u.kind != 2) with
  | none => .next s
  | some m =>
    let s := s.unitTaken m
    let (s, ok) := s.acceptUnit t m.u
    if !ok then .next s
    else
      let q := reqOf m.u 0
      let n := reqBursts m.u
      if q.stage then .next (s.stageRead t q n m.u.addr ecc ecc2)
      else
        .next (s.bondedRead t q n m.u.addr ecc ecc2)

/-- The deferred writes of a line that a fill merges, oldest first (11 R369). -/
def Job.deferredOf (j : Job) (g : BitVec 68) (vline : BitVec 40) : List RemoteWrite :=
  j.deferred.filter fun w => w.modl == lineModule g && w.va.toNat / 4096 == vline.toNat

/-- The words of a burst of which no write and no fill is in a line: of this module's memory its LPDDR6 words, so that what is read is as at
the start of the pass (11 R368); of another module's memory free values, but for the words of deferred writes (log entries 4 and 56). -/
def State.burstUnder (s : State) (l : StageLine) (i : Nat) : List Word :=
  if lineModule l.addr = s.ownModule then wordsOfBytes (s.bytes (lineLocal l.addr + 64 * i) 64)
  else
    let defs := ((s.job l.job).map fun j => (j.deferredOf l.addr l.vline).filter fun w => w.va.toNat / 64 % 64 == i).getD []
    (List.range 16).map fun k => defs.foldl (fun (x : Word) w => if w.mask.getLsbD k then nthWord w.data k else x) (Config.freeWord (s.free + k))

/-- The written line takes a staged write; the words of a burst that the line did not hold, and that the mask leaves out, come from under
it. -/
def State.writeLine (s : State) (t : Nat) (g : BitVec 68) (i mask : Nat) (ws : List Word) (psn : Bool) : State :=
  match s.lineAt t g with
  | none => s
  | some l =>
    let fresh := !l.present.getLsbD i
    let l := if fresh then l.put i (65535 - mask % 65536) (s.burstUnder l i) else l
    let l := if l.st = .dirty then l else { l with since := s.now, units := (s.tap t).units, bursts := (s.tap t).bursts }
    let s := if fresh then { s with free := s.free + 16 } else s
    s.onLine t g fun _ => l.write i mask ws psn s.now

/-- A DIRTY line of this module's memory is written back: its page preserved first, the line CLEAN (R349; 11 R371); what the controller finds
on the way is `e` (R344). -/
def State.writeBack (s : State) (t : Nat) (l : StageLine) (e : LpErrs) : State :=
  let a := lineLocal l.addr
  let s := if lpBase ≤ a then s.preservePage a else s
  let s := s.lineErrs a (l.wrote.map Prod.fst) l.job e
  let s := l.wrote.foldl (fun (s : State) (i, m) =>
    let b := a + 64 * i
    (if lpBase ≤ a then s else s.preserve b).putBurst b m.toNat (wordsOfBytes (l.burst i)) (l.poison.getLsbD i || e.ue.getLsbD i)) s
  s.onLine t l.addr fun l => { l with st := .clean, wrote := [] }

/-- The written bursts of a DIRTY remote line, as deferred writes. -/
def StageLine.deferred (l : StageLine) : List RemoteWrite :=
  l.wrote.map fun (i, m) =>
    { modl := lineModule l.addr, va := BitVec.ofNat 64 (l.vline.toNat * 4096 + 64 * i), mask := m, poison := l.poison.getLsbD i,
      data := wordsOfBytes (l.burst i) }

/-- The deferred writes the module holds. -/
def State.deferredNow (s : State) : Nat := (s.jobs.map fun j => j.deferred.length).foldl (· + ·) 0

/-- Whether a DIRTY line can go to its home now: its channel in service, or room in the deferred-write buffer (R345, R349; 11 R369). -/
def State.mayReturn (s : State) (l : StageLine) : Bool :=
  if lineModule l.addr = s.ownModule then s.lpReady (lineLocal l.addr)
  else (s.job l.job).isSome && decide (s.deferredNow + l.wrote.length ≤ Config.deferredSize)

/-- A DIRTY line goes to its home: into this module's LPDDR6, and becomes CLEAN; or, of another module's page, into the deferred-write
buffer, and becomes INVALID. -/
def State.returnLine (s : State) (t : Nat) (l : StageLine) (e : LpErrs) : State :=
  if lineModule l.addr = s.ownModule then s.writeBack t l e
  else (s.onJob l.job fun j => { j with deferred := j.deferred ++ l.deferred }).dropLine t l.addr

/-- No repeat, correction or error. -/
def LpErrs.none : LpErrs := { ue := 0, ce := 0, rty := 0 }

/-- A stager keeps 2 lines of a channel INVALID or CLEAN: it writes back the least recently used DIRTY line that can go (R349;
DESIGN CHOICE, log entry 56). -/
def State.keepFree (s : State) (t : Nat) : State :=
  let mine := s.lines.filter fun l => l.tap == t
  let busy := (mine.filter fun l => l.st != .clean).length
  if busy + 2 ≤ 16 * s.scPages then s
  else
    match (mine.filter fun l => l.st == .dirty && s.mayReturn l).foldl (fun (b : Option StageLine) l => match b with
        | Option.none => some l
        | some x => if notAfter x.last l.last then b else some l) Option.none with
    | some l => s.returnLine t l LpErrs.none
    | Option.none => s

/-- A STAGE write at a tap (R350): into the channel's line, or into a free one without fetching; with none it writes nothing. The stager
asks the line's home stager to invalidate the other copies; the acknowledgement leaves 112 cycles later if by then every one is INVALID. -/
def State.stageWrite (s : State) (t : Nat) (q : Req) (ws : List Word) (psn : Bool) : State :=
  let g := s.lineKey q.job q.gpa q.va
  let i := q.gpa / 64 % 64
  let vpn : BitVec 36 := BitVec.ofNat 36 (q.va / 65536)
  let s' := match s.lineAt t g with
    | some _ => some s
    | none => (s.freeLine t).map fun (s : State) => s.addLine (s.newLine t g q.job q.va .clean s.now false)
  match s' with
  | none => s
  | some s =>
    let s := s.writeLine t g i q.mask ws psn
    let s := s.onJob q.job fun j => j.write vpn ((j.pte vpn).getLsbD 6 || lineModule g != s.ownModule)
    let r : InvReq := { home := q.gpa / 4096 % 20, tap := t, addr := g }
    let s : State := { s with invs := if s.invs.contains r then s.invs else s.invs ++ [r] }
    (s.presentStaged t (dataUnit q 0x1FFFF [1] 0) (some g)).keepFree t

/-- TAP_WR: a tap accepts the write request that reaches it, or discards it; the old burst of a shadowed page is preserved
(R330, R332, R350; 11 R371). -/
def execTapWr (tap : BitVec 9) (s : State) : Out :=
  let t := tap.toNat
  if 320 ≤ t then .refused .illFormed
  else match s.tapUnit t (fun u => u.kind == 2) with
  | none => .next s
  | some m =>
    let s := s.unitTaken m
    let (s, ok) := s.acceptUnit t m.u
    if !ok then .next s
    else
      let q := reqOf m.u 16
      let psn := m.u.poison.getLsbD 0
      if q.stage then .next (s.stageWrite t q (m.u.words.take 16) psn)
      else
        let a := tapAddr t q.burst
        .next ((s.preserve a).putBurst a q.mask (m.u.words.take 16) psn)

/-- TAP_DATA: 112 cycles after acceptance the tap presents its read data at input T of its anchor, or an acknowledgement if every
other copy of the line is INVALID (R331, R334, R350). -/
def execTapData (tap : BitVec 9) (s : State) : Out :=
  let t := tap.toNat
  if 320 ≤ t then .refused .illFormed
  else match (s.tap t).rets with
  | [] => .next s
  | r :: rest =>
    let s := (s.setTap t { s.tap t with rets := rest }).advanceTo r.due
    match r.ack with
    | none => .next (s.putUnit (s.anchor t) (.inp 5) r.due r.u)
    | some g =>
      if s.lines.any (fun l => l.addr == g && l.tap != t) then .next s
      else .next (s.putUnit (s.anchor t) (.inp 5) r.due r.u)

/-! ### Windows, scrubbing and remapping (R336, R337, R340) -/

/-- The start of refresh window `w` of this revolution, or of the next if that is past (02 R72). -/
def State.windowAt (s : State) (w : Nat) : Count :=
  let a := revStart s.rev + BitVec.ofNat 60 (512 * w + 480)
  if notAfter s.now a then a else a + 4096

/-- The next window 0 of a channel that neither a remapping nor a scrub has used, in or after a revolution (R336). -/
def State.maintAt (s : State) (t : Nat) (r : BitVec 48) : Count :=
  let a := notBefore (s.windowAt 0) (revStart r + 480)
  if (s.tap t).maint = some (a.extractLsb' 12 48) then a + 4096 else a

/-- Window 0 of a channel is used in the present revolution. -/
def State.useMaint (s : State) (t : Nat) : State := s.setTap t { s.tap t with maint := some s.rev }

/-- REFRESH_WINDOW: window `w` begins on every channel: an odd one refreshes every stack, windows 2, 4 and 6 the stacks for which they are in
use; it moves no pattern slot and changes no data (R336). -/
def execRefreshWindow (w : BitVec 3) (s : State) : Out :=
  let s := s.advanceTo (s.windowAt w.toNat)
  .next ((List.range 20).foldl (fun (s : State) n =>
    if bit w.toNat 0 || (w != 0 && s.hotWindows n) then s.setRegion n { s.rgn n with fresh := some s.now } else s) s)

/-- A channel reads its next 16 bursts through the correction path (R337). -/
def State.scrubbed (s : State) (t : Nat) (found : List EccFound) : State :=
  let b0 := (s.tap t).scrub
  let s := found.zipIdx.foldl (fun (s : State) (f, i) =>
    let b := b0 + i
    if s.psnAt (tapAddr t b) then s
    else match f with
      | .clean => s
      | .corrected => s.countCe t (b / 32)
      | .uncorrectable => s.noteUe t b none true) s
  s.setTap t { s.tap t with scrub := (b0 + 16) % chanBursts }

/-- Whether a remapping may take place: one by command in the next window 0; another in the next pass of the bed that anchors the tap, or, if no
bed did, from the next revolution on (R340). -/
def State.remapDue (s : State) (t : Nat) (r : Remap) : Bool := !(r.pass.isSome && r.pass == s.tapPass t)

/-- The first revolution whose window 0 a remapping may take. -/
def Remap.from_ (r : Remap) : BitVec 48 := if r.cmd ∨ r.pass.isSome = true then r.rev else r.rev + 1

/-- The window 0 in which a channel's oldest remapping that is due takes place. -/
def State.remapNext (s : State) (t : Nat) : Option (Remap × Count) :=
  ((s.tap t).remap.find? fun r => s.remapDue t r).map fun r => (r, s.maintAt t r.from_)

/-- PATROL_SCRUB: with SCRUB_EN = 1, in the next window 0 that carries no remapping and no scrub of the channel, it reads 16 bursts through the
correction path (R337). -/
def execPatrolScrub (tap : BitVec 9) (found : List EccFound) (s : State) : Out :=
  let t := tap.toNat
  if 320 ≤ t ∨ found.length ≠ 16 then .refused .illFormed
  else if s.fld F.MT_CTRL_SCRUB_EN = 0 then .next s
  else
    let d := s.maintAt t s.rev
    if ((s.remapNext t).map fun x => x.2 == d).getD false then .next s
    else .next (((s.advanceTo d).useMaint t).scrubbed t found)

/-- MT_RMAP_STAT.LEFT shows the spares of the channel of the last command (R356). -/
def State.showLeft (s : State) : State := s.setFld F.MT_RMAP_STAT_LEFT (s.tap s.rmapTap).spares

/-- RMAP_GO: MT_RMAP_CMD GO schedules the remapping of a row in the next window 0 of its channel (R340). -/
def execRmapGo (p : Path) (v : Word) (s : State) : Out :=
  s.devWrite p R.MT_RMAP_CMD v fun s =>
    let t := bits v.toNat 27 19
    let row := bits v.toNat 18 0
    if v.msb && decide (t < 320) && decide (row < 393216) then
      (({ s with rmapTap := t } : State).wantRemap t row true).showLeft else s

/-- The pending flag and the fewest spares after a remapping (MT_RMAP_STAT, MT_STATUS). -/
def State.remapStat (s : State) (ok : Bool) : State :=
  let s := if s.taps.any (fun x => !x.2.remap.isEmpty) then s else s.setFld F.MT_RMAP_STAT_BUSY 0
  let s := s.setFld F.MT_STATUS_SPARE_MIN (s.taps.foldl (fun n x => Nat.min n x.2.spares) 512)
  let s := (s.evNote R.MT_RMAP_STAT (if ok then 0x40000000#32 else 0x20000000#32)).setFld
    (if ok then F.MT_RMAP_STAT_DONE else F.MT_RMAP_STAT_NOSPARE) 1
  s.showLeft

/-- A row is copied into a spare row and redirected; with no spare the remapping fails (R340). -/
def State.remapped (s : State) (t : Nat) (r : Remap) (found : List EccFound) : State :=
  let x := s.tap t
  let s := s.setTap t { x with remap := x.remap.erase r }
  if x.spares = 0 then (s.elogAdd 0 3 t r.row 0xFFF).remapStat false
  else
    let s := found.zipIdx.foldl (fun (s : State) (f, i) =>
      let b := 32 * r.row + i
      match f with
      | .clean => s
      | .corrected => s.countCe t r.row
      | .uncorrectable => s.setPsnAt (tapAddr t b) true) s
    let x := s.tap t
    let s := s.setTap t { x with spares := x.spares - 1, remaps := if x.remaps.contains r.row then x.remaps else x.remaps ++ [r.row] }
    (s.elogAdd 0 2 t r.row 0xFFF).remapStat true

/-- ROW_REMAP: in window 0 a row is copied through the correction path into a spare row and redirected; one scheduled during a pass
waits for the next pass of the bed that anchors the tap (R340). -/
def execRowRemap (tap : BitVec 9) (found : List EccFound) (s : State) : Out :=
  let t := tap.toNat
  if 320 ≤ t ∨ found.length ≠ 32 then .refused .illFormed
  else match s.remapNext t with
  | none => .next s
  | some (r, d) => .next (((s.advanceTo d).useMaint t).remapped t r found)

/-! ### The stage cache (R346 to R351) -/

/-- Cycles outside the refresh windows before a cycle, and the first cycle before which there are `n`. -/
def freeBefore (d : Nat) : Nat := d / 512 * 480 + Nat.min (d % 512) 480
def freeCycle (n : Nat) : Nat := n / 480 * 512 + n % 480

/-- The first cycle, not before the present one, in which the stager of a tap can have moved `n` bursts since cycle `l.since` in cycles that
the tap's units left it: outside the refresh windows, in cycles that took no unit, and at most 5 bursts in 3 cycles with theirs (R330,
R347; DESIGN CHOICE, log entry 56). -/
def State.roomAt (s : State) (t : Nat) (l : StageLine) (n : Nat) : Count :=
  let x := s.tap t
  let need := Nat.max (((n + (x.bursts - l.bursts)) * 3 + 4) / 5) ((x.units - l.units) + (n + 4) / 5)
  notBefore s.now (BitVec.ofNat 60 (freeCycle (freeBefore l.since.toNat + need)))

/-- Whether a unit reaches a tap before a cycle, so that the stager waits for it (R347). -/
def State.tapTaken (s : State) (t : Nat) (d : Count) : Bool :=
  match s.tapUnit t (fun _ => true) with
  | some m => notAfter m.due d
  | none => false

/-- Put 64 bursts into a line; written bursts and deferred writes take precedence; the line is then confirmed (R348, R351; 11 R369,
R377). -/
def State.fillLine (s : State) (t : Nat) (l : StageLine) (bursts : List (List Byte × Bool)) : State :=
  let l' := bursts.zipIdx.foldl (fun (l : StageLine) ((bs, p), i) => l.fill i bs p) l
  let defs := match s.job l.job with | some j => j.deferredOf l.addr l.vline | none => []
  let l' := defs.foldl (fun (l : StageLine) w =>
    let i := w.va.toNat / 64 % 64
    let m := w.mask.toNat &&& (65535 - (SMap.get (fun _ => (0 : BitVec 16)) l.wrote i).toNat)
    { l.put i m w.data with poison := if w.poison then l.poison ||| (1#64 <<< i) else l.poison }) l'
  s.onLine t l.addr fun _ => { l' with present := 0xFFFFFFFFFFFFFFFF
                                       st := if l'.wrote.isEmpty then (if l.forNext then .tentative else .clean) else .dirty }

/-- Whether a page was named in a summary received, so that a fill completing now is discarded (11 R379). -/
def State.refuted (s : State) (l : StageLine) : Bool :=
  match s.job l.job with
  | some j => (j.st == .flush || j.st == .flushed || j.st == .named) &&
      j.sums.any fun (m, ps) => m != s.ownModule && ps.contains (BitVec.ofNat 36 (l.vline.toNat / 16))
  | none => false

/-- A fill from this module's LPDDR6 completes (R344, R348). -/
def State.fillLocal (s : State) (t : Nat) (l : StageLine) (e : LpErrs) : State :=
  let a := lineLocal l.addr
  let s' := s.lineErrs a (List.range 64) l.job e
  s'.fillLine t l ((List.range 64).map fun i => (s.bytes (a + 64 * i) 64, s.psnAt (a + 64 * i) || e.ue.getLsbD i))

/-- The FILL_DATA that answers the FILL of a line, on context `n`: of the FILLs of the virtual line on the context, the packets answer the
oldest first (12 R411, R419). -/
def State.fillData (s : State) (n : Nat) (l : StageLine) : Option (FillReq × Packet) :=
  let ps := (s.ctx n).rx.filter fun p => p.op == 4 && p.addr.toNat / 4096 == l.vline.toNat
  ((s.fills.filter fun f => f.ctx == n && f.vline == l.vline).zip ps).find? fun x => x.1.live && x.1.tap == l.tap

/-- A fill with the FILL_DATA `p` of the line's home, the answer to FILL `f`, completes (12 R419). -/
def State.fillRemote (s : State) (t : Nat) (l : StageLine) (n : Nat) (f : FillReq) (p : Packet) : State :=
  let s := ({ s with fills := s.fills.erase f } : State).setCtx n { s.ctx n with rx := (s.ctx n).rx.erase p }
  if s.refuted l then s.dropLine t l.addr
  else
    let at_ (i : Nat) : Nat := (i + 64 - l.first.toNat) % 64
    s.fillLine t l ((List.range 64).map fun i => ((p.data.drop (64 * at_ i)).take 64, p.aux.getLsbD i))

/-- STAGE_FILL: the fill of a FILLING line completes, in the cycles its tap leaves free: from this module's LPDDR6, where `e` says what the
controller finds, or from the FILL_DATA that its home has sent (R344, R345, R347, R348; 12 R419). -/
def execStageFill (tap : BitVec 9) (line : BitVec 68) (e : LpErrs) (s : State) : Out :=
  let t := tap.toNat
  if 320 ≤ t then .refused .illFormed
  else match s.lineAt t line with
  | none => .next s
  | some l =>
    let d := s.roomAt t l 64
    if l.st ≠ .filling ∨ s.tapTaken t d = true then .next s
    else if lineModule line = s.ownModule then
      if !s.lpReady (lineLocal line) then .next s
      else if s.refuted l then .next (s.dropLine t line)
      else
        .next ((s.advanceTo d).fillLocal t l e)
    else
      -- a FILL_DATA of the line, on the PEER context of its home
      match s.peerOf l.job (lineModule line) with
      | none => .next s
      | some n =>
        match s.fillData n l with
        | none => .next s
        | some (f, p) => .next ((s.advanceTo d).fillRemote t l n f p)

/-- A written line takes the words that only another copy `x` of it had written, and the bursts that only that copy held (R350; log entry
13). -/
def StageLine.merge (l x : StageLine) : StageLine :=
  x.wrote.foldl (fun (l : StageLine) (i, m) =>
    let own := (SMap.get (fun _ => (0 : BitVec 16)) l.wrote i)
    let w := m &&& ~~~own
    let b : BitVec 64 := 1#64 <<< i
    { l.put i (if l.present.getLsbD i then w.toNat else 65535) (wordsOfBytes (x.burst i)) with
      wrote := SMap.set (fun _ => 0) l.wrote i (own ||| m)
      present := l.present ||| b
      poison := if x.poison.getLsbD i && w != 0 then l.poison ||| b else l.poison }) l

/-- The other copies of a written line become INVALID (R350); a fill of one is discarded (R351). -/
def State.invalidate (s : State) (t : Nat) (line : BitVec 68) : State :=
  let other (x : StageLine) : Bool := x.addr == line && x.tap != t
  (s.dropLines other).onLine t line fun l => (s.lines.filter other).foldl StageLine.merge l

/-- STAGE_INVALIDATE: the home stager carries out the request of a written line's stager: every other copy on the module becomes INVALID;
words that only a dropped copy had written pass to the written line, so that the module's own latest writes stand (R350; 11 R368; log
entry 13). -/
def execStageInvalidate (tap : BitVec 9) (line : BitVec 68) (s : State) : Out :=
  let t := tap.toNat
  if 320 ≤ t then .refused .illFormed
  else match s.invs.find? (fun r => r.tap == t && r.addr == line) with
  | none => .next s
  | some r => .next (({ s with invs := s.invs.erase r } : State).invalidate t line)

/-- STAGE_WRITEBACK: a DIRTY line goes to its home, read in the cycles its tap leaves free: into this module's LPDDR6, its page preserved
first, and becomes CLEAN; or, of another module's page, into the deferred-write buffer, if that has room, and becomes INVALID (R344, R345,
R347, R349, R350; 11 R369, R371). -/
def execStageWriteback (tap : BitVec 9) (line : LpWrite) (s : State) : Out :=
  let t := tap.toNat
  if 320 ≤ t then .refused .illFormed
  else match s.lineAt t line.line with
  | none => .next s
  | some l =>
    let d := s.roomAt t l l.wrote.length
    if l.st ≠ .dirty ∨ s.tapTaken t d = true ∨ s.mayReturn l = false then .next s
    else .next ((s.advanceTo d).returnLine t l line.errs)

/-! ### LPDDR6 channels (R345) -/

/-- Whether the LPDDR6 channels of a job's bytes [va, va + n) are in service. -/
def State.rangeUp (s : State) (j : Job) (va n : Nat) : Bool :=
  (List.range ((va + n - 1) / 65536 + 1 - va / 65536)).all fun i => s.lpReady (pteFrame (j.pte (BitVec.ofNat 36 (va / 65536 + i))))


/-- LP_RETRAIN: a write starts the retraining of channels: their LP_TRAINED bits become 0 (R345). -/
def execLpRetrain (p : Path) (v : Word) (s : State) : Out :=
  s.devWrite p R.LP_RETRAIN v fun s =>
    (s.setDev R.LP_RETRAIN (s.devW R.LP_RETRAIN ||| v)).setDev R.LP_TRAINED (s.devW R.LP_TRAINED &&& ~~~v)

/-- LP_RETRAIN_DONE: a channel is back in service (R345). -/
def execLpRetrainDone (ch : BitVec 5) (s : State) : Out :=
  let b : Word := 1#32 <<< ch.toNat
  if s.devW R.LP_RETRAIN &&& b = 0 then .next s
  else .next ((s.setDev R.LP_RETRAIN (s.devW R.LP_RETRAIN &&& ~~~b)).setDev R.LP_TRAINED (s.devW R.LP_TRAINED ||| b))

/-! ### Prefetching (R353; 11 R360, R380) -/

/-- The entry a stager or the fabric complex translates with, from its cache or its walk of the replica in a stack; the walk's entry is kept,
of `size` entries the oldest dropped (11 R360). -/
def cacheXlate (cache : List TEnt) (size stack : Nat) (j : Job) (vpn : BitVec 36) : List TEnt × BitVec 64 :=
  match cache.find? (fun e => e.job == j.id && e.vpn == vpn) with
  | some e => (cache, e.entry)
  | none =>
    let e := j.walk stack vpn
    ((cache.drop (cache.length + 1 - size)) ++ [{ job := j.id, vpn := vpn, entry := e }], e)

/-- Lines ahead by CONF (R353). -/
def depthOf (conf : Nat) : Nat := [0, 0, 2, 4, 8, 16, 32].getD conf 32

/-- The line of its stream that a prefetcher fetches next: of the pass, or after its last request of the next pass; none where CONF
allows none (R353). -/
def Stream.ahead_ (x : Stream) : Option Nat :=
  let i := Nat.max x.ahead x.n
  let ok := if x.len ≤ x.n then decide (x.len ≤ i) && decide (i - x.len < depthOf x.conf)
    else decide (i < Nat.min (x.n + depthOf x.conf) x.len)
  if x.conf < 2 ∨ x.susp = true ∨ ok = false then none else some i

/-- The prefetcher of stream `n` of region `r` fetches line `i` (R353; 11 R360, R377, R380). -/
def State.prefetch (s : State) (r n : Nat) (x : Stream) (j : Job) (i : Nat) : State :=
  let next := decide (x.len ≤ x.n)
  let vline := x.line (if next then i - x.len else i)
  let vpn : BitVec 36 := BitVec.ofNat 36 (vline.toNat / 16)
  let (c, e) := cacheXlate (SMap.get (fun _ => []) s.stgX r) 256 r j vpn
  if (pteFault e false).isSome then (s.setStream r n (some { x with susp := true })).toHeadstock (.xlate j.id vpn false none)
  else
    let s := { s with stgX := SMap.set (fun _ => []) s.stgX r c }
    let s := s.setStream r n (some { x with ahead := i + 1 })
    let va := vline.toNat * 4096
    let local_ := pteFrame e + va % 65536
    let g := s.lineKey j.id ((pteModule e).toNat * 2 ^ 48 + local_ % 2 ^ 48) va
    -- a page in this module's bonded tier is not staged
    if pteModule e = s.ownModule ∧ local_ < bondedEnd then s
    else if (s.lineAt x.tap g).isSome then s
    else (s.stageMiss x.tap g j.id va next true).keepFree x.tap

/-- PREFETCH_FETCH: a prefetcher fetches the next line ahead of its stream, or, after the last request of the pass, the first lines
for the next pass, held TENTATIVE; a translation fault suspends the stream (R353; 11 R377, R380). -/
def execPrefetchFetch (region : BitVec 5) (stream : BitVec 4) (s : State) : Out :=
  let r := region.toNat
  if 20 ≤ r then .refused .illFormed
  else match s.stream r stream.toNat with
  | none => .next s
  | some x =>
    match s.job x.job with
    | none => .next s
    | some j =>
      match x.ahead_ with
      | none => .next s
      | some i => if s.fld F.MT_CTRL_PF_EN = 0 then .next s else .next (s.prefetch r stream.toNat x j i)

/-! ### The error log (R356) -/

/-- A read of MT_ELOG_LO on a path removes the oldest entry and latches MT_ELOG_HI. -/
def State.readElog (s : State) (p : Path) : State × Word :=
  let e := (s.elog.head?).getD 0
  let l := SMap.get (fun _ => Latch.none) s.latches (pathKey p)
  let l : Latch := { l with rpair := some R.MT_ELOG_LO, rdata := [(e >>> 32).truncate 32] }
  ({ s with elog := s.elog.drop 1, latches := SMap.set (fun _ => Latch.none) s.latches (pathKey p) l }, e.truncate 32)

/-- ELOG_READ: a read of MT_ELOG_LO (R356). -/
def execElogRead (p : Path) (s : State) : Out :=
  let (s, w) := s.readElog p
  .next (s.answer p false w)

end Sys2Proof.Machine
end

