-- ==== Sys2Proof/Machine/Dtab.lean ====
section
/-! DEFINITION. The distance table and the bed digest (01 R32 to R37; 15 R484). -/

namespace Sys2Proof.Machine

/-- EX, SX and BW of a core's entry (R34). -/
def State.dtabFlags (s : State) (n : CoreId) : Nat :=
  let c := s.lcol n
  let y := s.lrow n
  let east : CoreId := n + 1
  let south : CoreId := n + BitVec.ofNat 12 s.L
  let ex := decide (c + 1 < s.L) && s.linkCost n east == 3
  let sx := decide (y < 39) && s.linkCost n south == 3
  let bw := decide (0 < c) && decide (1 < s.pcol c y - s.pcol (c - 1) y)
  b2n ex + 2 * b2n sx + 4 * b2n bw

/-- Hops and crossings of the X-then-Y route (R36). -/
def State.routeHops (s : State) (a b : CoreId) : Nat := absDiff (s.lcol a) (s.lcol b) + absDiff (s.lrow a) (s.lrow b)
def State.routeCross (s : State) (a b : CoreId) : Nat := (s.meshCost a b - s.routeHops a b) / 2

/-- A core's entry (R34). -/
def State.dtabEntry (s : State) (n : CoreId) : List Byte :=
  let tap (k : Nat) : CoreId := s.anchor (16 * s.region n + k)
  leBytes 2 n.toNat ++ leBytes 1 (s.px n) ++ leBytes 1 (s.lrow n) ++ leBytes 1 (s.region n) ++ leBytes 1 (s.dtabFlags n) ++ leBytes 2 0
    ++ ((List.range 16).flatMap fun k => leBytes 1 (s.routeHops n (tap k)))
    ++ (List.range 8).flatMap fun k => leBytes 1 (s.routeCross n (tap (2 * k)) % 16 + 16 * (s.routeCross n (tap (2 * k + 1)) % 16))

/-- A tap's record (R35). -/
def State.dtabTap (s : State) (t : Nat) : List Byte :=
  let a := s.anchor t
  let at_ := s.px a == tapCol t && s.lrow a == tapRow t
  leBytes 2 t ++ leBytes 1 (tapCol t) ++ leBytes 1 (tapRow t) ++ leBytes 2 a.toNat ++ leBytes 1 (t / 16) ++ leBytes 1 (b2n at_)

/-- The table's LENGTH (R33). -/
def State.dtabLen (s : State) : Nat := 64 + 32 * (40 * s.L) + 8 * 320

/-- The table as of a generation (R33 to R35). -/
def State.dtab (s : State) : List Byte :=
  let n := 40 * s.L
  let head := leBytes 4 0x42415444 ++ leBytes 2 1 ++ leBytes 2 32 ++ leBytes 4 s.hs.dtabGen.toNat ++ leBytes 2 s.L ++ leBytes 2 40 ++ leBytes 2 n
    ++ leBytes 2 320 ++ leBytes 4 64 ++ leBytes 4 (64 + 32 * n) ++ leBytes 4 s.dtabLen ++ List.replicate 28 (0 : Byte)
  let body := ((List.range n).flatMap fun i => s.dtabEntry (BitVec.ofNat 12 i)) ++ (List.range 320).flatMap s.dtabTap
  head ++ leBytes 4 (crc32 (head ++ leBytes 4 0 ++ body)).toNat ++ body

/-- Publish the table: GENERATION counts up, and the table is written into its pages (R33, R37). -/
def State.publishDtab (s : State) : State :=
  let s : State := { s with hs := { s.hs with dtabGen := s.hs.dtabGen + 1 } }
  let b := s.dtab
  (s.setBytes (dtabPage 0) (b.take 65536)).setBytes (dtabPage 1) (b.drop 65536)

/-- The bed digest (15 R484): the FLAGS of the bed's cores, then the taps anchored in it with their anchors' bed-relative numbers. -/
def State.bedDigest (s : State) (ox oy w h : Nat) : Word :=
  let cores := (List.range (w * h)).map fun i =>
    let c := i % w
    let y := i / w
    let f := s.dtabFlags (BitVec.ofNat 12 ((oy + y) * s.L + ox + c))
    BitVec.ofNat 8 ((if c + 1 = w then 0 else f % 2) + 2 * (if y + 1 = h then 0 else f / 2 % 2))
  let taps := (List.range 320).flatMap fun t =>
    let a := s.anchor t
    let c := s.lcol a
    let y := s.lrow a
    if ox ≤ c ∧ c < ox + w ∧ oy ≤ y ∧ y < oy + h then leBytes 2 t ++ leBytes 2 ((y - oy) * w + (c - ox)) else []
  crc32 (cores ++ taps)

end Sys2Proof.Machine
end

