-- ==== Sys2Proof/Machine/Memory.lean ====
section
/-! DEFINITION. Loads, stores, the data stack, vector loads and stores, and CONSUME (03 R92 to R95; 04 R143 to R145, R155;
07 R248, R249, R253, R254). -/

namespace Sys2Proof.Machine

/-- What a load does with the words it reads: the register it writes, ready `n` slots after the present cycle. -/
def loadFinish (c : CoreId) (t : Thr) (n : Nat) (i : Instr) (s : State) : State :=
  let k := s.core c
  let x := k.th t
  let byte (a : Nat) : Byte := k.spByte a
  let half (a : Nat) : BitVec 16 := k.spByte (a + 1) ++ k.spByte a
  match i with
  | .ldw _ _ d a off => s.putG c t d (k.spWord (wordAddr (x.gr a) off)) n
  | .ldh _ _ d a off => s.putG c t d ((half (byteAddr (x.gr a) off)).signExtend 32) n
  | .ldhu _ _ d a off => s.putG c t d ((half (byteAddr (x.gr a) off)).zeroExtend 32) n
  | .ldb _ _ d a off => s.putG c t d ((byte (byteAddr (x.gr a) off)).signExtend 32) n
  | .ldbu _ _ d a off => s.putG c t d ((byte (byteAddr (x.gr a) off)).zeroExtend 32) n
  | .lds _ _ d off => s.putG c t d (k.spWord (x.dsp.toNat + off.toNat)) n
  | .pop _ _ d => (s.putG c t d (k.spWord x.dsp.toNat) n).onTh c t fun x => { x with dsp := x.dsp + 1 }
  | .vld _ _ d a off => s.putV c t d (BitVec.ofNat 512 (ofLe (bytesOfWords (k.spRange (wordAddr (x.gr a) (some off)) 16)))) n
  | .vldbc _ _ d a off =>
    s.putV c t d (BitVec.ofNat 512 (ofLe (bytesOfWords (List.replicate 16 (k.spWord (wordAddr (x.gr a) (some off))))))) n
  | _ => s

/-- Read the words of a span, checking parity and poison (07 R248, R249), and finish the load. -/
def loadChecked (c : CoreId) (t : Thr) (n : Nat) (i : Instr) (w len : Nat) (s : State) : Res :=
  match (s.core c).firstBad ((List.range len).map (w + ·)) with
  | some (b, code) => .fault (s.spErr c 0 t 0 b) code (BitVec.ofNat 8 (bankOf b)) (BitVec.ofNat 32 (4 * b))
  | none => .seq (loadFinish c t n i s)

/-- A load that a guarded line has woken finishes in the present cycle with the words `vs` of the span from `w` that it read in its grant
cycle (07 R254): they stand in the scratchpad for the load alone. -/
def loadGranted (c : CoreId) (t : Thr) (i : Instr) (w : Nat) (vs : List (Word × Option Byte)) (s : State) : Res :=
  match vs.zipIdx.findSome? fun (v, j) => v.2.map fun code => (w + j, code) with
  | some (b, code) => .fault (s.spErr c 0 t 0 b) code (BitVec.ofNat 8 (bankOf b)) (BitVec.ofNat 32 (4 * b))
  | none =>
    let k := s.core c
    .seq ((loadFinish c t 0 i (s.setCore c (k.setSpWords w (vs.map Prod.fst)))).onCore c fun k' => { k' with sp := k.sp, spPar := k.spPar })

/-- A load of a span in range: it waits on an invalid guarded line, or one that becomes valid in the issue cycle (07 R254, R255), else
reads. -/
def load (c : CoreId) (t : Thr) (i : Instr) (s : State) : Res :=
  match loadSpan (s.th c t) i with
  | none => .seq s
  | some (w, len) =>
    match (s.core c).heldLine s.now w len with
    | some l => .wait s 5 (16 * l)
    | none => loadChecked c t 1 i w len s

/-- The range check of a span of words (03 R93, 04 R155). DESIGN CHOICE (log entry 50): FADDR is the byte address of the span's first word
out of range. -/
def rangeFault (s : State) (w len : Nat) : Option Res :=
  if spWords < w + len then some (.fault s 0x03 0 (BitVec.ofNat 32 (4 * Nat.max w spWords))) else none

/-- Checks of a sub-word access at a byte address: range, then alignment of a half-word (03 R93). -/
def subFault (s : State) (a : Nat) (half : Bool) : Option Res :=
  if spWords ≤ a / 4 then some (.fault s 0x03 0 (BitVec.ofNat 32 a))
  else if half && a % 2 == 1 then some (.fault s 0x04 0 (BitVec.ofNat 32 a))
  else none

/-- The data-stack check of an access at or above DSP (03 R95): underflow at DSHI and above. DESIGN CHOICE (log entry 50): DSP is no base
register in the sense of R94, so DSP plus the offset does not wrap before the check; FADDR holds the sum modulo 2^17. -/
def stackFault (c : CoreId) (t : Thr) (s : State) (w : Nat) : Option Res :=
  if (s.core c).dshi t ≤ w then some (.fault s 0x08 1 (BitVec.ofNat 32 (w % 2 ^ 17))) else rangeFault s w 1

/-- LDW: a word load (R92). -/
def execLdw (c : CoreId) (t : Thr) (gd ga : Reg) (off : Option (BitVec 14)) (s : State) : Out :=
  issue c t (.ldw c t gd ga off) (fun s =>
    (rangeFault s (wordAddr ((s.th c t).gr ga) off) 1).getD (load c t (.ldw c t gd ga off) s)) s

/-- LDH: a sign-extended half-word load (R92). -/
def execLdh (c : CoreId) (t : Thr) (gd ga : Reg) (off : Option (BitVec 14)) (s : State) : Out :=
  issue c t (.ldh c t gd ga off) (fun s =>
    (subFault s (byteAddr ((s.th c t).gr ga) off) true).getD (load c t (.ldh c t gd ga off) s)) s

/-- LDHU: a zero-extended half-word load (R92). -/
def execLdhu (c : CoreId) (t : Thr) (gd ga : Reg) (off : Option (BitVec 14)) (s : State) : Out :=
  issue c t (.ldhu c t gd ga off) (fun s =>
    (subFault s (byteAddr ((s.th c t).gr ga) off) true).getD (load c t (.ldhu c t gd ga off) s)) s

/-- LDB: a sign-extended byte load (R92). -/
def execLdb (c : CoreId) (t : Thr) (gd ga : Reg) (off : Option (BitVec 14)) (s : State) : Out :=
  issue c t (.ldb c t gd ga off) (fun s =>
    (subFault s (byteAddr ((s.th c t).gr ga) off) false).getD (load c t (.ldb c t gd ga off) s)) s

/-- LDBU: a zero-extended byte load (R92). -/
def execLdbu (c : CoreId) (t : Thr) (gd ga : Reg) (off : Option (BitVec 14)) (s : State) : Out :=
  issue c t (.ldbu c t gd ga off) (fun s =>
    (subFault s (byteAddr ((s.th c t).gr ga) off) false).getD (load c t (.ldbu c t gd ga off) s)) s

/-- LDS: load the data-stack word at DSP plus an unsigned offset (R95, R145). -/
def execLds (c : CoreId) (t : Thr) (gd : Reg) (off : BitVec 14) (s : State) : Out :=
  issue c t (.lds c t gd off) (fun s =>
    (stackFault c t s ((s.th c t).dsp.toNat + off.toNat)).getD (load c t (.lds c t gd off) s)) s

/-- POP: load the word at DSP and raise DSP (R95). -/
def execPop (c : CoreId) (t : Thr) (gd : Reg) (s : State) : Out :=
  issue c t (.pop c t gd) (fun s => (stackFault c t s (s.th c t).dsp.toNat).getD (load c t (.pop c t gd) s)) s

/-- VLD: load 16 words (R155). -/
def execVld (c : CoreId) (t : Thr) (vd ga : Reg) (off : BitVec 14) (s : State) : Out :=
  issue c t (.vld c t vd ga off) (fun s =>
    (rangeFault s (wordAddr ((s.th c t).gr ga) (some off)) 16).getD (load c t (.vld c t vd ga off) s)) s

/-- VLDBC: load one word into all 16 words (R155). -/
def execVldbc (c : CoreId) (t : Thr) (vd ga : Reg) (off : BitVec 14) (s : State) : Out :=
  issue c t (.vldbc c t vd ga off) (fun s =>
    (rangeFault s (wordAddr ((s.th c t).gr ga) (some off)) 1).getD (load c t (.vldbc c t vd ga off) s)) s

/-- STW: store a word; full-word stores are not checked for parity (R92, R248). -/
def execStw (c : CoreId) (t : Thr) (gs ga : Reg) (off : Option (BitVec 14)) (s : State) : Out :=
  issue c t (.stw c t gs ga off) (fun s =>
    let x := s.th c t
    let w := wordAddr (x.gr ga) off
    (rangeFault s w 1).getD (.seq (s.onCore c fun k => k.setSpWord w (x.gr gs)))) s

/-- A sub-word store of the low `n` bytes of a register at a byte address: it reads the rest of its word (07 R248). -/
def storeBytes (c : CoreId) (t : Thr) (a n : Nat) (v : Word) (s : State) : Res :=
  match (s.core c).readFault (a / 4) with
  | some code =>
    .fault (s.spErr c 0 t 0 (a / 4)) code (BitVec.ofNat 8 (bankOf (a / 4))) (BitVec.ofNat 32 (4 * (a / 4)))
  | none => .seq (s.onCore c fun k => (List.range n).foldl (fun k i => k.setSpByte (a + i) (v.extractLsb' (8 * i) 8)) k)

/-- STH: store a half-word (R92). -/
def execSth (c : CoreId) (t : Thr) (gs ga : Reg) (off : Option (BitVec 14)) (s : State) : Out :=
  issue c t (.sth c t gs ga off) (fun s =>
    let x := s.th c t
    let a := byteAddr (x.gr ga) off
    (subFault s a true).getD (storeBytes c t a 2 (x.gr gs) s)) s

/-- STB: store a byte (R92). -/
def execStb (c : CoreId) (t : Thr) (gs ga : Reg) (off : Option (BitVec 14)) (s : State) : Out :=
  issue c t (.stb c t gs ga off) (fun s =>
    let x := s.th c t
    let a := byteAddr (x.gr ga) off
    (subFault s a false).getD (storeBytes c t a 1 (x.gr gs) s)) s

/-- STS: store to the data-stack word at DSP plus an unsigned offset (R95, R145). -/
def execSts (c : CoreId) (t : Thr) (gs : Reg) (off : BitVec 14) (s : State) : Out :=
  issue c t (.sts c t gs off) (fun s =>
    let x := s.th c t
    let w := x.dsp.toNat + off.toNat
    (stackFault c t s w).getD (.seq (s.onCore c fun k => k.setSpWord w (x.gr gs)))) s

/-- PUSH: lower DSP and store there (R95). -/
def execPush (c : CoreId) (t : Thr) (gs : Reg) (s : State) : Out :=
  issue c t (.push c t gs) (fun s =>
    let x := s.th c t
    if x.dsp.toNat < (s.core c).dslo t + 1 then .fault s 0x08 0 ((x.dsp - 1).zeroExtend 32)
    else
      let w := x.dsp.toNat - 1
      (rangeFault s w 1).getD (.seq ((s.onCore c fun k => k.setSpWord w (x.gr gs)).onTh c t fun x => { x with dsp := x.dsp - 1 })))
    s

/-- VST: store 16 words; where they are exactly a line its poison bit clears (R155, R341). -/
def execVst (c : CoreId) (t : Thr) (vs ga : Reg) (off : BitVec 14) (s : State) : Out :=
  issue c t (.vst c t vs ga off) (fun s =>
    let x := s.th c t
    let w := wordAddr (x.gr ga) (some off)
    (rangeFault s w 16).getD (.seq (s.onCore c fun k =>
      let k := k.setSpWords w ((List.range 16).map fun i => (x.vr vs).extractLsb' (32 * i) 32)
      if w % 16 = 0 then k.setPsn (lineOf w) false else k))) s

/-- CONSUME: clear a valid line of an enabled region and return 64 bytes of credit (R253); it comes before a commit of its cycle (R255). -/
def execConsume (c : CoreId) (t : Thr) (r : Reg) (s : State) : Out :=
  issue c t (.consume c t r) (fun s =>
    let k := s.core c
    let l := lineOf (wordAddr ((s.th c t).gr r) none)
    match k.regionOf l with
    | some n => if k.isValid l && !(k.justSet s.now).contains l then .seq (s.setCore c ((k.setValid l false).addCredit n 64)) else .seq s
    | none => .seq s) s

end Sys2Proof.Machine
end

