-- ==== Sys2Proof/Machine/ThreadOps.lean ====
section
/-! DEFINITION. Thread and core resets, starts, and the end of a wait: what instructions, registers and the headstock share
(03 R86, R107 to R120; 06 R203; 07 R272; 08 R287, R294; 09 R322; 19 R550). -/

namespace Sys2Proof.Machine

/-- Trace a change of flags 62 and 63, which hardware keeps, and wake the threads it satisfies (03 R128). -/
def Core.hwFlags (k : Core) (c : CoreId) (now : Count) (old : BitVec 64) : Core :=
  let k := [62, 63].foldl (fun (k : Core) n =>
    if k.flagWord.getLsbD n = old.getLsbD n then k else k.traceAt now 7 0 (2 * n + b2n (k.flagWord.getLsbD n)) 0) k
  k.wakeFlags c now

/-! ### The end of a wait (R107 to R113) -/

/-- Whether a wait honours the timer: all but a guarded line and an MSEND's (R109, 09 R320). -/
def Thread.timed (x : Thread) : Bool := x.wkind != 5 && !(x.wkind == 4 && bit x.wobj 4)

/-- A thread in WAIT leaves it; its next instruction issues in slot `d`. -/
def Thread.leaveWait (x : Thread) (d : Count) : Thread :=
  { x with state := .run, waits := false, waiting := none, wake := none, waiton := 0, wcount := 0, next := d }

/-- The register a wait's status is written to (R109, 09 R313). -/
def statusReg : Instr → Option Reg
  | .waitf _ _ gd _ _ | .waitb _ _ gd _ | .lock _ _ gd _ | .mrecv _ _ gd _ => some gd
  | .msend _ _ _ _ gb _ => some gb
  | _ => none

/-- The waiting instruction completes with its status in slot `d`, the present cycle (R108, R109; 07 R254; 09 R317). -/
def State.completeWait (s : State) (c : CoreId) (t : Thr) (i : Instr) (status : Word) (d : Count) : State :=
  let got := SMap.get (fun _ => []) (s.core c).gots t.toNat
  let s := (s.trace c 4 t 0 status.toNat).onCore c fun k =>
    let k : Core := { k with gots := SMap.set (fun _ => []) k.gots t.toNat [] }
    let k := if (k.th t).wkind = 3 then { k with lockq := (k.lockq.map fun p => (p.1, p.2.filter fun w => w ≠ t)).filter fun p => !p.2.isEmpty } else k
    k.onTh t fun x => x.leaveWait d
  let pc := (s.th c t).pc
  let next (s : State) : State := s.onTh c t fun x => x.loopEnd x.pc (instrLen i)
  match i with
  | .mrecv _ _ gd conn =>
    if status ≠ 0 then next (s.putG c t gd status 0)
    else
      let k := s.core c
      let r := (k.cnRing conn).toNat
      (match k.takeMsg r t d conn with
      | none => s.takeTrap c t pc 0x10 6 (BitVec.ofNat 32 (hdrHandler (k.hdr (k.rgHead r))))
      | some (k, addr, target) =>
        let s := ((s.setCore c k).putG c t gd 0 0).putG c t (gd + 1) (BitVec.ofNat 32 addr) 0
        s.onTh c t fun x => { x with rs := (pc + 2) :: x.rs, pc := target })
  | _ =>
    match statusReg i with
    | some gd => next (s.putG c t gd status 0)
    | none =>
      match loadSpan (s.th c t) i with
      | none => next s
      | some (w, len) =>
        match (if got.isEmpty then loadChecked c t 0 i w len s else loadGranted c t i w got s) with
        | .fault s code detail faddr => s.takeTrap c t pc code detail faddr
        | .seq s => next s
        | _ => s

/-- The revolution at whose angle 0 the watchdog of a wait expires (R112, 02 R75). -/
def State.wdogRev (s : State) (c : CoreId) (t : Thr) : BitVec 48 :=
  let x := s.th c t
  (s.restOf c).expiry x.wrev (x.wlimit - x.wcount.toNat)

/-- The watchdog's count so far: the whole working revolutions of the wait. -/
def Thread.wdogCount (x : Thread) (r : Rest) (rev : BitVec 48) : Nat :=
  if !x.inWait then 0
  else if x.state == .wait && revNotAfter (x.wrev + 1) rev then
    Nat.min 0xFFFF (x.wcount.toNat + ((rev - x.wrev).toNat - 1 - r.between x.wrev rev))
  else x.wcount.toNat

/-- A waiting thread is frozen or stopped: its count stands, the present revolution not counted (R112). -/
def Thread.pauseWait (x : Thread) (r : Rest) (rev : BitVec 48) : Thread :=
  if x.state = .wait then { x with wcount := BitVec.ofNat 16 (x.wdogCount r rev) } else x

/-- A thread in RUN or WAIT enters FROZEN, its wait held (11 R384); one in DEBUG stop stays there (19 R553). -/
def Thread.freeze (x : Thread) (r : Rest) (rev : BitVec 48) : Thread :=
  if x.state = .run ∨ x.state = .wait then { (x.pauseWait r rev) with state := .frozen, waits := x.state == .wait } else x

/-- A frozen or stopped wait resumes in the present cycle: its watchdog counts from here, and its condition is evaluated afresh;
a timer that fired meanwhile ends it with `TIMER` (11 R387, 19 R548). -/
def Core.resumeWait (k : Core) (c : CoreId) (t : Thr) (now : Count) : Core :=
  let k := k.onTh t fun x =>
    { x with
      state := .wait
      waits := false
      wlimit := (if x.wlimit = 0 then k.wdogLimit t else x.wlimit)
      wrev := now.extractLsb' 12 48 - (if now.toNat % 4096 = 0 then 1 else 0) }
  let x := k.th t
  if x.wake.isSome then k
  else
    let i := k.waitInstr c t
    let b : BitVec 4 := BitVec.ofNat 4 x.wobj
    let wake (st : Word) : Core := k.onTh t fun x => x.wakeAt now st
    if x.wkind = 1 ∧ k.flagWord.getLsbD x.wobj = waitPol i then wake 0
    else if x.wkind = 2 ∧ k.phase b ≠ k.tph t b then (wake (k.barStatus b)).endWaitb t b
    else if x.wkind = 3 ∧ k.lock b = lockAbandoned then wake 2
    else if x.wkind = 3 ∧ k.lock b = lockFree ∧ (k.waiters b).head? = some t then
      ((k.setLock b lockHeld t).setWaiters b ((k.waiters b).erase t)).onTh t fun x => x.wakeAt now 0
    else if x.wkind = 4 ∧ bit x.wobj 4 = false ∧ (k.rg (k.cnRing b).toNat).found = true ∧ k.fld (F.MESH_RING_DISP (k.cnRing b).toNat) = 0 then wake 0
    else if x.wkind = 5 then k.wakeLines c now
    else if x.timed && x.st bTF then (wake 1).onTh t fun x => x.setSt bTF false
    else if x.wkind = 6 ∧ x.st bTA = false then wake 0
    else k

/-! ### Resets and starts (R86, R118 to R121) -/

/-- A thread reset in the present cycle (R86, R118, R121): its wait is withdrawn, its locks are abandoned, its channels and tile
instructions end, its connections close unless `keep`, and it is IDLE. -/
def State.resetThread (s : State) (c : CoreId) (t : Thr) (keep : Bool) : State :=
  let old := (s.core c).flagWord
  let s := s.dropOpen c t
  let s := s.onCore c fun k =>
    let k := (k.endWait t).abandonLocks t s.now
    if keep then
      -- a send still in progress is voided, the connection staying open (09 R322)
      (List.range 16).foldl (fun (k : Core) i =>
        let n := BitVec.ofNat 4 i
        if k.cnState n ≠ cnClosed ∧ k.cnOwner n = t then k.dropSend n else k) k
    else k.closeConns t
  let s := (List.range 8).foldl (fun (s : State) i =>
    let ch := BitVec.ofNat 3 i
    if (s.core c).chThr ch = t then s.disableCh c ch else s) s
  let s := s.onCore c fun k => k.resetTiles (s.restOf c) t s.now
  s.onCore c fun k =>
    let k := (List.range 16).foldl (fun (k : Core) b => k.setTph t (BitVec.ofNat 4 b) (k.phase (BitVec.ofNat 4 b))) k
    (k.setTh t { Thread.reset with pc := k.start t, dsp := BitVec.ofNat 17 (k.dshi t) }).hwFlags c s.now old

/-- Start a thread in IDLE or HALTED at an address; it issues first at or after a cycle (R120; 19 R550). -/
def Core.startThread (k : Core) (t : Thr) (pc : BitVec 15) (next : Count) : Core :=
  k.onTh t fun x =>
    if x.state = .idle ∨ x.state = .halted then
      { x with state := .run, pc := pc, next := next, sas := bit (k.fld F.CORE_DBGCFG_SAS) t.toNat }
    else x

/-- CORE_CTRL.START: first issue in the thread's first slot of the next revolution (R120). -/
def State.startBit (s : State) (c : CoreId) (t : Thr) : State :=
  s.onCore c fun k => k.startThread t (k.start t) (revStart (s.rev + 1))

/-- A core of the bed is reset: the armed switch is withdrawn from every router of the bed, and its requester receives `WITHDRAWN`
(08 R287). -/
def State.withdrawSwitch (s : State) (bed : Nat) : State :=
  let armed := (s.cores.map Prod.snd).any fun k => k.bed == some bed && k.fld F.MESH_SWITCH_ARM == 1
  if !armed then s
  else
    let s := s.cores.foldl (fun (s : State) (i, k) =>
      if k.bed = some bed then s.setCore (BitVec.ofNat 12 i) (k.setFld F.MESH_SWITCH_ARM 0) else s) s
    match (s.jobOfBed bed).bind fun j => j.swReq.map fun q => (j.id, q) with
    | some (id, ring, cid, _) => (s.complete ring cid stWITHDRAWN []).onJob id fun j => { j with swReq := none }
    | none => s

/-- A core reset in the present cycle (R119; 06; 07 R246, R272; 08 R287; 09 R322): the four threads are reset, then every register of
the core; program memory, the scratchpad and its poison bits keep their contents. What the core owes other cores' rings still
leaves under its front bank. -/
def State.resetCore (s : State) (c : CoreId) : State :=
  let s := match (s.core c).bed with | some b => s.withdrawSwitch b | none => s
  -- a core reset discards every grant: none returns (07 R272)
  let s := s.onCore c fun k => (List.range 8).foldl (fun (k : Core) i => k.setGrant (BitVec.ofNat 3 i) 0) k
  let s := allThr.foldl (fun (s : State) t => s.resetThread c t false) s
  let k := s.core c
  let keep (o : Nat) : Bool := o = R.MESH_FHDR || (0x880 ≤ o && o < 0x8A0)
  let k' : Core := { Core.reset with
    win := SMap.keep keep k.win
    front := k.front
    pm := k.pm, pmPar := k.pmPar, sp := k.sp, spPar := k.spPar, psn := k.psn
    owed := k.owed
    dying := true
    oldBed := k.bed.orElse fun _ => k.oldBed
    chan := (k.chan.map fun (i, x) => (i, { Chan.none with gen := x.gen })).filter fun (_, x) => decide (x ≠ Chan.none)
    conn := (k.conn.map fun (i, x) => (i, { ConnX.none with gen := x.gen })).filter fun (_, x) => decide (x ≠ ConnX.none) }
  (s.setCore c k').finishReset c

end Sys2Proof.Machine
end

