-- ==== Sys2Proof/Machine/AgreeOps.lean ====
section
/-! DEFINITION. Agreement between the modules of a job: write summaries, messages, failures, losses, and cancellation (11 R374 to
R376; 12 R422; 15 R478; 17 R510 to R516). -/

namespace Sys2Proof.Machine

/-! ### Write summaries (11 R376) -/

/-- Insert into an ascending list without repeats. -/
def insNat (n : Nat) : List Nat → List Nat
  | [] => [n]
  | m :: ms => if n < m then n :: m :: ms else if n = m then m :: ms else m :: insNat n ms

/-- Runs of consecutive pages of an ascending list, at most 65,536 pages each: first page and pages. -/
def pageRuns : List Nat → List (Nat × Nat)
  | [] => []
  | v :: vs =>
    match pageRuns vs with
    | (f, n) :: rest => if f = v + 1 ∧ n < 65536 then (v, n + 1) :: rest else (v, 1) :: (f, n) :: rest
    | [] => [(v, 1)]

/-- A write summary: header and entries. -/
def summaryBytes (m : BitVec 16) (job : JobId) (pass : BitVec 64) (ps : List (BitVec 36)) : List Byte :=
  let rs := pageRuns (ps.foldl (fun l p => insNat p.toNat l) [])
  let es := rs.flatMap fun (f, n) => leBytes 8 ((n - 1) * 2 ^ 48 + f)
  let h := leBytes 2 m.toNat ++ leBytes 2 job.toNat ++ leBytes 8 pass.toNat ++ leBytes 4 rs.length ++ List.replicate 12 0
  h ++ leBytes 4 (crc32 (h ++ leBytes 4 0 ++ es)).toNat ++ es

/-- The summary at the start of bytes, and the rest: one whose CRC fails counts as missing (R378); none where bytes lack. -/
def summaryAt (bs : List Byte) : Option (Option (BitVec 16 × List (BitVec 36)) × List Byte) :=
  let f (a n : Nat) : Nat := ofLe ((bs.drop a).take n)
  let n := f 12 4
  if bs.length < 32 ∨ bs.length < 32 + 8 * n then none
  else
    let es := (bs.drop 32).take (8 * n)
    let ps := (List.range n).flatMap fun i =>
      let e := ofLe ((es.drop (8 * i)).take 8)
      (List.range (bits e 63 48 + 1)).map fun k => BitVec.ofNat 36 (bits e 35 0 + k)
    let ok := (crc32 (bs.take 28 ++ leBytes 4 0 ++ es)).toNat == f 28 4
    some (if ok then some (BitVec.ofNat 16 (f 0 2), ps) else none, bs.drop (32 + 8 * n))

def summariesAt : Nat → List Byte → Option (List (BitVec 16 × List (BitVec 36)))
  | 0, _ => some []
  | n + 1, bs =>
    match summaryAt bs with
    | none => none
    | some (x, rest) => (summariesAt n rest).map fun l => x.toList ++ l

/-! ### Messages (12 R422, 17 R511) -/

abbrev kDone : Byte := 1
abbrev kFlush : Byte := 2
abbrev kFlushed : Byte := 3
abbrev kBoundary : Byte := 4
abbrev kFail : Byte := 5
abbrev kRerun : Byte := 6
abbrev kPreempt : Byte := 7
abbrev kResume : Byte := 8

/-- A message of a kind. -/
def AgreeMsg.of (kind : Byte) (pass : BitVec 64) (n : BitVec 48) : AgreeMsg :=
  { kind := kind, cause := 0, delay := 0, nr := false, hold := false, pass := pass, n := n.zeroExtend 64, sums := [] }

/-- An AGREE payload. -/
def agreeBytes (job : JobId) (m : AgreeMsg) : List Byte :=
  [m.kind, m.cause] ++ leBytes 2 m.sums.length ++ leBytes 2 m.delay.toNat ++ [BitVec.ofNat 8 (b2n m.nr + 2 * b2n m.hold), 0]
    ++ leBytes 8 m.pass.toNat ++ leBytes 8 m.n.toNat ++ m.sums.flatMap fun (w, ps) => summaryBytes w job m.pass ps

/-- The message that bytes spell, once they are complete. -/
def agreeOfBytes (bs : List Byte) : Option AgreeMsg :=
  let f (a n : Nat) : Nat := ofLe ((bs.drop a).take n)
  if bs.length < 24 then none
  else (summariesAt (f 2 2) (bs.drop 24)).map fun sums =>
    { kind := BitVec.ofNat 8 (f 0 1), cause := BitVec.ofNat 8 (f 1 1), delay := BitVec.ofNat 16 (f 4 2), nr := bit (f 6 1) 0,
      hold := bit (f 6 1) 1, pass := BitVec.ofNat 64 (f 8 8), n := BitVec.ofNat 64 (f 16 8), sums := sums }

/-- Reassemble the first message of consecutive packets. -/
def takeAgree (acc : List Byte) : List Packet → Option (AgreeMsg × List Packet)
  | [] => none
  | p :: ps =>
    match agreeOfBytes (acc ++ p.data) with
    | some m => some (m, ps)
    | none => takeAgree (acc ++ p.data) ps

/-- Send a message to a neighbour. -/
def State.sendAgree (s : State) (id : JobId) (dest : BitVec 16) (m : AgreeMsg) : State :=
  match s.agreeOf id dest with
  | some n => (chunks 4096 (agreeBytes id m)).foldl (fun (s : State) b => s.originate n 8 0 0 b) s
  | none => s

def State.sendAgrees (s : State) (id : JobId) (dests : List (BitVec 16)) (m : AgreeMsg) : State :=
  dests.foldl (fun (s : State) d => s.sendAgree id d m) s

/-- An AGREE context takes the messages that its packets complete; their arrival is the last packet's. -/
def State.recvAgree (s : State) (n : Nat) : State :=
  match takeAgree [] (s.ctx n).rx with
  | some (m, rest) =>
    (s.setCtx n { s.ctx n with rx := rest }).onJob (s.ctxJob n) fun j =>
      { j with inbox := j.inbox ++ [{ src := s.ctxRmod n, at_ := s.now, msg := m }] }
  | none => s

/-- Neighbours in the agreement tree, those not lost, and the children not lost. -/
def Job.neighbours (j : Job) : List (BitVec 16) := j.parent.toList ++ j.kids
def Job.live (j : Job) : List (BitVec 16) := j.neighbours.filter fun m => !j.gone.contains m
def Job.liveKids (j : Job) : List (BitVec 16) := j.kids.filter fun m => !j.gone.contains m

/-- The message of a kind that a neighbour has sent in the pass. -/
def Job.got (j : Job) (src : BitVec 16) (kind : Byte) : Option AgreeIn :=
  j.inbox.find? fun x => x.src == src && x.msg.kind == kind && x.msg.pass == j.pass
def Job.fromKids (j : Job) (kind : Byte) : Bool := j.kids.all fun k => (j.got k kind).isSome
def Job.fromParent (j : Job) (kind : Byte) : Option AgreeIn := j.parent.bind fun p => j.got p kind

/-- Remember that a kind has been sent in the pass. -/
def Job.mark (j : Job) (kind : Byte) : Job := if j.sent.contains kind then j else { j with sent := j.sent ++ [kind] }

/-- Whether a message naming revolution `n` came too late (02 R74). -/
def lateFor (at_ : Count) (n : BitVec 48) : Bool := notAfter (revStart (n - 1)) at_

/-- Whether a page is in the union of the other modules' summaries; the modules that wrote pages homed here: those the summaries name, and
those whose WRITE_END has come (R362, R379; 12 R421). -/
def State.inUnion (s : State) (j : Job) (vpn : BitVec 36) : Bool := j.sums.any fun (m, ps) => m != s.ownModule && ps.contains vpn
def State.sources (s : State) (j : Job) : List (BitVec 16) :=
  let l := (j.sums.filter fun (m, ps) => m != s.ownModule && ps.any fun v => (j.pte v).getLsbD 0 && pteModule (j.pte v) == s.ownModule).map Prod.fst
  l ++ (j.ends.map Prod.fst).filter fun m => !l.contains m

/-! ### Failures and losses (11 R374; 17 R510 to R513) -/

/-- The failure of a job's pass on this module, with the cause of R374. -/
def State.failJob (s : State) (id : JobId) (cause : Byte) : State := s.onJob id fun j => j.fail cause

/-- The job's failure is counted once in each attempt, and posted as PASS_FAIL (15 R480). -/
def State.noteFail (s : State) (id : JobId) : State :=
  match s.job id with
  | some j =>
    match j.cause with
    | some c =>
      if j.posted then s
      else (s.event 0x41 (jobEvent id j.pass c.toNat)).onJob id fun j => { j with posted := true, fails := j.fails + 1 }
    | none => s
  | none => s

/-- The FAIL message of a module (17 R511). -/
def Job.failMsg (j : Job) (cause : Byte) : AgreeMsg :=
  { AgreeMsg.of kFail j.pass 0 with cause := cause, delay := BitVec.ofNat 16 j.delay, nr := j.nr, hold := j.hold }

/-- Declare a module lost to a job, itself or a neighbour: FAIL with CAUSE 4 and HOLD = 1 goes to every live neighbour (17 R510,
R511). -/
def State.declareLoss (s : State) (id : JobId) (who : BitVec 16) : State :=
  let s := s.logHs 5 id who.toNat
  let s := s.onJob id fun j =>
    ({ j with gone := if who = s.ownModule ∨ j.gone.contains who then j.gone else j.gone ++ [who], hold := true }.fail 4).mark kFail
  match s.job id with
  | some j => (s.sendAgrees id j.live (j.failMsg 4)).noteFail id
  | none => s

/-- The status in a HELD entry: `LOST` for a lost module; for another cause the spec gives no status code: a free value. -/
def State.heldLog (s : State) (j : Job) : State :=
  if j.cause = some 4 then s.logHs 6 j.id stLOST
  else { (s.logHs 6 j.id (bits (Config.freeWord s.free).toNat 6 0)) with free := s.free + 1 }

/-- A job that is to be held, and has been rolled back, stands HELD: its pass deadline is disarmed and the held-job timer armed
(17 R513, R515). -/
def State.toHeld (s : State) (id : JobId) : State :=
  match s.job id with
  | some j =>
    if j.holdReq && j.rolled && j.st != .held then
      (s.heldLog j).onJob id fun j =>
        { j with st := .held, dline := none, named := none, again := false, entered := false,
                 heldTo := some (s.rev + BitVec.ofNat 48 (j.deadline + 1)) }
    else s
  | none => s

/-! ### Releasing a job (15 R478; 02 R79; 11 R371) -/

/-- DEV_STATUS.BEDS follows the beds held. -/
def State.syncBeds (s : State) : State := s.setFld F.DEV_STATUS_BEDS s.jobs.length

/-- A job's shadows return to their pools (11 R371). -/
def State.freeShadows (s : State) (id : JobId) : State :=
  match s.job id with
  | some j =>
    let s := j.shPages.foldl (fun (s : State) a => s.setTap (tapOfAddr a) { s.tap (tapOfAddr a) with shUsed := (s.tap (tapOfAddr a)).shUsed - 1 }) s
    s.onJob id fun j => { j with shadow := [], shPages := [], lshadows := [] }
  | none => s

/-- Blocks of the segments of a reduction that this module homes: the accumulators it holds (13 R439). -/
def Reduction.homed (r : Reduction) (m : BitVec 16) : Nat :=
  (r.segs.map fun e => if e.extractLsb' 48 16 = m then bits e.toNat 44 28 + 1 else 0).foldl (· + ·) 0

/-- A context's record becomes all 0, and it holds nothing. -/
def State.freeCtx (s : State) (n : Nat) : State := ((List.range 8).foldl (fun (s : State) m => s.setCw n m 0) s).setCtx n Ctx.none

/-- The job's contexts and reductions are released. -/
def State.freeResources (s : State) (id : JobId) : State :=
  let ns := (s.ctxw.filter fun e => e.1 % 8 = 0 && s.ctxJob (e.1 / 8) == id && s.ctxType (e.1 / 8) != 0).map fun e => e.1 / 8
  let s := ns.foldl (fun (s : State) n => s.freeCtx n) s
  let rs := s.reds.filter fun p => bit (p.2.w 0) 31 && bits (p.2.w 0) 23 12 == id.toNat
  let s : State := { s with fills := s.fills.filter fun f => !ns.contains f.ctx }
  let s : State := { s with redQ := s.redQ.filter fun p => p.job != id }
  let s := rs.foldl (fun (s : State) p => { s.setRed p.1 Reduction.none with accFree := s.accFree + p.2.homed s.ownModule }) s
  s.setFld F.FX_RED_STAT_FREE s.accFree

/-- The cores of a bed are reset: threads first, then the cores; no void is owed to a ring of a core that the same action resets
(R478; 09 R322). A core given to another bed is that bed's. -/
def State.resetBed (s : State) (j : Job) : State :=
  let cs := (j.cores s).filter fun c => !s.saved.any fun (x : SavedCore) => x.job == j.id && x.core == c
  let s : State := { s with saved := s.saved.filter fun x => x.job != j.id }
  let s := cs.foldl (fun (s : State) c => allThr.foldl (fun (s : State) t => s.resetThread c t false) s) s
  let s := cs.foldl (fun (s : State) c => s.resetCore c) s
  let both (m : NetMsg) : Bool := cs.contains m.src && cs.contains m.dst && match m.body with
    | .claimReq .. | .claimAns .. => true
    | _ => false
  let s : State := { s with net := s.net.filter fun m => !both m }
  cs.foldl (fun (s : State) c => (s.onCore c fun k => { k with owed := [] }).finishReset c) s

/-- Commands of a job that are outstanding complete, but for the one given (R478); an FW_ACTIVATE goes on (16 R499). -/
def State.cancelCmds (s : State) (id : JobId) (but : Option (BitVec 4 × BitVec 16)) : State :=
  (List.range 16).foldl (fun (s : State) i =>
    let r : BitVec 4 := BitVec.ofNat 4 i
    let mine (x : HostCmd) : Bool := ([0x04, 0x05, 0x06, 0x07, 0x08, 0x09, 0x0A, 0x0C, 0x0D, 0x0E] : List Byte).contains x.opc &&
      (nthWord x.words 1).truncate 12 == id && but != some (r, x.cid)
    ((s.ring i).cmds.filter mine).foldl (fun (s : State) x => s.complete r x.cid stCANCELLED []) s) s

/-- A job ends on this module with a cause: its cores are reset and everything it holds is released; its outstanding commands
complete with `CANCELLED`, and JOB_END is posted (R478, 17 R516). `tell`: the other modules hear of it. -/
def State.cancelJob (s : State) (id : JobId) (cause : Nat) (tell : Bool) (but : Option (BitVec 4 × BitVec 16)) : State :=
  match s.job id with
  | none => s
  | some j =>
    let s := if tell then
        (s.onJob id fun j => { j with hold := true }).sendAgrees id j.live ({ j.failMsg 4 with hold := true }) else s
    let s := s.resetBed j
    let s := (s.freeShadows id).freeResources id
    let b := j.bed.toNat
    let s : State := { s with
      jobs := s.jobs.filter fun x => x.id != id
      lines := s.lines.filter fun l => l.job != id
      invs := s.invs.filter fun r => s.lines.any fun l => l.tap == r.tap && l.addr == r.addr && l.job != id
      stgX := (s.stgX.map fun p => (p.1, p.2.filter fun e => e.job != id)).filter fun p => !p.2.isEmpty
      fabX := s.fabX.filter fun e => e.job != id
      streams := s.streams.filter fun p => (p.2.map fun x => x.job != id).getD true
      strHist := (s.strHist.map fun p => (p.1, p.2.filter fun e => e.1 != id)).filter fun p => !p.2.isEmpty
      rests := s.rests.filter fun p => p.1 != b
      windowed := s.windowed &&& ~~~((1 : BitVec 32) <<< b) }
    -- a handover that waits for the job comes in the second revolution after its end (16 R499)
    let s : State := match s.hs.handover with
      | some h => if h.job = id ∧ id ≠ 0 ∧ h.swapped = false then { s with hs := { s.hs with handover := some { h with rev := some (s.rev + 2) } } } else s
      | none => s
    let s := (s.cancelCmds id but).syncBeds
    (s.logHs 7 id cause).event 0x42 (jobEvent id j.pass cause)

end Sys2Proof.Machine
end

