-- ==== Sys2Proof/Machine/PassOps.lean ====
section
/-! DEFINITION. The parts of a pass: preparing cores, snapshots and audits, rollback, stage lines and streams at a boundary, held
COPY_IN data, and the reducer at a pass start (08 R298 to R300; 09 R324; 10 R352; 11 R363 to R379; 12 R406; 13 R437, R439; 15 R475). -/

namespace Sys2Proof.Machine

/-! ### The cores of a bed, where they are given away in their saved image -/

/-- Act on a core of a job's bed, or on what was saved of it. -/
def State.bedCore (s : State) (id : JobId) (c : CoreId) (f : State → State) : State :=
  match s.saved.find? (fun (x : SavedCore) => x.job == id && x.core == c) with
  | none => f s
  | some x =>
    let live := s.core c
    let s' := f (s.setCore c x.image)
    let img := s'.core c
    { s'.setCore c live with saved := s'.saved.map fun (y : SavedCore) => if y.job = id ∧ y.core = c then { y with image := img } else y }

def State.eachCore (s : State) (j : Job) (f : CoreId → State → State) : State :=
  (j.cores s).foldl (fun (s : State) c => s.bedCore j.id c (f c)) s

/-- The record of a core of a job's bed. -/
def State.bedImage (s : State) (id : JobId) (c : CoreId) : Core :=
  match s.saved.find? (fun (x : SavedCore) => x.job == id && x.core == c) with
  | none => s.core c
  | some x => x.image

/-! ### Pass entry (11 R364; 12 R406) -/

/-- Steps 1 to 3, during FLUSHED or during rollback: threads reset, connections staying open; locks FREE; regions that are no rings
emptied. -/
def State.prepCore (c : CoreId) (s : State) : State :=
  let s := allThr.foldl (fun (s : State) t => s.resetThread c t true) s
  s.onCore c fun k =>
    let k := { (k.setW R.CORE_LOCK_STATE 0).setW R.CORE_LOCK_OWNER 0 with lockq := [] }
    (List.range 8).foldl (fun (k : Core) n =>
      if k.gEn n && k.fld (F.MESH_RING_OPEN n) == 0 then
        (k.clearValid (k.gBase n) (k.gCount n)).setFld (F.DMA_CREDIT_BYTES n) (64 * k.gCount n)
      else k) k

/-- Every DMA translation cache entry is dropped at a pass entry (R361). -/
def State.dropXlate (c : CoreId) (s : State) : State := s.onCore c fun k => { k with xlate := [] }

/-- Step 4: every thread starts with g0 = the pass number, to issue first in its slot of the named revolution; under a freeze it is
FROZEN. -/
def State.startCore (pass : Word) (n : BitVec 48) (frozen : Bool) (c : CoreId) (s : State) : State :=
  s.onCore c fun k => allThr.foldl (fun (k : Core) t =>
    let k := (k.startThread t (k.start t) (revStart n)).onTh t fun x => x.setG 0 pass
    if frozen then k.onTh t fun x => x.freeze (s.restOf c) s.rev else k) k

/-- The job's FLOW, PEER and REDUCE contexts advance their epoch; unsent and unacknowledged packets go, their ACKs among them (12 R406). A line
whose FILL or FILL_DATA goes with them becomes INVALID, to be fetched again (log entry 53). -/
def State.advanceEpochs (s : State) (id : JobId) : State :=
  let ns := (s.ctxw.filter fun e => e.1 % 8 = 0 && s.ctxJob (e.1 / 8) == id && s.ctxType (e.1 / 8) != 0 &&
    s.ctxType (e.1 / 8) != ctxAgree).map fun e => e.1 / 8
  let s := ns.foldl (fun (s : State) n =>
    let s := s.setCw n 3 ((bits (s.cw n 3) 31 24 + 1) % 256 * 2 ^ 24)
    let s := ((s.setCw n 4 0).setCw n 5 0).setCw n 6 0
    let x := s.ctx n
    s.setCtx n { Ctx.none with stale := x.stale, dup := x.dup, ooo := x.ooo }) s
  let s : State := { s with redQ := s.redQ.filter fun p => p.job != id, fills := s.fills.filter fun f => !ns.contains f.ctx
                            lines := s.lines.filter fun l => !(l.job == id && l.st == .filling && lineModule l.addr != s.ownModule) }
  let old (p : Packet) : Bool := p.smod == s.ownModule && p.job == id && p.op != 8 &&
    !(p.op == 9 && !ns.any fun n => s.ctxRmod n == p.dmod && bits (s.cw n 1) 31 18 == p.dctx.toNat)
  (List.range 40).foldl (fun (s : State) n =>
    if (s.port n).queue.isEmpty then s else s.setPort n { s.port n with queue := (s.port n).queue.filter fun q => !((packetOf q.data).map old).getD false }) s

/-- The number of the pass that a job's named revolution begins. -/
def Job.newPass (j : Job) : BitVec 64 := if j.begun && !j.again then j.pass + 1 else j.pass

/-! ### Audit, snapshot and restoration (08 R298 to R300; 09 R324) -/

def Core.snap (k : Core) : BitVec 64 := (k.w R.FLAG_SNAP_HI) ++ (k.w R.FLAG_SNAP_LO)
def Core.audit (k : Core) : BitVec 64 := (k.w R.FLAG_AUDIT_HI) ++ (k.w R.FLAG_AUDIT_LO)

/-- Barriers with EN whose ARR differs from the snapshot. -/
def Core.barDiff (k : Core) (b : Nat) : Bool :=
  k.fld (F.FLAG_BARCFG_EN b) == 1 &&
    bits ((SMap.get (fun _ => (0 : Word)) k.snapBar b).toNat) 13 0 != k.fld (F.FLAG_BARCFG_ARR b)

/-- Whether a ring or a send stands in another state than a boundary wants (09 R324). -/
def Core.msgDiff (k : Core) : Bool :=
  !k.owed.isEmpty || ((List.range 16).any fun i => k.cnState (BitVec.ofNat 4 i) == cnWait || k.cnSends (BitVec.ofNat 4 i))
    || (List.range 8).any fun n => k.fld (F.MESH_RING_OPEN n) == 1 &&
      (k.rgOut n != 0 || k.fld (F.MESH_RING_DISP n) != 0 || k.rgHead n != k.rgTail n)

/-- Whether the audit finds a difference. -/
def Core.auditDiff (k : Core) : Bool :=
  (k.flags ^^^ k.snap) &&& 0x3FFFFFFFFFFFFFFF#64 != 0 || ((List.range 16).any fun b => k.barDiff b) || k.msgDiff

/-- Record the differences: FLAG_AUDIT, and AUD of barriers. -/
def Core.noteAudit (k : Core) (now : Count) : Core :=
  let d := (k.flags ^^^ k.snap) &&& 0x3FFFFFFFFFFFFFFF#64
  let a := k.audit ||| d
  let k := (k.evNote now R.FLAG_AUDIT_LO (d.truncate 32)).evNote now R.FLAG_AUDIT_HI ((d >>> 32).truncate 32)
  let k := (k.setW R.FLAG_AUDIT_LO (a.truncate 32)).setW R.FLAG_AUDIT_HI ((a >>> 32).truncate 32)
  (List.range 16).foldl (fun (k : Core) b => if k.barDiff b then
    (k.evNote now (R.FLAG_BARCFG b) 0x10000000#32).setFld (F.FLAG_BARCFG_AUD b) 1 else k) k

/-- The values of the pass start: flags, barriers, phase bits, ring heads and sequence numbers. -/
def Core.snapshot (k : Core) : Core :=
  let k := (k.setW R.FLAG_SNAP_LO (k.flags.truncate 32)).setW R.FLAG_SNAP_HI ((k.flags >>> 32).truncate 32)
  let k := { k with
    snapBar := (List.range 16).foldl (fun m b => SMap.set (fun _ => (0 : Word)) m b (k.w (R.FLAG_BARCFG b))) []
    snapPh := k.w R.FLAG_PHASE
    snapTlo := k.w R.FLAG_TPH_LO
    snapThi := k.w R.FLAG_TPH_HI
    connSeq := (List.range 16).foldl (fun m i => SMap.set (fun _ => (0 : BitVec 16)) m i (k.cnSeq (BitVec.ofNat 4 i))) [] }
  (List.range 8).foldl (fun (k : Core) n => k.setRg n { k.rg n with passHead := k.rgHead n }) k

/-- Return to the values of the pass start; sends are discarded without voids (08 R300, 09 R324). -/
def Core.restore (k : Core) (c : CoreId) (now : Count) : Core :=
  let k := { k.putFlags c now (k.snap &&& 0x3FFFFFFFFFFFFFFF#64) (FlagCyc.at_ now) with owed := [] }
  let k := (List.range 16).foldl (fun (k : Core) b =>
    let w := (SMap.get (fun _ => (0 : Word)) k.snapBar b).toNat
    (k.setFld (F.FLAG_BARCFG_PHASE b) (bits w 30 30)).setFld (F.FLAG_BARCFG_ARR b) (bits w 13 0)) k
  let k := ((k.setW R.FLAG_PHASE k.snapPh).setW R.FLAG_TPH_LO k.snapTlo).setW R.FLAG_TPH_HI k.snapThi
  let k := (List.range 8).foldl (fun (k : Core) n => if k.fld (F.MESH_RING_OPEN n) = 1 then k.emptyRing n (k.rg n).passHead else k) k
  let k := (List.range 16).foldl (fun (k : Core) i =>
    if k.cnState (BitVec.ofNat 4 i) = cnClosed then k
    else k.setFld (F.MESH_CONN_SEQ i) (SMap.get (fun _ => (0 : BitVec 16)) k.connSeq i).toNat) k
  allThr.foldl (fun (k : Core) t => k.onTh t fun x => { x with arrived := 0 }) k

/-! ### Stage lines and streams (10 R352; 11 R375, R379) -/

/-- Remote lines of a job with written bursts. -/
def State.remoteDirty (s : State) (id : JobId) : List StageLine :=
  s.lines.filter fun l => l.job == id && !l.wrote.isEmpty && lineModule l.addr != s.ownModule

/-- The page of a line. -/
def StageLine.vpn (l : StageLine) : BitVec 36 := BitVec.ofNat 36 (l.vline.toNat / 16)

/-- Refutation at the FLUSH report: TENTATIVE and CLEAN lines of pages that other modules wrote become INVALID (R379). -/
def State.refute (s : State) (j : Job) : State :=
  s.dropLines fun l => l.job == j.id && (l.st == .tentative || l.st == .clean) && s.inUnion j l.vpn

/-- The module's own written lines of LPDDR6 pages homed here. -/
def State.homeDirty (s : State) (id : JobId) : List StageLine :=
  s.lines.filter fun l => l.job == id && !l.wrote.isEmpty && lineModule l.addr == s.ownModule

/-- They return to LPDDR6, so that the next pass starts from them (R368). -/
def State.writeHome (s : State) (id : JobId) : State :=
  let s' := (s.homeDirty id).foldl (fun (s : State) l =>
    l.wrote.foldl (fun (s : State) (i, m) =>
      (s.preservePage (lineLocal l.addr)).putBurst (lineLocal l.addr + 64 * i) m.toNat (wordsOfBytes (l.burst i)) (l.poison.getLsbD i)) s) s
  { s' with lines := s'.lines.map fun l => if l.job == id && !l.wrote.isEmpty && lineModule l.addr == s.ownModule then
      { l with wrote := [], st := if l.st = .dirty then .clean else l.st } else l }

/-- Lines dropped by a rollback: DIRTY and TENTATIVE ones, a line being filled that holds written bursts, and CLEAN lines of pages written in
the attempt (R375). -/
def State.dropAttempt (s : State) (j : Job) : State :=
  s.dropLines fun l => l.job == j.id &&
    (l.st == .dirty || l.st == .tentative || !l.wrote.isEmpty || (l.st == .clean && j.written.contains l.vpn))

/-- The job's streams after `f`, and no read of the job in the history. -/
def State.onStreams (s : State) (id : JobId) (f : Stream → Option Stream) : State :=
  { s with
    streams := (s.streams.map fun (p : Nat × Option Stream) => (p.1, match p.2 with
      | some x => if x.job ≠ id then some x else f x
      | none => none)).filter fun p => p.2.isSome
    strHist := (s.strHist.map fun p => (p.1, p.2.filter fun e => e.1 != id)).filter fun p => !p.2.isEmpty }

/-- At a boundary the job's streams observed in the pass, by four reads of their form, are kept, with CONF 1, or 1 more if kept before; others
are dropped (10 R352). -/
def State.keepStreams (s : State) (id : JobId) : State :=
  s.onStreams id fun x =>
    if x.n < 4 then none
    else some { x with conf := if x.kept then Nat.min 7 (x.conf + 1) else 1, kept := true, len := x.n, n := 0, ahead := x.ahead - x.n }

/-- A failed attempt changes no CONF: the streams begin again. -/
def State.rewindStreams (s : State) (id : JobId) : State := s.onStreams id fun x => some { x with n := 0, ahead := 0 }

/-- Every burst and page a job has preserved returns to its place (R375). -/
def State.copyBack (s : State) (j : Job) : State :=
  let s := j.shadow.foldl (fun (s : State) (a, bs, p) => (s.setBytes a bs).setPsnAt a p) s
  j.lshadows.foldl (fun (s : State) (a, m, ps) =>
    let s : State := { s with dram := s.dram.filter fun x => !(a ≤ x.1 && x.1 < a + 65536),
                              dramPsn := s.dramPsn.filter fun x => !(a ≤ 64 * x.1 && 64 * x.1 < a + 65536) }
    let s := m.foldl (fun (s : State) (k, b) => s.setByte k b) s
    ps.foldl (fun (s : State) b => s.setPsnAt (64 * b) true) s) s

/-! ### Held COPY_IN data (15 R475) -/

/-- The bursts of bytes at a job virtual address: local address, and 64 bytes. -/
def Job.placeBursts (j : Job) (va : Nat) (bs : List Byte) : List (Nat × List Byte) :=
  (chunks 64 bs).zipIdx.map fun (b, i) =>
    let a := va + 64 * i
    (pteFrame (j.pte (BitVec.ofNat 36 (a / 65536))) + a % 65536, b)

/-- Store a burst of COPY_IN data; the module's copies of its line go. -/
def State.copyBurst (s : State) (a : Nat) (b : List Byte) : State :=
  let s := (s.setBytes a b).setPsnAt a false
  { s with lines := s.lines.filter fun l => !(l.addr == s.ownKey a) }

/-- Apply a COPY_IN as writes of the pass: pages are preserved first. -/
def State.applyCopy (s : State) (id : JobId) (x : CopyIn) : State :=
  match s.job id with
  | none => s
  | some j =>
    let bs := j.placeBursts x.va x.bytes
    let old := bs.map fun (a, _) => (a, s.bytes a 64, s.psnAt a)
    let s := bs.foldl (fun (s : State) (a, b) => (if lpBase ≤ a then s.preservePage a else s.preserve a).copyBurst a b) s
    s.onJob id fun j => { j with copyIns := j.copyIns.map fun y => if y.ring = x.ring ∧ y.cid = x.cid then { y with undo := some old } else y }

/-! ### The reducer at a pass start (13 R437, R439, R455) -/

/-- The reductions of a job. -/
def State.jobReds (s : State) (id : JobId) : List (Nat × Reduction) :=
  s.reds.filter fun p => bit (p.2.w 0) 31 && bits (p.2.w 0) 23 12 == id.toNat

/-- Contributions of a reduction. -/
def Reduction.c (r : Reduction) : Nat := bits (r.w 1) 23 0 + 1

/-- HIST and FORCE as the last attempt leaves them, the mode of the pass, and everything a pass gathers cleared. -/
def Reduction.enter (r : Reduction) (pass : BitVec 64) (boundary force : Bool) : Reduction :=
  let w := r.w 14
  let hist := if boundary then decide (0 < bits (r.w 2) 27 0) && r.nexte == bits (r.w 2) 27 0 else bit w 31
  let forced := if boundary then false else bit w 30 || force
  let period := bits (r.w 1) 31 24
  let carried := bit (r.w 0) 30 && hist && !forced && !(decide (period ≠ 0) && pass.toNat % period == 0)
  { r with
    words := SMap.set (fun _ => (0 : Word)) r.words 14 (BitVec.ofNat 32 (b2n hist * 2 ^ 31 + b2n forced * 2 ^ 30 + b2n carried * 2 ^ 29))
    agreed := [], nexte := 0, seg := [], acc := [], scan := [], wrote := [] }

/-- Words of a feed that stand in the converter's input buffer. -/
def Feed.held (f : Feed) : Nat := 4 * f.data.length

/-- At a pass start the job's reductions and feeds are cleared, and each takes its mode. -/
def State.enterReds (s : State) (j : Job) (boundary force : Bool) : State :=
  let s := (s.jobReds j.id).foldl (fun (s : State) p => s.setRed p.1 (p.2.enter j.newPass boundary force)) s
  let mine (k : Nat) : Bool := k / 65536 % 32 == j.bed.toNat
  let s := (s.feeds.filter fun p => mine p.1).foldl (fun (s : State) p =>
    s.setConvFree (p.1 / 2097152) (p.2.foldl (fun n f => n + f.held) (s.convFree (p.1 / 2097152)))) s
  { s with feeds := s.feeds.filter fun p => !mine p.1 }

/-- At a pass boundary: a port whose corrected codewords passed 2^15 in the pass is to be trained again (17 R521). -/
def State.markPorts (s : State) : State :=
  { s with ports := s.ports.map fun (n, x) =>
      (n, { x with corr := 0, trainAt := if n < 40 ∧ 32768 < x.corr ∧ s.portState n = portUp then some s.rev else x.trainAt }) }

/-! ### Commands that wait for a named revolution (15 R476) -/

/-- Whether every AGREE message to the children has been acknowledged. -/
def State.agreeAcked (s : State) (j : Job) : Bool :=
  j.liveKids.all fun m => match s.agreeOf j.id m with
    | some n => (s.ctx n).unack.isEmpty
    | none => true

/-- PREEMPT and RESUME of a job complete at angle 0 of N, once every module below has acknowledged (R476). -/
def State.settle (s : State) (id : JobId) : State :=
  match s.job id with
  | none => s
  | some j =>
    if !s.agreeAcked j then s
    else (List.range 16).foldl (fun (s : State) i =>
      let due (x : HostCmd) : Bool :=
        let n : BitVec 48 := (nthWord x.words 3).truncate 16 ++ nthWord x.words 2
        x.started && (x.opc == 5 || x.opc == 6) && (nthWord x.words 1).truncate 12 == id && revNotAfter n s.rev &&
          j.freezeAt.isNone && j.thawAt.isNone && (x.opc == 5 || !j.entered)
      ((s.ring i).cmds.filter due).foldl (fun (s : State) x => s.complete (BitVec.ofNat 4 i) x.cid stOK []) s) s

end Sys2Proof.Machine
end

