-- ==== Sys2Proof/Machine/FabricLink.lean ====
section
/-! DEFINITION. Operations of links and routes: acknowledgement, replay, failure and the headstock's retraining of a port (12 R393 to
R399, R407, R413; 15 R460 to R462; 17 R521). -/

namespace Sys2Proof.Machine

/-- Ports of the module; 40 is the Brepo link. -/
abbrev nPorts : Nat := 41

/-- The module's ports, with what a bad port number answers. -/
def withPort (p : BitVec 6) (f : Nat → Out) : Out := if p.toNat < nPorts then f p.toNat else .refused .illFormed

/-- Count in a port's RC counters, saturating at 0xFFFF: flits replayed, and for a fabric port NAKs sent and codewords (12 R424;
15 R485). -/
def State.bump (s : State) (f : Fld) (n : Nat) : State := s.setFld f (Nat.min 0xFFFF (s.fld f + n))
def replayFld (p : Nat) : Fld := if p < 40 then F.FX_PORT_RETRY_REPLAY p else F.HL_CNT_RETRY

/-- The packets of the Brepo link of which `n` more flits are acknowledged. -/
def ackHost : Nat → List (HostOut × Nat) → List (HostOut × Nat)
  | 0, q => q
  | _, [] => []
  | n + 1, (o, k) :: q => if n + 1 < k then (o, k - (n + 1)) :: q else ackHost (n + 1 - k) q
termination_by structural _ q => q

/-- A LACK arrives: it covers the replay buffer's flits up to its own (12 R394). -/
def State.takeLack (s : State) (p : Nat) (lack : BitVec 12) : State :=
  let x := s.port p
  if x.replay.any (fun f => f.lseq == lack) then
    let rest := (x.replay.dropWhile fun f => f.lseq != lack).drop 1
    let s := s.setPort p { x with replay := rest, lackAt := s.now }
    if p = 40 then { s with hostWait := ackHost (x.replay.length - rest.length) s.hostWait } else s
  else s

/-- Buffers returned in CRED (12 R393). -/
def State.takeCred (s : State) (p : Nat) (c0 c1 : Byte) : State :=
  let x := s.port p
  s.setPort p { x with cnt0 := x.cnt0 - c0.toNat, cnt1 := x.cnt1 - c1.toNat }

/-- Replay every flit LACK does not cover, in LSEQ order (12 R396). The timeout starts again. -/
def State.replay (s : State) (p : Nat) : State :=
  let x := s.port p
  let y := x.replay.foldl (fun (x : Port) f => x.emit s.now f.type f.lseq f.vl f.eop f.body) x
  (s.setPort p { y with lackAt := s.now }).bump (replayFld p) x.replay.length

/-- The cycle at which the retry budget of a port's oldest flit expires: armed in the revolution of its first sending, n = 4 (12
R397; 02 R75). -/
def Port.budget (x : Port) : Option Count := x.replay.head?.map fun f => revStart (f.rev + 5)

/-- D of a port (02 R57): SPN_PORT_DLYn.DELAY, or what the Brepo link's training measured. -/
def State.delay (s : State) (p : Nat) : Nat := if p < 40 then s.fld (F.SPN_PORT_DLY_DELAY p) else (s.port p).delay.toNat

/-! ### Neighbours without a route (17 R510) -/

/-- Note, for each job, the live neighbours that no route reaches, from this revolution on. -/
def State.noteRoutes (s : State) : State :=
  { s with jobs := s.jobs.map fun j =>
      let lost := j.live.filter fun m => m != s.ownModule && (s.routePort m).isNone
      { j with unrouted := lost.map fun m => (m, ((j.unrouted.find? fun u => u.1 == m).map Prod.snd).getD s.rev) } }

/-! ### Retransmit timers (12 R413) -/

/-- The revolution in which a context's retransmit timer was armed, if it runs: by an event, or once its oldest packet has been
unacknowledged for 9 revolutions. -/
def State.ctxTimer (s : State) (n : Nat) : Option (BitVec 48) :=
  if bit (s.cw n 6) 31 then some (s.ctx n).trev
  else match (s.ctx n).unack.head? with
    | some p => if revNotAfter (p.rev + 10) s.rev then some (p.rev + 10) else none
    | none => none

/-- Arm a context's timer, which an armed timer ignores. -/
def State.armCtx (s : State) (n : Nat) (m : BitVec 48) : State :=
  let r := (s.ctxTimer n).getD m
  (s.setCtx n { s.ctx n with trev := r }).setCw n 6 0x80000000

/-! ### Ports that leave UP (12 R398, R407) -/

/-- A port's link state as it leaves UP: nothing to replay, nothing queued, no packet half received. -/
def Port.down (x : Port) : Port :=
  { x with replay := [], queue := [], sending := none, part0 := [], part1 := [], cnt0 := 0, cnt1 := 0, free0 := 0, free1 := 0, naked := false }

/-- Queue again on the routes now in force the packets that waited on a port; the contexts that hold them learn their new port. -/
def State.requeue (s : State) (p : Nat) (q : List QPkt) : State :=
  q.foldl (fun (s : State) y =>
    match packetOf y.data with
    | none => s
    | some k =>
      let (s, port) := s.sendPacket y.src y.vl k
      { s with ctxs := s.ctxs.map fun (n, x) =>
          (n, { x with unack := x.unack.map fun u => if u.pkt = k ∧ u.port = some p then { u with port := port } else u }) }) s

/-- A port leaves UP for a state: its buffers are discarded and its queue goes by the other routes. -/
def State.leaveUp (s : State) (p state : Nat) : State :=
  let q := (s.port p).queue
  let s := (s.setPort p (s.port p).down).setPortState p state
  (s.requeue p (if p < 40 then q else [])).noteRoutes

/-- The Brepo link fails: outstanding reads, and reads and writes not acknowledged, are to be sent again in order (15 R462). -/
def State.loseHost (s : State) : State :=
  let sent := s.reads.map fun r => HostOut.memRd r.tag r.addr 64
  let wait := (s.hostWait.map Prod.fst).filter fun o => match o with
    | .memRd .. | .memWr .. => true
    | _ => false
  { s with hostWait := [], hostLost := (sent.filter fun o => !wait.contains o && !s.hostLost.contains o) ++ wait ++ s.hostLost }

/-- A port becomes FAILED with a cause: 1 retry budget, 2 signal or FEC lock, 3 training (12 R397 to R399, R413; 17 R521, R523). The
headstock is to train it after 256 revolutions, or after the next delay where its own training failed. -/
def State.failPort (s : State) (p cause : Nat) : State :=
  if 40 ≤ p then (s.leaveUp p portFailed).loseHost
  else
    let waiting := (s.port p).queue.filterMap fun q => packetOf q.data
    let lost := s.ctxs.filter fun (_, x) => x.unack.any fun u => u.port == some p && !waiting.contains u.pkt
    let s := lost.foldl (fun (s : State) (n, _) => s.armCtx n s.rev) s
    let s := ((s.leaveUp p portFailed).setFld (F.FX_PORT_STAT_CAUSE p) cause).setFld (F.FX_PORT_CTRL_TRAIN p) 0
    let x := s.port p
    let wait : Nat := [256, 1024, 4096].getD x.retries 0
    let s := (s.fxErr 5 p 0).toHeadstock (.link p)
    if x.retries < 3 then
      ((s.setPort p { x with retries := x.retries + 1, trainAt := some (s.rev + BitVec.ofNat 48 (wait + 1)) }).logHs 3 0xFFF p).portEvent p
    else
      -- the third retry has failed: the port is left DOWN and logged
      (((s.setPort p { x with retries := 0, trainAt := none }).setPortState p portDown).logHs 4 0xFFF p).portEvent p

/-- Training starts (12 R399). -/
def State.startTraining (s : State) (p : Nat) : State :=
  let s := if s.portState p = portUp then s.leaveUp p portTraining else s.setPortState p portTraining
  let s := s.setPort p { s.port p with trainAt := none }
  if p < 40 then s.setFld (F.FX_PORT_CTRL_TRAIN p) 1 else s

/-- Training ends with both sides' LSEQ and LACK 0: the first flit each way takes LSEQ 1. -/
def State.trained (s : State) (p : Nat) : State :=
  let s := s.setPort p { (s.port p).down with lseq := 1, expect := 1, lack := 0, lackAt := s.now, lastOut := s.now, retries := 0, trainAt := none, rxPos := 0, rxBad := false }
  (s.setPortState p portUp).noteRoutes

end Sys2Proof.Machine
end

