-- ==== Sys2Proof/Machine/Host.lean ====
section
/-! DEFINITION. The command and completion rings: fetch, doorbells, completions, interrupts, the heartbeat and command timers
(15 R460 to R472, R479, R481). -/

namespace Sys2Proof.Machine

/-! ### Fetch (R467, R469, R479) -/

/-- The pages' deadline of the job a command names, doubled; twice 65,536 where it names none that is held (R479). -/
def State.jobTimer (s : State) (id : JobId) : Nat := match s.job id with
  | some j => 2 * j.deadline
  | none => 131072

/-- Bounds of the self-tests a mask selects (16 R502). -/
def testBound (mask : Nat) : Nat :=
  (if bit mask 0 then 1310720 else 0) + (if bit mask 1 then 65536 else 0) + (if bit mask 2 then 131072 else 0) + (if bit mask 3 then 65536 else 0)

/-- Opcodes that name a job in word 1 (R473). -/
def namesJob (opc : Byte) : Bool := ([0x04, 0x05, 0x06, 0x07, 0x08, 0x09, 0x0A, 0x0C, 0x0D, 0x0E] : List Byte).contains opc

/-- Revolutions of a command's timer (R479; 16 R496, R499; 17 R525). -/
def State.cmdTimer (s : State) (opc : Byte) (ws : List Word) : Nat :=
  let id : JobId := (nthWord ws 1).truncate 12
  let held := ((s.job id).map fun j => j.st == .held).getD false
  match opc.toNat with
  | 0x04 => if held then 4096 else s.jobTimer id
  | 0x0C => if held then 1024 else s.jobTimer id
  | 0x0D => if held then 4096 else s.jobTimer id
  | 0x0E => if held then 1024 else s.jobTimer id
  | 0x10 => 1024
  | 0x11 => 65536
  | 0x12 => (if id = 0 then 1024 else s.jobTimer id) + (if (nthWord ws 2).getLsbD 0 then 262144 else 0)
  | 0x13 => 98304
  | 0x14 => 4096
  | 0x15 => testBound (nthWord ws 2).toNat
  | 0x16 => 786432
  | 0x17 => 16384
  | 0x18 => 16384
  | _ => if namesJob opc then s.jobTimer id else 131072

/-- A fetched entry as a command, its timer armed. -/
def State.hostCmdOf (s : State) (bs : List Byte) : HostCmd :=
  let ws := wordsOfBytes bs
  let w := nthWord ws 0
  let opc : Byte := w.truncate 8
  { cid := w.extractLsb' 16 16, opc := opc, order := w.getLsbD 9, noirq := w.getLsbD 8, words := ws,
    expire := s.rev + BitVec.ofNat 48 (s.cmdTimer opc ws + 1), started := false }

/-- Whether rings are fetched: from READY on (16 R502, R505). -/
def State.serving (s : State) : Bool := s.fld F.DEV_STATUS_STATE == mSERVICE || s.fld F.DEV_STATUS_STATE == mTEST

/-- A tag no outstanding read has. -/
def State.freeTag (s : State) : BitVec 16 :=
  BitVec.ofNat 16 (((List.range 257).find? fun i => !s.reads.any fun r => r.tag.toNat == i).getD 256)

/-- Fetch a command ring's entries from HEAD to TAIL, each with one read; 256 reads are outstanding at most (R461, R469). -/
def State.fetchLoop (s : State) (ring : BitVec 4) : Nat → State
  | 0 => s
  | n + 1 =>
    let r := s.ring ring.toNat
    if s.serving && r.en && !r.err && r.head != r.tail && decide (s.reads.length < 256) then
      let tag := s.freeTag
      let a := r.base + BitVec.ofNat 64 (64 * r.head.toNat)
      let s := s.setRing ring.toNat { r with head := BitVec.ofNat 16 ((r.head.toNat + 1) % r.size) }
      let s : State := { s with reads := s.reads ++ [{ tag := tag, addr := a, ring := ring, data := none }] }
      (s.hostSend (.memRd tag a 64)).fetchLoop ring n
    else s

def State.fetchRing (s : State) (ring : BitVec 4) : State := s.fetchLoop ring 256

/-- Every ring fetches what it may. -/
def State.fetchAll (s : State) : State := (List.range 16).foldl (fun (s : State) i => s.fetchRing (BitVec.ofNat 4 i)) s

/-- The entry at the front of a ring's reads joins its commands, once its data is there. A read the host rejected ends its command with
`NOTHOME`: its CID and NOIRQ were never read, and are free values (R461; log entry 4). -/
def State.takeEntries (s : State) (ring : BitVec 4) : Nat → State
  | 0 => s
  | n + 1 =>
    match s.reads.find? (fun r => r.ring == ring) with
    | some x =>
      match x.data with
      | none => s
      | some bs =>
        let s : State := { s with reads := s.reads.erase x }
        let r := s.ring ring.toNat
        if bs.isEmpty then
          let f := Config.freeWord s.free
          let q := s.ring (16 + r.cq)
          let e : HostCpl := { status := BitVec.ofNat 7 stNOTHOME, sq := ring, cid := f.truncate 16, noirq := f.getLsbD 16, words := [],
                               expire := some (s.rev + 131073), launch := none }
          ({ (s.setRing (16 + r.cq) { q with cpls := q.cpls ++ [e] }) with free := s.free + 1 } : State).takeEntries ring n
        else ((s.setRing ring.toNat { r with cmds := r.cmds ++ [s.hostCmdOf bs] }).nops ring).takeEntries ring n
    | none => s

/-- The data of the outstanding read with a tag is there, none where the host rejected it (R461). -/
def State.gotData (s : State) (tag : BitVec 16) (bs : List Byte) : State :=
  { s with reads := s.reads.map fun r => if r.tag = tag ∧ r.data.isNone = true then { r with data := some bs } else r }

/-- MEM_CPL: the data of an outstanding read arrives, or the host has rejected it. Data of another length than was asked is discarded
and counted in BADPKT (R461). -/
def execMemCpl (tag : BitVec 16) (data : Option (List Byte)) (s : State) : Out :=
  if s.portState 40 ≠ portUp then .next s
  else match s.reads.find? (fun r => r.tag == tag && r.data.isNone) with
  | none => .next s
  | some x =>
    match data with
    | some bs =>
      if bs.length ≠ 64 then .next (s.bump F.HL_CNT_BADPKT 1)
      else .next (((s.gotData tag bs).takeEntries x.ring 256).fetchAll)
    | none => .next (((s.gotData tag []).takeEntries x.ring 256).fetchAll)

/-- HOST_LINK_RECOVER: the link is UP again: the reads and writes that were lost go first, in their order (R462). -/
def execHostLinkRecover (s : State) : Out :=
  if s.portState 40 ≠ portUp then .next s
  else .next (s.hostLost.foldl (fun (s : State) o => s.hostSend o) { s with hostLost := [] })

/-! ### Doorbells and ring configuration (R465, R466, R469, R470) -/

/-- A doorbell at an offset of the doorbell page. Offsets that are no ring's are ignored. -/
def State.doorbell (s : State) (o : Nat) (v : BitVec 16) : State :=
  let n := if o < 0x40 then o / 4 else 16 + (o - 0x100) / 4
  if o % 4 ≠ 0 ∨ ¬ (o < 0x40 ∨ (0x100 ≤ o ∧ o < 0x140)) then s
  else
    let r := s.ring n
    if r.en = false ∨ r.size ≤ v.toNat then
      ((s.accErr 3 (0x3000000 + o)).evNote (ringEv n) 0x40000000#32).setRing n { r with cfg := r.cfg ||| 0x40000000#32 }
    else
      let s := s.setRing n { r with tail := v }
      if n < 16 then s.fetchRing (BitVec.ofNat 4 n) else s

/-- CQ_TAIL: a doorbell packet of a command ring. -/
def execCqTail (ring : BitVec 4) (v : BitVec 16) (s : State) : Out :=
  if s.portState 40 ≠ portUp then .next s else .next (s.doorbell (4 * ring.toNat) v)

/-- CQ_HEAD: a doorbell packet of a completion ring. -/
def execCqHead (ring : BitVec 4) (v : BitVec 16) (s : State) : Out :=
  if s.portState 40 ≠ portUp then .next s else .next (s.doorbell (0x100 + 4 * ring.toNat) v)

/-- The effect of an accepted write of HL_RCFG on the selected ring: setting EN zeroes the indexes, and sets PHASE of a completion ring;
ERR is W1C; LOGSIZE below 4 reads 4 (R466, 15 HL_RCFG). -/
def State.putRcfg (s : State) (v : Word) : State :=
  let n := s.selRing
  let r := s.ring n
  let v := if bits v.toNat 19 16 < 4 then (v &&& 0xFFF0FFFF#32) ||| 0x40000#32 else v
  let rises := v.msb && !r.en
  let set := s.evs.bits s.now (ringEv n)
  let keep : Word := r.cfg &&& (if v.getLsbD 30 then 0x400000#32 ||| set else 0x40400000#32)
  let cfg := (v &&& 0xBF8FF000#32) ||| (if rises && decide (16 ≤ n) then keep ||| 0x400000#32 else keep)
  let s := s.setRing n { r with cfg := cfg, head := if rises then 0 else r.head, tail := if rises then 0 else r.tail }
  if n < 16 then s.fetchRing (BitVec.ofNat 4 n) else s

/-- RING_CONFIG_WRITE: a write of HL_RCFG (R465, R466). -/
def execRingConfigWrite (p : Path) (v : Word) (s : State) : Out := s.devWrite p R.HL_RCFG v fun s => s.putRcfg v

/-! ### Completions, interrupts and the heartbeat (R468, R472, R481) -/

/-- The 32 bytes of an entry. -/
def HostCpl.bytes (e : HostCpl) (phase : Bool) (sqhead : Nat) : List Byte :=
  leBytes 4 (b2n phase * 2 ^ 31 + e.status.toNat * 2 ^ 24 + e.sq.toNat * 2 ^ 20 + e.cid.toNat) ++ leBytes 4 sqhead
    ++ (List.range 6).flatMap fun i => leBytes 4 (nthWord e.words i).toNat

/-- The entry `e`, the oldest of completion ring `n`, is written at its write index; `rest` still wait (R466, R468, R472). -/
def State.writeEntry (s : State) (n : Nat) (e : HostCpl) (rest : List HostCpl) : State :=
  let r := s.ring n
  let event := e.expire.isNone
  let sqhead := if event then 0 else (s.ring e.sq.toNat).head.toNat
  let i := r.head.toNat
  let wrap := i + 1 == r.size
  let s := s.hostWrite (r.base.toNat + 32 * i) (e.bytes (r.cfg.getLsbD 22) sqhead)
  let s := s.setRing n { r with
    cpls := rest
    head := BitVec.ofNat 16 ((i + 1) % r.size)
    cfg := if wrap then r.cfg ^^^ 0x400000#32 else r.cfg
    icnt := if e.noirq then r.icnt else r.icnt + 1
    iat := if !e.noirq && r.icnt == 0 then s.now else r.iat }
  if event then s else s.nops e.sq

/-- COMPLETION_WRITE: the oldest entry of an enabled completion ring with room is written at its write index (R466, R468, R469). -/
def execCompletionWrite (ring : BitVec 4) (s : State) : Out :=
  let n := 16 + ring.toNat
  let r := s.ring n
  match r.cpls with
  | [] => .next s
  | e :: rest =>
    if r.en = false ∨ r.room = false then .next s
    else
      .next (s.writeEntry n e rest)

/-- MSI: a completion ring with IEN interrupts by count, or by delay; it waits while the Brepo link is not UP (R472; log entry 36). -/
def execMsi (ring : BitVec 4) (s : State) : Out :=
  let n := 16 + ring.toNat
  let r := s.ring n
  if r.icnt = 0 ∨ bit r.cfg.toNat 23 = false ∨ s.portState 40 ≠ portUp then .next s
  else
    let s := if Nat.max 1 (bits r.coal.toNat 15 0) ≤ r.icnt then s else s.advanceTo (r.iat + BitVec.ofNat 60 (256 * bits r.coal.toNat 31 16))
    .next ((s.setRing n { r with icnt := 0 }).hostSend (.msi (r.cfg.extractLsb' 24 6)))

/-- The revolution of the next heartbeat: the first from the present angle 0, or the next, that is a multiple of 256 (R481). -/
def State.nextBeat (s : State) : BitVec 48 :=
  let next : BitVec 48 := if s.angle = 0 then s.rev else s.rev + 1
  next + BitVec.ofNat 48 ((256 - next.toNat % 256) % 256)

/-- HB: the heartbeat of the next revolution that is a multiple of 256, at its angle 0 (R481). -/
def execHb (s : State) : Out :=
  if s.portState 40 ≠ portUp then .next s
  else
    .next ((s.advanceTo (revStart s.nextBeat)).hostSend (.hb s.nextBeat))

/-! ### Timers (R479) -/

/-- A COPY_IN whose timer expires applies nothing: what it applied in the FLUSH returns. -/
def State.dropCopy (s : State) (ring : BitVec 4) (cid : BitVec 16) : State :=
  s.jobs.foldl (fun (s : State) j =>
    (j.copyIns.filter fun x => x.ring == ring && x.cid == cid).foldl (fun (s : State) x =>
      let s := (x.undo.getD []).foldl (fun (s : State) (a, b, p) => (s.copyBurst a b).setPsnAt a p) s
      s.onJob j.id fun j => { j with copyIns := j.copyIns.erase x }) s) s

/-- Requests that a command has left with a job go with it: a switch and a handover take place without it. -/
def State.forgetCmd (s : State) (ring : BitVec 4) (cid : BitVec 16) : State :=
  { s with jobs := s.jobs.map fun j =>
      { j with swReq := match j.swReq with
          | some (r, c, n) => if r = ring ∧ c = cid then none else some (r, c, n)
          | none => none } }

/-- The timer of a command expires (R479). -/
def State.expireCmd (s : State) (ring : BitVec 4) (x : HostCmd) : State :=
  let s := s.advanceTo (revStart x.expire)
  let s := if x.opc = 0x09 then s.dropCopy ring x.cid else s.forgetCmd ring x.cid
  s.complete ring x.cid stTIMEOUT []

/-- The timer of a command whose entry waits for room in completion ring `n` expires: the entry's status becomes `TIMEOUT`, and the job of a
LAUNCH ends (R469, R479). -/
def State.expireEntry (s : State) (n : Nat) (e : HostCpl) : State :=
  let s := s.advanceTo (revStart (e.expire.getD 0))
  let r := s.ring n
  let s := s.setRing n { r with cpls := r.cpls.map fun y => if y = e then { e with status := BitVec.ofNat 7 stTIMEOUT, words := [], launch := none } else y }
  match e.launch with
  | some id => s.cancelJob id stCANCELLED true none
  | none => s

/-- The entry of a command that waits for room in a completion ring. -/
def State.waitingEntry (s : State) (ring : BitVec 4) (cid : BitVec 16) : Option HostCpl :=
  (s.ring (16 + (s.ring ring.toNat).cq)).cpls.find? (fun e => e.sq == ring && e.cid == cid && e.expire.isSome)

/-- COMMAND_TIMEOUT: the timer of a command expires, also while its entry waits for room (R469, R479). -/
def execCommandTimeout (ring : BitVec 4) (cid : BitVec 16) (s : State) : Out :=
  match (s.ring ring.toNat).cmds.find? (fun x => x.cid == cid) with
  | some x => .next (s.expireCmd ring x)
  | none =>
    match s.waitingEntry ring cid with
    | some e => .next (s.expireEntry (16 + (s.ring ring.toNat).cq) e)
    | none => .next s

/-! ### Carrying out a command (R471, R473, R480; 16 R502) -/

/-- Carry out a command that may start or has started; in TEST all but NOP, FW_INFO, TEST and TEST_END complete with `BUSY`. -/
def withHostCmd (s : State) (ring : BitVec 4) (cid : BitVec 16) (p : Byte → Bool) (f : HostCmd → Out) : Out :=
  match s.hostCmd ring cid p with
  | none => .next s
  | some x =>
    if s.fld F.DEV_STATUS_STATE = mTEST ∧ ([0x00, 0x10, 0x15, 0x16] : List Byte).contains x.opc = false then
      .next (s.complete ring cid stBUSY [])
    else f x

/-- A command that has not started. -/
def withCmd (s : State) (ring : BitVec 4) (cid : BitVec 16) (opc : Byte) (f : HostCmd → Out) : Out :=
  withHostCmd s ring cid (· == opc) fun x => if x.started then .next s else f x

/-- Word `i` of a command, and the job it names. -/
def HostCmd.w (x : HostCmd) (i : Nat) : Word := nthWord x.words i
def HostCmd.job (x : HostCmd) : JobId := (x.w 1).truncate 12
/-- A 64-bit operand from word `i`, and a revolution. -/
def HostCmd.q (x : HostCmd) (i : Nat) : Nat := (x.w i).toNat + 2 ^ 32 * (x.w (i + 1)).toNat
def HostCmd.n (x : HostCmd) (i : Nat) : BitVec 48 := BitVec.ofNat 48 (x.q i)

/-- Commands that a HELD job takes; others that name it complete with `BUSY` (17 R525). -/
def heldTakes (opc : Byte) : Bool := ([0x04, 0x06, 0x09, 0x0A, 0x0C, 0x0D, 0x0E] : List Byte).contains opc

/-- Carry out a command on the job it names, or answer `NOJOB`. -/
def withCmdJob (s : State) (ring : BitVec 4) (cid : BitVec 16) (x : HostCmd) (f : Job → Out) : Out :=
  match s.job x.job with
  | some j => if j.st = .held ∧ heldTakes x.opc = false then .next (s.complete ring cid stBUSY []) else f j
  | none => .next (s.complete ring cid stNOJOB [])

/-- The reads of a buffer in host memory, at most 4,096 bytes each; their data is the command's operand. -/
def State.hostFetch (s : State) (addr len : Nat) : State :=
  (List.range ((len + 4095) / 4096)).foldl (fun (s : State) i =>
    s.hostSend (.memRd s.freeTag (BitVec.ofNat 64 (addr + 4096 * i)) (Nat.min 4096 (len - 4096 * i)))) s

/-- UNLISTED_OPCODE: it completes with `BADCMD` (R473; 16 R496). -/
def execUnlistedOpcode (ring : BitVec 4) (cid : BitVec 16) (s : State) : Out :=
  withHostCmd s ring cid (fun o => 0x0E < o.toNat && !(0x10 ≤ o.toNat && o.toNat ≤ 0x18)) fun _ => .next (s.complete ring cid stBADCMD [])

end Sys2Proof.Machine
end

