-- ==== Sys2Proof/Machine/SpindleOps.lean ====
section
/-! DEFINITION. Operations of the spindle: lock bits, eligible ports, sources, measurement, steps and drift (02 R57 to R71). -/

namespace Sys2Proof.Machine

/-- Lock states as SPN_STATUS.STATE codes (R64). -/
abbrev spUnlocked : Nat := 0
abbrev spAcquiring : Nat := 1
abbrev spLocked : Nat := 2
abbrev spHoldover : Nat := 3
abbrev spLost : Nat := 4
abbrev spMaster : Nat := 5

def State.spin (s : State) : Nat := s.fld F.SPN_STATUS_STATE
def State.srcPort (s : State) : Nat := s.fld F.SPN_STATUS_SRC_PORT

/-- Bits of SPN_EVENT. -/
abbrev evLOCK_ACQ : Nat := 0
abbrev evLINK_MISS : Nat := 1
abbrev evSOURCE_CHANGE : Nat := 2
abbrev evHOLDOVER : Nat := 3
abbrev evLOST : Nat := 4
abbrev evREFCLK_LOSS : Nat := 5
abbrev evMASTER_CONFLICT : Nat := 6
abbrev evHOP_LIMIT : Nat := 7
abbrev evSTEPPED : Nat := 8
abbrev evMARKER_MISMATCH : Nat := 9
abbrev evCTRL_REJECT : Nat := 10

/-- A port's lock bit (R59). -/
def lockReg (p : Nat) : Nat := if p < 32 then R.SPN_LINKLOCK_LO else R.SPN_LINKLOCK_HI
def State.portLock (s : State) (p : Nat) : Bool := (s.devW (lockReg p)).getLsbD (p % 32)
def State.setPortLock (s : State) (p : Nat) (b : Bool) : State :=
  let w := s.devW (lockReg p)
  let m : Word := 1#32 <<< (p % 32)
  s.setDev (lockReg p) (if b then w ||| m else w &&& ~~~m)

/-- The phase error of a marker that arrives in the present cycle, the difference of two counts (R57; 12 R400). -/
def State.phaseErr (s : State) (p : Nat) (m : Marker) : Int :=
  let trim := (BitVec.ofNat 8 (s.fld (F.SPN_PORT_DLY_TRIM p))).toInt
  (s.now.toNat : Int) - m.offset.toNat - 4096 * m.rev.toNat - s.fld (F.SPN_PORT_DLY_DELAY p) - trim

/-! ### Eligible ports and the source (R60 to R62) -/

/-- Ports that have delivered 3 consecutive valid markers with HOLD = 0 and HOPS of at most 14, and that FORCE_EN admits (R60). -/
def State.offering (s : State) : List Nat :=
  (List.range 40).filter fun p => decide (3 ≤ (s.port p).good) &&
    (s.fld F.SPN_CTRL_FORCE_EN = 0 || p == s.fld F.SPN_CTRL_FORCE_PORT)

/-- Whether those ports carry different MASTER_ID values, and the ports whose MASTER_ID is lowest (R62). -/
def State.conflict (s : State) : Bool :=
  s.offering.any fun p => s.offering.any fun q => (s.port p).mid != (s.port q).mid
def State.eligible (s : State) : List Nat :=
  let e := s.offering
  e.filter fun p => e.all fun q => decide ((s.port p).mid.toNat ≤ (s.port q).mid.toNat)

/-- The eligible port of fewest hops, the lowest-numbered of several (R60). -/
def State.bestPort (s : State) : Option Nat :=
  s.eligible.foldl (fun b p => match b with
    | none => some p
    | some q => if (s.port p).hops.toNat < (s.port q).hops.toNat then some p else some q) none

/-- Measurement begins again: no step waits (R64). -/
def State.remeasure (s : State) : State := { (s.setFld F.SPN_STATUS_STEP_PENDING 0) with lockE := [] }

/-- SPN_STATUS as it reads: in LOST a step waits while the module holds a bed (R66). -/
def State.spnStatus (s : State) : Word :=
  let w := s.devW R.SPN_STATUS
  if s.spin = spLost ∧ s.beds ≠ 0 then F.SPN_STATUS_STEP_PENDING.put w 1 else w

/-- SPN_MASTER as it reads: a master shows its own module number (R71). -/
def State.spnMaster (s : State) : Word :=
  if s.spin = spMaster then BitVec.ofNat 32 (0x10000 + s.fld F.FX_CTRL_MODULE) else s.devW R.SPN_MASTER

/-- The hop count and master that a source gives (R61). DESIGN CHOICE (log entry 45): the count of a source that sends 15 stays 15, the most
that HOPS holds. -/
def State.fromSource (s : State) (p : Nat) : State :=
  let x := s.port p
  (s.setFld F.SPN_STATUS_HOPS (Nat.min 15 (x.hops.toNat + 1))).setDev R.SPN_MASTER (BitVec.ofNat 32 (0x10000 + x.mid.toNat))

/-- Take a port as source; measurement begins again. -/
def State.takeSource (s : State) (p : Nat) : State :=
  ((s.setFld F.SPN_STATUS_SRC_PORT p).fromSource p).remeasure

/-- Choose a source where the state looks for one (R60, R64, R67). DEDUCED (log entry 45): taking a source where there was none is no change
of source, and raises no `SOURCE_CHANGE` (R61). -/
def State.seekSource (s : State) : State :=
  match s.bestPort with
  | none => s
  | some p =>
    if s.spin = spUnlocked ∧ s.fld F.SPN_CTRL_LOCK_EN = 1 then (s.setFld F.SPN_STATUS_STATE spAcquiring).takeSource p
    else if (s.spin = spAcquiring ∨ s.spin = spHoldover) ∧ s.srcPort = 0x3F then s.takeSource p
    else s

/-! ### States (R64 to R69) -/

/-- Estimated drift, in 1/16 cycle: in HOLDOVER it grows every 256 revolutions, or every 8 without the reference (R68). -/
def State.driftRate (s : State) : Nat := if s.fld F.SPN_STATUS_REFCLK_OK = 1 then 256 else 8
def State.driftEst (s : State) : Nat :=
  let est := s.fld F.SPN_DRIFT_EST
  if s.spin = spHoldover then Nat.min 0xFFFF (est + (s.rev - s.driftRev).toNat / s.driftRate) else est

/-- The drift so far stands, and grows at the present rate from here on. DESIGN CHOICE (log entry 45): the part of an interval that has
elapsed when REFCLK_OK changes is dropped. -/
def State.rebaseDrift (s : State) : State :=
  if s.spin = spHoldover then { (s.setFld F.SPN_DRIFT_EST s.driftEst) with driftRev := s.rev } else s

/-- The budget, in 1/16 cycle: 0 and values above 64 act as 64. -/
def State.driftBudget (s : State) : Nat :=
  let b := s.fld F.SPN_CTRL_HOLD_BUDGET
  16 * if b = 0 ∨ 64 < b then 64 else b

/-- Stop slewing. -/
def State.noSlew (s : State) : State := { (s.setFld F.SPN_STATUS_SLEWING 0) with slewE := 0 }

/-- Enter LOST: a job on several modules has lost this one (R68, R69; 17 R510). -/
def State.enterLost (s : State) : State :=
  let s := s.setFld F.SPN_DRIFT_EST s.driftEst
  let s := ((s.setFld F.SPN_STATUS_STATE spLost).setFld F.SPN_STATUS_SRC_PORT 0x3F).noSlew.remeasure.spnSet evLOST
  (s.jobs.filter fun j => decide (1 < j.mods.length)).foldl (fun (s : State) j => s.declareLoss j.id s.ownModule) s

/-- Enter HOLDOVER: the source is lost and no other port is eligible. -/
def State.enterHoldover (s : State) : State :=
  let s := ((s.setFld F.SPN_STATUS_STATE spHoldover).setFld F.SPN_STATUS_SRC_PORT 0x3F).setFld F.SPN_DRIFT_EST 0
  ({ s.noSlew with lockE := [], driftRev := s.rev } : State).spnSet evHOLDOVER

/-- Set the error that is left to slew, in cycles. -/
def State.slewBy (s : State) (e : Int) : State := { (s.setFld F.SPN_STATUS_SLEWING (b2n (decide (e ≠ 0)))) with slewE := 16 * e }

/-- Enter LOCKED with an error to slew out. -/
def State.enterLocked (s : State) (e : Int) : State :=
  let s := ((s.setFld F.SPN_STATUS_STATE spLocked).setFld F.SPN_STATUS_STEP_PENDING 0).setFld F.SPN_DRIFT_EST 0
  ({ s.slewBy e with lockE := [] } : State).spnSet evLOCK_ACQ

/-- Step the counter by a measured error (R65). -/
def State.stepCount (s : State) (e : Int) : State := ({ s with now := s.now - BitVec.ofInt 60 e } : State).spnSet evSTEPPED

/-- Values in ascending order. -/
def insInt (x : Int) : List Int → List Int
  | [] => [x]
  | y :: ys => if x ≤ y then x :: y :: ys else y :: insInt x ys
def sortInts (l : List Int) : List Int := l.foldr insInt []

/-- The median of eight values: where the two in the middle differ, the spec does not say which value between them: a free value. -/
def State.median (s : State) (l : List Int) : State × Int :=
  let o := sortInts l
  let a := o.getD 3 0
  let b := o.getD 4 0
  if a = b then (s, a)
  else ({ s with free := s.free + 1 }, a + ((Config.freeWord s.free).toNat % ((b - a).toNat + 1) : Nat))

/-- Whether the eight values agree within 4 cycles of one another. -/
def agree8 (l : List Int) : Bool := l.length == 8 && l.all fun a => l.all fun b => decide (a - b ≤ 4)

/-- A valid marker of the source: what it measures, and in ACQUIRING and HOLDOVER the lock it leads to, where the module may lock
(R62, R64, R67; SPN_PHASE_ERR). A step that has waited for a bed falls at an angle 0 (`execStepped`). -/
def State.measure (s : State) (e : Int) (mayLock : Bool) : State :=
  let c := 16 * e
  let s := s.setDev R.SPN_PHASE_ERR ((BitVec.ofInt 16 (if 32767 < c then 32767 else if c < -32767 then -32767 else c)).zeroExtend 32)
  let l := (s.lockE ++ [e]).drop ((s.lockE.length + 1) - 8)
  if s.spin = spAcquiring then
    let s : State := { s with lockE := l }
    if mayLock && agree8 l then
      let (s, m) := s.median l
      if m.natAbs ≤ 64 then s.enterLocked m
      else if s.beds = 0 ∧ s.fld F.SPN_STATUS_STEP_PENDING = 0 then (s.stepCount m).enterLocked 0
      else s.setFld F.SPN_STATUS_STEP_PENDING 1
    else s
  else if s.spin = spHoldover then
    let s : State := { s with lockE := l }
    if mayLock ∧ l.length = 8 then
      let (s, a) := s.median (l.map fun (x : Int) => (x.natAbs : Int))
      if a ≤ 64 then
        let (s, m) := s.median l
        s.enterLocked m
      else s.enterLost
    else s
  else if s.spin = spLocked then s.slewBy e
  else s

/-- The source goes out of lock or sends HOLD = 1: another eligible port becomes the source, or LOCKED becomes HOLDOVER (R61, R64). -/
def State.loseSource (s : State) : State :=
  match s.bestPort with
  | some p => (s.takeSource p).spnSet evSOURCE_CHANGE
  | none =>
    if s.spin = spLocked then s.enterHoldover
    else (s.setFld F.SPN_STATUS_SRC_PORT 0x3F).remeasure

/-- Whether the state follows a source. -/
def State.follows (s : State) : Bool := s.spin == spAcquiring || s.spin == spLocked || s.spin == spHoldover

/-- Whether the lock state lets a pass of a job start: in LOST none of a job on several modules, whose first starts in LOCKED or MASTER;
a job on this module alone also starts in UNLOCKED or ACQUIRING (R69, R70). -/
def State.mayStart (s : State) (j : Job) : Bool :=
  let one := decide (j.mods.length ≤ 1)
  if j.begun then one || s.spin != spLost
  else s.spin == spLocked || s.spin == spMaster || (one && (s.spin == spUnlocked || s.spin == spAcquiring))

/-- A port has missed the marker of a revolution: at the third in turn it goes out of lock (R58, R59). -/
def State.missMarker (s : State) (p : Nat) (r : BitVec 48) : State :=
  let x := s.port p
  let s := s.setPort p { x with run := 0, good := 0, miss := x.miss + 1, got := some r }
  let src := s.follows && s.srcPort == p
  let s := if src && s.spin == spAcquiring then s.remeasure else s
  if x.miss + 1 = 3 then
    let s := (s.setPortLock p false).spnSet evLINK_MISS
    if src then s.loseSource else s
  else s

end Sys2Proof.Machine
end

