-- ==== Sys2Proof/Machine/Spindle.lean ====
section
/-! DEFINITION. The spindle: markers, lock, the master, the reference clock, steps and rest revolutions (02; 12 R400). -/

namespace Sys2Proof.Machine

/-- The next angle 0, or the present one. -/
def State.nextAngle0 (s : State) : State := if s.angle = 0 then s else s.advanceTo (revStart (s.rev + 1))

/-- The marker a module sends: REV, MASTER_ID, HOPS with HOLD, and OFFSET 0 (R56, R71). -/
def State.markerBody (s : State) : List Byte :=
  let hold := s.spin = spUnlocked ∨ s.spin = spAcquiring ∨ s.spin = spHoldover ∨ s.spin = spLost
  leBytes 6 s.rev.toNat ++ leBytes 2 (F.SPN_MASTER_MASTER_ID.of s.spnMaster) ++
    leBytes 2 (s.fld F.SPN_STATUS_HOPS + (if hold then 16 else 0)) ++ leBytes 2 0

/-- MARKER: at the next angle 0, or the present one, every UP port that has not sent its revolution's marker sends it, ahead of every other
flit: the 80-bit marker of R56, then OFFSET (R56; 12 R400). -/
def execMarker (s : State) : Out :=
  if !s.power.pgood then .next s
  else
    let due (s : State) (p : Nat) : Bool := s.portState p == portUp && (s.port p).gave != some s.rev
    let s := if s.angle = 0 ∧ (List.range 40).any (due s) then s else s.advanceTo (revStart (s.rev + 1))
    .next ((List.range 40).foldl (fun (s : State) p =>
      if due s p then s.setPort p { (s.port p).emit s.now 3 0 false false s.markerBody with gave := some s.rev } else s) s)

/-- A valid marker: the port's lock bit and what it offers; then the source, and what the source's marker measures (R58 to R62, R64). -/
def State.validMarker (s : State) (p : Nat) (m : Marker) (e : Int) : State :=
  let x := s.port p
  let s := s.setPort p { x with
    run := x.run + 1, miss := 0, hold := m.hold, hops := m.hops, mid := m.masterId, got := some s.rev
    good := if m.hold || m.hops == 15 then 0 else x.good + 1 }
  let s := if 3 ≤ x.run + 1 then s.setPortLock p true else s
  let s := if s.conflict then s.spnSet evMASTER_CONFLICT else s
  if s.spin = spMaster then s
  else
    let limit := m.hops == 15 && s.eligible.isEmpty
    let s := if limit then s.spnSet evHOP_LIMIT else s
    let src := s.follows && s.srcPort == p
    if src && m.hold then s.loseSource
    else if src then (s.fromSource p).measure e (!limit)
    else s.seekSource

/-- MARKER_ARRIVE: a marker flit with a bad CRC is missed; in LOCKED or HOLDOVER one that is more than 128 cycles off raises
`MARKER_MISMATCH` and is missed; any other is valid (R57, R58). -/
def execMarkerArrive (port : BitVec 6) (m : Marker) (s : State) : Out :=
  if 40 ≤ port.toNat then .refused .illFormed
  else
    let p := port.toNat
    if s.portState p ≠ portUp ∨ m.crcOk = false then .next s
    else
      let e := s.phaseErr p m
      if (s.spin = spLocked ∨ s.spin = spHoldover) ∧ 128 < e.natAbs then .next ((s.spnSet evMARKER_MISMATCH).missMarker p s.rev)
      else .next (s.validMarker p m e)

/-- MARKER_MISS: no valid marker has come to a port in the revolution, which ends (R58, R59). -/
def execMarkerMiss (port : BitVec 6) (s : State) : Out :=
  if 40 ≤ port.toNat then .refused .illFormed
  else
    let p := port.toNat
    let x := s.port p
    if (s.portState p ≠ portUp ∧ s.portLock p = false ∧ x.run = 0) ∨ x.got = some s.rev then .next s
    else
      let r := s.rev
      .next (((s.advanceTo (revStart (r + 1))).missMarker p r).seekSource)

/-- STEPPED: at the first angle 0 at which the module holds no bed, the step that waits takes place in ACQUIRING, and LOST is left for
ACQUIRING (R64 to R66). -/
def execStepped (s : State) : Out :=
  if s.beds ≠ 0 then .next s
  else
    let s' := s.nextAngle0
    if s.spin = spLost then .next (s'.setFld F.SPN_STATUS_STATE spAcquiring).remeasure.seekSource
    else if s.spin = spAcquiring ∧ s.fld F.SPN_STATUS_STEP_PENDING = 1 ∧ agree8 s.lockE = true then
      let (s', m) := s'.median s.lockE
      .next ((s'.stepCount m).enterLocked 0)
    else .next s

/-- LOST: in HOLDOVER the estimated drift reaches its budget (R68). -/
def execLost (s : State) : Out :=
  if s.spin ≠ spHoldover then .next s
  else
    let left := s.driftBudget - s.fld F.SPN_DRIFT_EST
    .next ((s.advanceTo (revStart (s.driftRev + BitVec.ofNat 48 (left * s.driftRate)))).enterLost)

/-- The effect of a write of SPN_CTRL, by a path or by CONFIG: while a bed is held a write that changes MASTER is ignored whole and
raises `CTRL_REJECT`; a change of MASTER acts at the next angle 0 (R71). DESIGN CHOICE (log entry 45): a write of the opposite value before
that angle cancels the change. -/
def State.putSpnCtrl (s : State) (v : Word) : State :=
  let m := v.getLsbD 1
  if s.beds ≠ 0 ∧ b2n m ≠ s.fld F.SPN_CTRL_MASTER then s.spnSet evCTRL_REJECT
  else
    let s := s.setDev R.SPN_CTRL (v &&& 0x00FFBF03#32)
    let s : State := { s with masterTo := if m = (s.spin == spMaster) then none
      else match s.masterTo with
        | some x => some x
        | none => some (m, s.rev + 1) }
    s.seekSource

/-- SPN_CTRL_WRITE (R71). -/
def execSpnCtrlWrite (p : Path) (v : Word) (s : State) : Out := s.devWrite p R.SPN_CTRL v fun s => s.putSpnCtrl v

/-- MASTER_ENTER: at angle 0 after the write, from any state, without a step (R71). -/
def execMasterEnter (s : State) : Out :=
  match s.masterTo with
  | some (true, r) =>
    let s := (s.advanceTo (revStart r)).rebaseDrift
    let s := ((s.setFld F.SPN_STATUS_STATE spMaster).setFld F.SPN_STATUS_HOPS 0).setFld F.SPN_STATUS_SRC_PORT 0x3F
    .next { s.noSlew.remeasure with masterTo := none }
  | _ => .next s

/-- MASTER_LEAVE: at angle 0 after the write the module is UNLOCKED, without a step (R71). -/
def execMasterLeave (s : State) : Out :=
  match s.masterTo with
  | some (false, r) =>
    let s := s.advanceTo (revStart r)
    let s := s.setDev R.SPN_MASTER s.spnMaster
    let s := ((s.setFld F.SPN_STATUS_STATE spUnlocked).setFld F.SPN_STATUS_HOPS 0xF).setFld F.SPN_MASTER_VALID 0
    .next { s with masterTo := none }
  | _ => .next s

/-- REFCLK_LOSS: REFCLK_OK clears in the cycle in which it is raised; the PLL holds (R51). -/
def execRefclkLoss (s : State) : Out :=
  if s.fld F.SPN_STATUS_REFCLK_OK = 0 then .next s
  else .next ((s.rebaseDrift.setFld F.SPN_STATUS_REFCLK_OK 0).spnSet evREFCLK_LOSS)

/-- PLL_LOCK: the PLL reports lock on the returned reference (R51). -/
def execPllLock (s : State) : Out := .next (s.rebaseDrift.setFld F.SPN_STATUS_REFCLK_OK 1)

/-- SLEWING: a revolution's slew takes 1/16 cycle off the error; SLEWING clears when none is left (R65). -/
def execSlewing (s : State) : Out :=
  if s.fld F.SPN_STATUS_SLEWING = 0 then .next s
  else
    let s := s.advanceTo (revStart (s.rev + 1))
    let e := if 0 < s.slewE then s.slewE - 1 else if s.slewE < 0 then s.slewE + 1 else 0
    .next { (s.setFld F.SPN_STATUS_SLEWING (b2n (decide (e ≠ 0)))) with slewE := e }

/-! ### Rest revolutions (R77 to R80) -/

def State.setRest (s : State) (b : Nat) (r : Rest) : State := { s with rests := SMap.set (fun _ => Rest.none) s.rests b r }

/-- Add rest revolutions to a bed held: from N + 2, after those still to come (R79). -/
def State.addRests (s : State) (b n : Nat) : State :=
  if n = 0 ∨ (s.jobOfBed b).isNone then s
  else
    let r := s.rest b
    let from0 := s.rev + 2
    let start := match r.runs.getLast? with
      | some (f, c) => if revNotAfter from0 (f + BitVec.ofNat 48 c) then f + BitVec.ofNat 48 c else from0
      | none => from0
    s.setRest b { r with runs := r.runs ++ [(start, n)] }

/-- REST_CMD: only a headstock core's write counts; a write from another path is ignored (R79). -/
def execRestCmd (p : Path) (v : Word) (s : State) : Out :=
  s.devWrite p R.SPN_REST_CMD v fun s => if isHs p then s.addRests (bits v.toNat 20 16) (bits v.toNat 7 0) else s

/-- The bed's next rest revolution: the first whose angle 0 is not past. -/
def State.nextRest (s : State) (b : Nat) : Option (BitVec 48) :=
  let r0 := if s.angle = 0 then s.rev else s.rev + 1
  (s.rest b).runs.findSome? fun (f, n) =>
    if revNotAfter (f + BitVec.ofNat 48 n) r0 then none else some (if revNotAfter f r0 then r0 else f)

/-- REST_REVOLUTION: the bed's next rest revolution begins (R77). Nothing of the bed starts there, and its pausing timers do not count it
(`Rest.skip`, `Rest.between`, `Rest.expiry`). -/
def execRestRevolution (bed : BitVec 5) (s : State) : Out :=
  match s.nextRest bed.toNat with
  | some r => .next (s.advanceTo (revStart r))
  | none => .next s

/-- SPN_REST_PEND: beds with rest revolutions to come or in progress. -/
def State.restPend (s : State) : Word :=
  (List.range 32).foldl (fun w b =>
    if (s.rest b).runs.any (fun (f, n) => !revNotAfter (f + BitVec.ofNat 48 n) s.rev) then w ||| (1#32 <<< b) else w) 0

end Sys2Proof.Machine
end

