-- ==== Sys2Proof/Machine/Firmware.lean ====
section
/-! DEFINITION. Start-up, recovery, firmware update, self-test, identity and attestation (16 R486 to R506). -/

namespace Sys2Proof.Machine

/-! ### The image (R491, R492) -/

/-- The first check of R492 that an image fails: its boot cause. -/
def State.fwCheck (s : State) (i : FwImage) : Option Nat :=
  if i.magic ≠ 0x57465348#32 ∨ i.format ≠ 1 ∨ i.plen.toNat % 64 ≠ 0 ∨ 1835008 < i.plen.toNat ∨ i.plen.toNat ≤ i.entry.toNat ∨ i.zeros = false
      ∨ i.total ≠ 17104 + i.plen.toNat then some 5
  else if i.keyHashOk = false ∨ 3 < i.keyslot.toNat then some 6
  else if bit s.fuses.revoked.toNat i.keyslot.toNat then some 7
  else if i.svn.toNat < s.fuses.svn.toNat then some 8
  else if i.rsaOk = false then some 9
  else if i.slhOk = false then some 10
  else none

/-- FW_LOAD's status for a cause. -/
def fwStatus (cause : Nat) : Nat := if cause = 7 ∨ cause = 8 then stREVOKED else stBADSIG

/-- An image that no check passes, which a flash that failed read-back holds (R501). -/
def FwImage.bad : FwImage :=
  { magic := 0, format := 0, svn := 0, keyslot := 0, fwver := 0, plen := 0, entry := 0, statever := 0, statemin := 0, zeros := false, total := 0,
    keyHashOk := false, rsaOk := false, slhOk := false, digest := 0 }

/-! ### Registers the headstock keeps -/

def State.onHs (s : State) (f : Headstock → Headstock) : State := { s with hs := f s.hs }

/-- FAULT, its pin with it (18 R541). -/
def State.setFault (s : State) (b : Bool) : State :=
  let s := s.setFld F.DEV_STATUS_FAULT (b2n b)
  { s with power := { s.power with fault := b } }

/-- Fused fields (R490), as the registers show them. -/
def State.showFuses (s : State) : State :=
  let f := s.fuses
  let s := s.setDev R.DEV_ORDER (BitVec.ofNat 32 (f.width.toNat * 2 ^ 24 + f.lpGib.toNat * 2 ^ 12 + 40 * f.width.toNat))
  let s := s.setFld F.LP_CFG_CAP (b2n (decide (f.lpGib.toNat = 1536)))
  (s.setDev R.DEV_SERIAL_LO (f.serial.truncate 32)).setDev R.DEV_SERIAL_HI ((f.serial >>> 32).truncate 32)

def State.showMain (s : State) : State :=
  let f := s.fuses
  let s := s.showFuses.setDev R.DEV_STEP (BitVec.ofNat 32 (f.major.toNat * 256 + f.minor.toNat))
  let s := (s.setFld F.HS_FW_SEC_REVOKED f.revoked.toNat).setFld F.HS_FW_SEC_FUSE_SVN f.svn.toNat
  let s := s.setFld F.PW_STATUS_INITREST f.initRest.toNat
  (List.range 20).foldl (fun (s : State) n => (s.setFld (F.PW_VLIM_VMAX n) f.vmax.toNat).setFld (F.PW_VLIM_VMIN n) f.vmin.toNat) s

/-- The running image's fields, and the standby pair's: 0 EMPTY, 1 LOADED, 2 ARMED (R493). -/
def State.showImages (s : State) : State :=
  let s := match s.hs.running with
    | some i => ((s.setDev R.HS_FW_VER i.fwver).setFld F.HS_FW_SEC_SVN i.svn.toNat).setFld F.HS_FW_SEC_KEYSLOT i.keyslot.toNat
    | none => s
  s.setFld F.HS_FW_SEC_SB_SVN ((s.hs.standby.map fun i => i.svn.toNat).getD 0)
def State.setSb (s : State) (n : Nat) : State := s.setFld F.HS_PAIR_SB n

/-! ### Reset (00 R15; R498) -/

/-- The domain of a device register. -/
def devPor (off : Nat) : Bool := match findRow devRows off with
  | some r => decide (r.dom = .por)
  | none => false

/-- The idle power until a revolution in which no bed issues gives one: 620 W, and no power rests (18 R534). -/
def State.idleUnread (s : State) : State := (s.setFld F.PW_STATUS_PIDLE 620).setFld F.PW_STATUS_KP 0

/-- The state at the first cycle of a start-up: every MOD, CORE and THR register at its reset value, those whose reset value is a fuse
at their fuses, the spindle count among them; POR registers, flash and the record of what was sent stand. `keep`: the memories keep their
contents until step 6 zeroes them. The idle power is 620 W until it is measured (18 R534). DESIGN CHOICE (log entry 44): the access paths' latches, which 00 R11 places in no domain, are empty
then. -/
def State.modReset (s : State) (keep : Bool) : State :=
  let k (c : Core) : Core := { Core.reset with pm := c.pm, pmPar := c.pmPar, sp := c.sp, spPar := c.spPar, psn := c.psn }
  let cores : SMap Core := (s.cores.map fun p => (p.1, k p.2)).filter fun p => decide (p.2 ≠ Core.reset)
  ({ State.reset with
    pending := s.pending, fuses := s.fuses, free := s.free, hostOut := s.hostOut, answers := s.answers, power := s.power
    regions := s.regions.map fun p => (p.1, { p.2 with read := false, was := true, since := 0, fresh := none }), ibis := s.ibis
    dev := SMap.keep devPor s.dev
    dram := if keep then s.dram else [], dramPsn := if keep then s.dramPsn else []
    cores := if keep then cores else []
    hs := { Headstock.reset with flash := s.hs.flash, certs := s.hs.certs, idkeys := s.hs.idkeys, retired := s.hs.retired.take s.hs.inFlash
                                 inFlash := Nat.min s.hs.inFlash s.hs.retired.length } } : State).showMain.idleUnread

/-! ### Start-up (R486 to R489) -/

/-- Bounds of the steps (R486). -/
def stepBound : Nat → Nat
  | 2 => 2048
  | 3 => 65536
  | 4 => 131072
  | 5 => 1751040
  | 6 => 786432
  | _ => 16384

/-- The step of a cause (R489), and the state of a step. -/
def causeStep (c : Nat) : Nat := if c = 1 then 2 else if c ≤ 4 then 3 else if c ≤ 10 then 4 else if c ≤ 13 then 5 else if c = 14 then 6 else 7
def stepState (n : Nat) : Nat := if n ≤ 3 then mBOOT else if n = 4 then mVERIFY else if n = 5 then mCALIBRATE else mINIT

/-- A step fails: causes 4 to 10 lead to RECOVERY, others leave the step's state; both assert FAULT (R489, R494). -/
def State.stepFails (s : State) (step cause : Nat) : State :=
  let s := s.setFld F.HS_BOOT_STAT_FAIL 1
  let s := (s.setFld F.HS_BOOT_STAT_STEP step).setFld F.HS_BOOT_STAT_CAUSE cause
  (s.setFld F.DEV_STATUS_STATE (if 4 ≤ cause ∧ cause ≤ 10 then mRECOVERY else stepState step)).setFault true

/-- Step 5: LPDDR6 channels are trained, fabric ports begin training and LOCK_EN is set; the fabric complex is enabled, which the spec
leaves unsaid (log entry 23). -/
def State.calibrate (s : State) : State :=
  let s := (s.setDev R.LP_TRAINED 0xFFFFFFFF#32).setFld F.FX_CTRL_EN 1
  let s := (List.range 40).foldl (fun (s : State) p => (s.setFld (F.FX_PORT_CTRL_EN p) 1).startTraining p) s
  s.putSpnCtrl (F.SPN_CTRL_LOCK_EN.put (s.devW R.SPN_CTRL) 1)

/-- Step 6: memory, scratchpads, program memories and tile files are zeroed (10; 07 R246; 03 R106). -/
def State.zeroDram (s : State) : State := { s with dram := [], dramPsn := [] }
def State.zeroCores (s : State) : State :=
  let k (c : Core) : Core := { c with pm := [], pmPar := [], sp := [], spPar := [], psn := [], bdata := [], bscale := [], bext := [] }
  let l : SMap Core := (s.cores.map fun p => (p.1, k p.2)).filter fun p => decide (p.2 ≠ Core.reset)
  { s with cores := l }

/-- Step 8: READY, and rings are fetched (R486, R505). -/
def State.ready (s : State) : State :=
  let s := (s.setFld F.DEV_STATUS_STATE mSERVICE).setFld F.DEV_STATUS_READY 1
  (s.setDev R.HS_READY_REV (s.rev.truncate 32)).fetchAll

/-- Steps 5 to 8 with an image that is now running; `found`: what fails on the way, 0 for nothing. -/
def State.startImage (s : State) (i : FwImage) (found : Nat) : State :=
  let s := (s.onHs fun h => { h with running := some i, standby := none }).showImages.setSb 0
  if 11 ≤ found ∧ found ≤ 13 then s.stepFails 5 found
  else
    let s := s.calibrate
    if found = 14 then s.stepFails 6 14
    else
      let s := s.zeroDram.zeroCores
      if found = 15 then s.stepFails 7 15
      else (s.publishDtab.setFld F.HS_BOOT_STAT_STEP 8).ready

/-- Start-up from step 2 with the image `i` that flash holds; `f`: the cause that a step finds (R486, R489). -/
def State.startUp (s : State) (i : FwImage) (f : Nat) : State :=
  let s := s.onHs fun h => { h with flash := some i }
  if f = 1 then s.showFuses.stepFails 2 1
  else
    let s := s.showMain
    if f = 2 ∨ f = 3 then s.stepFails 3 f
    else
      let s := if s.portState 40 = portUp then s else s.trained 40
      if f = 4 then s.stepFails 3 4
      else match s.fwCheck i with
      | some c => s.stepFails 4 c
      | none => s.startImage i f

/-- START_UP: steps 2 to 8 from power-good, with the image that flash holds; `found` is the cause that a step finds, 0 for none. Causes 5
to 10 come from the image. The steps' durations are only bounded: the model takes no time for them (log entry 24). -/
def execStartUp (img : FwImage) (found : BitVec 5) (s : State) : Out :=
  let f := found.toNat
  if (5 ≤ f ∧ f ≤ 10) ∨ 15 < f then .refused .illFormed
  else if s.power.pgood = false ∨ s.fld F.DEV_STATUS_STATE ≠ mBOOT ∨ s.fld F.HS_BOOT_STAT_FAIL = 1 then .next s
  else
    .next (s.startUp (s.hs.flash.getD img) f)

/-- STEP_TIME: the step in progress, which began with the module's reset at revolution 0, overruns its bound (R489; log entry 24). -/
def execStepTime (s : State) : Out :=
  let st := s.fld F.DEV_STATUS_STATE
  if s.power.pgood = false ∨ mINIT < st ∨ s.fld F.HS_BOOT_STAT_FAIL = 1 then .next s
  else
    let n := s.fld F.HS_BOOT_STAT_STEP
    .next ((s.advanceTo (revStart (BitVec.ofNat 48 (stepBound n + 1)))).stepFails n 16)

/-- The load that HS_RECOV_CMD.GO begins: outside RECOVERY nothing but WRFLASH; there the image is fetched, verified, written to flash where
asked, and started; a load that a register write of GO began has been fetched already (R495; log entry 41). -/
def State.recover (s : State) (wrflash : Bool) (img : FwImage) : State :=
  let s := s.setFld F.HS_RECOV_CMD_WRFLASH (b2n wrflash)
  if s.fld F.DEV_STATUS_STATE ≠ mRECOVERY then s
  else
    let n := s.fld F.HS_RECOV_LEN_LEN
    let a := (s.devW R.HS_RECOV_ADDR_LO).toNat + 2 ^ 32 * (s.devW R.HS_RECOV_ADDR_HI).toNat
    let cause := if 1852112 < n then some 5 else s.fwCheck { img with total := n }
    let s := if 1852112 < n ∨ s.fld F.HS_RECOV_STAT_BUSY = 1 then s else s.hostFetch a n
    match cause with
    | some c => (s.evNote R.HS_RECOV_STAT 0x20000000#32).setDev R.HS_RECOV_STAT (BitVec.ofNat 32 (2 ^ 29 + c))
    | none =>
      let s := if wrflash then s.onHs fun h => { h with flash := some { img with total := n } } else s
      let s := ((s.evNote R.HS_RECOV_STAT 0x40000000#32).setDev R.HS_RECOV_STAT 0x40000000#32).setDev R.HS_BOOT_STAT 0x40050000#32
      (s.setFault false).startImage { img with total := n } 0

/-- RECOVERY_GO: HS_RECOV_CMD.GO fetches, verifies and starts an image, and with WRFLASH writes it to flash first (R495). -/
def execRecoveryGo (p : Path) (wrflash : Bool) (img : FwImage) (s : State) : Out :=
  s.devWrite p R.HS_RECOV_CMD (BitVec.ofNat 32 (2 ^ 31 + b2n wrflash * 2 ^ 30)) fun s => s.recover wrflash img

/-- A reboot: the MOD domain is reset and step 2 begins again (R498). -/
def State.reboot (s : State) : State := (s.modReset true).setFault false

/-- REBOOT: a write of HS_CTRL.REBOOT (R498). -/
def execReboot (p : Path) (s : State) : Out :=
  .next (s.ack p R.HS_CTRL (if s.acceptsDev p R.HS_CTRL 1 then some (if s.power.pgood then s.reboot else s) else none))

/-! ### Commands (R496, R497) -/

/-- FW_INFO. -/
def execFwInfo (ring : BitVec 4) (cid : BitVec 16) (s : State) : Out :=
  withCmd s ring cid 0x10 fun _ =>
    let w := s.devW R.HS_FW_SEC
    .next (s.complete ring cid stOK [s.devW R.HS_FW_VER, BitVec.ofNat 32 (F.HS_FW_SEC_SVN.of w + 2 ^ 8 * F.HS_FW_SEC_SB_SVN.of w
      + 2 ^ 16 * F.HS_FW_SEC_FUSE_SVN.of w + 2 ^ 24 * F.HS_FW_SEC_KEYSLOT.of w + 2 ^ 26 * s.fld F.HS_PAIR_SB)])

/-- The standby pair takes an image, LOADED, or is left EMPTY (R497). -/
def State.putStandby (s : State) (i : Option FwImage) : State := ((s.onHs fun h => { h with standby := i }).setSb (b2n i.isSome)).showImages

/-- An image for the standby pair is verified; a read of it that the host rejects ends the command (R492, R497; 15 R461). -/
def State.loadStandby (s : State) (ring : BitVec 4) (cid : BitVec 16) (n : Nat) (img : Option FwImage) : State :=
  match img with
  | none => (s.putStandby none).complete ring cid stNOTHOME []
  | some i =>
    let i := { i with total := n }
    match s.fwCheck i with
    | some c => (s.putStandby none).complete ring cid (fwStatus c) []
    | none => (s.putStandby (some i)).complete ring cid stOK []

/-- FW_LOAD: the image goes to the standby pair and is verified; while that pair is ARMED, `BUSY`. `img`: none where the host rejects the
read. -/
def execFwLoad (ring : BitVec 4) (cid : BitVec 16) (img : Option FwImage) (s : State) : Out :=
  withCmd s ring cid 0x11 fun x =>
    if s.fld F.HS_PAIR_SB = 2 then .next (s.complete ring cid stBUSY [])
    else .next ((s.hostFetch (x.q 2) (x.w 4).toNat).loadStandby ring cid (x.w 4).toNat img)

/-- The answer to FW_ACTIVATE: the standby pair is armed, or why it may not be (R497, R499). -/
def State.activate (s : State) (ring : BitVec 4) (x : HostCmd) : State :=
  match s.hs.running, s.hs.standby with
  | some r, some l =>
    if s.fld F.HS_PAIR_SB ≠ 1 then s.complete ring x.cid stBUSY []
    else if r.statever.toNat < l.statemin.toNat ∨ l.statever.toNat < r.statever.toNat then s.complete ring x.cid stFWFAIL []
    else
      let fetched := x.expire - BitVec.ofNat 48 (s.cmdTimer 0x12 x.words + 1)
      let h : Handover := { ring := ring, cid := x.cid, job := x.job, flash := (x.w 2).getLsbD 0
                            rev := if x.job = 0 then some (fetched + 2) else none, swapped := false, writing := false }
      ((s.onHs fun y => { y with handover := some h }).setSb 2).startCmd ring x.cid
  | _, _ => s.complete ring x.cid stBUSY []

/-- FW_ACTIVATE: the standby pair is armed for a handover at a boundary of the job, or in the second revolution after the fetch (R499). -/
def execFwActivate (ring : BitVec 4) (cid : BitVec 16) (s : State) : Out :=
  withCmd s ring cid 0x12 fun x =>
    if x.job = 0 then .next (s.activate ring x) else withCmdJob s ring cid x fun _ => .next (s.activate ring x)

/-- The pairs exchange roles, the images with them. -/
def State.swapPairs (s : State) : State :=
  let s := (s.onHs fun h => { h with running := h.standby, standby := h.running }).showImages
  s.setFld F.HS_PAIR_ACTIVE (1 - s.fld F.HS_PAIR_ACTIVE)

/-- The revolution a handover takes place in: fixed, or the boundary of its job. -/
def State.handoverRev (s : State) (h : Handover) : Option (BitVec 48) :=
  let boundary (j : Job) : Option (BitVec 48) := if j.begun && !j.again && j.cause.isNone then j.named else none
  h.rev <|> (s.job h.job).bind boundary

/-- The headstock pairs exchange roles at angle 0 of `n` (R499, R500). -/
def State.handOver (s : State) (h : Handover) (n : BitVec 48) : State :=
  let s := (s.advanceTo (revStart n)).swapPairs
  let s := (s.setFld F.HS_PAIR_HREV (n.toNat % 65536)).setFld F.HS_PAIR_CONF 0
  s.onHs fun y => { y with handover := some { h with rev := some n, swapped := true } }

/-- HANDOVER: at angle 0 of H the headstock pairs exchange roles (R499, R500). -/
def execHandover (s : State) : Out :=
  match s.hs.handover with
  | none => .next s
  | some h =>
    match s.handoverRev h with
    | none => .next s
    | some n =>
      if h.swapped then .next s
      else
        .next (s.handOver h n)

/-- A handover's command ends. -/
def State.endHandover (s : State) (h : Handover) (status : Nat) (ws : List Word) : State :=
  (s.onHs fun y => { y with handover := none }).complete h.ring h.cid status ws

/-- The incoming pair is confirmed: the outgoing pair is EMPTY, and the command ends or its image is written to flash (R501). -/
def State.confirmed (s : State) (h : Handover) : State :=
  let s := (((s.onHs fun y => { y with standby := none }).setFld F.HS_PAIR_CONF 1).setSb 0).showImages
  if h.flash then s.onHs fun y => { y with handover := some { h with writing := true } }
  else s.endHandover h stOK [(h.rev.getD 0).truncate 32]

/-- Control returns at angle 0 of H + 65 (R501; log entry 4). -/
def State.handBack (s : State) (h : Handover) : State :=
  let s := (s.advanceTo (revStart (h.rev.getD 0 + 65))).swapPairs
  let loaded := (Config.freeWord s.free).getLsbD 0
  let s : State := { s with free := s.free + 1 }
  let s := ((s.onHs fun y => { y with standby := if loaded then y.standby else none }).setSb (b2n loaded)).showImages
  s.endHandover h stFWFAIL []

/-- HANDOVER_CONFIRM: the incoming pair confirms itself within 64 revolutions; the outgoing pair becomes EMPTY (R501). -/
def execHandoverConfirm (s : State) : Out :=
  match s.hs.handover with
  | none => .next s
  | some h =>
    let n := h.rev.getD 0
    if !h.swapped || h.writing || revNotAfter (n + 65) s.rev then .next s
    else
      .next (s.confirmed h)

/-- HANDOVER_CONFIRM_TIMEOUT: without confirmation control returns at angle 0 of H + 65. What the pair that failed then holds is not given:
a free value decides whether it stands LOADED or EMPTY (R501; log entry 4). -/
def execHandoverConfirmTimeout (s : State) : Out :=
  match s.hs.handover with
  | none => .next s
  | some h =>
    if !h.swapped || h.writing then .next s
    else .next (s.handBack h)

/-- FLASH_WRITE_DONE: the new image is in flash, or its read-back failed (R501). -/
def execFlashWriteDone (ok : Bool) (s : State) : Out :=
  match s.hs.handover with
  | none => .next s
  | some h =>
    if !h.writing then .next s
    else
      let s := s.onHs fun y => { y with flash := if ok then y.running else some FwImage.bad }
      .next (s.endHandover h (if ok then stOK else stFLASHERR) [(h.rev.getD 0).truncate 32])

/-- SVN_COMMIT: the fused counter rises to the running image's SVN. -/
def execSvnCommit (ring : BitVec 4) (cid : BitVec 16) (s : State) : Out :=
  withCmd s ring cid 0x17 fun _ =>
    let n := Nat.max s.fuses.svn.toNat (s.fld F.HS_FW_SEC_SVN)
    let s : State := { s with fuses := { s.fuses with svn := BitVec.ofNat 8 n } }
    .next ((s.setFld F.HS_FW_SEC_FUSE_SVN n).complete ring cid stOK [BitVec.ofNat 32 n])

/-- KEY_REVOKE: a key slot's revocation bit is blown, but not that of the running image or of the last slot left. A slot above 3 is
`BADCMD` (log entry 22). -/
def execKeyRevoke (ring : BitVec 4) (cid : BitVec 16) (s : State) : Out :=
  withCmd s ring cid 0x18 fun x =>
    let n := (x.w 2).toNat
    let m := s.fuses.revoked ||| BitVec.ofNat 4 (2 ^ (n % 4))
    if 3 < n then .next (s.complete ring cid stBADCMD [])
    else if n = s.fld F.HS_FW_SEC_KEYSLOT ∨ m = 15 then .next (s.complete ring cid stBUSY [])
    else
      let s : State := { s with fuses := { s.fuses with revoked := m } }
      .next ((s.setFld F.HS_FW_SEC_REVOKED m.toNat).complete ring cid stOK [])

/-! ### TEST (R502) -/

/-- The module leaves service for the tests of mask `m` (R502). -/
def State.enterTest (s : State) (m : BitVec 4) : State :=
  let s := (s.setFld F.DEV_STATUS_READY 0).setFld F.DEV_STATUS_STATE mTEST
  s.onHs fun h => { h with tested := h.tested ||| (m &&& 7) }

/-- TEST: with no bed held the module leaves service and runs the selected tests; `failed` are those that fail. What a destructive test
leaves in memory until TEST_END is not given (log entry 25). -/
def execTest (ring : BitVec 4) (cid : BitVec 16) (failed : BitVec 4) (s : State) : Out :=
  withCmd s ring cid 0x15 fun x =>
    if s.beds ≠ 0 then .next (s.complete ring cid stBUSY [])
    else
      let m : BitVec 4 := (x.w 2).truncate 4
      .next ((s.enterTest m).complete ring cid stOK [(failed &&& m).zeroExtend 32])

/-- What destructive tests touched is zeroed again, with the distance table in place, and the module returns to SERVICE (R502). -/
def State.leaveTest (s : State) : State :=
  let t := s.hs.tested
  let s := if t.getLsbD 0 then
      let b := s.dtab
      ((s.zeroDram.setBytes (dtabPage 0) (b.take 65536)).setBytes (dtabPage 1) (b.drop 65536))
    else s
  let s := if t.getLsbD 1 then s.zeroCores else s
  (s.onHs fun h => { h with tested := 0 }).ready

/-- TEST_END: what a destructive test touched is zeroed again, the distance table stands, and the module returns to SERVICE. -/
def execTestEnd (ring : BitVec 4) (cid : BitVec 16) (s : State) : Out :=
  withCmd s ring cid 0x16 fun _ =>
    .next ((if s.fld F.DEV_STATUS_STATE = mTEST then s.leaveTest else s).complete ring cid stOK [])

/-! ### Identity and attestation (R503, R504) -/

/-- The identity keys are there; ATTEST and IDENTITY commands that wait take their bounds from now (R503). -/
def State.deriveKeys (s : State) (keys : List Byte) : State :=
  let s := s.onHs fun h => { h with idkeys := if h.idkeys.isEmpty then keys else h.idkeys }
  let f (x : HostCmd) : HostCmd :=
    if x.opc = 0x13 ∨ x.opc = 0x14 then { x with expire := s.rev + BitVec.ofNat 48 ((if x.opc = 0x13 then 98304 else 4096) + 1) } else x
  let s : State := { s with rings := s.rings.map fun (n, r) => (n, { r with cmds := r.cmds.map f }) }
  s.setFld F.HS_BOOT_STAT_IDK 1

/-- KEY_DERIVATION: the identity keys are there; ATTEST and IDENTITY commands that wait for them take their bounds from now. A module
derives the same keys each time. -/
def execKeyDerivation (keys : List Byte) (s : State) : Out :=
  if keys.length ≠ 432 then .refused .illFormed
  else if s.serving = false ∨ s.fld F.HS_BOOT_STAT_IDK = 1 then .next s
  else
    .next (s.deriveKeys keys)

/-- IDENTITY: the public keys and certificates, up to the length given; a shorter buffer than 432 bytes is `BADCMD` (log entry 22). -/
def execIdentity (ring : BitVec 4) (cid : BitVec 16) (s : State) : Out :=
  withHostCmd s ring cid (· == 0x14) fun x =>
    let n := (x.w 4).toNat
    if n < 432 then .next (s.complete ring cid stBADCMD [])
    else if s.fld F.HS_BOOT_STAT_IDK = 0 then .next (if x.started then s else s.startCmd ring cid)
    else
      let bs := (s.hs.idkeys ++ s.hs.certs).take n
      .next ((s.hostWrite (x.q 2) bs).complete ring cid stOK [BitVec.ofNat 32 bs.length])

/-- The octets of a digest. -/
def digestBytes (d : BitVec 384) : List Byte := (List.range 48).map fun i => d.extractLsb' (8 * (47 - i)) 8

/-- The body of an attestation report (R504). -/
def State.report (s : State) (nonce : List Byte) : List Byte :=
  let run := s.hs.running.getD FwImage.bad
  leBytes 4 0x54535441 ++ leBytes 2 1 ++ leBytes 2 (b2n s.hs.standby.isSome + 2 * b2n (s.spin == spLocked)) ++ leBytes 8 s.fuses.serial.toNat
    ++ leBytes 4 (s.devW R.DEV_ORDER).toNat ++ leBytes 4 (s.devW R.DEV_STEP).toNat ++ leBytes 1 s.fuses.svn.toNat ++ leBytes 1 run.svn.toNat
    ++ leBytes 1 run.keyslot.toNat ++ leBytes 1 (s.fld F.DEV_STATUS_STATE) ++ leBytes 4 run.fwver.toNat ++ leBytes 8 s.rev.toNat ++ nonce
    ++ digestBytes run.digest ++ digestBytes ((s.hs.standby.map fun i => i.digest).getD 0) ++ digestBytes Config.romDigest ++ leBytes 8 0

/-- ATTEST: the report with the two signatures over it, which the command carries; a buffer that is too short is `BADCMD` (log entry 22), and a nonce
the host does not give ends it (15 R461). -/
def execAttest (ring : BitVec 4) (cid : BitVec 16) (nonce sigs : List Byte) (s : State) : Out :=
  withHostCmd s ring cid (· == 0x13) fun x =>
    if sigs.length ≠ 16608 then .refused .illFormed
    else if (x.w 6).toNat < 16848 then .next (s.complete ring cid stBADCMD [])
    else if s.fld F.HS_BOOT_STAT_IDK = 0 then .next (if x.started then s else s.startCmd ring cid)
    else
      let s := s.hostFetch (x.q 2) 48
      if nonce.length < 48 then .next (s.complete ring cid stNOTHOME [])
      else .next ((s.hostWrite (x.q 4) (s.report (nonce.take 48) ++ sigs)).complete ring cid stOK [])

end Sys2Proof.Machine
end

