-- ==== Sys2Proof/Machine/Power.lean ====
section
/-! DEFINITION. Power, voltage and temperature, and boundary scan (18 R527 to R535, R541 to R543). -/

namespace Sys2Proof.Machine

/-! ### Events (R542, R544) -/

/-- Bits of PW_EVENT. -/
abbrev pwCAP_ACTIVE : Nat := 0
abbrev pwCAP_UNMET : Nat := 1
abbrev pwTHERM_REST : Nat := 2
abbrev pwTHERM_FULL : Nat := 3
abbrev pwSTACK_HOT : Nat := 4
abbrev pwMARGIN : Nat := 5
abbrev pwMARGIN_MAX : Nat := 6
abbrev pwCOOLANT : Nat := 7
abbrev pwINPUT_LOW : Nat := 8
abbrev pwINPUT_HIGH : Nat := 9

/-- Set a bit of PW_EVENT: a bit that sets raises an in-band interrupt with IBI_EN (R542). -/
def State.pwSet (s : State) (b : Nat) : State :=
  let w := s.devW R.PW_EVENT
  let s := s.evNote R.PW_EVENT (BitVec.ofNat 32 (2 ^ b))
  if bit w.toNat b then s
  else
    let s := s.setDev R.PW_EVENT (w ||| BitVec.ofNat 32 (2 ^ b))
    if s.fld F.PW_CTRL_IBI_EN = 1 then { s with ibis := s.ibis ++ [b] } else s

def State.onPower (s : State) (f : Power → Power) : State := { s with power := f s.power }

/-- The input voltage as measured. -/
def State.setVin (s : State) (d : Nat) : State := s.setFld F.PW_INPUT_VIN d

/-- The input's warnings (R527). -/
def State.inputEvents (s : State) (d : Nat) : State :=
  if d < 480 then s.pwSet pwINPUT_LOW else if 580 < d then s.pwSet pwINPUT_HIGH else s

/-! ### Rails (R527 to R529) -/

/-- The rails are removed: PGOOD falls, and every memory but flash loses its contents (R529). -/
def State.railsOff (s : State) : State :=
  let s := s.modReset false
  let s : State := { s with regions := [], kpPrev := 0, windowed := 0 }
  s.onPower fun p => { p with pgood := false }

/-- FAULT_N low, or high. -/
def State.faultPin (s : State) (b : Bool) : State := s.setFault b

/-- The lock-out of an overvoltage ends with the input, at `d` decivolts, below 58.0 V and PWR_EN low (R527). -/
def Power.unlock (p : Power) (d : Nat) : Power := { p with ovLock := p.ovLock && !(decide (d < 580) && !p.en) }

/-- STBY appears at an input voltage: a power-on reset (R527, R528). -/
def State.standbyOn (s : State) (d : Nat) : State :=
  let t := s.modReset false
  let t : State := { t with dev := [], regions := [], ibis := [] }
  let t : State := { t with power := ({ s.power with stby := true, pgood := false, trip := false, fault := false } : Power).unlock d }
  (t.showFuses.setVin d).inputEvents d

/-- POWER_APPLIED: STBY appears with the input from 46.0 to 60.0 V; a power-on reset takes every register to its reset value, and the
ordering identity is read from the standby fuse bank (R527, R528, R542; 00 R15). -/
def execPowerApplied (decivolts : BitVec 10) (s : State) : Out :=
  let d := decivolts.toNat
  if d < 460 ∨ 600 < d then .refused .illFormed
  else if s.power.stby then .next s
  else
    .next (s.standbyOn d)

/-- Whether every temperature last read is below 90 degrees (R533). -/
def State.cooled (s : State) : Bool :=
  (List.range 20).all fun n => decide (s.fld (F.PW_REGION_DIE n) < 360) && decide (s.fld (F.PW_REGION_STACK n) < 360)

/-- The voltage of a region before its first window: the characterised voltage and 30 mV, in the fused range (R531). -/
def State.startVolts (s : State) : Nat :=
  Nat.max s.fuses.vmin.toNat (Nat.min s.fuses.vmax.toNat (s.fuses.vchar.toNat + 30))

/-- Whether a power sequence may begin (R527, R529, R533). -/
def State.maySequence (s : State) : Bool :=
  let p := s.power
  p.stby && !p.pgood && !p.ovLock && !(p.fault && p.en) && (!p.trip || (!p.en && s.cooled))

/-- The rails come up and PGOOD asserts (R529, R534). -/
def State.railsOn (s : State) : State :=
  let s := (s.modReset false).onPower fun p => { p with en := true, pgood := true, trip := false, fault := false }
  (List.range 20).foldl (fun (s : State) n => s.setFld (F.PW_REGION_VCORE n) s.startVolts) s

/-- The JTAG port's identity code (R543). -/
def State.idcode (s : State) : Word :=
  BitVec.ofNat 32 (s.fld F.DEV_STEP_MAJOR % 16 * 2 ^ 28 + 0x0C09 * 2 ^ 12 + 0x4D3 * 2 + 1)

/-- POWER_SEQUENCE: PWR_EN rises with STBY present, or is high as STBY appears: the rails come up in order and PGOOD asserts. The spindle
count runs from 0, and every MOD register takes its reset value (R529; 00 R15; 02 R64). A sequence that failed, and a thermal trip, wait for
PWR_EN to be low first. -/
def execPowerSequence (s : State) : Out :=
  if s.maySequence then .next s.railsOn else .next s

/-- SEQFAIL: a rail is not in regulation within 10 ms: the sequence stops and FAULT_N asserts (R529). -/
def execSeqfail (rail : BitVec 4) (s : State) : Out :=
  let p := s.power
  if 6 < rail.toNat then .refused .illFormed
  else if p.stby = false ∨ p.pgood ∨ p.ovLock ∨ (p.fault && p.en) then .next s
  else
    let s := (s.setFld F.PW_STATUS_SEQFAIL 1).setFld F.PW_STATUS_RAIL rail.toNat
    .next ((s.onPower fun p => { p with en := true }).faultPin true)

/-- POWER_DOWN: PWR_EN falls: the rails are removed and FAULT clears, but a thermal trip's FAULT stands until PWR_EN has been cycled; the
lock-out of an overvoltage may end (R527, R529, R541). -/
def execPowerDown (s : State) : Out :=
  if s.power.en = false then .next s
  else
    let trip := s.power.trip
    .next ((s.railsOff.onPower fun p => ({ p with en := false } : Power).unlock (s.fld F.PW_INPUT_VIN)).faultPin trip)

/-- STBY and the rails are removed. -/
def State.standbyOff (s : State) (lock : Bool) : State :=
  let t := s.railsOff
  let t : State := { t with dev := [], ibis := [] }
  t.onPower fun p => { p with stby := false, trip := false, fault := false, ovLock := p.ovLock || lock }

/-- POWER_LOSS: the input has stayed below 46.0 V for 100 microseconds (R527, R528). -/
def execPowerLoss (s : State) : Out := if s.power.stby then .next (s.standbyOff false) else .next s

/-- OVERVOLTAGE: the input exceeds 60.0 V: the rails are removed, and the module is locked out (R527). -/
def execOvervoltage (s : State) : Out := if s.power.stby then .next (s.standbyOff true) else .next s

/-- INPUT_LOW: the input is from 46.0 up to 48.0 V (R527). -/
def execInputLow (decivolts : BitVec 10) (s : State) : Out :=
  let d := decivolts.toNat
  if d < 460 ∨ 480 ≤ d then .refused .illFormed
  else if s.power.stby then .next (((s.setVin d).pwSet pwINPUT_LOW).onPower fun p => p.unlock d) else .next s

/-- INPUT_HIGH: the input is above 58.0 up to 60.0 V (R527). -/
def execInputHigh (decivolts : BitVec 10) (s : State) : Out :=
  let d := decivolts.toNat
  if d ≤ 580 ∨ 600 < d then .refused .illFormed
  else if s.power.stby then .next ((s.setVin d).pwSet pwINPUT_HIGH) else .next s

/-! ### Voltage (R531, R532) -/

/-- The voltage of a region after a window with a lowest margin (R531). -/
def State.voltsAfter (s : State) (n low : Nat) : Nat :=
  let v := s.fld (F.PW_REGION_VCORE n)
  let v' := if !(s.rgn n).alarm && decide (2 < low) then v - 5 else if low < 1 then v + 5 else v
  Nat.max (s.fld (F.PW_VLIM_VMIN n)) (Nat.min (s.fld (F.PW_VLIM_VMAX n)) v')

/-- MARGIN_READ: a region's monitor over a window of 16 revolutions: its lowest and highest margin in steps of 5 mV (R531). -/
def execMarginRead (region : BitVec 5) (low high : BitVec 8) (s : State) : Out :=
  let n := region.toNat
  if 20 ≤ n ∨ high.toNat < low.toNat then .refused .illFormed
  else if s.power.pgood = false then .next s
  else
    .next ((s.setFld (F.PW_REGION_VCORE n) (s.voltsAfter n low.toNat)).setRegion n { s.rgn n with alarm := false })

/-- A replica alarm of a region (R531, R532). -/
def State.marginAlarm (s : State) (n : Nat) : State :=
  let x := s.rgn n
  let v := s.fld (F.PW_REGION_VCORE n)
  let top := s.fld (F.PW_VLIM_VMAX n)
  let s := (s.setFld (F.PW_REGION_VCORE n) (Nat.min top (v + 10))).pwSet pwMARGIN
  -- an alarm while the rest holds begins its 16 revolutions again
  let on := decide (top ≤ v) || (x.marg.map fun r => decide ((s.rev - r).toNat ≤ 16)).getD false
  let s := s.setRegion n { x with alarm := true, marg := if on then some s.rev else x.marg }
  if top ≤ v then s.pwSet pwMARGIN_MAX else s

/-- MARGIN: a replica alarm raises VCORE by 2 steps; at VMAX it begins the region's margin rest (R531, R532). -/
def execMargin (region : BitVec 5) (s : State) : Out :=
  let n := region.toNat
  if 20 ≤ n then .refused .illFormed
  else if s.power.pgood = false then .next s
  else
    .next (s.marginAlarm n)

/-! ### Temperature (R533) -/

/-- What a temperature reading of a region does while PGOOD is high: refresh, thermal rests and events (R533). -/
def State.thermal (s : State) (n die stack inlet : Nat) : State :=
  let x := s.rgn n
  let hot := if 340 ≤ stack then true else if stack < 328 then false else x.hot
  let therm := if 400 ≤ stack ∨ 420 ≤ die then 16 else if 380 ≤ stack ∨ 400 ≤ die then Nat.max 8 x.therm else x.therm
  let below := decide (stack < 368) && decide (die < 388)
  let s := s.setRegion n (s.putNeed n { x with read := true, hot := hot, therm := therm, cool := if below then some (x.cool.getD s.rev) else none })
  let s := if 340 ≤ stack then s.pwSet pwSTACK_HOT else s
  let s := if 380 ≤ stack ∨ 400 ≤ die then s.pwSet pwTHERM_REST else s
  let s := if 400 ≤ stack ∨ 420 ≤ die then s.pwSet pwTHERM_FULL else s
  if 180 < inlet then s.pwSet pwCOOLANT else s

/-- The temperature registers of a region and of the coolant (R533). -/
def State.putTemps (s : State) (n die stack inlet outlet : Nat) : State :=
  let s := (s.setFld (F.PW_REGION_DIE n) die).setFld (F.PW_REGION_STACK n) stack
  (s.setFld F.PW_COOL_INLET inlet).setFld F.PW_COOL_OUTLET outlet

/-- TEMPERATURE_READING: the headstock's reading of a region, its stack and the coolant. -/
def execTemperatureReading (region : BitVec 5) (die stack inlet outlet : BitVec 10) (s : State) : Out :=
  let n := region.toNat
  if 20 ≤ n then .refused .illFormed
  else if s.power.stby = false then .next s
  else
    let s := s.putTemps n die.toNat stack.toNat inlet.toNat outlet.toNat
    if s.power.pgood = false then .next s else .next (s.thermal n die.toNat stack.toNat inlet.toNat)

/-- THERMAL_TRIP: a stack at 110 degrees or a region at 115 powers the module down; FAULT_N asserts (R533). -/
def execThermalTrip (region : BitVec 5) (die stack : BitVec 10) (s : State) : Out :=
  let n := region.toNat
  if 20 ≤ n then .refused .illFormed
  else if s.power.stby = false ∨ (stack.toNat < 440 ∧ die.toNat < 460) then .next s
  else
    let s := (s.setFld (F.PW_REGION_DIE n) die.toNat).setFld (F.PW_REGION_STACK n) stack.toNat
    .next ((s.railsOff.onPower fun p => { p with trip := true }).faultPin true)

/-! ### The power window (R534) -/

/-- A quotient in single precision, nearest even, in units of 2^-40. -/
def f32Div (a b : Nat) : Nat :=
  let x := a * 2 ^ 40 / b
  let u := 2 ^ (Nat.log2 x - 23)
  let q := a * 2 ^ 40 / (b * u)
  let r := a * 2 ^ 40 % (b * u)
  (if b * u < 2 * r || (2 * r == b * u && q % 2 == 1) then q + 1 else q) * u

/-- The power rest count: P, PI and LIMIT in W, and the count of the window that ends (R534). Every value is 0 or above 0. -/
def restCount (capEn : Bool) (p pi limit kp : Nat) : Nat × Bool :=
  let num := 16 * p - kp * pi
  let pa := if num = 0 then 0 else f32Div num (16 - kp)
  let above := decide (limit * 2 ^ 40 < pa)
  if !capEn || !above then (0, above)
  else if pi * 2 ^ 40 < pa then
    let q := f32Div (16 * (pa - limit * 2 ^ 40)) (pa - pi * 2 ^ 40)
    (Nat.min 14 ((q + 2 ^ 40 - 1) / 2 ^ 40), above)
  else (14, above)

/-- Regions of the cores of a bed. -/
def State.bedRegions (s : State) (j : Job) : List Nat :=
  (j.cores s).foldl (fun (l : List Nat) c => if l.contains (s.region c) then l else l ++ [s.region c]) []

/-- The rest count of a bed: the largest of the power count, its regions' thermal and margin rests, and INITREST before its first whole
window. -/
def State.bedRest (s : State) (j : Job) (kp : Nat) : Nat :=
  let marg (x : Region) : Nat := match x.marg with
    | some r => if (s.rev - r).toNat ≤ 16 then 8 else 0
    | none => 0
  (s.bedRegions j).foldl (fun k n => Nat.max k (Nat.max (s.rgn n).therm (marg (s.rgn n))))
    (Nat.max kp (if s.windowed.getLsbD j.bed.toNat then 0 else s.fld F.PW_STATUS_INITREST))

/-- Thermal rests end once the region has been below its limits for one whole window. -/
def State.endTherm (s : State) : State :=
  (List.range 20).foldl (fun (s : State) n =>
    let x := s.rgn n
    match x.cool with
    | some r => if 0 < x.therm ∧ 16 ≤ (s.rev - r).toNat then s.setRegion n { x with therm := 0 } else s
    | none => s) s

/-- The revolution at whose angle 0 the window of 16 ends. -/
def State.windowEnd (s : State) : BitVec 48 :=
  let next : BitVec 48 := if s.angle = 0 then s.rev else s.rev + 1
  next + BitVec.ofNat 48 ((16 - next.toNat % 16) % 16)

/-- A power window ends in the present cycle: every bed's rests are computed and commanded (R534, R535; P and PI whole
watts, DEDUCED, log entry 57). -/
def State.endWindow (s : State) (watts : Nat) (idle : Option (BitVec 12)) : State :=
  let s := match idle with | some i => s.setFld F.PW_STATUS_PIDLE i.toNat | none => s
  let s := (s.setFld F.PW_INPUT_POWER watts).endTherm
  let limit := Nat.max 1200 (Nat.min 2800 (s.fld F.PW_CAP_LIMIT))
  let (kp, above) := restCount (s.fld F.PW_CTRL_CAP_EN = 1) watts (s.fld F.PW_STATUS_PIDLE) limit s.kpPrev
  let s := if s.kpPrev = 14 ∧ s.fld F.PW_CTRL_CAP_EN = 1 ∧ above then s.pwSet pwCAP_UNMET else s
  let s := if 0 < kp then s.pwSet pwCAP_ACTIVE else s
  let s : State := { s.setFld F.PW_STATUS_KP kp with kpPrev := kp }
  let s := s.jobs.foldl (fun (s : State) j => s.addRests j.bed.toNat (s.bedRest j kp)) s
  { s with windowed := s.jobs.foldl (fun w j => w ||| (1#32 <<< j.bed.toNat)) s.windowed }

/-- POWER_WINDOW: at angle 0 of the revolution that ends a window of 16: P is its average power, `idle` the average over the latest whole
revolution in which no bed issued. Every bed's rests are computed and commanded (R534, R535). -/
def execPowerWindow (watts : BitVec 12) (idle : Option (BitVec 12)) (s : State) : Out :=
  if s.serving = false then .next s
  else
    .next ((s.advanceTo (revStart s.windowEnd)).endWindow watts.toNat idle)

/-! ### Boundary scan (R543) -/

/-- EXTEST: with no bed held, the ports and the link that the test has driven are FAILED when it ends; otherwise it acts as BYPASS. The cause
in FX_PORTn_STAT is 2, signal loss (log entry 26). -/
def execExtest (ports : BitVec 40) (link : Bool) (s : State) : Out :=
  if s.beds ≠ 0 ∨ s.power.stby = false ∨ s.power.pgood = false then .next s
  else
    let s := (List.range 40).foldl (fun (s : State) p => if ports.getLsbD p then s.failPort p 2 else s) s
    .next (if link then s.failPort 40 2 else s)

end Sys2Proof.Machine
end

