-- ==== Sys2Proof/Machine/Flag.lean ====
section
/-! DEFINITION. Flag and barrier instructions, the messages of the flag network they send, and the flag registers (08 R288 to R297,
R302). -/

namespace Sys2Proof.Machine

/-- An explicit wait whose condition does not hold: with TF = 1 it completes at once with `TIMER` and clears TF (03 R111). -/
def waitOn (c : CoreId) (t : Thr) (gd : Reg) (kind obj : Nat) (s : State) : Res :=
  if (s.th c t).st bTF then .seq ((s.onTh c t fun x => x.setSt bTF false).putG c t gd 1 1) else .wait s kind obj

/-- WAITF: wait until an own flag equals a value (R292, 03 R107). -/
def execWaitf (c : CoreId) (t : Thr) (gd : Reg) (n : BitVec 6) (p : Bool) (s : State) : Out :=
  issue c t (.waitf c t gd n p) (fun s =>
    if (s.core c).flagWord.getLsbD n.toNat = p then .seq (s.putG c t gd 0 1) else waitOn c t gd 1 n.toNat s) s

/-- A flag message to the core in a register; a number at or above 40 x L is recorded as BADCORE (R290). -/
def State.sendFlag (s : State) (c : CoreId) (t : Thr) (gc : Reg) (n : BitVec 6) (v : Bool) : State :=
  let d : CoreId := ((s.th c t).gr gc).truncate 12
  if s.hasCore d then s.send c d (.flag n v) else (s.onCore c fun k => k.flagErr s.now 1 t.toNat 0 d.toNat).toHeadstock (.flagUnit c 1)

/-- SETF: a flag of a core becomes 1 after the pair's latency (R290). -/
def execSetf (c : CoreId) (t : Thr) (gc : Reg) (n : BitVec 6) (s : State) : Out :=
  issue c t (.setf c t gc n) (fun s => .seq (s.sendFlag c t gc n true)) s

/-- CLRF: as SETF, clearing (R290). -/
def execClrf (c : CoreId) (t : Thr) (gc : Reg) (n : BitVec 6) (s : State) : Out :=
  issue c t (.clrf c t gc n) (fun s => .seq (s.sendFlag c t gc n false)) s

/-- TSTF: read an own flag (R290). -/
def execTstf (c : CoreId) (t : Thr) (gd : Reg) (n : BitVec 6) (s : State) : Out :=
  issue c t (.tstf c t gd n) (fun s => .seq (s.putG c t gd (if (s.core c).flagWord.getLsbD n.toNat then 1 else 0) 1)) s

/-- WAITB: wait for the completion of a barrier generation (R296). -/
def execWaitb (c : CoreId) (t : Thr) (gd : Reg) (b : BitVec 4) (s : State) : Out :=
  issue c t (.waitb c t gd b) (fun s =>
    let k := s.core c
    if k.phase b != k.tph t b then .seq ((s.onCore c fun k => k.endWaitb t b).putG c t gd (k.barStatus b) 1)
    else waitOn c t gd 2 b.toNat s) s

/-- ARRB: the phase bit takes the local PHASE, and an arrival leaves for the supervisor; without one BADBAR is recorded (R295). -/
def execArrb (c : CoreId) (t : Thr) (b : BitVec 4) (s : State) : Out :=
  issue c t (.arrb c t b) (fun s =>
    let k := s.core c
    let s := s.onCore c fun k =>
      (k.setTph t b (k.phase b)).onTh t fun x => { x with arrived := x.arrived ||| (1#16 <<< b.toNat) }
    if k.fld F.CORE_SUPV_VALID = 1 then .seq (s.send c (BitVec.ofNat 12 (k.fld F.CORE_SUPV_SUPV)) (.arrival b))
    else .seq ((s.onCore c fun k => k.flagErr s.now 2 0 b.toNat c.toNat).toHeadstock (.flagUnit c 2))) s

/-! ### Messages -/

/-- The messages of a kind that reach a core in the earliest cycle one is due. -/
def State.arriving (s : State) (c : CoreId) (p : NetBody → Bool) : List NetMsg :=
  match earliest (fun m => m.dst == c && p m.body) (fun _ _ => false) s.net with
  | some e => s.net.filter fun m => m.dst == c && p m.body && m.due == e.due
  | none => []

/-- Whether a message sets or clears a flag; whether it is an arrival at a barrier; whether it is a completion notice. -/
def NetBody.isFlag (b : NetBody) : Bool := match b with | .flag .. => true | _ => false
def NetBody.isArrival (b : NetBody) : Bool := match b with | .arrival _ => true | _ => false
def NetBody.isNotice (b : NetBody) : Bool := match b with | .notice .. => true | _ => false

/-- Take messages from the network at their arrival; each counts as received (19 R556, event 9). -/
def State.takeAll (s : State) (c : CoreId) (ms : List NetMsg) : State :=
  let s := (ms.head?.map fun m => s.advanceTo m.due).getD s
  (ms.foldl State.dropMsg s).onCore c fun k => k.count 9 none ms.length

/-- The flag changes of one cycle: the sets, then the clears, which a set of the same flag in the cycle governs (R291). -/
def State.flagsArrive (s : State) (c : CoreId) (ms : List NetMsg) : State :=
  let s := ms.foldl (fun s m => match m.body with | .flag n true => s.flagTo c n.toNat true | _ => s) s
  ms.foldl (fun s m => match m.body with | .flag n false => s.flagTo c n.toNat false | _ => s) s

/-- FLAG_MESSAGE_ARRIVE: the flag changes that reach a core in one cycle take effect together: a set governs a clear (R290, R291). -/
def execFlagMessageArrive (c : CoreId) (s : State) : Out :=
  withCore s c (
    let ms := s.arriving c NetBody.isFlag
    .next ((s.takeAll c ms).flagsArrive c ms))

/-- The arrivals `mine` of one cycle at barrier `i` of a supervisor (R295). -/
def State.arrive (s : State) (c : CoreId) (i : Nat) (mine : List NetMsg) : State :=
  match mine.getLast? with
  | none => s
  | some last =>
    let k := s.core c
    let cnt := k.fld (F.FLAG_BARCFG_COUNT i)
    if k.fld (F.FLAG_BARCFG_EN i) = 0 ∨ cnt = 0 then
      mine.foldl (fun s m => s.onCore c fun k => k.flagErr s.now 2 0 i m.src.toNat) s
    else
      let n := k.fld (F.FLAG_BARCFG_ARR i) + mine.length
      if n < cnt then s.onCore c fun k => k.setFld (F.FLAG_BARCFG_ARR i) n
      else s.completeBar c (BitVec.ofNat 4 i) (n - cnt) false last.src.toNat

/-- BARRIER_ARRIVAL: the arrivals that reach a supervisor in one cycle are all counted; those at a barrier with EN = 0, or COUNT 0,
are recorded as BADBAR (R295). -/
def execBarrierArrival (c : CoreId) (s : State) : Out :=
  withCore s c (
    let ms := s.arriving c NetBody.isArrival
    let s := s.takeAll c ms
    .next ((List.range 16).foldl (fun s i =>
      s.arrive c i (ms.filter fun m => m.body == .arrival (BitVec.ofNat 4 i))) s))

/-- A notice reaches a core: its local PHASE toggles, the phase bits of threads that have not arrived follow, and the threads that
wait for it wake (R295, R296). -/
def Core.notice (k : Core) (now : Count) (b : BitVec 4) (abandoned : Bool) : Core :=
  let k := k.setW R.FLAG_PHASE (setBit (k.w R.FLAG_PHASE) b.toNat (!k.phase b))
  let k := { k with nst := if abandoned then k.nst ||| (1#16 <<< b.toNat) else k.nst &&& ~~~(1#16 <<< b.toNat) }
  let k := k.traceAt now 8 0 (2 * b.toNat + b2n (k.phase b)) 0
  allThr.foldl (fun (k : Core) t =>
    let x := k.th t
    if x.inWait && x.wkind == 2 && x.wobj == b.toNat && (x.wake.isNone || x.wake == some { cyc := now + 2, status := 1 }) then
      if k.phase b = k.tph t b then k else (k.onTh t fun x => x.wakeAt now (k.barStatus b)).endWaitb t b
    else if x.arrived.getLsbD b.toNat then k
    else k.setTph t b (k.phase b)) k

/-- BARRIER_NOTICE: a completion notice reaches a core (R295, R296). -/
def execBarrierNotice (c : CoreId) (s : State) : Out :=
  withCore s c (
    let ms := (s.arriving c NetBody.isNotice).take 1
    let s := s.takeAll c ms
    .next (ms.foldl (fun s m => match m.body with
      | .notice b a => s.onCore c fun k => k.notice s.now b a
      | _ => s) s))

/-! ### Registers (R302, R303) -/

/-- FLAG_SET: a register write sets flags of a core (R302). -/
def execFlagSet (p : Path) (c : CoreId) (mask : BitVec 64) (s : State) : Out :=
  s.winWrite p c R.FLAG_SET_LO (mask.truncate 32) fun s => (s.emptyWl p).flagReg p c mask true

/-- FLAG_CLR: a register write clears flags of a core (R302). -/
def execFlagClr (p : Path) (c : CoreId) (mask : BitVec 64) (s : State) : Out :=
  s.winWrite p c R.FLAG_CLR_LO (mask.truncate 32) fun s => (s.emptyWl p).flagReg p c mask false

/-- COMPLETE: FLAG_BARCMD completes the open generation; waiters wake with `OK` (R302). -/
def execComplete (p : Path) (c : CoreId) (bar : BitVec 4) (s : State) : Out :=
  s.winWrite p c R.FLAG_BARCMD (BitVec.ofNat 32 (2 ^ 30 + bar.toNat)) fun s => s.barCmd c 1 bar

/-- BARRIER_ABANDON: as COMPLETE, but waiters wake with `ABANDONED` (R302). -/
def execBarrierAbandon (p : Path) (c : CoreId) (bar : BitVec 4) (s : State) : Out :=
  s.winWrite p c R.FLAG_BARCMD (BitVec.ofNat 32 (2 ^ 31 + bar.toNat)) fun s => s.barCmd c 2 bar

/-- BARRIER_RESET: ARR becomes 0 and OVER clears (R302). -/
def execBarrierReset (p : Path) (c : CoreId) (bar : BitVec 4) (s : State) : Out :=
  s.winWrite p c R.FLAG_BARCMD (BitVec.ofNat 32 (2 ^ 31 + 2 ^ 30 + bar.toNat)) fun s => s.barCmd c 3 bar

end Sys2Proof.Machine
end

