-- ==== Sys2Proof/Machine/Thread.lean ====
section
/-! DEFINITION. Waits, wakes, timers, watchdogs, locks, thread control and fault reports, and the CORE_ registers that act
(03 R104, R108 to R120, R129, R130, R560, R561). -/

namespace Sys2Proof.Machine

/-! ### Waits (R107 to R113, R560) -/

/-- WAITT: wait on the own timer, according to TA and TF (R560). -/
def execWaitt (c : CoreId) (t : Thr) (s : State) : Out :=
  issue c t (.waitt c t) (fun s =>
    let x := s.th c t
    if x.st bTF then .seq (s.onTh c t fun x => x.setSt bTF false)
    else if x.st bTA then .wait s 6 0
    else .seq s) s

/-- THREAD_WAKE: a thread in WAIT whose wake is decided completes its wait in its wake slot, the first at or after c + 2 (R108); in
a rest revolution of its bed, in its first slot after it (02 R78). -/
def execThreadWake (c : CoreId) (t : Thr) (s : State) : Out :=
  withCore s c (
    let x := s.th c t
    match x.state, x.wake, (s.core c).waitInstr c t with
    | .wait, some w, some i =>
      -- a guarded load has read by cycle c + 1; a fault of its words traps then (07 R254)
      let s := s.advanceTo (w.cyc - 1)
      let bad := (SMap.get (fun _ => []) (s.core c).gots t.toNat).any fun v => v.2.isSome
      let d := if bad then s.now else slotFrom t (s.afterRest c (later (later s.now w.cyc) x.next))
      let s := s.advanceTo d
      let s := s.onCore c fun k => k.count 3 (some t) ((d - x.next).toNat / 4)
      .next (s.completeWait c t i w.status d)
    | _, _, _ => .next s)

/-- TIMER_FIRE: the cycle counter equals TCMP: TA clears and TF sets; an explicit wait wakes with `TIMER`, which clears TF again
(R110, R113, R114; 19 R548). -/
def execTimerFire (c : CoreId) (t : Thr) (s : State) : Out :=
  withCore s c (
    let x := s.th c t
    if !x.st bTA then .next s
    else
      let s := s.advanceTo x.tcmp
      .next (s.onTh c t fun x =>
        let x := x.setSt bTA false
        if x.state = .wait ∧ x.timed = true ∧ x.wake = none then x.wakeAt x.tcmp 1 else x.setSt bTF true))

/-- Whether an event that wakes the thread reaches the core in cycle `d`: a flag message, a barrier notice, the answer to a claim, a message
that the dispatcher is to find, or a unit that commits in the line (R113; 09 R323). -/
def State.eventAt (s : State) (c : CoreId) (t : Thr) (d : Count) : Bool :=
  let k := s.core c
  let x := k.th t
  let i := k.waitInstr c t
  let conn : BitVec 4 := BitVec.ofNat 4 x.wobj
  let msg : Bool := s.net.any fun m => m.dst == c && m.due == d && match m.body with
    | .flag n v => x.wkind == 1 && n.toNat == x.wobj && v == waitPol i
    | .notice b _ => x.wkind == 2 && b.toNat == x.wobj
    | .claimAns n gen _ _ _ res => x.wkind == 4 && bit x.wobj 4 && n == conn && gen == (k.cn conn).gen && res != .refused
    | _ => false
  let r := (k.cnRing conn).toNat
  let found : Bool := x.wkind == 4 && !bit x.wobj 4 && !(k.rg r).found && k.isValid (k.rgHead r) && hdrType (k.hdr (k.rgHead r)) == 1
  let l := x.wobj / 16
  let unit : Bool := x.wkind == 5 && s.mesh.any fun m => m.core == c && decide (m.place = .outC) && m.due == d &&
    decide (m.u.addr.toNat / 16 ≤ l) && decide (16 * l < m.u.addr.toNat + m.u.words.length)
  msg || found || unit

/-- WATCHDOG: the wait watchdog expires: the wait is cancelled and the thread traps at its wait instruction; a timer or an event of the
same cycle wakes it instead (R112, R113; 09 R320, R323). -/
def execWatchdog (c : CoreId) (t : Thr) (s : State) : Out :=
  withCore s c (
    let k := s.core c
    let x := k.th t
    let at_ := revStart (s.wdogRev c t)
    if x.state ≠ .wait ∨ x.wake.isSome = true ∨ (x.timed && x.st bTA && x.tcmp == at_) = true ∨ s.eventAt c t at_ = true then .next s
    else
      let st := if x.wkind = 4 then k.cnState (BitVec.ofNat 4 x.wobj) <<< 29 else 0
      .next ((s.advanceTo at_).takeTrap c t x.pc 0x0B (BitVec.ofNat 8 x.wkind) (BitVec.ofNat 32 (st + x.wobj))))

/-! ### Locks (R116, R117, R561) -/

/-- A `LOCK` fault. -/
def lockFault (s : State) (detail : Byte) (n : BitVec 4) : Res := .fault s 0x0A detail (n.zeroExtend 32)

/-- LOCK: acquire a lock or wait for it (R116). -/
def execLock (c : CoreId) (t : Thr) (gd : Reg) (n : BitVec 4) (s : State) : Out :=
  issue c t (.lock c t gd n) (fun s =>
    let k := s.core c
    if k.lock n = lockFree then .seq ((s.setCore c (k.setLock n lockHeld t)).putG c t gd 0 1)
    else if k.lock n = lockAbandoned then .seq (s.putG c t gd 2 1)
    else if k.lockOwner n = t then lockFault s 1 n
    else match waitOn c t gd 3 n.toNat s with
      | .wait s kind obj => .wait (s.onCore c fun k => k.setWaiters n (k.waiters n ++ [t])) kind obj
      | r => r) s

/-- TRYLOCK: acquire a lock without waiting (R116). -/
def execTrylock (c : CoreId) (t : Thr) (gd : Reg) (n : BitVec 4) (s : State) : Out :=
  issue c t (.trylock c t gd n) (fun s =>
    let k := s.core c
    if k.lock n = lockFree then .seq ((s.setCore c (k.setLock n lockHeld t)).putG c t gd 0 1)
    else if k.lock n = lockAbandoned then .seq (s.putG c t gd 2 1)
    else if k.lockOwner n = t then lockFault s 1 n
    else .seq (s.putG c t gd 3 1)) s

/-- UNLOCK: the owner releases a lock, or hands it to the earliest waiter (R116, R117). -/
def execUnlock (c : CoreId) (t : Thr) (n : BitVec 4) (s : State) : Out :=
  issue c t (.unlock c t n) (fun s =>
    let k := s.core c
    if k.lock n = lockHeld ∧ k.lockOwner n = t then .seq (s.setCore c (k.unlock n s.now)) else lockFault s 0 n) s

/-- LRST: make an abandoned lock FREE (R116). -/
def execLrst (c : CoreId) (t : Thr) (n : BitVec 4) (s : State) : Out :=
  issue c t (.lrst c t n) (fun s =>
    let k := s.core c
    if k.lock n = lockHeld then lockFault s 2 n
    else if k.lock n = lockAbandoned then .seq (s.setCore c (k.setLock n lockFree 0))
    else .seq s) s

/-- LOCK_WPOS_WRITE: rebuild every lock's waiter list (R561). -/
def execLockWposWrite (p : Path) (c : CoreId) (v : Word) (s : State) : Out :=
  s.winWrite p c R.CORE_LOCK_WPOS v fun s => s.onCore c fun k => k.putWpos v

/-! ### Thread control (R120) -/

/-- THRST: reset a sibling; naming itself is `ILLEGAL` (R120). -/
def execThrst (c : CoreId) (t : Thr) (k : Thr) (s : State) : Out :=
  issue c t (.thrst c t k) (fun s =>
    if k = t then .fault s 0x01 0 ((headOf (.thrst c t k)).zeroExtend 32) else .seq (s.resetThread c k false)) s

/-- THSTART: start a sibling in IDLE or HALTED at a register's address; Z tells whether it started (R120). -/
def execThstart (c : CoreId) (t : Thr) (k : Thr) (r : Reg) (s : State) : Out :=
  issue c t (.thstart c t k r) (fun s =>
    let st := (s.th c k).state
    let ok := st == .idle || st == .halted
    let pc : BitVec 15 := ((s.th c t).gr r).truncate 15
    .seq ((s.onCore c fun y => y.startThread k pc (s.now + 4)).onTh c t fun x => x.setSt bZ ok)) s

/-- THREAD_RESET: CORE_CTRL.TRST of a thread (R120). -/
def execThreadReset (p : Path) (c : CoreId) (t : Thr) (s : State) : Out :=
  s.winWrite p c R.CORE_CTRL (BitVec.ofNat 32 (2 ^ (16 + t.toNat))) fun s => s.resetThread c t false

/-- THREAD_START: CORE_CTRL.START of a thread (R120). -/
def execThreadStart (p : Path) (c : CoreId) (t : Thr) (s : State) : Out :=
  s.winWrite p c R.CORE_CTRL (BitVec.ofNat 32 (2 ^ (8 + t.toNat))) fun s => s.startBit c t

/-- CORE_RESET: CORE_CTRL.CRST (R119, R120). -/
def execCoreReset (p : Path) (c : CoreId) (s : State) : Out :=
  s.winWrite p c R.CORE_CTRL 1 fun s => s.resetCore c

/-- A write of CORE_CTRL acts in the order CRST, TRST, START (R120). -/
def State.coreCtrl (s : State) (c : CoreId) (v : Word) : State :=
  let s := if v.getLsbD 0 then s.resetCore c else s
  let s := allThr.foldl (fun (s : State) t => if v.getLsbD (16 + t.toNat) then s.resetThread c t false else s) s
  allThr.foldl (fun (s : State) t => if v.getLsbD (8 + t.toNat) then s.startBit c t else s) s

/-! ### Fault reports (R129) -/

/-- A report enters the fault-source queue of 8 entries; a full queue drops it and sets OVF. -/
def Core.pushFault (k : Core) (src : CoreId) : Core :=
  if k.fsq.length < 8 then { k with fsq := k.fsq ++ [src] } else { k with fsqOvf := true }

/-- FAULT_REPORT: a stopped thread's core number reaches the supervisor (R129). -/
def execFaultReport (src : CoreId) (s : State) : Out :=
  withCore s src (
    match earliest (fun m => m.src == src && m.body == .fault src) (fun _ _ => false) s.net with
    | none => .next s
    | some m =>
      let s := (s.dropMsg m).advanceTo m.due
      .next (s.onCore m.dst fun k => ((k.count 9 none 1).pushFault src).hwFlags m.dst s.now k.flagWord))

/-- RDFS: pop the oldest entry; bit 31 shows an empty queue, bit 30 OVF, which clears (R129). -/
def execRdfs (c : CoreId) (t : Thr) (gd : Reg) (s : State) : Out :=
  issue c t (.rdfs c t gd) (fun s =>
    let k := s.core c
    let v := b2n k.fsq.isEmpty <<< 31 + b2n k.fsqOvf <<< 30 + ((k.fsq.head?.map BitVec.toNat).getD 0)
    .seq ((s.setCore c (({ k with fsq := k.fsq.drop 1, fsqOvf := false } : Core).hwFlags c s.now k.flagWord)).putG c t gd (BitVec.ofNat 32 v) 1)) s

/-! ### Program memory (R104) -/

/-- Whether every thread of the core is IDLE, HALTED or STOPPED. -/
def Core.atRest (k : Core) : Bool :=
  allThr.all fun t => let st := (k.th t).state; st == .idle || st == .halted || st == .stopped

/-- Write one program memory word, with valid parity. -/
def Core.putPm (k : Core) (a : Nat) (v : PWord) : Core :=
  { k with pm := SMap.set (fun _ => 0) k.pm a v, pmPar := SMap.set (fun _ => false) k.pmPar a (pmParity v) }

/-- The word CORE_PM_DATA shows, with PERR. -/
def Core.pmData (k : Core) : Word :=
  let a := k.fld F.CORE_PM_ADDR_ADDR
  BitVec.ofNat 32 (b2n (k.pmIsBad a) <<< 14 + (SMap.get (fun _ => (0 : PWord)) k.pm a).toNat)

/-- A write of CORE_PM_DATA: discarded, with PM_REJECT, while a thread is in another state (R104). -/
def Core.writePm (k : Core) (v : Word) : Core :=
  if k.atRest then k.putPm (k.fld F.CORE_PM_ADDR_ADDR) (v.truncate 14) else k.setFld F.CORE_STATUS_PM_REJECT 1

/-- ADDR is incremented after each access. -/
def Core.stepPm (k : Core) : Core := k.setFld F.CORE_PM_ADDR_ADDR ((k.fld F.CORE_PM_ADDR_ADDR + 1) % 32768)

/-- PM_DATA_ACCESS: read or write the program memory word at ADDR (R104). -/
def execPmDataAccess (p : Path) (c : CoreId) (wr : Option Word) (s : State) : Out :=
  s.winAccess p c R.CORE_PM_DATA wr (s.core c).pmData (fun v s => s.onCore c fun k => k.writePm v) (fun s => s.onCore c Core.stepPm)

end Sys2Proof.Machine
end

