-- ==== Sys2Proof/Machine/Debug.lean ====
section
/-! DEFINITION. Stopping and stepping, bed stops, thread and scratchpad contents, capture windows and trace reads (19 R547 to
R558). -/

namespace Sys2Proof.Machine

/-! ### Stopping and stepping (R547 to R551) -/

/-- A thread in RUN or WAIT enters DEBUG stop in the present cycle; its watchdog stands (R547, R548). -/
def State.stopThread (s : State) (c : CoreId) (t : Thr) (aux : Nat) : State :=
  let x := s.th c t
  if x.state = .run ∨ x.state = .wait then
    (s.onTh c t fun x => (x.pauseWait (s.restOf c) s.rev).stop).trace c 12 t aux x.pc.toNat
  else s

/-- A thread in DEBUG stop leaves it at cycle `at_`: it issues first at or after `at_` + 4; a wait goes on. Its breakpoint's
instruction issues without a match (R547, R551). -/
def Core.runThread (k : Core) (c : CoreId) (t : Thr) (at_ : Count) (step : Bool) : Core :=
  let x := k.th t
  if x.state ≠ .debug then k
  else
    let st := if !step then 0 else if x.waits || x.stalled then 2 else 1
    let k := (k.tilesRun t at_).onTh t fun x => { x with next := later x.next (at_ + 4), bpPass := true, sas := false, step := st }
    if x.waits then k.resumeWait c t at_ else (k.onTh t fun x => { x with state := .run }).endAbandoned c t at_

/-- A thread that leaves DEBUG stop while its bed is frozen is FROZEN (R553). -/
def State.refreeze (s : State) (c : CoreId) (t : Thr) : State := if s.frozenAt c then s.onTh c t fun x => x.freeze (s.restOf c) s.rev else s

/-- RUN of a thread in the present cycle. -/
def State.runThread (s : State) (c : CoreId) (t : Thr) : State :=
  let x := s.th c t
  let s' := (s.onCore c fun k => k.runThread c t s.now false).refreeze c t
  if x.state = .debug then s'.trace c 12 t 2 x.pc.toNat else s'

/-- A write of CORE_DBGCMD (R547). -/
def State.dbgCmd (s : State) (c : CoreId) (t : Thr) (cmd : Nat) : State :=
  if cmd = 1 then s.stopThread c t 1
  else if cmd = 2 then s.runThread c t
  else if cmd = 3 then (s.onCore c fun k => k.runThread c t s.now true).refreeze c t
  else s

/-- The word of a CORE_DBGCMD write. -/
def dbgWord (t : Thr) (cmd : Nat) : Word := BitVec.ofNat 32 (t.toNat <<< 16 + cmd)

/-- STOP: CORE_DBGCMD STOP (R547). -/
def execStop (p : Path) (c : CoreId) (t : Thr) (s : State) : Out :=
  s.winWrite p c R.CORE_DBGCMD (dbgWord t 1) fun s => s.dbgCmd c t 1

/-- DEBUG_RUN: CORE_DBGCMD RUN (R547). -/
def execDebugRun (p : Path) (c : CoreId) (t : Thr) (s : State) : Out :=
  s.winWrite p c R.CORE_DBGCMD (dbgWord t 2) fun s => s.dbgCmd c t 2

/-- STEP: CORE_DBGCMD STEP (R547, R549). -/
def execStep (p : Path) (c : CoreId) (t : Thr) (s : State) : Out :=
  s.winWrite p c R.CORE_DBGCMD (dbgWord t 3) fun s => s.dbgCmd c t 3

/-- Whether breakpoint `n` stops a thread at its PC: it matches with ACTION 1 or 2, and the thread is about to issue (R551). -/
def Core.bpStops (k : Core) (t : Thr) (n : Nat) : Bool :=
  let x := k.th t
  bit (k.fld (F.CORE_BP_THRMASK n)) t.toNat && k.fld (F.CORE_BP_ADDR n) == x.pc.toNat
    && (k.fld (F.CORE_BP_ACTION n) == 1 || k.fld (F.CORE_BP_ACTION n) == 2)
    && x.state == .run && !x.stalled && x.held.isNone && !x.sas && x.step != 2 && !x.bpPass

/-- The slot in which a thread would issue what stands at its PC. -/
def State.bpSlot (s : State) (c : CoreId) (t : Thr) : Count :=
  let x := s.th c t
  match decodeAt c t (s.core c).pm x.pc with
  | some i => s.issueCyc c t i
  | none => slotFrom t (s.afterRest c (slotFrom t (later s.now x.next)))

/-- Whether what stands at the PC does not issue for another reason: bad parity, or a tile instruction that stalls. -/
def Core.bpIdle (k : Core) (c : CoreId) (t : Thr) : Bool :=
  let x := k.th t
  let i := decodeAt c t k.pm x.pc
  (k.badFetch x.pc ((i.map instrLen).getD 1)).isSome || (i.map fun i => k.tileStalls t i) == some true

/-- A thread stops at a breakpoint; with ACTION 2 of one that matches, its core asks the supervisor for a bed stop (R551, R552). -/
def State.stopAtBp (s : State) (c : CoreId) (t : Thr) (acts : List Nat) : State :=
  let k := s.core c
  let s := (s.advanceTo (s.bpSlot c t)).stopThread c t 5
  if acts.contains 2 && k.fld F.CORE_SUPV_VALID == 1 then s.send c (BitVec.ofNat 12 (k.fld F.CORE_SUPV_SUPV)) (.bedCmd false) else s

/-- BREAKPOINT: in the slot in which a thread would issue the instruction at an address that breakpoint `n` matches, it stops
instead; with ACTION 2 a bed stop starts (R551, R552). ACTION 3 acts with the issue. -/
def execBreakpoint (c : CoreId) (t : Thr) (n : BitVec 2) (s : State) : Out :=
  withCore s c (
    let k := s.core c
    if !k.bpStops t n.toNat || k.bpIdle c t || s.passOver c then .next s
    else .next (s.stopAtBp c t (k.bpActs t (k.th t).pc)))

/-! ### Bed stops (R552) -/

/-- The supervisor forwards a bed stop in the present cycle. -/
def State.forwardStop (s : State) (sup : CoreId) : State := (s.membersOf sup).foldl (fun s d => s.send sup d (.bedAct false)) s

/-- Whether a message is a bed stop for `c`: to its supervisor, or forwarded by it. -/
def NetMsg.stops (m : NetMsg) (c : CoreId) : Bool := m.dst == c && (m.body == .bedCmd false || m.body == .bedAct false)

/-- BED_STOP: the next bed stop message reaches a core: the supervisor forwards a stop in the cycle after its arrival, and each
core of the bed stops its threads when the forwarded message arrives (R552). -/
def execBedStop (c : CoreId) (s : State) : Out :=
  withCore s c (
    match earliest (fun m => m.stops c) (fun _ _ => false) s.net with
    | none => .next s
    | some m =>
      let s := ((s.dropMsg m).advanceTo m.due).onCore c fun k => k.count 9 none 1
      if m.body = .bedCmd false then .next ((s.advanceTo (m.due + 1)).forwardStop c)
      else .next (allThr.foldl (fun (s : State) t => s.stopThread c t 1) s))

/-- A write of DBG_BEDCMD: the message starts at the bed's supervisor in the cycle the write reaches it; a run releases each core's
threads L(supervisor, core) later (R552; DEDUCED, log entry 40). -/
def State.bedCmd (s : State) (bed : Nat) (cmd : Nat) : State :=
  match s.jobOfBed bed with
  | none => s
  | some j =>
    if cmd = 1 then s.forwardStop j.supv
    else if cmd = 2 then
      (s.membersOf j.supv).foldl (fun s d => s.onCore d fun k =>
        let at_ := s.now + BitVec.ofNat 60 (s.lat j.supv d)
        let k := allThr.foldl (fun (k : Core) t =>
          if (k.th t).state = .debug then (k.runThread d t at_ false).traceAt at_ 12 t 2 (k.th t).pc.toNat else k) (k.count 9 none 1)
        if j.frozen then allThr.foldl (fun (k : Core) t => k.onTh t fun x => x.freeze (s.rest bed) s.rev) k else k) s
    else s

/-- DBG_BEDCMD_STOP (R552). -/
def execDbgBedcmdStop (p : Path) (bed : BitVec 5) (s : State) : Out :=
  s.devWrite p R.DBG_BEDCMD (BitVec.ofNat 32 (2 ^ 30 + bed.toNat)) fun s => s.bedCmd bed.toNat 1

/-- DBG_BEDCMD_RUN (R552). -/
def execDbgBedcmdRun (p : Path) (bed : BitVec 5) (s : State) : Out :=
  s.devWrite p R.DBG_BEDCMD (BitVec.ofNat 32 (2 ^ 31 + bed.toNat)) fun s => s.bedCmd bed.toNat 2

/-! ### Thread and scratchpad contents (R554, R555) -/

/-- The register of a CORE_TRSEL index (R554 table). -/
def Thread.sel (x : Thread) (rs : Rest) (rev : BitVec 48) (i : Nat) : Word :=
  if i < 0x08 then x.gr (BitVec.ofNat 3 i)
  else if i < 0x10 then 0
  else if i < 0x90 then (x.vr (BitVec.ofNat 3 ((i - 0x10) / 16))).extractLsb' (32 * (i % 16)) 32
  else if i < 0x94 then (SMap.get (fun _ => (0 : BitVec 15)) x.ls (i - 0x90)).zeroExtend 32
  else if i < 0x98 then (SMap.get (fun _ => (0 : BitVec 15)) x.le (i - 0x94)).zeroExtend 32
  else if i < 0x9C then SMap.get (fun _ => (0 : Word)) x.lc (i - 0x98)
  else if i < 0xA0 then 0
  else if i < 0xB0 then (x.rs.getD (i - 0xA0) 0).zeroExtend 32
  else match i with
  | 0xB0 => BitVec.ofNat 32 x.rs.length
  | 0xB1 => BitVec.ofNat 32 (bits x.sw.toNat 19 16)
  | 0xB2 => x.key
  | 0xB3 => x.ctr
  | 0xB4 => x.pc.zeroExtend 32
  | 0xB5 => x.sw
  | 0xB6 => x.epc.zeroExtend 32
  | 0xB7 => x.cause
  | 0xB8 => x.faddr
  | 0xB9 => x.dsp.zeroExtend 32
  | 0xBA => x.tcmp.truncate 32
  | 0xBB => (x.tcmp >>> 32).truncate 32
  | 0xBC => x.waiton
  | 0xBD => BitVec.ofNat 32 (x.wdogCount rs rev)
  | _ => 0

/-- Write the register of an index; other indices ignore it. -/
def Thread.putSel (x : Thread) (i : Nat) (v : Word) : Thread :=
  let m15 (m : SMap (BitVec 15)) (j : Nat) : SMap (BitVec 15) := SMap.set (fun _ => 0) m j (v.truncate 15)
  if i < 0x08 then x.setG (BitVec.ofNat 3 i) v
  else if i < 0x10 then x
  else if i < 0x90 then
    let r := BitVec.ofNat 3 ((i - 0x10) / 16)
    let sh := 32 * (i % 16)
    x.setV r ((x.vr r &&& ~~~((0xFFFFFFFF : BitVec 512) <<< sh)) ||| (v.zeroExtend 512 <<< sh))
  else if i < 0x94 then { x with ls := m15 x.ls (i - 0x90) }
  else if i < 0x98 then { x with le := m15 x.le (i - 0x94) }
  else if i < 0x9C then { x with lc := SMap.set (fun _ => 0) x.lc (i - 0x98) v }
  else if i < 0xA0 then x
  else if i < 0xB0 then { x with rs := x.rs.set (i - 0xA0) (v.truncate 15) }
  else match i with
  | 0xB0 =>
    let d := Nat.min 16 v.toNat
    { x with rs := List.replicate (d - x.rs.length) 0 ++ x.rs.drop (x.rs.length - d) }
  | 0xB1 => { x with sw := (x.sw &&& 0xFFF0FFFF#32) ||| ((v &&& 0xF#32) <<< 16) }
  | 0xB2 => { x with key := v }
  | 0xB3 => { x with ctr := v }
  | 0xB4 => { x with pc := v.truncate 15 }
  | 0xB5 => { x with sw := v &&& 0x000F3F7F#32 }
  | 0xB6 => { x with epc := v.truncate 15 }
  | 0xB7 => { x with cause := v &&& 0xC0FFFFFF#32 }
  | 0xB8 => { x with faddr := v }
  | 0xB9 => { x with dsp := v.truncate 17 }
  | 0xBA => { x with tcmp := x.tcmp.extractLsb' 32 28 ++ v }
  | 0xBB => { x with tcmp := v.truncate 28 ++ x.tcmp.truncate 32 }
  | 0xBC => { x with waiton := v &&& 0xF001FFFF#32, waiting := none, wake := none, wlimit := 0
                     waits := (x.state == .frozen || x.state == .debug) && decide (bits v.toNat 31 28 ≠ 0) }
  | 0xBD => { x with wcount := v.truncate 16 }
  | _ => x

/-- The thread CORE_TRSEL selects, and the step of INDEX after an access. -/
def Core.trThr (k : Core) : Thr := BitVec.ofNat 2 (k.fld F.CORE_TRSEL_THR)
def Core.trData (k : Core) (rs : Rest) (rev : BitVec 48) : Word := (k.th k.trThr).sel rs rev (k.fld F.CORE_TRSEL_INDEX)
def Core.putTrData (k : Core) (v : Word) : Core := k.onTh k.trThr fun x => x.putSel (k.fld F.CORE_TRSEL_INDEX) v
def Core.stepTr (k : Core) : Core := k.setFld F.CORE_TRSEL_INDEX ((k.fld F.CORE_TRSEL_INDEX + 1) % 256)

/-- TRDATA_ACCESS: read or write the selected thread register (R554). -/
def execTrdataAccess (p : Path) (c : CoreId) (wr : Option Word) (s : State) : Out :=
  s.winAccess p c R.CORE_TRDATA wr ((s.core c).trData (s.restOf c) s.rev) (fun v s => s.onCore c fun k => k.putTrData v) (fun s => s.onCore c Core.stepTr)

/-- The scratchpad word at WADDR; a word past the last reads 0. -/
def Core.spWaddr (k : Core) : Nat := k.fld F.CORE_SPADDR_WADDR
def Core.spData (k : Core) : Word := if k.spWaddr < spWords then k.spWord k.spWaddr else 0

/-- A read of a word with bad parity, or of a poisoned line, sets PERR (R555; 07 R248, R249). -/
def Core.spPerr (k : Core) : Core :=
  if k.spWaddr < spWords ∧ (k.readFault k.spWaddr).isSome = true then
    (k.setFld F.CORE_SPADDR_PERR 1).setFld F.DMA_SPERR_STAT_PERR 1
  else k

/-- Write the word at WADDR with new parity. -/
def Core.putSpData (k : Core) (v : Word) : Core := if k.spWaddr < spWords then k.setSpWord k.spWaddr v else k

/-- WADDR increments after each access, wrapping from 81,919 to 0. -/
def Core.stepSp (k : Core) : Core := k.setFld F.CORE_SPADDR_WADDR (if k.spWaddr + 1 < spWords then k.spWaddr + 1 else 0)

/-- SPDATA_ACCESS: read or write the scratchpad word at WADDR (R555). -/
def execSpdataAccess (p : Path) (c : CoreId) (wr : Option Word) (s : State) : Out :=
  match wr with
  | some v => s.winWrite p c R.CORE_SPDATA v fun s => s.onCore c fun k => (k.putSpData v).stepSp
  | none => s.winRead p c (s.core c).spData fun s => s.onCore c fun k => k.spPerr.stepSp

/-! ### Capture windows and trace (R556, R557) -/

/-- A write of CORE_TRCFG: setting ARM fixes the opening revolution, clearing it ends the window (R557). -/
def State.putTrcfg (s : State) (c : CoreId) (v : Word) : State :=
  s.onCore c fun k =>
    let was := k.fld F.CORE_TRCFG_ARM
    let k := k.setW R.CORE_TRCFG (putRw winRows R.CORE_TRCFG (k.w R.CORE_TRCFG) v)
    if k.fld F.CORE_TRCFG_ARM = 0 then { (k.setFld F.CORE_TRCFG_OPEN 0) with tarm := none, topen := none }
    else if was = 0 then
      let n := BitVec.ofNat 16 (k.fld F.CORE_TRSTART_REV)
      { k with tarm := some (s.rev + 1 + ((n - (s.rev + 1).truncate 16).zeroExtend 48)) }
    else k

/-- CAPTURE_WINDOW_OPEN: at angle 0 of the first revolution that matches REV after ARM was set (R557). -/
def execCaptureWindowOpen (c : CoreId) (s : State) : Out :=
  withCore s c (
    match (s.core c).tarm with
    | some r => .next ((s.advanceTo (revStart r)).onCore c fun k =>
        { (k.setFld F.CORE_TRCFG_OPEN 1) with tarm := none, topen := some r })
    | none => .next s)

/-- CAPTURE_WINDOW_CLOSE: LEN revolutions later; a LEN of 0 leaves the window open until ARM clears (R557). -/
def execCaptureWindowClose (c : CoreId) (s : State) : Out :=
  withCore s c (
    let k := s.core c
    let len := k.fld F.CORE_TRSTART_LEN
    match k.topen with
    | some r =>
      if len = 0 then .next s
      else .next ((s.advanceTo (revStart (r + BitVec.ofNat 48 len))).onCore c fun k => { (k.setFld F.CORE_TRCFG_OPEN 0) with topen := none })
    | none => .next s)

/-- A read of CORE_TRDATA0 on a path: it removes the oldest record and latches its other words (R557, 00 R11). -/
def State.readTrace (s : State) (p : Path) (c : CoreId) : State × Word :=
  let r := ((s.core c).trace.head?).getD 0
  let w (m : Nat) : Word := r.extractLsb' (32 * m) 32
  let l := SMap.get (fun _ => Latch.none) s.latches (pathKey p)
  let l : Latch := { l with rpair := some (winOff c (R.CORE_TRDATAM 0)), rdata := [w 1, w 2, w 3] }
  let s := { s with latches := SMap.set (fun _ => Latch.none) s.latches (pathKey p) l }
  (s.onCore c fun k => { k with trace := k.trace.drop 1 }, w 0)

/-- TRACE_READ: a read of CORE_TRDATA0 (R557). -/
def execTraceRead (p : Path) (c : CoreId) (s : State) : Out :=
  if s.hasCore c then
    let (s, w) := s.readTrace p c
    .next (s.answer p false w)
  else .next (s.answer p false 0)

end Sys2Proof.Machine
end

