-- ==== Sys2Proof/Machine/Tile.lean ====
section
/-! DEFINITION. Tile instructions and the tile engines (06 R200 to R238). -/

namespace Sys2Proof.Machine

/-! ### Checks (06 R201, R206, R208 to R210) -/

/-- A `TILE` fault: its DETAIL and its blank. -/
abbrev TFault := Nat × Reg

/-- EMPTY, then OWNER, of a blank (R201). -/
def Core.tOwn (k : Core) (t : Thr) (b : Reg) : Option TFault :=
  if !k.tCfg b then some (1, b) else if k.tOwner b ≠ t.toNat then some (2, b) else none

/-- The fault when a condition holds. -/
def failIf (p : Bool) (d : Nat) (b : Reg) : Option TFault := if p then some (d, b) else none

/-- The checks of a TMMA (R206, in the order of R210). -/
def Core.tmmaFault (k : Core) (t : Thr) (tc ta tb : Reg) (z : Bool) : Option TFault :=
  let fa := k.tFmt ta; let fb := k.tFmt tb; let fc := k.tFmt tc
  let p := if z then { pair := none, n := 0 } else k.accAfter tc
  [k.tOwn t tc, k.tOwn t ta, k.tOwn t tb,
   failIf (fc ≠ 0 && fc ≠ 14) 4 tc, failIf (fa == 14) 4 ta, failIf (fb == 14) 4 tb,
   failIf (fc ≠ (accOf fa fb).1) 6 tc,
   failIf (tc == ta || tc == tb) 9 tc,
   failIf (k.tRows ta ≠ k.tRows tc || k.tRows tb ≠ k.tE tc || k.tE ta ≠ k.tE tb) 5 tc,
   failIf (fc == 14 && p.pair.isSome && p.pair ≠ some (fa, fb)) 7 tc,
   failIf (fc == 14 && 65536 < p.n + k.tE ta) 8 tc].findSome? id

/-- The checks of a TLD (R209, R223). -/
def Core.tldFault (k : Core) (t : Thr) (tb : Reg) (sfmt : Nat) (tr : Bool) : Option TFault :=
  let f := k.tFmt tb
  [k.tOwn t tb,
   failIf (if f = 14 then sfmt ≠ 14 || tr else decide (13 < sfmt)) 4 tb,
   failIf (rowWords sfmt (if tr then k.tRows tb else k.tE tb)).isNone 11 tb].findSome? id

/-- The checks of a TDRAIN (R209, R227, R229, R230). -/
def Core.tdrainFault (k : Core) (t : Thr) (tc : Reg) (o : DrainOpt) : Option TFault :=
  let f := k.tFmt tc
  let n := k.tE tc
  let sb := o.se && !o.sk
  let bb := o.be && !o.bk
  [k.tOwn t tc, if sb then k.tOwn t o.sreg else none, if bb then k.tOwn t o.breg else none, if o.ste then k.tOwn t o.stb else none,
   failIf (if f = 14 then o.ofmt == 14 && (o.se || o.be || o.ce || o.ste) else o.ofmt == 14) 4 tc,
   failIf (o.ste && (o.stb == tc || (sb && o.stb == o.sreg) || (bb && o.stb == o.breg))) 9 tc,
   failIf (o.ste && k.tRows o.stb ≠ k.tRows tc) 5 tc,
   failIf (sb && (k.tFmt o.sreg ≠ 0 || k.tE o.sreg < n)) 10 o.sreg,
   failIf (bb && (k.tFmt o.breg ≠ 0 || k.tE o.breg < n)) 10 o.breg,
   failIf (o.ste && (k.tFmt o.stb ≠ 0 || k.tBpr o.stb < 16)) 10 o.stb,
   failIf (rowWords o.ofmt.toNat n).isNone 11 tc].findSome? id

/-- A `TILE` fault as the outcome of an instruction (R208). -/
def tileFault (s : State) (f : TFault) : Res := .fault s 0x0E (BitVec.ofNat 8 f.1) (f.2.zeroExtend 32)

/-- The image must lie in the scratchpad (R212). -/
def imageFault (s : State) (im : Nat × Nat × Nat × Nat) : Option Res :=
  let last := im.1 + (im.2.1 - 1) * im.2.2.1 + im.2.2.2 - 1
  if spWords ≤ last then some (.fault s 0x03 0 (BitVec.ofNat 32 (4 * last))) else none

/-! ### The queues -/

/-- Append an issued instruction to its queue; with TNV = 1 its thread waits for it (R211, R219). -/
def Core.enqueue (k : Core) (t : Thr) (i : Instr) (q : Nat) (ga gs : Nat) (now : Count) : Core :=
  let x := k.th t
  let e : TEntry := { thr := t, pc := x.pc, i := i, ga := BitVec.ofNat 17 ga, gs := BitVec.ofNat 17 gs, seq := k.tseq, start := none,
                      next := now, row := 0, got := [], bad := none, held := false, sync := x.st bTNV, iss := now, vregs := [],
                      key := 0, ctr := 0, free := 0 }
  let k := { (k.setTq q (k.tqOf q ++ [e])) with tseq := k.tseq + 1 }
  let k := if x.st bTNV then k.onTh t fun x => { x with stalled := true } else k
  k.syncSrow

/-- Remove the held matrix instructions that satisfy `p` (R233, R234). -/
def Core.dropHeld (k : Core) (p : TEntry → Bool) : Core :=
  let f (e : TEntry) : Bool := !(e.held && p e)
  ((k.setTq 0 ((k.tqOf 0).filter f)).setTq 1 ((k.tqOf 1).filter f)).syncSrow

/-- Whether an entry names a blank. -/
def names (b : Reg) (e : TEntry) : Bool := (tileReads e.i).contains b || (tileWrites e.i).contains b

/-- TCFG: configure a blank and take ownership (R200). -/
def execTcfg (c : CoreId) (t : Thr) (tb : Reg) (fmt : BitVec 4) (rowsM1 bprM1 : BitVec 6) (pm : Bool) (s : State) : Out :=
  issue c t (.tcfg c t tb fmt rowsM1 bprM1 pm) (fun s =>
    let k := s.core c
    let bpr := 4 * (bprM1.toNat + 1)
    if k.tCfg tb && k.tOwner tb ≠ t.toNat then tileFault s (2, tb)
    else if bpr % tGranule fmt.toNat ≠ 0 || 8192 < (rowsM1.toNat + 1) * bpr then tileFault s (3, tb)
    else if k.tNamed tb then .stall
    else
      let k := (k.dropHeld (names tb)).tClear tb
      let w := 0x80000000 + t.toNat <<< 29 + b2n pm <<< 28 + fmt.toNat <<< 24 + rowsM1.toNat <<< 18 + bprM1.toNat <<< 12
      .seq (s.setCore c ((k.setW (R.TILE_CFG tb.toNat) (BitVec.ofNat 32 w)).setW (R.TILE_ACC tb.toNat) 0))) s

/-- TLD: queue a load (R212, R223). -/
def execTld (c : CoreId) (t : Thr) (tb ga gs : Reg) (sfmt : BitVec 4) (tr : Bool) (rnd : BitVec 2) (s : State) : Out :=
  issue c t (.tld c t tb ga gs sfmt tr rnd) (fun s =>
    let i : Instr := .tld c t tb ga gs sfmt tr rnd
    let k := s.core c
    let x := k.th t
    let a := (x.gr ga).toNat % 2 ^ 17
    let st := (x.gr gs).toNat % 2 ^ 17
    match k.tldFault t tb sfmt.toNat tr with
    | some f => tileFault s f
    | none =>
      match (k.tImage i a st).bind (imageFault s) with
      | some r => r
      | none =>
        if tileDepth 2 ≤ (k.tqOf 2).length then .stall else .seq (s.setCore c (k.enqueue t i 2 a st s.now))) s

/-- TDRAIN: queue a drain (R212, R226). -/
def execTdrain (c : CoreId) (t : Thr) (tc ga gs : Reg) (opt : DrainOpt) (s : State) : Out :=
  issue c t (.tdrain c t tc ga gs opt) (fun s =>
    let i : Instr := .tdrain c t tc ga gs opt
    let k := s.core c
    let x := k.th t
    let a := (x.gr ga).toNat % 2 ^ 17
    let st := (x.gr gs).toNat % 2 ^ 17
    match k.tdrainFault t tc opt with
    | some f => tileFault s f
    | none =>
      match (k.tImage i a st).bind (imageFault s) with
      | some r => r
      | none =>
        if tileDepth 3 ≤ (k.tqOf 3).length then .stall else .seq (s.setCore c (k.enqueue t i 3 a st s.now))) s

/-- TMMA: check, fix the pair, count and queue (R204, R206, R211). -/
def execTmma (c : CoreId) (t : Thr) (tc ta tb : Reg) (q z : Bool) (s : State) : Out :=
  issue c t (.tmma c t tc ta tb q z) (fun s =>
    let i : Instr := .tmma c t tc ta tb q z
    let k := s.core c
    match k.tmmaFault t tc ta tb z with
    | some f => tileFault s f
    | none =>
      let n := b2n q
      if tileDepth n ≤ (k.tqOf n).length then .stall
      else
        -- TILE_ACCn takes the pair and count now, or when what stands before them in the queues completes
        let k := k.enqueue t i n 0 0 s.now
        let k := if k.tFmt tc = 14 && (k.accPending tc).isEmpty then k.setAccP tc (k.accStep tc (k.accP tc) i) else k
        .seq (s.setCore c k)) s

/-- TREL: release a blank (R201, R202). -/
def execTrel (c : CoreId) (t : Thr) (tb : Reg) (s : State) : Out :=
  issue c t (.trel c t tb) (fun s =>
    let k := s.core c
    if !k.tCfg tb then .seq s
    else if k.tOwner tb ≠ t.toNat then tileFault s (2, tb)
    else if k.tNamed tb then .stall
    else .seq (s.setCore c ((k.dropHeld (names tb)).setW (R.TILE_CFG tb.toNat) 0))) s

/-- TZERO: zero a blank's data, scales and extension (R202). -/
def execTzero (c : CoreId) (t : Thr) (tb : Reg) (s : State) : Out :=
  issue c t (.tzero c t tb) (fun s =>
    let k := s.core c
    match k.tOwn t tb with
    | some f => tileFault s f
    | none =>
      if k.tNamed tb then .stall
      else .seq (s.setCore c (((k.dropHeld (names tb)).tClear tb).setW (R.TILE_ACC tb.toNat) 0))) s

/-- TFLAGS: read a blank's sticky flags (R202, R194). -/
def execTflags (c : CoreId) (t : Thr) (gd tb : Reg) (s : State) : Out :=
  issue c t (.tflags c t gd tb) (fun s =>
    let k := s.core c
    match k.tOwn t tb with
    | some f => tileFault s f
    | none =>
      if k.tWritten tb then .stall
      else .seq (s.putG c t gd (BitVec.ofNat 32 (bits (k.w (R.TILE_CFG tb.toNat)).toNat 9 5)) 1)) s

/-- TCLRF: clear a blank's sticky flags (R202). -/
def execTclrf (c : CoreId) (t : Thr) (tb : Reg) (s : State) : Out :=
  issue c t (.tclrf c t tb) (fun s =>
    let k := s.core c
    match k.tOwn t tb with
    | some f => tileFault s f
    | none =>
      if k.tWritten tb then .stall
      else .seq (s.setCore c (k.setW (R.TILE_CFG tb.toNat) (k.w (R.TILE_CFG tb.toNat) &&& ~~~0x3E0#32)))) s

/-- TXCAP: read the capture register and clear VALID (R202, R195). -/
def execTxcap (c : CoreId) (t : Thr) (gd : Reg) (s : State) : Out :=
  issue c t (.txcap c t gd) (fun s =>
    let k := s.core c
    if (k.tqOf 0 ++ k.tqOf 1).any (fun e => e.thr == t && e.open_) then .stall
    else
      let w := k.w R.TILE_XCAP
      .seq ((s.setCore c { k.setW R.TILE_XCAP (w &&& 0x7FFFFFFF#32) with xcap := none }).putG c t gd w 1)) s

/-! ### The engines -/

/-- Whether an earlier matrix instruction of another queue on the same accumulator still has rows to run (R214, R222). -/
def Core.rowsBefore (k : Core) (e x : TEntry) : Bool :=
  decide (x.seq < e.seq) && x.open_ && tileQueue x.i != tileQueue e.i && isTmma x.i && (tileWrites x.i).any (tileWrites e.i).contains
    && decide (x.row < k.tmmaRows x.i)

/-- Whether an entry may start as far as its blanks and images go (R214, R215): earlier matrix instructions on the same
accumulator are ordered row by row (R218). -/
def Core.tReady (k : Core) (e : TEntry) : Bool :=
  let rd := tileReads e.i; let wr := tileWrites e.i
  (k.tqAll.filter fun x => decide (x.seq < e.seq) && x.open_).all fun x =>
    let mm := isTmma e.i && isTmma x.i && !k.rowsBefore e x
    (tileWrites x.i).all (fun b => !(rd.contains b || wr.contains b) || (mm && wr.contains b)) &&
    (tileReads x.i).all (fun b => !wr.contains b || (mm && (tileWrites x.i).contains b)) &&
    !(x.thr == e.thr && (match k.eImage x, k.eImage e with
      | some a, some b => imagesMeet a b
      | _, _ => false))

/-- The cycle an entry became ready: issued, its blanks free, its engine free (R217). -/
def Core.readyAt (k : Core) (r : Rest) (e : TEntry) (q : Nat) (now : Count) : Count :=
  let td (i : Nat) : Count := SMap.get (fun _ => 0) k.tdone i
  let late (d r : Count) : Count := if (now - r).toNat < 2 ^ 20 || (r - now).toNat < 2 ^ 20 then later d r else d
  let bl := ((tileReads e.i) ++ (tileWrites e.i)).map fun b => td b.toNat
  let br := (tileWrites e.i).map fun b => td (8 + b.toNat)
  let en := if q < 2 then [td (24 + q)]
    else [td (16 + q), td (24 + q)] ++ ((k.tqOf q).filter fun y => y.start.isSome).map fun y => (k.workDone r y).next
  (bl ++ br ++ en).foldl late e.iss

/-- Remove an entry that completes, recording the cycle for the order of later starts. -/
def Core.leave (k : Core) (q : Nat) (e : TEntry) (now : Count) : Core :=
  let put (m : SMap Count) (i : Nat) : SMap Count := SMap.set (fun _ => 0) m i now
  let d := (tileWrites e.i).foldl (fun m b => put m b.toNat) k.tdone
  let d := (tileReads e.i).foldl (fun m b => put m (8 + b.toNat)) d
  { (k.setTq q ((k.tqOf q).filter fun x => x.seq ≠ e.seq)) with tdone := put d (24 + q) }.syncSrow

/-- A thread that waited for its instruction goes on (R219). -/
def Core.resume (k : Core) (e : TEntry) : Core := if e.sync then k.onTh e.thr fun x => { x with stalled := false, aside := false } else k

/-- Set flags an instruction raises in its thread and in a blank (05 R194). -/
def Core.raise (k : Core) (t : Thr) (b : Reg) (fl : Nat) : Core :=
  (k.onTh t fun x => { x with sw := x.sw ||| BitVec.ofNat 32 (fl <<< 8) }).tFlag b fl

/-- The free values a load or drain may take: the anchor's and one for each element. -/
def Core.freeOf (k : Core) (i : Instr) : Nat :=
  match i with
  | .tld _ _ b _ _ _ _ _ | .tdrain _ _ b _ _ _ => 1 + k.tRows b * k.tE b
  | _ => 0

/-- TILE_START: the first entry of a queue that has not started becomes ready and starts 4 cycles later (R217). -/
def execTileStart (c : CoreId) (q : BitVec 2) (s : State) : Out :=
  withCore s c (
    let k := s.core c
    match (k.tqOf q.toNat).find? (fun e => e.start.isNone) with
    | none => .next s
    | some e =>
      let x := k.th e.thr
      let before := (k.tqOf q.toNat).takeWhile fun y => y.seq ≠ e.seq
      if e.held || s.frozenAt c || x.state == .debug || before.any (fun y => y.held) || !k.tReady e then .next s
      else
        let t0 := s.afterRest c (k.readyAt (s.restOf c) e q.toNat s.now + 4)
        let s := s.advanceTo t0
        let regs := match e.i with
          | .tdrain _ _ _ _ _ o => [x.vr o.sreg, x.vr o.breg, x.vr o.creg]
          | _ => []
        let k := (s.core c).putEntry q.toNat
          { e with start := some t0, next := t0, vregs := regs, key := x.key, ctr := x.ctr, free := s.free }
        .next { s.setCore c k with free := s.free + k.freeOf e.i })

/-- The head of a matrix queue that can run a row, and the cycle it can run it in (R218, R220). -/
def Core.rowHead (k : Core) (q : Nat) : Option (TEntry × Count) :=
  match (k.tqOf q).find? (fun e => e.row < k.tmmaRows e.i) with
  | some e =>
    let x := k.th e.thr
    if e.held || x.state == .debug || ((k.tqOf q).takeWhile fun y => y.seq ≠ e.seq).any (fun y => y.held) || k.tqAll.any (k.rowsBefore e)
    then none
    else match e.start, e.i with
      | some t0, .tmma _ _ tc _ _ _ _ =>
        let d := notBefore t0 (SMap.get (fun _ => 0) k.tdone 16)
        some (e, notBefore d (SMap.get (fun _ => 0) k.trow (64 * tc.toNat + e.row) + 4))
      | _, _ => none
  | none => none

/-- Record the invalid term of lowest k, then row, then column, in TILE_XCAP, while VALID is 0 or what it holds is this instruction's own
(05 R195). -/
def Core.capture (k : Core) (e : TEntry) (tc : Reg) (row : Nat) (bad : Option (Nat × Nat)) : Core :=
  match bad with
  | none => k
  | some (x, j) =>
    let w := k.w R.TILE_XCAP
    if w.msb && !(k.xcap == some e.seq && decide (x < bits w.toNat 13 4)) then k
    else { k.setW R.TILE_XCAP (BitVec.ofNat 32 (0x80000000 + tc.toNat <<< 28 + e.thr.toNat <<< 26 + row <<< 20 + j <<< 14 + x <<< 4)) with
           xcap := some e.seq }

/-- The queue and entry whose row-step starts next, and its cycle: the primary head where it is ready, else the fill head (R220). -/
def Core.nextRow (k : Core) : Option (Nat × TEntry × Count) :=
  match k.rowHead 0, k.rowHead 1 with
  | some p, some f => if notAfter p.2 f.2 then some (0, p) else some (1, f)
  | some p, none => some (0, p)
  | none, some f => some (1, f)
  | none, none => none

/-- Start the next row-step of an entry of queue `q` in cycle `d`: with TNV = 1 an invalid operation holds the instruction and its thread
traps (R220, R233). -/
def State.startRow (s : State) (c : CoreId) (q : Nat) (e : TEntry) (d : Count) (tc ta tb : Reg) (z : Bool) : State :=
  let s := s.advanceTo d
  let k := s.core c
  let k := if z && e.row = 0 then k.tClear tc else k
  let (k, fl, bad) := k.rowStep tc ta tb e.row
  let k := k.raise e.thr tc fl
  let k := k.capture e tc e.row bad
  let fin := d + BitVec.ofNat 60 (k.tmmaS e.i)
  let k := { k with
    tdone := SMap.set (fun _ => 0) k.tdone 16 fin
    trow := SMap.set (fun _ => 0) k.trow (64 * tc.toNat + e.row) fin }
  let hold := hasNV fl && (k.th e.thr).st bTNV
  let k := (k.putEntry q { e with row := e.row + 1, held := hold }).syncSrow
  let k := k.count (if q = 0 then 5 else 6) none (k.tmmaS e.i)
  let s := s.setCore c k
  if hold then (s.onTh c e.thr fun x => { x with stalled := false, aside := false }).laterTrap c e.thr 0x0D 1 (k.w R.TILE_XCAP) (some e.pc) else s

/-- MATRIX_ROW_STEP: the matrix unit starts a row-step, in the first cycle that is not in a rest revolution (R220, 02 R77). -/
def execMatrixRowStep (c : CoreId) (s : State) : Out :=
  withCore s c (
    if s.frozenAt c then .next s else
    match (s.core c).nextRow with
    | none => .next s
    | some (q, e, d) =>
      match e.i with
      | .tmma _ _ tc ta tb _ z => .next (s.startRow c q e (s.afterRest c d) tc ta tb z)
      | _ => .next s)

/-- TMMA_COMPLETE: a matrix instruction completes 8 cycles after its last row-step (R217). -/
def execTmmaComplete (c : CoreId) (fill : Bool) (s : State) : Out :=
  withCore s c (
    let k := s.core c
    let q := b2n fill
    match (k.tqOf q).head? with
    | some e =>
      match e.i with
      | .tmma _ _ tc _ _ _ _ =>
        if e.held || e.row < k.tmmaRows e.i then .next s
        else
          let fin := SMap.get (fun _ => 0) k.trow (64 * tc.toNat + (k.tRows tc - 1))
          let s := s.advanceTo (notBefore s.now (fin + 8))
          let k := ((s.core c).leave q e s.now).resume e
          .next ((s.setCore c k).trace c 6 e.thr q e.pc.toNat)
      | _ => .next s
    | none => .next s)

/-- A load completes 4 cycles after its last access, its random numbers drawn with the key and counter of its start (DESIGN CHOICE, log entry
47): what it has read is written to its blank, flags are raised, and a bad word, at which it
stopped, or an invalid element traps its thread (R217, R223 to R225, R232, R235). -/
def State.loadDone (s : State) (c : CoreId) (e : TEntry) (tb : Reg) (rnd : BitVec 2) : State :=
  let s := s.advanceTo (((s.core c).workDone (s.restOf c) e).next + 4)
  let old := s.core c
  let e := ((old.tqOf 2).find? fun y => y.seq == e.seq).getD e
  let full := e.bad.isNone
  let tnv := (old.th e.thr).st bTNV
  let r := old.takeLoad e
  let k := ((r.k.raise e.thr tb r.fl).leave 2 e s.now).resume e
  let k := k.accLeave old tb e full
  let k := if rnd.toNat = sr && full then k.onTh e.thr fun x => { x with ctr := x.ctr + 1 } else k
  let s := (s.setCore c k).trace c 6 e.thr 2 e.pc.toNat
  match e.bad with
  | some (w, code) => (s.spErr c 1 e.thr 0 w).laterTrap c e.thr code (BitVec.ofNat 8 (bankOf w)) (BitVec.ofNat 32 (4 * w)) (some e.pc)
  | none =>
    match r.bad with
    | some i => if tnv then s.laterTrap c e.thr 0x0D 3 (BitVec.ofNat 32 i) (some e.pc) else s
    | none => s

/-- TLD_COMPLETE: a load completes (R217, R223 to R225, R232, R235). -/
def execTldComplete (c : CoreId) (s : State) : Out :=
  withCore s c (
    match ((s.core c).tqOf 2).head? with
    | some e =>
      match e.i with
      | .tld _ _ tb _ _ _ _ rnd => if e.start.isNone || s.frozenAt c then .next s else .next (s.loadDone c e tb rnd)
      | _ => .next s
    | none => .next s)

/-- A drain completes 4 cycles after its last access, with its statistics, zeroing and the counter's advance together (R217, R231, R232). -/
def State.drainDone (s : State) (c : CoreId) (e : TEntry) (tc : Reg) (o : DrainOpt) : State :=
  let s := s.advanceTo (((s.core c).workDone (s.restOf c) e).next + 4)
  let old := s.core c
  let e := ((old.tqOf 3).find? fun y => y.seq == e.seq).getD e
  let tnv := (old.th e.thr).st bTNV
  let r := old.drainStats e tc o
  let k := ((r.k.raise e.thr tc r.fl).leave 3 e s.now).resume e
  let k := if o.za then k.tClear tc else k
  let k := k.accLeave old tc e true
  let k := if o.rnd.toNat = sr then k.onTh e.thr fun x => { x with ctr := x.ctr + 1 } else k
  let s := (s.setCore c k).trace c 6 e.thr 3 e.pc.toNat
  match r.bad with
  | some i => if tnv then s.laterTrap c e.thr 0x0D 2 (BitVec.ofNat 32 i) (some e.pc) else s
  | none => s

/-- TDRAIN_COMPLETE: a drain completes (R217, R231, R232). -/
def execTdrainComplete (c : CoreId) (s : State) : Out :=
  withCore s c (
    match ((s.core c).tqOf 3).head? with
    | some e =>
      match e.i with
      | .tdrain _ _ tc _ _ o => if e.start.isNone || s.frozenAt c then .next s else .next (s.drainDone c e tc o)
      | _ => .next s
    | none => .next s)

/-! ### Return from a trap -/

/-- RTE: to the address of a held TMMA it resumes it, the thread going on after it completes; to another address it discards
it (R125, R234). -/
def execRte (c : CoreId) (t : Thr) (s : State) : Out :=
  issue c t (.rte c t) (fun s =>
    let k := s.core c
    let x := k.th t
    if !x.st bIT then .fault s 0x01 0 ((headOf (.rte c t)).zeroExtend 32)
    else
      let mine := (k.tqOf 0 ++ k.tqOf 1).filter fun e => e.held && e.thr == t
      match mine.find? (fun e => e.pc == x.epc) with
      | some e =>
        let k := k.dropHeld (fun y => y.thr == t && y.seq ≠ e.seq)
        let free_ (l : List TEntry) := l.map fun y => if y.seq = e.seq then { y with held := false, sync := true, start := y.start.map fun t0 => later t0 s.now } else y
        let k := ((k.setTq 0 (free_ (k.tqOf 0))).setTq 1 (free_ (k.tqOf 1))).syncSrow
        let k := k.onTh t fun x => { (x.setSt bIT false).loopEnd x.epc 2 with stalled := true }
        .stay (s.setCore c k)
      | none =>
        let k := k.dropHeld (fun y => y.thr == t)
        .jump (s.setCore c (k.onTh t fun x => x.setSt bIT false)) x.epc) s

end Sys2Proof.Machine
end

