-- ==== Sys2Proof/Machine/CoreRegs.lean ====
section
/-! DEFINITION. Registers of the matrix unit and the DMA engine whose accesses act: queue images, blank words, guarded regions, valid
and poison bits, and shootdowns (06 R241, R242; 07 R250, R256, R275; 10 R341; 11 R361, R382). -/

namespace Sys2Proof.Machine

/-! ### Tile queue images (06 R238, R242) -/

/-- The image of a queue entry. -/
def TEntry.image (e : TEntry) : BitVec 128 :=
  let ws := encodeInstr e.i
  let w (i : Nat) : Nat := ((ws.getD i 0 : PWord)).toNat
  BitVec.ofNat 128 (2 ^ 127 + e.thr.toNat <<< 125 + e.pc.toNat <<< 108 + w 0 <<< 94 + w 1 <<< 80 + w 2 <<< 66 + w 3 <<< 52
    + e.ga.toNat <<< 35 + e.gs.toNat <<< 18)

/-- The instruction an image spells. -/
def imageInstr (c : CoreId) (v : BitVec 128) : Option Instr :=
  let h : PWord := v.extractLsb' 94 14
  decodeWords c (v.extractLsb' 125 2) h ([v.extractLsb' 80 14, v.extractLsb' 66 14, v.extractLsb' 52 14].take (nExt h))

/-- The image TILE_QSEL selects for reading; 0 where there is no such entry. -/
def Core.qImage (k : Core) : BitVec 128 :=
  match (k.tqOf (k.fld F.TILE_QSEL_QUEUE))[k.fld F.TILE_QSEL_ENTRY]? with
  | some e => e.image
  | none => 0

/-- Write 32 bits of the staging image. -/
def Core.putStage (k : Core) (m : Nat) (v : Word) : Core :=
  { k with stage := (k.stage &&& ~~~((0xFFFFFFFF : BitVec 128) <<< (32 * m))) ||| (v.zeroExtend 128 <<< (32 * m)) }

/-- The row at which a restored head resumes, and whether it is held: PROW or FROW with PV or FV set; held with every row run where only PH or
FH is set (06 R233, R238). -/
def Core.resumeRow (k : Core) (q rows : Nat) : Nat × Bool :=
  let (v, h, row) := if q = 0 then (k.fld F.TILE_SROW_PV, k.fld F.TILE_SROW_PH, k.fld F.TILE_SROW_PROW)
    else if q = 1 then (k.fld F.TILE_SROW_FV, k.fld F.TILE_SROW_FH, k.fld F.TILE_SROW_FROW) else (0, 0, 0)
  if v = 1 then (row, h == 1) else if h = 1 then (rows, true) else (0, false)

/-- PUSH: append the staging image to a queue, if it holds a tile instruction and the queue has room (06 R238, R242). -/
def Core.pushImage (k : Core) (c : CoreId) (q : Nat) (now : Count) : Core :=
  match imageInstr c k.stage with
  | some i =>
    if k.stage.msb && (tileQueue i).isSome && decide ((k.tqOf q).length < tileDepth q) then
      let (row, held) := if (k.tqOf q).isEmpty then k.resumeRow q (k.tmmaRows i) else (0, false)
      let e : TEntry := { thr := k.stage.extractLsb' 125 2, pc := k.stage.extractLsb' 108 15, i := i,
                          ga := k.stage.extractLsb' 35 17, gs := k.stage.extractLsb' 18 17, seq := k.tseq, start := none,
                          next := now, row := row, got := [], bad := none, held := held, sync := false, iss := now, vregs := [],
                          key := 0, ctr := 0, free := 0 }
      { (k.setTq q (k.tqOf q ++ [e])) with tseq := k.tseq + 1 }
    else k
  | none => k

/-- A write of TILE_QSEL: QUEUE and ENTRY, then PUSH. -/
def Core.putQsel (k : Core) (c : CoreId) (v : Word) (now : Count) : Core :=
  let k := k.setW R.TILE_QSEL (v &&& 0x37#32)
  if v.getLsbD 8 then k.pushImage c (bits v.toNat 5 4) now else k

/-- A write of TILE_SROW: the heads resume as it says (06 R238). -/
def Core.putSrow (k : Core) (v : Word) : Core :=
  let k := k.setW R.TILE_SROW (v &&& 0xFFC0FFC0#32)
  [0, 1].foldl (fun (k : Core) q =>
    match k.tqOf q with
    | e :: rest =>
      let (row, held) := k.resumeRow q (k.tmmaRows e.i)
      k.setTq q ({ e with row := row, held := held } :: rest)
    | [] => k) k

/-- TILE_QUEUE_PUSH: a write of TILE_QSEL (06 R242). -/
def execTileQueuePush (p : Path) (c : CoreId) (v : Word) (s : State) : Out :=
  s.winWrite p c R.TILE_QSEL v fun s => s.onCore c fun k => k.putQsel c v s.now

/-! ### Blank words (06 R241) -/

/-- Words of the area TILE_DPTR selects. -/
def Core.dArea (k : Core) : Nat := match k.fld F.TILE_DPTR_AREA with | 0 => 2048 | 1 => 128 | 2 => 1024 | _ => 0

/-- The key of the selected word in its area. -/
def Core.dKey (k : Core) : Nat := k.dArea * k.fld F.TILE_DPTR_BLANK + k.fld F.TILE_DPTR_WORD % (Nat.max 1 k.dArea)

/-- The selected word; area 3 reads 0. -/
def Core.dData (k : Core) : Word :=
  match k.fld F.TILE_DPTR_AREA with
  | 0 => SMap.get (fun _ => (0 : Word)) k.bdata k.dKey
  | 1 => SMap.get (fun _ => (0 : Word)) k.bscale k.dKey
  | 2 => SMap.get (fun _ => (0 : Word)) k.bext k.dKey
  | _ => 0

/-- Write the selected word. -/
def Core.putDData (k : Core) (v : Word) : Core :=
  match k.fld F.TILE_DPTR_AREA with
  | 0 => { k with bdata := SMap.set (fun _ => (0 : Word)) k.bdata k.dKey v }
  | 1 => { k with bscale := SMap.set (fun _ => (0 : Word)) k.bscale k.dKey v }
  | 2 => { k with bext := SMap.set (fun _ => (0 : Word)) k.bext k.dKey v }
  | _ => k

/-- WORD increments after each access and wraps within the area. -/
def Core.stepD (k : Core) : Core := k.setFld F.TILE_DPTR_WORD ((k.fld F.TILE_DPTR_WORD + 1) % (Nat.max 1 k.dArea))

/-- TILE_DDATA_ACCESS: read or write the selected blank word (06 R241). -/
def execTileDdataAccess (p : Path) (c : CoreId) (wr : Option Word) (s : State) : Out :=
  s.winAccess p c R.TILE_DDATA wr (s.core c).dData (fun v s => s.onCore c fun k => k.putDData v) (fun s => s.onCore c Core.stepD)

/-! ### Guarded regions, valid and poison bits (07 R250, R256; 10 R341) -/

/-- A write of DMA_GUARDn: with EN = 1 every valid bit of the region clears; waits on lines it leaves unguarded end (R250, R256). -/
def State.putGuard (s : State) (c : CoreId) (n : Nat) (v : Word) : State :=
  s.onCore c fun k =>
    let k := k.setW (R.DMA_GUARD n) (putRw winRows (R.DMA_GUARD n) (k.w (R.DMA_GUARD n)) v)
    (if k.gEn n then k.clearValid (k.gBase n) (k.gCount n) else k).wakeLines c s.now

/-- GUARD_WRITE: a write of DMA_GUARDn (R250). -/
def execGuardWrite (p : Path) (c : CoreId) (n : BitVec 3) (v : Word) (s : State) : Out :=
  s.winWrite p c (R.DMA_GUARD n.toNat) v fun s => s.putGuard c n.toNat v

/-- The bits of a group of 32 lines; groups from 160 read 0. -/
def groupBits (m : SMap Bool) (g : Nat) : Word :=
  if 160 ≤ g then 0
  else BitVec.ofNat 32 ((List.range 32).foldl (fun v b => v + b2n (SMap.get (fun _ => false) m (32 * g + b)) * 2 ^ b) 0)

/-- Write the bits of a group; groups from 160 ignore it. -/
def putGroup (m : SMap Bool) (g : Nat) (v : Word) : SMap Bool :=
  if 160 ≤ g then m
  else (List.range 32).foldl (fun m b => SMap.set (fun _ => false) m (32 * g + b) (v.getLsbD b)) m

/-- The step of a group index: after 159, and from 160 on, it becomes 0. -/
def stepGroup (g : Nat) : Nat := if 159 ≤ g then 0 else g + 1

/-- VDATA_ACCESS: read or write 32 valid bits (R275). -/
def execVdataAccess (p : Path) (c : CoreId) (wr : Option Word) (s : State) : Out :=
  let g := (s.core c).fld F.DMA_VSEL_INDEX
  s.winAccess p c R.DMA_VDATA wr (groupBits (s.core c).valid g)
    (fun v s => s.onCore c fun k => ({ k with valid := putGroup k.valid g v } : Core).wakeLines c s.now)
    (fun s => s.onCore c fun k => k.setFld F.DMA_VSEL_INDEX (stepGroup g))

/-- PSNDATA_ACCESS: read or write 32 poison bits (10 R341, R355). -/
def execPsndataAccess (p : Path) (c : CoreId) (wr : Option Word) (s : State) : Out :=
  let g := (s.core c).fld F.MESH_PSNSEL_INDEX
  s.winAccess p c R.MESH_PSNDATA wr (groupBits (s.core c).psn g)
    (fun v s => s.onCore c fun k => { k with psn := putGroup k.psn g v })
    (fun s => s.onCore c fun k => k.setFld F.MESH_PSNSEL_INDEX (stepGroup g))

/-! ### Shootdown at a core (11 R382) -/

/-- The pages that a channel's next burst uses, or its STAGE units that are unanswered or still to be sent. -/
def Core.chPages (k : Core) (ch : Reg) : List (BitVec 36) :=
  let d := k.desc ch
  let x := k.ch ch
  let at_ (dst : Bool) (p : Nat) : BitVec 36 := vpnOf (d.va dst p)
  if x.n = 0 then ([false, true].filter d.mem).map fun dst => at_ dst (k.chPos ch)
  else ((x.due ++ x.todo).filter TapReq.stage).map fun q => at_ q.side q.pos

/-- Invalidate the bed job's entry of a VPN, or all of them; each RUNNING channel that is to use one parks with `XLATE` (R382). -/
def State.dmaXinv (s : State) (c : CoreId) (v : BitVec 64) : State :=
  match s.jobOf c with
  | none => s
  | some j =>
    let all := v.getLsbD 62
    let hit (n : BitVec 36) : Bool := all || n == v.truncate 36
    if !v.msb then s
    else
      let s := s.onCore c fun k => { k with xlate := k.xlate.filter fun e => !(e.job == j.id && hit e.vpn) }
      (List.range 8).foldl (fun (s : State) i =>
        let ch := BitVec.ofNat 3 i
        let k := s.core c
        if k.chState ch = chRunning ∧ (k.chPages ch).any hit = true then s.setCore c (k.parkCh ch 8 (s.restOf c) s.rev) else s) s

/-- DMA_XINV: a write of the pair DMA_XINV_HI, DMA_XINV_LO (11 R382, R388). -/
def execDmaXinv (p : Path) (c : CoreId) (v : BitVec 64) (s : State) : Out :=
  s.winWrite p c R.DMA_XINV_LO (v.truncate 32) fun s => (s.emptyWl p).dmaXinv c v

end Sys2Proof.Machine
end

