-- ==== Sys2Proof/Machine/ReduceOps.lean ====
section
/-! DEFINITION. Operations of gradient reduction: errors, the checks of a packet, and units that enter a converter (13 R431, R432, R454,
R456). -/

namespace Sys2Proof.Machine

/-- Errors of the reducer, as KIND of FX_RED_ERR (R456). -/
abbrev reFEED : Nat := 1
abbrev reSOURCE : Nat := 2
abbrev reSCALE : Nat := 3
abbrev reSATURATED : Nat := 4
abbrev reLATE : Nat := 5
abbrev reMISMATCH : Nat := 6
abbrev reRESHOME : Nat := 7
abbrev reRESOVF : Nat := 8

/-- Record an error with its reduction, segment and contribution (R456). -/
def State.redErr (s : State) (kind rid seg k : Nat) : State :=
  if s.fld F.FX_RED_ERR_VALID = 1 then s.setFld F.FX_RED_ERR_MORE 1
  else ((s.evNote R.FX_RED_ERR 0x80000000#32).setDev R.FX_RED_ERR (BitVec.ofNat 32 (0x80000000 + kind <<< 26 + (rid % 1024) <<< 16 + seg % 65536))).setDev R.FX_RED_ERRK
    (BitVec.ofNat 32 (k % 2 ^ 24))

/-- Fields of a REDUCE packet (R454). -/
def pRid (p : Packet) : Nat := bits p.aux.toNat 9 0
def pKind (p : Packet) : Nat := bits p.aux.toNat 12 10
def pCopy (p : Packet) : Bool := p.aux.getLsbD 13
def pK (p : Packet) : Nat := bits p.aux.toNat 39 16
def pSeg (p : Packet) : Nat := bits p.aux.toNat 55 40
def pN (p : Packet) : Nat := bits p.aux.toNat 63 56
def pFirst (p : Packet) : Nat := p.addr.toNat % 2 ^ 28

/-- Payload bytes of a DATA packet of `n` blocks: the billets, then M_b, padded to a multiple of 4 (R454). -/
def dataLen (n : Nat) : Nat := (196 * n + n + 3) / 4 * 4

/-- Whether a REDUCE packet keeps its payload size and names a reduction of its job (R454). -/
def State.redPacketOk (s : State) (p : Packet) : Bool :=
  let r := s.red (pRid p)
  let n := pN p
  let l := p.data.length
  r.valid && r.job == p.job &&
    match pKind p with
    | 0 => l == n
    | 1 => decide (n ≤ 20) && l == dataLen n
    | 2 => l == n
    | 3 => decide (n ≤ r.maxRes) && l == n * r.rsize
    | 4 => l == n
    | _ => false

/-- A unit of a flow enters the converter: the words, and their place in the feed they belong to (R431, R432). A header's words, and
words past a feed's end, leave the input buffer at once. -/
def State.feedUnit (s : State) (side bed : Nat) (flow : BitVec 16) (u : MUnit) : State :=
  let key := feedKey side bed flow
  let fs := s.feed key
  let (done, f) : List Feed × Feed := match fs.getLast? with
    | some f => if f.whole then (fs, Feed.none) else (fs.dropLast, f)
    | none => ([], Feed.none)
  let bad := f.bad || u.addr.toNat != f.taken % 131072
  let nh := Nat.min u.words.length (4 - f.head.length)
  let f := { f with head := f.head ++ u.words.take nh, bad := bad, taken := f.taken + nh }
  let rest := u.words.drop nh
  let nd := if f.head.length = 4 then Nat.min rest.length (f.total - f.taken) else 0
  let f := { f with data := f.data ++ rest.take nd, taken := f.taken + nd }
  let gone := nh + (rest.length - nd)
  (s.setFeed key (done ++ [f])).setConvFree side (s.convFree side + 4 * gone)

end Sys2Proof.Machine
end

