-- ==== Sys2Proof/Machine/Fabric.lean ====
section
/-! DEFINITION. The Utlas fabric: flits and link-level retry, training, packets, transport, and scratchpad streams (12 R389 to R418;
15 R460; 17 R521). -/

namespace Sys2Proof.Machine

/-! ### Flits (12 R390 to R396) -/

/-- The packet of a lane is whole: a fabric packet waits to be taken, one that is no packet is dropped; a packet of the Brepo link
breaks R461 where its OP is reserved or not the adapter's, or its length is not its OP's. -/
def State.packetIn (s : State) (p : Nat) (vl : Bool) (bs : List Byte) : State :=
  if p < 40 then
    if (packetOf bs).isSome then s.setPort p { s.port p with pkts := (s.port p).pkts ++ [(vl, bs)] } else s
  else
    let op := ofLe (bs.take 1)
    let len := ofLe ((bs.drop 4).take 4)
    let n := bs.length - 16
    let ok := decide (16 ≤ bs.length) && (match op with
      | 1 => n == 0 && len == 0
      | 2 => n == 4 && len == 4
      | 4 => n == 4 && len == 4
      | 6 => n == len && decide (n ≤ 4096) && (n != 0 || ofLe ((bs.drop 8).take 8) == 2 ^ 64 - 1)
      | _ => false)
    if ok then s else s.bump F.HL_CNT_BADPKT 1

/-- A START or CONT flit whose CRC is good, `ok`, and with the expected LSEQ: its body joins the packet of its lane and its buffer is freed; a flit
out of order, or with a bad CRC, is discarded and the first such after an accepted flit sends a NAK (12 R395). -/
def State.takeFlit (s : State) (p : Nat) (ok : Bool) (f : Flit) : State :=
  let x := s.port p
  if ok && f.lseq == x.expect then
    let vl := f.vl && decide (p < 40)
    let part := (if vl then x.part1 else x.part0)
    let bs := (if f.type = 1 then [] else part) ++ f.body
    let keep := if f.eop then [] else bs
    let s := s.setPort p { x with
      expect := x.expect + 1, lack := f.lseq, naked := false
      free0 := x.free0 + (if vl then 0 else 1), free1 := x.free1 + (if vl then 1 else 0)
      part0 := if vl then x.part0 else keep, part1 := if vl then keep else x.part1 }
    if f.eop then s.packetIn p vl bs else s
  else if x.naked then s
  else
    let s := s.setPort p ({ x with naked := true }.emit s.now 4 0 false false [])
    if p < 40 then s.bump (F.FX_PORT_RETRY_NAK p) 1 else s

/-- Data bits of an RS(544,514) codeword, the symbols it corrects, and bits of a flit (12 R390, R391). -/
abbrev cwBits : Nat := 5140
abbrev cwCorrects : Nat := 15
abbrev flitBits : Nat := 2048

/-- Whether a flit that begins at a port's place in the codeword stream is the first to take bits of a codeword. -/
def Port.newWord (x : Port) : Bool := decide (x.rxPos = 0) || decide (cwBits < x.rxPos + flitBits)

/-- Whether a codeword that the flit overlaps cannot be corrected: the one it begins in, or the one it reaches, with `errs` symbols in error. -/
def Port.flitLost (x : Port) (errs : Nat) : Bool := (decide (x.rxPos ≠ 0) && x.rxBad) || (x.newWord && decide (cwCorrects < errs))

/-- A flit takes its bits of the codeword stream, in which flits follow back to back; a codeword that it is the first to reach is counted as
corrected or not (12 R390, R424; 17 R521). -/
def State.takeFec (s : State) (p errs : Nat) : State :=
  let x := s.port p
  let y := { x with rxPos := (x.rxPos + flitBits) % cwBits, rxBad := if x.newWord then decide (cwCorrects < errs) else x.rxBad }
  if !x.newWord ∨ errs = 0 then s.setPort p y
  else if cwCorrects < errs then
    let s := s.setPort p y
    if p < 40 then s.bump (F.FX_PORT_FEC_UNCORR p) 1 else s
  else
    let s := s.setPort p { y with corr := y.corr + 1 }
    if p < 40 then s.bump (F.FX_PORT_FEC_CORR p) 1 else s

/-- What a flit with a good CRC brings: LACK and CRED, then a packet's next bytes or a NAK (12 R393 to R396). -/
def State.takeGood (s : State) (p : Nat) (f : Flit) : State :=
  let s := (s.takeLack p f.lack).takeCred p f.cred0 f.cred1
  let s := if f.type = 1 ∨ f.type = 2 then s.takeFlit p true f else s
  let s := if f.type = 4 then s.replay p else s
  s.pumpPort p

/-- FLIT_RECEIVE: a port receives 256 bytes. `errs` counts the symbols in error of the codeword that the flit is the first to reach, if it is; a flit
that overlaps a codeword not corrected is lost. Then come the CRC, what every flit carries (LACK, CRED), and the flit itself (12 R390 to R392,
R395). Control flits leave LSEQ alone; a flit of a reserved type is discarded. -/
def execFlitReceive (port : BitVec 6) (raw : RawFlit) (s : State) : Out :=
  if raw.bytes.length ≠ 256 then .refused .illFormed
  else withPort port fun p =>
    if s.portState p ≠ portUp then .next s
    else
      let lost := (s.port p).flitLost raw.errs.toNat
      let s := s.takeFec p raw.errs.toNat
      let f := flitOf raw.bytes
      if lost then .next s
      else if !flitOk raw.bytes then .next (if f.type = 1 ∨ f.type = 2 then s.takeFlit p false f else s)
      else if 4 < f.type.toNat then .next s
      else .next (s.takeGood p f)

/-- NAK: the sender replays from LACK; if the retry budget has expired, the port becomes FAILED (12 R396, R415). -/
def execNak (port : BitVec 6) (lack : BitVec 12) (s : State) : Out :=
  withPort port fun p =>
    if s.portState p ≠ portUp then .next s
    else if ((s.port p).budget.map fun d => notAfter d s.now).getD false then .next (s.failPort p 1)
    else .next (((s.takeLack p lack).replay p).pumpPort p)

/-- REPLAY_TIMEOUT: LACK has not advanced for 2D + 256 cycles while flits are unacknowledged (12 R396). -/
def execReplayTimeout (port : BitVec 6) (s : State) : Out :=
  withPort port fun p =>
    if s.portState p ≠ portUp ∨ (s.port p).replay.isEmpty then .next s
    else
      let s := s.advanceTo ((s.port p).lackAt + BitVec.ofNat 60 (2 * s.delay p + 256))
      .next (s.replay p)

/-- IDLE: a receiver that has sent nothing for 64 cycles sends an IDLE flit, which carries LACK and CRED (12 R395). -/
def execIdle (port : BitVec 6) (s : State) : Out :=
  withPort port fun p =>
    if s.portState p ≠ portUp then .next s
    else
      let s := s.advanceTo ((s.port p).lastOut + 64)
      .next (s.setPort p ((s.port p).emit s.now 0 0 false false []))

/-- LINK_RETRY_BUDGET: the oldest flit's budget expires before a LACK covers it: the port becomes FAILED (12 R397). -/
def execLinkRetryBudget (port : BitVec 6) (s : State) : Out :=
  withPort port fun p =>
    if s.portState p ≠ portUp then .next s
    else match (s.port p).budget with
      | some d => .next ((s.advanceTo d).failPort p 1)
      | none => .next s

/-- SIGNAL_LOSS: 1,024 cycles without signal or FEC lock on a lane: the port becomes FAILED (12 R397). -/
def execSignalLoss (port : BitVec 6) (s : State) : Out :=
  withPort port fun p => if s.portState p = portUp then .next (s.failPort p 2) else .next s

/-! ### Training (12 R399; 15 R460; 17 R521) -/

/-- TRAIN: FX_PORTn_CTRL is written with EN and TRAIN set. -/
def execTrain (path : Path) (port : BitVec 6) (s : State) : Out :=
  if 40 ≤ port.toNat then .refused .illFormed
  else s.devWrite path (R.FX_PORT_CTRL port.toNat) 3 fun s => (s.setFld (F.FX_PORT_CTRL_EN port.toNat) 1).startTraining port.toNat

/-- PORT_TRAINED: training completes. The partner's numbers and D are recorded and the port enters UP, or it becomes FAILED. The Brepo
link has no registers for them. -/
def execPortTrained (port : BitVec 6) (ok : Bool) (delay pmod : BitVec 16) (pport : BitVec 6) (s : State) : Out :=
  withPort port fun p =>
    if s.portState p ≠ portTraining then .next s
    else if !ok then .next (s.failPort p 3)
    else if 40 ≤ p then .next ((s.setPort p { s.port p with delay := delay }).trained p)
    else
      let s := (s.setFld (F.SPN_PORT_DLY_DELAY p) delay.toNat).setFld (F.SPN_PORT_DLY_VALID p) 1
      let s := (s.setFld (F.FX_PORT_STAT_PMOD p) pmod.toNat).setFld (F.FX_PORT_STAT_PPORT p) pport.toNat
      .next (((s.setFld (F.FX_PORT_CTRL_TRAIN p) 0).trained p).portEvent p)

/-- PORT_RETRAIN: the headstock starts the training it has put off: of a FAILED port after its delay, or of one with too many
corrected codewords (17 R521). -/
def execPortRetrain (port : BitVec 6) (s : State) : Out :=
  if 40 ≤ port.toNat then .refused .illFormed
  else
    let p := port.toNat
    match (s.port p).trainAt with
    | some r =>
      if s.fld (F.FX_PORT_CTRL_EN p) = 0 then .next s
      else if s.portState p = portFailed then .next ((s.advanceTo (revStart r)).startTraining p)
      else if s.portState p = portUp then .next (s.startTraining p)
      else .next s
    | none => .next s

/-- Hold a port DOWN (12 R424). -/
def State.disablePort (s : State) (p : Nat) : State :=
  let s := (s.setFld (F.FX_PORT_CTRL_EN p) 0).setFld (F.FX_PORT_CTRL_TRAIN p) 0
  let s := if s.portState p = portUp then s.leaveUp p portDown else s.setPortState p portDown
  s.setPort p { s.port p with retries := 0, trainAt := none }

/-- PORT_DISABLE: a write that clears FX_PORTn_CTRL.EN takes the port to DOWN. -/
def execPortDisable (path : Path) (port : BitVec 6) (s : State) : Out :=
  if 40 ≤ port.toNat then .refused .illFormed
  else s.devWrite path (R.FX_PORT_CTRL port.toNat) 0 fun s => s.disablePort port.toNat

/-- BREPO_LINK_TRAINING: the adapter begins training the Brepo link whenever it is DOWN or FAILED (15 R460). -/
def execBrepoLinkTraining (s : State) : Out :=
  if s.power.pgood && (s.portState 40 == portDown || s.portState 40 == portFailed) then .next (s.startTraining 40) else .next s

/-! ### Transport (12 R406, R411 to R413) -/

/-- Whether a context's type takes an OP (12 R405): a CREDIT_ANS answers a FLOW_TX context, or returns a grant to a FLOW_RX one (log entry
46). -/
def opTaken (type op : Nat) : Bool :=
  if op = 9 then decide (1 ≤ type) && decide (type ≤ 5)
  else if op ≤ 1 then type == ctxFlowRx
  else if op = 2 then type == ctxFlowTx || type == ctxFlowRx
  else if op ≤ 7 then type == ctxPeer
  else if op = 8 then type == ctxAgree
  else op == 10 && type == ctxReduce

/-- SEQ a - b, modulo 2^24. -/
def seqDiff (a b : Nat) : Nat := (a + 2 ^ 24 - b % 2 ^ 24) % 2 ^ 24

/-- The highest SEQ accepted in order, which the next SEQ expected follows (12 R412). -/
def State.ackValue (s : State) (n : Nat) : Nat := seqDiff (bits (s.cw n 5) 23 0) 1

/-- Send an ACK for everything accepted. -/
def State.sendAck (s : State) (n : Nat) : State :=
  let s := s.originate n 9 0 (s.ackValue n) []
  s.setCtx n { s.ctx n with owed := 0 }

/-- An ACK arrives: the packets it covers are released; if none is left, the retransmit timer disarms (12 R411, R413). -/
def State.takeAck (s : State) (n : Nat) (seq : Nat) : State :=
  let timer := s.ctxTimer n
  let x := s.ctx n
  let rest := x.unack.filter fun u => !decide (seqDiff seq u.pkt.seq.toNat < 2 ^ 23)
  let s := s.setCtx n { x with unack := rest }
  let s := s.setCw n 4 (match rest.head? with
    | some u => u.pkt.seq.toNat
    | none => bits (s.cw n 3) 23 0)
  let s := if rest.isEmpty then s.setCw n 6 0 else match timer with
    | some m => s.armCtx n m
    | none => s
  if s.ctxType n = ctxAgree then s.settle (s.ctxJob n) else s

/-- What an accepted packet does as it arrives: a credit request goes over the flag network to the context's core, an answer to the
channel that asked first, an agreement message to the headstock; FILL_DATA whose line is gone is discarded; the others wait for their commands
(10 R351; 12 R417, R422; 13 R454). -/
def State.accepted (s : State) (n : Nat) (p : Packet) : State :=
  let keep (s : State) : State := s.setCtx n { s.ctx n with rx := (s.ctx n).rx ++ [p] }
  let msg (s : State) (src dst : CoreId) (b : NetBody) : State :=
    { s with net := s.net ++ [{ src := src, dst := dst, due := s.now + 1 + BitVec.ofNat 60 (s.lat src dst), body := b }] }
  let a := p.aux.toNat
  match p.op.toNat with
  | 1 => msg s (s.rxEdge n) (BitVec.ofNat 12 (bits (s.cw n 2) 11 0)) (.fabricReq (BitVec.ofNat 14 n) p.addr (a % 2 ^ 32) (bits a 47 32))
  | 2 =>
    if s.ctxType n = ctxFlowRx then
      msg s (s.rxEdge n) (BitVec.ofNat 12 (bits (s.cw n 2) 11 0)) (.creditRet (BitVec.ofNat 3 (bits (s.cw n 2) 14 12)) (bits a 19 0))
    else match (s.ctx n).asks with
    | (c, ch, gen) :: rest =>
      let s := s.setCtx n { s.ctx n with asks := rest }
      let e := (s.edgeOf c (BitVec.ofNat 16 (bits (s.cw n 2) 31 16)) s.now).getD c
      msg s e c (.creditAns ch gen (bits a 19 0) (bit a 20) (bit a 21) 0)
    | [] => s
  | 4 => (keep s).purgeFills n (BitVec.ofNat 40 (p.addr.toNat / 4096))
  | 8 => (keep s).recvAgree n
  | 10 => if s.redPacketOk p then (if pKind p ≤ 1 then { s with redQ := s.redQ ++ [p] } else if pKind p = 3 then s else keep s) else s.redErr reSOURCE (pRid p) (pSeg p) (pK p)
  | _ => keep s

/-- A context accepts a packet: RXSEQ advances, and 16 packets accepted are acknowledged at once (12 R412). -/
def State.accept (s : State) (n : Nat) (p : Packet) : State :=
  let x := s.ctx n
  let s := s.setCw n 5 ((bits (s.cw n 5) 23 0 + 1) % 2 ^ 24)
  let s := s.setCtx n { x with owed := x.owed + 1, owedAt := if x.owed = 0 then s.now else x.owedAt }
  let s := s.accepted n p
  if 16 ≤ (s.ctx n).owed then s.sendAck n else s

/-- Whether a packet is a RESULT, which is accepted only when every word of it is written (13 R449). -/
def State.isResult (s : State) (p : Packet) : Bool := p.op == 10 && bits p.aux.toNat 12 10 == 3 && s.redPacketOk p

/-- The transport checks (12 R412); packets behind a RESULT that is not written wait for it (13 R449;
DEDUCED, log entry 57). -/
def State.transport (s : State) (n : Nat) (p : Packet) : State :=
  let x := s.ctx n
  let d := seqDiff p.seq.toNat (bits (s.cw n 5) 23 0)
  if !x.wait.isEmpty ∨ (d = 0 ∧ s.isResult p = true) then s.setCtx n { x with wait := x.wait ++ [p] }
  else if d = 0 then s.accept n p
  else if 2 ^ 23 ≤ d then (s.setCtx n { x with dup := x.dup + 1 }).sendAck n
  else s.setCtx n { x with ooo := x.ooo + 1 }

/-- The checks of a packet at its destination, in order (12 R406). -/
def State.receive (s : State) (port : Nat) (p : Packet) : State :=
  let n := p.dctx.toNat
  if s.ctxType n = 0 ∨ s.ctxJob n ≠ p.job ∨ opTaken (s.ctxType n) p.op.toNat = false then (s.fxErr 1 port n).toHeadstock (.badCtx port n)
  else if p.op ≠ 8 ∧ p.op ≠ 9 ∧ p.epoch.toNat ≠ bits (s.cw n 3) 31 24 then s.setCtx n { s.ctx n with stale := (s.ctx n).stale + 1 }
  else if p.op = 9 then s.takeAck n (p.addr.toNat % 2 ^ 24)
  else s.transport n p

/-- PACKET_RECEIVE: a packet for another module is forwarded by the route table with one hop less, or discarded as `HOPLIMIT`; one for
this module is checked and accepted or discarded (12 R406 to R408, R412). A packet that flits brought leaves the port's store; one that
no flit of the model brought arrives whole. -/
def execPacketReceive (port : BitVec 6) (vl : Bool) (pkt : Packet) (s : State) : Out :=
  if 40 ≤ port.toNat then .refused .illFormed
  else
    let p := port.toNat
    if s.portState p ≠ portUp then .next s
    else
      let s := s.setPort p { s.port p with pkts := (s.port p).pkts.erase (vl, packetBytes pkt) }
      if s.fld F.FX_CTRL_EN = 0 then .next s
      else if pkt.dmod ≠ s.ownModule then
        if pkt.hops = 0 then .next (s.fxErr 4 p pkt.dctx.toNat)
        else .next (s.sendPacket fwdSrc vl { pkt with hops := pkt.hops - 1 }).1
      else .next (s.receive p pkt)

/-- ACK: a receiving context acknowledges 256 cycles after the first packet it has not yet acknowledged (12 R412). -/
def execAck (ctx : BitVec 14) (s : State) : Out :=
  let n := ctx.toNat
  if s.ctxType n = 0 ∨ (s.ctx n).owed = 0 then .next s
  else .next ((s.advanceTo ((s.ctx n).owedAt + 256)).sendAck n)

/-- The revolution from which a context's retransmit timer runs. -/
def State.timerOf (s : State) (n : Nat) : Option (BitVec 48) :=
  match s.ctxTimer n with
  | some m => some m
  | none => (s.ctx n).unack.head?.map fun (u : SentPkt) => u.rev + 10

/-- Every unacknowledged packet of a context is sent again in SEQ order over the routes in force, and its timer armed (12 R413). -/
def State.resend (s : State) (n : Nat) : State :=
  let (s, us) : State × List SentPkt := (s.ctx n).unack.foldl (fun (a : State × List SentPkt) (u : SentPkt) =>
    let (s, port) := if a.1.fld F.FX_CTRL_EN = 1 then a.1.sendPacket n false u.pkt else (a.1, none)
    (s, a.2 ++ [{ u with port := port }])) (s, [])
  let s := s.setCtx n { s.ctx n with unack := us, trev := s.rev }
  s.setCw n 6 0x80000000

/-- RETRANSMIT: the timer expires: every unacknowledged packet is resent in SEQ order over the routes in force, and the timer is armed
again with n = 16 (12 R413). -/
def execRetransmit (ctx : BitVec 14) (s : State) : Out :=
  let n := ctx.toNat
  if s.ctxType n = 0 then .next s
  else
    match s.timerOf n with
    | none => .next s
    | some m => .next ((s.advanceTo (revStart (m + 17))).resend n)

/-! ### Scratchpad streams (12 R416, R418; 13 R431) -/

/-- Whether a core of the bed names a flow as one that feeds the converter (13 R431). -/
def State.feedsConv (s : State) (bed : Nat) (flow : BitVec 16) : Bool :=
  s.cores.any fun (_, k) => k.bed == some bed && (List.range 4).any fun r =>
    let w := (k.w (R.MESH_FABRT r)).toNat
    bit w 31 && bits w 29 16 == convCtx.toNat && bits w 15 0 == flow.toNat

/-- FAB_OUT: an edge fabric tap accepts a unit, and the fabric complex matches its bed and FLOW: to the converter, or to a FLOW_TX
context, as one DATA packet; a unit with no match is discarded as `NOCTX` (12 R416; 13 R431). -/
def execFabOut (c : CoreId) (s : State) : Out :=
  withCore s c (
    match s.unitAt c .outX with
    | none => .next s
    | some m =>
      let s := s.unitTaken m
      match (s.core c).bed with
      | none => .next (s.fxErr 2 0x3F 0)
      | some b =>
        if m.u.kind = 4 ∧ s.feedsConv b m.u.flow = true then .next (s.feedUnit (s.sideOf c) b m.u.flow m.u)
        else match s.flowTx b m.u.flow with
          | some n =>
            if m.u.kind = 4 then .next (s.originate n 0 m.u.poison.toNat m.u.addr.toNat (bytesOfWords m.u.words))
            else .next (s.fxErr 2 0x3F 0)
          | none => .next (s.fxErr 2 0x3F 0))

/-- The next cycle in which an entry of a core's router takes input X with a flow, outside rest revolutions. -/
def State.nextIn (s : State) (e : CoreId) (flow : BitVec 16) (d : Count) : Option Count :=
  let go (d : Count) : Option Count :=
    ((List.range (s.core e).period).map fun i => d + BitVec.ofNat 60 i).find? fun t =>
      (List.range 7).any fun o => s.entryAt e o (t.toNat % 4096) == some (pX, flow)
  match go d with
  | some t => if s.afterRest e t = t then some t else go (s.afterRest e t)
  | none => none

/-- The flow in which a FLOW_RX context delivers. -/
def State.rxFlow (s : State) (n : Nat) : BitVec 16 := BitVec.ofNat 16 (bits (s.cw n 2) 31 16)

/-- FAB_IN: a FLOW_RX context delivers its oldest DATA packet as a FAB_IN unit in the next slot of its edge tap for its FLOW (12
R418). -/
def execFabIn (ctx : BitVec 14) (s : State) : Out :=
  let n := ctx.toNat
  if s.ctxType n ≠ ctxFlowRx then .next s
  else match (s.ctx n).rx with
    | [] => .next s
    | p :: rest =>
      let e := s.rxEdge n
      let flow := s.rxFlow n
      if !s.hasCore e then .next s
      else match s.nextIn e flow (notBefore s.now (s.core e).edgeAt) with
        | none => .next s
        | some d =>
          if s.guarded e d then .next s
          else
            let s := ((s.setCtx n { s.ctx n with rx := rest }).advanceTo d).onCore e fun k => { k with edgeAt := d + 1 }
            .next (s.putUnit e (.inp 6) d
              { flow := flow, kind := 5, addr := p.addr.truncate 17, words := wordsOfBytes p.data, poison := p.aux.truncate 2 })

/-! ### The route table's registers (12 R407, R424) -/

/-- The selected route entry as FX_RTDATA reads: ONALT shows that packets leave on ALT. -/
def State.rtData (s : State) : Word :=
  let m : BitVec 16 := BitVec.ofNat 16 (s.fld F.FX_RTSEL_DMOD)
  let w := s.route m &&& 0xC03F3F80#32
  let alt := match s.routePort m with
    | some p => !(decide (p = bits w.toNat 21 16) && s.portState p == portUp) && p == bits w.toNat 13 8
    | none => false
  if alt then w ||| 1 else w

/-- Write the selected route entry. -/
def State.putRt (s : State) (m : BitVec 16) (v : Word) : State :=
  ({ s with routes := SMap.set (fun _ => (0 : Word)) s.routes m.toNat (v &&& 0xC03F3F80#32) } : State).noteRoutes

/-- FX_RTSEL advances after an access. -/
def State.stepRt (s : State) : State := s.setFld F.FX_RTSEL_DMOD ((s.fld F.FX_RTSEL_DMOD + 1) % 65536)

/-- FX_RTDATA_ACCESS: read or write a route entry; DMOD advances (12 R407, R424). -/
def execFxRtdataAccess (p : Path) (wr : Option Word) (s : State) : Out :=
  match wr with
  | some v => s.devWrite p R.FX_RTDATA v fun s => (s.putRt (BitVec.ofNat 16 (s.fld F.FX_RTSEL_DMOD)) v).stepRt
  | none => .next (s.stepRt.answer p false s.rtData)

end Sys2Proof.Machine
end

