-- ==== Sys2Proof/Machine/Xlate.lean ====
section
/-! DEFINITION. Translation: walks, faults and their resolution, migration and shootdown (11 R360, R361, R380 to R383; 12 R420). -/

namespace Sys2Proof.Machine

/-- The pages a channel's next burst touches, in order, each with whether it is written and the job virtual address of its first word. -/
def Core.chAccess (k : Core) (ch : Reg) : List (BitVec 36 × Bool × Int) :=
  let d := k.desc ch
  if (k.ch ch).n ≠ 0 ∨ k.chNext ch = 0 then []
  else ([false, true].filter d.mem).map fun dst =>
    let a := d.va dst (k.chPos ch)
    (vpnOf a, dst && d.op != opCompare, 4 * a)

/-- The fault of an access under the job's tables: 0 `NOTMAPPED`, 1 `PROT`, 2 `MIG`, 3 `NOROUTE` (R380). -/
def State.xlFault (s : State) (c : CoreId) (e : BitVec 64) (wr : Bool) : Option Nat :=
  match pteFault e wr with
  | some f => some f
  | none => if (s.tapRoute c e).isNone then some 3 else none

/-- The first access of a channel whose page its cache does not permit (R361). -/
def State.chMiss (s : State) (c : CoreId) (ch : Reg) (j : Job) : Option (BitVec 36 × Bool × Int) :=
  ((s.core c).chAccess ch).find? fun (v, wr, _) => ((s.core c).xlateOf j.id v wr).isNone

/-- The walk for a page ends: the entry is cached, and a write recorded; or the channel parks with `XLATE`, the fault in DMA_XFLT (R361,
R376, R380). -/
def State.walked (s : State) (c : CoreId) (ch : Reg) (j : Job) (v : BitVec 36) (wr : Bool) (a : Int) : State :=
  let k := s.core c
  let e := j.walk (s.region c) v
  match s.xlFault c e wr with
  | some f =>
    let k := if k.fld F.DMA_XFLT_STAT_VALID = 1 then k.setFld F.DMA_XFLT_STAT_MORE 1
      else
        let b := a % (2 ^ 52 : Int)
        let k := k.evNote s.now R.DMA_XFLT_STAT 0x80000000#32
        ((k.setW R.DMA_XFLT_STAT (BitVec.ofNat 32 (0x80000000 + f <<< 26 + b2n wr <<< 25 + ch.toNat <<< 22))).setW
          R.DMA_XFLT_LO (BitVec.ofInt 32 b)).setW R.DMA_XFLT_HI (BitVec.ofInt 32 (b / 2 ^ 32))
    (s.setCore c (k.parkCh ch 8 (s.restOf c) s.rev)).toHeadstock (.xlate j.id v wr (some (c, ch)))
  | none =>
    let l := k.xlate.filter fun x => !(x.job == j.id && x.vpn == v)
    let k := { k with xlate := l.drop (l.length + 1 - 64) ++ [{ job := j.id, vpn := v, entry := e, write := wr }] }
    let s := s.setCore c k
    if wr then s.onJob j.id fun j => j.write v (e.getLsbD 6 || pteModule e != s.ownModule) else s

/-- TRANSLATION_WALK: the walk for the first page that a channel misses ends: the entry is cached, and a write records the page as
written; or the channel parks with `XLATE` (R360, R361, R376, R380). -/
def execTranslationWalk (c : CoreId) (ch : Reg) (s : State) : Out :=
  withCore s c (
    let k := s.core c
    match s.jobOf c with
    | none => .next s
    | some j =>
      if k.chState ch ≠ chRunning ∨ (k.ch ch).ends.isSome then .next s
      else match s.chMiss c ch j with
      | none => .next s
      | some (v, wr, a) =>
        .next (s.walked c ch j v wr a))

/-! ### Mapping and migration (R381, R382) -/

/-- Whether a byte address lies in the 64 KiB page at `page`. -/
def inPage (page a : Nat) : Bool := page ≤ a && a < page + 65536

/-- The level 3 entry of a page homed on this module, with image flags [0] R, [1] W, [2] SH (15 R485). -/
def State.homeEntry (s : State) (frame flags : Nat) : BitVec 64 :=
  BitVec.ofNat 64 (s.ownModule.toNat * 2 ^ 48 + frame / 65536 * 65536 + b2n (bit flags 2) * 64 + b2n (bit flags 1) * 8
    + b2n (bit flags 0) * 4 + 3)

/-- Set a job's level 3 entry. -/
def Job.setPte (j : Job) (vpn : BitVec 36) (e : BitVec 64) : Job := { j with tab := SMap.set (fun _ => 0) j.tab vpn.toNat e }

/-- A zeroed page of local memory. -/
def State.zeroPage (s : State) (page : Nat) : State :=
  { s with dram := s.dram.filter fun x => !inPage page x.1, dramPsn := s.dramPsn.filter fun x => !inPage page (64 * x.1) }

/-- The flags of the demand-zero range a page lies in. -/
def Job.demand (j : Job) (vpn : BitVec 36) : Option Nat :=
  (j.dzero.find? fun (f, n, _) => f ≤ vpn.toNat && vpn.toNat < f + n).map fun (_, _, fl) => fl

/-- Whether a frame can hold a page: a whole populated page that the headstock has not reserved, and in which no job has a page (R357; 10
R328). -/
def State.frameOk (s : State) (frame : BitVec 48) : Bool := s.pageOk frame.toNat && (s.owner frame.toNat).isNone

/-- Drop a page's entry at every translation point of the module; channels that are to use it park with `XLATE` (R382). -/
def State.shootDown (s : State) (j : Job) (vpn : BitVec 36) : State :=
  let s := (j.cores s).foldl (fun (s : State) c => s.dmaXinv c (0x8000000000000000#64 ||| vpn.zeroExtend 64)) s
  let keep (e : TEnt) : Bool := !(e.job == j.id && e.vpn == vpn)
  { s with stgX := (s.stgX.map fun p => (p.1, p.2.filter keep)).filter fun p => !p.2.isEmpty, fabX := s.fabX.filter keep }

/-- The stage lines of a page of this module return to local memory, and are dropped. -/
def State.settleLines (s : State) (page : Nat) : State :=
  let mine (l : StageLine) : Bool := lineModule l.addr == s.ownModule && inPage page (lineLocal l.addr)
  let s' := (s.lines.filter mine).foldl (fun (s : State) l =>
    l.wrote.foldl (fun (s : State) (i, m) =>
      (s.preservePage page).putBurst (lineLocal l.addr + 64 * i) m.toNat (wordsOfBytes (l.burst i)) (l.poison.getLsbD i)) s) s
  s'.dropLines mine

/-- Whether a page written in the pass, and its shadow, fit at a frame: a bonded one needs a frame of its channel's pool, an LPDDR6 one a shadow
page (R371, R372). -/
def State.shadowFits (s : State) (j : Job) (page frame : Nat) : Bool :=
  let held := j.shPages.contains page || j.lshadows.any fun x => x.1 == page
  if !held then true
  else if frame < bondedEnd then
    decide ((s.tap (tapOfAddr frame)).shUsed < s.shPages) || (j.shPages.contains page && tapOfAddr page == tapOfAddr frame)
  else (j.lshadows.any fun x => x.1 == page) || decide (j.lshadows.length < j.lshadow)

/-- The content of a bonded page at the start of the pass, listed: its shadowed bursts as they were, the others as they are. -/
def State.startPage (s : State) (j : Job) (page : Nat) : List (Nat × Byte) × List Nat :=
  let mine := j.shadow.filter fun x => inPage page x.1
  let t := mine.foldl (fun (s : State) (a, bs, p) => (s.setBytes a bs).setPsnAt a p) s
  t.pageOf page

/-- A job's shadows of a page as they stand once it has moved to a frame: within a tier they move with it; to LPDDR6 the bursts become a shadow
page, to the bonded tier the shadow page becomes a shadow of every burst (R371, R382). -/
def State.movedShadow (s : State) (j : Job) (page frame : Nat) : Job :=
  let mv (a : Nat) : Nat := frame + (a - page)
  let mvPage (x : List (Nat × Byte) × List Nat) : List (Nat × Byte) × List Nat :=
    (x.1.map fun (k, b) => (mv k, b), x.2.map fun b => mv (64 * b) / 64)
  let away := { j with shadow := j.shadow.filter fun x => !inPage page x.1, shPages := j.shPages.filter (· != page)
                       lshadows := j.lshadows.filter fun x => x.1 != page }
  if frame < bondedEnd then
    match j.lshadows.find? (fun x => x.1 == page) with
    | some (_, m, ps) =>
      { away with shPages := away.shPages ++ [frame]
                  shadow := away.shadow ++ (List.range 1024).map fun i =>
                    (frame + 64 * i, (List.range 64).map fun k => SMap.get (fun _ => (0 : Byte)) m (page + 64 * i + k), ps.contains ((page + 64 * i) / 64)) }
    | none =>
      if j.shPages.contains page then
        { away with shPages := away.shPages ++ [frame]
                    shadow := away.shadow ++ (j.shadow.filter fun x => inPage page x.1).map fun (a, b, p) => (mv a, b, p) }
      else j
  else
    match j.lshadows.find? (fun x => x.1 == page) with
    | some (_, x) => { away with lshadows := away.lshadows ++ [(frame, mvPage x)] }
    | none => if j.shPages.contains page then { away with lshadows := away.lshadows ++ [(frame, mvPage (s.startPage j page))] } else j

/-- One frame fewer, or more, of a channel's shadow pool is in use. -/
def State.onPool (s : State) (a : Nat) (f : Nat → Nat) : State := s.setTap (tapOfAddr a) { s.tap (tapOfAddr a) with shUsed := f (s.tap (tapOfAddr a)).shUsed }

/-- The page at `page` moves to `frame`, with its shadow and the pass record of its bursts; the new entry has MIG = 0 (R382). -/
def State.movePage (s : State) (id : JobId) (vpn : BitVec 36) (page frame : Nat) : State :=
  let s := s.settleLines page
  match s.job id with
  | none => s
  | some j =>
    let j' := s.movedShadow j page frame
    let (m, ps) := s.pageOf page
    let s := (s.zeroPage page).zeroPage frame
    let s := m.foldl (fun (s : State) (k, b) => s.setByte (frame + (k - page)) b) s
    let s := ps.foldl (fun (s : State) b => s.setPsnAt (frame + (64 * b - page)) true) s
    let s := if j.shPages.contains page then s.onPool page (· - 1) else s
    let s := if j'.shPages.contains frame then s.onPool frame (· + 1) else s
    s.onJob id fun _ => { j'.setPte vpn ((j'.pte vpn &&& 0xFFFF00000000FF7F#64) ||| BitVec.ofNat 64 frame) with
                          migs := j'.migs.filter fun x => x.1 != vpn }

/-- The first half of a migration: MIG = 1 in every replica, and the shootdown at every translation point (R382). -/
def State.startMig (s : State) (j : Job) (vpn : BitVec 36) (frame : BitVec 48) : State :=
  (s.onJob j.id fun j => { j.setPte vpn (j.pte vpn ||| 0x80#64) with migs := j.migs ++ [(vpn, frame)] }).shootDown j vpn

/-- Migrate a page of a job that is homed here (R382): the first command for a page begins with MIG = 1 and the shootdown; the next copies the
page and writes the new entry with MIG = 0. The distance table's pages stay (01 R32). -/
def State.migrate (s : State) (id : JobId) (vpn : BitVec 36) (frame : BitVec 48) : State :=
  match s.job id with
  | some j =>
    let e := j.pte vpn
    let page := pteFrame e
    match j.migs.find? (fun x => x.1 == vpn) with
    | some (_, to_) => if s.shadowFits j page to_.toNat then s.movePage id vpn page to_.toNat else s
    | none =>
      if e.getLsbD 0 && pteModule e == s.ownModule && vpn.toNat < dtabVpn 0 && s.frameOk frame && s.shadowFits j page frame.toNat then
        s.startMig j vpn frame
      else s
  | none => s

/-- PAGE_MIGRATE: the headstock begins the migration of a page to a frame, or ends one it has begun (R382). -/
def execPageMigrate (job : JobId) (vpn : BitVec 36) (frame : BitVec 48) (s : State) : Out := .next (s.migrate job vpn frame)

/-- Resolve a fault of kind `f` at a page (R381): `done` goes on once it is resolved; an unresolvable one cancels the job. -/
def State.resolve (s : State) (j : Job) (vpn : BitVec 36) (f : Nat) (frame : BitVec 48) (done : State → State) : State :=
  if f = 2 then s
  else if f = 3 then if s.frameOk frame && decide (vpn.toNat < dtabVpn 0) then done ((s.migrate j.id vpn frame).migrate j.id vpn frame) else s
  else
    match (if f = 0 then j.demand vpn else none) with
    | some fl =>
      if s.frameOk frame then done ((s.zeroPage frame.toNat).onJob j.id fun j => j.setPte vpn (s.homeEntry frame.toNat fl)) else s
    | none => s.cancelJob j.id stXLATE true none

/-- The oldest remote request that waits on a PEER context. -/
def State.oldFill (s : State) (n : Nat) : Option Packet := (s.ctx n).rx.find? fun p => p.op == 3

/-- The fault for which a remote request waits: of the oldest FILL of a context, or of a write that its module has sent (R370, R380). -/
def State.fabFault (s : State) (n : Nat) (j : Job) : Option (BitVec 36 × Nat) :=
  let at_ (va : Nat) (wr : Bool) : Option (BitVec 36 × Nat) :=
    let vpn : BitVec 36 := BitVec.ofNat 36 (va / 65536)
    (pteFault (j.pte vpn) wr).map fun f => (vpn, f)
  match (s.oldFill n).bind fun p => at_ p.addr.toNat false with
  | some x => some x
  | none => (j.recv.filter fun w => w.modl == s.ctxRmod n).findSome? fun w => at_ w.va.toNat true

/-- The fault for which a channel is parked: its page and kind. -/
def State.chFault (s : State) (c : CoreId) (ch : Reg) (j : Job) : Option (BitVec 36 × Nat) :=
  ((s.core c).chAccess ch).findSome? fun (v, wr, _) => (s.xlFault c (j.pte v) wr).map fun f => (v, f)

/-- The page of a suspended stream's next line. -/
def Stream.nextPage (x : Stream) : BitVec 36 :=
  let n := Nat.max x.ahead x.n
  BitVec.ofNat 36 ((x.line (if x.len ≤ x.n then n - x.len else n)).toNat / 16)

/-- A stream goes on. -/
def State.wakeStream (s : State) (r i : Nat) (x : Stream) : State := s.setStream r i (some { x with susp := false })

/-- FAULT_RESOLVE: the headstock resolves the fault of a parked channel, of a suspended stream or of a waiting remote request, mapping
or migrating to the frame it has chosen, and resumes it; or the job is cancelled with `XLATE` (R381, R383). -/
def execFaultResolve (at_ : FaultPoint) (frame : BitVec 48) (s : State) : Out :=
  match at_ with
  | .dma c ch =>
    withCore s c (
      let k := s.core c
      match s.jobOf c with
      | none => .next s
      | some j =>
        if k.chState ch ≠ chParked ∨ k.fld (F.DMA_CH_STAT_CODE ch.toNat) ≠ 8 then .next s
        else
          match s.chFault c ch j with
          | none => .next (s.resumeCh c ch)
          | some (v, f) => .next (s.resolve j v f frame fun s => s.resumeCh c ch))
  | .stream r i =>
    if 20 ≤ r.toNat then .refused .illFormed
    else match s.stream r.toNat i.toNat with
    | none => .next s
    | some x =>
      match s.job x.job with
      | none => .next s
      | some j =>
        if !x.susp then .next s
        else
          match pteFault (j.pte x.nextPage) false with
          | none => .next (s.wakeStream r.toNat i.toNat x)
          | some f => .next (s.resolve j x.nextPage f frame fun s => s.wakeStream r.toNat i.toNat x)
  | .fabric n =>
    match s.job (s.ctxJob n.toNat) with
    | some j =>
      if s.ctxType n.toNat ≠ ctxPeer then .next s
      else
        match s.fabFault n.toNat j with
        | none => .next s
        | some (vpn, f) => .next (s.resolve j vpn f frame id)
    | none => .next s

/-! ### Shootdown registers (R382, 12 R420) -/

/-- The entries an XINV value of GO, ALL, JOB and VPN leaves. -/
def xinvKeeps (v : BitVec 64) (e : TEnt) : Bool :=
  !(v.msb && e.job == v.extractLsb' 36 12 && (v.getLsbD 62 || e.vpn == v.truncate 36))

/-- Drop stager entries. -/
def State.mtXinv (s : State) (v : BitVec 64) : State :=
  { s with stgX := (s.stgX.map fun p => (p.1, p.2.filter (xinvKeeps v))).filter fun p => !p.2.isEmpty }

/-- Drop entries of the fabric complex. -/
def State.fxXinv (s : State) (v : BitVec 64) : State := { s with fabX := s.fabX.filter (xinvKeeps v) }

/-- MT_XINV: a write of the pair MT_XINV_HI, MT_XINV_LO acts on all 20 stagers (R382, R388). -/
def execMtXinv (p : Path) (v : BitVec 64) (s : State) : Out :=
  s.devWrite p R.MT_XINV_LO (v.truncate 32) fun s => (s.emptyWl p).mtXinv v

/-- FX_XINV: a write of the pair FX_XINV_HI, FX_XINV_LO (12 R420, R424). -/
def execFxXinv (p : Path) (v : BitVec 64) (s : State) : Out :=
  s.devWrite p R.FX_XINV_LO (v.truncate 32) fun s => (s.emptyWl p).fxXinv v

end Sys2Proof.Machine
end

