-- ==== Sys2Proof/Machine/Pass.lean ====
section
/-! DEFINITION. The life of a pass: entry, vote, flush, boundary, deadline, rollback, and the messages by which modules agree on it
(11 R362 to R379; 12 R421, R422; 13 R452; 17 R510 to R516). -/

namespace Sys2Proof.Machine

/-- Act on a job held on the module; a command of another job has no effect. -/
def withJob (s : State) (id : JobId) (f : Job → Out) : Out :=
  match s.job id with
  | some j => f j
  | none => .next s

/-! ### The vote (R362, R363, R376; 13 R444, R452) -/

/-- Whether every core of the bed has come to rest: no channel RUNNING or PARKED, no drain incomplete, no send in progress. -/
def Core.passRest (k : Core) : Bool :=
  ((List.range 8).all fun i => k.chState (BitVec.ofNat 3 i) != chRunning && k.chState (BitVec.ofNat 3 i) != chParked)
    && (k.tqOf 3).isEmpty
    && (List.range 16).all fun i => k.cnState (BitVec.ofNat 4 i) != cnWait && !k.cnSends (BitVec.ofNat 4 i)

/-- Comparisons of a reduction that are outstanding: contributions with a backup of opened segments of which not both copies are
whole (13 R444). -/
def Reduction.uncompared (r : Reduction) : Nat :=
  if bit (r.w 0) 25 then
    (r.seg.map fun (k, g) =>
      let n := bits (r.segs.getD (k / 2) 0).toNat 44 28 + 1
      (r.conts.zipIdx.filter fun (w, i) =>
        let x := SMap.get (fun _ => CRec.zero) g.recs i
        w.extractLsb' 16 16 != 0xFFFF && (x.n0 != n || x.n1 != n)).length).foldl (· + ·) 0
  else 0

/-- The reducer's conditions of the vote (13 R452). -/
def State.reduced (s : State) (j : Job) : Bool :=
  (s.feeds.all fun (k, f) => k / 65536 % 32 != j.bed.toNat || f.isEmpty)
    && ((s.jobReds j.id).all fun (_, r) => r.seg.all fun (_, g) => g.done == r.c)
    && s.ctxs.all fun (n, x) => s.ctxType n != ctxReduce || s.ctxJob n != j.id ||
        x.unack.all fun p => p.pkt.op != 10 || bits p.pkt.aux.toNat 12 10 < 2

/-- Whether the job's bed may vote: its pass barrier is complete and every core of it at rest, reductions among them, and nothing has
failed (R363; 02 R67; 13 R452). -/
def State.mayVote (s : State) (job : JobId) (j : Job) : Bool :=
  let k := s.bedImage job j.supv
  s.spin != spLost && j.st == .run && j.begun && j.cause.isNone && k.fld F.FLAG_PASSCFG_EN == 1 && k.fld F.FLAG_PASSCFG_DONE == 1
    && (j.cores s).all (fun c => (s.bedImage job c).passRest) && s.reduced j

/-- The module votes: comparisons outstanding are counted, COPY_IN data that is complete joins the summary, and the job is DONE (R376;
13 R444). -/
def State.vote (s : State) (job : JobId) : State :=
  let u := ((s.jobReds job).map fun p => p.2.uncompared).foldl (· + ·) 0
  let s := s.setFld F.FX_RED_CNT_UNCMP (Nat.min 0xFFFF (s.fld F.FX_RED_CNT_UNCMP + u))
  s.onJob job fun j =>
    let ps := j.copyIns.flatMap fun x => (List.range ((x.bytes.length + 65535) / 65536 + 1)).filterMap fun i =>
      if x.va / 65536 * 65536 + 65536 * i < x.va + x.bytes.length then some (BitVec.ofNat 36 (x.va / 65536 + i)) else none
    let w := ps.foldl (fun (w : List (BitVec 36)) p => if w.contains p then w else w ++ [p]) j.written
    { j with st := .done, written := w, copyIns := j.copyIns.map fun x => { x with voted := true } }

/-- DONE: the bed has completed its pass barrier and come to rest: the module votes. Its summary holds the pages written, those of
COPY_IN data that the FLUSH applies among them. -/
def execDone (job : JobId) (s : State) : Out :=
  withJob s job fun j =>
    .next (if s.mayVote job j then s.vote job else s)

/-- The summaries of a job's subtree: this module's and those its children sent with DONE. -/
def State.subtreeSums (s : State) (j : Job) : List (BitVec 16 × List (BitVec 36)) :=
  (s.ownModule, j.written) :: j.kids.flatMap fun k => ((j.got k kDone).map fun x => x.msg.sums).getD []

/-- AGREE_DONE (in LOST the module agrees to end no pass, at none of the steps of the agreement: 02 R69): the module is DONE and every child has sent DONE: DONE goes up with the summaries of the subtree (12 R422). -/
def execAgreeDone (job : JobId) (s : State) : Out :=
  withJob s job fun j =>
    if s.spin = spLost ∨ j.st ≠ .done ∨ j.cause.isSome ∨ j.sent.contains kDone ∨ j.fromKids kDone = false then .next s
    else
      let sums := s.subtreeSums j
      let s := s.onJob job fun j => { j.mark kDone with sums := sums }
      .next (s.sendAgrees job j.parent.toList { AgreeMsg.of kDone j.pass 0 with sums := sums })

/-- The summaries FLUSH goes down with: at the root those of its subtree, elsewhere those of the parent's FLUSH. -/
def Job.flushSums (j : Job) : Option (List (BitVec 16 × List (BitVec 36))) := match j.parent with
  | none => some j.sums
  | some _ => (j.fromParent kFlush).map fun x => x.msg.sums

/-- AGREE_FLUSH: the root holds DONE from the whole tree, or the parent's FLUSH has come: FLUSH goes down with every summary. A missing
summary fails the pass (12 R422, R378). -/
def execAgreeFlush (job : JobId) (s : State) : Out :=
  withJob s job fun j =>
    if s.spin = spLost ∨ j.st ≠ .done ∨ j.cause.isSome ∨ j.sent.contains kFlush ∨ !j.sent.contains kDone then .next s
    else
      match j.flushSums with
      | none => .next s
      | some l =>
        if j.mods.all fun m => l.any fun x => x.1 == m then
          let s := s.onJob job fun j => { j.mark kFlush with sums := l }
          .next (s.sendAgrees job j.liveKids { AgreeMsg.of kFlush j.pass 0 with sums := l })
        else .next (s.failJob job 5)

/-- The WRITE packets of one home, in the order of the writes, and WRITE_END. -/
def State.sendWrites (s : State) (id : JobId) (home : BitVec 16) (ws : List RemoteWrite) : State :=
  match s.peerOf id home with
  | none => s
  | some n =>
    let s := ws.foldl (fun (s : State) w =>
      s.originate n 5 (w.mask.toNat + 65536 * b2n w.poison) w.va.toNat (bytesOfWords w.data)) s
    s.originate n 6 0 ws.length []

/-- The writes a module sends at FLUSH, deferred ones first, and the homes they go to. -/
def State.flushWrites (s : State) (job : JobId) (j : Job) : List RemoteWrite :=
  j.deferred ++ (s.remoteDirty job).flatMap fun l => l.deferred
def homesOf (ws : List RemoteWrite) : List (BitVec 16) :=
  ws.foldl (fun (l : List (BitVec 16)) w => if l.contains w.modl then l else l ++ [w.modl]) []

/-- The flush of a job (R362, R369, R379). -/
def State.flushJob (s : State) (job : JobId) (j : Job) : State :=
  let s := s.writeHome job
  let ws := s.flushWrites job j
  let s := (homesOf ws).foldl (fun (s : State) h => s.sendWrites job h (ws.filter fun w => w.modl == h)) s
  let s := s.onJob job fun j => { j with st := .flush, sentEnd := homesOf ws }
  match s.job job with | some j => s.refute j | none => s

/-- FLUSH: the written bursts of remote lines and the deferred writes leave for their homes, and refutation begins (R362, R369, R379;
12 R421). It waits for an LPDDR6 channel that retrains and to which it writes (10 R345). -/
def execFlush (job : JobId) (s : State) : Out :=
  withJob s job fun j =>
    if s.spin = spLost ∨ j.st ≠ .done ∨ j.cause.isSome ∨ !j.sent.contains kFlush ∨ !(s.homeDirty job).all fun l => s.lpReady (lineLocal l.addr) then .next s
    else
      .next (s.flushJob job j)

/-- The writes of a source are applied to the pages this module homes, each preserved first, and acknowledged with the count (R370, R371;
12 R421). -/
def State.applyWrites (s : State) (j : Job) (src : BitVec 16) (n : Nat) (ws : List RemoteWrite) : State :=
  let s := ws.foldl (fun (s : State) w =>
    let e := j.pte (BitVec.ofNat 36 (w.va.toNat / 65536))
    let a := pteFrame e + w.va.toNat % 65536 / 64 * 64
    if e.getLsbD 0 && pteModule e == s.ownModule then
      (if lpBase ≤ a then s.preservePage a else s.preserve a).putBurst a w.mask.toNat w.data w.poison
    else s) s
  let s := s.onJob j.id fun j => { j with applied := j.applied ++ [src] }
  match s.peerOf j.id src with | some c => s.originate c 7 0 n [] | none => s

/-- Writes of a source that fault, or whose LPDDR6 channel retrains: they wait (R380; 10 R345). -/
def Job.writeFaults (j : Job) (ws : List RemoteWrite) : Option (BitVec 36) :=
  ws.findSome? fun w =>
    let v : BitVec 36 := BitVec.ofNat 36 (w.va.toNat / 65536)
    if (pteFault (j.pte v) true).isSome then some v else none
def State.writesWait (s : State) (j : Job) (ws : List RemoteWrite) : Bool :=
  ws.any fun w => !s.lpReady (pteFrame (j.pte (BitVec.ofNat 36 (w.va.toNat / 65536))) + w.va.toNat % 65536)

/-- WRITE_APPLY: a source's writes are applied once its WRITE_END and every lower-numbered source's writes are in; a count that differs
fails the pass; a translation fault makes them wait for its resolution (R370, R380; 12 R421). -/
def execWriteApply (job : JobId) (src : BitVec 16) (s : State) : Out :=
  withJob s job fun j =>
    let before := (s.sources j).filter fun m => m.toNat < src.toNat
    if (j.st ≠ .flush ∧ j.st ≠ .flushed) ∨ j.applied.contains src ∨ before.any (fun m => !j.applied.contains m) = true then .next s
    else match j.ends.find? (fun e => e.1 == src) with
    | none => .next s
    | some (_, n) =>
      let ws := j.recv.filter fun w => w.modl == src
      if ws.length ≠ n then .next (s.failJob job 5)
      else match j.writeFaults ws with
      | some v => .next (s.toHeadstock (.xlate job v true none))
      | none => .next (if s.writesWait j ws then s else s.applyWrites j src n ws)

/-- FLUSHED: every home has acknowledged, and every source's writes have been applied; held COPY_IN data follows them, and the bed's cores are
prepared for the next pass entry (R362, R364; 15 R475). -/
def execFlushed (job : JobId) (s : State) : Out :=
  withJob s job fun j =>
    if s.spin = spLost ∨ j.st ≠ .flush ∨ j.cause.isSome ∨ !(j.sentEnd.all fun m => j.ackEnd.contains m) ∨ !((s.sources j).all fun m => j.applied.contains m)
        ∨ !((j.copyIns.filter fun x => x.voted).all fun x => s.rangeUp j x.va x.bytes.length) then .next s
    else
      let s := (j.copyIns.filter fun x => x.voted).foldl (fun (s : State) x => s.applyCopy job x) s
      .next ((s.onJob job fun j => { j with st := .flushed }).eachCore j State.prepCore)

/-- AGREE_FLUSHED: the module is FLUSHED and every child has sent FLUSHED: FLUSHED goes up (12 R422). -/
def execAgreeFlushed (job : JobId) (s : State) : Out :=
  withJob s job fun j =>
    if s.spin = spLost ∨ j.st ≠ .flushed ∨ j.cause.isSome ∨ j.sent.contains kFlushed ∨ j.fromKids kFlushed = false then .next s
    else .next ((s.onJob job fun j => j.mark kFlushed).sendAgrees job j.parent.toList (AgreeMsg.of kFlushed j.pass 0))

/-- BOUNDARY or RERUN `m` naming revolution `n` goes down to the children not lost, and takes effect here; one that came too late makes
the module lost to the job (R362; 02 R74; 17 R510). `again`: a rerun. -/
def State.nameRev (s : State) (job : JobId) (j : Job) (m : AgreeMsg) (n : BitVec 48) (again late : Bool) : State :=
  let s := s.sendAgrees job j.liveKids m
  if late then s.declareLoss job s.ownModule
  else s.onJob job fun j => { j with st := .named, named := some n, again := again, entered := false }

/-- BOUNDARY: the root names N, its revolution + LEAD; or the parent's BOUNDARY has come and goes on down. A module it reaches too late
is lost (R362; 12 R422; 17 R510). -/
def execBoundary (job : JobId) (s : State) : Out :=
  withJob s job fun j =>
    if s.spin = spLost ∨ j.st ≠ .flushed ∨ j.cause.isSome ∨ !j.sent.contains kFlushed then .next s
    else
      let name (s : State) (n : BitVec 48) (late : Bool) : State := s.nameRev job j (AgreeMsg.of kBoundary j.pass n) n false late
      match j.parent with
      | none => .next (name s (s.rev + BitVec.ofNat 48 j.lead) false)
      | some _ =>
        match j.fromParent kBoundary with
        | some x => .next (name s (x.msg.n.truncate 48) (lateFor x.at_ (x.msg.n.truncate 48)))
        | none => .next s

/-! ### Entry and boundary (R364, R367) -/

/-- In revolution `n` - 1 a bed's threads are started for `n`, its translation caches dropped; the cores of a first pass are prepared then, those
of another have been in FLUSHED or rollback (R361, R364). -/
def State.enterPass (s : State) (job : JobId) (j : Job) (n : BitVec 48) : State :=
  let s := s.advanceTo (revStart (n - 1))
  let s := if j.begun then s else s.eachCore j State.prepCore
  let s := s.eachCore j State.dropXlate
  let s := s.bedCore job j.supv fun s => s.onCore j.supv fun k => k.setFld F.FLAG_PASSCFG_DONE 0
  let s := s.advanceEpochs job
  let s := s.eachCore j (State.startCore (j.newPass.truncate 32) n j.frozen)
  s.onJob job fun j => { j with entered := true }

/-- PASS_ENTRY: in revolution N - 1 every core of the bed has been prepared, and its threads are started for N (R364). -/
def execPassEntry (job : JobId) (s : State) : Out :=
  withJob s job fun j =>
    match j.named with
    | none => .next s
    | some n =>
      if j.entered ∨ (j.again && j.begun && !j.rolled) = true ∨ (j.cause.isSome && !j.again) = true ∨ s.mayStart j = false then .next s
      else
        .next (s.enterPass job j n)

/-- The lowest core in which the audit finds a difference. -/
def State.auditOf (s : State) (j : Job) : Option CoreId :=
  ((j.cores s).filter fun c => (s.bedImage j.id c).auditDiff).foldl (fun (b : Option CoreId) c => match b with
    | none => some c
    | some x => if c.toNat < x.toNat then some c else b) none

/-- A handover that waits for a job's boundary is fixed for it (16 R499). -/
def State.noteHandover (s : State) (id : JobId) (n : BitVec 48) : State :=
  match s.hs.handover with
  | some h => if h.job = id ∧ id ≠ 0 ∧ h.rev.isNone then { s with hs := { s.hs with handover := some { h with rev := some n } } } else s
  | none => s

/-- The pass boundary of a job at angle 0 of `n`: audit and snapshot, TENTATIVE lines CLEAN, shadows released, the deadline armed (R367). -/
def State.boundaryAt (s : State) (job : JobId) (j : Job) (n : BitVec 48) : State :=
  let s := s.advanceTo (revStart n)
  let boundary := j.begun && !j.again
  let diff := if boundary then s.auditOf j else none
  let s := if boundary then s.eachCore j fun c s => s.onCore c fun k => k.noteAudit s.now else s
  let s := match diff with
    | some c => s.event 0x40 (jobEvent job j.pass c.toNat)
    | none => s
  let s := if boundary || !j.begun then s.eachCore j fun c s => s.onCore c Core.snapshot else s
  let s := s.eachCore j fun c s => s.trace c 11 0 0 (j.newPass.truncate 32 : Word).toNat
  let force := j.again && j.cause == some 2 && (j.sat || decide (1 < j.mods.length))
  let s := s.enterReds j boundary force
  let s : State := { s with lines := s.lines.map fun (l : StageLine) => if l.job = job then
    { l with st := if l.st = .tentative then .clean else l.st, forNext := false } else l }
  let s := if boundary then s.keepStreams job else s
  let s := s.freeShadows job
  let s := if boundary then
      (j.copyIns.filter fun x => x.undo.isSome).foldl (fun (s : State) x => s.complete x.ring x.cid stOK []) s
    else s
  let s := s.onJob job fun j =>
    { j with
      pass := j.newPass, st := .run, begun := true, named := none, again := false, entered := false, rolled := false,
      cause := none, posted := false, sat := false, nr := false, hold := false, holdReq := false, delay := 0,
      fails := if boundary then 0 else j.fails
      written := [], sums := [], sent := [], recv := [], ends := [], applied := [], sentEnd := [], ackEnd := [], deferred := []
      inbox := j.inbox.filter fun x => x.msg.kind == kPreempt || x.msg.kind == kResume || decide (j.pass.toNat < x.msg.pass.toNat)
      copyIns := if boundary then j.copyIns.filter fun x => x.undo.isNone else j.copyIns
      dline := some (n + BitVec.ofNat 48 (j.deadline + 1)), heldTo := none }
  (if boundary then s.markPorts.noteHandover job n else s).settle job

/-- PASS_BOUNDARY: at angle 0 of N: audit and snapshot, TENTATIVE lines CLEAN, shadows released, the deadline armed; held COPY_IN
commands complete at a boundary (R367). -/
def execPassBoundary (job : JobId) (s : State) : Out :=
  withJob s job fun j =>
    match j.named with
    | none => .next s
    | some n =>
      if !j.entered ∨ (j.cause.isSome && !j.again) = true then .next s
      else
        .next (s.boundaryAt job j n)

/-! ### Failure (R366, R374, R375; 17 R511 to R516) -/

/-- The pass fails at its deadline, the start of revolution `r`; children that have sent neither DONE nor FAIL are lost, and HOLDOVER is
left for LOST (R366; 02 R67; 17 R510). -/
def State.passLate (s : State) (job : JobId) (j : Job) (r : BitVec 48) : State :=
  let s := s.advanceTo (revStart r)
  let s := s.onJob job fun j => { j.fail 3 with dline := none }
  j.liveKids.foldl (fun (s : State) k =>
    if (j.got k kDone).isSome || (j.got k kFail).isSome then s else s.declareLoss job k)
    (if s.spin = spHoldover then s.enterLost else s)

/-- PASS_DEADLINE: the deadline expires before FLUSHED: the pass fails, and a child that has sent neither DONE nor FAIL is lost (R366;
17 R510). -/
def execPassDeadline (job : JobId) (s : State) : Out :=
  withJob s job fun j =>
    match j.dline with
    | none => .next s
    | some r =>
      if j.st ≠ .run ∧ j.st ≠ .done ∧ j.st ≠ .flush then .next s
      else
        .next (s.passLate job j r)

/-- The rollback of a job's pass, which prepares its cores for the rerun (R364, R375; 08 R300; 09 R324). -/
def State.rollBack (s : State) (job : JobId) (j : Job) : State :=
  let s := s.noteFail job
  let s := s.eachCore j fun c s => let s := s.prepCore c; s.onCore c fun k => k.restore c s.now
  let mine (c : CoreId) : Bool := j.hasCore s c
  let s := { s with net := s.net.filter fun m => match m.body with
    | .claimReq .. | .claimAns .. => !(mine m.src && mine m.dst)
    | _ => true }
  let s := s.copyBack j
  let s := (s.dropAttempt j).freeShadows job
  let s := s.rewindStreams job
  let s := s.onJob job fun j =>
    { j with rolled := true, deferred := [], recv := [], ends := [], applied := [], sentEnd := [], ackEnd := [],
             copyIns := j.copyIns.map fun x => { x with voted := false, undo := none } }
  s.toHeld job

/-- ROLLBACK: a failed pass is rolled back: threads reset, shadows copied back, lines dropped, flags, barriers, rings and connections
restored (R375; 08 R300; 09 R324). While the bed is frozen it waits for the resumption (R386). -/
def execRollback (job : JobId) (s : State) : Out :=
  withJob s job fun j =>
    if j.cause.isNone ∨ j.rolled ∨ j.frozen then .next s
    else if !j.begun then .next (((s.noteFail job).onJob job fun j => { j with rolled := true }).toHeld job)
    else .next (s.rollBack job j)

/-- What the root decides when it holds a FAIL (17 R512): 18 to 20 cancel with that status, 0 hold, none rerun. -/
def Job.verdict (j : Job) : Option Nat :=
  if j.nr then some stNOROLLBACK
  else if j.cause = some 6 then some stSHADOW_FULL
  else if j.rerunMax ≤ j.fails then some stRERUN_LIMIT
  else if j.hold then some 0
  else none

/-- A verdict takes effect on this module. -/
def State.applyVerdict (s : State) (id : JobId) (v : Nat) : State :=
  if v = 0 then (s.onJob id fun j => { j with holdReq := true, named := none, again := false, entered := false }).toHeld id
  else s.cancelJob id v false none

/-- The module takes in a FAIL from a neighbour and sends it on to its other live neighbours. Cause 6 stands before any other: that page cannot be
restored (R372). -/
def State.takeFail (s : State) (id : JobId) (x : AgreeIn) : State :=
  let s := s.onJob id fun j =>
    let j' : Job := if x.msg.cause = 6 then { j with cause := some 6 } else j.fail x.msg.cause
    { j' with inbox := j.inbox.erase x, nr := j.nr || x.msg.nr, hold := j.hold || x.msg.hold, delay := Nat.max j.delay x.msg.delay.toNat }
  match s.job id with
  | some j => s.sendAgrees id (j.live.filter fun m => m != x.src)
      { x.msg with nr := j.nr, hold := x.msg.hold, delay := BitVec.ofNat 16 (Nat.max j.delay x.msg.delay.toNat) }
  | none => s

/-- The FAILs of the pass that a module has received, and the first that is a decision from above. -/
def Job.failsIn (j : Job) : List AgreeIn := j.inbox.filter fun x => x.msg.kind == kFail && x.msg.pass == j.pass
def Job.verdictIn (j : Job) : Option AgreeIn :=
  j.failsIn.find? fun x => j.parent == some x.src && [0, 18, 19, 20].contains x.msg.cause.toNat

/-- A decision from above takes effect and goes on down. -/
def State.takeVerdict (s : State) (job : JobId) (j : Job) (x : AgreeIn) : State :=
  let s := (s.onJob job fun j => { j.fail 4 with inbox := j.inbox.erase x }).noteFail job
  (s.sendAgrees job j.liveKids x.msg).applyVerdict job x.msg.cause.toNat

/-- The failure of the pass is reported up, the FAILs received go on, and the root, or a module that has lost its parent, decides. -/
def State.reportFail (s : State) (job : JobId) (j : Job) : State :=
  let s := if j.cause.isSome ∧ !j.sent.contains kFail then
      (s.onJob job fun j => j.mark kFail).sendAgrees job
        ((if j.hold && j.cause == some 4 then j.live else j.parent.toList.filter fun m => !j.gone.contains m)) (j.failMsg (j.cause.getD 4))
    else s
  let s := j.failsIn.foldl (fun (s : State) x => s.takeFail job x) s
  let s := s.noteFail job
  match s.job job with
  | some j =>
    let orphan := (j.parent.map fun p => j.gone.contains p).getD false
    if j.cause.isNone ∨ j.st = .held ∨ (j.parent.isSome && !orphan) = true then s
    else
      let v := if orphan then some 0 else j.verdict
      (match v with
      | some v => (s.sendAgrees job j.liveKids { AgreeMsg.of kFail j.pass 0 with cause := BitVec.ofNat 8 v }).applyVerdict job v
      | none => s)
  | none => s

/-- FAIL: the failure of the pass is reported up, the FAILs received go on to the other neighbours, and the root, or a module that has
lost its parent, decides; a decision from above takes effect and goes on down (17 R511, R512). -/
def execFail (job : JobId) (s : State) : Out :=
  withJob s job fun j =>
    match j.verdictIn with
    | some x => .next (s.takeVerdict job j x)
    | none => .next (s.reportFail job j)

/-- RERUN: the root, holding a FAIL that calls for no other decision, names N, its revolution + the larger of LEAD and the largest DELAY;
or the parent's RERUN has come and goes on down. It overrides what the pass has not yet come to (12 R422; 17 R512). -/
def execRerun (job : JobId) (s : State) : Out :=
  withJob s job fun j =>
    if j.st = .held ∨ j.holdReq then .next s
    else
      let name (s : State) (n : BitVec 48) (late : Bool) : State :=
        (s.noteFail job).nameRev job j { AgreeMsg.of kRerun j.pass n with cause := j.cause.getD 4 } n true late
      match j.parent with
      | none =>
        if j.cause.isNone ∨ j.again = true then .next s
        else
          let s := s.noteFail job
          (match s.job job with
          | some j' => if j'.verdict.isSome then .next s
              else .next (name s (s.rev + BitVec.ofNat 48 (Nat.max j.lead j.delay)) false)
          | none => .next s)
      | some _ =>
        match j.fromParent kRerun with
        | some x =>
          let n : BitVec 48 := x.msg.n.truncate 48
          .next (name (s.onJob job fun j => { j.fail x.msg.cause with inbox := j.inbox.erase x }) n (lateFor x.at_ n))
        | none => .next s

/-- AGREEMENT_SILENCE: an AGREE packet to a neighbour has been unacknowledged for 64 revolutions: the neighbour is lost (17 R510). -/
def execAgreementSilence (job : JobId) (rank : BitVec 16) (s : State) : Out :=
  withJob s job fun j =>
    let m := j.mods.getD rank.toNat 0xFFFF
    if !j.live.contains m then .next s
    else match s.agreeOf job m with
    | none => .next s
    | some n =>
      match (s.ctx n).unack.find? (fun p => p.pkt.op == 8) with
      | some p => .next ((s.advanceTo (revStart (p.rev + 65))).declareLoss job m)
      | none => .next s

/-- NEIGHBOUR_UNROUTABLE: no route has reached a neighbour for 64 revolutions: it is lost (17 R510). -/
def execNeighbourUnroutable (job : JobId) (rank : BitVec 16) (s : State) : Out :=
  withJob s job fun j =>
    let m := j.mods.getD rank.toNat 0xFFFF
    match j.unrouted.find? (fun p => p.1 == m) with
    | some (_, r) => if j.live.contains m then .next ((s.advanceTo (revStart (r + 65))).declareLoss job m) else .next s
    | none => .next s

/-- HELD_TIMEOUT: the held-job timer expires before a RESUME takes effect: the job is cancelled with `LOST` (17 R515). -/
def execHeldTimeout (job : JobId) (s : State) : Out :=
  withJob s job fun j =>
    match j.heldTo with
    | some r => .next ((s.advanceTo (revStart r)).cancelJob job stLOST true none)
    | none => .next s

end Sys2Proof.Machine
end

