-- ==== Sys2Proof/Machine/Preempt.lean ====
section
/-! DEFINITION. Pre-emption: freeze, save, restore and resumption, and the messages that name them (11 R384 to R387; 12 R422; 17 R513). -/

namespace Sys2Proof.Machine

/-! ### Freeze (R384; 06 R237; 07 R269) -/

/-- The engines of a core at a freeze: matrix rows stand recorded in TILE_SROW; a load or drain in progress will restart from its start;
RUNNING channels park with `PREEMPT`, a burst in progress finishing first. -/
def Core.freezeEngines (k : Core) (r : Rest) (rev : BitVec 48) : Core :=
  let k := k.stopEngines r (fun _ => true) (revStart rev)
  let k := [2, 3].foldl (fun (k : Core) q => k.setTq q ((k.tqOf q).map fun e =>
    { e with start := none, row := 0, got := [], bad := none, vregs := [] })) k
  (List.range 8).foldl (fun (k : Core) i =>
    let ch := BitVec.ofNat 3 i
    let x := k.ch ch
    if k.chState ch ≠ chRunning ∨ x.ends.isSome then k
    else if x.n = 0 then k.parkCh ch 9 r rev
    else k.setCh ch { x with park := 9 }) k

/-- A bed freezes at angle 0 of `n` (R384). -/
def State.freezeBed (s : State) (job : JobId) (j : Job) (n : BitVec 48) : State :=
  let s := s.advanceTo (revStart n)
  let s := s.eachCore j fun c s => s.onCore c fun k =>
    (allThr.foldl (fun (k : Core) t => k.onTh t fun x => x.freeze (s.rest j.bed.toNat) s.rev) k).freezeEngines (s.rest j.bed.toNat) s.rev
  (s.onJob job fun j => { j with frozen := true, freezeAt := none }).settle job

/-- PREEMPT_FREEZE: at angle 0 of N every thread of the bed freezes, and its engines stop (R384). -/
def execPreemptFreeze (job : JobId) (s : State) : Out :=
  withJob s job fun j =>
    match j.freezeAt with
    | none => .next s
    | some n =>
      .next (s.freezeBed job j n)

/-! ### Save and restore (R385 to R387) -/

/-- Write a header unit owed to a ring straight into the receiver, and set the valid bit of its line (R387). -/
def State.settleOwed (s : State) (j : Job) (c : CoreId) (o : Owed) : State :=
  s.bedCore j.id o.dest fun s => s.onCore o.dest fun k =>
    (k.setSpWords (16 * o.line) (headerWords (if o.void then 3 else 2) o.n 0 0 o.seq o.conn c)).setValid o.line true

/-- The sends of a core are settled: each claim it holds is voided in the receiver's ring, and the sender will issue its MSEND again
(R387). -/
def State.settleSends (s : State) (j : Job) (c : CoreId) : State :=
  let s := (List.range 16).foldl (fun (s : State) i =>
    let n := BitVec.ofNat 4 i
    let k := s.core c
    if k.cnState n = cnWait ∨ k.cnSends n = true then
      s.setCore c ((k.dropSend n).onTh (k.cnOwner n) fun x =>
        { x with stalled := false, waits := false, waiting := none, wake := none, waiton := 0, wcount := 0 })
    else s) s
  let s' := (s.core c).owed.foldl (fun (s : State) o => s.settleOwed j c o) s
  s'.onCore c fun k => { k with owed := [] }

/-- Whether a core has a claim request unanswered. -/
def State.claimOpen (s : State) (c : CoreId) : Bool := s.net.any fun m => match m.body with
  | .claimReq .. => m.src == c
  | .claimAns .. => m.dst == c
  | _ => false

/-- Whether a core of a bed is saved. -/
def State.isSaved (s : State) (id : JobId) (c : CoreId) : Bool := s.saved.any fun (x : SavedCore) => x.job == id && x.core == c

/-- CORE_SAVE: the headstock saves a frozen core, once it has no claim request unanswered (R385, R387). -/
def execCoreSave (c : CoreId) (s : State) : Out :=
  withCore s c (
    match s.jobOf c with
    | none => .next s
    | some j =>
      if j.frozen = false ∨ s.claimOpen c = true ∨ s.isSaved j.id c = true then .next s
      else
        let s := s.settleSends j c
        .next { s with saved := s.saved ++ [{ job := j.id, core := c, image := s.core c }] })

/-- Registers that are no part of a save: those of debug and trace. -/
def notSaved (o : Nat) : Bool := 0x200 ≤ o && o < 0x300

/-- What a restore writes over the core: everything saved; debug and trace keep what stands. The translation cache is empty. -/
def Core.restored (live img : Core) : Core :=
  { img with
    win := (img.win.filter fun p => p.1 < 0x200) ++ (live.win.filter fun p => notSaved p.1) ++ (img.win.filter fun p => 0x300 ≤ p.1)
    trace := live.trace, tarm := live.tarm, topen := live.topen, tqCyc := live.tqCyc, tqFill := live.tqFill, xlate := [] }

/-- The save that is restored to a core next: of a job that is to resume before another's, once no other bed holds the core (R386). -/
def State.toRestore (s : State) (c : CoreId) : Option SavedCore :=
  let free (x : SavedCore) : Bool := match s.jobOf c with
    | none => true
    | some j => j.id == x.job || s.isSaved j.id c
  match s.saved.find? (fun (x : SavedCore) => x.core == c && free x && ((s.job x.job).map fun j => j.thawAt.isSome).getD false) with
  | some x => some x
  | none => s.saved.find? (fun (x : SavedCore) => x.core == c && free x)

/-- CORE_RESTORE: the headstock restores a core that was given away, once no other bed holds it (R386). -/
def execCoreRestore (c : CoreId) (s : State) : Out :=
  withCore s c (
    match s.toRestore c with
    | some x => .next { s.setCore c ((s.core c).restored x.image) with saved := s.saved.erase x }
    | none => .next s)

/-! ### Resumption (R386) -/

/-- A frozen thread goes on in the present cycle: in its wait, or with its next instruction. -/
def Core.thaw (k : Core) (c : CoreId) (t : Thr) (now : Count) : Core :=
  let x := k.th t
  if x.state ≠ .frozen then k
  else
    let k := k.onTh t fun x => { x with next := later x.next now }
    if x.waits then k.resumeWait c t now else (k.onTh t fun x => { x with state := .run }).endAbandoned c t now

/-- A bed goes on at angle 0 of `n` (R386). -/
def State.thawBed (s : State) (job : JobId) (j : Job) (n : BitVec 48) : State :=
  let s := s.advanceTo (revStart n)
  let s := s.onJob job fun j => { j with frozen := false, thawAt := none }
  let s := (j.cores s).foldl (fun (s : State) c =>
    let s := s.onCore c fun k => allThr.foldl (fun (k : Core) t => k.thaw c t s.now) (k.tilesFrom (fun _ => true) s.now)
    (List.range 8).foldl (fun (s : State) i =>
      let ch := BitVec.ofNat 3 i
      let k := s.core c
      if k.chState ch = chParked ∧ k.fld (F.DMA_CH_STAT_CODE i) = 9 then s.resumeCh c ch else s) s) s
  s.settle job

/-- PREEMPT_RESUME: at angle 0 of the named revolution every thread leaves FROZEN and channels parked with `PREEMPT` go on; every core
given away has been restored (R386). -/
def execPreemptResume (job : JobId) (s : State) : Out :=
  withJob s job fun j =>
    match j.thawAt with
    | none => .next s
    | some n =>
      if (s.saved.any fun (x : SavedCore) => x.job == job) then .next s
      else
        .next (s.thawBed job j n)

/-! ### The messages (12 R422; 17 R513) -/

/-- A resumption named for N: a frozen bed thaws, and a held pass is rerun from N. -/
def Job.resumeAt (j : Job) (n : BitVec 48) : Job :=
  if j.st = .held then { j with st := .named, named := some n, again := true, entered := false, holdReq := false }
  else { j with thawAt := some n }

/-- A message from the parent that names a pre-emption or a resumption takes effect and goes on down; one that comes too late makes the
module lost to the job. -/
def State.passDown (s : State) (id : JobId) (kind : Byte) (f : Job → BitVec 48 → Job) : State :=
  match s.job id with
  | none => s
  | some j =>
    match j.inbox.find? (fun x => j.parent == some x.src && x.msg.kind == kind) with
    | none => s
    | some x =>
      let n : BitVec 48 := x.msg.n.truncate 48
      let s := (s.onJob id fun j => { j with inbox := j.inbox.erase x }).sendAgrees id j.liveKids x.msg
      if lateFor x.at_ n then s.declareLoss id s.ownModule else s.onJob id fun j => f j n

/-- AGREE_PREEMPT: a PREEMPT from the parent takes effect and goes on down the tree (12 R422). -/
def execAgreePreempt (job : JobId) (s : State) : Out :=
  .next (s.passDown job kPreempt fun j n => { j with freezeAt := some n })

/-- AGREE_RESUME: a RESUME from the parent takes effect and goes on down the tree (12 R422). -/
def execAgreeResume (job : JobId) (s : State) : Out := .next (s.passDown job kResume Job.resumeAt)

end Sys2Proof.Machine
end

