-- ==== Sys2Proof/Machine/HostCmd.lean ====
section
/-! DEFINITION. The host's commands on a module and its jobs, but for LAUNCH (15 R473 to R478). -/

namespace Sys2Proof.Machine

/-! ### CONFIG and ROUTES (R474) -/

/-- CONFIG's effect: the module number, and SPN_CTRL.MASTER. -/
def State.configure (s : State) (m : Nat) (master : Bool) : State :=
  let s := (s.setFld F.FX_CTRL_MODULE m).setDev R.DEV_MODULE (BitVec.ofNat 32 (0x80000000 + m))
  s.putSpnCtrl (F.SPN_CTRL_MASTER.put (s.devW R.SPN_CTRL) (b2n master))

/-- CONFIG: the module number and MASTER, while the module holds no bed. -/
def execConfig (ring : BitVec 4) (cid : BitVec 16) (s : State) : Out :=
  withCmd s ring cid 0x01 fun x =>
    if s.beds ≠ 0 then .next (s.complete ring cid stBUSY [])
    else .next ((s.configure ((x.w 2).toNat % 65536) ((x.w 3).getLsbD 0)).complete ring cid stOK [])

/-- Entries of the route table, in order: DMOD in bytes 0 and 1, an FX_RTDATA image in bytes 4 to 7. -/
def State.putRoutes (s : State) (bs : List Byte) : State :=
  (chunks 8 bs).foldl (fun (s : State) e => s.putRt (BitVec.ofNat 16 (ofLe (e.take 2))) (BitVec.ofNat 32 (ofLe ((e.drop 4).take 4)))) s

/-- ROUTES: route entries are read from the buffer and written. A read the host rejects ends the command (R461). -/
def execRoutes (ring : BitVec 4) (cid : BitVec 16) (buf : List Byte) (s : State) : Out :=
  withCmd s ring cid 0x02 fun x =>
    let n := 8 * (x.w 4).toNat
    let s := s.hostFetch (x.q 2) n
    if buf.length < n then .next (s.complete ring cid stNOTHOME [])
    else .next ((s.putRoutes (buf.take n)).complete ring cid stOK [])

/-! ### CANCEL, PREEMPT and RESUME (R476, R478) -/

/-- CANCEL: the job ends on this module with `CANCELLED`, and the command completes `OK`; the job's other modules hear of it (R478; 17
R516). -/
def execCancel (ring : BitVec 4) (cid : BitVec 16) (s : State) : Out :=
  withCmd s ring cid 0x04 fun x => withCmdJob s ring cid x fun j =>
    .next ((s.cancelJob j.id stCANCELLED true (some (ring, cid))).complete ring cid stOK [])

/-- A named revolution goes down the tree from the root, or is refused; the command then waits for angle 0 of N. -/
def State.nameDown (s : State) (ring : BitVec 4) (x : HostCmd) (j : Job) (kind : Byte) (f : Job → BitVec 48 → Job) : State :=
  let n := x.n 2
  if j.parent.isSome then s.complete ring x.cid stNOTROOT []
  else if !revNotAfter (s.rev + BitVec.ofNat 48 (j.lead + 1)) n then s.complete ring x.cid stLATE []
  else ((s.sendAgrees j.id j.liveKids (AgreeMsg.of kind j.pass n)).onJob j.id fun j => f j n).startCmd ring x.cid

/-- PREEMPT: the root sends PREEMPT down the tree (R476; 12 R422). -/
def execPreempt (ring : BitVec 4) (cid : BitVec 16) (s : State) : Out :=
  withCmd s ring cid 0x05 fun x => withCmdJob s ring cid x fun j =>
    .next (s.nameDown ring x j kPreempt fun j n => { j with freezeAt := some n })

/-- RESUME: the root sends RESUME down the tree; for a held job the held pass is rerun from N (R476; 12 R422; 17 R513). -/
def execResume (ring : BitVec 4) (cid : BitVec 16) (s : State) : Out :=
  withCmd s ring cid 0x06 fun x => withCmdJob s ring cid x fun j => .next (s.nameDown ring x j kResume Job.resumeAt)

/-! ### Patterns (R477; 08 R284 to R287) -/

/-- The header of a job image's pattern of an index and its entries, by core of the bed (R485): LOGP, DRAIN, and the bytes of the
entries. -/
def patternAt (n : Nat) (idx : Nat) : Nat → List Byte → Option (Nat × Nat × List Byte)
  | 0, _ => none
  | k + 1, bs =>
    let logp := ofLe ((bs.drop 1).take 1)
    let size := n * 7 * 2 ^ logp * 4
    if bs.length < 8 then none
    else if ofLe (bs.take 1) = idx then some (logp, ofLe ((bs.drop 2).take 2), (bs.drop 8).take size)
    else patternAt n idx k (bs.drop (8 + size))

/-- The directory of an image: type, count and offset of each section (R483). -/
def imageDir (img : List Byte) : List (Nat × Nat × Nat) :=
  (List.range (ofLe ((img.drop 6).take 2))).map fun i =>
    let e := img.drop (64 + 16 * i)
    (ofLe (e.take 2), ofLe ((e.drop 4).take 4), ofLe ((e.drop 8).take 8))

/-- A section's count and bytes; an absent one has no entries. -/
def imageSect (img : List Byte) (type : Nat) : Nat × List Byte :=
  match (imageDir img).find? (fun d => d.1 == type) with
  | some (_, n, off) => (n, img.drop off)
  | none => (0, [])

/-- A pattern of a job's image. -/
def Job.pattern (j : Job) (idx : Nat) : Option (Nat × Nat × List Byte) :=
  let (n, bs) := imageSect j.image 5
  patternAt (j.w * j.h) idx n bs

/-- Load a pattern into the back banks of a job's bed: one core's entries after another's (R485). -/
def State.loadBed (s : State) (j : Job) (p : Nat × Nat × List Byte) : State :=
  let (logp, drain, bs) := p
  let size := 7 * 2 ^ logp * 4
  ((j.cores s).zipIdx).foldl (fun (s : State) (c, i) =>
    s.bedCore j.id c fun s => s.onCore c fun k => k.loadBack logp (Nat.min 3072 drain) (wordsOfBytes ((bs.drop (size * i)).take size))) s

/-- Whether a switch is armed in a router of the bed. -/
def State.bedArmed (s : State) (j : Job) : Bool := (j.cores s).any fun c => (s.bedImage j.id c).fld F.MESH_SWITCH_ARM == 1

/-- LOADPAT: the pattern goes into the back banks; during an armed switch it waits. An INDEX the image does not hold completes with
`NOPATTERN` (R477; log entry 22). -/
def execLoadpat (ring : BitVec 4) (cid : BitVec 16) (s : State) : Out :=
  withHostCmd s ring cid (· == 0x07) fun x => withCmdJob s ring cid x fun j =>
    match j.pattern (x.w 2).toNat with
    | none => .next (s.complete ring cid stNOPATTERN [])
    | some p =>
      if s.bedArmed j then .next (if x.started then s else s.startCmd ring cid)
      else .next ((s.loadBed j p).complete ring cid stOK [])

/-- Arm every router of a bed for a revolution (08 R285). -/
def State.armBed (s : State) (j : Job) (n : BitVec 48) : State :=
  (j.cores s).foldl (fun (s : State) c => s.bedCore j.id c fun s => s.onCore c fun k =>
    { ((k.setFld F.MESH_SWITCH_ARM 1).setFld F.MESH_SWITCH_REV (n.toNat % 65536)) with swN := n }) s

/-- SWITCH: the headstock arms every router of the bed for N, or refuses (R477; 08 R285, R287). -/
def execSwitch (ring : BitVec 4) (cid : BitVec 16) (s : State) : Out :=
  withCmd s ring cid 0x08 fun x => withCmdJob s ring cid x fun j =>
    let n := x.n 2
    if lateFor s.now n then .next (s.complete ring cid stLATE [])
    else if s.bedArmed j then .next (s.complete ring cid stBUSY [])
    else if (j.cores s).any (fun c => !hdrValid ((s.bedImage j.id c).w R.MESH_BHDR)) then .next (s.complete ring cid stNOPATTERN [])
    else
      let s := s.armBed j n
      .next ((s.onJob j.id fun j => { j with swReq := some (ring, cid, n) }).startCmd ring cid)

/-! ### Copies (R475) -/

/-- The first page of a range that is homed elsewhere or does not translate: status and the first address in it. -/
def State.copyFault (s : State) (j : Job) (va n : Nat) (wr : Bool) : Option (Nat × Nat) :=
  if n = 0 then none
  else (List.range ((va + n - 1) / 65536 + 1 - va / 65536)).findSome? fun i =>
    let p := va / 65536 + i
    let e := j.pte (BitVec.ofNat 36 p)
    let a := Nat.max va (65536 * p)
    if 2 ^ 36 ≤ p ∨ e.getLsbD 0 = false then some (stXLATE, a)
    else if pteModule e ≠ s.ownModule then some (stNOTHOME, a)
    else (pteFault e wr).map fun _ => (stXLATE, a)

/-- Whether a copy's operands keep the alignment rules (R474). -/
def HostCmd.copyOk (x : HostCmd) : Bool := x.q 2 % 64 == 0 && x.q 4 % 64 == 0 && (x.w 6).toNat % 64 == 0

def addrWords (a : Nat) : List Word := [BitVec.ofNat 32 a, BitVec.ofNat 32 (a / 2 ^ 32)]

/-- The data of a COPY_IN is applied at once (R475). -/
def State.copyNow (s : State) (j : Job) (va : Nat) (bs : List Byte) : State :=
  (j.placeBursts va bs).foldl (fun (s : State) (a, b) => s.copyBurst a b) s

/-- COPY_IN: data for a running job is held until the FLUSH of a pass that ends without failure; for a HELD job, or one whose first pass
has not begun, it is applied at once. It waits for an LPDDR6 channel that retrains (10 R345). -/
def execCopyIn (ring : BitVec 4) (cid : BitVec 16) (buf : List Byte) (s : State) : Out :=
  withCmd s ring cid 0x09 fun x => withCmdJob s ring cid x fun j =>
    let va := x.q 4
    let n := (x.w 6).toNat
    if !x.copyOk then .next (s.complete ring cid stBADCMD [])
    else match s.copyFault j va n true with
    | some (st, a) => .next (s.complete ring cid st (addrWords a))
    | none =>
      if (j.st = .held ∨ j.begun = false) ∧ s.rangeUp j va n = false then .next s
      else
      let s := s.hostFetch (x.q 2) n
      if buf.length < n then .next (s.complete ring cid stNOTHOME [])
      else if j.st = .held ∨ j.begun = false then
        .next ((s.copyNow j va (buf.take n)).complete ring cid stOK [])
      else
        let c : CopyIn := { ring := ring, cid := cid, va := va, bytes := buf.take n, voted := false, undo := none }
        .next ((s.onJob j.id fun j => { j with copyIns := j.copyIns ++ [c] }).startCmd ring cid)

/-- The bytes of `n` bytes of a job's address space as a remote read gives them (R475; 11 R373). -/
def State.oldBytes (s : State) (j : Job) (va n : Nat) : List Byte :=
  (List.range (n / 64)).flatMap fun i =>
    let a := va + 64 * i
    (s.oldBurst (pteFrame (j.pte (BitVec.ofNat 36 (a / 65536))) + a % 65536)).1

/-- COPY_OUT: each burst is read as a remote read would, and written to host memory; it waits for an LPDDR6 channel that retrains (10 R345). -/
def execCopyOut (ring : BitVec 4) (cid : BitVec 16) (s : State) : Out :=
  withCmd s ring cid 0x0A fun x => withCmdJob s ring cid x fun j =>
    let va := x.q 4
    let n := (x.w 6).toNat
    if !x.copyOk then .next (s.complete ring cid stBADCMD [])
    else match s.copyFault j va n false with
    | some (st, a) => .next (s.complete ring cid st (addrWords a))
    | none =>
      .next (if s.rangeUp j va n then (s.hostWrite (x.q 2) (s.oldBytes j va n)).complete ring cid stOK [] else s)

/-! ### READ_DTAB and JOB_STATUS (R473, R474) -/

/-- READ_DTAB: the distance table as it stands; a buffer shorter than LENGTH completes with `BADCMD` (log entry 22). -/
def execReadDtab (ring : BitVec 4) (cid : BitVec 16) (s : State) : Out :=
  withCmd s ring cid 0x0B fun x =>
    if (x.w 4).toNat < s.dtabLen then .next (s.complete ring cid stBADCMD [])
    else .next ((s.hostWrite (x.q 2) s.dtab).complete ring cid stOK [BitVec.ofNat 32 s.dtabLen])

/-- Codes of the pass states (17 R513). -/
def PassState.code : PassState → Nat
  | .run => 0
  | .done => 1
  | .flush => 2
  | .flushed => 3
  | .named => 4
  | .held => 5

/-- JOB_STATUS: the pass state, FROZEN and the pass number. -/
def execJobStatus (ring : BitVec 4) (cid : BitVec 16) (s : State) : Out :=
  withCmd s ring cid 0x0C fun x => withCmdJob s ring cid x fun j =>
    .next (s.complete ring cid stOK
      [BitVec.ofNat 32 (j.st.code + 8 * b2n j.frozen), j.pass.truncate 32, (j.pass >>> 32).truncate 32])

end Sys2Proof.Machine
end

