-- ==== Sys2Proof/Machine/Launch.lean ====
section
/-! DEFINITION. LAUNCH: the job image, its checks and its installation (15 R482 to R485; 12 R402, R403; 13 R426, R429, R430, R439;
17 R509). -/

namespace Sys2Proof.Machine

/-! ### Reading an image (R483, R485) -/

/-- `n` bytes at an offset as a number. -/
def leAt (bs : List Byte) (a n : Nat) : Nat := ofLe ((bs.drop a).take n)

/-- Whether bytes are all 0. -/
def zeros (bs : List Byte) : Bool := bs.all (· == 0)

/-- A PROGRAM entry: first core, cores, words. -/
structure ImgProg where
  first : Nat
  count : Nat
  words : List PWord
  deriving DecidableEq, Repr

/-- A PAGES entry. -/
structure ImgPage where
  vpn   : Nat
  n     : Nat
  home  : Nat
  flags : Nat
  frame : Nat
  deriving DecidableEq, Repr

/-- A CONTEXTS entry: ID, and its three words. -/
structure ImgCtx where
  id : Nat
  w0 : Nat
  w1 : Nat
  w2 : Nat
  deriving DecidableEq, Repr

/-- A REDUCE entry: RID, words 0 to 5, and its tables. -/
structure ImgRed where
  rid   : Nat
  words : List Word
  segs  : List (BitVec 64)
  conts : List Word
  dests : List (List Word)
  deriving DecidableEq, Repr

/-- What an image of a right format holds. -/
structure Img where
  job      : Nat
  rank     : Nat
  nmod     : Nat
  lead     : Nat
  rerunMax : Nat
  deadline : Nat
  start    : BitVec 48
  bshadow  : Nat
  lshadow  : Nat
  mapcrc   : Word
  mods     : List (BitVec 16)
  ox       : Nat
  oy       : Nat
  w        : Nat
  h        : Nat
  supv     : Nat
  bar      : Nat
  counts   : List Nat
  /-- core, window offset, value -/
  regs     : List (Nat × Nat × Word)
  progs    : List ImgProg
  pages    : List ImgPage
  ctxs     : List ImgCtx
  reds     : List ImgRed
  /-- parent and children by rank -/
  parent   : Option Nat
  kids     : List Nat
  deriving DecidableEq, Repr

/-- Reserved bits of the registers that a REGS section may set, by window offset; none for any other (R485). -/
def regReserved (o : Nat) : Option Nat :=
  let th := o - 0x100
  if 0x100 ≤ o ∧ o < 0x200 then
    (match th % 64 with
    | 0x04 => some 0xFFFF8000
    | 0x0C => some 0xFFFF8000
    | 0x1C => some 0
    | 0x2C => some 0xFFFE0000
    | 0x30 => some 0xFFFE0000
    | _ => none)
  else if o = 0x40C then some 0xFFFF0000
  else if 0x420 ≤ o ∧ o < 0x440 ∧ o % 4 = 0 then some 0x7C000000
  else if 0x880 ≤ o ∧ o < 0x8A0 ∧ o % 4 = 0 then some 0x30000000
  else if 0x980 ≤ o ∧ o < 0x9C0 ∧ o % 8 = 0 then some 0x3FFFFE00
  else if 0x980 ≤ o ∧ o < 0x9C0 ∧ o % 8 = 4 then some 0
  else if 0x9D0 ≤ o ∧ o < 0x9E0 ∧ o % 4 = 0 then some 0x40000000
  else none

/-- Entries of a fixed size, each read by `f`; none where one is missing or not of the format. -/
def entries {α : Type} (size : Nat) (f : List Byte → Option α) : Nat → List Byte → Option (List α)
  | 0, _ => some []
  | n + 1, bs =>
    if bs.length < size then none
    else match f (bs.take size), entries size f n (bs.drop size) with
      | some x, some l => some (x :: l)
      | _, _ => none

/-- Entries of varying size, each read by `f` with the bytes that follow it. -/
def entriesVar {α : Type} (f : List Byte → Option (α × List Byte)) : Nat → List Byte → Option (List α)
  | 0, _ => some []
  | n + 1, bs =>
    match f bs with
    | some (x, rest) => (entriesVar f n rest).map fun l => x :: l
    | none => none

/-- A REGS entry. -/
def imgReg (nc : Nat) (e : List Byte) : Option (Nat × Nat × Word) :=
  let c := leAt e 0 2
  let o := leAt e 2 2
  let v := leAt e 4 4
  match regReserved o with
  | some m => if c < nc ∧ v &&& m = 0 ∧ (0x880 ≤ o ∧ o < 0x8A0 → bits v 27 16 < nc) then some (c, o, BitVec.ofNat 32 v) else none
  | none => none

/-- A PROGRAM entry, padded to 8 bytes. -/
def imgProg (nc : Nat) (bs : List Byte) : Option (ImgProg × List Byte) :=
  let first := leAt bs 0 2
  let count := leAt bs 2 2
  let n := leAt bs 4 4
  let size := (8 + 2 * n + 7) / 8 * 8
  let ws := (List.range n).map fun i => leAt bs (8 + 2 * i) 2
  if bs.length < size ∨ 32768 < n ∨ nc < first + count ∨ ws.any (fun w => decide (16384 ≤ w)) = true then none
  else some ({ first := first, count := count, words := ws.map fun w => BitVec.ofNat 14 w }, bs.drop size)

/-- The head and entries of a pattern: its INDEX (R485). -/
def imgPattern (nc : Nat) (bs : List Byte) : Option (Nat × List Byte) :=
  let logp := leAt bs 1 1
  let size := nc * 7 * 2 ^ logp * 4
  if logp < 6 ∨ 10 < logp ∨ zeros ((bs.drop 4).take 4) = false ∨ bs.length < 8 + size then none
  else if (wordsOfBytes ((bs.drop 8).take size)).any (fun w => w &&& 0x0FFF0000#32 != 0) then none
  else some (leAt bs 0 1, bs.drop (8 + size))

/-- A PAGES entry; nothing is mapped in the reserved range (11 R358). -/
def imgPage (nmod : Nat) (e : List Byte) : Option ImgPage :=
  let vpn := leAt e 0 8
  let n := leAt e 8 4 + 1
  let home := leAt e 12 2
  let flags := leAt e 14 2
  if 0xFFFF00000 < vpn + n ∨ nmod ≤ home ∨ 16 ≤ flags ∨ zeros (e.drop 24) = false then none
  else some { vpn := vpn, n := n, home := home, flags := flags, frame := leAt e 16 8 }

/-- A CONTEXTS entry: TYPE 0, 6 and 7 are reserved (12 R402, 13 R453). -/
def imgCtx (nc : Nat) (e : List Byte) : Option ImgCtx :=
  let w0 := leAt e 4 4
  let w1 := leAt e 8 4
  let w2 := leAt e 12 4
  let t := bits w0 30 28
  if leAt e 2 2 ≠ 0 ∨ t = 0 ∨ 5 < t ∨ w1 % 64 ≠ 0 ∨ (if t = ctxReduce then decide (65536 ≤ w2) else bit w2 15) = true
      ∨ (t = ctxFlowRx ∧ nc ≤ w2 % 4096) then none
  else some { id := leAt e 0 2, w0 := w0, w1 := w1, w2 := w2 }

/-- A destination entry keeps its format (13 R430). -/
def destOk (nc : Nat) (ws : List Word) : Bool :=
  let w (i : Nat) : Nat := (nthWord ws i).toNat
  bits (w 0) 31 28 == 0 && !bit (w 1) 6 && bits (w 1) 31 8 == 0 && w 2 % 8 == 0 && w 5 != 0 && w 6 % 8 == 0
    && (!bit (w 1) 7 || decide (bits (w 0) 27 16 < nc))

/-- A REDUCE entry with its three tables (13 R429, R430). -/
def imgRed (nc : Nat) (bs : List Byte) : Option (ImgRed × List Byte) :=
  let w (i : Nat) : Nat := leAt bs (8 + 4 * i) 4
  let s := w 3 % 65536 + 1
  let c := w 1 % 2 ^ 24 + 1
  let d := w 5 % 256
  let size := 32 + 8 * s + 4 * c + 32 * d
  if bs.length < size ∨ 1024 ≤ leAt bs 0 2 ∨ zeros ((bs.drop 2).take 6) = false ∨ w 0 % 4096 ≠ 0 ∨ w 2 / 2 ^ 28 ≠ 0 ∨ w 5 / 256 ≠ 0
      ∨ bits (w 0) 29 28 = 3 ∨ bits (w 0) 27 26 = 3 then none
  else
    let segs := (List.range s).map fun i => (BitVec.ofNat 64 (leAt bs (32 + 8 * i) 8))
    let conts := (List.range c).map fun i => (BitVec.ofNat 32 (leAt bs (32 + 8 * s + 4 * i) 4))
    let dests := (List.range d).map fun i => wordsOfBytes ((bs.drop (32 + 8 * s + 4 * c + 32 * i)).take 32)
    if segs.any (fun e => bits e.toNat 47 45 != 0) || dests.any (fun ws => !destOk nc ws) then none
    else some ({ rid := leAt bs 0 2, words := (List.range 6).map fun i => BitVec.ofNat 32 (w i), segs := segs, conts := conts, dests := dests },
      bs.drop size)

/-- Whether the values of a list are all different. -/
def distinct : List Nat → Bool
  | [] => true
  | x :: xs => !xs.contains x && distinct xs

/-- The CRC-32 over an image with its CRC field as 0 (R483). -/
def imageCrc (img : List Byte) : Word := crc32 (img.take 60 ++ leBytes 4 0 ++ img.drop 64)

/-- Read an image but for its CRC: none for any format error (R482, R483, R485). -/
def readFields (img : List Byte) : Option Img :=
  let f (a n : Nat) : Nat := leAt img a n
  let dir := imageDir img
  let has (t : Nat) : Bool := dir.any fun d => d.1 == t
  let (nmods, mb) := imageSect img 1
  let (nbeds, bb) := imageSect img 2
  let bed (a n : Nat) : Nat := leAt bb a n
  let nc := bed 4 2 * bed 6 2
  let counts := (List.range 16).map fun i => bed (16 + 2 * i) 2
  let nmod := f 16 2
  let (nagree, ab) := imageSect img 9
  let agree (a n : Nat) : Nat := leAt ab a n
  let kids := (List.range (agree 2 2)).map fun i => agree (4 + 2 * i) 2
  if img.length < 64 ∨ f 0 4 ≠ 0x474D494A ∨ f 4 2 ≠ 1 ∨ f 8 4 ≠ img.length ∨ img.length < 64 + 16 * f 6 2 then none
  else if f 30 2 ≠ 0 ∨ zeros ((img.drop 44).take 16) = false then none
  else if f 12 2 = 0 ∨ 4094 < f 12 2 ∨ f 18 1 = 1 ∨ f 18 1 = 2 ∨ nmod ≤ f 14 2 then none
  else if dir.any (fun d => d.1 == 0 || decide (9 < d.1)) || !distinct (dir.map Prod.fst)
      || (List.range (f 6 2)).any (fun i => f (64 + 16 * i + 2) 2 != 0) then none
  else if !has 1 || !has 2 || !has 5 || (decide (1 < nmod) && !has 9) then none
  else if nmods ≠ nmod ∨ mb.length < 2 * nmod ∨ nbeds ≠ 1 ∨ bb.length < 64 then none
  else if nc = 0 ∨ nc ≤ bed 8 2 ∨ 15 < bed 10 1 ∨ zeros ((bb.drop 11).take 5) = false ∨ zeros ((bb.drop 48).take 16) = false
      ∨ counts.any (fun c => decide (16383 < c)) = true then none
  else if has 9 && (nagree != 1 || decide (ab.length < 36) || decide (16 < agree 2 2) || (agree 0 2 != 0xFFFF && decide (nmod ≤ agree 0 2))
      || kids.any fun k => decide (nmod ≤ k)) then none
  else
    match entries 8 (imgReg nc) (imageSect img 3).1 (imageSect img 3).2, entriesVar (imgProg nc) (imageSect img 4).1 (imageSect img 4).2,
        entriesVar (imgPattern nc) (imageSect img 5).1 (imageSect img 5).2, entries 32 (imgPage nmod) (imageSect img 6).1 (imageSect img 6).2,
        entries 16 (imgCtx nc) (imageSect img 7).1 (imageSect img 7).2, entriesVar (imgRed nc) (imageSect img 8).1 (imageSect img 8).2 with
    | some regs, some progs, some pats, some pages, some ctxs, some reds =>
      if !pats.contains 0 || !distinct pats then none
      else some {
        job := f 12 2, rank := f 14 2, nmod := nmod, lead := if f 18 1 = 0 then 4 else f 18 1, rerunMax := if f 19 1 = 0 then 8 else f 19 1
        deadline := if f 20 4 = 0 then 65536 else f 20 4, start := BitVec.ofNat 48 (f 24 6), bshadow := f 32 4, lshadow := f 36 4
        mapcrc := BitVec.ofNat 32 (f 40 4), mods := (List.range nmod).map fun i => BitVec.ofNat 16 (leAt mb (2 * i) 2)
        ox := bed 0 2, oy := bed 2 2, w := bed 4 2, h := bed 6 2, supv := bed 8 2, bar := bed 10 1, counts := counts
        regs := regs, progs := progs, pages := pages, ctxs := ctxs, reds := reds
        parent := if has 9 && agree 0 2 != 0xFFFF then some (agree 0 2) else none
        kids := if has 9 then kids else [] }
    | _, _, _, _, _, _ => none

/-- Read an image: none for any format error, a wrong CRC included (R482, R483). -/
def readImage (img : List Byte) : Option Img :=
  if imageCrc img ≠ BitVec.ofNat 32 (leAt img 60 4) then none else readFields img

/-! ### The checks against the module (R482) -/

/-- A bed-relative core as a logical core (R485). -/
def State.bedCoreNo (s : State) (i : Img) (n : Nat) : CoreId := BitVec.ofNat 12 ((i.oy + n / i.w) * s.L + i.ox + n % i.w)

/-- Whether the image's bed lies in the logical grid. -/
def State.bedInside (s : State) (i : Img) : Bool := decide (i.ox + i.w ≤ s.L) && decide (i.oy + i.h ≤ 40)

/-- Whether a page's frames are whole populated pages that the headstock has not reserved (10 R328; 11 R357). -/
def State.framesOk (s : State) (rank : Nat) (p : ImgPage) : Bool :=
  p.home ≠ rank || bit p.flags 3 ||
    (p.frame % 65536 == 0 && (List.range p.n).all fun k => s.pageOk (p.frame + 65536 * k))

/-- Whether the segments of a reduction are in ascending order, do not overlap and cover blocks 0 to B - 1 (13 R426). -/
def covers : Nat → List (BitVec 64) → Option Nat
  | b, [] => some b
  | b, e :: es => if bits e.toNat 27 0 = b then covers (b + bits e.toNat 44 28 + 1) es else none

/-- The limits of R426 and R439: `NOREDUCE`, or `DEADLINE` for a deadline below 51 revolutions; a RID in use is `NOREDUCE`. -/
def State.redRefusal (s : State) (i : Img) : Option Nat :=
  let home (r : ImgRed) : Nat := (r.segs.map fun e => if e.extractLsb' 48 16 = s.ownModule then bits e.toNat 44 28 + 1 else 0).foldl (· + ·) 0
  let dl (r : ImgRed) : Nat := bits (nthWord r.words 3).toNat 31 16
  let bad (r : ImgRed) : Bool :=
    let b := (nthWord r.words 2).toNat
    b == 0 || covers 0 r.segs != some b || r.dests.isEmpty || (s.red r.rid).valid
  if i.reds.any bad || !distinct (i.reds.map fun r => r.rid) || decide (s.accFree < (i.reds.map home).foldl (· + ·) 0) then some stNOREDUCE
  else if i.reds.any fun r => decide (dl r < 51) then some stDEADLINE
  else
    -- 17 R509
    let lims := i.regs.filterMap fun (_, o, v) =>
      if 0x100 ≤ o ∧ o < 0x200 ∧ o % 64 = 0x1C then some (if bits v.toNat 15 0 = 0 then 1024 else bits v.toNat 15 0)
      else if o = 0x40C then some (if bits v.toNat 15 0 = 0 then 2048 else bits v.toNat 15 0) else none
    let top := (lims ++ i.reds.map dl).foldl Nat.max 0
    if i.deadline ≤ 2 * top then some stDEADLINE else none

/-- The first refusal that applies (R482). -/
def State.launchRefusal (s : State) (i : Img) : Option Nat :=
  let cores := (List.range (i.w * i.h)).map fun n => s.bedCoreNo i n
  let taken (c : CoreId) : Bool := s.jobs.any fun j => j.hasCore s c && !s.saved.any fun (x : SavedCore) => x.job == j.id && x.core == c
  let id : JobId := BitVec.ofNat 12 i.job
  if i.mods.getD i.rank 0 ≠ s.ownModule ∨ (s.bedInside i && s.bedDigest i.ox i.oy i.w i.h != i.mapcrc) = true
      ∨ i.pages.any (fun p => !s.framesOk i.rank p) = true then some stBADIMAGE
  else if (s.job id).isSome then some stBUSY
  else if !s.bedInside i || cores.any taken || decide (32 ≤ s.jobs.length) then some stNOBED
  else if i.ctxs.any (fun c => decide (10000 ≤ c.id) || s.ctxType c.id != 0) || !distinct (i.ctxs.map fun c => c.id) then some stNOCONTEXT
  else match s.redRefusal i with
  | some st => some st
  | none =>
    if s.shPages < i.bshadow + (s.jobs.map Job.bshadow).foldl (· + ·) 0 then some stNOSHADOW
    else if lateFor s.now i.start then some stLATE
    else none

/-! ### Installation (R482, R485) -/

/-- A core as the headstock leaves it for a new bed: a core given away is reset first; the scratchpad is zero (07 R246). -/
def Core.forBed (k : Core) (given : Bool) : Core :=
  let k := if given then k.restored { Core.reset with
      pm := k.pm, pmPar := k.pmPar
      chan := (k.chan.map fun (i, x) => (i, { Chan.none with gen := x.gen })).filter fun (_, x) => decide (x ≠ Chan.none)
      conn := (k.conn.map fun (i, x) => (i, { ConnX.none with gen := x.gen })).filter fun (_, x) => decide (x ≠ ConnX.none) } else k
  { k with sp := [], spPar := [], psn := [] }

/-- MESH_BED of a core of a bed (08 R303). -/
def bedWord (j : Job) (x y : Nat) : Word :=
  BitVec.ofNat 32 (0x80000000 + j.bed.toNat * 2 ^ 16 + b2n (decide (j.oy < y)) + 2 * b2n (decide (x + 1 < j.ox + j.w))
    + 4 * b2n (decide (y + 1 < j.oy + j.h)) + 8 * b2n (decide (j.ox < x)))

/-- The cores of a new bed. -/
def State.setBed (s : State) (j : Job) : State :=
  (j.cores s).foldl (fun (s : State) c =>
    let given := s.saved.any fun (x : SavedCore) => x.core == c
    s.onCore c fun k => ((k.forBed given).setW R.MESH_BED (bedWord j (s.lcol c) (s.lrow c))).setW R.CORE_SUPV (BitVec.ofNat 32 (0x10000 + j.supv.toNat))) s

/-- The barriers of a bed, in its supervisor (08 R294). -/
def Core.setBars (k : Core) (counts : List Nat) (bar : Nat) : Core :=
  let k := (counts.zipIdx).foldl (fun (k : Core) (n, b) => k.setW (R.FLAG_BARCFG b) (if n = 0 then 0 else BitVec.ofNat 32 (2 ^ 31 + n * 2 ^ 14))) k
  (k.setFld F.FLAG_PASSCFG_EN 1).setFld F.FLAG_PASSCFG_BAR bar

/-- A REGS entry: a value that a rule of its register rejects is not written. -/
def State.setReg (s : State) (i : Img) (c : CoreId) (o : Nat) (v : Word) : State :=
  if 0x420 ≤ o ∧ o < 0x440 then
    let n := (o - 0x420) / 4
    if (s.core c).guardFits n v then s.putGuard c n v else s
  else
    let v := if 0x880 ≤ o ∧ o < 0x8A0 then (v &&& 0xF000FFFF#32) ||| BitVec.ofNat 32 ((s.bedCoreNo i (bits v.toNat 27 16)).toNat * 2 ^ 16) else v
    s.onCore c fun k => k.setW o (putRw winRows o (k.w o) v)

/-- Load a program from address 0 of consecutive cores; a core with a thread that is not at rest rejects the words (03 R104). -/
def State.setProg (s : State) (i : Img) (p : ImgProg) : State :=
  (List.range p.count).foldl (fun (s : State) n => s.onCore (s.bedCoreNo i (p.first + n)) fun k =>
    if !k.atRest then (if p.words.isEmpty then k else k.setFld F.CORE_STATUS_PM_REJECT 1)
    else (p.words.zipIdx).foldl (fun (k : Core) (w, a) => k.putPm a w) k) s

/-- The translation entries of a run of pages: those of this module at their frames, others with their module's number; a demand-zero run
of this module is mapped at its first fault. -/
def State.setPages (s : State) (i : Img) (j : Job) (p : ImgPage) : Job :=
  if p.home = i.rank ∧ bit p.flags 3 = true then { j with dzero := j.dzero ++ [(p.vpn, p.n, p.flags)] }
  else (List.range p.n).foldl (fun (j : Job) k =>
    let vpn : BitVec 36 := BitVec.ofNat 36 (p.vpn + k)
    if p.home = i.rank then j.setPte vpn (s.homeEntry (p.frame + 65536 * k) p.flags)
    else j.setPte vpn (BitVec.ofNat 64 ((i.mods.getD p.home 0).toNat * 2 ^ 48 + b2n (bit p.flags 2) * 64 + b2n (bit p.flags 1) * 8
      + b2n (bit p.flags 0) * 4 + 3))) j

/-- The distance table in the job's address space, read only (01 R32). -/
def State.setDtabPages (s : State) (j : Job) : Job :=
  (j.setPte (BitVec.ofNat 36 (dtabVpn 0)) (s.homeEntry (dtabPage 0) 1)).setPte (BitVec.ofNat 36 (dtabVpn 1)) (s.homeEntry (dtabPage 1) 1)

/-- A context record: VALID set, the bed's number and the target core filled in; word 7 of a REDUCE context is the peer's rank (12 R402,
R403; 13 R453). -/
def State.setContext (s : State) (i : Img) (bed : BitVec 5) (c : ImgCtx) : State :=
  let t := bits c.w0 30 28
  let flow := t == ctxFlowTx || t == ctxFlowRx
  let w1 := if flow then c.w1 - bits c.w1 17 13 * 8192 + bed.toNat * 8192 else c.w1
  let w2 := if t = ctxFlowRx then c.w2 - c.w2 % 4096 + (s.bedCoreNo i (c.w2 % 4096)).toNat else c.w2
  let s := (s.freeCtx c.id).setCw c.id 0 (2 ^ 31 + c.w0 % 2 ^ 31)
  let s := s.setCw c.id 1 w1
  if t = ctxReduce then s.setCw c.id 7 c.w2 else s.setCw c.id 2 w2

/-- A reduction: the places of its tables are not given, and are free values in words 6 to 13 (13 R429; log entry 4). -/
def State.setReduction (s : State) (i : Img) (r : ImgRed) : State :=
  let f (k : Nat) : Word := Config.freeWord (s.free + k) &&& (if k % 2 = 1 then 0xFFFF#32 else 0xFFFFFFFF#32)
  let ws := (r.words.zipIdx).map (fun (w, k) => (k, if k = 0 then w ||| 0x80000000#32 else w)) ++ (List.range 8).map (fun k => (6 + k, f k))
    ++ [(15, BitVec.ofNat 32 i.rank)]
  let dest (d : List Word) : List Word :=
    d.set 0 ((nthWord d 0 &&& 0xF000FFFF#32) ||| BitVec.ofNat 32 ((s.bedCoreNo i (bits (nthWord d 0).toNat 27 16)).toNat * 2 ^ 16))
  let x : Reduction := { Reduction.none with
    words := ws.foldl (fun m (k, w) => SMap.set (fun _ => (0 : Word)) m k w) []
    segs := r.segs, conts := r.conts, dests := r.dests.map dest }
  let s := s.setRed r.rid x
  let n := s.accFree - x.homed s.ownModule
  ({ s with free := s.free + 8, accFree := n } : State).setFld F.FX_RED_STAT_FREE n

/-- The lowest bed number that is free. -/
def State.freeBed (s : State) : BitVec 5 := BitVec.ofNat 5 (((List.range 32).find? fun b => (s.jobOfBed b).isNone).getD 0)

/-- The job record of an image. -/
def State.newJob (s : State) (i : Img) (bytes : List Byte) : Job :=
  let m (r : Nat) : BitVec 16 := i.mods.getD r 0
  let j : Job :=
    { id := BitVec.ofNat 12 i.job, image := bytes, rank := BitVec.ofNat 16 i.rank, mods := i.mods, lead := i.lead, rerunMax := i.rerunMax
      deadline := i.deadline, start := i.start, bshadow := i.bshadow, lshadow := i.lshadow, bed := s.freeBed, ox := i.ox, oy := i.oy, w := i.w
      h := i.h, supv := s.bedCoreNo i i.supv, parent := i.parent.map m, kids := i.kids.map m
      ctxs := i.ctxs.map fun c => c.id, tab := [], dzero := [], pass := 0, st := .named, begun := false
      frozen := false, dline := none, fails := 0, named := some i.start, again := false, entered := false, cause := none, sat := false
      written := [], nr := false, inbox := [], sent := [], sums := [], shadow := [], migs := [], shPages := [], lshadows := [], deferred := [], recv := []
      ends := [], applied := [], sentEnd := [], ackEnd := [], copyIns := [], freezeAt := none, thawAt := none, heldTo := none, holdReq := false
      hold := false, delay := 0, rolled := false, posted := false, gone := [], unrouted := [], swReq := none }
  s.setDtabPages (i.pages.foldl (fun (j : Job) p => s.setPages i j p) j)

/-- Install a job: its cores, registers, programs, contexts and reductions; pattern 0 goes into the back banks and is armed for START_REV,
the revolution of the first pass entry (R482, R485). -/
def State.install (s : State) (i : Img) (bytes : List Byte) : State :=
  let j := s.newJob i bytes
  let s := s.setBed j
  let s := s.onCore j.supv fun k => k.setBars i.counts i.bar
  let s := i.regs.foldl (fun (s : State) (c, o, v) => s.setReg i (s.bedCoreNo i c) o v) s
  let s := i.progs.foldl (fun (s : State) p => s.setProg i p) s
  let s := i.ctxs.foldl (fun (s : State) c => s.setContext i j.bed c) s
  let s := i.reds.foldl (fun (s : State) r => s.setReduction i r) s
  let s := ({ s with jobs := s.jobs ++ [j] } : State).syncBeds
  let s := match j.pattern 0 with | some p => s.loadBed j p | none => s
  (s.armBed j i.start).noteRoutes

/-- Mark the entry of a LAUNCH with its job: a timeout while it waits for room cancels the job (R469, R479). -/
def State.markLaunch (s : State) (ring : BitVec 4) (cid : BitVec 16) (id : JobId) : State :=
  let n := 16 + (s.ring ring.toNat).cq
  let r := s.ring n
  s.setRing n { r with cpls := r.cpls.map fun e => if e.sq = ring ∧ e.cid = cid ∧ e.expire.isSome = true then { e with launch := some id } else e }

/-- LAUNCH: the image is read, checked and installed, or refused whole (R482). -/
def execLaunch (ring : BitVec 4) (cid : BitVec 16) (image : List Byte) (s : State) : Out :=
  withCmd s ring cid 0x03 fun x =>
    let n := (x.w 4).toNat
    let s := s.hostFetch (x.q 2) n
    if image.length < n then .next (s.complete ring cid stNOTHOME [])
    else match readImage (image.take n) with
    | none => .next (s.complete ring cid stBADIMAGE [])
    | some i =>
      match s.launchRefusal i with
      | some st => .next (s.complete ring cid st [])
      | none => .next ((((s.install i (image.take n)).retireCmd ring cid stOK []).markLaunch ring cid (BitVec.ofNat 12 i.job)).nops ring)

end Sys2Proof.Machine
end

