-- ==== Sys2Proof/Machine/Recovery.lean ====
section
/-! DEFINITION. Replacing a module, retiring a core, and the headstock's error log (17 R514, R517 to R526). -/

namespace Sys2Proof.Machine

abbrev stNOSPARE : Nat := 26

/-! ### REPLACE (R514) -/

/-- A module number after a replacement. -/
def renum (old new m : BitVec 16) : BitVec 16 := if m = old then new else m

/-- A job with one module's number rewritten wherever the job holds it. -/
def Job.renumber (j : Job) (old new : BitVec 16) : Job :=
  { j with
    mods := j.mods.map (renum old new)
    parent := j.parent.map (renum old new)
    kids := j.kids.map (renum old new)
    tab := j.tab.map fun (v, e) => (v, if e.getLsbD 0 && pteModule e == old then (e &&& 0x0000FFFFFFFFFFFF#64) ||| (new.zeroExtend 64 <<< 48) else e)
    gone := j.gone.filter fun m => m != old }

/-- A context whose RMOD changes begins again at EPOCH 0 and sequence number 0. -/
def State.renumberCtx (s : State) (id : JobId) (old new : BitVec 16) : State :=
  let ns := (s.ctxw.filter fun e => e.1 % 8 = 0 && s.ctxJob (e.1 / 8) == id && s.ctxType (e.1 / 8) != 0 && s.ctxRmod (e.1 / 8) == old).map
    fun e => e.1 / 8
  ns.foldl (fun (s : State) n =>
    let s := s.setCw n 0 (s.cw n 0 / 65536 * 65536 + new.toNat)
    let s := (((s.setCw n 3 0).setCw n 4 0).setCw n 5 0).setCw n 6 0
    s.setCtx n Ctx.none) s

/-- A reduction's tables with a module's number rewritten; HIST is cleared (13 R437). -/
def Reduction.renumber (r : Reduction) (old new : BitVec 16) : Reduction :=
  { r with
    words := SMap.set (fun _ => (0 : Word)) r.words 14 (BitVec.ofNat 32 (r.w 14 % 2 ^ 31))
    segs := r.segs.map fun e => if e.extractLsb' 48 16 = old then (e &&& 0x0000FFFFFFFFFFFF#64) ||| (new.zeroExtend 64 <<< 48) else e
    conts := r.conts.map fun w => renum old new (w.extractLsb' 16 16) ++ renum old new (w.truncate 16)
    dests := r.dests.map fun d => d.set 0 (((nthWord d 0) &&& 0xFFFF0000#32) ||| (renum old new ((nthWord d 0).truncate 16)).zeroExtend 32) }

/-- The rewriting on one module. -/
def State.renumber (s : State) (id : JobId) (old new : BitVec 16) : State :=
  let s := s.renumberCtx id old new
  let s := (s.jobReds id).foldl (fun (s : State) p => s.setRed p.1 (p.2.renumber old new)) s
  (s.onJob id fun j => j.renumber old new).noteRoutes

/-- A job whose first pass has not begun becomes HELD at a pass (R514). -/
def State.holdAt (s : State) (id : JobId) (pass : Nat) : State :=
  s.onJob id fun j =>
    { j with st := .held, named := none, entered := false, rolled := true, pass := BitVec.ofNat 64 pass, dline := none
             heldTo := some (s.rev + BitVec.ofNat 48 (j.deadline + 1)) }

/-- REPLACE: a held job learns the new module of a rank; a job whose first pass has not begun becomes HELD at the pass given (R514). A rank
that the job does not have is `BADCMD` (log entry 22). -/
def execReplace (ring : BitVec 4) (cid : BitVec 16) (s : State) : Out :=
  withCmd s ring cid 0x0D fun x => withCmdJob s ring cid x fun j =>
    let r := (x.w 2).toNat % 65536
    let new : BitVec 16 := (x.w 3).truncate 16
    if j.st = .held then
      if j.mods.length ≤ r ∨ j.mods.contains new then .next (s.complete ring cid stBADCMD [])
      else .next ((s.renumber j.id (j.mods.getD r 0) new).complete ring cid stOK [])
    else if j.begun then .next (s.complete ring cid stBUSY [])
    else
      -- the module launched with the new rank list: START_REV is discarded; what is armed for it stays armed
      .next ((s.holdAt j.id (x.q 4)).complete ring cid stOK [])

/-! ### Retirement (R517 to R519) -/

/-- The jobs whose beds hold a row. -/
def State.rowJobs (s : State) (row : Nat) : List Job := s.jobs.filter fun j => decide (j.oy ≤ row) && decide (row < j.oy + j.h)

/-- The state with a position out of use. -/
def State.without (s : State) (row col cause : Nat) : State :=
  { s with hs := { s.hs with retired := s.hs.retired ++
      [{ prow := BitVec.ofNat 6 row, pcol := BitVec.ofNat 7 col, cause := BitVec.ofNat 2 cause, rev := s.rev.truncate 32 }] } }

/-- Whether a row has a working spare (01 R26). -/
def State.hasSpare (s : State) (row : Nat) : Bool := decide (s.L < (s.working row).length)

/-- EX of a core's east link within a bed, and SX of its south link. -/
def State.bedFlags (s : State) (j : Job) (c y : Nat) : Nat × Nat :=
  let f := s.dtabFlags (BitVec.ofNat 12 (y * s.L + c))
  (if c + 1 < j.ox + j.w then f % 2 else 0, if y + 1 < j.oy + j.h then f / 2 % 2 else 0)

/-- Whether a retirement is neutral for a bed: no link between two of its cores changes EX or SX, and no tap changes its anchor (R518). An
edge fabric tap keeps its logical core (01 R40). -/
def State.neutralFor (s s' : State) (j : Job) (row : Nat) : Bool :=
  ((List.range j.w).all fun i =>
    [row - 1, row].all fun y => decide (y < j.oy) || s.bedFlags j (j.ox + i) y == s'.bedFlags j (j.ox + i) y)
    && (List.range 320).all fun t => tapRow t ≠ row || s.anchor t == s'.anchor t

/-- Whether the headstock has a case for retiring a position (R517): one word in two attempts of a pass, the core in 3 different passes
within 262,144 revolutions, or a TEST logic self-test. -/
def State.mayRetire (s : State) (row col cause : Nat) : Bool :=
  let fs := s.hs.faults.filter fun f => f.pos == 80 * row + col
  match cause with
  | 1 => fs.any fun f => fs.any fun g => f.job == g.job && f.pass == g.pass && f.word == g.word && f.attempt != g.attempt
  | 2 => fs.any fun f =>
      let l := fs.filter fun g => g.job == f.job && revNotAfter g.rev f.rev && decide ((f.rev - g.rev).toNat ≤ 262144)
      decide (3 ≤ (l.foldl (fun (ps : List (BitVec 64)) g => if ps.contains g.pass then ps else ps ++ [g.pass]) []).length)
  | 3 => s.fld F.DEV_STATUS_STATE == mTEST && s.hs.tested.getLsbD 2
  | _ => false

/-- Words of RETIRE_REQ, and the detail of log entries (R519, R523). -/
def retDetail (row col : Nat) (nospare : Bool) : Nat := row + col * 64 + b2n nospare * 8192

/-- A job hears of a retirement in its bed: the pass fails, held unless the retirement is neutral and has a spare. -/
def State.retireFail (s : State) (j : Job) (row col : Nat) (neutral nospare : Bool) : State :=
  if neutral && !nospare then s.onJob j.id fun j => { j.fail 1 with delay := Nat.max j.delay 256 }
  else
    let s := s.onJob j.id fun j => { j.fail 1 with hold := true }
    let s := s.logHs 2 j.id (retDetail row col nospare)
    s.event 0x46 [j.id.zeroExtend 32, BitVec.ofNat 32 (retDetail row col nospare), j.pass.truncate 32]

/-- The headstock decides to retire the core at a position: the beds of its row hear of it (R517, R518). -/
def State.decideRetire (s : State) (y x : Nat) (cause : BitVec 2) : State :=
  let nospare := !s.hasSpare y
  let js := s.rowJobs y
  let neutral := js.all fun j => s.neutralFor (s.without y x cause.toNat) j y
  let p : PendRet := { prow := BitVec.ofNat 6 y, pcol := BitVec.ofNat 7 x, cause := cause, job := js.head?.map fun j => j.id
                       neutral := neutral, nospare := nospare, loaded := false }
  js.foldl (fun (s : State) j => s.retireFail j y x neutral nospare)
    { s with hs := { s.hs with pending := s.hs.pending ++ [p], faults := s.hs.faults.filter fun f => f.pos != 80 * y + x } }

/-- RETIREMENT_DECISION: the headstock decides to retire the core at a physical position (R517, R518). -/
def execRetirementDecision (row : BitVec 6) (col : BitVec 7) (cause : BitVec 2) (s : State) : Out :=
  let y := row.toNat
  let x := col.toNat
  if 40 ≤ y ∨ 80 ≤ x ∨ cause = 0 then .refused .illFormed
  else if s.failedAt y x ∨ s.mayRetire y x cause.toNat = false ∨ (s.hs.pending.any fun p => p.prow == row && p.pcol == col) = true
      ∨ 128 ≤ s.hs.retired.length then .next s
  else .next (s.decideRetire y x cause)

/-- What a logical core takes from the position it moves to: that position's scratchpad, tile file and debug state. What the passes carry
stays with the logical number; program memory is loaded from the image again (R518; 11 R365). -/
def Core.movedTo (k at_ : Core) (pm : SMap PWord) (neutral : Bool) : Core :=
  let k := { k with
    pm := pm, pmPar := (pm.filter fun p => pmParity p.2).map fun p => (p.1, true), sp := at_.sp, spPar := at_.spPar, psn := at_.psn, bdata := at_.bdata, bscale := at_.bscale, bext := at_.bext
    trace := at_.trace, tarm := at_.tarm, topen := at_.topen, tqCyc := at_.tqCyc, tqFill := at_.tqFill
    win := (k.win.filter fun p => p.1 < 0x200) ++ (at_.win.filter fun p => notSaved p.1) ++ (k.win.filter fun p => 0x300 ≤ p.1) }
  -- neutral: the current pattern was in the new position's back bank, and the switch at N brings it to the front
  if neutral then { k with back := at_.front } |>.setW R.MESH_BHDR (at_.w R.MESH_FHDR) else k

/-- The program a job's image gives a core of its bed. -/
def State.imagePm (s : State) (c : CoreId) : SMap PWord :=
  match s.jobOf c with
  | none => (s.core c).pm
  | some j =>
    let (n, bs) := imageSect j.image 4
    let rel := (s.lrow c - j.oy) * j.w + (s.lcol c - j.ox)
    ((entriesVar (imgProg (j.w * j.h)) n bs).getD []).foldl (fun (m : SMap PWord) p =>
      if p.first ≤ rel ∧ rel < p.first + p.count then (p.words.zipIdx).foldl (fun m (w, a) => SMap.set (fun _ => (0 : PWord)) m a w) m else m) []

/-- Each logical core of a row from a column eastward moves to the next working position; the last one to a spare. -/
def State.moveRow (s : State) (row c0 : Nat) (neutral : Bool) : State :=
  let id (c : Nat) : CoreId := BitVec.ofNat 12 (row * s.L + c)
  (List.range (s.L - c0)).foldl (fun (s' : State) i =>
    let c := c0 + i
    let at_ := if c + 1 < s.L then s.core (id (c + 1)) else Core.reset
    s'.setCore (id c) ((s.core (id c)).movedTo at_ (s.imagePm (id c)) neutral)) s

/-- The bed's routers exchange banks at N, with the patterns RETIRE loaded. -/
def State.exchangeBed (s : State) (j : Job) : State := (j.cores s).foldl (fun (s : State) c => s.onCore c (fun k => k.exchange s.now)) s

/-- The revolution at which a pending retirement of a row takes effect: N of a pass entry of every bed in it; of a row in no bed, N of the pass
entry of a bed of the module, when every other job enters its pass then or is in no pass, so that no pass reads two generations of the distance
table (R518; 01 R31, R37; log entry 54). -/
def State.retireRev (s : State) (y : Nat) : Option (BitVec 48) :=
  let js := s.rowJobs y
  if js.isEmpty then
    (s.jobs.findSome? fun j => if j.entered then j.named else none).bind fun n =>
      if s.jobs.all fun j => (j.entered && j.named == some n) || !(j.st == .run || j.st == .done || j.st == .flush || j.st == .flushed) then some n else none
  else
    (js.findSome? fun j => j.named).bind fun n => if js.all fun j => j.entered && j.named == some n then some n else none

/-- Whether a pending retirement of a row may take effect: at such a revolution, its pattern loaded where it is not neutral; at once where the
module holds no job (R518, R519). -/
def State.retireReady (s : State) (y : Nat) (p : PendRet) : Bool :=
  (s.jobs.isEmpty || (s.retireRev y).isSome) && (p.neutral || p.loaded || (s.rowJobs y).isEmpty)

/-- A retirement takes effect (R518). -/
def State.retireNow (s : State) (y : Nat) (p : PendRet) : State :=
  let x := p.pcol.toNat
  let js := s.rowJobs y
  let s : State := match s.retireRev y with
    | some n => s.advanceTo (revStart n)
    | none => s
  -- the logical column that stands at the position
  let c0 := ((s.working y).filter fun z => decide (z < x)).length
  let s := if c0 < s.L then s.moveRow y c0 p.neutral else s
  let s := s.without y x p.cause.toNat
  let s := if p.loaded then js.foldl (fun (s : State) j => s.exchangeBed j) s else s
  let s : State := { s with hs := { s.hs with pending := s.hs.pending.erase p } }
  s.publishDtab.logHs 1 ((js.head?.map fun j => j.id).getD 0xFFF) (retDetail y x false)

/-- RETIREMENT_EFFECT: a retirement pending in a row takes effect at N of a pass entry: with no bed in the row, or neutral, or once RETIRE
has loaded its pattern (R518, R519). -/
def execRetirementEffect (row : BitVec 6) (s : State) : Out :=
  match s.hs.pending.find? (fun p => p.prow == row && !p.nospare) with
  | none => .next s
  | some p =>
    if s.retireReady row.toNat p then .next (s.retireNow row.toNat p) else .next s

/-- A PATTERN section of one pattern: LOGP, DRAIN and the bytes of its entries. -/
def sectPattern (nc : Nat) (bs : List Byte) : Option (Nat × Nat × List Byte) :=
  (imgPattern nc bs).map fun _ => (leAt bs 1 1, leAt bs 2 2, (bs.drop 8).take (nc * 7 * 2 ^ leAt bs 1 1 * 4))

/-- Whether a pending retirement is one that RETIRE serves for a job: in a row of its bed and not neutral. -/
def Job.retires (j : Job) (p : PendRet) : Bool := decide (j.oy ≤ p.prow.toNat) && decide (p.prow.toNat < j.oy + j.h) && !p.neutral

/-- A pattern for the new map is in the bed's back banks: its pending retirements are loaded (R519). -/
def State.loadRetire (s : State) (j : Job) (q : Nat × Nat × List Byte) : State :=
  let s := s.loadBed j q
  let ps := s.hs.pending.map fun y => if j.retires y && !y.nospare then { y with loaded := true } else y
  s.onHs fun h => { h with pending := ps }

/-- The pattern RETIRE loads: of the image, or of the section the command carries. -/
def HostCmd.retirePattern (x : HostCmd) (j : Job) (sect : List Byte) : Option (Nat × Nat × List Byte) :=
  if x.q 2 == 0 then j.pattern ((x.w 4).toNat % 256) else sectPattern (j.w * j.h) sect

/-- RETIRE: a pattern for the new map is loaded into the bed's back banks; while a switch is armed it waits. A section that breaks its
format is `BADIMAGE`, an index the image does not hold `NOPATTERN` (R519; log entry 22). -/
def execRetire (ring : BitVec 4) (cid : BitVec 16) (sect : List Byte) (s : State) : Out :=
  withHostCmd s ring cid (· == 0x0E) fun x => withCmdJob s ring cid x fun j =>
    match s.hs.pending.find? j.retires with
    | none => .next (s.complete ring cid stBUSY [])
    | some p =>
      if p.nospare then .next (s.complete ring cid stNOSPARE [])
      else
        let own := x.q 2 == 0
        let s := if own || x.started then s else s.hostFetch (x.q 2) sect.length
        match x.retirePattern j sect with
        | none => .next (s.complete ring cid (if own then stNOPATTERN else if sect.isEmpty then stNOTHOME else stBADIMAGE) [])
        | some q =>
          if s.bedArmed j then .next (if x.started then s else s.startCmd ring cid)
          else .next ((s.loadRetire j q).complete ring cid stOK [])

/-- RETIREMENT_RECORD_WRITE: the record is in flash; a position stands in it once (R524). -/
def execRetirementRecordWrite (s : State) : Out :=
  let same (a b : Retired) : Bool := a.prow == b.prow && a.pcol == b.pcol
  let l := s.hs.retired.foldl (fun (l : List Retired) r => if l.any (same r) then l else l ++ [r]) []
  .next { s with hs := { s.hs with retired := l, inFlash := l.length } }

/-! ### The headstock's error log (R523, R526) -/

/-- Word `m` of the log's oldest entry. -/
def State.hsElogWord (s : State) (m : Nat) : Word := match s.hs.log.head? with
  | some e => e.extractLsb' (32 * m) 32
  | none => 0

/-- A read of HS_ELOG_D0 removes the oldest entry, and loads D1 to D3 for the path. -/
def State.readHsElog (s : State) (p : Path) : State :=
  let l := SMap.get (fun _ => Latch.none) s.latches (pathKey p)
  let l : Latch := { l with rpair := some (R.HS_ELOG_D 0), rdata := [s.hsElogWord 1, s.hsElogWord 2, s.hsElogWord 3] }
  { s with latches := SMap.set (fun _ => Latch.none) s.latches (pathKey p) l, hs := { s.hs with log := s.hs.log.drop 1 } }

/-- HS_ELOG_READ. -/
def execHsElogRead (p : Path) (s : State) : Out :=
  .next ((s.readHsElog p).answer p false (s.hsElogWord 0))

end Sys2Proof.Machine
end

