-- ==== Sys2Proof/Machine/Billet.lean ====
section
/-! DEFINITION. Billet blocks: conversion to integers under a shared exponent, their image, and the conversion of sums back (05 R172, R173;
13 R434, R435, R446). -/

namespace Sys2Proof.Machine

/-- One element: m = round(x × 2^(149 - E)), saturated to ±(2^23 - 1) with SAT; NaN and infinity give 0 with NF (05 R173). It answers m
and FLAGS. -/
def billetOf (mode r e : Nat) (x : Num) : Int × Nat :=
  match x with
  | .fin neg m g =>
    let h : Int := g + 149 - e
    let k := if m = 0 then 0 else if 0 ≤ h then m <<< h.toNat else (roundStep mode r m (-h).toNat false).1
    let sat := 2 ^ 23 - 1 < k
    let k := if sat then 2 ^ 23 - 1 else k
    (if neg then -(k : Int) else k, b2n sat)
  | _ => (0, 2)

/-- The exponent field of an FP32 encoding that is finite; 0 for others. -/
def expOf (x : Nat) : Nat := let e := bits x 30 23; if e = 255 then 0 else e

/-- M_b: the largest exponent field among a block's finite elements; 0 for a block of zeros (13 R434). -/
def maxExp (xs : List Nat) : Nat := xs.foldl (fun m x => Nat.max m (expOf x)) 0

/-- The FP32 elements of a feed's block; BF16 is widened exactly (13 R432, R434). -/
def feedElems (isBf16 : Bool) (ws : List Word) : List Nat :=
  if isBf16 then ws.flatMap fun w => [bits w.toNat 15 0 * 65536, bits w.toNat 31 16 * 65536] else ws.map BitVec.toNat

/-- A billet block's image (05 R172), from its FP32 elements; SR numbers element i of block b by 64 b + i (13 R434). -/
def billetImage (mode : Nat) (key ctr : Word) (b e : Nat) (xs : List Nat) : List Byte :=
  let ms := xs.zipIdx.map fun (x, i) => billetOf mode (srBits key ctr ((64 * b + i) % 2 ^ 32)) e (fp32.unpack x)
  let fl := ms.foldl (fun f m => f ||| m.2) 0
  ms.flatMap (fun m => leBytes 3 (m.1 % 2 ^ 24).toNat) ++ leBytes 1 e ++ leBytes 1 fl ++ [0, 0]

/-- Element i of an image, and its E and FLAGS. -/
def imageElem (bs : List Byte) (i : Nat) : Int := sext 24 (ofLe ((bs.drop (3 * i)).take 3))
def imageE (bs : List Byte) : Nat := ofLe ((bs.drop 192).take 1)
def imageFlags (bs : List Byte) : Nat := ofLe ((bs.drop 193).take 1)

/-- A sum converted to a result format: S × 2^(E - 149), rounded once (13 R446); the encoding and its flags. -/
def sumTo (f : FFmt) (mode r e : Nat) (s : Int) : Nat × Nat := f.round mode r (decide (s < 0)) s.natAbs ((e : Int) - 149)

end Sys2Proof.Machine
end

