-- ==== Sys2Proof/Machine/Reduction.lean ====
section
/-! DEFINITION. Gradient reduction: converters, the reducer, results and next-pass exponents (13 R434 to R455). -/

namespace Sys2Proof.Machine

/-! ### Exponent tables, modes and failures (R437, R445) -/

/-- Table t mod 2's exponent of a block. -/
def Reduction.tabE (r : Reduction) (t b : Nat) : Nat := (SMap.get (fun _ => (0 : Byte)) (if t % 2 = 0 then r.etab0 else r.etab1) b).toNat
def Reduction.setTabE (r : Reduction) (t b v : Nat) : Reduction :=
  let x : Byte := BitVec.ofNat 8 v
  if t % 2 = 0 then { r with etab0 := SMap.set (fun _ => (0 : Byte)) r.etab0 b x }
  else { r with etab1 := SMap.set (fun _ => (0 : Byte)) r.etab1 b x }

/-- The rounding mode; code 3 is reserved, and which mode it selects is a free value (13 R429; log entry 4). -/
def Reduction.mode (r : Reduction) : Nat := if r.rnd = 3 then Config.reservedRnd % 3 else r.rnd

/-- E of a block in the pass (R435, R436). -/
def Reduction.eOf (r : Reduction) (pass b : Nat) : Nat := if r.carried then Nat.min 255 (r.tabE pass b + 2) else r.tabE pass b

/-- An error of a reduction is recorded and reported to the headstock (R444, R445). -/
def State.redTell (s : State) (kind rid seg k : Nat) : State := (s.redErr kind rid seg k).toHeadstock (.reduction kind rid seg)

/-- A reduction fails: the error is recorded and reported, and the job's pass fails with the cause of R374 (R445). -/
def State.failRed (s : State) (job : JobId) (kind rid seg k : Nat) : State :=
  (s.redTell kind rid seg k).onJob job fun j => { j.fail 2 with sat := j.sat || kind == reSATURATED }

/-- The job's REDUCE context with a module (R453). -/
def State.reduceOf (s : State) (j : JobId) (m : BitVec 16) : Option Nat :=
  s.findCtx fun n => s.ctxType n == ctxReduce && s.ctxJob n == j && s.ctxRmod n == m

/-- AUX of a REDUCE packet (R454). -/
def redAux (rid kind : Nat) (copy : Bool) (k seg n : Nat) : Nat := rid + kind * 2 ^ 10 + b2n copy * 2 ^ 13 + k * 2 ^ 16 + seg * 2 ^ 40 + n * 2 ^ 56

/-- Send a REDUCE packet to a module, or hand SCAN and DATA to the own reducer. -/
def State.redSend (s : State) (j : Job) (dest : BitVec 16) (aux addr : Nat) (data : List Byte) : State :=
  if dest = s.ownModule then
    { s with redQ := s.redQ ++ [{ dmod := dest, smod := dest, dctx := 0, job := j.id, op := 10, seq := 0, epoch := 0, hops := 0,
                                  aux := BitVec.ofNat 64 aux, addr := BitVec.ofNat 64 addr, data := data }] }
  else match s.reduceOf j.id dest with
    | some n => s.originate n 10 aux addr data
    | none => s

/-- The job whose bed has a number, for a converter's flow. -/
def withFeed (s : State) (side : Bool) (bed : BitVec 5) (flow : BitVec 16) (f : Nat → Job → Feed → List Feed → Out) : Out :=
  let key := feedKey (b2n side) bed.toNat flow
  match s.feed key with
  | [] => .next s
  | x :: rest =>
    match s.jobOfBed bed.toNat with
    | some j => if s.fld F.FX_RED_CTRL_EN = 0 ∨ x.head.length ≠ 4 then .next s else f key j x rest
    | none => .next s

/-! ### Converters (R432 to R434, R438) -/

/-- Whether a feed's header breaks R433. -/
def State.badFeed (s : State) (j : Job) (f : Feed) : Bool :=
  let r := s.red f.rid
  let ends := f.first + f.count
  f.bad || f.kind == 0 || f.kind == 3 || bits (f.w 0) 27 10 != 0 || bits (f.w 1) 31 24 != 0 || bits (f.w 2) 31 28 != 0
    || bits (f.w 3) 31 28 != 0 || !r.valid || r.job != j.id || r.feeder f.k f.copy != some s.ownModule
    || !r.begins f.first || !(r.begins ends || ends == r.b)

/-- Words leave a converter's input buffer; a feed whose every word has come and gone ends. -/
def State.putFeed (s : State) (key : Nat) (f : Feed) (rest : List Feed) (gone : Nat) : State :=
  let s := s.setConvFree (key / 2097152) (s.convFree (key / 2097152) + 4 * gone)
  s.setFeed key (if f.whole && f.data.isEmpty then rest else f :: rest)

/-- A rejected feed: `FEED` is recorded once, the reduction fails, and the feed's data is consumed and discarded (R433). -/
def State.rejectFeed (s : State) (key : Nat) (j : Job) (f : Feed) (rest : List Feed) : State :=
  let seg := ((s.red f.rid).segOf f.first).getD 0
  let s := if f.told then s else s.failRed j.id reFEED f.rid seg f.k
  s.putFeed key { f with bad := true, told := true, data := [] } rest f.data.length

/-- Runs of whole blocks that stand in the buffer, cut at segment ends and after `n` blocks: each a segment, its first block and the
blocks' words. -/
def feedRuns (r : Reduction) (n : Nat) (isBf16 : Bool) : Nat → List (List Word) → List (Nat × Nat × List (List Nat))
  | _, [] => []
  | b, ws :: rest =>
    let xs := feedElems isBf16 ws
    let seg := (r.segOf b).getD 0
    match feedRuns r n isBf16 (b + 1) rest with
    | (s, f, bs) :: more =>
      if s = seg ∧ bs.length < n ∧ f = b + 1 then (seg, b, xs :: bs) :: more else (seg, b, [xs]) :: (s, f, bs) :: more
    | [] => [(seg, b, [xs])]

/-- Take the whole blocks of a feed and send each run by `send`. -/
def State.runFeed (s : State) (key : Nat) (f : Feed) (rest : List Feed) (n : Nat)
    (send : State → Nat → Nat → List (List Nat) → State) : State :=
  let k := f.data.length / f.blockW
  let blocks := (List.range k).map fun i => (f.data.drop (f.blockW * i)).take f.blockW
  let s := (feedRuns (s.red f.rid) n f.bf16 (f.first + f.block) blocks).foldl (fun (s : State) (seg, b, bs) => send s seg b bs) s
  s.putFeed key { f with data := f.data.drop (f.blockW * k), block := f.block + k } rest (f.blockW * k)

/-- The M_b of a run of blocks go to the home of their segment; in a carried pass nothing is sent (R438). -/
def State.scanRun (s : State) (j : Job) (f : Feed) (seg b : Nat) (bs : List (List Nat)) : State :=
  let r := s.red f.rid
  if r.carried then s
  else s.redSend j (r.segHome seg) (redAux f.rid 0 f.copy f.k seg bs.length) b (bs.map fun xs => BitVec.ofNat 8 (maxExp xs))

/-- The billets of a run of blocks, with their M_b, go to the home of their segment (R434, R438, R454). -/
def State.convertRun (s : State) (j : Job) (f : Feed) (seg b : Nat) (bs : List (List Nat)) : State :=
  let r := s.red f.rid
  let key' : Word := BitVec.ofNat 32 (r.w 4) ^^^ BitVec.ofNat 32 f.k
  let image (xs : List Nat) (i : Nat) : List Byte := billetImage r.mode key' (j.pass.truncate 32) (b + i) (r.eOf j.pass.toNat (b + i)) xs
  let data := (bs.zipIdx.flatMap fun (xs, i) => image xs i) ++ bs.map fun xs => BitVec.ofNat 8 (maxExp xs)
  let pad := List.replicate (dataLen bs.length - data.length) (0 : Byte)
  s.redSend j (r.segHome seg) (redAux f.rid 1 f.copy f.k seg bs.length) b (data ++ pad)

/-- SCAN: a converter computes the M_b of a SCAN feed's blocks and sends them to the homes; in a carried pass it sends nothing (R438). -/
def execScan (side : Bool) (bed : BitVec 5) (flow : BitVec 16) (s : State) : Out :=
  withFeed s side bed flow fun key j f rest =>
    if s.badFeed j f then .next (s.rejectFeed key j f rest)
    else if f.kind ≠ 1 then .next s
    else
      .next (s.runFeed key f rest 255 fun s seg b bs => s.scanRun j f seg b bs)

/-- CONVERT: a converter turns a CONVERT feed's blocks into billets and sends them, with their M_b, to the homes; in an agreed pass it
waits for the agreed exponents of its segments (R434, R438). -/
def execConvert (side : Bool) (bed : BitVec 5) (flow : BitVec 16) (s : State) : Out :=
  withFeed s side bed flow fun key j f rest =>
    if s.badFeed j f then .next (s.rejectFeed key j f rest)
    else if f.kind ≠ 2 ∨ s.feedWaits f = true then .next s
    else
      .next (s.runFeed key f rest 20 fun s seg b bs => s.convertRun j f seg b bs)

/-! ### Exponents and results at a receiver (R438, R448 to R451) -/

/-- Agreed exponents are written into table P mod 2 (R438). -/
def State.takeAgreed (s : State) (rid pass first : Nat) (es : List Byte) : State :=
  let r := s.red rid
  let r := es.zipIdx.foldl (fun (r : Reduction) (e, i) => r.setTabE pass (first + i) e.toNat) r
  s.setRed rid { r with agreed := r.agreed ++ (List.range es.length).map fun i => first + i }

/-- Next-pass exponents are written into table (P + 1) mod 2 (R451). -/
def State.takeNexte (s : State) (rid pass first : Nat) (es : List Byte) : State :=
  let r := s.red rid
  let r := es.zipIdx.foldl (fun (r : Reduction) (e, i) => r.setTabE (pass + 1) (first + i) e.toNat) r
  s.setRed rid { r with nexte := r.nexte + es.length }

/-- Whether an entry translates to a writable page homed here (R449). -/
def State.writableHere (s : State) (e : BitVec 64) : Bool := (pteFault e true).isNone && pteModule e == s.ownModule

/-- Whether every page of bytes [va, va + n) translates to a writable page homed here (R449). -/
def State.canWrite (s : State) (j : Job) (va n : Nat) : Bool :=
  (List.range ((va + n - 1) / 65536 + 1 - va / 65536)).all fun i => s.writableHere (j.pte (BitVec.ofNat 36 (va / 65536 + i)))

/-- Write bytes of a job's pages, as a write of the module's own cores: pages are recorded and shadowed, and a stage line that holds a burst
takes the write; a page that does not translate to a writable page homed here is not written (R449; 11 R368, R371, R376). `va` and the length are multiples of 4. -/
def State.writeVa (s : State) (id : JobId) (va : Nat) (bs : List Byte) : State :=
  match s.job id with
  | none => s
  | some j =>
    let n := bs.length
    (List.range ((va + n + 63) / 64 - va / 64)).foldl (fun (s : State) i =>
      let b0 := (va / 64 + i) * 64
      let lo := Nat.max va b0
      let hi := Nat.min (va + n) (b0 + 64)
      let mask := (2 ^ ((hi - b0) / 4) - 2 ^ ((lo - b0) / 4)) % 65536
      let ws := List.replicate ((lo - b0) / 4) (0 : Word) ++ wordsOfBytes ((bs.drop (lo - va)).take (hi - lo))
      let e := j.pte (BitVec.ofNat 36 (b0 / 65536))
      let a := pteFrame e + b0 % 65536
      if !s.writableHere e then s
      else if a < lpBase then (s.preserve a).putBurst a mask ws false
      else
        let g := s.ownKey a
        let s := s.preservePage a
        let held := s.lines.filter fun l => l.addr == g
        if held.isEmpty then s.putBurst a mask ws false
        else held.foldl (fun (s : State) l => s.writeLine l.tap g (a % 4096 / 64) mask ws false) s) s

/-- Destination entry d: its fields (R430). -/
def Reduction.dw (r : Reduction) (d i : Nat) : Nat := ((r.dests.getD d []).getD i 0).toNat
def Reduction.dModule (r : Reduction) (d : Nat) : BitVec 16 := BitVec.ofNat 16 (r.dw d 0)
def Reduction.dHas (r : Reduction) (d seg : Nat) : Bool := decide (bits (r.dw d 4) 15 0 ≤ seg) && decide (seg ≤ bits (r.dw d 4) 15 0 + bits (r.dw d 4) 31 16)
/-- Blocks a destination entry sends. -/
def Reduction.dBlocks (r : Reduction) (d : Nat) : Nat :=
  (((List.range r.segs.length).filter fun i => r.dHas d i).map fun i => r.segCount i).foldl (· + ·) 0
/-- The address of block b of an entry for a rank (R448). -/
def Reduction.dAddr (r : Reduction) (d rank b : Nat) : Nat :=
  let j := b - r.segFirst (bits (r.dw d 4) 15 0)
  let run := Nat.max 1 (r.dw d 5)
  (r.dw d 2 + 2 ^ 32 * r.dw d 3 + rank * r.dw d 7 * 65536 + j / run * r.dw d 6 + j % run * r.rsize) % 2 ^ 64

/-- A RESULT's blocks are written, where their pages allow it, which otherwise fails the reduction, and counted for the destination entries they
belong to; an entry whole and with NEN sets its flag (R449, R450; when it reaches its core: DEDUCED, log entry 57). -/
def State.writeResult (s : State) (j : Job) (rid seg va : Nat) (data : List Byte) : State :=
  let r := s.red rid
  let ok := s.canWrite j va data.length
  let s := s.writeVa j.id va data
  if !ok then s.failRed j.id reRESHOME rid seg 0
  else
    let n := data.length / r.rsize
    let rank := bits (r.w 15) 15 0
    let here (d : Nat) : Bool := (r.dModule d == 0xFFFF || r.dModule d == s.ownModule) && r.dHas d seg &&
      (List.range (r.segCount seg)).any fun i => r.dAddr d rank (r.segFirst seg + i) == va
    ((List.range r.dests.length).filter here).foldl (fun (s : State) d =>
      let r := s.red rid
      let done := SMap.get (fun _ => 0) r.wrote d + n
      let s := s.setRed rid { r with wrote := SMap.set (fun _ => 0) r.wrote d done }
      if done = r.dBlocks d ∧ bit (r.dw d 1) 7 = true then
        let c : CoreId := BitVec.ofNat 12 (bits (r.dw d 0) 27 16)
        if s.hasCore c then
          { s with net := s.net ++ [{ src := c, dst := c, due := s.now + 48, body := .flag (BitVec.ofNat 6 (bits (r.dw d 1) 5 0)) true }] }
        else s
      else s) s

/-- The oldest packet of a KIND that a REDUCE context has accepted, and its job. -/
def withRed (s : State) (n : BitVec 14) (kind : Nat) (f : Job → Packet → State → Out) : Out :=
  if s.ctxType n.toNat = ctxReduce then
    match s.job (s.ctxJob n.toNat), (s.ctx n.toNat).rx.find? (fun p => pKind p == kind) with
    | some j, some p => f j p (s.setCtx n.toNat { s.ctx n.toNat with rx := (s.ctx n.toNat).rx.erase p })
    | _, _ => .next s
  else .next s

/-- AGREED: a module receives agreed exponents (R438). -/
def execAgreed (ctx : BitVec 14) (s : State) : Out :=
  withRed s ctx 2 fun j p s => .next (s.takeAgreed (pRid p) j.pass.toNat (pFirst p) p.data)

/-- A RESULT packet at a receiver: written and accepted, the packets behind it then checked; a page it may not write fails the reduction and
the packet is not accepted (R449). -/
def State.takeResult (s : State) (n : Nat) (j : Job) (p : Packet) (rest : List Packet) : State :=
  let ok := s.canWrite j p.addr.toNat p.data.length
  let s := s.setCtx n { s.ctx n with wait := [] }
  let s := s.writeResult j (pRid p) (pSeg p) p.addr.toNat p.data
  let s := if ok then s.accept n p else s
  rest.foldl (fun (s : State) q => s.transport n q) s

/-- RESULT: a module writes a RESULT packet and may notify a core (R449, R450); it waits for an LPDDR6 channel that retrains (10 R345). -/
def execResult (ctx : BitVec 14) (s : State) : Out :=
  match s.job (s.ctxJob ctx.toNat), (s.ctx ctx.toNat).wait with
  | some j, p :: rest =>
    .next (if s.ctxType ctx.toNat = ctxReduce ∧ s.rangeUp j p.addr.toNat p.data.length = true then s.takeResult ctx.toNat j p rest else s)
  | _, _ => .next s

/-- NEXTE: a module writes next-pass exponents (R451). -/
def execNexte (ctx : BitVec 14) (s : State) : Out :=
  withRed s ctx 4 fun j p s => .next (s.takeNexte (pRid p) j.pass.toNat (pFirst p) p.data)

/-! ### At the home (R438 to R448) -/

/-- Send exponents of consecutive blocks to every module of the contributor table, 255 to a packet; this module's own are written at
once (R438, R451). -/
def State.spread (s : State) (j : Job) (rid kind seg : Nat) (es : List Byte) : State :=
  let r := s.red rid
  let first := r.segFirst seg
  r.named.foldl (fun (s : State) m =>
    if m = s.ownModule then
      if kind = 2 then s.takeAgreed rid j.pass.toNat first es else s.takeNexte rid j.pass.toNat first es
    else ((chunks 255 es).zipIdx).foldl (fun (s : State) (e, i) => s.redSend j m (redAux rid kind false 0 seg e.length) (first + 255 * i) e) s) s

/-- A result block (R446, R447), and whether an element overflowed. -/
def Reduction.resultBlock (r : Reduction) (pass : Word) (b : Nat) (a : Accum) : List Byte × Bool :=
  let sums := (List.range 64).map fun i => (SMap.get (fun _ => (0 : BitVec 48)) a.sums i).toInt
  let e := a.e.toNat
  if r.ofmt = 2 then
    ((sums.flatMap fun x => leBytes 6 (x % 2 ^ 48).toNat) ++ [a.e, a.flags, 0, 0] ++ leBytes 4 a.ncont, false)
  else
    let f := if r.ofmt = 1 then bf16 else fp32
    let key : Word := ~~~ BitVec.ofNat 32 (r.w 4)
    let rs := sums.zipIdx.map fun (x, i) =>
      if a.flags.getLsbD 1 then (f.nan, 0) else sumTo f r.mode (srBits key pass ((64 * b + i) % 2 ^ 32)) e x
    (rs.flatMap fun x => leBytes (f.width / 8) x.1, rs.any fun x => bit x.2 2)

/-- Consecutive blocks that lie side by side at a destination, at most `n` together: the first block's address, and their bytes. -/
def resultRuns (n size : Nat) (addr : Nat → Nat) : List (Nat × List Byte) → List (Nat × Nat × List Byte)
  | [] => []
  | (b, bs) :: rest =>
    match resultRuns n size addr rest with
    | (a, k, more) :: runs =>
      if a = addr b + size ∧ k < n then (addr b, k + 1, bs ++ more) :: runs else (addr b, 1, bs) :: (a, k, more) :: runs
    | [] => [(addr b, 1, bs)]

/-- A segment is complete: its results go to their destinations, then the next-pass exponents (R446 to R448, R451). -/
def State.finishSeg (s : State) (j : Job) (rid seg : Nat) : State :=
  let r := s.red rid
  let bs := (List.range (r.segCount seg)).map fun i =>
    let b := r.segFirst seg + i
    (b, r.resultBlock (j.pass.truncate 32) b (SMap.get (fun _ => Accum.zero) r.acc b))
  let s := if bs.any fun x => x.2.2 then s.redErr reRESOVF rid seg 0 else s
  let blocks := bs.map fun x => (x.1, x.2.1)
  let s := ((List.range r.dests.length).filter fun d => r.dHas d seg).foldl (fun (s : State) d =>
    (if r.dModule d = 0xFFFF then j.mods else [r.dModule d]).foldl (fun (s : State) m =>
      let rank : Nat := if m = s.ownModule then bits (r.w 15) 15 0 else match s.reduceOf j.id m with
        | some n => bits (s.cw n 7) 15 0
        | none => 0
      (resultRuns r.maxRes r.rsize (r.dAddr d rank) blocks).foldl (fun (s : State) (va, n, data) =>
        if m = s.ownModule then s.writeResult j rid seg va data
        else s.redSend j m (redAux rid 3 false 0 seg n) va data) s) s) s
  s.spread j rid 4 seg ((List.range (r.segCount seg)).map fun i =>
    BitVec.ofNat 8 (Nat.min 255 ((SMap.get (fun _ => Accum.zero) r.acc (r.segFirst seg + i)).emax.toNat + 1)))

/-- A segment's scan is complete: the agreed exponents (R435, R438). -/
def State.finishScan (s : State) (j : Job) (rid seg : Nat) : State :=
  let r := s.red rid
  s.spread j rid 2 seg ((List.range (r.segCount seg)).map fun i =>
    BitVec.ofNat 8 (Nat.min 255 ((SMap.get (fun _ => (0 : Byte)) r.scan (r.segFirst seg + i)).toNat + 1)))

/-- The signature of a copy after more bytes: CRC-32 continued (R440). -/
def sigOf (sig : Word) (bs : List Byte) : Word := ~~~ crcRun (~~~ sig) bs

/-- One block at the home (R440): `scan` for a SCAN value, whose byte stands in the billet's place; `mb` its M_b. The record, the
duplicate test, the accumulator, the comparison of the copies and the contribution's end (R444, R445). -/
def State.homeBlock (s : State) (j : Job) (rid seg k : Nat) (copy scan : Bool) (sender : BitVec 16) (b : Nat) (image : List Byte) (mb : Nat) : State :=
  let r := s.red rid
  let key := 2 * seg + b2n (!scan)
  let count := r.segCount seg
  let bad (s : State) (kind : Nat) : State := s.failRed j.id kind rid seg k
  if seg ≥ r.segs.length then bad s reSOURCE
  else if r.segHome seg ≠ s.ownModule ∨ b < r.segFirst seg ∨ r.segFirst seg + count ≤ b then bad s reSOURCE
  else
    let g := SMap.get (fun _ => Seg.none) r.seg key
    let c := SMap.get (fun _ => CRec.zero) g.recs k
    let n := if copy then c.n1 else c.n0
    if r.feeder k copy ≠ some sender ∨ n = count then bad s reSOURCE
    else
      let g := if g.recs.isEmpty then { g with armed := some s.rev } else g
      let c := if copy then { c with n1 := c.n1 + 1, sig1 := sigOf c.sig1 image } else { c with n0 := c.n0 + 1, sig0 := sigOf c.sig0 image }
      let put (s : State) (c : CRec) (f : Reduction → Reduction) : State :=
        let r := f (s.red rid)
        s.setRed rid { r with seg := SMap.set (fun _ => Seg.none) r.seg key { g with recs := SMap.set (fun _ => CRec.zero) g.recs k c } }
      let compare (s : State) : State :=
        if bit (r.w 0) 25 && c.n0 == count && c.n1 == count && c.sig0 != c.sig1 then
          if bit (r.w 0) 24 then bad s reMISMATCH else s.redTell reMISMATCH rid seg k
        else s
      if b - r.segFirst seg < c.h then compare ((put s c id).bump F.FX_RED_CNT_DUP 1)
      else
        let a := SMap.get (fun _ => Accum.zero) r.acc b
        let e := imageE image
        let agreedE := Nat.min 255 ((SMap.get (fun _ => (0 : Byte)) r.scan b).toNat + 1)
        if !scan && (if r.carried then decide (a.ncont ≠ 0) && e != a.e.toNat else e != agreedE) then compare (bad (put s c id) reSCALE)
        else
          let add (r : Reduction) : Reduction :=
            let top : Byte := BitVec.ofNat 8 (Nat.max mb (SMap.get (fun _ => (0 : Byte)) r.scan b).toNat)
            if scan then { r with scan := SMap.set (fun _ => (0 : Byte)) r.scan b top }
            else { r with acc := SMap.set (fun _ => Accum.zero) r.acc b <|
              { sums := (List.range 64).foldl (fun m i => SMap.set (fun _ => (0 : BitVec 48)) m i
                  (SMap.get (fun _ => (0 : BitVec 48)) m i + BitVec.ofInt 48 (imageElem image i))) a.sums
                e := BitVec.ofNat 8 e, emax := BitVec.ofNat 8 (Nat.max a.emax.toNat mb)
                flags := a.flags ||| BitVec.ofNat 8 (imageFlags image), ncont := a.ncont + 1 } }
          let c' := { c with h := c.h + 1 }
          let s := put s c' add
          let s := if !scan && bit (imageFlags image) 0 then bad s reSATURATED else s
          let s := compare s
          if c'.h = count then
            let r := s.red rid
            let g := SMap.get (fun _ => Seg.none) r.seg key
            let g := { g with done := g.done + 1, armed := some s.rev }
            let s := s.setRed rid { r with seg := SMap.set (fun _ => Seg.none) r.seg key g }
            if g.done = r.c then (if scan then s.finishScan j rid seg else s.finishSeg j rid seg) else s
          else s

/-- The packet at the front of the reducer's input buffer, which takes them in arrival order, if it is of this job and KIND (R443). -/
def withHome (s : State) (job : JobId) (kind : Nat) (f : Job → Packet → State → Out) : Out :=
  match s.job job, s.redQ with
  | some j, p :: rest =>
    if s.fld F.FX_RED_CTRL_EN = 0 ∨ p.job ≠ job ∨ pKind p ≠ kind then .next s else f j p ({ s with redQ := rest } : State)
  | _, _ => .next s

/-- The SCAN values of a packet, block by block (R438, R440). -/
def State.homeScan (s : State) (j : Job) (p : Packet) : State :=
  p.data.zipIdx.foldl (fun (s : State) (v, i) =>
    s.homeBlock j (pRid p) (pSeg p) (pK p) (pCopy p) true p.smod (pFirst p + i) [v] v.toNat) s

/-- The billets of a packet, block by block (R440). -/
def State.homeData (s : State) (j : Job) (p : Packet) : State :=
  (List.range (pN p)).foldl (fun (s : State) i =>
    let image := (p.data.drop (196 * i)).take 196
    s.homeBlock j (pRid p) (pSeg p) (pK p) (pCopy p) false p.smod (pFirst p + i) image (ofLe ((p.data.drop (196 * pN p + i)).take 1))) s

/-- REDUCE_SCAN: a home reduces a packet's SCAN values by maximum; copies that arrive after the vote are dropped, and a carried pass has
no scan (R438, R440, R444). -/
def execReduceScan (job : JobId) (s : State) : Out :=
  withHome s job 0 fun j p s =>
    if j.st ≠ .run ∨ (s.red (pRid p)).carried = true then .next s
    else .next (s.homeScan j p)

/-- REDUCE_DATA: a home accepts a packet's billet blocks into its accumulators (R440). -/
def execReduceData (job : JobId) (s : State) : Out :=
  withHome s job 1 fun j p s =>
    if j.st ≠ .run then .next s
    else .next (s.homeData j p)

/-- What a home holds for the scan or the data of a segment. -/
def Reduction.segRec (r : Reduction) (seg : Nat) (isScan : Bool) : Seg := SMap.get (fun _ => Seg.none) r.seg (2 * seg + b2n (!isScan))

/-- The first contribution that is not whole. -/
def Reduction.lateOne (r : Reduction) (g : Seg) (seg : Nat) : Nat :=
  ((List.range r.c).find? fun k => (SMap.get (fun _ => CRec.zero) g.recs k).h ≠ r.segCount seg).getD 0

/-- CONTRIB_LATE: the deadline of a segment's scan or data expires before the segment is complete: the reduction fails (R445). -/
def execContribLate (rid : BitVec 10) (seg : BitVec 16) (isScan : Bool) (s : State) : Out :=
  let r := s.red rid.toNat
  let g := r.segRec seg.toNat isScan
  match g.armed with
  | none => .next s
  | some m =>
    if g.done = r.c then .next s
    else
      let s := s.advanceTo (revStart (m + BitVec.ofNat 48 (bits (r.w 3) 31 16 + 1)))
      let r := s.red rid.toNat
      let s := s.setRed rid.toNat { r with seg := SMap.set (fun _ => Seg.none) r.seg (2 * seg.toNat + b2n (!isScan)) { g with armed := none } }
      .next (s.failRed r.job reLATE rid.toNat seg.toNat (r.lateOne g seg.toNat))

end Sys2Proof.Machine
end

