-- ==== Sys2Proof/Machine/Access.lean ====
section
/-! DEFINITION. Reads and writes of any register on any access path: pairs and their latches, fields that a read clears, registers
whose value is computed and registers whose access acts, the Brepo and sideband accesses and the debug port's engine (00 R10 to R13;
15 R461, R463, R464; 18 R542; 19 R545). -/

namespace Sys2Proof.Machine

/-! ### Pairs and latched words (R11) -/

/-- Whether a window offset, or a device offset, is a register named _LO. -/
def winLo (o : Nat) : Bool :=
  [R.CORE_CYC_LO, R.DMA_XINV_LO, R.DMA_XFLT_LO, R.FLAG_VAL_LO, R.FLAG_SET_LO, R.FLAG_CLR_LO, R.FLAG_SNAP_LO, R.FLAG_AUDIT_LO,
   R.FLAG_TPH_LO].contains o
  || (List.range 4).any (fun k => o = R.CORE_TH_TCMP_LO k) || (List.range 8).any (fun c => o = R.DMA_CH_CMPA_LO c)
def devLo (o : Nat) : Bool :=
  [R.SPN_REV_LO, R.SPN_LINKLOCK_LO, R.MT_ELOG_LO, R.MT_STR_BASE_LO, R.MT_XINV_LO, R.FX_XINV_LO, R.DEV_SERIAL_LO, R.HL_RBASE_LO,
   R.HS_RECOV_ADDR_LO, R.HS_NOSPARE_LO].contains o

/-- The window of an offset, if it lies in one: the core's number and the window offset. -/
def winOf (off : Nat) : Option (CoreId × Nat) :=
  if 0x1000000 ≤ off ∧ off < 0x2000000 then some (BitVec.ofNat 12 ((off - 0x1000000) / 0x1000), off % 0x1000) else none

def isLo (off : Nat) : Bool := match winOf off with
  | some (_, o) => winLo o
  | none => devLo off
def isHi (off : Nat) : Bool := 4 ≤ off && isLo (off - 4)

/-- Whether an offset lies in the window of a core that does not exist: it holds no register (R12; log entry 6). -/
def State.absent (s : State) (off : Nat) : Bool := match winOf off with
  | some (c, _) => !s.hasCore c
  | none => false

/-- Words that a read of an offset latches: one for _LO, three for word 0 of the entries of HS_ELOG and CORE_TRDATAm. -/
def latchLen (off : Nat) : Nat :=
  if isLo off then 1
  else if off = R.HS_ELOG_D 0 ∨ (winOf off).map Prod.snd = some (R.CORE_TRDATAM 0) then 3
  else 0

/-- The base a latched word belongs to, and its place. -/
def latchedAt (off : Nat) : Option (Nat × Nat) :=
  ([1, 2, 3].find? fun i => decide (4 * i ≤ off) && decide (i ≤ latchLen (off - 4 * i))).map fun i => (off - 4 * i, i - 1)

/-! ### What a register holds (R12, R13) -/

/-- The bits a read of a register shows: WO fields read 0. -/
def RegRow.shows (r : RegRow) : Word := r.ro ||| r.rw ||| r.w1c ||| r.w1s ||| r.rc

/-- A register's word in its bank, as a read shows it; an offset that holds no register reads 0. -/
def bankRead (rows : List RegRow) (off : Nat) (w : Word) : Word := match findRow rows off with
  | some r => w &&& r.shows
  | none => 0

/-- Whether the matrix unit runs a row-step of a queue, and whether an engine works (TILE_QSTAT). -/
def Core.rowRuns (k : Core) (q : Nat) (now : Count) : Bool :=
  let d := SMap.get (fun _ => (0 : Count)) k.tdone 16
  !notAfter d now && (k.tqOf q).any fun e => match e.i with
    | .tmma _ _ tc _ _ _ _ => decide (0 < e.row) && SMap.get (fun _ => (0 : Count)) k.trow (64 * tc.toNat + e.row - 1) == d
    | _ => false
def Core.engineRuns (k : Core) (r : Rest) (q : Nat) (now : Count) : Bool :=
  (k.tqOf q).any fun e => e.start.isSome && decide (e.row < k.tWork e.i) && notAfter (r.skip e.next) now

/-- TILE_QSTAT. -/
def Core.qStat (k : Core) (r : Rest) (now : Count) : Word :=
  let n (q : Nat) : Nat := (k.tqOf q).length
  BitVec.ofNat 32 (n 3 <<< 20 + n 2 <<< 16 + n 1 <<< 12 + n 0 <<< 8 + b2n (k.engineRuns r 3 now) <<< 3 + b2n (k.engineRuns r 2 now) <<< 2
    + b2n (k.rowRuns 1 now) <<< 1 + b2n (k.rowRuns 0 now))


/-- A thread's registers by thread offset (03 R130 tables). -/
def Core.thPeek (k : Core) (t : Thr) (r : Nat) (bank : Word) (rs : Rest) (rev : BitVec 48) : Word :=
  let x := k.th t
  match r with
  | 0x00 => x.pc.zeroExtend 32
  | 0x08 => x.sw
  | 0x10 => x.epc.zeroExtend 32
  | 0x14 => x.cause
  | 0x18 => x.faddr
  | 0x1C => (bank &&& 0xFFFF#32) ||| BitVec.ofNat 32 (x.wdogCount rs rev <<< 16)
  | 0x20 => x.tcmp.truncate 32
  | 0x24 => (x.tcmp >>> 32).truncate 32
  | 0x28 => x.dsp.zeroExtend 32
  | 0x34 => x.waiton
  | _ => bank

/-- CORE_ID: the core's current position. -/
def State.coreId (s : State) (c : CoreId) : Word :=
  BitVec.ofNat 32 (s.region c <<< 26 + s.lrow c <<< 20 + s.px c <<< 13 + c.toNat)

/-- CORE_STATUS. -/
def Core.status (k : Core) : Word :=
  (k.w R.CORE_STATUS &&& 0x10000#32) ||| BitVec.ofNat 32 (b2n (k.flagWord.getLsbD 63) <<< 17
    + (allThr.foldl (fun v t => v + (k.th t).state.code <<< (4 * t.toNat)) 0))

/-- CORE_FSQ. -/
def Core.fsqWord (k : Core) : Word :=
  BitVec.ofNat 32 (b2n k.fsq.isEmpty <<< 31 + b2n k.fsqOvf <<< 30 + (k.fsq.length % 8) <<< 12 + (k.fsq.head?.map BitVec.toNat).getD 0)

/-- The word a window register holds in the present cycle. -/
def State.winPeek (s : State) (c : CoreId) (o : Nat) : Word :=
  let k := s.core c
  let bank := bankRead winRows o (k.w o)
  if 0x100 ≤ o ∧ o < 0x200 then k.thPeek (BitVec.ofNat 2 ((o - 0x100) / 64)) (o % 64) bank (s.restOf c) s.rev
  else if 0x600 ≤ o ∧ o < 0x800 then (if o % 64 = 0x2C then k.chTimer (BitVec.ofNat 3 ((o - 0x600) / 64)) (s.restOf c) s.rev else bank)
  else if 0x8C0 ≤ o ∧ o < 0x900 then (if o % 4 = 0 then k.connWord (BitVec.ofNat 4 ((o - 0x8C0) / 4)) else 0)
  else if o = R.CORE_ID then s.coreId c
  else if o = R.CORE_STATUS then k.status
  else if o = R.CORE_FSQ then k.fsqWord
  else if o = R.CORE_PM_DATA then k.pmData
  else if o = R.CORE_CYC_LO then s.now.truncate 32
  else if o = R.CORE_CYC_HI then (s.now >>> 32).truncate 32
  else if o = R.CORE_LOCK_WPOS then k.wpos
  else if o = R.CORE_DBGCFG then
    bank ||| BitVec.ofNat 32 (allThr.foldl (fun v t => v + b2n (decide ((k.th t).step ≠ 0)) <<< (4 + t.toNat)) 0)
  else if o = R.CORE_TRDATA then k.trData (s.restOf c) s.rev
  else if o = R.CORE_SPDATA then k.spData
  else if o = R.CORE_TRSTAT then bank ||| BitVec.ofNat 32 k.trace.length
  else if o = R.TILE_QSTAT then k.qStat (s.restOf c) s.now
  else if o = R.TILE_SROW then k.srow
  else if R.TILE_QDATA 0 ≤ o ∧ o ≤ R.TILE_QDATA 3 ∧ o % 4 = 0 then k.qImage.extractLsb' (32 * ((o - R.TILE_QDATA 0) / 4)) 32
  else if R.TILE_CFG 0 ≤ o ∧ o ≤ R.TILE_CFG 7 ∧ o % 4 = 0 then
    bank ||| BitVec.ofNat 32 (b2n (k.tBusy (BitVec.ofNat 3 ((o - R.TILE_CFG 0) / 4))) <<< 4)
  else if o = R.TILE_DDATA then k.dData
  else if o = R.DMA_CHSUM then BitVec.ofNat 32 ((List.range 8).foldl (fun v i => v + k.chState (BitVec.ofNat 3 i) <<< (4 * i)) 0)
  else if o = R.DMA_VDATA then groupBits k.valid (k.fld F.DMA_VSEL_INDEX)
  else if o = R.MESH_BED then bank ||| BitVec.ofNat 32 (b2n (s.hasEdge c) <<< 6 + b2n (s.hasTap c) <<< 5)
  else if o = R.MESH_BHDR then (if hdrValid bank then bank else bank &&& 0x7FFFFFFF#32)
  else if o = R.MESH_PDATA then k.pdata
  else if o = R.MESH_PSNDATA then groupBits k.psn (k.fld F.MESH_PSNSEL_INDEX)
  else if o = R.FLAG_VAL_LO then k.flagWord.truncate 32
  else if o = R.FLAG_VAL_HI then (k.flagWord >>> 32).truncate 32
  else bank

/-- The windows in use for the hottest stack (10 R336). -/
def State.rwin (s : State) : Nat := if (List.range 20).any s.hotWindows then 0xFE else 0xAA

/-- The channel with the fewest free shadow pages, the lowest-numbered, and its free pages (11 R372). -/
def State.shFree (s : State) : Nat × Nat :=
  (List.range 320).foldl (fun (b : Nat × Nat) t =>
    let n := s.shPages - (s.tap t).shUsed
    if n < b.2 then (t, n) else b) (0, s.shPages - (s.tap 0).shUsed)

/-- The stream MT_STR_SEL selects. -/
def State.selStream (s : State) : Option Stream :=
  if s.fld F.MT_STR_SEL_REGION < 20 then s.stream (s.fld F.MT_STR_SEL_REGION) (s.fld F.MT_STR_SEL_STREAM) else none

/-- A word of the record FX_CTXSEL selects; TCOUNT counts the revolutions since the timer was armed (12 R402, R413). -/
def State.ctxPeek (s : State) (m : Nat) : Word :=
  let n := s.fld F.FX_CTXSEL_CTX
  if 10000 ≤ n then 0
  else if m = 6 then
    match s.ctxTimer n with
    | some r => if bit (s.cw n 0) 31 then BitVec.ofNat 32 (2 ^ 31 + Nat.min 0xFFFF (s.rev - r).toNat) else BitVec.ofNat 32 (s.cw n 6)
    | none => BitVec.ofNat 32 (s.cw n 6)
  else BitVec.ofNat 32 (s.cw n m)

/-- Rows without a spare, as 40 bits (17 R518). -/
def State.noSpare (s : State) : Nat := (List.range 40).foldl (fun v y => v + b2n (!s.hasSpare y) <<< y) 0

/-- The word a device register outside the windows holds in the present cycle. -/
def State.devPeek (s : State) (off : Nat) : Word :=
  let bank := bankRead devRows off (s.devW off)
  if off = R.SPN_REV_LO then s.rev.truncate 32
  else if off = R.SPN_REV_HI then BitVec.ofNat 32 (s.angle <<< 16 + s.rev.toNat / 2 ^ 32)
  else if off = R.SPN_STATUS then s.spnStatus
  else if off = R.SPN_MASTER then s.spnMaster
  else if off = R.SPN_ANGLE then BitVec.ofNat 32 s.angle
  else if off = R.SPN_DRIFT then BitVec.ofNat 32 s.driftEst
  else if off = R.SPN_REST_PEND then s.restPend
  else if off = R.MT_STATUS then (bank &&& 0x3FF#32) ||| BitVec.ofNat 32 (s.rwin <<< 16)
  else if off = R.MT_ELOG_STAT then bank ||| BitVec.ofNat 32 s.elog.length
  else if off = R.MT_STR_CFG then (match s.selStream with
    | some x => BitVec.ofNat 32 (2 ^ 31 + b2n x.twoD <<< 30 + x.conf <<< 27 + b2n x.susp <<< 26 + x.job.toNat <<< 12 + x.n1.toNat)
    | none => 0)
  else if off = R.MT_STR_S1 then (s.selStream.map Stream.s1).getD 0
  else if off = R.MT_STR_S2 then (s.selStream.map Stream.s2).getD 0
  else if off = R.MT_STR_BASE_LO then ((s.selStream.map fun x => (x.x0.truncate 32 : Word)).getD 0)
  else if off = R.MT_STR_BASE_HI then ((s.selStream.map fun x => BitVec.extractLsb' 32 32 x.x0).getD 0)
  else if off = R.MT_SHADOW_STAT then (bank &&& 0x80000000#32) ||| BitVec.ofNat 32 (s.shFree.1 <<< 13 + s.shFree.2)
  else if off = R.FX_RTDATA then s.rtData
  else if R.FX_CTXDATA 0 ≤ off ∧ off ≤ R.FX_CTXDATA 7 ∧ off % 4 = 0 then s.ctxPeek ((off - R.FX_CTXDATA 0) / 4)
  else if off = R.FX_RED_STAT then BitVec.ofNat 32 s.accFree
  else if R.FX_RED_DATA 0 ≤ off ∧ off ≤ R.FX_RED_DATA 15 ∧ off % 4 = 0 then
    BitVec.ofNat 32 ((s.red (s.fld F.FX_RED_SEL_RID)).w ((off - R.FX_RED_DATA 0) / 4))
  else if off = R.HL_RBASE_LO then (s.ring s.selRing).base.truncate 32
  else if off = R.HL_RBASE_HI then ((s.ring s.selRing).base >>> 32).truncate 32
  else if off = R.HL_RCFG then (s.ring s.selRing).cfg
  else if off = R.HL_RIDX then (s.ring s.selRing).tail ++ (s.ring s.selRing).head
  else if off = R.HL_ICOAL then (s.ring s.selRing).coal
  else if off = R.HS_ELOG_STAT then BitVec.ofNat 32 (b2n s.hs.logOvf <<< 31 + s.hs.log.length)
  else if off = R.HS_RETIRE_STAT then BitVec.ofNat 32 (Nat.min 255 s.hs.pending.length <<< 8 + Nat.min 255 s.hs.retired.length)
  else if off = R.HS_NOSPARE_LO then BitVec.ofNat 32 s.noSpare
  else if off = R.HS_NOSPARE_HI then BitVec.ofNat 32 (s.noSpare / 2 ^ 32)
  else bank

/-- The word at an offset of device register space in the present cycle; offsets that hold no register read 0 (R12). -/
def State.peek (s : State) (off : Nat) : Word :=
  match winOf off with
  | some (c, o) => if s.hasCore c then s.winPeek c o else 0
  | none => s.devPeek off

/-! ### Reads -/

/-- What an access of a window register, read or write, does besides: it steps the pointer of the register (03 R104; 06 R241; 07 R275;
08 R303; 10 R355; 19 R554, R555). -/
def State.winStep (s : State) (c : CoreId) (o : Nat) : State :=
  let g (f : Core → Core) : State := s.onCore c f
  if o = R.CORE_PM_DATA then g Core.stepPm
  else if o = R.CORE_TRDATA then g Core.stepTr
  else if o = R.CORE_SPDATA then g Core.stepSp
  else if o = R.TILE_DDATA then g Core.stepD
  else if o = R.DMA_VDATA then g fun k => k.setFld F.DMA_VSEL_INDEX (stepGroup (k.fld F.DMA_VSEL_INDEX))
  else if o = R.MESH_PDATA then g Core.stepPsel
  else if o = R.MESH_PSNDATA then g fun k => k.setFld F.MESH_PSNSEL_INDEX (stepGroup (k.fld F.MESH_PSNSEL_INDEX))
  else s

/-- A read clears the RC fields of a register (R13). -/
def rcMask (rows : List RegRow) (off : Nat) : Word := match findRow rows off with
  | some r => r.rc
  | none => 0

/-- What a read leaves: RC fields cleared, pointers stepped, parity noted. -/
def State.afterRead (s : State) (off : Nat) : State :=
  match winOf off with
  | some (c, o) =>
    if !s.hasCore c then s
    else
      let s := if o = R.CORE_SPDATA then s.onCore c Core.spPerr else s
      let m := rcMask winRows o
      (if m = 0 then s else s.onCore c fun k => k.setW o (k.w o &&& ~~~m)).winStep c o
  | none =>
    let m := rcMask devRows off
    let s := if m = 0 then s else s.setDev off (s.devW off &&& ~~~m)
    if off = R.FX_RTDATA then s.stepRt else s

/-- Whether the sideband answers a read of an offset: before PGOOD only DEV_ID, DEV_ORDER, DEV_SERIAL and PW_ (18 R542). -/
def State.hears (s : State) (p : Path) (off : Nat) : Bool :=
  p != .sideband || s.power.pgood || [R.DEV_ID, R.DEV_ORDER, R.DEV_SERIAL_LO, R.DEV_SERIAL_HI].contains off
    || (decide (0x500000 ≤ off) && decide (off < 0x1000000))

/-- A read of an offset on a path (R11 to R13): the value, and what the read leaves. -/
def State.readReg (s : State) (p : Path) (off : Nat) : State × Word :=
  if !s.hears p off || s.absent off then (s, 0)
  else match latchedAt off with
  | some (base, i) =>
    (s, if (s.latch p).rpair = some base then (s.latch p).rdata.getD i 0 else 0)
  | none =>
    if off = R.MT_ELOG_LO then s.readElog p
    else if off = R.HS_ELOG_D 0 then (s.readHsElog p, s.hsElogWord 0)
    else match winOf off with
    | some (c, o) =>
      if s.hasCore c && o == R.CORE_TRDATAM 0 then s.readTrace p c
      else
        let w := s.peek off
        let s := if latchLen off = 1 then s.setLatch p { s.latch p with rpair := some off, rdata := [s.peek (off + 4)] } else s
        (s.afterRead off, w)
    | none =>
      let w := s.peek off
      let s := if latchLen off = 1 then s.setLatch p { s.latch p with rpair := some off, rdata := [s.peek (off + 4)] } else s
      (s.afterRead off, w)

/-! ### Writes -/

/-- A register's word after a write of `v`: RW fields take it, W1C bits clear; where VALID is W1C, clearing it clears MORE (R13). -/
def RegRow.put (r : RegRow) (old v : Word) : Word :=
  let w := ((old &&& ~~~(v &&& r.w1c)) &&& ~~~r.rw) ||| (v &&& r.rw)
  if v.msb && r.w1c.msb && r.ro.getLsbD 30 then w &&& ~~~0x40000000#32 else w

/-- The word a bank holds after a write; an offset that holds no register ignores it (R12). -/
def bankWrite (rows : List RegRow) (off : Nat) (old v : Word) : Word := match findRow rows off with
  | some r => r.put old v
  | none => old

/-- The bits of a written word that clear: not those a hardware event sets in the cycle of the write (R14). -/
def clears (rows : List RegRow) (off : Nat) (evs v : Word) : Word := match findRow rows off with
  | some r => v &&& ~~~(evs &&& r.w1c)
  | none => v

def Core.putBank (k : Core) (now : Count) (o : Nat) (v : Word) : Core :=
  k.setW o (bankWrite winRows o (k.w o) (clears winRows o (k.evs.bits now o) v))
def State.putBank (s : State) (off : Nat) (v : Word) : State :=
  s.setDev off (bankWrite devRows off (s.devW off) (clears devRows off (s.evs.bits s.now off) v))

/-- CORE_LOCK_STATE: a written 3 acts as 0. -/
def lockWord (v : Word) : Word :=
  let m := v &&& (v >>> 1) &&& 0x55555555#32
  v &&& ~~~(m ||| (m <<< 1))

/-- The effect of an accepted write of a window register; `hi` is the write latch's word where the write is of 64 bits. DESIGN CHOICE (log
entry 50): CORE_LOCK_OWNER holds what was written, also for a lock that is not HELD. -/
def State.putWin (s : State) (p : Path) (c : CoreId) (o : Nat) (v : Word) (hi : Option Word) : State :=
  let g (f : Core → Core) : State := s.onCore c f
  let q : BitVec 64 := (hi.getD 0) ++ v
  let n := v.toNat
  let s' : State :=
    if o = R.CORE_CTRL then s.coreCtrl c v
    else if o = R.CORE_PM_DATA then g fun k => k.writePm v
    else if o = R.CORE_LOCK_STATE then g fun k => k.setW o (lockWord v)
    else if o = R.CORE_LOCK_WPOS then g fun k => k.putWpos v
    else if o = R.CORE_DBGCMD then s.dbgCmd c (BitVec.ofNat 2 (bits n 17 16)) (bits n 1 0)
    else if o = R.CORE_TRDATA then g fun k => k.putTrData v
    else if o = R.CORE_SPDATA then g fun k => k.putSpData v
    else if o = R.CORE_TRCFG then s.putTrcfg c v
    else if R.TILE_QDATA 0 ≤ o ∧ o ≤ R.TILE_QDATA 3 then g fun k => k.putStage ((o - R.TILE_QDATA 0) / 4) v
    else if o = R.TILE_QSEL then g fun k => k.putQsel c v s.now
    else if o = R.TILE_SROW then g fun k => k.putSrow v
    else if o = R.TILE_XCAP then g fun k => { k.setW R.TILE_XCAP (v &&& 0xFFFFFFF0#32) with xcap := none }
    else if o = R.TILE_DDATA then g fun k => k.putDData v
    else if R.DMA_GUARD 0 ≤ o ∧ o ≤ R.DMA_GUARD 7 then s.putGuard c ((o - R.DMA_GUARD 0) / 4) v
    else if R.MESH_RING 0 ≤ o ∧ o ≤ R.MESH_RPTR 7 then g fun k =>
      -- the ring is exactly as written: what the dispatcher had found is gone (09 R316, R326)
      let r := (o - R.MESH_RING 0) / 8
      (k.putBank s.now o v).setRg r { k.rg r with found := false, stuck := false }
    else if R.DMA_CREDIT 0 ≤ o ∧ o ≤ R.DMA_CREDIT 7 then
      g fun k => k.setW o (BitVec.ofNat 32 (Nat.min (64 * k.gCount ((o - R.DMA_CREDIT 0) / 4)) (n % 2 ^ 20)))
    else if o = R.DMA_VDATA then
      g fun k => ({ k with valid := putGroup k.valid (k.fld F.DMA_VSEL_INDEX) v } : Core).wakeLines c s.now
    else if o = R.DMA_XINV_LO then s.dmaXinv c q
    else if o = R.MESH_SWITCH then
      let s := g fun k => k.putBank s.now o v
      if v.msb then s.armSwitch c (v.truncate 16) else s
    else if o = R.MESH_PDATA then g fun k => k.putPdata v
    else if o = R.MESH_PSNDATA then g fun k => { k with psn := putGroup k.psn (k.fld F.MESH_PSNSEL_INDEX) v }
    else if R.MESH_CONN 0 ≤ o ∧ o ≤ R.MESH_CONN 15 then s.restoreConn c (BitVec.ofNat 4 ((o - R.MESH_CONN 0) / 4)) v
    else if o = R.MESH_MCMD then
      if bits n 31 30 = 1 then s.abandon c (v.truncate 4)
      else if bits n 31 30 = 2 then s.release c (bits n 3 0)
      else s
    else if o = R.FLAG_SET_LO then s.flagReg p c q true
    else if o = R.FLAG_CLR_LO then s.flagReg p c q false
    else if o = R.FLAG_BARCMD then s.barCmd c (bits n 31 30) (v.truncate 4)
    else if o = R.FLAG_SNAP_LO then
      let s := g fun k => k.putBank s.now o v
      (match hi with
      | some h => s.onCore c fun k => k.putBank s.now R.FLAG_SNAP_HI (h &&& 0x3FFFFFFF#32)
      | none => s)
    else
      let s := g fun k => k.putBank s.now o v
      (match hi with
      | some h => s.onCore c fun k => k.putBank s.now (o + 4) h
      | none => s)
  s'.winStep c o

/-- A write of FX_PORTn_CTRL: EN = 0 holds the port DOWN, TRAIN starts its training (12 R399, R424). -/
def State.putPortCtrl (s : State) (n : Nat) (v : Word) : State :=
  if !v.getLsbD 0 then s.disablePort n
  else
    let s := s.setFld (F.FX_PORT_CTRL_EN n) 1
    if v.getLsbD 1 then s.startTraining n else s

/-- A write of HS_RECOV_CMD: GO begins the load of the image, whose verdict is the command RECOVERY_GO; while a load runs GO is
ignored (16 R495). -/
def State.putRecov (s : State) (v : Word) : State :=
  let s := s.setFld F.HS_RECOV_CMD_WRFLASH (b2n (v.getLsbD 30))
  if v.msb ∧ s.fld F.DEV_STATUS_STATE = mRECOVERY ∧ s.fld F.HS_RECOV_STAT_BUSY = 0 then
    let a := (s.devW R.HS_RECOV_ADDR_LO).toNat + 2 ^ 32 * (s.devW R.HS_RECOV_ADDR_HI).toNat
    (s.setFld F.HS_RECOV_STAT_BUSY 1).hostFetch a (Nat.min 1852112 (s.fld F.HS_RECOV_LEN_LEN))
  else s

/-- A write of word m of a context's record: reserved bits stay 0, a record that turns valid or changes starts afresh, and a timer the record
shows armed goes on from its TCOUNT (12 R402). -/
def State.putCtx (s : State) (c m n : Nat) : State :=
  let s := s.setCw c m (n &&& ctxMask m)
  let s := if m = 0 then s.setCtx c Ctx.none else s
  if (m = 0 ∨ m = 6) ∧ bit (s.cw c 6) 31 = true then s.setCtx c { s.ctx c with trev := s.rev - BitVec.ofNat 48 (bits (s.cw c 6) 15 0) } else s

/-- The effect of an accepted write of a device register outside the windows. -/
def State.putDev (s : State) (p : Path) (off : Nat) (v : Word) (hi : Option Word) : State :=
  let q : BitVec 64 := (hi.getD 0) ++ v
  let n := v.toNat
  let r := s.ring s.selRing
  if off = R.SPN_CTRL then s.putSpnCtrl v
  else if off = R.SPN_REST_CMD then (if isHs p then s.addRests (bits n 20 16) (bits n 7 0) else s)
  else if off = R.MT_RMAP_CMD then
    (if v.msb && decide (bits n 27 19 < 320) && decide (bits n 18 0 < 393216) then s.wantRemap (bits n 27 19) (bits n 18 0) true else s)
  else if off = R.LP_RETRAIN then
    (s.setDev R.LP_RETRAIN (s.devW R.LP_RETRAIN ||| v)).setDev R.LP_TRAINED (s.devW R.LP_TRAINED &&& ~~~v)
  else if off = R.MT_XINV_LO then s.mtXinv q
  else if off = R.FX_XINV_LO then s.fxXinv q
  else if off = R.FX_RTDATA then (s.putRt (BitVec.ofNat 16 (s.fld F.FX_RTSEL_DMOD)) v).stepRt
  else if R.FX_CTXDATA 0 ≤ off ∧ off ≤ R.FX_CTXDATA 7 then
    let c := s.fld F.FX_CTXSEL_CTX
    let m := (off - R.FX_CTXDATA 0) / 4
    if 10000 ≤ c then s
    else s.putCtx c m n
  else if R.FX_RED_DATA 0 ≤ off ∧ off ≤ R.FX_RED_DATA 15 then
    let id := s.fld F.FX_RED_SEL_RID
    let x := s.red id
    s.setRed id { x with words := SMap.set (fun _ => (0 : Word)) x.words ((off - R.FX_RED_DATA 0) / 4) v }
  else if (List.range 40).any (fun i => off = R.FX_PORT_CTRL i) then s.putPortCtrl ((off - R.FX_PORT_CTRL 0) / 16) v
  else if off = R.HL_RBASE_LO then
    let h : Word := hi.getD ((r.base >>> 32).truncate 32)
    s.setRing s.selRing { r with base := h ++ v }
  else if off = R.HL_RCFG then s.putRcfg v
  else if off = R.HL_ICOAL then s.setRing s.selRing { r with coal := v }
  else if off = R.HS_CTRL then (if v.getLsbD 0 && s.power.pgood then s.reboot else s)
  else if off = R.HS_RECOV_ADDR_LO then
    let s := s.putBank off (v &&& 0xFFFFFFC0#32)
    (match hi with
    | some h => s.putBank R.HS_RECOV_ADDR_HI h
    | none => s)
  else if off = R.HS_RECOV_CMD then s.putRecov v
  else if off = R.DBG_BEDCMD then s.bedCmd (bits n 4 0) (bits n 31 30)
  else if off = R.DBG_AADDR then s.putBank off (v &&& 0xFFFFFFFC#32)
  else
    let s := s.putBank off v
    (match hi with
    | some h => s.putBank (off + 4) h
    | none => s)

/-- An accepted write at an aligned offset: _HI loads the write latch and changes no register; _LO of the latched pair writes 64 bits
and empties it (R11). -/
def State.putReg (s : State) (p : Path) (off : Nat) (v : Word) : State :=
  if s.absent off then s
  else if isHi off then s.setLatch p { s.latch p with wpair := some (off - 4), wdata := v }
  else
    let l := s.latch p
    let wide := isLo off && l.wpair == some off
    let hi := if wide then some l.wdata else none
    let s := if wide then s.emptyWl p else s
    match winOf off with
    | some (c, o) => if s.hasCore c then s.putWin p c o v hi else s
    | none => if 0x3000000 ≤ off ∧ off < 0x3001000 then s.doorbell (off - 0x3000000) (v.truncate 16) else s.putDev p off v hi

/-- Whether a write reaches its register: a doorbell in every state (15 R469; 16 R505), another register where it is accepted. -/
def State.takesWrite (s : State) (p : Path) (off : Nat) (v : Word) : Bool :=
  (decide (0x3000000 ≤ off) && decide (off < 0x3001000)) || s.accepts p off v

/-- The debug port's access at DBG_AADDR, with the authority of the debug port (19 R545): it ends with DONE or, where it is rejected,
with ERR. -/
def State.debugGo (s : State) : State :=
  let off := (s.devW R.DBG_AADDR).toNat
  let v := s.devW R.DBG_ADATA
  let s := (s.setFld F.DBG_ACMD_DONE 0).setFld F.DBG_ACMD_ERR 0
  if s.fld F.DBG_ACMD_WR = 1 then
    if s.takesWrite .debug off v then ((s.putReg .debug off v).answer .debug false 0).setFld F.DBG_ACMD_DONE 1
    else (s.answer .debug true 0).setFld F.DBG_ACMD_ERR 1
  else
    let (s, w) := s.readReg .debug off
    ((s.answer .debug false w).setDev R.DBG_ADATA w).setFld F.DBG_ACMD_DONE 1

/-- The effect of an accepted write anywhere: a write of DBG_ACMD with GO while DBG_CTRL.EN is 1 starts the engine (19 R545). -/
def State.write (s : State) (p : Path) (off : Nat) (v : Word) : State :=
  if off = R.DBG_ACMD then
    let s := s.putBank off v
    if v.msb ∧ s.fld F.DBG_CTRL_EN = 1 then s.debugGo else s
  else s.putReg p off v

/-- A write on a path: `ACCESS` where it is not accepted (R10). -/
def State.pathWrite (s : State) (p : Path) (off : Nat) (v : Word) : State :=
  s.ack p off (if s.takesWrite p off v then some (s.write p off v) else none)

/-- A read on a path: `ACCESS` where it is not aligned (R10); reads are accepted everywhere (15 R464). -/
def State.pathRead (s : State) (p : Path) (off : Nat) : State :=
  if off % 4 ≠ 0 then s.answer p true 0
  else
    let (s, w) := s.readReg p off
    s.answer p false w

/-! ### Commands -/

/-- REGISTER_WRITE: a write of `width` bytes at an offset; another width or alignment is rejected by the path (R10). -/
def execRegisterWrite (p : Path) (off : BitVec 26) (width : Nat) (v : Word) (s : State) : Out :=
  .next (if width ≠ 4 ∨ off.toNat % 4 ≠ 0 then s.answer p true 0 else s.pathWrite p off.toNat v)

/-- PAIR_LO_READ: a read of a _LO register returns bits [31:0] and loads the read latch (R11). -/
def execPairLoRead (p : Path) (off : BitVec 26) (s : State) : Out := .next (s.pathRead p off.toNat)

/-- PAIR_HI_READ: a read of a _HI register returns the read latch of its pair (R11). -/
def execPairHiRead (p : Path) (off : BitVec 26) (s : State) : Out := .next (s.pathRead p off.toNat)

/-- PAIR_HI_WRITE: a write of a _HI register loads the write latch (R11). -/
def execPairHiWrite (p : Path) (off : BitVec 26) (v : Word) (s : State) : Out := .next (s.pathWrite p off.toNat v)

/-- PAIR_LO_WRITE: a write of a _LO register writes 32 or 64 bits (R11). -/
def execPairLoWrite (p : Path) (off : BitVec 26) (v : Word) (s : State) : Out := .next (s.pathWrite p off.toNat v)

/-- RC_READ: a read returns RC fields and clears them (R13). -/
def execRcRead (p : Path) (off : BitVec 26) (s : State) : Out := .next (s.pathRead p off.toNat)

/-- Whether a host access becomes a packet: the link is UP, and it is an aligned 32-bit access of BAR0 (15 R462, R463). -/
def State.hostReaches (s : State) (off : BitVec 64) (width : Nat) : Bool :=
  s.portState 40 == portUp && width == 4 && off.toNat % 4 == 0 && decide (off.toNat < 0x4000000)

/-- HREG_RD: the module answers a register read packet; the doorbell page reads 0 (15 R461, R469). -/
def execHregRd (tag : BitVec 16) (off : BitVec 64) (width : Nat) (s : State) : Out :=
  if !s.hostReaches off width then .next s
  else
    let (s, w) := s.readReg .brepo off.toNat
    .next ((s.answer .brepo false w).hostSend (.hregCpl tag w false))

/-- HREG_WR: the module performs a register write packet and answers it; a write into the doorbell page comes as DB, which has no answer
(15 R461, R463). The data word of a write's answer is a free value (log entry 4). -/
def execHregWr (tag : BitVec 16) (off : BitVec 64) (width : Nat) (v : Word) (s : State) : Out :=
  let o := off.toNat
  if !s.hostReaches off width then .next s
  else if 0x3000000 ≤ o ∧ o < 0x3001000 then .next (s.doorbell (o - 0x3000000) (v.truncate 16))
  else
    let ok := s.takesWrite .brepo o v
    let s := s.pathWrite .brepo o v
    .next ({ s.hostSend (.hregCpl tag (Config.freeWord s.free) (!ok)) with free := s.free + 1 })

/-- SIDEBAND_WRITE: an I3C or I2C transfer writes a register; a rejected write is NACKed. The sideband runs on STBY (18 R542). -/
def execSidebandWrite (off : BitVec 26) (v : Word) (s : State) : Out :=
  if !s.power.stby then .next s
  else .next (if off.toNat % 4 ≠ 0 then s.answer .sideband true 0 else s.pathWrite .sideband off.toNat v)

/-- DEBUG_ACCESS: a write of DBG_ACMD with GO performs one access; a GO while DBG_CTRL.EN is 0 is ignored (19 R545). -/
def execDebugAccess (p : Path) (wr : Bool) (s : State) : Out :=
  .next (s.pathWrite p R.DBG_ACMD (BitVec.ofNat 32 (2 ^ 31 + b2n wr * 2 ^ 30)))

end Sys2Proof.Machine
end

