-- ==== Sys2Proof/Machine/Branch.lean ====
section
/-! DEFINITION. Control transfer, the return stack, hardware loops, thread registers, traps by instruction and the timer
registers (03 R96 to R102, R110, R124; 04 R137, R146, R147, R149, R151, R152). -/

namespace Sys2Proof.Machine

/-- The target of a BRANCH at `pc` (04 R147). -/
def branchTarget (pc : BitVec 15) (a : Bool) (t15 : BitVec 15) : BitVec 15 := if a then t15 else pc + t15

/-- Push a return address and branch (03 R96). -/
def callTo (c : CoreId) (t : Thr) (len : BitVec 15) (target : BitVec 15) (s : State) : Res :=
  let x := s.th c t
  if 16 ≤ x.rs.length then .fault s 0x07 0 0
  else .jump (s.onTh c t fun x => { x with rs := (x.pc + len) :: x.rs }) target

/-- BR: branch relative (R147). -/
def execBr (c : CoreId) (t : Thr) (t15 : BitVec 15) (s : State) : Out :=
  issue c t (.br c t t15) (fun s => .jump s (branchTarget (s.th c t).pc false t15)) s

/-- JMP: branch to an absolute target (R147). -/
def execJmp (c : CoreId) (t : Thr) (t15 : BitVec 15) (s : State) : Out :=
  issue c t (.jmp c t t15) (fun s => .jump s t15) s

/-- BCC: branch when the condition holds; condition 15 is CALL (R147, R148). -/
def execBcc (c : CoreId) (t : Thr) (cc : BitVec 4) (a : Bool) (t15 : BitVec 15) (s : State) : Out :=
  issue c t (.bcc c t cc a t15) (fun s =>
    let x := s.th c t
    if cc = 15 then callTo c t 2 (branchTarget x.pc a t15) s
    else if condHolds x cc then .jump s (branchTarget x.pc a t15) else .seq s) s

/-- CALL: push the return address and branch (R147, R96). -/
def execCall (c : CoreId) (t : Thr) (a : Bool) (t15 : BitVec 15) (s : State) : Out :=
  issue c t (.call c t a t15) (fun s => callTo c t 2 (branchTarget (s.th c t).pc a t15) s) s

/-- JR: jump to a register's low 15 bits (R146). -/
def execJr (c : CoreId) (t : Thr) (r : Reg) (s : State) : Out :=
  issue c t (.jr c t r) (fun s => .jump s (((s.th c t).gr r).truncate 15)) s

/-- CALLR: push the return address and jump to a register target (R96). -/
def execCallr (c : CoreId) (t : Thr) (r : Reg) (s : State) : Out :=
  issue c t (.callr c t r) (fun s => callTo c t 1 (((s.th c t).gr r).truncate 15) s) s

/-- RET: pop the return stack and branch to it (R96). -/
def execRet (c : CoreId) (t : Thr) (s : State) : Out :=
  issue c t (.ret c t) (fun s =>
    match (s.th c t).rs with
    | [] => .fault s 0x07 1 0
    | a :: rest => .jump (s.onTh c t fun x => { x with rs := rest }) a) s

/-- LOOP: start a loop level; a count of 0 branches past the body, one slot dearer (R98, R100, R149). -/
def execLoop (c : CoreId) (t : Thr) (lv : BitVec 2) (gs : Reg) (e : BitVec 15) (s : State) : Out :=
  issue c t (.loop c t lv gs e) (fun s =>
    let x := s.th c t
    let ls := x.pc + 2
    if x.st bIT then .fault s 0x09 2 (lv.zeroExtend 32)
    else if x.st (16 + lv.toNat) then .fault s 0x09 0 (lv.zeroExtend 32)
    else if e.toNat < ls.toNat then .fault s 0x09 1 (lv.zeroExtend 32)
    else if x.gr gs = 0 then
      .jump (s.onTh c t fun x => { x with next := s.now + 8 })
        (e + 1 + BitVec.ofNat 15 (nExt (pmGet (s.core c).pm e)))
    else
      .seq (s.onTh c t fun x =>
        ({ x with
          ls := SMap.set (fun _ => 0) x.ls lv.toNat ls
          le := SMap.set (fun _ => 0) x.le lv.toNat e
          lc := SMap.set (fun _ => 0) x.lc lv.toNat (x.gr gs) }).setSt (16 + lv.toNat) true)) s

/-- LBRK: deactivate levels lv to 3 (R101). -/
def execLbrk (c : CoreId) (t : Thr) (lv : BitVec 2) (s : State) : Out :=
  issue c t (.lbrk c t lv) (fun s =>
    .seq (s.onTh c t fun x =>
      (List.range 4).foldl (fun x n => if n < lv.toNat then x
        else ({ x with lc := SMap.set (fun _ => 0) x.lc n 0 }).setSt (16 + n) false) x)) s

/-- The thread register of an MFT or MTT index (R151). -/
def trRead (k : Core) (t : Thr) (idx : Nat) : Word :=
  let x := k.th t
  if idx = 0 then x.epc.zeroExtend 32
  else if idx = 1 then x.cause
  else if idx = 2 then x.faddr
  else if idx = 3 then (k.tvec t).zeroExtend 32
  else if idx < 8 then (SMap.get (fun _ => (0 : BitVec 15)) x.ls (idx - 4)).zeroExtend 32
  else if idx < 12 then (SMap.get (fun _ => (0 : BitVec 15)) x.le (idx - 8)).zeroExtend 32
  else SMap.get (fun _ => 0) x.lc (idx - 12)

/-- Write the thread register of an index; CAUSE keeps its reserved bits 0. -/
def trWrite (k : Core) (t : Thr) (idx : Nat) (v : Word) : Core :=
  if idx = 3 then k.setW (R.CORE_TH_TVEC t.toNat) (v &&& 0x7FFF)
  else k.onTh t fun x =>
    if idx = 0 then { x with epc := v.truncate 15 }
    else if idx = 1 then { x with cause := v &&& 0xC0FFFFFF#32 }
    else if idx = 2 then { x with faddr := v }
    else if idx < 8 then { x with ls := SMap.set (fun _ => 0) x.ls (idx - 4) (v.truncate 15) }
    else if idx < 12 then { x with le := SMap.set (fun _ => 0) x.le (idx - 8) (v.truncate 15) }
    else { x with lc := SMap.set (fun _ => 0) x.lc (idx - 12) v }

/-- MFT: read a thread register (R151). -/
def execMft (c : CoreId) (t : Thr) (gd : Reg) (idx : BitVec 4) (s : State) : Out :=
  issue c t (.mft c t gd idx) (fun s => .seq (s.putG c t gd (trRead (s.core c) t idx.toNat) 1)) s

/-- MTT: write a thread register (R151). -/
def execMtt (c : CoreId) (t : Thr) (gs : Reg) (idx : BitVec 4) (s : State) : Out :=
  issue c t (.mtt c t gs idx) (fun s => .seq (s.onCore c fun k => trWrite k t idx.toNat ((k.th t).gr gs))) s

/-- TRAP: raise SOFT with an immediate (R152). -/
def execTrap (c : CoreId) (t : Thr) (imm : BitVec 9) (s : State) : Out :=
  issue c t (.trap c t imm) (fun s => .fault s 0x0C (imm.truncate 8) (imm.zeroExtend 32)) s

/-- RESERVED_ENCODING: ILLEGAL with the head word (R137). -/
def execReservedEncoding (c : CoreId) (t : Thr) (head : PWord) (ext : List PWord) (s : State) : Out :=
  if ext.length = nExt head ∧ decodeWords c t head ext = none then
    issue c t (.reservedEncoding c t head ext) (fun s => .fault s 0x01 0 (head.zeroExtend 32)) s
  else .refused .illFormed

/-- HALT: the thread enters HALTED (R120). -/
def execHalt (c : CoreId) (t : Thr) (s : State) : Out :=
  issue c t (.halt c t) (fun s => .seq (s.onTh c t fun x => { x with state := .halted })) s

/-- SETTC: arm the timer; a count of 0 fires in the issue cycle (R110, R111). -/
def execSettc (c : CoreId) (t : Thr) (gs : Reg) (s : State) : Out :=
  issue c t (.settc c t gs) (fun s =>
    .seq (s.onTh c t fun x =>
      let n := x.gr gs
      (({ x with tcmp := s.now + n.zeroExtend 60 }).setSt bTA (n != 0)).setSt bTF (n == 0))) s

/-- CLRTC: clear TA and TF (R110). -/
def execClrtc (c : CoreId) (t : Thr) (s : State) : Out :=
  issue c t (.clrtc c t) (fun s => .seq (s.onTh c t fun x => (x.setSt bTA false).setSt bTF false)) s

end Sys2Proof.Machine
end

