-- ==== Sys2Proof/Machine/Remote.lean ====
section
/-! DEFINITION. Remote memory traffic at a home and at a source (11 R370, R373; 12 R419, R421). -/

namespace Sys2Proof.Machine

/-- A PEER context that carries a job's traffic, with the job. -/
def withPeer (s : State) (n : BitVec 14) (f : Nat → Job → Out) : Out :=
  if s.ctxType n.toNat = ctxPeer then
    match s.job (s.ctxJob n.toNat) with
    | some j => f n.toNat j
    | none => .next s
  else .next s

/-- Take a packet from what a context has accepted. -/
def State.takeRx (s : State) (n : Nat) (p : Packet) : State := s.setCtx n { s.ctx n with rx := (s.ctx n).rx.erase p }

/-- The stack whose stager walks for a half of the fabric complex: of region 0 for the west half, of region 4 for the east half; the half is that
of the route's PRI port (R360; 12 R389, R419). -/
def State.fabStack (s : State) (n : Nat) : Nat := if bits (s.route (s.ctxRmod n)).toNat 21 16 < 20 then 0 else 4

/-- The home handles the oldest FILL of a context: it translates under its own tables, waits on a fault or for an LPDDR6 channel, reads
the line as at the start of the pass, and replies; `e` says what the controller finds (R373, R380; 10 R344; 12 R419). -/
def State.serveFill (s : State) (n : Nat) (j : Job) (le : LpErrs) : State :=
  match s.oldFill n with
  | none => s
  | some p =>
    let va := p.addr.toNat % 2 ^ 52
    let (cache, e) := cacheXlate s.fabX 4096 (s.fabStack n) j (BitVec.ofNat 36 (va / 65536))
    let base := pteFrame e + va % 65536 / 4096 * 4096
    if (pteFault e false).isSome then s.toHeadstock (.xlate j.id (BitVec.ofNat 36 (va / 65536)) false none)
    else if pteModule e != s.ownModule || !s.lpReady base then s
    else
      let s := ({ s with fabX := cache } : State).takeRx n p
      let s := s.lineErrs base (List.range 64) j.id le
      let rd := (List.range 64).map fun i => s.oldBurst (base + 64 * i)
      let first := va / 64 % 64
      let data := (List.range 64).flatMap fun i => (rd.getD ((first + i) % 64) ([], false)).1
      let aux := (List.range 64).foldl (fun a i => if (rd.getD i ([], false)).2 || le.ue.getLsbD i then a + 2 ^ i else a) 0
      s.originate n 4 aux (va / 4096 * 4096) data

/-- REMOTE_READ: a home serves a remote read from the shadow or the live page (R373). -/
def execRemoteRead (ctx : BitVec 14) (e : LpErrs) (s : State) : Out :=
  withPeer s ctx fun n j => .next (s.serveFill n j e)

/-- FILL: a home handles a FILL and replies with FILL_DATA (12 R419). -/
def execFill (ctx : BitVec 14) (e : LpErrs) (s : State) : Out :=
  withPeer s ctx fun n j => .next (s.serveFill n j e)

/-- The WRITE packets up to the WRITE_END `p` are taken in, with the count it names (12 R421). -/
def State.takeWrites (s : State) (n : Nat) (j : Job) (p : Packet) : State :=
  let rx := (s.ctx n).rx
  let ws := (rx.takeWhile fun q => q != p).filter fun q => q.op == 5
  let src := s.ctxRmod n
  let s := s.setCtx n { s.ctx n with rx := rx.filter fun q => q != p && !ws.contains q }
  s.onJob j.id fun j =>
    { j with
      recv := j.recv ++ ws.map fun q =>
        { modl := src, va := q.addr, mask := q.aux.truncate 16, poison := q.aux.getLsbD 16, data := wordsOfBytes q.data }
      ends := j.ends ++ [(src, p.addr.toNat)] }

/-- A home has applied the module's writes: its DIRTY lines become CLEAN, or INVALID where another module wrote their page; the written bursts
of a line that a fill is still to complete stay with the deferred writes, which the fill merges (R369, R379; 12 R421). -/
def State.homeAcks (s : State) (n : Nat) (j : Job) (p : Packet) : State :=
  let home := s.ctxRmod n
  let s := s.takeRx n p
  let mine (l : StageLine) : Bool := l.job == j.id && lineModule l.addr == home && !l.wrote.isEmpty
  let kept := (s.lines.filter fun l => mine l && l.st == .filling).flatMap fun l => l.deferred
  let s := s.dropLines fun l => mine l && l.st == .dirty && s.inUnion j (BitVec.ofNat 36 (l.vline.toNat / 16))
  let lines := s.lines.map fun l => if mine l then { l with wrote := [], st := if l.st = .dirty then .clean else l.st } else l
  ({ s with lines := lines } : State).onJob j.id fun j =>
    { j with deferred := j.deferred ++ kept, ackEnd := if j.ackEnd.contains home then j.ackEnd else j.ackEnd ++ [home] }

/-- WRITE_END: a home takes in a source's WRITE packets up to its WRITE_END, with the count it names (12 R421). -/
def execWriteEnd (ctx : BitVec 14) (s : State) : Out :=
  withPeer s ctx fun n j =>
    match (s.ctx n).rx.find? (fun p => p.op == 6) with
    | none => .next s
    | some p => .next (s.takeWrites n j p)

/-- WRITE_ACK: a source learns that a home has applied its writes: each of its DIRTY lines of that home becomes CLEAN, or INVALID where
another module wrote its page (R379; 12 R421). -/
def execWriteAck (ctx : BitVec 14) (s : State) : Out :=
  withPeer s ctx fun n j =>
    match (s.ctx n).rx.find? (fun p => p.op == 7) with
    | none => .next s
    | some p =>
      .next (s.homeAcks n j p)

end Sys2Proof.Machine
end

