-- ==== Sys2Proof/Machine/Scalar.lean ====
section
/-! DEFINITION. Scalar arithmetic, compares, condition set, immediates, division and the status word (03 R87, R88; 04 R139
to R142, R148). -/

namespace Sys2Proof.Machine

/-- Write gd from the thread's registers, ready `n` slots later (03 R87). -/
def alu (c : CoreId) (t : Thr) (d : Reg) (n : Nat) (f : Thread → Word) (s : State) : Res :=
  .seq (s.putG c t d (f (s.th c t)) n)

/-- Division: 8 slots, in which the thread issues nothing else (03 R87, R88). -/
def divide (c : CoreId) (t : Thr) (d : Reg) (f : Thread → Word) (s : State) : Res :=
  .seq ((s.putG c t d (f (s.th c t)) 8).onTh c t fun x => { x with next := s.now + 32 })

/-- Quotients and remainders of 03 R88. -/
def divS (a b : Word) : Word := if b = 0 then 0xFFFFFFFF else wordOf (a.toInt.tdiv b.toInt)
def divU (a b : Word) : Word := if b = 0 then 0xFFFFFFFF else BitVec.ofNat 32 (a.toNat / b.toNat)
def remS (a b : Word) : Word := if b = 0 then a else wordOf (a.toInt.tmod b.toInt)
def remU (a b : Word) : Word := if b = 0 then a else BitVec.ofNat 32 (a.toNat % b.toNat)

/-- The high words of the product. -/
def mulHS (a b : Word) : Word := wordOf (a.toInt * b.toInt / 2 ^ 32)
def mulHU (a b : Word) : Word := BitVec.ofNat 32 (a.toNat * b.toNat / 2 ^ 32)

/-- Set the flags of a compare: `a - b` (04 R148). -/
def compare (c : CoreId) (t : Thr) (f : Thread → Word × Word) (s : State) : Res :=
  .seq (s.onTh c t fun x =>
    let (r, b, v) := subFlags (f x).1 (f x).2 false
    x.setFlags r b v)

/-- Write gd and set the flags (ADDC and SUBC). -/
def aluFlags (c : CoreId) (t : Thr) (d : Reg) (f : Thread → Word × Bool × Bool) (s : State) : Res :=
  let r := f (s.th c t)
  .seq ((s.putG c t d r.1 1).onTh c t fun x => x.setFlags r.1 r.2.1 r.2.2)

/-- The fields of the status word that MTS writes (CORE_THk_STATUS, marked M). -/
abbrev stM : Word := 0x00003F0F

/-- ADD: ga plus gb (R87). -/
def execAdd (c : CoreId) (t : Thr) (gd ga gb : Reg) (s : State) : Out :=
  issue c t (.add c t gd ga gb) (alu c t gd 1 fun x => x.gr ga + x.gr gb) s

/-- SUB: ga minus gb (R87). -/
def execSub (c : CoreId) (t : Thr) (gd ga gb : Reg) (s : State) : Out :=
  issue c t (.sub c t gd ga gb) (alu c t gd 1 fun x => x.gr ga - x.gr gb) s

/-- AND: bitwise AND (R87). -/
def execAnd (c : CoreId) (t : Thr) (gd ga gb : Reg) (s : State) : Out :=
  issue c t (.and c t gd ga gb) (alu c t gd 1 fun x => x.gr ga &&& x.gr gb) s

/-- OR: bitwise OR (R87). -/
def execOr (c : CoreId) (t : Thr) (gd ga gb : Reg) (s : State) : Out :=
  issue c t (.or c t gd ga gb) (alu c t gd 1 fun x => x.gr ga ||| x.gr gb) s

/-- XOR: bitwise XOR (R87). -/
def execXor (c : CoreId) (t : Thr) (gd ga gb : Reg) (s : State) : Out :=
  issue c t (.xor c t gd ga gb) (alu c t gd 1 fun x => x.gr ga ^^^ x.gr gb) s

/-- MUL: the low 32 bits of the product (R87). -/
def execMul (c : CoreId) (t : Thr) (gd ga gb : Reg) (s : State) : Out :=
  issue c t (.mul c t gd ga gb) (alu c t gd 2 fun x => x.gr ga * x.gr gb) s

/-- SHL: shift left by gb[4:0] (R139). -/
def execShl (c : CoreId) (t : Thr) (gd ga gb : Reg) (s : State) : Out :=
  issue c t (.shl c t gd ga gb) (alu c t gd 1 fun x => x.gr ga <<< ((x.gr gb).toNat % 32)) s

/-- SHR: logical shift right (R139). -/
def execShr (c : CoreId) (t : Thr) (gd ga gb : Reg) (s : State) : Out :=
  issue c t (.shr c t gd ga gb) (alu c t gd 1 fun x => x.gr ga >>> ((x.gr gb).toNat % 32)) s

/-- SAR: arithmetic shift right (R139). -/
def execSar (c : CoreId) (t : Thr) (gd ga gb : Reg) (s : State) : Out :=
  issue c t (.sar c t gd ga gb) (alu c t gd 1 fun x => (x.gr ga).sshiftRight ((x.gr gb).toNat % 32)) s

/-- ROT: rotate right (R139). -/
def execRot (c : CoreId) (t : Thr) (gd ga gb : Reg) (s : State) : Out :=
  issue c t (.rot c t gd ga gb) (alu c t gd 1 fun x => (x.gr ga).rotateRight ((x.gr gb).toNat % 32)) s

/-- MIN: signed minimum (R139). -/
def execMin (c : CoreId) (t : Thr) (gd ga gb : Reg) (s : State) : Out :=
  issue c t (.min c t gd ga gb) (alu c t gd 1 fun x => if (x.gr ga).toInt ≤ (x.gr gb).toInt then x.gr ga else x.gr gb) s

/-- MAX: signed maximum (R139). -/
def execMax (c : CoreId) (t : Thr) (gd ga gb : Reg) (s : State) : Out :=
  issue c t (.max c t gd ga gb) (alu c t gd 1 fun x => if (x.gr ga).toInt ≤ (x.gr gb).toInt then x.gr gb else x.gr ga) s

/-- ADDC: add with carry, flags (R148). -/
def execAddc (c : CoreId) (t : Thr) (gd ga gb : Reg) (s : State) : Out :=
  issue c t (.addc c t gd ga gb) (aluFlags c t gd fun x => addFlags (x.gr ga) (x.gr gb) (x.st bC)) s

/-- SUBC: subtract with borrow, flags (R148). -/
def execSubc (c : CoreId) (t : Thr) (gd ga gb : Reg) (s : State) : Out :=
  issue c t (.subc c t gd ga gb) (aluFlags c t gd fun x => subFlags (x.gr ga) (x.gr gb) (x.st bC)) s

/-- MULH: signed high product (R87). -/
def execMulh (c : CoreId) (t : Thr) (gd ga gb : Reg) (s : State) : Out :=
  issue c t (.mulh c t gd ga gb) (alu c t gd 2 fun x => mulHS (x.gr ga) (x.gr gb)) s

/-- MULHU: unsigned high product (R87). -/
def execMulhu (c : CoreId) (t : Thr) (gd ga gb : Reg) (s : State) : Out :=
  issue c t (.mulhu c t gd ga gb) (alu c t gd 2 fun x => mulHU (x.gr ga) (x.gr gb)) s

/-- DIV: signed quotient (R88). -/
def execDiv (c : CoreId) (t : Thr) (gd ga gb : Reg) (s : State) : Out :=
  issue c t (.div c t gd ga gb) (divide c t gd fun x => divS (x.gr ga) (x.gr gb)) s

/-- DIVU: unsigned quotient (R88). -/
def execDivu (c : CoreId) (t : Thr) (gd ga gb : Reg) (s : State) : Out :=
  issue c t (.divu c t gd ga gb) (divide c t gd fun x => divU (x.gr ga) (x.gr gb)) s

/-- REM: signed remainder (R88). -/
def execRem (c : CoreId) (t : Thr) (gd ga gb : Reg) (s : State) : Out :=
  issue c t (.rem c t gd ga gb) (divide c t gd fun x => remS (x.gr ga) (x.gr gb)) s

/-- REMU: unsigned remainder (R88). -/
def execRemu (c : CoreId) (t : Thr) (gd ga gb : Reg) (s : State) : Out :=
  issue c t (.remu c t gd ga gb) (divide c t gd fun x => remU (x.gr ga) (x.gr gb)) s

/-- MOV: copy (R140). -/
def execMov (c : CoreId) (t : Thr) (gd ga : Reg) (s : State) : Out :=
  issue c t (.mov c t gd ga) (alu c t gd 1 fun x => x.gr ga) s

/-- NOT: complement (R140). -/
def execNot (c : CoreId) (t : Thr) (gd ga : Reg) (s : State) : Out :=
  issue c t (.not c t gd ga) (alu c t gd 1 fun x => ~~~ x.gr ga) s

/-- CMP: flags from ga - gb (R140). -/
def execCmp (c : CoreId) (t : Thr) (ga gb : Reg) (s : State) : Out :=
  issue c t (.cmp c t ga gb) (compare c t fun x => (x.gr ga, x.gr gb)) s

/-- ADDI: add a sign-extended 14-bit immediate (R141). -/
def execAddi (c : CoreId) (t : Thr) (gd ga : Reg) (imm : BitVec 14) (s : State) : Out :=
  issue c t (.addi c t gd ga imm) (alu c t gd 1 fun x => x.gr ga + imm.signExtend 32) s

/-- CMPI: flags from ga minus a sign-extended 14-bit immediate (R141). -/
def execCmpi (c : CoreId) (t : Thr) (ga : Reg) (imm : BitVec 14) (s : State) : Out :=
  issue c t (.cmpi c t ga imm) (compare c t fun x => (x.gr ga, imm.signExtend 32)) s

/-- MOVI: a sign-extended 20-bit immediate (R142). -/
def execMovi (c : CoreId) (t : Thr) (gd : Reg) (imm : BitVec 20) (s : State) : Out :=
  issue c t (.movi c t gd imm) (alu c t gd 1 fun _ => imm.signExtend 32) s

/-- MOVIL: a 32-bit immediate (R142). -/
def execMovil (c : CoreId) (t : Thr) (gd : Reg) (imm : BitVec 32) (s : State) : Out :=
  issue c t (.movil c t gd imm) (alu c t gd 1 fun _ => imm) s

/-- NOP: its slot and nothing else (R146). -/
def execNop (c : CoreId) (t : Thr) (s : State) : Out := issue c t (.nop c t) (fun s => .seq s) s

/-- RDCYC: the cycle counter of the issue cycle into gd and gd + 1; into g7 it faults (R87). -/
def execRdcyc (c : CoreId) (t : Thr) (gd : Reg) (s : State) : Out :=
  issue c t (.rdcyc c t gd) (fun s =>
    if gd = 7 then .fault s 0x01 0 ((headOf (.rdcyc c t gd)).zeroExtend 32)
    else .seq ((s.putG c t gd (s.now.extractLsb' 0 32) 1).putG c t (gd + 1) ((s.now.extractLsb' 32 28).zeroExtend 32) 1)) s

/-- MFS: the status word (R87). -/
def execMfs (c : CoreId) (t : Thr) (gd : Reg) (s : State) : Out :=
  issue c t (.mfs c t gd) (alu c t gd 1 fun x => x.sw) s

/-- MTS: the writable fields of the status word (R87, CORE_THk_STATUS). -/
def execMts (c : CoreId) (t : Thr) (gs : Reg) (s : State) : Out :=
  issue c t (.mts c t gs) (fun s =>
    .seq (s.onTh c t fun x => { x with sw := (x.sw &&& ~~~stM) ||| (x.gr gs &&& stM) })) s

/-- SETCC: 1 where the condition holds, else 0 (R87, R148). -/
def execSetcc (c : CoreId) (t : Thr) (gd : Reg) (cc : BitVec 4) (s : State) : Out :=
  issue c t (.setcc c t gd cc) (alu c t gd 1 fun x => if condHolds x cc then 1 else 0) s

end Sys2Proof.Machine
end

