-- ==== Sys2Proof/Machine/Vector.lean ====
section
/-! DEFINITION. The vector unit (05 R190 to R196; 04 R153, R154). -/

namespace Sys2Proof.Machine

/-- The floating-point and integer formats of FMT (04 R154). -/
def vF (f : BitVec 3) : Option FFmt :=
  match f.toNat with
  | 0 => some fp32
  | 1 => some fp64
  | 2 => some bf16
  | 3 => some fp16
  | _ => none

def vI (f : BitVec 3) : IFmt :=
  match f.toNat with
  | 5 => int8
  | 6 => uint8
  | _ => int32

/-- The width of a lane. -/
def vW (f : BitVec 3) : Nat := match vF f with | some g => g.width | none => (vI f).w

/-- The lanes of a vector register, lowest first. -/
def lanesOf (w : Nat) (v : BitVec 512) : List Nat := (List.range (512 / w)).map fun i => (v.toNat >>> (w * i)) % 2 ^ w

/-- The register lanes spell. -/
def ofLanes (w : Nat) (xs : List Nat) : BitVec 512 := BitVec.ofNat 512 (xs.foldr (fun x acc => x % 2 ^ w + 2 ^ w * acc) 0)

/-- A lane operation of two operands: by values in a floating-point format, by wrapped integers otherwise (R190). -/
def lane2 (f : BitVec 3) (ff : FFmt → Num → Num → Nat × Nat) (fi : IFmt → Int → Int → Int) (a b : Nat) : Nat × Nat :=
  match vF f with
  | some g => ff g (g.unpack a) (g.unpack b)
  | none => ((vI f).wrap (fi (vI f) ((vI f).val a) ((vI f).val b)), 0)

/-- Pick one of two values: default NaN where either is a NaN (R190). -/
def pickN (g : FFmt) (first : Bool) (a b : Num) : Nat × Nat :=
  if a.isNaN || b.isNaN then g.nanOf [a, b] else g.ofN rne 0 (if first then a else b)

def laneAdd (f : BitVec 3) : Nat → Nat → Nat × Nat := lane2 f FFmt.addN fun _ a b => a + b
def laneSub (f : BitVec 3) : Nat → Nat → Nat × Nat := lane2 f (fun g a b => g.addN a b.neg) fun _ a b => a - b
def laneMul (f : BitVec 3) : Nat → Nat → Nat × Nat := lane2 f FFmt.mulN fun _ a b => a * b
def laneMin (f : BitVec 3) : Nat → Nat → Nat × Nat := lane2 f (fun g a b => pickN g (ordN a b) a b) fun _ a b => min a b
def laneMax (f : BitVec 3) : Nat → Nat → Nat × Nat := lane2 f (fun g a b => pickN g (ordN b a) a b) fun _ a b => max a b

def laneDiv (f : BitVec 3) : Nat → Nat → Nat × Nat := lane2 f FFmt.divN fun _ a _ => a

/-- The fused multiply-add and the root of a floating-point lane (R190). -/
def laneFma (f : BitVec 3) (a b c : Nat) : Nat × Nat :=
  match vF f with
  | some g => g.fmaN (g.unpack a) (g.unpack b) (g.unpack c)
  | none => (0, 0)

def laneSqrt (f : BitVec 3) (a : Nat) : Nat × Nat :=
  match vF f with
  | some g => g.sqrtN (g.unpack a)
  | none => (a, 0)

/-- VABS and VNEG: the sign bit of a number; a NaN gives the default NaN. -/
def laneSign (f : BitVec 3) (neg : Bool) (a : Nat) : Nat × Nat :=
  match vF f with
  | some g =>
    let x := g.unpack a
    if x.isNaN then g.nanOf [x]
    else (g.signed (neg && !bit a (g.width - 1)) (a % 2 ^ (g.width - 1)), 0)
  | none => ((vI f).wrap (if neg then -((vI f).val a) else ((vI f).val a).natAbs), 0)

/-- A relation: all ones or 0. A NaN makes it false; NV for any NaN lane, or only a signalling one (R191). -/
def laneRel (f : BitVec 3) (anyNaN : Bool) (rf : Num → Num → Bool) (ri : Int → Int → Bool) (a b : Nat) : Nat × Nat :=
  let ones (x : Bool) : Nat := if x then 2 ^ vW f - 1 else 0
  match vF f with
  | some g =>
    let x := g.unpack a; let y := g.unpack b
    if x.isNaN || y.isNaN then (0, if anyNaN || x.isSig || y.isSig then flNV else 0) else (ones (rf x y), 0)
  | none => (ones (ri ((vI f).val a) ((vI f).val b)), 0)

/-- A lane conversion (R174, R175, R191). -/
def laneCvt (src dst : BitVec 3) (mode r a : Nat) : Nat × Nat :=
  let v := match vF src with | some g => g.unpack a | none => numOfInt ((vI src).val a)
  match vF dst with
  | some g => g.ofN mode r v
  | none => (vI dst).ofN mode r v

/-- The flags all lanes raise together. -/
def laneFlags (xs : List (Nat × Nat)) : Nat := xs.foldl (fun a x => a ||| x.2) 0

/-- The lowest lane that raises NV. -/
def badLane (xs : List (Nat × Nat)) : Option Nat := xs.findIdx? fun x => hasNV x.2

/-- Write lanes to vd: with TNV = 1 an invalid lane faults and nothing is written (R196); else the flags it raises become
sticky (R194). Ready `lat` slots later. -/
def vwrite (c : CoreId) (t : Thr) (d : Reg) (w lat : Nat) (xs : List Nat) (fl : Nat) (bad : Option Nat) (s : State) : Res :=
  if (s.th c t).st bTNV && bad.isSome then .fault s 0x0D 0 (BitVec.ofNat 32 (bad.getD 0))
  else .seq ((s.putV c t d (ofLanes w xs) lat).onTh c t fun x => { x with sw := x.sw ||| BitVec.ofNat 32 (fl <<< 8) })

/-- A lane-by-lane operation of two registers. -/
def vmap2 (c : CoreId) (t : Thr) (f : BitVec 3) (d a b : Reg) (lat : Nat) (op : Nat → Nat → Nat × Nat) (s : State) : Res :=
  let x := s.th c t
  let r := List.zipWith op (lanesOf (vW f) (x.vr a)) (lanesOf (vW f) (x.vr b))
  vwrite c t d (vW f) lat (r.map Prod.fst) (laneFlags r) (badLane r) s

/-- A lane-by-lane operation of one register. -/
def vmap1 (c : CoreId) (t : Thr) (f : BitVec 3) (d a : Reg) (lat : Nat) (op : Nat → Nat × Nat) (s : State) : Res :=
  vmap2 c t f d a a lat (fun x _ => op x) s

/-- A lane-by-lane operation of three registers. -/
def vmap3 (c : CoreId) (t : Thr) (f : BitVec 3) (d a b e : Reg) (lat : Nat) (op : Nat → Nat → Nat → Nat × Nat) (s : State) : Res :=
  let x := s.th c t
  let r := List.zipWith (fun p z => op p.1 p.2 z) (List.zip (lanesOf (vW f) (x.vr a)) (lanesOf (vW f) (x.vr b)))
    (lanesOf (vW f) (x.vr e))
  vwrite c t d (vW f) lat (r.map Prod.fst) (laneFlags r) (badLane r) s

/-- An FP64 add, multiply or VFMA holds the next of them back 2 slots (R193). -/
def spaced (c : CoreId) (t : Thr) (f : BitVec 3) : Res → Res
  | .seq s => if f = 1 then .seq (s.onTh c t fun x => { x with fp64 := s.now + 8 }) else .seq s
  | r => r

/-- A division or root: the thread issues nothing else until it completes (R193). -/
def blocking (c : CoreId) (t : Thr) (n : Nat) : Res → Res
  | .seq s => .seq (s.onTh c t fun x => { x with next := s.now + BitVec.ofNat 60 (4 * n) })
  | r => r

/-- Latencies of R193. -/
def latArith (f : BitVec 3) : Nat := if f = 1 then 4 else 2
def latDiv (f : BitVec 3) : Nat := if f = 1 then 16 else 8

/-- VRSUM and VRMAX: the tree's result in lane 0, 0 in the other lanes (R192). -/
def vtree (c : CoreId) (t : Thr) (f : BitVec 3) (d a : Reg) (op : Nat → Nat → Nat × Nat) (s : State) : Res :=
  let ls := lanesOf (vW f) ((s.th c t).vr a)
  let (v, fl, bad) := tree op (Nat.log2 ls.length) (ls.zip (List.range ls.length)) (0, none)
  vwrite c t d (vW f) 3 [v] fl bad s

/-- Shift and logic lanes (R190); shift counts modulo the lane width. -/
def laneBits (f : BitVec 3) (op : Nat → Nat → Nat → Nat) (a b : Nat) : Nat × Nat := (op (vW f) a b % 2 ^ vW f, 0)

/-- VADD: lane-wise add (R190). -/
def execVadd (c : CoreId) (t : Thr) (fmt : BitVec 3) (vd va vb : Reg) (s : State) : Out :=
  issue c t (.vadd c t fmt vd va vb) (fun s => spaced c t fmt (vmap2 c t fmt vd va vb (latArith fmt) (laneAdd fmt) s)) s

/-- VSUB: lane-wise subtract (R190). -/
def execVsub (c : CoreId) (t : Thr) (fmt : BitVec 3) (vd va vb : Reg) (s : State) : Out :=
  issue c t (.vsub c t fmt vd va vb) (fun s => spaced c t fmt (vmap2 c t fmt vd va vb (latArith fmt) (laneSub fmt) s)) s

/-- VMUL: lane-wise multiply (R190). -/
def execVmul (c : CoreId) (t : Thr) (fmt : BitVec 3) (vd va vb : Reg) (s : State) : Out :=
  issue c t (.vmul c t fmt vd va vb) (fun s => spaced c t fmt (vmap2 c t fmt vd va vb (latArith fmt) (laneMul fmt) s)) s

/-- VFMA: fused multiply-add (R190). -/
def execVfma (c : CoreId) (t : Thr) (fmt : BitVec 3) (vd va vb vc : Reg) (s : State) : Out :=
  issue c t (.vfma c t fmt vd va vb vc) (fun s => spaced c t fmt (vmap3 c t fmt vd va vb vc (latArith fmt) (laneFma fmt) s)) s

/-- VMIN: lane-wise minimum (R190). -/
def execVmin (c : CoreId) (t : Thr) (fmt : BitVec 3) (vd va vb : Reg) (s : State) : Out :=
  issue c t (.vmin c t fmt vd va vb) (vmap2 c t fmt vd va vb 2 (laneMin fmt)) s

/-- VMAX: lane-wise maximum (R190). -/
def execVmax (c : CoreId) (t : Thr) (fmt : BitVec 3) (vd va vb : Reg) (s : State) : Out :=
  issue c t (.vmax c t fmt vd va vb) (vmap2 c t fmt vd va vb 2 (laneMax fmt)) s

/-- VABS: absolute value (R190). -/
def execVabs (c : CoreId) (t : Thr) (fmt : BitVec 3) (vd va : Reg) (s : State) : Out :=
  issue c t (.vabs c t fmt vd va) (vmap1 c t fmt vd va 2 (laneSign fmt false)) s

/-- VNEG: negation (R190). -/
def execVneg (c : CoreId) (t : Thr) (fmt : BitVec 3) (vd va : Reg) (s : State) : Out :=
  issue c t (.vneg c t fmt vd va) (vmap1 c t fmt vd va 2 (laneSign fmt true)) s

/-- VDIV: correctly rounded divide (R190). -/
def execVdiv (c : CoreId) (t : Thr) (fmt : BitVec 3) (vd va vb : Reg) (s : State) : Out :=
  issue c t (.vdiv c t fmt vd va vb) (fun s => blocking c t (latDiv fmt) (vmap2 c t fmt vd va vb (latDiv fmt) (laneDiv fmt) s)) s

/-- VSQRT: correctly rounded square root (R190). -/
def execVsqrt (c : CoreId) (t : Thr) (fmt : BitVec 3) (vd va : Reg) (s : State) : Out :=
  issue c t (.vsqrt c t fmt vd va) (fun s => blocking c t (latDiv fmt) (vmap1 c t fmt vd va (latDiv fmt) (laneSqrt fmt) s)) s

/-- VCMPEQ: equality (R191). -/
def execVcmpeq (c : CoreId) (t : Thr) (fmt : BitVec 3) (vd va vb : Reg) (s : State) : Out :=
  issue c t (.vcmpeq c t fmt vd va vb) (vmap2 c t fmt vd va vb 2 (laneRel fmt false (eqN) fun a b => decide (a = b))) s

/-- VCMPLT: less-than (R191). -/
def execVcmplt (c : CoreId) (t : Thr) (fmt : BitVec 3) (vd va vb : Reg) (s : State) : Out :=
  issue c t (.vcmplt c t fmt vd va vb) (vmap2 c t fmt vd va vb 2 (laneRel fmt true (fun a b => leN a b && !leN b a) fun a b => decide (a < b))) s

/-- VCMPLE: less-or-equal (R191). -/
def execVcmple (c : CoreId) (t : Thr) (fmt : BitVec 3) (vd va vb : Reg) (s : State) : Out :=
  issue c t (.vcmple c t fmt vd va vb) (vmap2 c t fmt vd va vb 2 (laneRel fmt true (leN) fun a b => decide (a ≤ b))) s

/-- VSEL: select by a mask register (R191). -/
def execVsel (c : CoreId) (t : Thr) (fmt : BitVec 3) (vd va vb vc : Reg) (s : State) : Out :=
  issue c t (.vsel c t fmt vd va vb vc) (vmap3 c t fmt vd va vb vc 2 fun x y z => (if z ≠ 0 then x else y, 0)) s

/-- VAND: bitwise AND (R190). -/
def execVand (c : CoreId) (t : Thr) (fmt : BitVec 3) (vd va vb : Reg) (s : State) : Out :=
  issue c t (.vand c t fmt vd va vb) (vmap2 c t fmt vd va vb 2 (laneBits fmt fun _ a b => a &&& b)) s

/-- VOR: bitwise OR (R190). -/
def execVor (c : CoreId) (t : Thr) (fmt : BitVec 3) (vd va vb : Reg) (s : State) : Out :=
  issue c t (.vor c t fmt vd va vb) (vmap2 c t fmt vd va vb 2 (laneBits fmt fun _ a b => a ||| b)) s

/-- VXOR: bitwise XOR (R190). -/
def execVxor (c : CoreId) (t : Thr) (fmt : BitVec 3) (vd va vb : Reg) (s : State) : Out :=
  issue c t (.vxor c t fmt vd va vb) (vmap2 c t fmt vd va vb 2 (laneBits fmt fun _ a b => a ^^^ b)) s

/-- VSHL: shift left (R190). -/
def execVshl (c : CoreId) (t : Thr) (fmt : BitVec 3) (vd va vb : Reg) (s : State) : Out :=
  issue c t (.vshl c t fmt vd va vb) (vmap2 c t fmt vd va vb 2 (laneBits fmt fun w a b => a <<< (b % w))) s

/-- VSHR: logical shift right (R190). -/
def execVshr (c : CoreId) (t : Thr) (fmt : BitVec 3) (vd va vb : Reg) (s : State) : Out :=
  issue c t (.vshr c t fmt vd va vb) (vmap2 c t fmt vd va vb 2 (laneBits fmt fun w a b => a >>> (b % w))) s

/-- VSAR: arithmetic shift right (R190). -/
def execVsar (c : CoreId) (t : Thr) (fmt : BitVec 3) (vd va vb : Reg) (s : State) : Out :=
  issue c t (.vsar c t fmt vd va vb) (vmap2 c t fmt vd va vb 2 (laneBits fmt fun w a b => (sext w a / 2 ^ (b % w) % (2 ^ w : Nat)).toNat)) s

/-- VCVT: convert lanes; SR draws from the thread's generator and advances its counter (R191, R178). -/
def execVcvt (c : CoreId) (t : Thr) (fmt dst : BitVec 3) (rnd : BitVec 2) (vd va : Reg) (s : State) : Out :=
  issue c t (.vcvt c t fmt dst rnd vd va) (fun s =>
    let x := s.th c t
    let ls := (lanesOf (vW fmt) (x.vr va)).take (512 / vW dst)
    let r := (ls.zip (List.range ls.length)).map fun (a, e) =>
      laneCvt fmt dst rnd.toNat (if rnd.toNat = sr then srBits x.key x.ctr e else 0) a
    match vwrite c t vd (vW dst) 2 (r.map Prod.fst) (laneFlags r) (badLane r) s with
    | .seq s' => .seq (if rnd.toNat = sr then s'.onTh c t fun x => { x with ctr := x.ctr + 1 } else s')
    | r => r) s

/-- VRSUM: pairwise-tree sum (R192). -/
def execVrsum (c : CoreId) (t : Thr) (fmt : BitVec 3) (vd va : Reg) (s : State) : Out :=
  issue c t (.vrsum c t fmt vd va) (vtree c t fmt vd va (laneAdd fmt)) s

/-- VRMAX: pairwise-tree maximum (R192). -/
def execVrmax (c : CoreId) (t : Thr) (fmt : BitVec 3) (vd va : Reg) (s : State) : Out :=
  issue c t (.vrmax c t fmt vd va) (vtree c t fmt vd va (laneMax fmt)) s

/-- VBCAST: every lane receives the low bits of ga (R191). -/
def execVbcast (c : CoreId) (t : Thr) (fmt : BitVec 3) (vd ga : Reg) (s : State) : Out :=
  issue c t (.vbcast c t fmt vd ga) (fun s =>
    .seq (s.putV c t vd (ofLanes (vW fmt) (List.replicate (512 / vW fmt) ((s.th c t).gr ga).toNat)) 1)) s

/-- The width and number of the lane VEXT and VINS name: FP64 by 32-bit halves (R191). -/
def laneSel (fmt : BitVec 3) (g : Word) : Nat × Nat :=
  let w := if fmt = 1 then 32 else vW fmt
  (w, g.toNat % (512 / w))

/-- VEXT: a lane into gd; INT8 is sign-extended (R191). -/
def execVext (c : CoreId) (t : Thr) (fmt : BitVec 3) (gd va gb : Reg) (s : State) : Out :=
  issue c t (.vext c t fmt gd va gb) (fun s =>
    let x := s.th c t
    let (w, i) := laneSel fmt (x.gr gb)
    let v := ((x.vr va).toNat >>> (w * i)) % 2 ^ w
    .seq (s.putG c t gd (if fmt = 5 then wordOf (sext 8 v) else BitVec.ofNat 32 v) 1)) s

/-- VINS: the low bits of ga into a lane of vd (R191). -/
def execVins (c : CoreId) (t : Thr) (fmt : BitVec 3) (vd ga gb : Reg) (s : State) : Out :=
  issue c t (.vins c t fmt vd ga gb) (fun s =>
    let x := s.th c t
    let (w, i) := laneSel fmt (x.gr gb)
    .seq (s.putV c t vd (ofLanes w ((lanesOf w (x.vr vd)).set i (x.gr ga).toNat)) 1)) s

/-- VSEED: the thread's stochastic key and counter (R178). -/
def execVseed (c : CoreId) (t : Thr) (ga gb : Reg) (s : State) : Out :=
  issue c t (.vseed c t ga gb) (fun s => .seq (s.onTh c t fun x => { x with key := x.gr ga, ctr := x.gr gb })) s

end Sys2Proof.Machine
end

