-- ==== Sys2Proof/Machine/Dispatch.lean ====
section
/-! DEFINITION. The dispatch: one arm per command, each one call of its meaning, or rejected by name. -/

namespace Sys2Proof.Machine

def exec (i : Instr) (s : State) : Host.Outcome State Fault Refusal :=
  match i with
  | .add c t gd ga gb => Sys2Proof.Machine.execAdd c t gd ga gb s
  | .sub c t gd ga gb => Sys2Proof.Machine.execSub c t gd ga gb s
  | .and c t gd ga gb => Sys2Proof.Machine.execAnd c t gd ga gb s
  | .or c t gd ga gb => Sys2Proof.Machine.execOr c t gd ga gb s
  | .xor c t gd ga gb => Sys2Proof.Machine.execXor c t gd ga gb s
  | .mul c t gd ga gb => Sys2Proof.Machine.execMul c t gd ga gb s
  | .shl c t gd ga gb => Sys2Proof.Machine.execShl c t gd ga gb s
  | .shr c t gd ga gb => Sys2Proof.Machine.execShr c t gd ga gb s
  | .sar c t gd ga gb => Sys2Proof.Machine.execSar c t gd ga gb s
  | .rot c t gd ga gb => Sys2Proof.Machine.execRot c t gd ga gb s
  | .min c t gd ga gb => Sys2Proof.Machine.execMin c t gd ga gb s
  | .max c t gd ga gb => Sys2Proof.Machine.execMax c t gd ga gb s
  | .addc c t gd ga gb => Sys2Proof.Machine.execAddc c t gd ga gb s
  | .subc c t gd ga gb => Sys2Proof.Machine.execSubc c t gd ga gb s
  | .mulh c t gd ga gb => Sys2Proof.Machine.execMulh c t gd ga gb s
  | .mulhu c t gd ga gb => Sys2Proof.Machine.execMulhu c t gd ga gb s
  | .div c t gd ga gb => Sys2Proof.Machine.execDiv c t gd ga gb s
  | .divu c t gd ga gb => Sys2Proof.Machine.execDivu c t gd ga gb s
  | .rem c t gd ga gb => Sys2Proof.Machine.execRem c t gd ga gb s
  | .remu c t gd ga gb => Sys2Proof.Machine.execRemu c t gd ga gb s
  | .mov c t gd ga => Sys2Proof.Machine.execMov c t gd ga s
  | .not c t gd ga => Sys2Proof.Machine.execNot c t gd ga s
  | .cmp c t ga gb => Sys2Proof.Machine.execCmp c t ga gb s
  | .addi c t gd ga imm => Sys2Proof.Machine.execAddi c t gd ga imm s
  | .cmpi c t ga imm => Sys2Proof.Machine.execCmpi c t ga imm s
  | .movi c t gd imm => Sys2Proof.Machine.execMovi c t gd imm s
  | .movil c t gd imm => Sys2Proof.Machine.execMovil c t gd imm s
  | .ldw c t gd ga off => Sys2Proof.Machine.execLdw c t gd ga off s
  | .ldh c t gd ga off => Sys2Proof.Machine.execLdh c t gd ga off s
  | .ldhu c t gd ga off => Sys2Proof.Machine.execLdhu c t gd ga off s
  | .ldb c t gd ga off => Sys2Proof.Machine.execLdb c t gd ga off s
  | .ldbu c t gd ga off => Sys2Proof.Machine.execLdbu c t gd ga off s
  | .lds c t gd off => Sys2Proof.Machine.execLds c t gd off s
  | .stw c t gs ga off => Sys2Proof.Machine.execStw c t gs ga off s
  | .sth c t gs ga off => Sys2Proof.Machine.execSth c t gs ga off s
  | .stb c t gs ga off => Sys2Proof.Machine.execStb c t gs ga off s
  | .sts c t gs off => Sys2Proof.Machine.execSts c t gs off s
  | .nop c t => Sys2Proof.Machine.execNop c t s
  | .push c t gs => Sys2Proof.Machine.execPush c t gs s
  | .pop c t gd => Sys2Proof.Machine.execPop c t gd s
  | .jr c t r => Sys2Proof.Machine.execJr c t r s
  | .callr c t r => Sys2Proof.Machine.execCallr c t r s
  | .ret c t => Sys2Proof.Machine.execRet c t s
  | .rte c t => Sys2Proof.Machine.execRte c t s
  | .halt c t => Sys2Proof.Machine.execHalt c t s
  | .rdcyc c t gd => Sys2Proof.Machine.execRdcyc c t gd s
  | .mfs c t gd => Sys2Proof.Machine.execMfs c t gd s
  | .mts c t gs => Sys2Proof.Machine.execMts c t gs s
  | .settc c t gs => Sys2Proof.Machine.execSettc c t gs s
  | .clrtc c t => Sys2Proof.Machine.execClrtc c t s
  | .waitt c t => Sys2Proof.Machine.execWaitt c t s
  | .rdfs c t gd => Sys2Proof.Machine.execRdfs c t gd s
  | .consume c t r => Sys2Proof.Machine.execConsume c t r s
  | .lbrk c t lv => Sys2Proof.Machine.execLbrk c t lv s
  | .thrst c t k => Sys2Proof.Machine.execThrst c t k s
  | .thstart c t k r => Sys2Proof.Machine.execThstart c t k r s
  | .setcc c t gd cc => Sys2Proof.Machine.execSetcc c t gd cc s
  | .br c t t15 => Sys2Proof.Machine.execBr c t t15 s
  | .jmp c t t15 => Sys2Proof.Machine.execJmp c t t15 s
  | .bcc c t cc a t15 => Sys2Proof.Machine.execBcc c t cc a t15 s
  | .call c t a t15 => Sys2Proof.Machine.execCall c t a t15 s
  | .loop c t lv gs e => Sys2Proof.Machine.execLoop c t lv gs e s
  | .lock c t gd n => Sys2Proof.Machine.execLock c t gd n s
  | .trylock c t gd n => Sys2Proof.Machine.execTrylock c t gd n s
  | .unlock c t n => Sys2Proof.Machine.execUnlock c t n s
  | .lrst c t n => Sys2Proof.Machine.execLrst c t n s
  | .mft c t gd idx => Sys2Proof.Machine.execMft c t gd idx s
  | .mtt c t gs idx => Sys2Proof.Machine.execMtt c t gs idx s
  | .trap c t imm => Sys2Proof.Machine.execTrap c t imm s
  | .reservedEncoding c t head ext => Sys2Proof.Machine.execReservedEncoding c t head ext s
  | .faultReport src => Sys2Proof.Machine.execFaultReport src s
  | .vadd c t fmt vd va vb => Sys2Proof.Machine.execVadd c t fmt vd va vb s
  | .vsub c t fmt vd va vb => Sys2Proof.Machine.execVsub c t fmt vd va vb s
  | .vmul c t fmt vd va vb => Sys2Proof.Machine.execVmul c t fmt vd va vb s
  | .vfma c t fmt vd va vb vc => Sys2Proof.Machine.execVfma c t fmt vd va vb vc s
  | .vmin c t fmt vd va vb => Sys2Proof.Machine.execVmin c t fmt vd va vb s
  | .vmax c t fmt vd va vb => Sys2Proof.Machine.execVmax c t fmt vd va vb s
  | .vabs c t fmt vd va => Sys2Proof.Machine.execVabs c t fmt vd va s
  | .vneg c t fmt vd va => Sys2Proof.Machine.execVneg c t fmt vd va s
  | .vdiv c t fmt vd va vb => Sys2Proof.Machine.execVdiv c t fmt vd va vb s
  | .vsqrt c t fmt vd va => Sys2Proof.Machine.execVsqrt c t fmt vd va s
  | .vcmpeq c t fmt vd va vb => Sys2Proof.Machine.execVcmpeq c t fmt vd va vb s
  | .vcmplt c t fmt vd va vb => Sys2Proof.Machine.execVcmplt c t fmt vd va vb s
  | .vcmple c t fmt vd va vb => Sys2Proof.Machine.execVcmple c t fmt vd va vb s
  | .vsel c t fmt vd va vb vc => Sys2Proof.Machine.execVsel c t fmt vd va vb vc s
  | .vand c t fmt vd va vb => Sys2Proof.Machine.execVand c t fmt vd va vb s
  | .vor c t fmt vd va vb => Sys2Proof.Machine.execVor c t fmt vd va vb s
  | .vxor c t fmt vd va vb => Sys2Proof.Machine.execVxor c t fmt vd va vb s
  | .vshl c t fmt vd va vb => Sys2Proof.Machine.execVshl c t fmt vd va vb s
  | .vshr c t fmt vd va vb => Sys2Proof.Machine.execVshr c t fmt vd va vb s
  | .vsar c t fmt vd va vb => Sys2Proof.Machine.execVsar c t fmt vd va vb s
  | .vcvt c t fmt dst rnd vd va => Sys2Proof.Machine.execVcvt c t fmt dst rnd vd va s
  | .vrsum c t fmt vd va => Sys2Proof.Machine.execVrsum c t fmt vd va s
  | .vrmax c t fmt vd va => Sys2Proof.Machine.execVrmax c t fmt vd va s
  | .vbcast c t fmt vd ga => Sys2Proof.Machine.execVbcast c t fmt vd ga s
  | .vext c t fmt gd va gb => Sys2Proof.Machine.execVext c t fmt gd va gb s
  | .vins c t fmt vd ga gb => Sys2Proof.Machine.execVins c t fmt vd ga gb s
  | .vseed c t ga gb => Sys2Proof.Machine.execVseed c t ga gb s
  | .vld c t vd ga off => Sys2Proof.Machine.execVld c t vd ga off s
  | .vst c t vs ga off => Sys2Proof.Machine.execVst c t vs ga off s
  | .vldbc c t vd ga off => Sys2Proof.Machine.execVldbc c t vd ga off s
  | .tcfg c t tb fmt rowsM1 bprM1 pm => Sys2Proof.Machine.execTcfg c t tb fmt rowsM1 bprM1 pm s
  | .tld c t tb ga gs sfmt tr rnd => Sys2Proof.Machine.execTld c t tb ga gs sfmt tr rnd s
  | .tdrain c t tc ga gs opt => Sys2Proof.Machine.execTdrain c t tc ga gs opt s
  | .tmma c t tc ta tb q z => Sys2Proof.Machine.execTmma c t tc ta tb q z s
  | .trel c t tb => Sys2Proof.Machine.execTrel c t tb s
  | .tzero c t tb => Sys2Proof.Machine.execTzero c t tb s
  | .tflags c t gd tb => Sys2Proof.Machine.execTflags c t gd tb s
  | .tclrf c t tb => Sys2Proof.Machine.execTclrf c t tb s
  | .txcap c t gd => Sys2Proof.Machine.execTxcap c t gd s
  | .tileStart c q => Sys2Proof.Machine.execTileStart c q s
  | .matrixRowStep c => Sys2Proof.Machine.execMatrixRowStep c s
  | .tldComplete c => Sys2Proof.Machine.execTldComplete c s
  | .tmmaComplete c fill => Sys2Proof.Machine.execTmmaComplete c fill s
  | .tdrainComplete c => Sys2Proof.Machine.execTdrainComplete c s
  | .dmago c t ch ga => Sys2Proof.Machine.execDmago c t ch ga s
  | .dmastat c t gd ch => Sys2Proof.Machine.execDmastat c t gd ch s
  | .dmadis c t ch => Sys2Proof.Machine.execDmadis c t ch s
  | .dmaBurst c flow => Sys2Proof.Machine.execDmaBurst c flow s
  | .dmaChannelDone c ch => Sys2Proof.Machine.execDmaChannelDone c ch s
  | .dmaChannelResume c ch => Sys2Proof.Machine.execDmaChannelResume c ch s
  | .dmaTimeout c ch => Sys2Proof.Machine.execDmaTimeout c ch s
  | .creditRequest c => Sys2Proof.Machine.execCreditRequest c s
  | .creditAnswer c ch => Sys2Proof.Machine.execCreditAnswer c ch s
  | .creditRetry c ch => Sys2Proof.Machine.execCreditRetry c ch s
  | .creditReturn c => Sys2Proof.Machine.execCreditReturn c s
  | .dataUnitCommit c => Sys2Proof.Machine.execDataUnitCommit c s
  | .heldTrapEntry c t => Sys2Proof.Machine.execHeldTrapEntry c t s
  | .waitf c t gd n p => Sys2Proof.Machine.execWaitf c t gd n p s
  | .setf c t gc n => Sys2Proof.Machine.execSetf c t gc n s
  | .clrf c t gc n => Sys2Proof.Machine.execClrf c t gc n s
  | .tstf c t gd n => Sys2Proof.Machine.execTstf c t gd n s
  | .waitb c t gd b => Sys2Proof.Machine.execWaitb c t gd b s
  | .arrb c t b => Sys2Proof.Machine.execArrb c t b s
  | .flagMessageArrive c => Sys2Proof.Machine.execFlagMessageArrive c s
  | .barrierArrival c => Sys2Proof.Machine.execBarrierArrival c s
  | .barrierNotice c => Sys2Proof.Machine.execBarrierNotice c s
  | .threadWake c t => Sys2Proof.Machine.execThreadWake c t s
  | .timerFire c t => Sys2Proof.Machine.execTimerFire c t s
  | .watchdog c t => Sys2Proof.Machine.execWatchdog c t s
  | .copen c t gd conn ga => Sys2Proof.Machine.execCopen c t gd conn ga s
  | .copenComplete c t => Sys2Proof.Machine.execCopenComplete c t s
  | .cclose c t conn => Sys2Proof.Machine.execCclose c t conn s
  | .msend c t conn ga gb h => Sys2Proof.Machine.execMsend c t conn ga gb h s
  | .mrecv c t gd conn => Sys2Proof.Machine.execMrecv c t gd conn s
  | .mdone c t conn => Sys2Proof.Machine.execMdone c t conn s
  | .claimRequest c => Sys2Proof.Machine.execClaimRequest c s
  | .claimGrant c conn => Sys2Proof.Machine.execClaimGrant c conn s
  | .claimRetry c conn => Sys2Proof.Machine.execClaimRetry c conn s
  | .messageUnitSend c conn => Sys2Proof.Machine.execMessageUnitSend c conn s
  | .ringDispatch c ring => Sys2Proof.Machine.execRingDispatch c ring s
  | .abandon p c conn => Sys2Proof.Machine.execAbandon p c conn s
  | .release p c ring => Sys2Proof.Machine.execRelease p c ring s
  | .connectionRestore p c conn v => Sys2Proof.Machine.execConnectionRestore p c conn v s
  | .threadReset p c t => Sys2Proof.Machine.execThreadReset p c t s
  | .threadStart p c t => Sys2Proof.Machine.execThreadStart p c t s
  | .coreReset p c => Sys2Proof.Machine.execCoreReset p c s
  | .pmDataAccess p c wr => Sys2Proof.Machine.execPmDataAccess p c wr s
  | .lockWposWrite p c v => Sys2Proof.Machine.execLockWposWrite p c v s
  | .registerWrite p off width v => Sys2Proof.Machine.execRegisterWrite p off width v s
  | .pairLoRead p off => Sys2Proof.Machine.execPairLoRead p off s
  | .pairHiRead p off => Sys2Proof.Machine.execPairHiRead p off s
  | .pairHiWrite p off v => Sys2Proof.Machine.execPairHiWrite p off v s
  | .pairLoWrite p off v => Sys2Proof.Machine.execPairLoWrite p off v s
  | .rcRead p off => Sys2Proof.Machine.execRcRead p off s
  | .tileQueuePush p c v => Sys2Proof.Machine.execTileQueuePush p c v s
  | .tileDdataAccess p c wr => Sys2Proof.Machine.execTileDdataAccess p c wr s
  | .guardWrite p c n v => Sys2Proof.Machine.execGuardWrite p c n v s
  | .vdataAccess p c wr => Sys2Proof.Machine.execVdataAccess p c wr s
  | .psndataAccess p c wr => Sys2Proof.Machine.execPsndataAccess p c wr s
  | .meshPdataAccess p c wr => Sys2Proof.Machine.execMeshPdataAccess p c wr s
  | .meshUnitArrive c port => Sys2Proof.Machine.execMeshUnitArrive c port s
  | .patternLoad c logp drain entries => Sys2Proof.Machine.execPatternLoad c logp drain entries s
  | .switchArm p c rev => Sys2Proof.Machine.execSwitchArm p c rev s
  | .switchWithdraw p c => Sys2Proof.Machine.execSwitchWithdraw p c s
  | .patternDrainGuard bed => Sys2Proof.Machine.execPatternDrainGuard bed s
  | .patternSwitch => Sys2Proof.Machine.execPatternSwitch s
  | .flagSet p c mask => Sys2Proof.Machine.execFlagSet p c mask s
  | .flagClr p c mask => Sys2Proof.Machine.execFlagClr p c mask s
  | .complete p c bar => Sys2Proof.Machine.execComplete p c bar s
  | .barrierAbandon p c bar => Sys2Proof.Machine.execBarrierAbandon p c bar s
  | .barrierReset p c bar => Sys2Proof.Machine.execBarrierReset p c bar s
  | .tapRd tap ecc ecc2 => Sys2Proof.Machine.execTapRd tap ecc ecc2 s
  | .tapWr tap => Sys2Proof.Machine.execTapWr tap s
  | .tapData tap => Sys2Proof.Machine.execTapData tap s
  | .tapRetry c ch => Sys2Proof.Machine.execTapRetry c ch s
  | .refreshWindow w => Sys2Proof.Machine.execRefreshWindow w s
  | .patrolScrub tap found => Sys2Proof.Machine.execPatrolScrub tap found s
  | .rowRemap tap found => Sys2Proof.Machine.execRowRemap tap found s
  | .rmapGo p v => Sys2Proof.Machine.execRmapGo p v s
  | .stageFill tap line e => Sys2Proof.Machine.execStageFill tap line e s
  | .stageInvalidate tap line => Sys2Proof.Machine.execStageInvalidate tap line s
  | .stageWriteback tap line => Sys2Proof.Machine.execStageWriteback tap line s
  | .lpRetrain p v => Sys2Proof.Machine.execLpRetrain p v s
  | .lpRetrainDone ch => Sys2Proof.Machine.execLpRetrainDone ch s
  | .prefetchFetch region stream => Sys2Proof.Machine.execPrefetchFetch region stream s
  | .elogRead p => Sys2Proof.Machine.execElogRead p s
  | .translationWalk c ch => Sys2Proof.Machine.execTranslationWalk c ch s
  | .passEntry job => Sys2Proof.Machine.execPassEntry job s
  | .done job => Sys2Proof.Machine.execDone job s
  | .flush job => Sys2Proof.Machine.execFlush job s
  | .flushed job => Sys2Proof.Machine.execFlushed job s
  | .passBoundary job => Sys2Proof.Machine.execPassBoundary job s
  | .passDeadline job => Sys2Proof.Machine.execPassDeadline job s
  | .rollback job => Sys2Proof.Machine.execRollback job s
  | .writeApply job src => Sys2Proof.Machine.execWriteApply job src s
  | .remoteRead ctx e => Sys2Proof.Machine.execRemoteRead ctx e s
  | .faultResolve at_ frame => Sys2Proof.Machine.execFaultResolve at_ frame s
  | .pageMigrate job vpn frame => Sys2Proof.Machine.execPageMigrate job vpn frame s
  | .dmaXinv p c v => Sys2Proof.Machine.execDmaXinv p c v s
  | .mtXinv p v => Sys2Proof.Machine.execMtXinv p v s
  | .fxXinv p v => Sys2Proof.Machine.execFxXinv p v s
  | .preemptFreeze job => Sys2Proof.Machine.execPreemptFreeze job s
  | .coreSave c => Sys2Proof.Machine.execCoreSave c s
  | .coreRestore c => Sys2Proof.Machine.execCoreRestore c s
  | .preemptResume job => Sys2Proof.Machine.execPreemptResume job s
  | .flitReceive port f => Sys2Proof.Machine.execFlitReceive port f s
  | .nak port lack => Sys2Proof.Machine.execNak port lack s
  | .replayTimeout port => Sys2Proof.Machine.execReplayTimeout port s
  | .idle port => Sys2Proof.Machine.execIdle port s
  | .linkRetryBudget port => Sys2Proof.Machine.execLinkRetryBudget port s
  | .signalLoss port => Sys2Proof.Machine.execSignalLoss port s
  | .train p port => Sys2Proof.Machine.execTrain p port s
  | .portTrained port ok delay pmod pport => Sys2Proof.Machine.execPortTrained port ok delay pmod pport s
  | .marker => Sys2Proof.Machine.execMarker s
  | .markerArrive port m => Sys2Proof.Machine.execMarkerArrive port m s
  | .markerMiss port => Sys2Proof.Machine.execMarkerMiss port s
  | .stepped => Sys2Proof.Machine.execStepped s
  | .lost => Sys2Proof.Machine.execLost s
  | .spnCtrlWrite p v => Sys2Proof.Machine.execSpnCtrlWrite p v s
  | .masterEnter => Sys2Proof.Machine.execMasterEnter s
  | .masterLeave => Sys2Proof.Machine.execMasterLeave s
  | .refclkLoss => Sys2Proof.Machine.execRefclkLoss s
  | .pllLock => Sys2Proof.Machine.execPllLock s
  | .restCmd p v => Sys2Proof.Machine.execRestCmd p v s
  | .restRevolution bed => Sys2Proof.Machine.execRestRevolution bed s
  | .packetReceive port vl pkt => Sys2Proof.Machine.execPacketReceive port vl pkt s
  | .ack ctx => Sys2Proof.Machine.execAck ctx s
  | .retransmit ctx => Sys2Proof.Machine.execRetransmit ctx s
  | .fabOut c => Sys2Proof.Machine.execFabOut c s
  | .fabIn ctx => Sys2Proof.Machine.execFabIn ctx s
  | .fill ctx e => Sys2Proof.Machine.execFill ctx e s
  | .writeEnd ctx => Sys2Proof.Machine.execWriteEnd ctx s
  | .writeAck ctx => Sys2Proof.Machine.execWriteAck ctx s
  | .fxRtdataAccess p wr => Sys2Proof.Machine.execFxRtdataAccess p wr s
  | .agreeDone job => Sys2Proof.Machine.execAgreeDone job s
  | .agreeFlush job => Sys2Proof.Machine.execAgreeFlush job s
  | .agreeFlushed job => Sys2Proof.Machine.execAgreeFlushed job s
  | .boundary job => Sys2Proof.Machine.execBoundary job s
  | .fail job => Sys2Proof.Machine.execFail job s
  | .rerun job => Sys2Proof.Machine.execRerun job s
  | .agreePreempt job => Sys2Proof.Machine.execAgreePreempt job s
  | .agreeResume job => Sys2Proof.Machine.execAgreeResume job s
  | .scan side bed flow => Sys2Proof.Machine.execScan side bed flow s
  | .convert side bed flow => Sys2Proof.Machine.execConvert side bed flow s
  | .reduceScan job => Sys2Proof.Machine.execReduceScan job s
  | .reduceData job => Sys2Proof.Machine.execReduceData job s
  | .agreed ctx => Sys2Proof.Machine.execAgreed ctx s
  | .result ctx => Sys2Proof.Machine.execResult ctx s
  | .nexte ctx => Sys2Proof.Machine.execNexte ctx s
  | .contribLate rid seg isScan => Sys2Proof.Machine.execContribLate rid seg isScan s
  | .hregRd tag off width => Sys2Proof.Machine.execHregRd tag off width s
  | .hregWr tag off width v => Sys2Proof.Machine.execHregWr tag off width v s
  | .memCpl tag data => Sys2Proof.Machine.execMemCpl tag data s
  | .hostLinkRecover => Sys2Proof.Machine.execHostLinkRecover s
  | .cqTail ring v => Sys2Proof.Machine.execCqTail ring v s
  | .cqHead ring v => Sys2Proof.Machine.execCqHead ring v s
  | .ringConfigWrite p v => Sys2Proof.Machine.execRingConfigWrite p v s
  | .completionWrite ring => Sys2Proof.Machine.execCompletionWrite ring s
  | .msi ring => Sys2Proof.Machine.execMsi ring s
  | .hb => Sys2Proof.Machine.execHb s
  | .commandTimeout ring cid => Sys2Proof.Machine.execCommandTimeout ring cid s
  | .unlistedOpcode ring cid => Sys2Proof.Machine.execUnlistedOpcode ring cid s
  | .config ring cid => Sys2Proof.Machine.execConfig ring cid s
  | .routes ring cid buf => Sys2Proof.Machine.execRoutes ring cid buf s
  | .launch ring cid image => Sys2Proof.Machine.execLaunch ring cid image s
  | .cancel ring cid => Sys2Proof.Machine.execCancel ring cid s
  | .preempt ring cid => Sys2Proof.Machine.execPreempt ring cid s
  | .resume ring cid => Sys2Proof.Machine.execResume ring cid s
  | .loadpat ring cid => Sys2Proof.Machine.execLoadpat ring cid s
  | .switch ring cid => Sys2Proof.Machine.execSwitch ring cid s
  | .copyIn ring cid buf => Sys2Proof.Machine.execCopyIn ring cid buf s
  | .copyOut ring cid => Sys2Proof.Machine.execCopyOut ring cid s
  | .readDtab ring cid => Sys2Proof.Machine.execReadDtab ring cid s
  | .jobStatus ring cid => Sys2Proof.Machine.execJobStatus ring cid s
  | .fwInfo ring cid => Sys2Proof.Machine.execFwInfo ring cid s
  | .fwLoad ring cid img => Sys2Proof.Machine.execFwLoad ring cid img s
  | .fwActivate ring cid => Sys2Proof.Machine.execFwActivate ring cid s
  | .attest ring cid nonce sigs => Sys2Proof.Machine.execAttest ring cid nonce sigs s
  | .identity ring cid => Sys2Proof.Machine.execIdentity ring cid s
  | .test ring cid failed => Sys2Proof.Machine.execTest ring cid failed s
  | .testEnd ring cid => Sys2Proof.Machine.execTestEnd ring cid s
  | .svnCommit ring cid => Sys2Proof.Machine.execSvnCommit ring cid s
  | .keyRevoke ring cid => Sys2Proof.Machine.execKeyRevoke ring cid s
  | .replace ring cid => Sys2Proof.Machine.execReplace ring cid s
  | .retire ring cid sect => Sys2Proof.Machine.execRetire ring cid sect s
  | .startUp img found => Sys2Proof.Machine.execStartUp img found s
  | .stepTime => Sys2Proof.Machine.execStepTime s
  | .recoveryGo p wrflash img => Sys2Proof.Machine.execRecoveryGo p wrflash img s
  | .reboot p => Sys2Proof.Machine.execReboot p s
  | .handover => Sys2Proof.Machine.execHandover s
  | .handoverConfirm => Sys2Proof.Machine.execHandoverConfirm s
  | .handoverConfirmTimeout => Sys2Proof.Machine.execHandoverConfirmTimeout s
  | .flashWriteDone ok => Sys2Proof.Machine.execFlashWriteDone ok s
  | .keyDerivation keys => Sys2Proof.Machine.execKeyDerivation keys s
  | .agreementSilence job rank => Sys2Proof.Machine.execAgreementSilence job rank s
  | .neighbourUnroutable job rank => Sys2Proof.Machine.execNeighbourUnroutable job rank s
  | .heldTimeout job => Sys2Proof.Machine.execHeldTimeout job s
  | .retirementDecision row col cause => Sys2Proof.Machine.execRetirementDecision row col cause s
  | .retirementEffect row => Sys2Proof.Machine.execRetirementEffect row s
  | .portRetrain port => Sys2Proof.Machine.execPortRetrain port s
  | .powerWindow watts idle => Sys2Proof.Machine.execPowerWindow watts idle s
  | .marginRead region low high => Sys2Proof.Machine.execMarginRead region low high s
  | .margin region => Sys2Proof.Machine.execMargin region s
  | .temperatureReading region die stack inlet outlet => Sys2Proof.Machine.execTemperatureReading region die stack inlet outlet s
  | .thermalTrip region die stack => Sys2Proof.Machine.execThermalTrip region die stack s
  | .powerSequence => Sys2Proof.Machine.execPowerSequence s
  | .seqfail rail => Sys2Proof.Machine.execSeqfail rail s
  | .powerDown => Sys2Proof.Machine.execPowerDown s
  | .powerLoss => Sys2Proof.Machine.execPowerLoss s
  | .overvoltage => Sys2Proof.Machine.execOvervoltage s
  | .inputLow decivolts => Sys2Proof.Machine.execInputLow decivolts s
  | .inputHigh decivolts => Sys2Proof.Machine.execInputHigh decivolts s
  | .sidebandWrite off v => Sys2Proof.Machine.execSidebandWrite off v s
  | .extest ports link => Sys2Proof.Machine.execExtest ports link s
  | .debugAccess p wr => Sys2Proof.Machine.execDebugAccess p wr s
  | .stop p c t => Sys2Proof.Machine.execStop p c t s
  | .debugRun p c t => Sys2Proof.Machine.execDebugRun p c t s
  | .step p c t => Sys2Proof.Machine.execStep p c t s
  | .breakpoint c t n => Sys2Proof.Machine.execBreakpoint c t n s
  | .bedStop c => Sys2Proof.Machine.execBedStop c s
  | .dbgBedcmdStop p bed => Sys2Proof.Machine.execDbgBedcmdStop p bed s
  | .dbgBedcmdRun p bed => Sys2Proof.Machine.execDbgBedcmdRun p bed s
  | .trdataAccess p c wr => Sys2Proof.Machine.execTrdataAccess p c wr s
  | .spdataAccess p c wr => Sys2Proof.Machine.execSpdataAccess p c wr s
  | .captureWindowOpen c => Sys2Proof.Machine.execCaptureWindowOpen c s
  | .captureWindowClose c => Sys2Proof.Machine.execCaptureWindowClose c s
  | .traceRead p c => Sys2Proof.Machine.execTraceRead p c s
  | .hsElogRead p => Sys2Proof.Machine.execHsElogRead p s
  | .powerApplied decivolts => Sys2Proof.Machine.execPowerApplied decivolts s
  | .slewing => Sys2Proof.Machine.execSlewing s
  | .brepoLinkTraining => Sys2Proof.Machine.execBrepoLinkTraining s
  | .portDisable p port => Sys2Proof.Machine.execPortDisable p port s
  | .retirementRecordWrite => Sys2Proof.Machine.execRetirementRecordWrite s

end Sys2Proof.Machine
end

