-- ==== Sys2Proof/WellFormed.lean ====
section
/-! DEFINITION. Well-formed commands: operands that can occur on the hardware. A command that names a logical core is checked against
the module's width when it is carried out, not here. -/

namespace Sys2Proof

open Sys2Proof.Machine

/-- A fault point names one of the 20 stagers (11 R380). -/
def FaultPoint.wf : FaultPoint → Bool
  | .dma _ _ => true
  | .stream region _ => decide (region.toNat < 20)
  | .fabric _ => true

/-- Whether a command's operands can occur: port numbers (12 R389; 15 R460), taps (01 R25), regions (01 R23), the lengths of payloads
(08 R284; 16 R503, R504), voltages that raise the event (18 R527), and an encoding that chapter 04 reserves; condition codes 14 and 15
spell BR, JMP and CALL (04 R147). -/
def Instr.wf : Instr → Bool
  | .add _ _ _ _ _ => true
  | .sub _ _ _ _ _ => true
  | .and _ _ _ _ _ => true
  | .or _ _ _ _ _ => true
  | .xor _ _ _ _ _ => true
  | .mul _ _ _ _ _ => true
  | .shl _ _ _ _ _ => true
  | .shr _ _ _ _ _ => true
  | .sar _ _ _ _ _ => true
  | .rot _ _ _ _ _ => true
  | .min _ _ _ _ _ => true
  | .max _ _ _ _ _ => true
  | .addc _ _ _ _ _ => true
  | .subc _ _ _ _ _ => true
  | .mulh _ _ _ _ _ => true
  | .mulhu _ _ _ _ _ => true
  | .div _ _ _ _ _ => true
  | .divu _ _ _ _ _ => true
  | .rem _ _ _ _ _ => true
  | .remu _ _ _ _ _ => true
  | .mov _ _ _ _ => true
  | .not _ _ _ _ => true
  | .cmp _ _ _ _ => true
  | .addi _ _ _ _ _ => true
  | .cmpi _ _ _ _ => true
  | .movi _ _ _ _ => true
  | .movil _ _ _ _ => true
  | .ldw _ _ _ _ _ => true
  | .ldh _ _ _ _ _ => true
  | .ldhu _ _ _ _ _ => true
  | .ldb _ _ _ _ _ => true
  | .ldbu _ _ _ _ _ => true
  | .lds _ _ _ _ => true
  | .stw _ _ _ _ _ => true
  | .sth _ _ _ _ _ => true
  | .stb _ _ _ _ _ => true
  | .sts _ _ _ _ => true
  | .nop _ _ => true
  | .push _ _ _ => true
  | .pop _ _ _ => true
  | .jr _ _ _ => true
  | .callr _ _ _ => true
  | .ret _ _ => true
  | .rte _ _ => true
  | .halt _ _ => true
  | .rdcyc _ _ _ => true
  | .mfs _ _ _ => true
  | .mts _ _ _ => true
  | .settc _ _ _ => true
  | .clrtc _ _ => true
  | .waitt _ _ => true
  | .rdfs _ _ _ => true
  | .consume _ _ _ => true
  | .lbrk _ _ _ => true
  | .thrst _ _ _ => true
  | .thstart _ _ _ _ => true
  | .setcc _ _ _ _ => true
  | .br _ _ _ => true
  | .jmp _ _ _ => true
  | .bcc _ _ cc _ _ => decide (cc.toNat < 14)
  | .call _ _ _ _ => true
  | .loop _ _ _ _ _ => true
  | .lock _ _ _ _ => true
  | .trylock _ _ _ _ => true
  | .unlock _ _ _ => true
  | .lrst _ _ _ => true
  | .mft _ _ _ _ => true
  | .mtt _ _ _ _ => true
  | .trap _ _ _ => true
  | .reservedEncoding c t head ext => ext.length == nExt head && (decodeWords c t head ext).isNone
  | .faultReport _ => true
  | .vadd _ _ _ _ _ _ => true
  | .vsub _ _ _ _ _ _ => true
  | .vmul _ _ _ _ _ _ => true
  | .vfma _ _ _ _ _ _ _ => true
  | .vmin _ _ _ _ _ _ => true
  | .vmax _ _ _ _ _ _ => true
  | .vabs _ _ _ _ _ => true
  | .vneg _ _ _ _ _ => true
  | .vdiv _ _ _ _ _ _ => true
  | .vsqrt _ _ _ _ _ => true
  | .vcmpeq _ _ _ _ _ _ => true
  | .vcmplt _ _ _ _ _ _ => true
  | .vcmple _ _ _ _ _ _ => true
  | .vsel _ _ _ _ _ _ _ => true
  | .vand _ _ _ _ _ _ => true
  | .vor _ _ _ _ _ _ => true
  | .vxor _ _ _ _ _ _ => true
  | .vshl _ _ _ _ _ _ => true
  | .vshr _ _ _ _ _ _ => true
  | .vsar _ _ _ _ _ _ => true
  | .vcvt _ _ _ _ _ _ _ => true
  | .vrsum _ _ _ _ _ => true
  | .vrmax _ _ _ _ _ => true
  | .vbcast _ _ _ _ _ => true
  | .vext _ _ _ _ _ _ => true
  | .vins _ _ _ _ _ _ => true
  | .vseed _ _ _ _ => true
  | .vld _ _ _ _ _ => true
  | .vst _ _ _ _ _ => true
  | .vldbc _ _ _ _ _ => true
  | .tcfg _ _ _ _ _ _ _ => true
  | .tld _ _ _ _ _ _ _ _ => true
  | .tdrain _ _ _ _ _ _ => true
  | .tmma _ _ _ _ _ _ _ => true
  | .trel _ _ _ => true
  | .tzero _ _ _ => true
  | .tflags _ _ _ _ => true
  | .tclrf _ _ _ => true
  | .txcap _ _ _ => true
  | .tileStart _ _ => true
  | .matrixRowStep _ => true
  | .tldComplete _ => true
  | .tmmaComplete _ _ => true
  | .tdrainComplete _ => true
  | .dmago _ _ _ _ => true
  | .dmastat _ _ _ _ => true
  | .dmadis _ _ _ => true
  | .dmaBurst _ _ => true
  | .dmaChannelDone _ _ => true
  | .dmaChannelResume _ _ => true
  | .dmaTimeout _ _ => true
  | .creditRequest _ => true
  | .creditAnswer _ _ => true
  | .creditRetry _ _ => true
  | .creditReturn _ => true
  | .dataUnitCommit _ => true
  | .heldTrapEntry _ _ => true
  | .waitf _ _ _ _ _ => true
  | .setf _ _ _ _ => true
  | .clrf _ _ _ _ => true
  | .tstf _ _ _ _ => true
  | .waitb _ _ _ _ => true
  | .arrb _ _ _ => true
  | .flagMessageArrive _ => true
  | .barrierArrival _ => true
  | .barrierNotice _ => true
  | .threadWake _ _ => true
  | .timerFire _ _ => true
  | .watchdog _ _ => true
  | .copen _ _ _ _ _ => true
  | .copenComplete _ _ => true
  | .cclose _ _ _ => true
  | .msend _ _ _ _ _ _ => true
  | .mrecv _ _ _ _ => true
  | .mdone _ _ _ => true
  | .claimRequest _ => true
  | .claimGrant _ _ => true
  | .claimRetry _ _ => true
  | .messageUnitSend _ _ => true
  | .ringDispatch _ _ => true
  | .abandon _ _ _ => true
  | .release _ _ _ => true
  | .connectionRestore _ _ _ _ => true
  | .threadReset _ _ _ => true
  | .threadStart _ _ _ => true
  | .coreReset _ _ => true
  | .pmDataAccess _ _ _ => true
  | .lockWposWrite _ _ _ => true
  | .registerWrite _ _ _ _ => true
  | .pairLoRead _ _ => true
  | .pairHiRead _ _ => true
  | .pairHiWrite _ _ _ => true
  | .pairLoWrite _ _ _ => true
  | .rcRead _ _ => true
  | .tileQueuePush _ _ _ => true
  | .tileDdataAccess _ _ _ => true
  | .guardWrite _ _ _ _ => true
  | .vdataAccess _ _ _ => true
  | .psndataAccess _ _ _ => true
  | .meshPdataAccess _ _ _ => true
  | .meshUnitArrive _ _ => true
  | .patternLoad _ logp _ entries => decide (6 ≤ logp.toNat) && decide (logp.toNat ≤ 10) && entries.length == 7 * 2 ^ logp.toNat
  | .switchArm _ _ _ => true
  | .switchWithdraw _ _ => true
  | .patternDrainGuard _ => true
  | .patternSwitch => true
  | .flagSet _ _ _ => true
  | .flagClr _ _ _ => true
  | .complete _ _ _ => true
  | .barrierAbandon _ _ _ => true
  | .barrierReset _ _ _ => true
  | .tapRd tap _ _ => decide (tap.toNat < 320)
  | .tapWr tap => decide (tap.toNat < 320)
  | .tapData tap => decide (tap.toNat < 320)
  | .tapRetry _ _ => true
  | .refreshWindow _ => true
  | .patrolScrub tap found => decide (tap.toNat < 320) && found.length == 16
  | .rowRemap tap found => decide (tap.toNat < 320) && found.length == 32
  | .rmapGo _ _ => true
  | .stageFill tap _ _ => decide (tap.toNat < 320)
  | .stageInvalidate tap _ => decide (tap.toNat < 320)
  | .stageWriteback tap _ => decide (tap.toNat < 320)
  | .lpRetrain _ _ => true
  | .lpRetrainDone _ => true
  | .prefetchFetch region _ => decide (region.toNat < 20)
  | .elogRead _ => true
  | .translationWalk _ _ => true
  | .passEntry _ => true
  | .done _ => true
  | .flush _ => true
  | .flushed _ => true
  | .passBoundary _ => true
  | .passDeadline _ => true
  | .rollback _ => true
  | .writeApply _ _ => true
  | .remoteRead _ _ => true
  | .faultResolve at_ _ => at_.wf
  | .pageMigrate _ _ _ => true
  | .dmaXinv _ _ _ => true
  | .mtXinv _ _ => true
  | .fxXinv _ _ => true
  | .preemptFreeze _ => true
  | .coreSave _ => true
  | .coreRestore _ => true
  | .preemptResume _ => true
  | .flitReceive port f => decide (port.toNat < 41) && f.bytes.length == 256
  | .nak port _ => decide (port.toNat < 41)
  | .replayTimeout port => decide (port.toNat < 41)
  | .idle port => decide (port.toNat < 41)
  | .linkRetryBudget port => decide (port.toNat < 41)
  | .signalLoss port => decide (port.toNat < 41)
  | .train _ port => decide (port.toNat < 40)
  | .portTrained port _ _ _ _ => decide (port.toNat < 41)
  | .marker => true
  | .markerArrive port _ => decide (port.toNat < 40)
  | .markerMiss port => decide (port.toNat < 40)
  | .stepped => true
  | .lost => true
  | .spnCtrlWrite _ _ => true
  | .masterEnter => true
  | .masterLeave => true
  | .refclkLoss => true
  | .pllLock => true
  | .restCmd _ _ => true
  | .restRevolution _ => true
  | .packetReceive port _ _ => decide (port.toNat < 40)
  | .ack _ => true
  | .retransmit _ => true
  | .fabOut _ => true
  | .fabIn _ => true
  | .fill _ _ => true
  | .writeEnd _ => true
  | .writeAck _ => true
  | .fxRtdataAccess _ _ => true
  | .agreeDone _ => true
  | .agreeFlush _ => true
  | .agreeFlushed _ => true
  | .boundary _ => true
  | .fail _ => true
  | .rerun _ => true
  | .agreePreempt _ => true
  | .agreeResume _ => true
  | .scan _ _ _ => true
  | .convert _ _ _ => true
  | .reduceScan _ => true
  | .reduceData _ => true
  | .agreed _ => true
  | .result _ => true
  | .nexte _ => true
  | .contribLate _ _ _ => true
  | .hregRd _ _ _ => true
  | .hregWr _ _ _ _ => true
  | .memCpl _ _ => true
  | .hostLinkRecover => true
  | .cqTail _ _ => true
  | .cqHead _ _ => true
  | .ringConfigWrite _ _ => true
  | .completionWrite _ => true
  | .msi _ => true
  | .hb => true
  | .commandTimeout _ _ => true
  | .unlistedOpcode _ _ => true
  | .config _ _ => true
  | .routes _ _ _ => true
  | .launch _ _ _ => true
  | .cancel _ _ => true
  | .preempt _ _ => true
  | .resume _ _ => true
  | .loadpat _ _ => true
  | .switch _ _ => true
  | .copyIn _ _ _ => true
  | .copyOut _ _ => true
  | .readDtab _ _ => true
  | .jobStatus _ _ => true
  | .fwInfo _ _ => true
  | .fwLoad _ _ _ => true
  | .fwActivate _ _ => true
  | .attest _ _ _ sigs => sigs.length == 16608
  | .identity _ _ => true
  | .test _ _ _ => true
  | .testEnd _ _ => true
  | .svnCommit _ _ => true
  | .keyRevoke _ _ => true
  | .replace _ _ => true
  | .retire _ _ _ => true
  | .startUp _ found => (decide (found.toNat < 5) || decide (10 < found.toNat)) && decide (found.toNat ≤ 15)
  | .stepTime => true
  | .recoveryGo _ _ _ => true
  | .reboot _ => true
  | .handover => true
  | .handoverConfirm => true
  | .handoverConfirmTimeout => true
  | .flashWriteDone _ => true
  | .keyDerivation keys => keys.length == 432
  | .agreementSilence _ _ => true
  | .neighbourUnroutable _ _ => true
  | .heldTimeout _ => true
  | .retirementDecision row col cause => decide (row.toNat < 40) && decide (col.toNat < 80) && cause != 0
  | .retirementEffect _ => true
  | .portRetrain port => decide (port.toNat < 40)
  | .powerWindow _ _ => true
  | .marginRead region low high => decide (region.toNat < 20) && decide (low.toNat ≤ high.toNat)
  | .margin region => decide (region.toNat < 20)
  | .temperatureReading region _ _ _ _ => decide (region.toNat < 20)
  | .thermalTrip region _ _ => decide (region.toNat < 20)
  | .powerSequence => true
  | .seqfail rail => decide (rail.toNat ≤ 6)
  | .powerDown => true
  | .powerLoss => true
  | .overvoltage => true
  | .inputLow decivolts => decide (460 ≤ decivolts.toNat) && decide (decivolts.toNat < 480)
  | .inputHigh decivolts => decide (580 < decivolts.toNat) && decide (decivolts.toNat ≤ 600)
  | .sidebandWrite _ _ => true
  | .extest _ _ => true
  | .debugAccess _ _ => true
  | .stop _ _ _ => true
  | .debugRun _ _ _ => true
  | .step _ _ _ => true
  | .breakpoint _ _ _ => true
  | .bedStop _ => true
  | .dbgBedcmdStop _ _ => true
  | .dbgBedcmdRun _ _ => true
  | .trdataAccess _ _ _ => true
  | .spdataAccess _ _ _ => true
  | .captureWindowOpen _ => true
  | .captureWindowClose _ => true
  | .traceRead _ _ => true
  | .hsElogRead _ => true
  | .powerApplied decivolts => decide (460 ≤ decivolts.toNat) && decide (decivolts.toNat ≤ 600)
  | .slewing => true
  | .brepoLinkTraining => true
  | .portDisable _ port => decide (port.toNat < 40)
  | .retirementRecordWrite => true

end Sys2Proof
end

