-- ==== Sys2Proof/Safety.lean ====
section
/-! DEFINITION. What claims say of a run: a step that goes on, a thread that issues its instruction, and the canonical form of the
module's memories. -/

namespace Sys2Proof.Machine

/-- A step that neither faults nor is refused. -/
def State.goesOn (s : State) : Bool := match step s with
  | .next _ => true
  | _ => false

/-- Whether every command that waits is well-formed. -/
def State.queueWf (s : State) : Bool := s.pending.all Instr.wf

/-! ### Instructions of threads (04) -/

/-- The core and the thread of an instruction; none for a command that is none. -/
def threadOf : Instr → Option (CoreId × Thr)
  | .add c t _ _ _ | .sub c t _ _ _ | .and c t _ _ _ | .or c t _ _ _ | .xor c t _ _ _ | .mul c t _ _ _ | .shl c t _ _ _
  | .shr c t _ _ _ | .sar c t _ _ _ | .rot c t _ _ _ | .min c t _ _ _ | .max c t _ _ _ | .addc c t _ _ _ | .subc c t _ _ _
  | .mulh c t _ _ _ | .mulhu c t _ _ _ | .div c t _ _ _ | .divu c t _ _ _ | .rem c t _ _ _ | .remu c t _ _ _ | .mov c t _ _
  | .not c t _ _ | .cmp c t _ _ | .addi c t _ _ _ | .cmpi c t _ _ | .movi c t _ _ | .movil c t _ _ | .ldw c t _ _ _ | .ldh c t _ _ _
  | .ldhu c t _ _ _ | .ldb c t _ _ _ | .ldbu c t _ _ _ | .lds c t _ _ | .stw c t _ _ _ | .sth c t _ _ _ | .stb c t _ _ _ | .sts c t _ _
  | .nop c t | .push c t _ | .pop c t _ | .jr c t _ | .callr c t _ | .ret c t | .rte c t | .halt c t | .rdcyc c t _ | .mfs c t _
  | .mts c t _ | .settc c t _ | .clrtc c t | .waitt c t | .rdfs c t _ | .consume c t _ | .lbrk c t _ | .thrst c t _ | .thstart c t _ _
  | .setcc c t _ _ | .br c t _ | .jmp c t _ | .bcc c t _ _ _ | .call c t _ _ | .loop c t _ _ _ | .lock c t _ _ | .trylock c t _ _
  | .unlock c t _ | .lrst c t _ | .mft c t _ _ | .mtt c t _ _ | .trap c t _ | .reservedEncoding c t _ _ | .vadd c t _ _ _ _
  | .vsub c t _ _ _ _ | .vmul c t _ _ _ _ | .vfma c t _ _ _ _ _ | .vmin c t _ _ _ _ | .vmax c t _ _ _ _ | .vabs c t _ _ _
  | .vneg c t _ _ _ | .vdiv c t _ _ _ _ | .vsqrt c t _ _ _ | .vcmpeq c t _ _ _ _ | .vcmplt c t _ _ _ _ | .vcmple c t _ _ _ _
  | .vsel c t _ _ _ _ _ | .vand c t _ _ _ _ | .vor c t _ _ _ _ | .vxor c t _ _ _ _ | .vshl c t _ _ _ _ | .vshr c t _ _ _ _
  | .vsar c t _ _ _ _ | .vcvt c t _ _ _ _ _ | .vrsum c t _ _ _ | .vrmax c t _ _ _ | .vbcast c t _ _ _ | .vext c t _ _ _ _
  | .vins c t _ _ _ _ | .vseed c t _ _ | .vld c t _ _ _ | .vst c t _ _ _ | .vldbc c t _ _ _ | .tcfg c t _ _ _ _ _
  | .tld c t _ _ _ _ _ _ | .tdrain c t _ _ _ _ | .tmma c t _ _ _ _ _ | .trel c t _ | .tzero c t _ | .tflags c t _ _ | .tclrf c t _
  | .txcap c t _ | .dmago c t _ _ | .dmastat c t _ _ | .dmadis c t _ | .waitf c t _ _ _ | .setf c t _ _ | .clrf c t _ _ | .tstf c t _ _
  | .waitb c t _ _ | .arrb c t _ | .copen c t _ _ _ | .cclose c t _ | .msend c t _ _ _ _ | .mrecv c t _ _ | .mdone c t _ => some (c, t)
  | _ => none

/-! ### A thread that issues (03 R83, R89; 04 R137, R138; 19 R547 to R551) -/

/-- The actions of the breakpoints the thread meets at its PC; a breakpoint it stopped at is passed once. -/
def State.meets (s : State) (c : CoreId) (t : Thr) : List Nat :=
  if (s.th c t).bpPass then [] else (s.core c).bpActs t (s.th c t).pc

/-- Whether the thread issues `i` in its next slot, in which nothing stops, traps or stalls it: it is in RUN, no trap is held, no stop at
start and no end of a step is due, no breakpoint stops it, the words have good parity, the operands are not reserved, and its job is not past
the pass. -/
def State.issues (s : State) (c : CoreId) (t : Thr) (i : Instr) : Bool :=
  s.hasCore c && (s.th c t).state == .run && !(s.th c t).stalled && !s.passOver c && (s.th c t).held.isNone && !(s.th c t).sas
    && (s.th c t).step != 2 && (s.meets c t).all (fun a => a == 3)
    && ((s.core c).badFetch (s.th c t).pc (instrLen i)).isNone && !reservedOperands i && !(s.core c).tileStalls t i

/-- The state in the issue cycle, in which the instruction executes. -/
def State.atIssue (s : State) (c : CoreId) (t : Thr) (i : Instr) : State :=
  let x := s.th c t
  let cyc := s.issueCyc c t i
  let idle := (cyc - slotFrom t (later s.now x.next)).toNat / 4
  let u := (s.advanceTo cyc).onCore c fun k => k.count 4 (some t) idle
  let u := u.onTh c t fun x => { x with next := cyc + 4 }
  if s.meets c t ≠ [] then u.trace c 12 t 4 x.pc.toNat else u

/-- The state after an instruction whose execution left `u` and is followed by the next in order. -/
def State.thenNext (s : State) (c : CoreId) (t : Thr) (i : Instr) (u : State) : State :=
  (u.onTh c t fun y => y.loopEnd (s.th c t).pc (instrLen i)).issued c t (s.th c t).pc (isTile i)

/-- The state after an instruction that went to `target` from `u`. -/
def State.thenAt (s : State) (c : CoreId) (t : Thr) (i : Instr) (target : BitVec 15) (u : State) : State :=
  (u.onTh c t fun y => { y with pc := target }).issued c t (s.th c t).pc (isTile i)

/-- The state after an instruction that faulted in `u` and whose thread entered its trap. -/
def State.thenTrap (s : State) (c : CoreId) (t : Thr) (i : Instr) (code detail : Byte) (faddr : Word) (u : State) : State :=
  (u.issued c t (s.th c t).pc (isTile i)).takeTrap c t (s.th c t).pc code detail faddr

/-- The state after an instruction whose thread began to wait in `u` for an object of a kind. -/
def State.thenWait (s : State) (c : CoreId) (t : Thr) (i : Instr) (kind obj : Nat) (u : State) : State :=
  let u := u.onTh c t fun y =>
    { y with
      state := .wait
      waiting := some i
      wake := none
      waiton := BitVec.ofNat 32 (kind <<< 28 + obj)
      wcount := 0
      wrev := (s.issueCyc c t i).extractLsb' 12 48
      wlimit := (s.core c).wdogLimit t }
  -- a line that a commit of this cycle has set valid wakes the load that waits on it (07 R255)
  let u := if kind = 5 then u.onCore c fun k => k.wakeLines c (s.issueCyc c t i) else u
  (u.issued c t (s.th c t).pc false).trace c 3 t kind obj

/-- The claim that the thread, if it issues `i` in its next slot, comes to the state `u`. -/
def State.issuesTo (s : State) (c : CoreId) (t : Thr) (i : Instr) (u : State) : Prop :=
  s.issues c t i = true → exec i s = .next u

/-- The state after an instruction that writes `v` to scalar register `d`, ready `n` slots later, and goes on with the next in order. -/
def State.thenPut (s : State) (c : CoreId) (t : Thr) (i : Instr) (d : Reg) (v : Word) (n : Nat) : State :=
  s.thenNext c t i ((s.atIssue c t i).putG c t d v n)

/-- The state after an instruction that writes `v` to vector register `d`, ready `n` slots later, and goes on with the next in order. -/
def State.thenPutV (s : State) (c : CoreId) (t : Thr) (i : Instr) (d : Reg) (v : BitVec 512) (n : Nat) : State :=
  s.thenNext c t i ((s.atIssue c t i).putV c t d v n)

/-- The state after an instruction that changes its thread by `f` and goes on with the next in order. -/
def State.thenTh (s : State) (c : CoreId) (t : Thr) (i : Instr) (f : Thread → Thread) : State :=
  s.thenNext c t i ((s.atIssue c t i).onTh c t f)

/-- The state after an instruction that changes its core by `f` and goes on with the next in order. -/
def State.thenCore (s : State) (c : CoreId) (t : Thr) (i : Instr) (f : Core → Core) : State :=
  s.thenNext c t i ((s.atIssue c t i).onCore c f)

/-- The state in which a lane-wise instruction has written its results, each with its flags, to vector register `d` in lanes of `w` bits,
ready `lat` slots later, and made the flags they raise sticky (05 R194). -/
def State.putLanes (s : State) (c : CoreId) (t : Thr) (d : Reg) (w lat : Nat) (xs : List (Nat × Nat)) : State :=
  (s.putV c t d (ofLanes w (xs.map Prod.fst)) lat).onTh c t fun x => { x with sw := x.sw ||| BitVec.ofNat 32 (laneFlags xs <<< 8) }

/-! ### Register writes by commands (00 R10, R12) -/

/-- The claim that a command's write of a window register ends well: where it is accepted, with the effect `u`; where not, with no register
changed but, over the Brepo link, HL_ACCERR, and the path told so. -/
def State.winTakes (s : State) (p : Path) (c : CoreId) (o : Nat) (v : Word) (out : Host.Outcome State Fault Refusal) (u : State) : Prop :=
  s.hasCore c = true →
    (s.acceptsWin p c o v = true → out = .next (u.answer p false 0)) ∧
    (s.acceptsWin p c o v = false → out = .next ((if p = .brepo then s.accErr 2 (winOff c o) else s).answer p true 0))

/-- The same of a device register. -/
def State.devTakes (s : State) (p : Path) (off : Nat) (v : Word) (out : Host.Outcome State Fault Refusal) (u : State) : Prop :=
  (s.acceptsDev p off v = true → out = .next (u.answer p false 0)) ∧
  (s.acceptsDev p off v = false → out = .next ((if p = .brepo then s.accErr 2 off else s).answer p true 0))

/-! ### Host commands that are carried out (15 R471, R473; 16 R502; 17 R525) -/

/-- Whether `x` is the command of a ring with a CID and an opcode, may start or has started, and is not turned away in TEST. -/
def State.carries (s : State) (ring : BitVec 4) (cid : BitVec 16) (opc : Byte) (x : HostCmd) : Prop :=
  s.hostCmd ring cid (· == opc) = some x ∧
    (s.fld F.DEV_STATUS_STATE ≠ mTEST ∨ ([0x00, 0x10, 0x15, 0x16] : List Byte).contains x.opc = true)

/-- Whether such a command has not started. -/
def State.begins (s : State) (ring : BitVec 4) (cid : BitVec 16) (opc : Byte) (x : HostCmd) : Prop :=
  s.carries ring cid opc x ∧ x.started = false

/-- Whether it names the job `j`, and the job takes it. -/
def State.namesJob (s : State) (x : HostCmd) (j : Job) : Prop := s.job x.job = some j ∧ (j.st ≠ .held ∨ heldTakes x.opc = true)

/-- The window registers that counters and trace move whatever instruction runs: CORE_CNT0 to 3 and CORE_TRSTAT (19 R556, R557). -/
def measured (o : Nat) : Bool := (decide (0x240 ≤ o) && decide (o < 0x250)) || o == 0x25C

/-! ### Frames: what a command leaves unchanged -/

/-- No thread but one changes. -/
def State.keepsThreads (s s' : State) (c : CoreId) (t : Thr) : Prop := ∀ d u, d ≠ c ∨ u ≠ t → s'.th d u = s.th d u

/-- No thread changes but one, and that one neither a scalar nor a vector register. -/
def State.keepsRegs (s s' : State) (c : CoreId) (t : Thr) : Prop :=
  s.keepsThreads s' c t ∧ (∀ r, (s'.th c t).gr r = (s.th c t).gr r) ∧ (∀ r, (s'.th c t).vr r = (s.th c t).vr r)

/-- Every byte of every scratchpad and of the local memory reads as before, and no poison moves. -/
def State.keepsMem (s s' : State) : Prop :=
  (∀ d a, (s'.core d).spByte a = (s.core d).spByte a) ∧ (∀ a, s'.byte a = s.byte a) ∧ (∀ a, s'.psnAt a = s.psnAt a)

/-- Every window register but the measured ones, and every device register, is as before. -/
def State.keepsWindows (s s' : State) : Prop := (∀ d o, measured o = false → (s'.core d).w o = (s.core d).w o) ∧ s'.dev = s.dev

/-- A thread's status word outside the bits `m`, its stacks, its trap registers, its timer and its stochastic rounding are as before. -/
def Thread.keepsBut (x x' : Thread) (m : Word) : Prop :=
  x'.sw &&& ~~~m = x.sw &&& ~~~m ∧ x'.rs = x.rs ∧ x'.dsp = x.dsp ∧ x'.epc = x.epc ∧ x'.cause = x.cause ∧ x'.faddr = x.faddr ∧
    x'.tcmp = x.tcmp ∧ x'.key = x.key ∧ x'.ctr = x.ctr

/-! ### Canonical memories -/

/-- Whether the local memory and its poison are in canonical form (`SMap.wf`): no address twice, in rising order, no byte that an unlisted
address already reads. -/
def State.memWf (s : State) : Prop := SMap.wf (fun _ => (0 : Byte)) s.dram ∧ SMap.wf (fun _ => false) s.dramPsn

/-- Whether the memories of a core are in canonical form. -/
def Core.memWf (k : Core) : Prop :=
  SMap.wf (fun _ => (0 : Byte)) k.sp ∧ SMap.wf (fun _ => (0 : PWord)) k.pm ∧ SMap.wf (fun _ => false) k.valid ∧
    SMap.wf (fun _ => false) k.psn ∧ SMap.wf (fun _ => (0 : BitVec 2)) k.spPar ∧ SMap.wf (fun _ => false) k.pmPar

end Sys2Proof.Machine
end

