-- ==== Sys2Proof/Certificates/Slice0/Obligations.lean ====
section
/-! DEFINITION. The statements about the model: what its commands do, by family, what they leave unchanged, and what every step keeps. -/

open Sys2Proof Sys2Proof.Machine

/-! ### The queue, reset, and the memories -/

/-- A step with a command at the front of the queue is that command's effect on the state with the queue's rest; a step on an empty queue is one cycle of
the spindle count, where the block has power, and no change where it has none (the model's choice: log entry 1). -/
def Obligations.StepRunsTheFrontCommand : Prop :=
  (∀ (s : State) (c : Instr) (rest : List Instr), step { s with pending := c :: rest } = exec c { s with pending := rest }) ∧
  (∀ s : State, s.pending = [] → (s.power.pgood = true → step s = .next (s.advanceTo (s.now + 1))) ∧ (s.power.pgood = false → step s = .next s))

/-- 00 R15 and the register tables: what reset leaves, as far as the spec gives it: the queue is empty, no thread runs, the memories list nothing, and the
registers whose tables give a value other than 0 hold it. -/
def Obligations.ResetState : Prop :=
  let s := State.reset
  s.pending = [] ∧ s.memWf ∧ (∀ c t, (s.th c t).state = .idle ∧ ∀ r, (s.th c t).gr r = 0 ∧ (s.th c t).vr r = 0) ∧ (∀ c, (s.core c).memWf) ∧
  (∀ a, s.byte a = 0) ∧ (∀ c a, (s.core c).spByte a = 0) ∧ s.jobs = [] ∧ s.mesh = [] ∧ s.net = [] ∧
  s.fld F.SPN_CTRL_HOLD_BUDGET = 0x40 ∧ s.fld F.SPN_STATUS_SRC_PORT = 0x3F ∧ s.fld F.SPN_STATUS_HOPS = 0xF ∧ s.fld F.FX_CTRL_HOPLIM = 8 ∧
  s.fld F.PW_CTRL_CAP_EN = 1 ∧ s.fld F.PW_CAP_LIMIT = 0xAF0 ∧ s.fld F.HS_BOOT_STAT_STEP = 2 ∧ s.devW R.DEV_ID = 0x1F3A0C09 ∧
  (∀ c, (s.core c).fld F.DMA_TLIMIT_LIMIT = 0x800 ∧ (s.core c).fld F.MESH_FHDR_LOGP = 6 ∧ (s.core c).fld F.MESH_BHDR_LOGP = 6)

/-- 00 R15: a start-up resets every device register of the MOD domain and of those it contains and leaves every POR register; it keeps the local memory
where it is told to and empties it otherwise; the queue stands and every thread is IDLE. (That the queue stands is the model's: log entry 1.) -/
def Obligations.ResetDomains : Prop :=
  ∀ (s : State) (keep : Bool) (off : Nat), SMap.wf devReset s.dev →
    (devPor off = true → (s.modReset keep).devW off = s.devW off) ∧ (devPor off = false → (s.modReset keep).devW off = devReset off) ∧
    (s.modReset true).dram = s.dram ∧ (s.modReset false).dram = [] ∧ (s.modReset keep).pending = s.pending ∧
    (∀ c t, ((s.modReset keep).th c t).state = .idle)

/-- A command leaves the queue's rest as it finds it: none puts a command into the queue or takes one out. -/
def Obligations.CommandsLeaveTheQueue : Prop := ∀ (c : Instr) (s u : State), exec c s = .next u → u.pending = s.pending

/-- Every step keeps the local memory and its poison in canonical form: in rising order, no address twice, nothing listed that an unlisted address already
reads. -/
def Obligations.StepsKeepTheMemoryCanonical : Prop := ∀ s u : State, s.memWf → step s = .next u → u.memWf

/-! ### Encodings of instructions (04) -/

/-- 04 R131 to R164: the words of a well-formed instruction with no reserved operand decode to it, and are as many as its head word says; words that
decode to an instruction are that instruction's words. -/
def Obligations.InstructionWordsRoundTrip : Prop :=
  ∀ (c : CoreId) (t : Thr),
    (∀ i : Instr, threadOf i = some (c, t) → i.wf = true → reservedOperands i = false → (∀ h e, i ≠ .reservedEncoding c t h e) →
      decodeWords c t (headOf i) (encodeInstr i).tail = some i ∧ (encodeInstr i).length = nExt (headOf i) + 1) ∧
    (∀ (h : PWord) (e : List PWord) (i : Instr), e.length = nExt h → decodeWords c t h e = some i →
      encodeInstr i = h :: e ∧ threadOf i = some (c, t) ∧ reservedOperands i = false)

/-! ### Scalar instructions (03, 04) -/

/-- 03 R87, 04 R139: the two-register operations of one slot, and MUL, MULH and MULHU of two, complete with the result of the sources. 04 R139 to R142,
R146: shifts and the rotation take the amount from bits 4 to 0 of the second source; copies, complements and immediates; NOP changes no register. -/
def Obligations.ScalarResults : Prop :=
  (∀ (s : State) (c : CoreId) (t : Thr) (d a b : Reg),
      let p := (s.th c t).gr a
      let q := (s.th c t).gr b
      s.issuesTo c t (.add c t d a b) (s.thenPut c t (.add c t d a b) d (p + q) 1) ∧
      s.issuesTo c t (.sub c t d a b) (s.thenPut c t (.sub c t d a b) d (p - q) 1) ∧
      s.issuesTo c t (.and c t d a b) (s.thenPut c t (.and c t d a b) d (p &&& q) 1) ∧
      s.issuesTo c t (.or c t d a b) (s.thenPut c t (.or c t d a b) d (p ||| q) 1) ∧
      s.issuesTo c t (.xor c t d a b) (s.thenPut c t (.xor c t d a b) d (p ^^^ q) 1) ∧
      s.issuesTo c t (.min c t d a b) (s.thenPut c t (.min c t d a b) d (if p.toInt ≤ q.toInt then p else q) 1) ∧
      s.issuesTo c t (.max c t d a b) (s.thenPut c t (.max c t d a b) d (if p.toInt ≤ q.toInt then q else p) 1) ∧
      s.issuesTo c t (.mul c t d a b) (s.thenPut c t (.mul c t d a b) d (BitVec.ofNat 32 (p.toNat * q.toNat)) 2) ∧
      s.issuesTo c t (.mulh c t d a b) (s.thenPut c t (.mulh c t d a b) d (BitVec.ofInt 32 (p.toInt * q.toInt / 2 ^ 32)) 2) ∧
      s.issuesTo c t (.mulhu c t d a b) (s.thenPut c t (.mulhu c t d a b) d (BitVec.ofNat 32 (p.toNat * q.toNat / 2 ^ 32)) 2)) ∧
  (∀ (s : State) (c : CoreId) (t : Thr) (d a b : Reg) (m : BitVec 14) (l : BitVec 20) (w : Word),
      let p := (s.th c t).gr a
      let n := (((s.th c t).gr b).extractLsb' 0 5).toNat
      s.issuesTo c t (.shl c t d a b) (s.thenPut c t (.shl c t d a b) d (p <<< n) 1) ∧
      s.issuesTo c t (.shr c t d a b) (s.thenPut c t (.shr c t d a b) d (p >>> n) 1) ∧
      s.issuesTo c t (.sar c t d a b) (s.thenPut c t (.sar c t d a b) d (p.sshiftRight n) 1) ∧
      s.issuesTo c t (.rot c t d a b) (s.thenPut c t (.rot c t d a b) d (p >>> n ||| p <<< (32 - n)) 1) ∧
      s.issuesTo c t (.mov c t d a) (s.thenPut c t (.mov c t d a) d p 1) ∧
      s.issuesTo c t (.not c t d a) (s.thenPut c t (.not c t d a) d (~~~ p) 1) ∧
      s.issuesTo c t (.addi c t d a m) (s.thenPut c t (.addi c t d a m) d (p + m.signExtend 32) 1) ∧
      s.issuesTo c t (.movi c t d l) (s.thenPut c t (.movi c t d l) d (l.signExtend 32) 1) ∧
      s.issuesTo c t (.movil c t d w) (s.thenPut c t (.movil c t d w) d w 1) ∧
      s.issuesTo c t (.nop c t) (s.thenNext c t (.nop c t) (s.atIssue c t (.nop c t))))

/-- 03 R88: division writes its quotient or remainder, ready after 8 slots in which the thread issues nothing; by zero a quotient is all ones and a
remainder the dividend, and −2³¹ / −1 wraps. -/
def Obligations.DivisionResults : Prop :=
  ∀ (s : State) (c : CoreId) (t : Thr) (d a b : Reg),
    let p := (s.th c t).gr a
    let q := (s.th c t).gr b
    let u (i : Instr) (v : Word) : State :=
      s.thenNext c t i (((s.atIssue c t i).putG c t d v 8).onTh c t fun x => { x with next := (s.atIssue c t i).now + 32 })
    s.issuesTo c t (.div c t d a b) (u (.div c t d a b) (if q = 0 then 0xFFFFFFFF else BitVec.ofInt 32 (p.toInt.tdiv q.toInt))) ∧
    s.issuesTo c t (.divu c t d a b) (u (.divu c t d a b) (if q = 0 then 0xFFFFFFFF else BitVec.ofNat 32 (p.toNat / q.toNat))) ∧
    s.issuesTo c t (.rem c t d a b) (u (.rem c t d a b) (if q = 0 then p else BitVec.ofInt 32 (p.toInt.tmod q.toInt))) ∧
    s.issuesTo c t (.remu c t d a b) (u (.remu c t d a b) (if q = 0 then p else BitVec.ofNat 32 (p.toNat % q.toNat))) ∧
    (BitVec.ofInt 32 ((0x80000000 : Word).toInt.tdiv (0xFFFFFFFF : Word).toInt) = 0x80000000 ∧
      BitVec.ofInt 32 ((0x80000000 : Word).toInt.tmod (0xFFFFFFFF : Word).toInt) = 0)

/-- 03 R87, 04 R140, R141, R148: compares and ADDC and SUBC set Z, N, C and V from the exact result; SETcc, RDCYC, MFS and MTS. RDCYC into g7, which has
no gd + 1, takes ILLEGAL with the head word as FADDR. 04 R148: which condition codes hold, as a table of the four flags. -/
def Obligations.FlagsStatusAndConditions : Prop :=
  (∀ (s : State) (c : CoreId) (t : Thr) (d a b : Reg) (m : BitVec 14) (cc : BitVec 4),
      let x := s.th c t
      let p := x.gr a
      let q := x.gr b
      let k : Nat := if x.st bC then 1 else 0
      let ovf (z : Int) : Bool := z < -(2 ^ 31) || 2 ^ 31 ≤ z
      s.issuesTo c t (.cmp c t a b) (s.thenTh c t (.cmp c t a b) fun x =>
        x.setFlags (p - q) (decide (p.toNat < q.toNat)) (ovf (p.toInt - q.toInt))) ∧
      s.issuesTo c t (.cmpi c t a m) (s.thenTh c t (.cmpi c t a m) fun x =>
        x.setFlags (p - m.signExtend 32) (decide (p.toNat < (m.signExtend 32).toNat)) (ovf (p.toInt - m.toInt))) ∧
      s.issuesTo c t (.addc c t d a b) (s.thenNext c t (.addc c t d a b)
        (((s.atIssue c t (.addc c t d a b)).putG c t d (BitVec.ofNat 32 (p.toNat + q.toNat + k)) 1).onTh c t fun x =>
          x.setFlags (BitVec.ofNat 32 (p.toNat + q.toNat + k)) (decide (2 ^ 32 ≤ p.toNat + q.toNat + k)) (ovf (p.toInt + q.toInt + k)))) ∧
      s.issuesTo c t (.subc c t d a b) (s.thenNext c t (.subc c t d a b)
        (((s.atIssue c t (.subc c t d a b)).putG c t d (p - q - BitVec.ofNat 32 k) 1).onTh c t fun x =>
          x.setFlags (p - q - BitVec.ofNat 32 k) (decide (p.toNat < q.toNat + k)) (ovf (p.toInt - q.toInt - k)))) ∧
      s.issuesTo c t (.setcc c t d cc) (s.thenPut c t (.setcc c t d cc) d (if condHolds x cc then 1 else 0) 1) ∧
      s.issuesTo c t (.mfs c t d) (s.thenPut c t (.mfs c t d) d x.sw 1) ∧
      s.issuesTo c t (.mts c t a) (s.thenTh c t (.mts c t a) fun x => { x with sw := (x.sw &&& 0xFFFFC0F0) ||| (p &&& 0x3F0F) }) ∧
      (d ≠ 7 → s.issuesTo c t (.rdcyc c t d) (s.thenNext c t (.rdcyc c t d)
        (((s.atIssue c t (.rdcyc c t d)).putG c t d ((s.atIssue c t (.rdcyc c t d)).now.extractLsb' 0 32) 1).putG c t (d + 1)
          (((s.atIssue c t (.rdcyc c t d)).now.extractLsb' 32 28).zeroExtend 32) 1))) ∧
      s.issuesTo c t (.rdcyc c t 7) (s.thenTrap c t (.rdcyc c t 7) 0x01 0 ((headOf (.rdcyc c t 7)).zeroExtend 32)
        (s.atIssue c t (.rdcyc c t 7)))) ∧
  (∀ x : Thread,
      let z := x.sw.getLsbD 0
      let n := x.sw.getLsbD 1
      let c := x.sw.getLsbD 2
      let v := x.sw.getLsbD 3
      condHolds x 0 = z ∧ condHolds x 1 = !z ∧ condHolds x 2 = (n != v) ∧ condHolds x 3 = (n == v) ∧
      condHolds x 4 = (z || n != v) ∧ condHolds x 5 = (!z && n == v) ∧ condHolds x 6 = c ∧ condHolds x 7 = !c ∧
      condHolds x 8 = (c || z) ∧ condHolds x 9 = (!c && !z) ∧ condHolds x 10 = n ∧ condHolds x 11 = !n ∧
      condHolds x 12 = v ∧ condHolds x 13 = !v ∧ condHolds x 14 = true)

/-- 03 R92, R95; 04 R155: a load in range, of lines none of which is invalid or becomes valid in its cycle (07 R254, R255) and of words that are good,
reads its bytes, as they stand in the issue cycle, into its register. -/
def Obligations.LoadsReadTheScratchpad : Prop :=
  ∀ (s : State) (c : CoreId) (t : Thr) (d a : Reg) (off : Option (BitVec 14)) (m : BitVec 14),
    let x := s.th c t
    let w := wordAddr (x.gr a) off
    let b := byteAddr (x.gr a) off
    let v := wordAddr (x.gr a) (some m)
    let k (i : Instr) : Core := (s.atIssue c t i).core c
    let good (i : Instr) (w n : Nat) : Prop :=
      w + n ≤ 81920 ∧ (k i).heldLine (s.atIssue c t i).now w n = none ∧ ∀ j, w ≤ j → j < w + n → (k i).readFault j = none
    let put (i : Instr) (w : Nat) (f : Core → Word) : Prop := good i w 1 → s.issuesTo c t i (s.thenPut c t i d (f (k i)) 1)
    put (.ldw c t d a off) w (fun k => k.spWord w) ∧
    (b % 2 = 0 → put (.ldh c t d a off) (b / 4) fun k => (k.spByte (b + 1) ++ k.spByte b).signExtend 32) ∧
    (b % 2 = 0 → put (.ldhu c t d a off) (b / 4) fun k => (k.spByte (b + 1) ++ k.spByte b).zeroExtend 32) ∧
    put (.ldb c t d a off) (b / 4) (fun k => (k.spByte b).signExtend 32) ∧
    put (.ldbu c t d a off) (b / 4) (fun k => (k.spByte b).zeroExtend 32) ∧
    (x.dsp.toNat + m.toNat < (s.core c).dshi t → put (.lds c t d m) (x.dsp.toNat + m.toNat) fun k => k.spWord (x.dsp.toNat + m.toNat)) ∧
    (x.dsp.toNat < (s.core c).dshi t → good (.pop c t d) x.dsp.toNat 1 →
      s.issuesTo c t (.pop c t d) (s.thenNext c t (.pop c t d)
        (((s.atIssue c t (.pop c t d)).putG c t d ((k (.pop c t d)).spWord x.dsp.toNat) 1).onTh c t fun y => { y with dsp := x.dsp + 1 }))) ∧
    (good (.vld c t d a m) v 16 → s.issuesTo c t (.vld c t d a m) (s.thenPutV c t (.vld c t d a m) d
      (BitVec.ofNat 512 (ofLe (bytesOfWords ((k (.vld c t d a m)).spRange v 16)))) 1)) ∧
    (good (.vldbc c t d a m) v 1 → s.issuesTo c t (.vldbc c t d a m) (s.thenPutV c t (.vldbc c t d a m) d
      (BitVec.ofNat 512 (ofLe (bytesOfWords (List.replicate 16 ((k (.vldbc c t d a m)).spWord v))))) 1))

/-- 03 R92, R95; 04 R155; 07 R248: a store in range writes its bytes; a sub-word store needs a word that reads well, a half-word an even address; PUSH
lowers DSP first and a store of a whole line clears its poison; CONSUME clears a valid guarded line that no commit of its cycle has set (07 R253,
R255). -/
def Obligations.StoresWriteTheScratchpad : Prop :=
  ∀ (s : State) (c : CoreId) (t : Thr) (g a : Reg) (off : Option (BitVec 14)) (m : BitVec 14),
    let k := s.core c
    let x := s.th c t
    let w := wordAddr (x.gr a) off
    let b := byteAddr (x.gr a) off
    let v := wordAddr (x.gr a) (some m)
    let at_ (i : Instr) : Core := (s.atIssue c t i).core c
    let l := wordAddr (x.gr a) none / 16
    (w < 81920 → s.issuesTo c t (.stw c t g a off) (s.thenCore c t (.stw c t g a off) fun k => k.setSpWord w (x.gr g))) ∧
    (b < 327680 → b % 2 = 0 → (at_ (.sth c t g a off)).readFault (b / 4) = none →
      s.issuesTo c t (.sth c t g a off) (s.thenCore c t (.sth c t g a off) fun k =>
        (k.setSpByte b ((x.gr g).extractLsb' 0 8)).setSpByte (b + 1) ((x.gr g).extractLsb' 8 8))) ∧
    (b < 327680 → (at_ (.stb c t g a off)).readFault (b / 4) = none →
      s.issuesTo c t (.stb c t g a off) (s.thenCore c t (.stb c t g a off) fun k => k.setSpByte b ((x.gr g).extractLsb' 0 8))) ∧
    (x.dsp.toNat + m.toNat < k.dshi t → x.dsp.toNat + m.toNat < 81920 →
      s.issuesTo c t (.sts c t g m) (s.thenCore c t (.sts c t g m) fun k => k.setSpWord (x.dsp.toNat + m.toNat) (x.gr g))) ∧
    (k.dslo t < x.dsp.toNat → x.dsp.toNat ≤ 81920 →
      s.issuesTo c t (.push c t g) (s.thenNext c t (.push c t g) (((s.atIssue c t (.push c t g)).onCore c fun k =>
        k.setSpWord (x.dsp.toNat - 1) (x.gr g)).onTh c t fun y => { y with dsp := x.dsp - 1 }))) ∧
    (v + 16 ≤ 81920 → s.issuesTo c t (.vst c t g a m) (s.thenCore c t (.vst c t g a m) fun k =>
      let k := k.setSpWords v ((List.range 16).map fun i => (x.vr g).extractLsb' (32 * i) 32)
      if v % 16 = 0 then k.setPsn (v / 16) false else k)) ∧
    (∀ n, k.regionOf l = some n → k.isValid l = true → ((at_ (.consume c t a)).justSet (s.atIssue c t (.consume c t a)).now).contains l = false →
      s.issuesTo c t (.consume c t a) (s.thenCore c t (.consume c t a) fun k => (k.setValid l false).addCredit n 64))

/-- 07 R253: CONSUME acts on the line that holds word r[16:0]: a valid line of an enabled region becomes invalid and its region's credit grows by 64
bytes, never above COUNT × 64; otherwise the instruction only completes in its slot. A line that a commit of the issue cycle sets valid is one that
CONSUME finds invalid (R255). -/
def Obligations.ConsumeReturnsCredit : Prop :=
  ∀ (s : State) (c : CoreId) (t : Thr) (r : Reg),
    let k := s.core c
    let l := ((s.th c t).gr r).toNat % 2 ^ 17 / 16
    let found : Bool := k.isValid l && !(k.justSet (s.atIssue c t (.consume c t r)).now).contains l
    (∀ n, k.regionOf l = some n → found = true →
      s.issuesTo c t (.consume c t r) (s.thenCore c t (.consume c t r) fun k => (k.setValid l false).addCredit n 64)) ∧
    ((k.regionOf l = none ∨ found = false) →
      s.issuesTo c t (.consume c t r) (s.thenNext c t (.consume c t r) (s.atIssue c t (.consume c t r)))) ∧
    (∀ n, ((k.setValid l false).addCredit n 64).isValid l = false ∧
      ((k.setValid l false).addCredit n 64).credit n = Nat.min (64 * k.gCount n) (k.credit n + 64))

/-- 03 R93, R95; 07 R249, R254: where a load or store does not complete: RANGE and ALIGN with the byte address, STACK, PARITY and POISON with the bank and
the word's address, and a wait on a guarded line that is invalid or becomes valid in the cycle. -/
def Obligations.AccessFaultsAndGuardWaits : Prop :=
  ∀ (s : State) (c : CoreId) (t : Thr) (d a : Reg) (off : Option (BitVec 14)),
    let k := s.core c
    let x := s.th c t
    let w := wordAddr (x.gr a) off
    let b := byteAddr (x.gr a) off
    let at_ (i : Instr) : Core := (s.atIssue c t i).core c
    let now := (s.atIssue c t (.ldw c t d a off)).now
    (81920 ≤ w → s.issuesTo c t (.ldw c t d a off)
      (s.thenTrap c t (.ldw c t d a off) 0x03 0 (BitVec.ofNat 32 (4 * w)) (s.atIssue c t (.ldw c t d a off)))) ∧
    (81920 ≤ w → s.issuesTo c t (.stw c t d a off)
      (s.thenTrap c t (.stw c t d a off) 0x03 0 (BitVec.ofNat 32 (4 * w)) (s.atIssue c t (.stw c t d a off)))) ∧
    (b < 327680 → b % 2 = 1 → s.issuesTo c t (.ldh c t d a off)
      (s.thenTrap c t (.ldh c t d a off) 0x04 0 (BitVec.ofNat 32 b) (s.atIssue c t (.ldh c t d a off)))) ∧
    (b < 327680 → b % 2 = 1 → s.issuesTo c t (.sth c t d a off)
      (s.thenTrap c t (.sth c t d a off) 0x04 0 (BitVec.ofNat 32 b) (s.atIssue c t (.sth c t d a off)))) ∧
    (k.dshi t ≤ x.dsp.toNat → s.issuesTo c t (.pop c t d)
      (s.thenTrap c t (.pop c t d) 0x08 1 (x.dsp.zeroExtend 32) (s.atIssue c t (.pop c t d)))) ∧
    (x.dsp.toNat ≤ k.dslo t → s.issuesTo c t (.push c t d)
      (s.thenTrap c t (.push c t d) 0x08 0 ((x.dsp - 1).zeroExtend 32) (s.atIssue c t (.push c t d)))) ∧
    (w < 81920 → (at_ (.ldw c t d a off)).heldLine now w 1 = none → ∀ f, (at_ (.ldw c t d a off)).readFault w = some f → s.issuesTo c t (.ldw c t d a off)
      (s.thenTrap c t (.ldw c t d a off) f (BitVec.ofNat 8 (w % 32)) (BitVec.ofNat 32 (4 * w))
        ((s.atIssue c t (.ldw c t d a off)).spErr c 0 t 0 w))) ∧
    (w < 81920 → ∀ l, (at_ (.ldw c t d a off)).heldLine now w 1 = some l → s.issuesTo c t (.ldw c t d a off)
      (s.thenWait c t (.ldw c t d a off) 5 (16 * l) (s.atIssue c t (.ldw c t d a off))))

/-- 04 R147, 03 R96: where branches, calls and returns go; a call pushes the address of the next instruction, a return pops it; a return stack of 16
entries overflows and an empty one underflows with STACK. -/
def Obligations.BranchesCallsAndReturns : Prop :=
  ∀ (s : State) (c : CoreId) (t : Thr) (r : Reg) (cc : BitVec 4) (a : Bool) (e g : BitVec 15) (rest : List (BitVec 15)),
    let x := s.th c t
    let tgt (a : Bool) : BitVec 15 := if a then e else x.pc + e
    let pushed (i : Instr) (n : BitVec 15) : State := (s.atIssue c t i).onTh c t fun y => { y with rs := (x.pc + n) :: x.rs }
    s.issuesTo c t (.br c t e) (s.thenAt c t (.br c t e) (x.pc + e) (s.atIssue c t (.br c t e))) ∧
    s.issuesTo c t (.jmp c t e) (s.thenAt c t (.jmp c t e) e (s.atIssue c t (.jmp c t e))) ∧
    (cc ≠ 15 → condHolds x cc = true →
      s.issuesTo c t (.bcc c t cc a e) (s.thenAt c t (.bcc c t cc a e) (tgt a) (s.atIssue c t (.bcc c t cc a e)))) ∧
    (cc ≠ 15 → condHolds x cc = false →
      s.issuesTo c t (.bcc c t cc a e) (s.thenNext c t (.bcc c t cc a e) (s.atIssue c t (.bcc c t cc a e)))) ∧
    s.issuesTo c t (.jr c t r) (s.thenAt c t (.jr c t r) ((x.gr r).truncate 15) (s.atIssue c t (.jr c t r))) ∧
    (x.rs.length < 16 →
      s.issuesTo c t (.call c t a e) (s.thenAt c t (.call c t a e) (tgt a) (pushed (.call c t a e) 2)) ∧
      s.issuesTo c t (.callr c t r) (s.thenAt c t (.callr c t r) ((x.gr r).truncate 15) (pushed (.callr c t r) 1))) ∧
    (16 ≤ x.rs.length →
      s.issuesTo c t (.call c t a e) (s.thenTrap c t (.call c t a e) 0x07 0 0 (s.atIssue c t (.call c t a e))) ∧
      s.issuesTo c t (.callr c t r) (s.thenTrap c t (.callr c t r) 0x07 0 0 (s.atIssue c t (.callr c t r)))) ∧
    (x.rs = g :: rest → s.issuesTo c t (.ret c t)
      (s.thenAt c t (.ret c t) g ((s.atIssue c t (.ret c t)).onTh c t fun y => { y with rs := rest }))) ∧
    (x.rs = [] → s.issuesTo c t (.ret c t) (s.thenTrap c t (.ret c t) 0x07 1 0 (s.atIssue c t (.ret c t))))

/-- 03 R98 to R101: LOOP starts an inactive level with its start after itself, its end and its count, or with a count of 0 passes over the body; a level
in use, an end before the body, and a LOOP in a handler take LOOP faults; LBRK ends its level and those above. 03 R99: the loop-back. After an
instruction that ends the body of one active level, outside a handler, a count above 1 falls by one and the PC goes to the start; at 1 the level ends
and the next instruction follows. -/
def Obligations.LoopsRunAndEnd : Prop :=
  (∀ (s : State) (c : CoreId) (t : Thr) (lv : BitVec 2) (g : Reg) (e : BitVec 15),
      let x := s.th c t
      let i : Instr := .loop c t lv g e
      let ends (n : Nat) (y : Thread) : Thread :=
        if n < lv.toNat then y else ({ y with lc := SMap.set (fun _ => 0) y.lc n 0 } : Thread).setSt (16 + n) false
      let fits : Prop := x.st 4 = false ∧ x.st (16 + lv.toNat) = false ∧ (x.pc + 2).toNat ≤ e.toNat
      (fits → x.gr g ≠ 0 → s.issuesTo c t i (s.thenTh c t i fun y =>
        ({ y with
          ls := SMap.set (fun _ => 0) x.ls lv.toNat (x.pc + 2)
          le := SMap.set (fun _ => 0) x.le lv.toNat e
          lc := SMap.set (fun _ => 0) x.lc lv.toNat (x.gr g) }).setSt (16 + lv.toNat) true)) ∧
      (fits → x.gr g = 0 → s.issuesTo c t i (s.thenAt c t i (e + 1 + BitVec.ofNat 15 (nExt (pmGet (s.core c).pm e)))
        ((s.atIssue c t i).onTh c t fun y => { y with next := (s.atIssue c t i).now + 8 }))) ∧
      (x.st 4 = true → s.issuesTo c t i (s.thenTrap c t i 0x09 2 (lv.zeroExtend 32) (s.atIssue c t i))) ∧
      (x.st 4 = false → x.st (16 + lv.toNat) = true → s.issuesTo c t i (s.thenTrap c t i 0x09 0 (lv.zeroExtend 32) (s.atIssue c t i))) ∧
      (x.st 4 = false → x.st (16 + lv.toNat) = false → e.toNat < (x.pc + 2).toNat →
        s.issuesTo c t i (s.thenTrap c t i 0x09 1 (lv.zeroExtend 32) (s.atIssue c t i))) ∧
      s.issuesTo c t (.lbrk c t lv) (s.thenTh c t (.lbrk c t lv) fun y => ends 3 (ends 2 (ends 1 (ends 0 y))))) ∧
  (∀ (x : Thread) (a : BitVec 15) (n : Nat) (lv : BitVec 2),
      x.st 4 = false → x.st (16 + lv.toNat) = true → SMap.get (fun _ => 0) x.le lv.toNat = a →
      (∀ m : BitVec 2, m ≠ lv → x.st (16 + m.toNat) = false ∨ SMap.get (fun _ => 0) x.le m.toNat ≠ a) →
      (1 < (SMap.get (fun _ => (0 : Word)) x.lc lv.toNat).toNat →
        (x.loopEnd a n).pc = SMap.get (fun _ => 0) x.ls lv.toNat ∧
        SMap.get (fun _ => (0 : Word)) (x.loopEnd a n).lc lv.toNat = SMap.get (fun _ => 0) x.lc lv.toNat - 1 ∧
        (x.loopEnd a n).st (16 + lv.toNat) = true) ∧
      ((SMap.get (fun _ => (0 : Word)) x.lc lv.toNat).toNat ≤ 1 →
        (x.loopEnd a n).pc = a + BitVec.ofNat 15 n ∧ (x.loopEnd a n).st (16 + lv.toNat) = false))

/-- 04 R151, 03 R110, R120: MFT and MTT move thread registers, SETTC and CLRTC arm and clear the timer, HALT stops the thread, LRST frees an abandoned
lock. 03 R560: WAITT with TF set clears it and goes on, with TF clear and TA set waits on the timer, with both clear goes on. -/
def Obligations.ThreadRegistersTimersAndHalt : Prop :=
  (∀ (s : State) (c : CoreId) (t : Thr) (g : Reg) (n idx : BitVec 4),
      let x := s.th c t
      let v := x.gr g
      let at_ (i : Instr) : State := s.atIssue c t i
      s.issuesTo c t (.mft c t g idx) (s.thenPut c t (.mft c t g idx) g (trRead (s.core c) t idx.toNat) 1) ∧
      s.issuesTo c t (.mtt c t g idx) (s.thenCore c t (.mtt c t g idx) fun k => trWrite k t idx.toNat v) ∧
      s.issuesTo c t (.halt c t) (s.thenTh c t (.halt c t) fun y => { y with state := .halted }) ∧
      (v ≠ 0 → s.issuesTo c t (.settc c t g) (s.thenTh c t (.settc c t g) fun y =>
        (({ y with tcmp := (at_ (.settc c t g)).now + v.zeroExtend 60 }).setSt 6 true).setSt 5 false)) ∧
      (v = 0 → s.issuesTo c t (.settc c t g) (s.thenTh c t (.settc c t g) fun y =>
        (({ y with tcmp := (at_ (.settc c t g)).now }).setSt 6 false).setSt 5 true)) ∧
      s.issuesTo c t (.clrtc c t) (s.thenTh c t (.clrtc c t) fun y => (y.setSt 6 false).setSt 5 false) ∧
      ((s.core c).lock n = 2 → s.issuesTo c t (.lrst c t n) (s.thenCore c t (.lrst c t n) fun k => k.setLock n 0 0)) ∧
      ((s.core c).lock n = 1 → s.issuesTo c t (.lrst c t n) (s.thenTrap c t (.lrst c t n) 0x0A 2 (n.zeroExtend 32) (at_ (.lrst c t n))))) ∧
  (∀ (s : State) (c : CoreId) (t : Thr),
      let x := s.th c t
      (x.st 5 = true → s.issuesTo c t (.waitt c t) (s.thenTh c t (.waitt c t) fun y => y.setSt 5 false)) ∧
      (x.st 5 = false → x.st 6 = true → s.issuesTo c t (.waitt c t) (s.thenWait c t (.waitt c t) 6 0 (s.atIssue c t (.waitt c t)))) ∧
      (x.st 5 = false → x.st 6 = false → s.issuesTo c t (.waitt c t) (s.thenNext c t (.waitt c t) (s.atIssue c t (.waitt c t)))))

/-- 04 R137, R152: TRAP raises SOFT with its immediate, an encoding the decoder rejects raises ILLEGAL with its head word. -/
def Obligations.SoftTrapsAndReservedEncodings : Prop :=
  ∀ (s : State) (c : CoreId) (t : Thr) (imm : BitVec 9) (head : PWord) (ext : List PWord),
    s.issuesTo c t (.trap c t imm)
      (s.thenTrap c t (.trap c t imm) 0x0C (imm.truncate 8) (imm.zeroExtend 32) (s.atIssue c t (.trap c t imm))) ∧
    (ext.length = nExt head → decodeWords c t head ext = none → s.issuesTo c t (.reservedEncoding c t head ext)
      (s.thenTrap c t (.reservedEncoding c t head ext) 0x01 0 (head.zeroExtend 32) (s.atIssue c t (.reservedEncoding c t head ext))))

/-- 03 R116, R117, R111: LOCK and TRYLOCK take a FREE lock with status 0, answer 2 for an ABANDONED one, fault on the thread's own; a lock another thread
holds makes TRYLOCK answer 3 and LOCK wait in the lock's queue, or, with TF set, answer 1 at once and clear TF; UNLOCK is its owner's. -/
def Obligations.LocksAreTakenAndReleased : Prop :=
  ∀ (s : State) (c : CoreId) (t : Thr) (g : Reg) (n : BitVec 4),
    let k := s.core c
    let at_ (i : Instr) : State := s.atIssue c t i
    let taken (i : Instr) : State := ((at_ i).onCore c fun k => k.setLock n 1 t).putG c t g 0 1
    (k.lock n = 0 → s.issuesTo c t (.lock c t g n) (s.thenNext c t (.lock c t g n) (taken (.lock c t g n)))) ∧
    (k.lock n = 0 → s.issuesTo c t (.trylock c t g n) (s.thenNext c t (.trylock c t g n) (taken (.trylock c t g n)))) ∧
    (k.lock n = 2 → s.issuesTo c t (.lock c t g n) (s.thenPut c t (.lock c t g n) g 2 1)) ∧
    (k.lock n = 2 → s.issuesTo c t (.trylock c t g n) (s.thenPut c t (.trylock c t g n) g 2 1)) ∧
    (k.lock n = 1 → k.lockOwner n = t →
      s.issuesTo c t (.lock c t g n) (s.thenTrap c t (.lock c t g n) 0x0A 1 (n.zeroExtend 32) (at_ (.lock c t g n)))) ∧
    (k.lock n = 1 → k.lockOwner n = t →
      s.issuesTo c t (.trylock c t g n) (s.thenTrap c t (.trylock c t g n) 0x0A 1 (n.zeroExtend 32) (at_ (.trylock c t g n)))) ∧
    (k.lock n = 1 → k.lockOwner n ≠ t → s.issuesTo c t (.trylock c t g n) (s.thenPut c t (.trylock c t g n) g 3 1)) ∧
    (k.lock n = 1 → k.lockOwner n ≠ t → (s.th c t).st 5 = false → s.issuesTo c t (.lock c t g n)
      (s.thenWait c t (.lock c t g n) 3 n.toNat ((at_ (.lock c t g n)).onCore c fun k => k.setWaiters n (k.waiters n ++ [t])))) ∧
    (k.lock n = 1 → k.lockOwner n ≠ t → (s.th c t).st 5 = true → s.issuesTo c t (.lock c t g n)
      (s.thenNext c t (.lock c t g n) (((at_ (.lock c t g n)).onTh c t fun x => x.setSt 5 false).putG c t g 1 1))) ∧
    (k.lock n = 1 → k.lockOwner n = t → s.issuesTo c t (.unlock c t n)
      (s.thenCore c t (.unlock c t n) fun k => k.unlock n (at_ (.unlock c t n)).now)) ∧
    (k.lock n ≠ 1 ∨ k.lockOwner n ≠ t →
      s.issuesTo c t (.unlock c t n) (s.thenTrap c t (.unlock c t n) 0x0A 0 (n.zeroExtend 32) (at_ (.unlock c t n))))

/-- 03 R120, R129: THRST resets a sibling and faults on its own thread, THSTART starts one in IDLE or HALTED and says so in Z, a thread in another state,
its own among them, being left as it is; RDFS takes the oldest fault report. -/
def Obligations.SiblingsAndFaultReports : Prop :=
  ∀ (s : State) (c : CoreId) (t u : Thr) (r : Reg) (h : CoreId) (rest : List CoreId),
    let k := s.core c
    let at_ (i : Instr) : State := s.atIssue c t i
    let startable : Prop := (s.th c u).state = .idle ∨ (s.th c u).state = .halted
    (u ≠ t → s.issuesTo c t (.thrst c t u) (s.thenNext c t (.thrst c t u) ((at_ (.thrst c t u)).resetThread c u false))) ∧
    (s.issuesTo c t (.thrst c t t) (s.thenTrap c t (.thrst c t t) 0x01 0 ((headOf (.thrst c t t)).zeroExtend 32) (at_ (.thrst c t t)))) ∧
    (u ≠ t → startable → s.issuesTo c t (.thstart c t u r) (s.thenNext c t (.thstart c t u r) (((at_ (.thstart c t u r)).onCore c fun y =>
      y.startThread u (((s.th c t).gr r).truncate 15) ((at_ (.thstart c t u r)).now + 4)).onTh c t fun y => y.setSt 0 true))) ∧
    (¬ startable → s.issuesTo c t (.thstart c t u r) (s.thenNext c t (.thstart c t u r) (((at_ (.thstart c t u r)).onCore c fun y =>
      y.startThread u (((s.th c t).gr r).truncate 15) ((at_ (.thstart c t u r)).now + 4)).onTh c t fun y => y.setSt 0 false))) ∧
    (¬ startable → ∀ pc d, (k.startThread u pc d).th u = s.th c u) ∧
    (k.fsq = h :: rest → s.issuesTo c t (.rdfs c t r) (s.thenNext c t (.rdfs c t r) (((at_ (.rdfs c t r)).onCore c fun k =>
      ({ k with fsq := rest, fsqOvf := false } : Core).hwFlags c (at_ (.rdfs c t r)).now k.flagWord).putG c t r
        (BitVec.ofNat 32 ((if k.fsqOvf then 2 ^ 30 else 0) + h.toNat)) 1))) ∧
    (k.fsq = [] → s.issuesTo c t (.rdfs c t r) (s.thenNext c t (.rdfs c t r) (((at_ (.rdfs c t r)).onCore c fun k =>
      ({ k with fsq := [], fsqOvf := false } : Core).hwFlags c (at_ (.rdfs c t r)).now k.flagWord).putG c t r
        (BitVec.ofNat 32 (2 ^ 31 + if k.fsqOvf then 2 ^ 30 else 0)) 1)))

/-! ### Resets, traps and threads (03) -/

/-- 03 R119: a core reset makes all 16 locks FREE and discards all waiters. -/
def Obligations.CoreResetFreesLocks : Prop :=
  ∀ (s : State) (c : CoreId) (n : BitVec 4), ((s.resetCore c).core c).lock n = 0 ∧ ((s.resetCore c).core c).waiters n = []

/-- 03 R122: trap entry with IT clear. EPC takes the address given, CAUSE its code and detail with VALID, FADDR its value, IT is set, the PC takes TVEC,
the first handler instruction is 5 cycles away at the earliest; the thread's registers stand, and so does every other thread. 03 R125: RTE clears IT
and branches to EPC, a held TMMA of another address dropped; with IT clear it takes ILLEGAL. -/
def Obligations.TrapEntryAndReturn : Prop :=
  (∀ (s : State) (c : CoreId) (t : Thr) (a : BitVec 15) (code detail : Byte) (faddr : Word),
      let x := s.th c t
      let y := (s.takeTrap c t a code detail faddr).th c t
      x.st 4 = false →
      y.epc = a ∧ y.cause.extractLsb' 0 8 = code ∧ y.cause.extractLsb' 8 8 = detail ∧ y.cause.extractLsb' 16 16 = 0x8000 ∧
      y.faddr = faddr ∧ y.st 4 = true ∧ y.pc = (s.core c).tvec t ∧ y.state = .run ∧ y.next = s.now + 5 ∧
      y.g = x.g ∧ y.v = x.v ∧ y.dsp = x.dsp ∧ y.rs = x.rs ∧ y.ls = x.ls ∧ y.le = x.le ∧ y.lc = x.lc ∧
      (∀ i, i < 32 → i ≠ 4 → y.st i = x.st i) ∧
      ∀ d u, d ≠ c ∨ u ≠ t → (s.takeTrap c t a code detail faddr).th d u = s.th d u) ∧
  (∀ (s : State) (c : CoreId) (t : Thr),
      let k := (s.atIssue c t (.rte c t)).core c
      let x := s.th c t
      (x.st 4 = true → (∀ e ∈ k.tqOf 0 ++ k.tqOf 1, e.held = true → e.thr = t → e.pc ≠ x.epc) →
        s.issuesTo c t (.rte c t) (s.thenAt c t (.rte c t) x.epc ((s.atIssue c t (.rte c t)).onCore c fun k =>
          (k.dropHeld fun e => e.thr == t).onTh t fun y => y.setSt 4 false))) ∧
      (x.st 4 = false → s.issuesTo c t (.rte c t)
        (s.thenTrap c t (.rte c t) 0x01 0 ((headOf (.rte c t)).zeroExtend 32) (s.atIssue c t (.rte c t)))))

/-- 03 R127: a fault with IT set is a double fault: the thread enters STOPPED at the faulting instruction, EPC, CODE and FADDR keep the first fault, DCODE
takes the second code, DOUBLE is set. -/
def Obligations.DoubleFaultStopsTheThread : Prop :=
  ∀ (s : State) (c : CoreId) (t : Thr) (a : BitVec 15) (code detail : Byte) (faddr : Word),
    let x := s.th c t
    let y := (s.takeTrap c t a code detail faddr).th c t
    x.st 4 = true →
    y.state = .stopped ∧ y.pc = a ∧ y.epc = x.epc ∧ y.faddr = x.faddr ∧ y.cause.extractLsb' 0 16 = x.cause.extractLsb' 0 16 ∧
    y.cause.extractLsb' 16 8 = code ∧ y.cause.getLsbD 30 = true ∧ y.cause.getLsbD 31 = x.cause.getLsbD 31

/-- 03 R108, R110, R112, R113, R129: the wake of a waiting thread in its wake slot, or at once where a word that its guarded load was granted is bad (07
R254), the timer's fire, the watchdog's trap where nothing wakes the thread in its cycle, and a fault report at the supervisor. -/
def Obligations.ThreadEvents : Prop :=
  ∀ (s : State) (c : CoreId) (t : Thr) (i : Instr) (w : Wake) (m : NetMsg), s.hasCore c = true →
    let x := s.th c t
    let u := s.advanceTo (w.cyc - 1)
    let slot := slotFrom t (u.afterRest c (later (later u.now w.cyc) x.next))
    let dog := revStart (s.wdogRev c t)
    let wakes (d : Count) : Prop := exec (.threadWake c t) s =
      .next ((((u.advanceTo d).onCore c fun k => k.count 3 (some t) ((d - x.next).toNat / 4))).completeWait c t i w.status d)
    let bad : Bool := (SMap.get (fun _ => []) (u.core c).gots t.toNat).any fun v => v.2.isSome
    (x.state = .wait → x.wake = some w → (s.core c).waitInstr c t = some i → (bad = false → wakes slot) ∧ (bad = true → wakes u.now)) ∧
    (x.st 6 = true → x.state ≠ .wait → exec (.timerFire c t) s =
      .next ((s.advanceTo x.tcmp).onTh c t fun y => (y.setSt 6 false).setSt 5 true)) ∧
    (x.st 6 = true → x.state = .wait → x.timed = true → x.wake = none → exec (.timerFire c t) s =
      .next ((s.advanceTo x.tcmp).onTh c t fun y => { y.setSt 6 false with wake := some { cyc := x.tcmp + 2, status := 1 } })) ∧
    (x.state = .wait → x.wake = none → x.st 6 = false → s.eventAt c t dog = false → exec (.watchdog c t) s =
      .next ((s.advanceTo dog).takeTrap c t x.pc 0x0B (BitVec.ofNat 8 x.wkind)
        (BitVec.ofNat 32 ((if x.wkind = 4 then (s.core c).cnState (BitVec.ofNat 4 x.wobj) <<< 29 else 0) + x.wobj)))) ∧
    (earliest (fun m => m.src == c && m.body == .fault c) (fun _ _ => false) s.net = some m → exec (.faultReport c) s =
      .next (((s.dropMsg m).advanceTo m.due).onCore m.dst fun k =>
        ((k.count 9 none 1).pushFault c).hwFlags m.dst ((s.dropMsg m).advanceTo m.due).now k.flagWord))

/-- 03 R104, R119, R120, R561: register writes that a core accepts: resets and starts, the lock waiters, program memory, whose address steps. 03 R120:
CORE_CTRL.START of a thread in IDLE or HALTED puts it in RUN at its START address, to issue first in its first slot of the next revolution; a thread
in another state is left as it is. -/
def Obligations.CoreRegistersThatAct : Prop :=
  (∀ (s : State) (p : Path) (c : CoreId) (t : Thr) (v : Word), s.hasCore c = true →
      let to_ (u : State) : Host.Outcome State Fault Refusal := .next (u.answer p false 0)
      let a := (s.core c).fld F.CORE_PM_ADDR_ADDR
      (s.acceptsWin p c R.CORE_CTRL (BitVec.ofNat 32 (2 ^ (16 + t.toNat))) = true →
        exec (.threadReset p c t) s = to_ (s.resetThread c t false)) ∧
      (s.acceptsWin p c R.CORE_CTRL (BitVec.ofNat 32 (2 ^ (8 + t.toNat))) = true →
        exec (.threadStart p c t) s = to_ (s.startBit c t)) ∧
      (s.acceptsWin p c R.CORE_CTRL 1 = true → exec (.coreReset p c) s = to_ (s.resetCore c)) ∧
      (s.acceptsWin p c R.CORE_LOCK_WPOS v = true → exec (.lockWposWrite p c v) s = to_ (s.onCore c fun k => k.putWpos v)) ∧
      (s.acceptsWin p c R.CORE_PM_DATA v = true → (s.core c).atRest = true → exec (.pmDataAccess p c (some v)) s =
        to_ ((s.onCore c fun k => k.putPm a (v.truncate 14)).onCore c fun k => k.setFld F.CORE_PM_ADDR_ADDR ((a + 1) % 32768))) ∧
      (exec (.pmDataAccess p c none) s = .next ((s.onCore c fun k => k.setFld F.CORE_PM_ADDR_ADDR ((a + 1) % 32768)).answer p false
        (s.core c).pmData))) ∧
  (∀ (s : State) (c : CoreId) (t : Thr),
      let x := s.th c t
      let y := (s.startBit c t).th c t
      (x.state = .idle ∨ x.state = .halted → y.state = .run ∧ y.pc = (s.core c).start t ∧ y.next = revStart (s.rev + 1)) ∧
      (x.state ≠ .idle → x.state ≠ .halted → y = x))

/-! ### The vector unit (05) -/

/-- 05 R190, R193, R194: FP arithmetic and integer arithmetic lane by lane, with its latency, the spacing of FP64, the blocking of divisions and roots;
flags become sticky, and no lane is invalid or TNV is clear. -/
def Obligations.VectorArithmeticByLanes : Prop :=
  ∀ (s : State) (c : CoreId) (t : Thr) (f : BitVec 3) (d a b e : Reg),
    let x := s.th c t
    let A := lanesOf (vW f) (x.vr a)
    let B := lanesOf (vW f) (x.vr b)
    let E := lanesOf (vW f) (x.vr e)
    let quiet (r : List (Nat × Nat)) : Prop := x.st 13 = false ∨ badLane r = none
    let lat : Nat := if f = 1 then 4 else 2
    let long : Nat := if f = 1 then 16 else 8
    let gap (u : State) : State := if f = 1 then u.onTh c t fun y => { y with fp64 := u.now + 8 } else u
    let hold (u : State) : State := u.onTh c t fun y => { y with next := u.now + BitVec.ofNat 60 (4 * long) }
    let put (i : Instr) (n : Nat) (r : List (Nat × Nat)) : State := (s.atIssue c t i).putLanes c t d (vW f) n r
    (quiet (List.zipWith (laneAdd f) A B) → s.issuesTo c t (.vadd c t f d a b)
      (s.thenNext c t (.vadd c t f d a b) (gap (put (.vadd c t f d a b) lat (List.zipWith (laneAdd f) A B))))) ∧
    (quiet (List.zipWith (laneSub f) A B) → s.issuesTo c t (.vsub c t f d a b)
      (s.thenNext c t (.vsub c t f d a b) (gap (put (.vsub c t f d a b) lat (List.zipWith (laneSub f) A B))))) ∧
    (quiet (List.zipWith (laneMul f) A B) → s.issuesTo c t (.vmul c t f d a b)
      (s.thenNext c t (.vmul c t f d a b) (gap (put (.vmul c t f d a b) lat (List.zipWith (laneMul f) A B))))) ∧
    (quiet (List.zipWith (fun p z => laneFma f p.1 p.2 z) (List.zip A B) E) → s.issuesTo c t (.vfma c t f d a b e)
      (s.thenNext c t (.vfma c t f d a b e) (gap (put (.vfma c t f d a b e) lat (List.zipWith (fun p z => laneFma f p.1 p.2 z) (List.zip A B) E))))) ∧
    (quiet (List.zipWith (laneDiv f) A B) → s.issuesTo c t (.vdiv c t f d a b)
      (s.thenNext c t (.vdiv c t f d a b) (hold (put (.vdiv c t f d a b) long (List.zipWith (laneDiv f) A B))))) ∧
    (quiet (List.zipWith (fun x _ => laneSqrt f x) A A) → s.issuesTo c t (.vsqrt c t f d a)
      (s.thenNext c t (.vsqrt c t f d a) (hold (put (.vsqrt c t f d a) long (List.zipWith (fun x _ => laneSqrt f x) A A)))))

/-- 05 R190, R191: minima, maxima, signs and compares, two slots each. 05 R190, R191: select, logic and shifts raise no flag: every one completes. -/
def Obligations.VectorComparesSelectsAndShifts : Prop :=
  (∀ (s : State) (c : CoreId) (t : Thr) (f : BitVec 3) (d a b : Reg),
      let x := s.th c t
      let A := lanesOf (vW f) (x.vr a)
      let B := lanesOf (vW f) (x.vr b)
      let done (i : Instr) (r : List (Nat × Nat)) : Prop :=
        (x.st 13 = false ∨ badLane r = none) → s.issuesTo c t i (s.thenNext c t i ((s.atIssue c t i).putLanes c t d (vW f) 2 r))
      done (.vmin c t f d a b) (List.zipWith (laneMin f) A B) ∧
      done (.vmax c t f d a b) (List.zipWith (laneMax f) A B) ∧
      done (.vabs c t f d a) (List.zipWith (fun x _ => laneSign f false x) A A) ∧
      done (.vneg c t f d a) (List.zipWith (fun x _ => laneSign f true x) A A) ∧
      done (.vcmpeq c t f d a b) (List.zipWith (laneRel f false eqN fun a b => decide (a = b)) A B) ∧
      done (.vcmplt c t f d a b) (List.zipWith (laneRel f true (fun a b => leN a b && !leN b a) fun a b => decide (a < b)) A B) ∧
      done (.vcmple c t f d a b) (List.zipWith (laneRel f true leN fun a b => decide (a ≤ b)) A B)) ∧
  (∀ (s : State) (c : CoreId) (t : Thr) (f : BitVec 3) (d a b e : Reg),
      let x := s.th c t
      let w := vW f
      let A := lanesOf w (x.vr a)
      let B := lanesOf w (x.vr b)
      let E := lanesOf w (x.vr e)
      let done (i : Instr) (r : List Nat) : Prop :=
        s.issuesTo c t i (s.thenNext c t i ((s.atIssue c t i).putLanes c t d w 2 (r.map fun v => (v, 0))))
      done (.vsel c t f d a b e) (List.zipWith (fun p z => if z ≠ 0 then p.1 else p.2) (List.zip A B) E) ∧
      done (.vand c t f d a b) (List.zipWith (fun p q => (p &&& q) % 2 ^ w) A B) ∧
      done (.vor c t f d a b) (List.zipWith (fun p q => (p ||| q) % 2 ^ w) A B) ∧
      done (.vxor c t f d a b) (List.zipWith (fun p q => (p ^^^ q) % 2 ^ w) A B) ∧
      done (.vshl c t f d a b) (List.zipWith (fun p q => p <<< (q % w) % 2 ^ w) A B) ∧
      done (.vshr c t f d a b) (List.zipWith (fun p q => p >>> (q % w) % 2 ^ w) A B) ∧
      done (.vsar c t f d a b) (List.zipWith (fun p q => (sext w p / 2 ^ (q % w) % (2 ^ w : Nat)).toNat % 2 ^ w) A B))

/-- 05 R178, R191, R192: conversions, trees, broadcast, extraction, insertion and the seed. 05 R196: with TNV set an invalid lane faults with FP_INVALID,
DETAIL 0 and the lowest invalid lane as FADDR, and nothing is written. -/
def Obligations.VectorMovesConversionsAndTraps : Prop :=
  (∀ (s : State) (c : CoreId) (t : Thr) (f q : BitVec 3) (m : BitVec 2) (d a b : Reg),
      let x := s.th c t
      let at_ (i : Instr) : State := s.atIssue c t i
      let ls := (lanesOf (vW f) (x.vr a)).take (512 / vW q)
      let r := (ls.zip (List.range ls.length)).map fun (v, e) => laneCvt f q m.toNat (if m.toNat = sr then srBits x.key x.ctr e else 0) v
      let ins := lanesOf (vW f) (x.vr a)
      let add := tree (laneAdd f) (Nat.log2 ins.length) (ins.zip (List.range ins.length)) (0, none)
      let top := tree (laneMax f) (Nat.log2 ins.length) (ins.zip (List.range ins.length)) (0, none)
      let sum (i : Instr) (v fl : Nat) : State := s.thenNext c t i (((at_ i).putV c t d (ofLanes (vW f) [v]) 3).onTh c t fun y =>
        { y with sw := y.sw ||| BitVec.ofNat 32 (fl <<< 8) })
      let lane := (x.gr b).toNat % (512 / (if f = 1 then 32 else vW f))
      let w := if f = 1 then 32 else vW f
      (x.st 13 = false ∨ badLane r = none → s.issuesTo c t (.vcvt c t f q m d a) (s.thenNext c t (.vcvt c t f q m d a)
        (let u := (at_ (.vcvt c t f q m d a)).putLanes c t d (vW q) 2 r
         if m.toNat = sr then u.onTh c t fun y => { y with ctr := y.ctr + 1 } else u))) ∧
      (x.st 13 = false ∨ add.2.2 = none → s.issuesTo c t (.vrsum c t f d a) (sum (.vrsum c t f d a) add.1 add.2.1)) ∧
      (x.st 13 = false ∨ top.2.2 = none → s.issuesTo c t (.vrmax c t f d a) (sum (.vrmax c t f d a) top.1 top.2.1)) ∧
      s.issuesTo c t (.vbcast c t f d a) (s.thenPutV c t (.vbcast c t f d a) d
        (ofLanes (vW f) (List.replicate (512 / vW f) (x.gr a).toNat)) 1) ∧
      s.issuesTo c t (.vext c t f d a b) (s.thenPut c t (.vext c t f d a b) d
        (if f = 5 then BitVec.ofInt 32 (sext 8 ((x.vr a).toNat >>> (w * lane) % 2 ^ w)) else BitVec.ofNat 32 ((x.vr a).toNat >>> (w * lane) % 2 ^ w)) 1) ∧
      s.issuesTo c t (.vins c t f d a b) (s.thenPutV c t (.vins c t f d a b) d
        (ofLanes w ((lanesOf w (x.vr d)).set lane (x.gr a).toNat)) 1) ∧
      s.issuesTo c t (.vseed c t a b) (s.thenTh c t (.vseed c t a b) fun y => { y with key := x.gr a, ctr := x.gr b })) ∧
  (∀ (s : State) (c : CoreId) (t : Thr) (f : BitVec 3) (d a b : Reg) (l : Nat),
      let x := s.th c t
      let A := lanesOf (vW f) (x.vr a)
      let B := lanesOf (vW f) (x.vr b)
      x.st 13 = true → badLane (List.zipWith (laneAdd f) A B) = some l →
        s.issuesTo c t (.vadd c t f d a b)
          (s.thenTrap c t (.vadd c t f d a b) 0x0D 0 (BitVec.ofNat 32 l) (s.atIssue c t (.vadd c t f d a b))))

/-! ### Tiles (06) -/

/-- 06 R200 to R202: TCFG, TREL, TZERO, TFLAGS, TCLRF and TXCAP on a blank that no queued instruction names and that the thread owns; `k` is the core in
the issue cycle. 06 R204, R211, R212: TLD, TDRAIN and TMMA that pass their checks, image in the scratchpad, enter their queue where it has room; an
exact accumulator takes its pair and count at once, unless an instruction before it is still to set or to drain them; `k` is the core in the issue
cycle. -/
def Obligations.TileInstructions : Prop :=
  (∀ (s : State) (c : CoreId) (t : Thr) (b d : Reg) (f : BitVec 4) (rows bpr : BitVec 6) (pm : Bool),
      let k (i : Instr) : Core := (s.atIssue c t i).core c
      let to_ (i : Instr) (u : Core) : State := s.thenNext c t i ((s.atIssue c t i).setCore c u)
      let bytes := 4 * (bpr.toNat + 1)
      let mine (i : Instr) : Prop := (k i).tOwn t b = none
      (((k (.tcfg c t b f rows bpr pm)).tCfg b = false ∨ (k (.tcfg c t b f rows bpr pm)).tOwner b = t.toNat) →
        bytes % tGranule f.toNat = 0 → (rows.toNat + 1) * bytes ≤ 8192 → (k (.tcfg c t b f rows bpr pm)).tNamed b = false →
        s.issuesTo c t (.tcfg c t b f rows bpr pm) (to_ (.tcfg c t b f rows bpr pm)
          (((((k (.tcfg c t b f rows bpr pm)).dropHeld (names b)).tClear b).setW (R.TILE_CFG b.toNat)
            (BitVec.ofNat 32 (0x80000000 + t.toNat <<< 29 + b2n pm <<< 28 + f.toNat <<< 24 + rows.toNat <<< 18 + bpr.toNat <<< 12))).setW
            (R.TILE_ACC b.toNat) 0))) ∧
      ((k (.trel c t b)).tCfg b = true → (k (.trel c t b)).tOwner b = t.toNat → (k (.trel c t b)).tNamed b = false →
        s.issuesTo c t (.trel c t b) (to_ (.trel c t b) (((k (.trel c t b)).dropHeld (names b)).setW (R.TILE_CFG b.toNat) 0))) ∧
      (mine (.tzero c t b) → (k (.tzero c t b)).tNamed b = false →
        s.issuesTo c t (.tzero c t b) (to_ (.tzero c t b)
          ((((k (.tzero c t b)).dropHeld (names b)).tClear b).setW (R.TILE_ACC b.toNat) 0))) ∧
      (mine (.tflags c t d b) → (k (.tflags c t d b)).tWritten b = false →
        s.issuesTo c t (.tflags c t d b) (s.thenPut c t (.tflags c t d b) d
          (BitVec.ofNat 32 (bits ((k (.tflags c t d b)).w (R.TILE_CFG b.toNat)).toNat 9 5)) 1)) ∧
      (mine (.tclrf c t b) → (k (.tclrf c t b)).tWritten b = false →
        s.issuesTo c t (.tclrf c t b) (to_ (.tclrf c t b)
          ((k (.tclrf c t b)).setW (R.TILE_CFG b.toNat) ((k (.tclrf c t b)).w (R.TILE_CFG b.toNat) &&& 0xFFFFFC1F)))) ∧
      (((k (.txcap c t d)).tqOf 0 ++ (k (.txcap c t d)).tqOf 1).any (fun e => e.thr == t && e.open_) = false →
        s.issuesTo c t (.txcap c t d) (s.thenNext c t (.txcap c t d) (((s.atIssue c t (.txcap c t d)).setCore c
          { (k (.txcap c t d)).setW R.TILE_XCAP ((k (.txcap c t d)).w R.TILE_XCAP &&& 0x7FFFFFFF) with xcap := none }).putG c t d ((k (.txcap c t d)).w R.TILE_XCAP) 1))) ∧
      (∀ e, (k (.tzero c t b)).tOwn t b = some (e, b) →
        s.issuesTo c t (.tzero c t b) (s.thenTrap c t (.tzero c t b) 0x0E (BitVec.ofNat 8 e) (b.zeroExtend 32) (s.atIssue c t (.tzero c t b))))) ∧
  (∀ (s : State) (c : CoreId) (t : Thr) (b ta tb a g : Reg) (f : BitVec 4) (tr q z : Bool) (r : BitVec 2) (o : DrainOpt) (im : Nat × Nat × Nat × Nat),
      let k (i : Instr) : Core := (s.atIssue c t i).core c
      let now (i : Instr) : Count := (s.atIssue c t i).now
      let to_ (i : Instr) (u : Core) : State := s.thenNext c t i ((s.atIssue c t i).setCore c u)
      let ga := ((s.th c t).gr a).toNat % 2 ^ 17
      let gs := ((s.th c t).gr g).toNat % 2 ^ 17
      let fits : Prop := im.1 + (im.2.1 - 1) * im.2.2.1 + im.2.2.2 - 1 < 81920
      let ld : Instr := .tld c t b a g f tr r
      let dr : Instr := .tdrain c t b a g o
      let mm : Instr := .tmma c t b ta tb q z
      let n : Nat := if q then 1 else 0
      let u := (k mm).enqueue t mm n 0 0 (now mm)
      ((k ld).tldFault t b f.toNat tr = none → (k ld).tImage ld ga gs = some im → fits → ((k ld).tqOf 2).length < tileDepth 2 →
        s.issuesTo c t ld (to_ ld ((k ld).enqueue t ld 2 ga gs (now ld)))) ∧
      ((k dr).tdrainFault t b o = none → (k dr).tImage dr ga gs = some im → fits → ((k dr).tqOf 3).length < tileDepth 3 →
        s.issuesTo c t dr (to_ dr ((k dr).enqueue t dr 3 ga gs (now dr)))) ∧
      ((k mm).tmmaFault t b ta tb z = none → ((k mm).tqOf n).length < tileDepth n →
        (u.tFmt b ≠ 14 ∨ u.accPending b ≠ [] → s.issuesTo c t mm (to_ mm u)) ∧
        (u.tFmt b = 14 → u.accPending b = [] → s.issuesTo c t mm (to_ mm (u.setAccP b (u.accStep b (u.accP b) mm))))) ∧
      (∀ e, (k mm).tmmaFault t b ta tb z = some e →
        s.issuesTo c t mm (s.thenTrap c t mm 0x0E (BitVec.ofNat 8 e.1) (e.2.zeroExtend 32) (s.atIssue c t mm))))

/-- 06 R217 to R220: an entry that is ready starts 4 cycles after it became ready, the matrix unit runs the next row-step of the primary queue before the
fill queue's, a matrix instruction completes 8 cycles after its last row-step, and loads and drains complete. -/
def Obligations.TileEngineEvents : Prop :=
  ∀ (s : State) (c : CoreId) (q : BitVec 2) (fill z h tr : Bool) (n : Nat) (e : TEntry) (d : Count) (c' : CoreId) (t' : Thr) (b ta tb a g : Reg)
    (f : BitVec 4) (r : BitVec 2) (o : DrainOpt), s.hasCore c = true →
    let k := s.core c
    let t0 := s.afterRest c (k.readyAt (s.restOf c) e q.toNat s.now + 4)
    let v := s.advanceTo t0
    let x := k.th e.thr
    let regs : List (BitVec 512) := match e.i with
      | .tdrain _ _ _ _ _ o => [x.vr o.sreg, x.vr o.breg, x.vr o.creg]
      | _ => []
    let m : Nat := if fill then 1 else 0
    ((k.tqOf q.toNat).find? (fun e => e.start.isNone) = some e → e.held = false → s.frozenAt c = false → (k.th e.thr).state ≠ .debug →
      ((k.tqOf q.toNat).takeWhile fun y => y.seq ≠ e.seq).any (fun y => y.held) = false → k.tReady e = true →
      exec (.tileStart c q) s = .next ({ v.setCore c ((v.core c).putEntry q.toNat
        { e with start := some t0, next := t0, vregs := regs, key := x.key, ctr := x.ctr, free := v.free }) with
        free := v.free + ((v.core c).putEntry q.toNat { e with start := some t0, next := t0, vregs := regs, key := x.key, ctr := x.ctr, free := v.free }).freeOf e.i })) ∧
    (s.frozenAt c = false → k.nextRow = some (n, e, d) → e.i = .tmma c' t' b ta tb h z →
      exec (.matrixRowStep c) s = .next (s.startRow c n e (s.afterRest c d) b ta tb z)) ∧
    ((k.tqOf m).head? = some e → e.i = .tmma c' t' b ta tb h z → e.held = false → k.tmmaRows e.i ≤ e.row →
      let v := s.advanceTo (notBefore s.now (SMap.get (fun _ => 0) k.trow (64 * b.toNat + (k.tRows b - 1)) + 8))
      exec (.tmmaComplete c fill) s = .next ((v.setCore c (((v.core c).leave m e v.now).resume e)).trace c 6 e.thr m e.pc.toNat)) ∧
    ((k.tqOf 2).head? = some e → e.start ≠ none → s.frozenAt c = false → e.i = .tld c' t' b a g f tr r →
      exec (.tldComplete c) s = .next (s.loadDone c e b r)) ∧
    ((k.tqOf 3).head? = some e → e.start ≠ none → s.frozenAt c = false → e.i = .tdrain c' t' b a g o →
      exec (.tdrainComplete c) s = .next (s.drainDone c e b o))

/-! ### The engines of DMA, and credits (07) -/

/-- 07 R260, R261, R267, R268: DMAGO starts a free channel on a descriptor that is readable, in range and well formed, and traps where it is not; DMASTAT
reads a channel's status, DMADIS disables one. 07 R257 to R259, 08 R289, 12 R417: the receiver decides a request for credit in the cycle after its
arrival, and at the anchor of an edge tap requests and answers of other modules pass on; the channel takes the grant, ends with NOREGION, or asks
again 256 cycles after a refusal; a grant that is returned is added again, or passes on. -/
def Obligations.DmaInstructionsAndCredits : Prop :=
  (∀ (s : State) (c : CoreId) (t : Thr) (ch ga gd : Reg),
      let i : Instr := .dmago c t ch ga
      let a := ((s.th c t).gr ga).toNat % 2 ^ 17
      let k := (s.atIssue c t i).core c
      let free : Prop := k.chState ch ≠ chRunning ∧ k.chState ch ≠ chParked
      let ws := k.spRange a 8
      let trap (code detail : Byte) (f : Word) : Prop := s.issuesTo c t i (s.thenTrap c t i code detail f (s.atIssue c t i))
      (a % 8 ≠ 0 → trap 0x04 0 (BitVec.ofNat 32 (4 * a))) ∧
      (a % 8 = 0 → 81920 ≤ a + 7 → trap 0x03 0 (BitVec.ofNat 32 (4 * a))) ∧
      (a % 8 = 0 → a + 7 < 81920 → ¬ free → trap 0x0F 2 (ch.zeroExtend 32)) ∧
      (a % 8 = 0 → a + 7 < 81920 → free → k.firstBad ((List.range 8).map (a + ·)) = none →
        (descBad ws (40 * (s.atIssue c t i).L) = true → trap 0x0F 3 (BitVec.ofNat 32 (4 * a))) ∧
        (descBad ws (40 * (s.atIssue c t i).L) = false →
          (∀ w, (descOf ws).rangeFault = some w → trap 0x03 0 (BitVec.ofInt 32 (4 * w))) ∧
          ((descOf ws).rangeFault = none → s.issuesTo c t i (s.thenNext c t i ((s.atIssue c t i).startChan c t ch a ws))))) ∧
      (let j : Instr := .dmastat c t gd ch
       s.issuesTo c t j (s.thenPut c t j gd (((s.atIssue c t j).core c).w (R.DMA_CH_STAT ch.toNat)) 1)) ∧
      (let j : Instr := .dmadis c t ch
       s.issuesTo c t j (s.thenNext c t j ((s.atIssue c t j).disableCh c ch)))) ∧
  (∀ (s : State) (c : CoreId) (m : NetMsg) (ch : Reg) (gen left burst g : Nat) (ref noreg : Bool) (region : BitVec 3) (w : BitVec 17) (t : Count)
      (ctx : BitVec 14) (flow : BitVec 16) (va : BitVec 64), s.hasCore c = true →
      (earliest (fun m => m.asks c) reqBefore s.net = some m →
        let u := (s.dropMsg m).advanceTo (m.due + 1)
        let k := (u.core c).count 9 none 1
        let run (v : State) : Prop := exec (.creditRequest c) s = .next v
        (m.body = .creditReq ch gen w left burst →
          let region := k.regionFor (u.core m.src) w.toNat
          let r := k.decide_ region left burst
          run ((u.setCore c r.1).send c m.src (.creditAns ch gen r.2.1 r.2.2.1 r.2.2.2 (BitVec.ofNat 3 (region.getD 0))))) ∧
        (m.body = .fabricReq ctx va left burst →
          let n := bits (u.cw ctx.toNat 2) 14 12
          let r := k.decide_ (if k.gEn n && (k.regionAt va.toNat).isSome then some n else none) left burst
          run ((u.setCore c r.1).send c (u.rxEdge ctx.toNat) (.fabAns ctx va r.2.1 r.2.2.1 r.2.2.2))) ∧
        (m.body = .fabAsk ch gen ctx flow w left burst → run ((u.setCore c k).fabRequest c m.src ch gen ctx flow w left burst)) ∧
        (m.body = .fabAns ctx va g ref noreg →
          run ((u.setCore c k).originate ctx.toNat 2 (g + b2n ref * 2 ^ 20 + b2n noreg * 2 ^ 21) va.toNat []))) ∧
      (earliest (fun m => m.answers c ch) (fun _ _ => false) s.net = some m → m.body = .creditAns ch gen g ref noreg region →
        let k := (((s.dropMsg m).advanceTo m.due).core c).count 9 none 1
        let u := ((s.dropMsg m).advanceTo m.due).setCore c k
        let waits : Prop := gen = (k.ch ch).gen ∧ (k.chState ch = chRunning ∨ k.chState ch = chParked)
        let run (v : State) : Prop := exec (.creditAnswer c ch) s = .next v
        (¬ waits → run (u.grantBack c ch m.src gen g region)) ∧
        (waits → noreg = true → run ((u.onCore c fun k => k.onCh ch fun x => { x with asked := false }).endChan c ch 4)) ∧
        (waits → noreg = false → ref = true → run (u.onCore c fun k => k.onCh ch fun x => { x with retry := some (u.now + 256) })) ∧
        (waits → noreg = false → ref = false →
          run (u.setCore c (((k.setGrant ch (k.grant ch + g)).onCh ch fun x => { x with asked := false, region := region }).armCh ch u.rev)))) ∧
      (((s.core c).ch ch).retry = some t → (s.core c).chState ch = chRunning →
        exec (.creditRetry c ch) s = .next ((s.advanceTo t).askCredit c ch (s.advanceTo t).now)) ∧
      (earliest (fun m => m.returns c) (fun _ _ => false) s.net = some m →
        let u := ((s.dropMsg m).advanceTo m.due).onCore c fun k => k.count 9 none 1
        (m.body = .creditRet region g → exec (.creditReturn c) s = .next (u.onCore c fun k => k.addCredit region.toNat g)) ∧
        (m.body = .fabRet convCtx flow g → exec (.creditReturn c) s = .next (u.setConvFree (u.sideOf c) (u.convFree (u.sideOf c) + g)))))

/-- 07 R245, R263 to R265, 10 R335: the channel that takes the next slot of a flow, or of the local port, starts a burst there or goes on with the one in
progress: by one access of the local port, one unit to a core or the fabric, or one request to a tap; what a running channel expects and will not come
is asked for again in a slot from 256 cycles after its due cycle. 07 R266, R269 to R271, R273, R562, 08 R277, 10 R334: a channel that has ended, is
resumed, or runs out of time in a cycle in which no burst of its completes; a held trap that can be taken; a unit at output C. -/
def Obligations.DmaBurstsAndEngines : Prop :=
  (∀ (s : State) (c : CoreId) (flow : Option (BitVec 16)) (ch : Reg) (p : Pick) (fl : BitVec 16) (q e : TapReq) (d : Count), s.hasCore c = true →
      let f : Nat := (flow.map BitVec.toNat).getD 65536
      let v := (s.advanceTo p.t).onCore c fun k => k.takeArb p.ch f p.n p.todo
      let run (u : State) : Prop := exec (.dmaBurst c flow) s = .next u
      (s.pickChan c f = some p →
        (p.st = .loc → run (v.localStep c p.ch)) ∧
        (p.st = .send fl → run (v.sendUnit c p.ch fl)) ∧
        (p.st = .mem q → run (v.sendReq c p.ch q (p.todo.drop 1)))) ∧
      (s.overdue c ch = some e → s.ownedFrom c e.flow (notBefore (notBefore s.now (e.due + 256)) (s.core c).slotAt) = some d →
        exec (.tapRetry c ch) s = .next (s.tapAgain c ch e d))) ∧
  (∀ (s : State) (c : CoreId) (t : Thr) (ch : Reg) (e : Count) (code : Nat) (m : MeshUnit), s.hasCore c = true →
      let k := s.core c
      let u := s.outTaken c m
      let a := (u.core c).answers u.now m.u
      let v := if m.u.addr = 0x1FFFF then u else u.tapEnter c m.u a
      ((k.ch ch).ends = some (e, code) → k.chState ch = chRunning → exec (.dmaChannelDone c ch) s = .next ((s.advanceTo e).endChan c ch code)) ∧
      (exec (.dmaChannelResume c ch) s = .next (s.resumeCh c ch)) ∧
      (k.chState ch = chRunning → (k.ch ch).ends = none → s.burstEndsAt c ch (s.chDeadline c ch) = false →
        exec (.dmaTimeout c ch) s = .next ((s.advanceTo (s.chDeadline c ch)).endChan c ch 5)) ∧
      ((s.th c t).held.isSome = true → (s.th c t).state = .run ∨ (s.th c t).state = .wait →
        exec (.heldTrapEntry c t) s = .next (s.enterHeld c t)) ∧
      (s.unitAt c .outC = some m →
        (m.u.kind = 0 ∨ m.u.kind = 5 → exec (.dataUnitCommit c) s = .next (u.remoteWrite c m.u.addr.toNat m.u.words m.u.poison)) ∧
        (m.u.kind = 3 → ∀ x, a = some x → exec (.dataUnitCommit c) s = .next (v.tapBack c x.1 x.2 m.u)) ∧
        (m.u.kind = 3 → a = none → exec (.dataUnitCommit c) s = .next v)))

/-! ### Flags, barriers and registers (08, 00) -/

/-- 08 R290, R292, R295, R296, 03 R107, R111: WAITF and WAITB complete on their condition, with TIMER where TF is set, and wait otherwise; SETF and CLRF
send a message, or record BADCORE for a core that does not exist; TSTF reads a flag; ARRB arrives at a barrier. 08 R290, R291, R295, R296: the flag
changes, the arrivals, or the notice that reach a core in the next cycle in which any does take effect; arrivals at a barrier that is enabled count,
at another they are BADBAR, and the last complete the generation. -/
def Obligations.FlagsAndBarriers : Prop :=
  (∀ (s : State) (c : CoreId) (t : Thr) (d gc : Reg) (n : BitVec 6) (b : BitVec 4) (p : Bool),
      let wf : Instr := .waitf c t d n p
      let wb : Instr := .waitb c t d b
      let ab : Instr := .arrb c t b
      let k (i : Instr) : Core := (s.atIssue c t i).core c
      let flag (i : Instr) : Bool := (k i).flagWord.getLsbD n.toNat
      let past : Bool := (k wb).phase b != (k wb).tph t b
      let to_ : CoreId := ((s.th c t).gr gc).truncate 12
      let badCore (u : State) : State := (u.onCore c fun k => k.flagErr u.now 1 t.toNat 0 to_.toNat).toHeadstock (.flagUnit c 1)
      let timer (i : Instr) : State := s.thenNext c t i (((s.atIssue c t i).onTh c t fun x => x.setSt bTF false).putG c t d 1 1)
      let tf (i : Instr) : Bool := ((s.atIssue c t i).th c t).st bTF
      let supv : CoreId := BitVec.ofNat 12 ((k ab).fld F.CORE_SUPV_SUPV)
      let arr : State := (s.atIssue c t ab).onCore c fun k =>
        (k.setTph t b (k.phase b)).onTh t fun x => { x with arrived := x.arrived ||| (1#16 <<< b.toNat) }
      (flag wf = p → s.issuesTo c t wf (s.thenPut c t wf d 0 1)) ∧
      (flag wf ≠ p → tf wf = true → s.issuesTo c t wf (timer wf)) ∧
      (flag wf ≠ p → tf wf = false → s.issuesTo c t wf (s.thenWait c t wf 1 n.toNat (s.atIssue c t wf))) ∧
      (past = true → s.issuesTo c t wb (s.thenNext c t wb
        (((s.atIssue c t wb).onCore c fun k => k.endWaitb t b).putG c t d ((k wb).barStatus b) 1))) ∧
      (past = false → tf wb = true → s.issuesTo c t wb (timer wb)) ∧
      (past = false → tf wb = false → s.issuesTo c t wb (s.thenWait c t wb 2 b.toNat (s.atIssue c t wb))) ∧
      (let i : Instr := .setf c t gc n
       ((s.atIssue c t i).hasCore to_ = true → s.issuesTo c t i (s.thenNext c t i ((s.atIssue c t i).send c to_ (.flag n true)))) ∧
       ((s.atIssue c t i).hasCore to_ = false → s.issuesTo c t i (s.thenNext c t i (badCore (s.atIssue c t i))))) ∧
      (let i : Instr := .clrf c t gc n
       ((s.atIssue c t i).hasCore to_ = true → s.issuesTo c t i (s.thenNext c t i ((s.atIssue c t i).send c to_ (.flag n false)))) ∧
       ((s.atIssue c t i).hasCore to_ = false → s.issuesTo c t i (s.thenNext c t i (badCore (s.atIssue c t i))))) ∧
      (let i : Instr := .tstf c t d n
       s.issuesTo c t i (s.thenPut c t i d (if flag i then 1 else 0) 1)) ∧
      ((k ab).fld F.CORE_SUPV_VALID = 1 → s.issuesTo c t ab (s.thenNext c t ab (arr.send c supv (.arrival b)))) ∧
      ((k ab).fld F.CORE_SUPV_VALID ≠ 1 → s.issuesTo c t ab (s.thenNext c t ab ((arr.onCore c fun k => k.flagErr arr.now 2 0 b.toNat c.toNat).toHeadstock (.flagUnit c 2))))) ∧
  (∀ (s : State) (c : CoreId), s.hasCore c = true →
      let fs := s.arriving c NetBody.isFlag
      let ar := s.arriving c NetBody.isArrival
      let ns := (s.arriving c NetBody.isNotice).take 1
      (exec (.flagMessageArrive c) s = .next ((s.takeAll c fs).flagsArrive c fs)) ∧
      (exec (.barrierArrival c) s = .next ((List.range 16).foldl (fun s i =>
        s.arrive c i (ar.filter fun m => m.body == .arrival (BitVec.ofNat 4 i))) (s.takeAll c ar))) ∧
      (∀ (u : State) (i : Nat) (ms : List NetMsg) (m : NetMsg), ms.getLast? = some m →
        let cnt := (u.core c).fld (F.FLAG_BARCFG_COUNT i)
        let n := (u.core c).fld (F.FLAG_BARCFG_ARR i) + ms.length
        let open_ : Prop := (u.core c).fld (F.FLAG_BARCFG_EN i) ≠ 0 ∧ cnt ≠ 0
        (open_ → n < cnt → u.arrive c i ms = u.onCore c fun k => k.setFld (F.FLAG_BARCFG_ARR i) n) ∧
        (open_ → cnt ≤ n → u.arrive c i ms = u.completeBar c (BitVec.ofNat 4 i) (n - cnt) false m.src.toNat) ∧
        (¬ open_ → u.arrive c i ms = ms.foldl (fun s m => s.onCore c fun k => k.flagErr s.now 2 0 i m.src.toNat) u)) ∧
      (ns = [] → exec (.barrierNotice c) s = .next (s.takeAll c [])) ∧
      (∀ m b a, ns = [m] → m.body = .notice b a →
        exec (.barrierNotice c) s = .next ((s.takeAll c [m]).onCore c fun k => k.notice (s.takeAll c [m]).now b a)))

/-- 00 R10: commands that write a window register of a core act where the register accepts the write, and change no register but HL_ACCERR where it does
not: FLAG_SET and FLAG_CLR, FLAG_BARCMD, MESH_MCMD, MESH_CONN, TILE_QSEL, DMA_GUARDn, MESH_SWITCH, DMA_XINV and CORE_DBGCMD. 03 R104, 06 R241, 07
R275, 08 R303, 10 R355, 19 R554, R555, R557: the registers whose every access, a read or a write that is accepted, steps their pointer. -/
def Obligations.CoreRegistersAndStreams : Prop :=
  (∀ (s : State) (p : Path) (c : CoreId) (t : Thr) (mask v64 : BitVec 64) (b : BitVec 4) (n : BitVec 3) (v : Word) (rev : BitVec 16),
      s.winTakes p c R.FLAG_SET_LO (mask.truncate 32) (exec (.flagSet p c mask) s) ((s.emptyWl p).flagReg p c mask true) ∧
      s.winTakes p c R.FLAG_CLR_LO (mask.truncate 32) (exec (.flagClr p c mask) s) ((s.emptyWl p).flagReg p c mask false) ∧
      s.winTakes p c R.FLAG_BARCMD (BitVec.ofNat 32 (2 ^ 30 + b.toNat)) (exec (.complete p c b) s) (s.barCmd c 1 b) ∧
      s.winTakes p c R.FLAG_BARCMD (BitVec.ofNat 32 (2 ^ 31 + b.toNat)) (exec (.barrierAbandon p c b) s) (s.barCmd c 2 b) ∧
      s.winTakes p c R.FLAG_BARCMD (BitVec.ofNat 32 (2 ^ 31 + 2 ^ 30 + b.toNat)) (exec (.barrierReset p c b) s) (s.barCmd c 3 b) ∧
      s.winTakes p c R.MESH_MCMD (BitVec.ofNat 32 (2 ^ 30 + b.toNat)) (exec (.abandon p c b) s)
        (s.abandon c b) ∧
      s.winTakes p c R.MESH_MCMD (BitVec.ofNat 32 (2 ^ 31 + b.toNat)) (exec (.release p c b) s)
        (s.release c b.toNat) ∧
      s.winTakes p c (R.MESH_CONN b.toNat) v (exec (.connectionRestore p c b v) s) (s.restoreConn c b v) ∧
      s.winTakes p c R.TILE_QSEL v (exec (.tileQueuePush p c v) s) (s.onCore c fun k => k.putQsel c v s.now) ∧
      s.winTakes p c (R.DMA_GUARD n.toNat) v (exec (.guardWrite p c n v) s) (s.putGuard c n.toNat v) ∧
      s.winTakes p c R.MESH_SWITCH (BitVec.ofNat 32 (0x80000000 + rev.toNat)) (exec (.switchArm p c rev) s) (s.armSwitch c rev) ∧
      s.winTakes p c R.MESH_SWITCH 0 (exec (.switchWithdraw p c) s) (s.onCore c fun k => k.setFld F.MESH_SWITCH_ARM 0) ∧
      s.winTakes p c R.DMA_XINV_LO (v64.truncate 32) (exec (.dmaXinv p c v64) s) ((s.emptyWl p).dmaXinv c v64) ∧
      s.winTakes p c R.CORE_DBGCMD (dbgWord t 1) (exec (.stop p c t) s) (s.stopThread c t 1) ∧
      s.winTakes p c R.CORE_DBGCMD (dbgWord t 2) (exec (.debugRun p c t) s) (s.runThread c t) ∧
      s.winTakes p c R.CORE_DBGCMD (dbgWord t 3) (exec (.step p c t) s)
        ((s.onCore c fun k => k.runThread c t s.now true).refreeze c t)) ∧
  (∀ (s : State) (p : Path) (c : CoreId) (v : Word),
      let k := s.core c
      let vs := k.fld F.DMA_VSEL_INDEX
      let ps := k.fld F.MESH_PSNSEL_INDEX
      let rd (out : Host.Outcome State Fault Refusal) (w : Word) (f : Core → Core) : Prop :=
        s.hasCore c = true → out = .next ((s.onCore c f).answer p false w)
      (rd (exec (.tileDdataAccess p c none) s) k.dData Core.stepD ∧
        s.winTakes p c R.TILE_DDATA v (exec (.tileDdataAccess p c (some v)) s) ((s.onCore c fun k => k.putDData v).onCore c Core.stepD)) ∧
      (rd (exec (.vdataAccess p c none) s) (groupBits k.valid vs) (fun k => k.setFld F.DMA_VSEL_INDEX (stepGroup vs)) ∧
        s.winTakes p c R.DMA_VDATA v (exec (.vdataAccess p c (some v)) s)
          ((s.onCore c fun k => ({ k with valid := putGroup k.valid vs v } : Core).wakeLines c s.now).onCore c
            fun k => k.setFld F.DMA_VSEL_INDEX (stepGroup vs))) ∧
      (rd (exec (.psndataAccess p c none) s) (groupBits k.psn ps) (fun k => k.setFld F.MESH_PSNSEL_INDEX (stepGroup ps)) ∧
        s.winTakes p c R.MESH_PSNDATA v (exec (.psndataAccess p c (some v)) s)
          ((s.onCore c fun k => { k with psn := putGroup k.psn ps v }).onCore c fun k => k.setFld F.MESH_PSNSEL_INDEX (stepGroup ps))) ∧
      (rd (exec (.meshPdataAccess p c none) s) k.pdata Core.stepPsel ∧
        s.winTakes p c R.MESH_PDATA v (exec (.meshPdataAccess p c (some v)) s) ((s.onCore c fun k => k.putPdata v).onCore c Core.stepPsel)) ∧
      (rd (exec (.trdataAccess p c none) s) (k.trData (s.restOf c) s.rev) Core.stepTr ∧
        s.winTakes p c R.CORE_TRDATA v (exec (.trdataAccess p c (some v)) s) ((s.onCore c fun k => k.putTrData v).onCore c Core.stepTr)) ∧
      (rd (exec (.spdataAccess p c none) s) k.spData (fun k => k.spPerr.stepSp) ∧
        s.winTakes p c R.CORE_SPDATA v (exec (.spdataAccess p c (some v)) s) (s.onCore c fun k => (k.putSpData v).stepSp)) ∧
      (s.hasCore c = true → exec (.traceRead p c) s = .next ((s.readTrace p c).1.answer p false (s.readTrace p c).2)))

/-- 00 R10: commands that write a device register act where it accepts the write, and change no register but HL_ACCERR where it does not; reads of the
route table and of the error logs. -/
def Obligations.DeviceRegisterCommands : Prop :=
  ∀ (s : State) (p : Path) (v : Word) (v64 : BitVec 64) (bed : BitVec 5) (port : BitVec 6) (w : Bool) (img : FwImage),
    s.devTakes p R.MT_XINV_LO (v64.truncate 32) (exec (.mtXinv p v64) s) ((s.emptyWl p).mtXinv v64) ∧
    s.devTakes p R.FX_XINV_LO (v64.truncate 32) (exec (.fxXinv p v64) s) ((s.emptyWl p).fxXinv v64) ∧
    s.devTakes p R.MT_RMAP_CMD v (exec (.rmapGo p v) s)
      (if v.msb && decide (bits v.toNat 27 19 < 320) && decide (bits v.toNat 18 0 < 393216) then
        (({ s with rmapTap := bits v.toNat 27 19 } : State).wantRemap (bits v.toNat 27 19) (bits v.toNat 18 0) true).showLeft else s) ∧
    s.devTakes p R.LP_RETRAIN v (exec (.lpRetrain p v) s)
      ((s.setDev R.LP_RETRAIN (s.devW R.LP_RETRAIN ||| v)).setDev R.LP_TRAINED (s.devW R.LP_TRAINED &&& ~~~v)) ∧
    s.devTakes p R.SPN_CTRL v (exec (.spnCtrlWrite p v) s) (s.putSpnCtrl v) ∧
    s.devTakes p R.SPN_REST_CMD v (exec (.restCmd p v) s)
      (if isHs p then s.addRests (bits v.toNat 20 16) (bits v.toNat 7 0) else s) ∧
    (port.toNat < 40 →
      s.devTakes p (R.FX_PORT_CTRL port.toNat) 3 (exec (.train p port) s)
        ((s.setFld (F.FX_PORT_CTRL_EN port.toNat) 1).startTraining port.toNat) ∧
      s.devTakes p (R.FX_PORT_CTRL port.toNat) 0 (exec (.portDisable p port) s) (s.disablePort port.toNat)) ∧
    s.devTakes p R.HL_RCFG v (exec (.ringConfigWrite p v) s) (s.putRcfg v) ∧
    s.devTakes p R.DBG_BEDCMD (BitVec.ofNat 32 (2 ^ 30 + bed.toNat)) (exec (.dbgBedcmdStop p bed) s) (s.bedCmd bed.toNat 1) ∧
    s.devTakes p R.DBG_BEDCMD (BitVec.ofNat 32 (2 ^ 31 + bed.toNat)) (exec (.dbgBedcmdRun p bed) s) (s.bedCmd bed.toNat 2) ∧
    s.devTakes p R.HS_RECOV_CMD (BitVec.ofNat 32 (2 ^ 31 + b2n w * 2 ^ 30)) (exec (.recoveryGo p w img) s) (s.recover w img) ∧
    s.devTakes p R.HS_CTRL 1 (exec (.reboot p) s) (if s.power.pgood then s.reboot else s) ∧
    s.devTakes p R.FX_RTDATA v (exec (.fxRtdataAccess p (some v)) s) ((s.putRt (BitVec.ofNat 16 (s.fld F.FX_RTSEL_DMOD)) v).stepRt) ∧
    (exec (.fxRtdataAccess p none) s = .next (s.stepRt.answer p false s.rtData)) ∧
    (exec (.elogRead p) s = .next ((s.readElog p).1.answer p false (s.readElog p).2)) ∧
    (exec (.hsElogRead p) s = .next ((s.readHsElog p).answer p false (s.hsElogWord 0)))

/-- 00 R10 to R13, 15 R461 to R463, R469, 18 R542, 19 R545: what an access of any register on a path does: an aligned 32-bit access is carried out,
another answered ACCESS; host accesses that reach the module, doorbells, and the sideband. -/
def Obligations.AnyRegisterAccess : Prop :=
  ∀ (s : State) (p : Path) (off : BitVec 26) (width : Nat) (v : Word) (tag : BitVec 16) (o : BitVec 64) (ring : BitVec 4) (q : BitVec 16) (wr : Bool),
    (width = 4 → off.toNat % 4 = 0 → exec (.registerWrite p off width v) s = .next (s.pathWrite p off.toNat v)) ∧
    (width ≠ 4 ∨ off.toNat % 4 ≠ 0 → exec (.registerWrite p off width v) s = .next (s.answer p true 0)) ∧
    (exec (.pairLoRead p off) s = .next (s.pathRead p off.toNat)) ∧
    (exec (.pairHiRead p off) s = .next (s.pathRead p off.toNat)) ∧
    (exec (.rcRead p off) s = .next (s.pathRead p off.toNat)) ∧
    (exec (.pairHiWrite p off v) s = .next (s.pathWrite p off.toNat v)) ∧
    (exec (.pairLoWrite p off v) s = .next (s.pathWrite p off.toNat v)) ∧
    (off.toNat % 4 = 0 → s.pathRead p off.toNat = (s.readReg p off.toNat).1.answer p false (s.readReg p off.toNat).2) ∧
    (s.takesWrite p off.toNat v = true → s.pathWrite p off.toNat v = (s.write p off.toNat v).answer p false 0) ∧
    (s.takesWrite p off.toNat v = false →
      s.pathWrite p off.toNat v = (if p = .brepo then s.accErr 2 off.toNat else s).answer p true 0) ∧
    (s.hostReaches o width = true →
      exec (.hregRd tag o width) s =
        .next (((s.readReg .brepo o.toNat).1.answer .brepo false (s.readReg .brepo o.toNat).2).hostSend
          (.hregCpl tag (s.readReg .brepo o.toNat).2 false)) ∧
      (0x3000000 ≤ o.toNat → o.toNat < 0x3001000 →
        exec (.hregWr tag o width v) s = .next (s.doorbell (o.toNat - 0x3000000) (v.truncate 16))) ∧
      (¬ (0x3000000 ≤ o.toNat ∧ o.toNat < 0x3001000) →
        ∃ w, exec (.hregWr tag o width v) s =
          .next { (s.pathWrite .brepo o.toNat v).hostSend (.hregCpl tag w (!s.takesWrite .brepo o.toNat v)) with
                  free := (s.pathWrite .brepo o.toNat v).free + 1 })) ∧
    (s.portState 40 = portUp → exec (.cqTail ring q) s = .next (s.doorbell (4 * ring.toNat) q) ∧
      exec (.cqHead ring q) s = .next (s.doorbell (0x100 + 4 * ring.toNat) q)) ∧
    (s.power.stby = true → off.toNat % 4 = 0 → exec (.sidebandWrite off v) s = .next (s.pathWrite .sideband off.toNat v)) ∧
    (exec (.debugAccess p wr) s = .next (s.pathWrite p R.DBG_ACMD (BitVec.ofNat 32 (2 ^ 31 + b2n wr * 2 ^ 30))))

/-! ### The mesh (08, 09) -/

/-- 09 R307 to R309: COPEN with a good descriptor opens a receive connection on a free ring, or reserves a route and stalls while its request is decided
in the cycle after it arrives and the binding reply comes back, which opens the connection or answers NORING; CCLOSE closes a connection that is idle
and its own. 08 R279, R280, R284 to R286, 15 R477: a unit goes by the outputs whose entries name its input, or is discarded; a back bank loads while
no switch is armed; from the drain angle of N - 1 nothing starts, and at angle 0 of N the armed routers exchange banks, and the host's SWITCH for N
completes. -/
def Obligations.MeshConnections : Prop :=
  (∀ (s : State) (c : CoreId) (t : Thr) (d ga : Reg) (n : BitVec 4) (m : NetMsg) (ring route : BitVec 3) (r count : Nat) (ok : Bool),
      let i : Instr := .copen c t d n ga
      let j : Instr := .cclose c t n
      let at_ := s.atIssue c t i
      let k := at_.core c
      let a := ((s.th c t).gr ga).toNat % 2 ^ 17
      let w0 := (k.spWord a).toNat
      let w1 := (k.spWord (a + 1)).toNat
      let reads : Prop := a + 1 < 81920 ∧ k.firstBad [a, a + 1] = none
      let rg := bits w0 14 12
      let dest := bits w0 11 0
      let busy : Bool := k.cnState n != cnClosed || (at_.opening c fun _ x => x == n).isSome
      let recvOk : Prop := bit w0 31 = true ∧ bits w0 30 15 = 0 ∧ dest = 0 ∧ k.gEn rg = true ∧ bits w1 31 17 = 0 ∧ bits w1 16 0 + 255 < 81920
      let sendOk : Prop := bit w0 31 = false ∧ bits w0 30 15 = 0 ∧ dest < 40 * at_.L ∧ w1 = 0
      let routes := (List.range 8).filter fun x => k.fld (F.MESH_ROUTE_VALID x) = 1 && k.fld (F.MESH_ROUTE_DEST x) == dest
      let sup : CoreId := BitVec.ofNat 12 dest
      let q := (s.atIssue c t j).core c
      (81920 ≤ a + 1 → s.issuesTo c t i (s.thenTrap c t i 0x10 2 (BitVec.ofNat 32 (4 * a)) at_)) ∧
      (reads → recvOk → busy = false → k.ringOpen rg = false → k.rgOut rg = 0 →
        s.issuesTo c t i (s.thenNext c t i ((at_.setCore c (((k.emptyRing rg (k.gBase rg)).setW (R.MESH_RING rg)
          (BitVec.ofNat 32 (2 ^ 31 + bits w1 16 0))).setW (R.MESH_CONN n.toNat)
            (BitVec.ofNat 32 (cnRecv <<< 29 + t.toNat <<< 27 + rg <<< 24)))).putG c t d 0 1))) ∧
      (reads → recvOk → busy = true ∨ k.ringOpen rg = true ∨ k.rgOut rg ≠ 0 → s.issuesTo c t i (s.thenPut c t i d 3 1)) ∧
      (reads → sendOk → busy = true → s.issuesTo c t i (s.thenPut c t i d 3 1)) ∧
      (reads → sendOk → busy = false → routes = [] → s.issuesTo c t i (s.thenPut c t i d 4 1)) ∧
      (reads → sendOk → busy = false → routes ≠ [] → routes.find? (fun x => k.fld (F.MESH_ROUTE_BOUND x) = 0) = none →
        s.issuesTo c t i (s.thenPut c t i d 3 1)) ∧
      (reads → sendOk → busy = false → routes.find? (fun x => k.fld (F.MESH_ROUTE_BOUND x) = 0) = some r →
        let u := at_.onCore c fun k => (k.setFld (F.MESH_ROUTE_BOUND r) 1).onTh t fun x => { x with stalled := true, waiting := some i }
        s.issuesTo c t i ((u.send c sup (.openReq t n (BitVec.ofNat 3 rg) (BitVec.ofNat 3 r))).issued c t (s.th c t).pc false)) ∧
      (s.hasCore c = true → s.opening c (fun u _ => u == t) = some m →
        (m.body = .openReq t n ring route →
          let u := ((s.dropMsg m).advanceTo (m.due + 1)).onCore m.dst fun k => k.count 9 none 1
          let k := u.core m.dst
          exec (.copenComplete c t) s = .next (u.send m.dst c (.openAns t n ring route (k.ringOpen ring.toNat) (k.gCount ring.toNat)))) ∧
        (m.body = .openAns t n ring route ok count →
          exec (.copenComplete c t) s = .next (((s.dropMsg m).advanceTo m.due).bindReply c t m.src n ring route ok count m.due))) ∧
      (q.badConn t n true true = false → q.cnState n = cnRecv → q.rgOut (q.cnRing n).toNat = 0 → q.fld (F.MESH_RING_DISP (q.cnRing n).toNat) ≠ 1 →
        q.credit (q.cnRing n).toNat = 64 * q.gCount (q.cnRing n).toNat →
        s.issuesTo c t j (s.thenNext c t j ((s.atIssue c t j).setCore c (q.closeConn n)))) ∧
      (q.badConn t n true true = false → q.cnState n = cnIdle →
        s.issuesTo c t j (s.thenNext c t j ((s.atIssue c t j).setCore c (q.closeConn n)))) ∧
      (q.badConn t n true true = true → s.issuesTo c t j (s.thenTrap c t j 0x10 1 (BitVec.ofNat 32 n.toNat) (s.atIssue c t j)))) ∧
  (∀ (s : State) (c : CoreId) (port : BitVec 3) (m : MeshUnit) (logp : BitVec 4) (drain : BitVec 12) (es : List Word) (bed : BitVec 5) (n : BitVec 48),
      let u := ({ s with mesh := s.mesh.erase m } : State).advanceTo m.due
      let outs := u.outsFor c port (m.due.toNat % 4096)
      (s.hasCore c = true → s.unitAt c (.inp port) = some m →
        (outs = [] → exec (.meshUnitArrive c port) s = .next
          ((u.onCore c fun k => k.discard m.due 1 port.toNat (m.due.toNat % 4096) 0 m.u.flow).toHeadstock (.discard c 1))) ∧
        (outs ≠ [] → exec (.meshUnitArrive c port) s = .next (outs.foldl (fun s x => s.atOutput c m x.1 x.2) u))) ∧
      (s.hasCore c = true → 6 ≤ logp.toNat → logp.toNat ≤ 10 → es.length = 7 * 2 ^ logp.toNat →
        ((s.core c).fld F.MESH_SWITCH_ARM ≠ 1 →
          exec (.patternLoad c logp drain es) s = .next (s.onCore c fun k => k.loadBack logp.toNat drain.toNat es)) ∧
        ((s.core c).fld F.MESH_SWITCH_ARM = 1 → exec (.patternLoad c logp drain es) s = .next s)) ∧
      (s.armedFor (fun k => k.bed == some bed.toNat) = some n →
        exec (.patternDrainGuard bed) s = .next (s.advanceTo (revStart n - BitVec.ofNat 60 (s.drainG bed.toNat n)))) ∧
      (s.armedFor (fun _ => true) = some n →
        let v := s.advanceTo (revStart n)
        exec .patternSwitch s = .next ((v.exchangeAll n).jobs.foldl (fun s j => match j.swReq with
          | some (ring, cid, m) => if m = n ∧ (v.armedBeds n).contains j.bed.toNat = true then
              (s.complete ring cid stOK []).onJob j.id fun j => { j with swReq := none } else s
          | none => s) (v.exchangeAll n))))

/-- 09 R311 to R314, R320: MSEND of a message that fits asks for ring lines and waits; the receiver decides the claim; the answer starts the send, has it
asked for again, or ends it with NORING; units leave in owned slots of the route. 09 R316 to R318: MRECV branches to the handler of the message at the
head of its ring, or waits for one, with TIMER where TF is set; MDONE consumes it; the dispatcher acts on a head line in the cycle after it becomes
valid, and reports a line of TYPE 0. -/
def Obligations.MessagesAreSentAndReceived : Prop :=
  (∀ (s : State) (c : CoreId) (t : Thr) (n : BitVec 4) (ga gb : Reg) (h : BitVec 8) (m : NetMsg) (gen : Nat) (flow : BitVec 16) (ring : BitVec 3)
      (lines : Nat) (seq : BitVec 16) (res : ClaimRes) (e : Count) (o : Owed),
      let i : Instr := .msend c t n ga gb h
      let k := (s.atIssue c t i).core c
      let a := ((s.th c t).gr ga).toNat % 2 ^ 17
      let len := ((s.th c t).gr gb).toNat
      let fits : Prop := len % 4 = 0 ∧ len ≤ 4088 ∧ msgLines len ≤ ((k.cn n).count + 1) / 2
      let mine : Prop := k.badConn t n true false = false ∧ k.cnState n = cnIdle
      let trap (code detail : Byte) (f : Nat) : Prop := s.issuesTo c t i (s.thenTrap c t i code detail (BitVec.ofNat 32 f) (s.atIssue c t i))
      (mine → fits → len = 0 ∨ a + len / 4 ≤ 81920 →
        s.issuesTo c t i (s.thenWait c t i 4 (16 + n.toNat) (((s.atIssue c t i).onCore c fun k => (k.setCnState n cnWait).onCn n fun y =>
          { y with body := BitVec.ofNat 17 a, len := len, h := h, gen := y.gen + 1, padN := 0, sent := 0, retry := none, bad := none }).claimReq
            c n))) ∧
      (¬ mine → trap 0x10 1 n.toNat) ∧
      (mine → ¬ fits → trap 0x10 5 len) ∧
      (mine → fits → len ≠ 0 → 81920 < a + len / 4 → trap 0x03 0 (4 * Nat.max a 81920)) ∧
      (s.hasCore c = true →
        (earliest (fun m => m.claims c) reqBefore s.net = some m → m.body = .claimReq n gen flow ring lines seq →
          let u := ((s.dropMsg m).advanceTo (m.due + 1)).onCore c fun k => k.count 9 none 1
          let r := (u.core c).decideClaim u.now ring.toNat lines
          exec (.claimRequest c) s = .next ((u.setCore c r.1).send c m.src (.claimAns n gen flow lines seq r.2))) ∧
        (earliest (fun m => m.claimed c n) (fun _ _ => false) s.net = some m → m.body = .claimAns n gen flow lines seq res →
          let u := ((s.dropMsg m).advanceTo m.due).onCore c fun k => k.count 9 none 1
          let waits : Prop := gen = ((u.core c).cn n).gen ∧ (u.core c).cnState n = cnWait
          (waits → exec (.claimGrant c n) s = .next (u.setCore c ((u.core c).claimAnswer n u.now res))) ∧
          (¬ waits → exec (.claimGrant c n) s = .next (u.claimVoid c n flow m.src lines seq.toNat res))) ∧
        (((s.core c).cn n).retry = some e →
          let u := s.onCore c fun k => k.onCn n fun x => { x with retry := none }
          ((u.core c).cnState n = cnWait → exec (.claimRetry c n) s = .next ((u.advanceTo e).claimReq c n)) ∧
          ((u.core c).cnState n ≠ cnWait → exec (.claimRetry c n) s = .next u)) ∧
        ((s.core c).owed.find? (fun o => o.conn == n) = some o → s.freeSlot c o.flow = some e →
          exec (.messageUnitSend c n) s = .next (s.sendOwed c o e)) ∧
        (s.frozenAt c = false → (s.core c).owed.find? (fun o => o.conn == n) = none → (s.core c).maySend n = true →
          s.freeSlot c ((s.core c).cnFlow n) = some e →
          exec (.messageUnitSend c n) s = .next (s.sendMsgUnit c n ((s.core c).nextUnit c n) e)))) ∧
  (∀ (s : State) (c : CoreId) (t : Thr) (d : Reg) (n : BitVec 4) (ring : BitVec 3) (q : Core) (addr : Nat) (target : BitVec 15),
      let i : Instr := .mrecv c t d n
      let j : Instr := .mdone c t n
      let at_ := s.atIssue c t i
      let k := at_.core c
      let r := (k.cnRing n).toNat
      let kj := (s.atIssue c t j).core c
      let rj := (kj.cnRing n).toNat
      let l := kj.rgHead rj
      let lines := hdrLines (kj.hdr l)
      let ready : Prop := k.badConn t n false true = false ∧ d ≠ 7 ∧ k.fld (F.MESH_RING_DISP r) ≠ 1 ∧ (s.th c t).rs.length < 16
      let trap (code detail : Byte) (f : Nat) : Prop := s.issuesTo c t i (s.thenTrap c t i code detail (BitVec.ofNat 32 f) at_)
      (ready → (k.rg r).found = true → k.takeMsg r t at_.now n = some (q, addr, target) →
        s.issuesTo c t i (s.thenAt c t i target ((((at_.setCore c q).putG c t d 0 1).putG c t (d + 1) (BitVec.ofNat 32 addr) 1).onTh c t
          fun x => { x with rs := (x.pc + 2) :: x.rs }))) ∧
      (ready → (k.rg r).found = true → k.takeMsg r t at_.now n = none → trap 0x10 6 (hdrHandler (k.hdr (k.rgHead r)))) ∧
      (ready → (k.rg r).found = false → (at_.th c t).st bTF = true →
        s.issuesTo c t i (s.thenNext c t i ((at_.onTh c t fun x => x.setSt bTF false).putG c t d 1 1))) ∧
      (ready → (k.rg r).found = false → (at_.th c t).st bTF = false → s.issuesTo c t i (s.thenWait c t i 4 n.toNat at_)) ∧
      (k.badConn t n false true = true → trap 0x10 1 n.toNat) ∧
      (kj.badConn t n false true = false → kj.fld (F.MESH_RING_DISP rj) ≠ 0 →
        let u := ((kj.clearValid l lines).ringCredit rj (s.atIssue c t j).now (64 * lines)).setFld (F.MESH_RPTR_HEAD rj) (kj.rgNext rj l lines)
        s.issuesTo c t j (s.thenNext c t j ((s.atIssue c t j).setCore c
          ((u.setFld (F.MESH_RING_DISP rj) 0).setRg rj { u.rg rj with found := false })))) ∧
      (s.hasCore c = true → (s.core c).dispatch ring.toNat (s.now + 1) ≠ s.core c →
        let u := (s.advanceTo (s.now + 1)).onCore c fun k => k.dispatch ring.toNat (s.now + 1)
        (((u.core c).rg ring.toNat).stuck = false → exec (.ringDispatch c ring) s = .next u) ∧
        (((u.core c).rg ring.toNat).stuck = true → exec (.ringDispatch c ring) s = .next (u.toHeadstock (.ring c ring.toNat)))))

/-! ### The memory tier, translation and passes (10, 11) -/

/-- 10 R330 to R332, R334, R350: a read or a write that a tap accepts is carried out, and one it does not accept is discarded; 112 cycles later its return
leaves at input T of the anchor. 10 R336, R337, R340, R345, R348 to R350, R353, 11 R369: refresh windows, patrol scrubbing, row remapping, LPDDR6
retraining, the fills, invalidations and write-backs of the stage cache, and prefetches; a fill and a write-back take the cycles that the tap's units
leave free. -/
def Obligations.TapsAndTiers : Prop :=
  (∀ (s u : State) (tap : BitVec 9) (f g : EccFound) (m : MeshUnit) (ok : Bool) (r : TapRet) (rest : List TapRet) (a : BitVec 68), tap.toNat < 320 →
      let t := tap.toNat
      let q := reqOf m.u 0
      let w := reqOf m.u 16
      let v := (s.setTap t { s.tap t with rets := rest }).advanceTo r.due
      ((s.unitTaken m).acceptUnit t m.u = (u, ok) →
        (s.tapUnit t (fun u => u.kind != 2) = some m →
          (ok = false → exec (.tapRd tap f g) s = .next u) ∧
          (ok = true → q.stage = true → exec (.tapRd tap f g) s = .next (u.stageRead t q (reqBursts m.u) m.u.addr f g)) ∧
          (ok = true → q.stage = false → exec (.tapRd tap f g) s = .next (u.bondedRead t q (reqBursts m.u) m.u.addr f g))) ∧
        (s.tapUnit t (fun u => u.kind == 2) = some m →
          (ok = false → exec (.tapWr tap) s = .next u) ∧
          (ok = true → w.stage = true → exec (.tapWr tap) s = .next (u.stageWrite t w (m.u.words.take 16) (m.u.poison.getLsbD 0))) ∧
          (ok = true → w.stage = false → exec (.tapWr tap) s = .next ((u.preserve (tapAddr t w.burst)).putBurst (tapAddr t w.burst) w.mask
            (m.u.words.take 16) (m.u.poison.getLsbD 0))))) ∧
      ((s.tap t).rets = r :: rest →
        (r.ack = none → exec (.tapData tap) s = .next (v.putUnit (v.anchor t) (.inp 5) r.due r.u)) ∧
        (r.ack = some a → v.lines.any (fun l => l.addr == a && l.tap != t) = false →
          exec (.tapData tap) s = .next (v.putUnit (v.anchor t) (.inp 5) r.due r.u)) ∧
        (r.ack = some a → v.lines.any (fun l => l.addr == a && l.tap != t) = true → exec (.tapData tap) s = .next v))) ∧
  (∀ (s : State) (w : BitVec 3) (tap : BitVec 9) (found : List EccFound) (r : Remap) (line : BitVec 68) (e : LpErrs) (l : StageLine) (ch : BitVec 5)
      (n : Nat) (p : Packet) (f : FillReq) (q : InvReq) (dr : Count) (j : Job) (region : BitVec 5) (st : BitVec 4) (x : Stream) (i : Nat), tap.toNat < 320 →
      let t := tap.toNat
      let b : Word := 1#32 <<< ch.toNat
      let d := s.maintAt t s.rev
      let dl := s.roomAt t l 64
      let dw := s.roomAt t l l.wrote.length
      let v := s.advanceTo (s.windowAt w.toNat)
      (exec (.refreshWindow w) s = .next ((List.range 20).foldl (fun (s : State) k =>
        if bit w.toNat 0 || (w != 0 && s.hotWindows k) then s.setRegion k { s.rgn k with fresh := some s.now } else s) v)) ∧
      (found.length = 16 → s.fld F.MT_CTRL_SCRUB_EN ≠ 0 → (∀ x, s.remapNext t = some x → x.2 ≠ d) →
        exec (.patrolScrub tap found) s = .next (((s.advanceTo d).useMaint t).scrubbed t found)) ∧
      (found.length = 32 → s.remapNext t = some (r, dr) →
        exec (.rowRemap tap found) s = .next (((s.advanceTo dr).useMaint t).remapped t r found)) ∧
      (s.lineAt t line = some l → l.st = .filling → s.tapTaken t dl = false → lineModule line = s.ownModule → s.lpReady (lineLocal line) = true →
        (s.refuted l = true → exec (.stageFill tap line e) s = .next (s.dropLine t line)) ∧
        (s.refuted l = false → exec (.stageFill tap line e) s = .next ((s.advanceTo dl).fillLocal t l e))) ∧
      (s.lineAt t line = some l → l.st = .filling → s.tapTaken t dl = false → lineModule line ≠ s.ownModule →
        s.peerOf l.job (lineModule line) = some n → s.fillData n l = some (f, p) →
        exec (.stageFill tap line e) s = .next ((s.advanceTo dl).fillRemote t l n f p)) ∧
      (s.invs.find? (fun r => r.tap == t && r.addr == line) = some q →
        exec (.stageInvalidate tap line) s = .next (({ s with invs := s.invs.erase q } : State).invalidate t line)) ∧
      (s.lineAt t line = some l → l.st = .dirty → s.tapTaken t dw = false → s.mayReturn l = true →
        exec (.stageWriteback tap ⟨line, e⟩) s = .next ((s.advanceTo dw).returnLine t l e)) ∧
      (s.devW R.LP_RETRAIN &&& b ≠ 0 → exec (.lpRetrainDone ch) s =
        .next ((s.setDev R.LP_RETRAIN (s.devW R.LP_RETRAIN &&& ~~~b)).setDev R.LP_TRAINED (s.devW R.LP_TRAINED ||| b))) ∧
      (region.toNat < 20 → s.stream region.toNat st.toNat = some x → s.job x.job = some j → x.ahead_ = some i → s.fld F.MT_CTRL_PF_EN ≠ 0 →
        exec (.prefetchFetch region st) s = .next (s.prefetch region.toNat st.toNat x j i)))

/-- 11 R360, R361, R380 to R382: a walk ends for the first page that a running channel misses; the fault of a parked channel, a suspended stream or a
waiting remote request is resolved; a page migrates. 11 R370, R373, R379, 12 R419, R421: a home serves the oldest fill of a PEER context and takes in
writes up to WRITE_END; a source learns that they are applied. -/
def Obligations.TranslationAndRemoteMemory : Prop :=
  (∀ (s : State) (c : CoreId) (ch : Reg) (j : Job) (v : BitVec 36) (wr : Bool) (a : Int) (frame : BitVec 48) (f : Nat) (r : BitVec 5) (i : BitVec 4)
      (x : Stream) (n : BitVec 14) (id : JobId),
      (s.hasCore c = true → s.jobOf c = some j → (s.core c).chState ch = chRunning → ((s.core c).ch ch).ends = none →
        s.chMiss c ch j = some (v, wr, a) → exec (.translationWalk c ch) s = .next (s.walked c ch j v wr a)) ∧
      (s.hasCore c = true → s.jobOf c = some j → (s.core c).chState ch = chParked → (s.core c).fld (F.DMA_CH_STAT_CODE ch.toNat) = 8 →
        (s.chFault c ch j = none → exec (.faultResolve (.dma c ch) frame) s = .next (s.resumeCh c ch)) ∧
        (s.chFault c ch j = some (v, f) →
          exec (.faultResolve (.dma c ch) frame) s = .next (s.resolve j v f frame fun s => s.resumeCh c ch))) ∧
      (r.toNat < 20 → s.stream r.toNat i.toNat = some x → s.job x.job = some j → x.susp = true →
        (pteFault (j.pte x.nextPage) false = none →
          exec (.faultResolve (.stream r i) frame) s = .next (s.wakeStream r.toNat i.toNat x)) ∧
        (pteFault (j.pte x.nextPage) false = some f → exec (.faultResolve (.stream r i) frame) s =
          .next (s.resolve j x.nextPage f frame fun s => s.wakeStream r.toNat i.toNat x))) ∧
      (s.job (s.ctxJob n.toNat) = some j → s.ctxType n.toNat = ctxPeer → s.fabFault n.toNat j = some (v, f) →
        exec (.faultResolve (.fabric n) frame) s = .next (s.resolve j v f frame fun s => s)) ∧
      (exec (.pageMigrate id v frame) s = .next (s.migrate id v frame))) ∧
  (∀ (s : State) (n : BitVec 14) (j : Job) (p : Packet) (e : LpErrs), s.ctxType n.toNat = ctxPeer → s.job (s.ctxJob n.toNat) = some j →
      (exec (.remoteRead n e) s = .next (s.serveFill n.toNat j e)) ∧
      (exec (.fill n e) s = .next (s.serveFill n.toNat j e)) ∧
      ((s.ctx n.toNat).rx.find? (fun p => p.op == 6) = some p → exec (.writeEnd n) s = .next (s.takeWrites n.toNat j p)) ∧
      ((s.ctx n.toNat).rx.find? (fun p => p.op == 7) = some p → exec (.writeAck n) s = .next (s.homeAcks n.toNat j p)))

/-- 11 R384 to R387, 12 R422: a bed freezes, its cores are saved and restored, and it goes on; PREEMPT and RESUME pass down the tree. -/
def Obligations.PreemptionOfABed : Prop :=
  ∀ (s : State) (id : JobId) (j : Job) (n : BitVec 48) (c : CoreId) (x : SavedCore),
    (s.job id = some j → j.freezeAt = some n → exec (.preemptFreeze id) s = .next (s.freezeBed id j n)) ∧
    (s.job id = some j → j.thawAt = some n → s.saved.any (fun x => x.job == id) = false →
      exec (.preemptResume id) s = .next (s.thawBed id j n)) ∧
    (s.hasCore c = true → s.jobOf c = some j → j.frozen = true → s.claimOpen c = false → s.isSaved j.id c = false →
      let u := s.settleSends j c
      exec (.coreSave c) s = .next { u with saved := u.saved ++ [{ job := j.id, core := c, image := u.core c }] }) ∧
    (s.hasCore c = true → s.toRestore c = some x →
      exec (.coreRestore c) s = .next { s.setCore c ((s.core c).restored x.image) with saved := s.saved.erase x }) ∧
    (exec (.agreePreempt id) s = .next (s.passDown id kPreempt fun j n => { j with freezeAt := some n })) ∧
    (exec (.agreeResume id) s = .next (s.passDown id kResume Job.resumeAt))

/-- 11 R362, R363, R369, R370, R376, R380, 12 R421, R422, 02 R69: the vote, and outside LOST the agreement of the modules up to FLUSHED, where the writes
that meet a translation fault wait, the cores are prepared, and the naming of the next revolution. 11 R364, R366, R367, R374, R375, 17 R510 to R515:
the entry and the boundary of a pass, its deadline, rollback, FAIL and RERUN, and the losses of modules. -/
def Obligations.LifeOfAPass : Prop :=
  (∀ (s : State) (id : JobId) (j : Job) (l : List (BitVec 16 × List (BitVec 36))) (src : BitVec 16) (e : BitVec 16 × Nat) (x : AgreeIn),
      s.job id = some j →
      let ws := j.recv.filter fun w => w.modl == src
      let live : Prop := j.cause = none ∧ s.spin ≠ spLost
      (s.mayVote id j = true → exec (.done id) s = .next (s.vote id)) ∧
      (j.st = .done → live → j.sent.contains kDone = false → j.fromKids kDone = true →
        exec (.agreeDone id) s = .next ((s.onJob id fun y => { y.mark kDone with sums := s.subtreeSums j }).sendAgrees id j.parent.toList
          { AgreeMsg.of kDone j.pass 0 with sums := s.subtreeSums j })) ∧
      (j.st = .done → live → j.sent.contains kFlush = false → j.sent.contains kDone = true → j.flushSums = some l →
        ((j.mods.all fun m => l.any fun x => x.1 == m) = true → exec (.agreeFlush id) s =
          .next ((s.onJob id fun j => { j.mark kFlush with sums := l }).sendAgrees id j.liveKids { AgreeMsg.of kFlush j.pass 0 with sums := l })) ∧
        ((j.mods.all fun m => l.any fun x => x.1 == m) = false → exec (.agreeFlush id) s = .next (s.failJob id 5))) ∧
      (j.st = .done → live → j.sent.contains kFlush = true → ((s.homeDirty id).all fun l => s.lpReady (lineLocal l.addr)) = true → exec (.flush id) s = .next (s.flushJob id j)) ∧
      ((j.st = .flush ∨ j.st = .flushed) → j.applied.contains src = false → (s.sources j).all (fun m => src.toNat ≤ m.toNat || j.applied.contains m) = true →
        j.ends.find? (fun e => e.1 == src) = some e →
        (ws.length = e.2 → (∀ v, j.writeFaults ws = some v → exec (.writeApply id src) s = .next (s.toHeadstock (.xlate id v true none))) ∧
          (j.writeFaults ws = none → exec (.writeApply id src) s = .next (if s.writesWait j ws then s else s.applyWrites j src e.2 ws))) ∧
        (ws.length ≠ e.2 → exec (.writeApply id src) s = .next (s.failJob id 5))) ∧
      (j.st = .flush → live → j.sentEnd.all (fun m => j.ackEnd.contains m) = true → (s.sources j).all (fun m => j.applied.contains m) = true →
        ((j.copyIns.filter fun x => x.voted).all fun x => s.rangeUp j x.va x.bytes.length) = true →
        exec (.flushed id) s = .next ((((j.copyIns.filter fun x => x.voted).foldl (fun s x => s.applyCopy id x) s).onJob id
          fun j => { j with st := .flushed }).eachCore j State.prepCore)) ∧
      (j.st = .flushed → live → j.sent.contains kFlushed = false → j.fromKids kFlushed = true →
        exec (.agreeFlushed id) s = .next ((s.onJob id fun j => j.mark kFlushed).sendAgrees id j.parent.toList (AgreeMsg.of kFlushed j.pass 0))) ∧
      (j.st = .flushed → live → j.sent.contains kFlushed = true →
        (j.parent = none →
          let n := s.rev + BitVec.ofNat 48 j.lead
          exec (.boundary id) s = .next (s.nameRev id j (AgreeMsg.of kBoundary j.pass n) n false false)) ∧
        (j.parent.isSome = true → j.fromParent kBoundary = some x →
          let n : BitVec 48 := x.msg.n.truncate 48
          exec (.boundary id) s = .next (s.nameRev id j (AgreeMsg.of kBoundary j.pass n) n false (lateFor x.at_ n))))) ∧
  (∀ (s : State) (id : JobId) (j k : Job) (n r : BitVec 48) (x : AgreeIn) (rank : BitVec 16) (c : Nat) (p : SentPkt), s.job id = some j →
      let m := j.mods.getD rank.toNat 0xFFFF
      (j.named = some n → j.entered = false → (j.begun = true → j.again = true → j.rolled = true) → (j.cause = none ∨ j.again = true) →
        s.mayStart j = true → exec (.passEntry id) s = .next (s.enterPass id j n)) ∧
      (j.named = some n → j.entered = true → (j.cause = none ∨ j.again = true) → exec (.passBoundary id) s = .next (s.boundaryAt id j n)) ∧
      (j.dline = some r → (j.st = .run ∨ j.st = .done ∨ j.st = .flush) → exec (.passDeadline id) s = .next (s.passLate id j r)) ∧
      (j.cause.isSome = true → j.rolled = false → j.frozen = false →
        (j.begun = true → exec (.rollback id) s = .next (s.rollBack id j)) ∧
        (j.begun = false → exec (.rollback id) s = .next (((s.noteFail id).onJob id fun j => { j with rolled := true }).toHeld id))) ∧
      (j.verdictIn = some x → exec (.fail id) s = .next (s.takeVerdict id j x)) ∧
      (j.verdictIn = none → exec (.fail id) s = .next (s.reportFail id j)) ∧
      (j.st ≠ .held → j.holdReq = false → j.parent = none → j.cause.isSome = true → j.again = false → (s.noteFail id).job id = some k →
        k.verdict = none →
        let u := s.noteFail id
        let n := u.rev + BitVec.ofNat 48 (Nat.max j.lead j.delay)
        exec (.rerun id) s = .next ((u.noteFail id).nameRev id j { AgreeMsg.of kRerun j.pass n with cause := j.cause.getD 4 } n true false)) ∧
      (j.st ≠ .held → j.holdReq = false → j.parent.isSome = true → j.fromParent kRerun = some x →
        let n : BitVec 48 := x.msg.n.truncate 48
        let u := s.onJob id fun j => { j.fail x.msg.cause with inbox := j.inbox.erase x }
        exec (.rerun id) s =
          .next ((u.noteFail id).nameRev id j { AgreeMsg.of kRerun j.pass n with cause := j.cause.getD 4 } n true (lateFor x.at_ n))) ∧
      (j.live.contains m = true → s.agreeOf id m = some c → (s.ctx c).unack.find? (fun p => p.pkt.op == 8) = some p →
        exec (.agreementSilence id rank) s = .next ((s.advanceTo (revStart (p.rev + 65))).declareLoss id m)) ∧
      (∀ a, j.unrouted.find? (fun p => p.1 == m) = some (a, r) → j.live.contains m = true →
        exec (.neighbourUnroutable id rank) s = .next ((s.advanceTo (revStart (r + 65))).declareLoss id m)) ∧
      (j.heldTo = some r → exec (.heldTimeout id) s = .next ((s.advanceTo (revStart r)).cancelJob id stLOST true none)))

/-! ### The fabric and reductions (12, 13) -/

/-- 12 R390 to R396: what a port that is UP takes of the 256 bytes of a flit: one that overlaps a codeword with more than 15 symbols in error brings
nothing; a flit with a bad CRC that names a packet asks for a replay; one with a good CRC brings LACK and CRED, then its body or a NAK. In order, its
body joins its lane and the next LSEQ is expected. 12 R395 to R399, 15 R460, 17 R521: the link-level events of a port: NAK and the replay timeout
replay from LACK, an idle receiver sends IDLE, an expired budget or a lost signal fails the port, and training ends UP with the partner's numbers or
FAILED; the headstock and the adapter train their ports. -/
def Obligations.LinksCarryFlits : Prop :=
  (∀ (s : State) (port : BitVec 6) (errs : BitVec 10) (bytes : List Byte), port.toNat ≤ 40 → s.portState port.toNat = portUp → bytes.length = 256 →
      let p := port.toNat
      let f := flitOf bytes
      let x := s.port p
      let e := errs.toNat
      (x.flitLost e = true → exec (.flitReceive port ⟨errs, bytes⟩) s = .next (s.takeFec p e)) ∧
      (x.flitLost e = false → flitOk bytes = false → (f.type = 1 ∨ f.type = 2) →
        exec (.flitReceive port ⟨errs, bytes⟩) s = .next ((s.takeFec p e).takeFlit p false f)) ∧
      (x.flitLost e = false → flitOk bytes = false → ¬ (f.type = 1 ∨ f.type = 2) →
        exec (.flitReceive port ⟨errs, bytes⟩) s = .next (s.takeFec p e)) ∧
      (x.flitLost e = false → flitOk bytes = true → 4 < f.type.toNat → exec (.flitReceive port ⟨errs, bytes⟩) s = .next (s.takeFec p e)) ∧
      (x.flitLost e = false → flitOk bytes = true → f.type.toNat ≤ 4 →
        exec (.flitReceive port ⟨errs, bytes⟩) s = .next ((s.takeFec p e).takeGood p f)) ∧
      (x.flitLost e = true ↔ (x.rxPos ≠ 0 ∧ x.rxBad = true) ∨ ((x.rxPos = 0 ∨ 5140 < x.rxPos + 2048) ∧ 15 < e)) ∧
      (f.lseq = x.expect → f.vl = false → f.eop = false →
        s.takeFlit p true f = s.setPort p { x with expect := x.expect + 1, lack := f.lseq, naked := false, free0 := x.free0 + 1, free1 := x.free1 + 0, part0 := (if f.type = 1 then [] else x.part0) ++ f.body }) ∧
      (f.lseq ≠ x.expect → x.naked = true → ∀ ok, s.takeFlit p ok f = s) ∧
      (x.naked = true → s.takeFlit p false f = s)) ∧
  (∀ (s : State) (port pport : BitVec 6) (lack : BitVec 12) (delay pmod : BitVec 16) (d : Count) (r : BitVec 48),
      let p := port.toNat
      let x := s.port p
      (p ≤ 40 → s.portState p = portUp →
        (((x.budget.map fun d => notAfter d s.now).getD false) = false →
          exec (.nak port lack) s = .next (((s.takeLack p lack).replay p).pumpPort p)) ∧
        (x.replay ≠ [] → exec (.replayTimeout port) s =
          .next ((s.advanceTo (x.lackAt + BitVec.ofNat 60 (2 * s.delay p + 256))).replay p)) ∧
        (let u := s.advanceTo (x.lastOut + 64)
         exec (.idle port) s = .next (u.setPort p ((u.port p).emit u.now 0 0 false false []))) ∧
        (x.budget = some d → exec (.linkRetryBudget port) s = .next ((s.advanceTo d).failPort p 1)) ∧
        (exec (.signalLoss port) s = .next (s.failPort p 2))) ∧
      (p ≤ 40 → s.portState p = portTraining →
        (exec (.portTrained port false delay pmod pport) s = .next (s.failPort p 3)) ∧
        (p = 40 → exec (.portTrained port true delay pmod pport) s = .next ((s.setPort p { x with delay := delay }).trained p)) ∧
        (p < 40 →
          let u := (s.setFld (F.SPN_PORT_DLY_DELAY p) delay.toNat).setFld (F.SPN_PORT_DLY_VALID p) 1
          let u := (u.setFld (F.FX_PORT_STAT_PMOD p) pmod.toNat).setFld (F.FX_PORT_STAT_PPORT p) pport.toNat
          exec (.portTrained port true delay pmod pport) s = .next (((u.setFld (F.FX_PORT_CTRL_TRAIN p) 0).trained p).portEvent p))) ∧
      (p < 40 → x.trainAt = some r → s.fld (F.FX_PORT_CTRL_EN p) ≠ 0 →
        (s.portState p = portFailed → exec (.portRetrain port) s = .next ((s.advanceTo (revStart r)).startTraining p)) ∧
        (s.portState p = portUp → exec (.portRetrain port) s = .next (s.startTraining p))) ∧
      (s.power.pgood = true → (s.portState 40 = portDown ∨ s.portState 40 = portFailed) →
        exec .brepoLinkTraining s = .next (s.startTraining 40)))

/-- 12 R406 to R413: a packet for another module goes on with one hop less or ends as `HOPLIMIT`, on lane 1 where the route's entry has DL; one for this
module is checked, and in order it takes the next SEQ; with FX_CTRL.EN = 0 the complex takes no packet. 12 R411 to R413: an ACK follows 256 cycles
after the first packet it is to cover, and the retransmit timer, at the end of its revolutions, sends again every packet that is unacknowledged. -/
def Obligations.PacketsAreForwardedAndChecked : Prop :=
  (∀ (s : State) (port : BitVec 6) (vl : Bool) (k : Packet),
      let p := port.toNat
      let u := s.setPort p { s.port p with pkts := (s.port p).pkts.erase (vl, packetBytes k) }
      (p < 40 → s.portState p = portUp →
        (u.fld F.FX_CTRL_EN = 0 → exec (.packetReceive port vl k) s = .next u) ∧
        (u.fld F.FX_CTRL_EN ≠ 0 → k.dmod ≠ u.ownModule → k.hops = 0 → exec (.packetReceive port vl k) s = .next (u.fxErr 4 p k.dctx.toNat)) ∧
        (u.fld F.FX_CTRL_EN ≠ 0 → k.dmod ≠ u.ownModule → k.hops ≠ 0 →
          exec (.packetReceive port vl k) s = .next (u.sendPacket fwdSrc vl { k with hops := k.hops - 1 }).1) ∧
        (u.fld F.FX_CTRL_EN ≠ 0 → k.dmod = u.ownModule → exec (.packetReceive port vl k) s = .next (u.receive p k))) ∧
      (p < 40 → s.portState p ≠ portUp → exec (.packetReceive port vl k) s = .next s) ∧
      (let c := k.dctx.toNat
       (s.ctxType c = 0 → s.receive p k = (s.fxErr 1 p c).toHeadstock (.badCtx p c)) ∧
       (s.ctxType c ≠ 0 → s.ctxJob c = k.job → opTaken (s.ctxType c) k.op.toNat = true → k.op ≠ 8 → k.op ≠ 9 →
         (k.epoch.toNat ≠ bits (s.cw c 3) 31 24 → s.receive p k = s.setCtx c { s.ctx c with stale := (s.ctx c).stale + 1 }) ∧
         (k.epoch.toNat = bits (s.cw c 3) 31 24 → s.receive p k = s.transport c k)) ∧
       ((s.ctx c).wait = [] →
         (k.seq.toNat % 2 ^ 24 = bits (s.cw c 5) 23 0 → s.isResult k = false → s.transport c k = s.accept c k) ∧
         (seqDiff k.seq.toNat (bits (s.cw c 5) 23 0) ≠ 0 → seqDiff k.seq.toNat (bits (s.cw c 5) 23 0) < 2 ^ 23 →
           s.transport c k = s.setCtx c { s.ctx c with ooo := (s.ctx c).ooo + 1 }) ∧
         (2 ^ 23 ≤ seqDiff k.seq.toNat (bits (s.cw c 5) 23 0) →
           s.transport c k = (s.setCtx c { s.ctx c with dup := (s.ctx c).dup + 1 }).sendAck c)))) ∧
  (∀ (s : State) (ctx : BitVec 14) (m : BitVec 48) (p : SentPkt) (ps : List SentPkt),
      let n := ctx.toNat
      (s.ctxType n ≠ 0 → (s.ctx n).owed ≠ 0 → exec (.ack ctx) s = .next ((s.advanceTo ((s.ctx n).owedAt + 256)).sendAck n)) ∧
      (s.ctxType n ≠ 0 → s.ctxTimer n = some m → exec (.retransmit ctx) s = .next ((s.advanceTo (revStart (m + 17))).resend n)) ∧
      (s.ctxType n ≠ 0 → s.ctxTimer n = none → (s.ctx n).unack = p :: ps →
        exec (.retransmit ctx) s = .next ((s.advanceTo (revStart (p.rev + 10 + 17))).resend n)))

/-- 12 R416, R418, 13 R431: a unit at an edge fabric tap feeds the converter or leaves as one DATA packet of its FLOW_TX context, and is discarded as
`NOCTX` where nothing matches; a FLOW_RX context's oldest packet enters at the next slot of its edge tap that no packet has taken. -/
def Obligations.ScratchpadStreams : Prop :=
  ∀ (s : State) (c : CoreId) (x : MeshUnit) (b n : Nat) (ctx : BitVec 14) (k : Packet) (ps : List Packet) (d : Count),
    let u := s.unitTaken x
    (s.hasCore c = true → s.unitAt c .outX = some x →
      ((u.core c).bed = none → exec (.fabOut c) s = .next (u.fxErr 2 0x3F 0)) ∧
      ((u.core c).bed = some b →
        (x.u.kind = 4 → u.feedsConv b x.u.flow = true → exec (.fabOut c) s = .next (u.feedUnit (u.sideOf c) b x.u.flow x.u)) ∧
        (x.u.kind = 4 → u.feedsConv b x.u.flow = false → u.flowTx b x.u.flow = some n →
          exec (.fabOut c) s = .next (u.originate n 0 x.u.poison.toNat x.u.addr.toNat (bytesOfWords x.u.words))) ∧
        (x.u.kind ≠ 4 → exec (.fabOut c) s = .next (u.fxErr 2 0x3F 0)) ∧
        (u.feedsConv b x.u.flow = false → u.flowTx b x.u.flow = none → exec (.fabOut c) s = .next (u.fxErr 2 0x3F 0)))) ∧
    (let n := ctx.toNat
     let e := s.rxEdge n
     s.ctxType n = ctxFlowRx → (s.ctx n).rx = k :: ps → s.hasCore e = true →
     s.nextIn e (s.rxFlow n) (notBefore s.now (s.core e).edgeAt) = some d →
     s.guarded e d = false →
      exec (.fabIn ctx) s = .next ((((s.setCtx n { s.ctx n with rx := ps }).advanceTo d).onCore e fun k => { k with edgeAt := d + 1 }).putUnit e (.inp 6) d
        { flow := s.rxFlow n, kind := 5, addr := k.addr.truncate 17, words := wordsOfBytes k.data, poison := k.aux.truncate 2 }))

/-- 13 R432 to R434, R438: a converter with a whole header in its buffer: a feed that breaks R433 is rejected; a SCAN feed's blocks give their M_b, a
CONVERT feed's their billets, unless the agreed exponents of its segments are not there. 13 R438 to R445: the home takes the packets of its input
buffer in arrival order, SCAN values and billets block by block; those that come after the job's vote, and SCAN values in a carried pass, it drops; a
segment whose deadline expires before it is complete fails the reduction. -/
def Obligations.ReductionFeedsAndHomes : Prop :=
  (∀ (s : State) (side : Bool) (bed : BitVec 5) (flow : BitVec 16) (f : Feed) (rest : List Feed) (j : Job),
      let key := feedKey (b2n side) bed.toNat flow
      s.feed key = f :: rest → s.jobOfBed bed.toNat = some j → s.fld F.FX_RED_CTRL_EN ≠ 0 → f.head.length = 4 →
        (s.badFeed j f = true →
          exec (.scan side bed flow) s = .next (s.rejectFeed key j f rest) ∧ exec (.convert side bed flow) s = .next (s.rejectFeed key j f rest)) ∧
        (s.badFeed j f = false → f.kind = 1 →
          exec (.scan side bed flow) s = .next (s.runFeed key f rest 255 fun u seg b bs => u.scanRun j f seg b bs)) ∧
        (s.badFeed j f = false → f.kind = 2 → s.feedWaits f = false →
          exec (.convert side bed flow) s = .next (s.runFeed key f rest 20 fun u seg b bs => u.convertRun j f seg b bs)) ∧
        (s.badFeed j f = false → f.kind = 2 → s.feedWaits f = true → exec (.convert side bed flow) s = .next s)) ∧
  (∀ (s : State) (id : JobId) (j : Job) (p : Packet) (ps : List Packet) (rid : BitVec 10) (seg : BitVec 16) (isScan : Bool) (m : BitVec 48),
      let u : State := { s with redQ := ps }
      (s.job id = some j → s.redQ = p :: ps → p.job = id → s.fld F.FX_RED_CTRL_EN ≠ 0 →
        (pKind p = 0 → (j.st = .run ∧ (u.red (pRid p)).carried = false → exec (.reduceScan id) s = .next (u.homeScan j p)) ∧
          (j.st ≠ .run ∨ (u.red (pRid p)).carried = true → exec (.reduceScan id) s = .next u)) ∧
        (pKind p = 1 → (j.st = .run → exec (.reduceData id) s = .next (u.homeData j p)) ∧ (j.st ≠ .run → exec (.reduceData id) s = .next u))) ∧
      (let r := s.red rid.toNat
       let g := r.segRec seg.toNat isScan
       let v := s.advanceTo (revStart (m + BitVec.ofNat 48 (bits (r.w 3) 31 16 + 1)))
       let q := v.red rid.toNat
       g.armed = some m → g.done ≠ r.c →
        exec (.contribLate rid seg isScan) s =
          .next ((v.setRed rid.toNat { q with seg := SMap.set (fun _ => Seg.none) q.seg (2 * seg.toNat + b2n (!isScan)) { g with armed := none } }).failRed q.job
            reLATE rid.toNat seg.toNat (q.lateOne g seg.toNat))))

/-- 13 R438, R449 to R451: what a REDUCE context's oldest AGREED and NEXTE packets do, each leaving the context: exponents go into table P mod 2 and table
(P + 1) mod 2; and the RESULT at the front of what waits there: its words are written, and it is accepted, where its pages allow it, and the packets
behind it are then checked; it waits for an LPDDR6 channel that retrains. -/
def Obligations.ReductionResults : Prop :=
  ∀ (s : State) (ctx : BitVec 14) (j : Job) (p : Packet) (ps : List Packet) (r : Reduction) (t b v b' : Nat),
    let n := ctx.toNat
    let u := s.setCtx n { s.ctx n with rx := (s.ctx n).rx.erase p }
    (s.ctxType n = ctxReduce → s.job (s.ctxJob n) = some j →
      ((s.ctx n).rx.find? (fun p => pKind p == 2) = some p →
        exec (.agreed ctx) s = .next (u.takeAgreed (pRid p) j.pass.toNat (pFirst p) p.data)) ∧
      ((s.ctx n).wait = p :: ps → s.rangeUp j p.addr.toNat p.data.length = true → exec (.result ctx) s = .next (s.takeResult n j p ps)) ∧
      ((s.ctx n).rx.find? (fun p => pKind p == 4) = some p →
        exec (.nexte ctx) s = .next (u.takeNexte (pRid p) j.pass.toNat (pFirst p) p.data))) ∧
    ((r.setTabE t b v).tabE t b = v % 256) ∧
    (b' ≠ b → (r.setTabE t b v).tabE t b' = r.tabE t b') ∧
    ((r.setTabE t b v).tabE (t + 1) b' = r.tabE (t + 1) b') ∧
    (s.canWrite j p.addr.toNat p.data.length = false →
      s.writeResult j (pRid p) (pSeg p) p.addr.toNat p.data =
        (s.writeVa j.id p.addr.toNat p.data).failRed j.id reRESHOME (pRid p) (pSeg p) 0)

/-! ### The spindle (02) -/

/-- 02 R56 to R62, 12 R400: at angle 0 each UP port that has not sent it sends its revolution's marker; a marker that arrives with a good CRC is valid,
or, in LOCKED and HOLDOVER and more than 128 cycles off, raises `MARKER_MISMATCH` and is missed; a revolution without one is a miss. 02 R51, R64 to
R71: the step and the states of the count: LOST is left and a waiting step is taken at an angle 0 without beds, HOLDOVER ends in LOST at the drift
budget, a change of MASTER acts at angle 0 without a step, and each revolution of a slew takes one sixteenth off the error. -/
def Obligations.SpindleLockAndStates : Prop :=
  (∀ (s : State) (port : BitVec 6) (m : Marker),
      let p := port.toNat
      let e := s.phaseErr p m
      let due (s : State) (p : Nat) : Bool := s.portState p == portUp && (s.port p).gave != some s.rev
      let gives (s : State) : State := (List.range 40).foldl (fun (s : State) p =>
        if due s p then s.setPort p { (s.port p).emit s.now 3 0 false false s.markerBody with gave := some s.rev } else s) s
      (s.power.pgood = true →
        (s.angle = 0 ∧ (List.range 40).any (due s) = true → exec .marker s = .next (gives s)) ∧
        (¬ (s.angle = 0 ∧ (List.range 40).any (due s) = true) → exec .marker s = .next (gives (s.advanceTo (revStart (s.rev + 1)))))) ∧
      (p < 40 → s.portState p = portUp → m.crcOk = true →
        ((s.spin = spLocked ∨ s.spin = spHoldover) → 128 < e.natAbs →
          exec (.markerArrive port m) s = .next ((s.spnSet evMARKER_MISMATCH).missMarker p s.rev)) ∧
        (¬ ((s.spin = spLocked ∨ s.spin = spHoldover) ∧ 128 < e.natAbs) → exec (.markerArrive port m) s = .next (s.validMarker p m e))) ∧
      (p < 40 → (s.portState p = portUp ∨ s.portLock p = true ∨ (s.port p).run ≠ 0) → (s.port p).got ≠ some s.rev →
        exec (.markerMiss port) s = .next (((s.advanceTo (revStart (s.rev + 1))).missMarker p s.rev).seekSource))) ∧
  (∀ (s : State) (r : BitVec 48),
      let z := s.nextAngle0
      (s.beds = 0 → s.spin = spLost → exec .stepped s =
        .next (z.setFld F.SPN_STATUS_STATE spAcquiring).remeasure.seekSource) ∧
      (s.beds = 0 → s.spin = spAcquiring → s.fld F.SPN_STATUS_STEP_PENDING = 1 → agree8 s.lockE = true →
        exec .stepped s = .next (((z.median s.lockE).1.stepCount (z.median s.lockE).2).enterLocked 0)) ∧
      (s.spin = spHoldover → exec .lost s =
        .next ((s.advanceTo (revStart (s.driftRev + BitVec.ofNat 48 ((s.driftBudget - s.fld F.SPN_DRIFT_EST) * s.driftRate)))).enterLost)) ∧
      (s.masterTo = some (true, r) →
        let u := (((s.advanceTo (revStart r)).rebaseDrift.setFld F.SPN_STATUS_STATE spMaster).setFld F.SPN_STATUS_HOPS 0).setFld F.SPN_STATUS_SRC_PORT 0x3F
        exec .masterEnter s = .next { u.noSlew.remeasure with masterTo := none }) ∧
      (s.masterTo = some (false, r) →
        let u := s.advanceTo (revStart r)
        exec .masterLeave s = .next { ((((u.setDev R.SPN_MASTER u.spnMaster).setFld F.SPN_STATUS_STATE
          spUnlocked).setFld F.SPN_STATUS_HOPS 0xF).setFld F.SPN_MASTER_VALID 0) with masterTo := none }) ∧
      (s.fld F.SPN_STATUS_REFCLK_OK ≠ 0 → exec .refclkLoss s = .next ((s.rebaseDrift.setFld F.SPN_STATUS_REFCLK_OK 0).spnSet evREFCLK_LOSS)) ∧
      (exec .pllLock s = .next (s.rebaseDrift.setFld F.SPN_STATUS_REFCLK_OK 1)) ∧
      (s.fld F.SPN_STATUS_SLEWING ≠ 0 →
        let u := s.advanceTo (revStart (s.rev + 1))
        (0 < u.slewE → exec .slewing s = .next { (u.setFld F.SPN_STATUS_SLEWING (b2n (decide (u.slewE - 1 ≠ 0)))) with slewE := u.slewE - 1 }) ∧
        (u.slewE < 0 → exec .slewing s = .next { (u.setFld F.SPN_STATUS_SLEWING (b2n (decide (u.slewE + 1 ≠ 0)))) with slewE := u.slewE + 1 })))

/-- 02 R75, R77 to R80: a bed's next rest revolution begins; what falls into a run of them waits for its end; and a pausing timer, armed in revolution m
with n, expires at the start of m + n + 1, or, where a run of k of them begins by then, of m + n + 1 + k. -/
def Obligations.RestRevolutions : Prop :=
  ∀ (s : State) (bed : BitVec 5) (f m r : BitVec 48) (n k : Nat) (d : Count),
    let one : Rest := { Rest.none with runs := [(f, k)] }
    let gap := (f - (m + 1)).toNat
    (s.nextRest bed.toNat = some r → exec (.restRevolution bed) s = .next (s.advanceTo (revStart r))) ∧
    (let r0 : BitVec 48 := if s.angle = 0 then s.rev else s.rev + 1
     (s.rest bed.toNat).runs = [(f, k)] → (f - r0).toNat < 2 ^ 46 → 0 < k → k < 2 ^ 40 → s.nextRest bed.toNat = some f) ∧
    (Rest.none.skip d = d) ∧
    (one.rests (d.extractLsb' 12 48) = true → one.skip d = revStart (f + BitVec.ofNat 48 k)) ∧
    (one.rests (d.extractLsb' 12 48) = false → one.skip d = d) ∧
    (Rest.none.expiry m n = m + BitVec.ofNat 48 (n + 1)) ∧
    (n < 2 ^ 40 → k < 2 ^ 40 → gap ≤ n → one.expiry m n = m + BitVec.ofNat 48 (n + 1 + k)) ∧
    (n < 2 ^ 40 → k < 2 ^ 40 → n < gap → gap < 2 ^ 47 → one.expiry m n = m + BitVec.ofNat 48 (n + 1))

/-! ### The host interface (15) -/

/-- 15 R461, R462, R466, R468, R472, R479, R481: the data of a read becomes its command and the rings fetch on; after a loss the reads and writes go again
first; an entry is written where its ring has room; interrupts, heartbeats and the timers of commands. Where a rejected read gives a completion, its
CID and NOIRQ are free values (log entry 4). -/
def Obligations.HostLinkEvents : Prop :=
  ∀ (s : State) (tag : BitVec 16) (bs : List Byte) (x : HostRead) (ring : BitVec 4) (e : HostCpl) (rest : List HostCpl) (cid : BitVec 16)
    (cmd : HostCmd),
    let q := 16 + ring.toNat
    let r := s.ring q
    (s.portState 40 = portUp → s.reads.find? (fun r => r.tag == tag && r.data.isNone) = some x →
      (bs.length = 64 → exec (.memCpl tag (some bs)) s = .next (((s.gotData tag bs).takeEntries x.ring 256).fetchAll)) ∧
      (bs.length ≠ 64 → exec (.memCpl tag (some bs)) s = .next (s.bump F.HL_CNT_BADPKT 1)) ∧
      (exec (.memCpl tag none) s = .next (((s.gotData tag []).takeEntries x.ring 256).fetchAll))) ∧
    (s.portState 40 = portUp → exec .hostLinkRecover s = .next (s.hostLost.foldl (fun (s : State) o => s.hostSend o) { s with hostLost := [] })) ∧
    (r.cpls = e :: rest → r.en = true → r.room = true → exec (.completionWrite ring) s = .next (s.writeEntry q e rest)) ∧
    (r.icnt ≠ 0 → bit r.cfg.toNat 23 = true → s.portState 40 = portUp →
      (Nat.max 1 (bits r.coal.toNat 15 0) ≤ r.icnt →
        exec (.msi ring) s = .next ((s.setRing q { r with icnt := 0 }).hostSend (.msi (r.cfg.extractLsb' 24 6)))) ∧
      (¬ Nat.max 1 (bits r.coal.toNat 15 0) ≤ r.icnt → exec (.msi ring) s =
        .next (((s.advanceTo (r.iat + BitVec.ofNat 60 (256 * bits r.coal.toNat 31 16))).setRing q { r with icnt := 0 }).hostSend
          (.msi (r.cfg.extractLsb' 24 6))))) ∧
    (s.portState 40 = portUp → exec .hb s = .next ((s.advanceTo (revStart s.nextBeat)).hostSend (.hb s.nextBeat))) ∧
    ((s.ring ring.toNat).cmds.find? (fun x => x.cid == cid) = some cmd → exec (.commandTimeout ring cid) s = .next (s.expireCmd ring cmd)) ∧
    ((s.ring ring.toNat).cmds.find? (fun x => x.cid == cid) = none → s.waitingEntry ring cid = some e →
      exec (.commandTimeout ring cid) s = .next (s.expireEntry (16 + (s.ring ring.toNat).cq) e))

/-- 15 R473, R474, R478, R482: the commands on the module: an opcode the tables do not list, CONFIG, ROUTES, READ_DTAB, and LAUNCH, which installs the
image or is refused whole. The status of a READ_DTAB whose buffer is too short is the model's choice (log entry 22). -/
def Obligations.HostCommandsOnTheModule : Prop :=
  ∀ (s : State) (ring : BitVec 4) (cid : BitVec 16) (x : HostCmd) (bs : List Byte) (i : Img) (st : Nat),
    let len := (x.w 4).toNat
    let u := s.hostFetch (x.q 2) len
    (s.hostCmd ring cid (fun o => 0x0E < o.toNat && !(0x10 ≤ o.toNat && o.toNat ≤ 0x18)) = some x → s.fld F.DEV_STATUS_STATE ≠ mTEST →
      exec (.unlistedOpcode ring cid) s = .next (s.complete ring cid stBADCMD [])) ∧
    (s.begins ring cid 0x01 x →
      (s.beds ≠ 0 → exec (.config ring cid) s = .next (s.complete ring cid stBUSY [])) ∧
      (s.beds = 0 → exec (.config ring cid) s =
        .next ((s.configure ((x.w 2).toNat % 65536) ((x.w 3).getLsbD 0)).complete ring cid stOK []))) ∧
    (s.begins ring cid 0x02 x →
      let u := s.hostFetch (x.q 2) (8 * (x.w 4).toNat)
      (bs.length < 8 * (x.w 4).toNat → exec (.routes ring cid bs) s = .next (u.complete ring cid stNOTHOME [])) ∧
      (8 * (x.w 4).toNat ≤ bs.length →
        exec (.routes ring cid bs) s = .next ((u.putRoutes (bs.take (8 * (x.w 4).toNat))).complete ring cid stOK []))) ∧
    (s.begins ring cid 0x0B x →
      (len < s.dtabLen → exec (.readDtab ring cid) s = .next (s.complete ring cid stBADCMD [])) ∧
      (s.dtabLen ≤ len → exec (.readDtab ring cid) s =
        .next ((s.hostWrite (x.q 2) s.dtab).complete ring cid stOK [BitVec.ofNat 32 s.dtabLen]))) ∧
    (s.begins ring cid 0x03 x →
      (bs.length < len → exec (.launch ring cid bs) s = .next (u.complete ring cid stNOTHOME [])) ∧
      (len ≤ bs.length → readImage (bs.take len) = none → exec (.launch ring cid bs) s = .next (u.complete ring cid stBADIMAGE [])) ∧
      (len ≤ bs.length → readImage (bs.take len) = some i → u.launchRefusal i = some st →
        exec (.launch ring cid bs) s = .next (u.complete ring cid st [])) ∧
      (len ≤ bs.length → readImage (bs.take len) = some i → u.launchRefusal i = none →
        exec (.launch ring cid bs) s =
          .next ((((u.install i (bs.take len)).retireCmd ring cid stOK []).markLaunch ring cid (BitVec.ofNat 12 i.job)).nops ring)))

/-- 15 R475 to R478: the commands on a job: CANCEL, PREEMPT and RESUME down the tree from the root, patterns and switches, copies, and its status. The
status of LOADPAT for an index that the image does not hold is the model's choice (log entry 22). -/
def Obligations.HostCommandsOnJobs : Prop :=
  ∀ (s : State) (ring : BitVec 4) (cid : BitVec 16) (x : HostCmd) (j : Job) (bs : List Byte) (p : Nat × Nat × List Byte) (f : Nat × Nat),
    let n := x.n 2
    let va := x.q 4
    let len := (x.w 6).toNat
    let u := s.hostFetch (x.q 2) len
    s.namesJob x j →
    (s.begins ring cid 0x04 x →
      exec (.cancel ring cid) s = .next ((s.cancelJob j.id stCANCELLED true (some (ring, cid))).complete ring cid stOK [])) ∧
    (s.begins ring cid 0x05 x → x.cid = cid →
      (j.parent.isSome = true → exec (.preempt ring cid) s = .next (s.complete ring cid stNOTROOT [])) ∧
      (j.parent = none → revNotAfter (s.rev + BitVec.ofNat 48 (j.lead + 1)) n = false →
        exec (.preempt ring cid) s = .next (s.complete ring cid stLATE [])) ∧
      (j.parent = none → revNotAfter (s.rev + BitVec.ofNat 48 (j.lead + 1)) n = true → exec (.preempt ring cid) s =
        .next (((s.sendAgrees j.id j.liveKids (AgreeMsg.of kPreempt j.pass n)).onJob j.id fun j => { j with freezeAt := some n }).startCmd ring cid))) ∧
    (s.begins ring cid 0x06 x → x.cid = cid → j.parent = none → revNotAfter (s.rev + BitVec.ofNat 48 (j.lead + 1)) n = true →
      exec (.resume ring cid) s =
        .next (((s.sendAgrees j.id j.liveKids (AgreeMsg.of kResume j.pass n)).onJob j.id fun j => j.resumeAt n).startCmd ring cid)) ∧
    (s.carries ring cid 0x07 x →
      (j.pattern (x.w 2).toNat = none → exec (.loadpat ring cid) s = .next (s.complete ring cid stNOPATTERN [])) ∧
      (j.pattern (x.w 2).toNat = some p → s.bedArmed j = false →
        exec (.loadpat ring cid) s = .next ((s.loadBed j p).complete ring cid stOK []))) ∧
    (s.begins ring cid 0x08 x →
      (lateFor s.now n = true → exec (.switch ring cid) s = .next (s.complete ring cid stLATE [])) ∧
      (lateFor s.now n = false → s.bedArmed j = true → exec (.switch ring cid) s = .next (s.complete ring cid stBUSY [])) ∧
      (lateFor s.now n = false → s.bedArmed j = false → (j.cores s).any (fun c => !hdrValid ((s.bedImage j.id c).w R.MESH_BHDR)) = false →
        exec (.switch ring cid) s =
          .next (((s.armBed j n).onJob j.id fun j => { j with swReq := some (ring, cid, n) }).startCmd ring cid))) ∧
    (s.begins ring cid 0x09 x → x.copyOk = true →
      (s.copyFault j va len true = some f → exec (.copyIn ring cid bs) s = .next (s.complete ring cid f.1 (addrWords f.2))) ∧
      (s.copyFault j va len true = none → len ≤ bs.length →
        ((j.st = .held ∨ j.begun = false) → s.rangeUp j va len = true → exec (.copyIn ring cid bs) s = .next ((u.copyNow j va (bs.take len)).complete ring cid stOK [])) ∧
        (j.st ≠ .held → j.begun = true → exec (.copyIn ring cid bs) s = .next ((u.onJob j.id fun j => { j with copyIns := j.copyIns ++
          [{ ring := ring, cid := cid, va := va, bytes := bs.take len, voted := false, undo := none }] }).startCmd ring cid)))) ∧
    (s.begins ring cid 0x0A x → x.copyOk = true → s.copyFault j va len false = none → s.rangeUp j va len = true →
      exec (.copyOut ring cid) s = .next ((s.hostWrite (x.q 2) (s.oldBytes j va len)).complete ring cid stOK [])) ∧
    (s.begins ring cid 0x0C x → exec (.jobStatus ring cid) s = .next (s.complete ring cid stOK
      [BitVec.ofNat 32 (j.st.code + 8 * b2n j.frozen), j.pass.truncate 32, (j.pass >>> 32).truncate 32]))

/-! ### Firmware, recovery, power, debug (16 to 19) -/

/-- 16 R496 to R504: the firmware commands, and TEST and TEST_END. The statuses of IDENTITY and ATTEST with a short buffer and of KEY_REVOKE of a slot
above 3 are the model's choice (log entry 22), and so is what memory holds after the destructive tests until TEST_END (log entry 25). -/
def Obligations.FirmwareCommands : Prop :=
  ∀ (s : State) (ring : BitVec 4) (cid : BitVec 16) (x : HostCmd) (img : FwImage) (o : Option FwImage) (c : Nat) (m : BitVec 4) (nonce sigs : List Byte),
    let w := s.devW R.HS_FW_SEC
    let i := { img with total := (x.w 4).toNat }
    let u := s.hostFetch (x.q 2) (x.w 4).toNat
    (s.begins ring cid 0x10 x → exec (.fwInfo ring cid) s = .next (s.complete ring cid stOK [s.devW R.HS_FW_VER,
      BitVec.ofNat 32 (F.HS_FW_SEC_SVN.of w + 2 ^ 8 * F.HS_FW_SEC_SB_SVN.of w + 2 ^ 16 * F.HS_FW_SEC_FUSE_SVN.of w
        + 2 ^ 24 * F.HS_FW_SEC_KEYSLOT.of w + 2 ^ 26 * s.fld F.HS_PAIR_SB)])) ∧
    (s.begins ring cid 0x11 x →
      (s.fld F.HS_PAIR_SB = 2 → exec (.fwLoad ring cid o) s = .next (s.complete ring cid stBUSY [])) ∧
      (s.fld F.HS_PAIR_SB ≠ 2 → u.fwCheck i = some c → exec (.fwLoad ring cid (some img)) s = .next ((u.putStandby none).complete ring cid (fwStatus c) [])) ∧
      (s.fld F.HS_PAIR_SB ≠ 2 → u.fwCheck i = none → exec (.fwLoad ring cid (some img)) s = .next ((u.putStandby (some i)).complete ring cid stOK [])) ∧
      (s.fld F.HS_PAIR_SB ≠ 2 → exec (.fwLoad ring cid none) s = .next ((u.putStandby none).complete ring cid stNOTHOME []))) ∧
    (s.begins ring cid 0x12 x → (x.job = 0 ∨ ∃ j, s.namesJob x j) → exec (.fwActivate ring cid) s = .next (s.activate ring x)) ∧
    (s.carries ring cid 0x13 x → sigs.length = 16608 → 16848 ≤ (x.w 6).toNat → s.fld F.HS_BOOT_STAT_IDK ≠ 0 →
      let v := s.hostFetch (x.q 2) 48
      (nonce.length = 48 → exec (.attest ring cid nonce sigs) s = .next ((v.hostWrite (x.q 4) (v.report nonce ++ sigs)).complete ring cid stOK [])) ∧
      (nonce.length < 48 → exec (.attest ring cid nonce sigs) s = .next (v.complete ring cid stNOTHOME []))) ∧
    (s.carries ring cid 0x14 x → 432 ≤ (x.w 4).toNat →
      (s.fld F.HS_BOOT_STAT_IDK ≠ 0 → let bs := (s.hs.idkeys ++ s.hs.certs).take (x.w 4).toNat
        exec (.identity ring cid) s = .next ((s.hostWrite (x.q 2) bs).complete ring cid stOK [BitVec.ofNat 32 bs.length])) ∧
      (s.fld F.HS_BOOT_STAT_IDK = 0 → x.started = false → exec (.identity ring cid) s = .next (s.startCmd ring cid))) ∧
    (s.begins ring cid 0x15 x →
      (s.beds ≠ 0 → exec (.test ring cid m) s = .next (s.complete ring cid stBUSY [])) ∧
      (s.beds = 0 → let k : BitVec 4 := (x.w 2).truncate 4
        exec (.test ring cid m) s = .next ((s.enterTest k).complete ring cid stOK [(m &&& k).zeroExtend 32]))) ∧
    (s.begins ring cid 0x16 x → exec (.testEnd ring cid) s = .next ((if s.fld F.DEV_STATUS_STATE = mTEST then s.leaveTest else s).complete ring cid stOK [])) ∧
    (s.begins ring cid 0x17 x →
      let n := Nat.max s.fuses.svn.toNat (s.fld F.HS_FW_SEC_SVN)
      exec (.svnCommit ring cid) s = .next ((({ s with fuses := { s.fuses with svn := BitVec.ofNat 8 n } } : State).setFld
        F.HS_FW_SEC_FUSE_SVN n).complete ring cid stOK [BitVec.ofNat 32 n])) ∧
    (s.begins ring cid 0x18 x → (x.w 2).toNat ≤ 3 →
      let v := s.fuses.revoked ||| BitVec.ofNat 4 (2 ^ ((x.w 2).toNat % 4))
      (((x.w 2).toNat = s.fld F.HS_FW_SEC_KEYSLOT ∨ v = 15) → exec (.keyRevoke ring cid) s = .next (s.complete ring cid stBUSY [])) ∧
      ((x.w 2).toNat ≠ s.fld F.HS_FW_SEC_KEYSLOT → v ≠ 15 → exec (.keyRevoke ring cid) s =
        .next ((({ s with fuses := { s.fuses with revoked := v } } : State).setFld F.HS_FW_SEC_REVOKED v.toNat).complete ring cid stOK [])))

/-- 16 R486 to R503: start-up runs from the image in flash, or the given one if flash holds none; a step over its bound fails; the pairs exchange roles at
angle 0 of H, the incoming pair is confirmed or hands back, and the image goes to flash; the identity keys are derived once. That start-up takes no
time of the spindle count is the model's choice (log entry 24). -/
def Obligations.StartUpAndHandover : Prop :=
  ∀ (s : State) (img : FwImage) (f : BitVec 5) (h : Handover) (n : BitVec 48) (keys : List Byte),
    (s.power.pgood = true → s.fld F.DEV_STATUS_STATE = mBOOT → s.fld F.HS_BOOT_STAT_FAIL ≠ 1 → ¬ ((5 ≤ f.toNat ∧ f.toNat ≤ 10) ∨ 15 < f.toNat) →
      exec (.startUp img f) s = .next (s.startUp (s.hs.flash.getD img) f.toNat)) ∧
    (s.power.pgood = true → s.fld F.DEV_STATUS_STATE ≤ mINIT → s.fld F.HS_BOOT_STAT_FAIL ≠ 1 →
      let n := s.fld F.HS_BOOT_STAT_STEP
      exec .stepTime s = .next ((s.advanceTo (revStart (BitVec.ofNat 48 (stepBound n + 1)))).stepFails n 16)) ∧
    (s.hs.handover = some h →
      (s.handoverRev h = some n → h.swapped = false → exec .handover s = .next (s.handOver h n)) ∧
      (h.swapped = true → h.writing = false →
        (revNotAfter (h.rev.getD 0 + 65) s.rev = false → exec .handoverConfirm s = .next (s.confirmed h)) ∧
        (exec .handoverConfirmTimeout s = .next (s.handBack h))) ∧
      (h.writing = true →
        (exec (.flashWriteDone true) s = .next ((s.onHs fun y => { y with flash := y.running }).endHandover h stOK [(h.rev.getD 0).truncate 32])) ∧
        (exec (.flashWriteDone false) s =
          .next ((s.onHs fun y => { y with flash := some FwImage.bad }).endHandover h stFLASHERR [(h.rev.getD 0).truncate 32])))) ∧
    (keys.length = 432 → s.serving = true → s.fld F.HS_BOOT_STAT_IDK ≠ 1 → exec (.keyDerivation keys) s = .next (s.deriveKeys keys))

/-- 17 R514, R517 to R519, R524: a held job learns the new module of a rank, one that has not begun becomes HELD; the headstock decides to retire a
position for which it has a case, the retirement takes effect at a pass entry, and a pattern for the new map is loaded by RETIRE. The statuses of
REPLACE with a bad rank and of RETIRE with a bad section are the model's choice (log entry 22). -/
def Obligations.ReplacementAndRetirement : Prop :=
  ∀ (s : State) (ring : BitVec 4) (cid : BitVec 16) (x : HostCmd) (j : Job) (row : BitVec 6) (col : BitVec 7) (cause : BitVec 2) (p : PendRet)
    (q : Nat × Nat × List Byte) (sect : List Byte),
    let r := (x.w 2).toNat % 65536
    let new : BitVec 16 := (x.w 3).truncate 16
    (s.begins ring cid 0x0D x → s.namesJob x j →
      (j.st = .held → r < j.mods.length → j.mods.contains new = false →
        exec (.replace ring cid) s = .next ((s.renumber j.id (j.mods.getD r 0) new).complete ring cid stOK [])) ∧
      (j.st ≠ .held → j.begun = true → exec (.replace ring cid) s = .next (s.complete ring cid stBUSY [])) ∧
      (j.st ≠ .held → j.begun = false → exec (.replace ring cid) s = .next ((s.holdAt j.id (x.q 4)).complete ring cid stOK []))) ∧
    (s.carries ring cid 0x0E x → s.namesJob x j →
      (s.hs.pending.find? j.retires = none → exec (.retire ring cid sect) s = .next (s.complete ring cid stBUSY [])) ∧
      (s.hs.pending.find? j.retires = some p → p.nospare = true → exec (.retire ring cid sect) s = .next (s.complete ring cid stNOSPARE [])) ∧
      (s.hs.pending.find? j.retires = some p → p.nospare = false → x.q 2 = 0 → j.pattern ((x.w 4).toNat % 256) = some q →
        s.bedArmed j = false → exec (.retire ring cid sect) s = .next ((s.loadRetire j q).complete ring cid stOK []))) ∧
    (row.toNat < 40 → col.toNat < 80 → cause ≠ 0 → s.failedAt row.toNat col.toNat = false → s.mayRetire row.toNat col.toNat cause.toNat = true →
      (s.hs.pending.any fun p => p.prow == row && p.pcol == col) = false → s.hs.retired.length < 128 →
      exec (.retirementDecision row col cause) s = .next (s.decideRetire row.toNat col.toNat cause)) ∧
    (s.hs.pending.find? (fun p => p.prow == row && !p.nospare) = some p → s.retireReady row.toNat p = true →
      exec (.retirementEffect row) s = .next (s.retireNow row.toNat p)) ∧
    (let same (a b : Retired) : Bool := a.prow == b.prow && a.pcol == b.pcol
     let l := s.hs.retired.foldl (fun (l : List Retired) r => if l.any (same r) then l else l ++ [r]) []
     exec .retirementRecordWrite s = .next { s with hs := { s.hs with retired := l, inFlash := l.length } })

/-- 18 R527 to R529, R543: standby power, the power sequence and its failure, power down, loss, overvoltage, the input's warnings, and boundary scan. The
cause code of a port that boundary scan fails is the model's choice (log entry 26). 18 R531 to R535: a margin window moves a region's voltage inside
its limits, an alarm raises it, temperatures are read and rest a region or trip the module, and each power window commands its rests. -/
def Obligations.PowerVoltageAndTemperature : Prop :=
  (∀ (s : State) (dv : BitVec 10) (rail : BitVec 4) (ports : BitVec 40),
      let d := dv.toNat
      (460 ≤ d → d ≤ 600 → s.power.stby = false → exec (.powerApplied dv) s = .next (s.standbyOn d)) ∧
      (s.maySequence = true → exec .powerSequence s = .next s.railsOn) ∧
      (rail.toNat ≤ 6 → s.power.stby = true → s.power.pgood = false → s.power.ovLock = false → (s.power.fault = true → s.power.en = false) →
        exec (.seqfail rail) s = .next ((((s.setFld F.PW_STATUS_SEQFAIL 1).setFld F.PW_STATUS_RAIL rail.toNat).onPower fun p => { p with en := true }).faultPin
          true)) ∧
      (s.power.en = true → exec .powerDown s =
        .next ((s.railsOff.onPower fun p => ({ p with en := false } : Power).unlock (s.fld F.PW_INPUT_VIN)).faultPin s.power.trip)) ∧
      (s.power.stby = true →
        (exec .powerLoss s = .next (s.standbyOff false)) ∧
        (exec .overvoltage s = .next (s.standbyOff true)) ∧
        (460 ≤ d → d < 480 → exec (.inputLow dv) s = .next (((s.setVin d).pwSet pwINPUT_LOW).onPower fun p => p.unlock d)) ∧
        (580 < d → d ≤ 600 → exec (.inputHigh dv) s = .next ((s.setVin d).pwSet pwINPUT_HIGH))) ∧
      (s.beds = 0 → s.power.stby = true → s.power.pgood = true →
        let u := (List.range 40).foldl (fun (s : State) p => if ports.getLsbD p then s.failPort p 2 else s) s
        (exec (.extest ports false) s = .next u) ∧ (exec (.extest ports true) s = .next (u.failPort 40 2)))) ∧
  (∀ (s : State) (rg : BitVec 5) (lo hi : BitVec 8) (die stack ci co : BitVec 10) (watts : BitVec 12) (idle : Option (BitVec 12)),
      let n := rg.toNat
      let v := s.fld (F.PW_REGION_VCORE n)
      let vmin := s.fld (F.PW_VLIM_VMIN n)
      let vmax := s.fld (F.PW_VLIM_VMAX n)
      (n < 20 → lo.toNat ≤ hi.toNat → s.power.pgood = true → exec (.marginRead rg lo hi) s =
        .next ((s.setFld (F.PW_REGION_VCORE n) (s.voltsAfter n lo.toNat)).setRegion n { s.rgn n with alarm := false })) ∧
      (lo = 0 → s.voltsAfter n lo.toNat = Nat.max vmin (Nat.min vmax (v + 5))) ∧
      (2 < lo.toNat → (s.rgn n).alarm = false → s.voltsAfter n lo.toNat = Nat.max vmin (Nat.min vmax (v - 5))) ∧
      (0 < lo.toNat → lo.toNat ≤ 2 → s.voltsAfter n lo.toNat = Nat.max vmin (Nat.min vmax v)) ∧
      (n < 20 → s.power.pgood = true → exec (.margin rg) s = .next (s.marginAlarm n)) ∧
      (n < 20 → s.power.stby = true →
        let u := s.putTemps n die.toNat stack.toNat ci.toNat co.toNat
        (u.power.pgood = true → exec (.temperatureReading rg die stack ci co) s = .next (u.thermal n die.toNat stack.toNat ci.toNat)) ∧
        (u.power.pgood = false → exec (.temperatureReading rg die stack ci co) s = .next u)) ∧
      (n < 20 → s.power.stby = true → (440 ≤ stack.toNat ∨ 460 ≤ die.toNat) →
        let u := (s.setFld (F.PW_REGION_DIE n) die.toNat).setFld (F.PW_REGION_STACK n) stack.toNat
        exec (.thermalTrip rg die stack) s = .next ((u.railsOff.onPower fun p => { p with trip := true }).faultPin true)) ∧
      (s.serving = true → exec (.powerWindow watts idle) s = .next ((s.advanceTo (revStart s.windowEnd)).endWindow watts.toNat idle)))

/-- 19 R551, R552, R557: a breakpoint stops a thread that is about to issue, a bed stop goes by the supervisor to each core of the bed, and a capture
window opens at its revolution and closes LEN revolutions later. -/
def Obligations.DebugEvents : Prop :=
  ∀ (s : State) (c : CoreId) (t : Thr) (n : BitVec 2) (m : NetMsg) (r : BitVec 48), s.hasCore c = true →
    let k := s.core c
    (k.bpStops t n.toNat = true → k.bpIdle c t = false → s.passOver c = false →
      exec (.breakpoint c t n) s = .next (s.stopAtBp c t (k.bpActs t (k.th t).pc))) ∧
    (earliest (fun m => m.stops c) (fun _ _ => false) s.net = some m →
      let u := ((s.dropMsg m).advanceTo m.due).onCore c fun k => k.count 9 none 1
      (m.body = .bedCmd false → exec (.bedStop c) s = .next ((u.advanceTo (m.due + 1)).forwardStop c)) ∧
      (m.body ≠ .bedCmd false → exec (.bedStop c) s = .next (allThr.foldl (fun (s : State) t => s.stopThread c t 1) u))) ∧
    (k.tarm = some r → exec (.captureWindowOpen c) s = .next ((s.advanceTo (revStart r)).onCore c fun k =>
      { (k.setFld F.CORE_TRCFG_OPEN 1) with tarm := none, topen := some r })) ∧
    (k.topen = some r → k.fld F.CORE_TRSTART_LEN ≠ 0 → exec (.captureWindowClose c) s =
      .next ((s.advanceTo (revStart (r + BitVec.ofNat 48 (k.fld F.CORE_TRSTART_LEN)))).onCore c fun k =>
        { (k.setFld F.CORE_TRCFG_OPEN 0) with topen := none }))

/-! ### Frames: what instructions leave unchanged -/

/-- An instruction that computes a scalar register writes no other, no vector register, no memory, no register of a window or of the device, and of the
status word only the bits of loop levels, with those of the flags where it sets them. Memory is compared with that of the issue cycle, up to which the
load and drain engines work (06 R217). -/
def Obligations.ScalarInstructionsFrame : Prop :=
  ∀ (s u : State) (c : CoreId) (t : Thr) (d a b : Reg) (m : BitVec 14) (l : BitVec 20) (w : Word) (cc idx : BitVec 4) (i : Instr),
    let x := s.th c t
    let y := u.th c t
    let v := s.advanceTo (s.issueCyc c t i)
    let apart : Prop := s.keepsThreads u c t ∧ v.keepsMem u ∧ s.keepsWindows u ∧ ∀ r, y.vr r = x.vr r
    s.issues c t i = true → exec i s = .next u →
    (i ∈ ([.add c t d a b, .sub c t d a b, .and c t d a b, .or c t d a b, .xor c t d a b, .mul c t d a b, .shl c t d a b, .shr c t d a b,
        .sar c t d a b, .rot c t d a b, .min c t d a b, .max c t d a b, .mulh c t d a b, .mulhu c t d a b, .div c t d a b, .divu c t d a b,
        .rem c t d a b, .remu c t d a b, .mov c t d a, .not c t d a, .addi c t d a m, .movi c t d l, .movil c t d w, .setcc c t d cc,
        .mfs c t d, .mft c t d idx] : List Instr) →
      apart ∧ (∀ r, r ≠ d → y.gr r = x.gr r) ∧ x.keepsBut y 0x000F0000) ∧
    (i ∈ ([.addc c t d a b, .subc c t d a b] : List Instr) → apart ∧ (∀ r, r ≠ d → y.gr r = x.gr r) ∧ x.keepsBut y 0x000F000F) ∧
    (i ∈ ([.cmp c t a b, .cmpi c t a m] : List Instr) → apart ∧ (∀ r, y.gr r = x.gr r) ∧ x.keepsBut y 0x000F000F) ∧
    (i = .rdcyc c t d → d ≠ 7 → apart ∧ (∀ r, r ≠ d → r ≠ d + 1 → y.gr r = x.gr r) ∧ x.keepsBut y 0x000F0000)

/-- Outside a handler, a load writes only its register, and POP the data stack pointer with it; a store writes only the bytes at the address that its
operands give, and PUSH the data stack pointer with them; none writes the local memory or another thread. One that does not trap changes of the status
word only the bits of loop levels, and no register of a window or of the device. Memory is compared with that of the issue cycle, up to which the load
and drain engines work (06 R217). -/
def Obligations.LoadsAndStoresFrame : Prop :=
  ∀ (s u : State) (c : CoreId) (t : Thr) (d a : Reg) (off : Option (BitVec 14)) (m : BitVec 14) (i : Instr),
    let x := s.th c t
    let y := u.th c t
    let v := s.advanceTo (s.issueCyc c t i)
    let outside (lo n : Nat) : Prop :=
      ∀ e p, ¬ (e = c ∧ lo ≤ p ∧ p < lo + n) → (u.core e).spByte p = (v.core e).spByte p
    let stores (lo n : Nat) : Prop := s.keepsRegs u c t ∧ (∀ p, u.byte p = v.byte p) ∧ outside lo n
    let calm (x : Thread) : Prop := y.st 4 = false → s.keepsWindows u ∧ x.keepsBut y 0x000F0000
    x.st 4 = false → s.issues c t i = true → exec i s = .next u →
    (i ∈ ([.ldw c t d a off, .ldh c t d a off, .ldhu c t d a off, .ldb c t d a off, .ldbu c t d a off, .lds c t d m] : List Instr) →
      s.keepsThreads u c t ∧ v.keepsMem u ∧ (∀ r, r ≠ d → y.gr r = x.gr r) ∧ (∀ r, y.vr r = x.vr r) ∧ calm x) ∧
    (i = .pop c t d →
      s.keepsThreads u c t ∧ v.keepsMem u ∧ (∀ r, r ≠ d → y.gr r = x.gr r) ∧ (∀ r, y.vr r = x.vr r) ∧ calm { x with dsp := y.dsp }) ∧
    (i ∈ ([.vld c t d a m, .vldbc c t d a m] : List Instr) →
      s.keepsThreads u c t ∧ v.keepsMem u ∧ (∀ r, y.gr r = x.gr r) ∧ (∀ r, r ≠ d → y.vr r = x.vr r) ∧ calm x) ∧
    (i = .stw c t d a off → stores (4 * wordAddr (x.gr a) off) 4 ∧ calm x) ∧
    (i = .sth c t d a off → stores (byteAddr (x.gr a) off) 2 ∧ calm x) ∧
    (i = .stb c t d a off → stores (byteAddr (x.gr a) off) 1 ∧ calm x) ∧
    (i = .sts c t d m → stores (4 * (x.dsp.toNat + m.toNat)) 4 ∧ calm x) ∧
    (i = .push c t d → stores (4 * (x.dsp.toNat - 1)) 4 ∧ calm { x with dsp := y.dsp }) ∧
    (i = .vst c t d a m → stores (4 * wordAddr (x.gr a) (some m)) 64 ∧ calm x)

/-- An instruction of the vector unit that does not trap inside a handler writes one register, its destination, no memory, no other thread and no register
of a window or of the device. One that does not trap changes of the status word only the sticky FP flags and the bits of loop levels; VSEED writes the
key and the counter of stochastic rounding, and VCVT under SR that counter. Memory is compared with that of the issue cycle, up to which the load and
drain engines work (06 R217). -/
def Obligations.VectorInstructionsFrame : Prop :=
  ∀ (s u : State) (c : CoreId) (t : Thr) (f q : BitVec 3) (m : BitVec 2) (d a b e : Reg) (i : Instr),
    let x := s.th c t
    let y := u.th c t
    let v := s.advanceTo (s.issueCyc c t i)
    let apart : Prop := s.keepsThreads u c t ∧ v.keepsMem u ∧ s.keepsWindows u
    let calm (x : Thread) (m : Word) : Prop := y.st 4 = x.st 4 → x.keepsBut y m
    (x.st 13 = false ∨ x.st 4 = false) → s.issues c t i = true → exec i s = .next u →
    (i ∈ ([.vadd c t f d a b, .vsub c t f d a b, .vmul c t f d a b, .vfma c t f d a b e, .vmin c t f d a b, .vmax c t f d a b, .vabs c t f d a,
        .vneg c t f d a, .vdiv c t f d a b, .vsqrt c t f d a, .vcmpeq c t f d a b, .vcmplt c t f d a b, .vcmple c t f d a b,
        .vrsum c t f d a, .vrmax c t f d a] : List Instr) →
      apart ∧ (∀ r, y.gr r = x.gr r) ∧ (∀ r, r ≠ d → y.vr r = x.vr r) ∧ calm x 0x000F1F00) ∧
    (i = .vcvt c t f q m d a → apart ∧ (∀ r, y.gr r = x.gr r) ∧ (∀ r, r ≠ d → y.vr r = x.vr r) ∧
      calm { x with ctr := y.ctr } 0x000F1F00 ∧ (m ≠ 2 → y.ctr = x.ctr)) ∧
    (i ∈ ([.vsel c t f d a b e, .vand c t f d a b, .vor c t f d a b, .vxor c t f d a b, .vshl c t f d a b, .vshr c t f d a b,
        .vsar c t f d a b, .vbcast c t f d a, .vins c t f d a b] : List Instr) →
      apart ∧ (∀ r, y.gr r = x.gr r) ∧ (∀ r, r ≠ d → y.vr r = x.vr r) ∧ x.keepsBut y 0x000F0000) ∧
    (i = .vext c t f d a b → apart ∧ (∀ r, r ≠ d → y.gr r = x.gr r) ∧ (∀ r, y.vr r = x.vr r) ∧ x.keepsBut y 0x000F0000) ∧
    (i = .vseed c t a b → apart ∧ (∀ r, y.gr r = x.gr r) ∧ (∀ r, y.vr r = x.vr r) ∧
      ({ x with key := y.key, ctr := y.ctr } : Thread).keepsBut y 0x000F0000)

/-- Outside a handler, a branch, a call, a return, a loop instruction, a timer instruction, HALT, NOP and MTS write no scalar or vector register, no
memory and no other thread. One that does not trap writes no register of a window or of the device, and of the thread's status and special registers
only the bits of loop levels, a call and a return the return stack, MTS the fields of the status word that it may write, and the timer's instructions
the timer's register and its two bits. Memory is compared with that of the issue cycle, up to which the load and drain engines work (06 R217). -/
def Obligations.ControlInstructionsFrame : Prop :=
  ∀ (s u : State) (c : CoreId) (t : Thr) (r : Reg) (lv : BitVec 2) (cc : BitVec 4) (k : Bool) (e : BitVec 15) (i : Instr),
    let x := s.th c t
    let y := u.th c t
    let v := s.advanceTo (s.issueCyc c t i)
    x.st 4 = false → s.issues c t i = true → exec i s = .next u →
    (i ∈ ([.br c t e, .jmp c t e, .bcc c t cc k e, .jr c t r, .call c t k e, .callr c t r, .ret c t, .loop c t lv r e, .lbrk c t lv, .nop c t,
      .settc c t r, .clrtc c t, .waitt c t, .halt c t, .mts c t r] : List Instr) →
      s.keepsRegs u c t ∧ v.keepsMem u ∧ (y.st 4 = false → s.keepsWindows u)) ∧
    (i ∈ ([.br c t e, .jmp c t e, .jr c t r, .loop c t lv r e, .lbrk c t lv, .nop c t, .halt c t] : List Instr) →
      y.st 4 = false → x.keepsBut y 0x000F0000) ∧
    (i ∈ ([.bcc c t cc k e, .call c t k e, .callr c t r, .ret c t] : List Instr) →
      y.st 4 = false → ({ x with rs := y.rs } : Thread).keepsBut y 0x000F0000) ∧
    (i = .mts c t r → x.keepsBut y 0x000F3F0F) ∧
    (i = .settc c t r → ({ x with tcmp := y.tcmp } : Thread).keepsBut y 0x000F0060) ∧
    (i ∈ ([.clrtc c t, .waitt c t] : List Instr) → x.keepsBut y 0x000F0060)
end

