-- ==== Sys2Proof/Laws/Word.lean ====
section
/-! SUPPORT. Laws of the sparse map: a read after a write, and the canonical form. -/

namespace Sys2Proof

variable {α : Type}

@[simp] theorem SMap.get_nil (d : Nat → α) (k : Nat) : SMap.get d [] k = d k := rfl

/-- A key that every listed key exceeds reads its default. -/
theorem SMap.get_below (d : Nat → α) (m : SMap α) (k : Nat) (h : ∀ x ∈ m, k < x.1) : SMap.get d m k = d k := by
  cases m with
  | nil => rfl
  | cons p m => have := h p (by simp); simp only [SMap.get]; rw [if_neg (by omega), if_pos this]

/-- Dropping keys at or below `k` changes no key above it. -/
theorem SMap.get_filter (d : Nat → α) (m : SMap α) (k j : Nat) (h : k < j) :
    SMap.get d (m.filter (fun x => k < x.1)) j = SMap.get d m j := by
  induction m with
  | nil => rfl
  | cons p m ih =>
    by_cases hp : k < p.1
    · simp only [List.filter, hp, decide_true, SMap.get, ih]
    · simp only [List.filter, hp, decide_false, SMap.get, ih]
      rw [if_neg (by omega), if_neg (by omega)]

/-- A read of the key just written gives the value written. -/
@[simp] theorem SMap.get_set_same [DecidableEq α] (d : Nat → α) (m : SMap α) (k : Nat) (v : α) :
    SMap.get d (SMap.set d m k v) k = v := by
  induction m with
  | nil => by_cases hv : v = d k <;> simp [SMap.set, SMap.get, hv]
  | cons p m ih =>
    simp only [SMap.set]
    split
    · next hk =>
      split
      · next hv => simp only [SMap.get]; rw [if_neg (by omega), if_pos hk, hv]
      · simp [SMap.get]
    · split
      · split
        · next hv => rw [SMap.get_below d _ k (fun x hx => by simpa using (List.mem_filter.mp hx).2), hv]
        · simp [SMap.get]
      · next hk he => simp only [SMap.get]; rw [if_neg he, if_neg hk, ih]

/-- A write leaves every other key alone. -/
theorem SMap.get_set_other [DecidableEq α] (d : Nat → α) (m : SMap α) (k j : Nat) (v : α) (h : j ≠ k) :
    SMap.get d (SMap.set d m k v) j = SMap.get d m j := by
  induction m with
  | nil => simp only [SMap.set]; split <;> simp [SMap.get]; omega
  | cons p m ih =>
    simp only [SMap.set]
    split
    · next hk =>
      split
      · rfl
      · simp only [SMap.get]
        rw [if_neg (fun he => h he.symm)]
        split
        · rw [if_neg (by omega), if_pos (by omega)]
        · rfl
    · split
      · next hk he =>
        split
        · by_cases hj : k < j
          · rw [SMap.get_filter d m k j hj]
            simp only [SMap.get]; rw [if_neg (by omega), if_neg (by omega)]
          · rw [SMap.get_below d _ j (fun x hx => by have := (List.mem_filter.mp hx).2; simp only [decide_eq_true_eq] at this; omega)]
            simp only [SMap.get]; rw [if_neg (by omega), if_pos (by omega)]
        · subst he; simp only [SMap.get, if_neg h.symm]
      · simp only [SMap.get, ih]

/-- The entries of a map after a write: the written one, and those it had. -/
theorem SMap.mem_set [DecidableEq α] (d : Nat → α) (m : SMap α) (k : Nat) (v : α) (x : Nat × α) (h : x ∈ SMap.set d m k v) :
    x = (k, v) ∧ v ≠ d k ∨ x ∈ m := by
  induction m with
  | nil =>
    simp only [SMap.set] at h
    split at h
    · simp at h
    · next hv => exact .inl ⟨by simpa using h, hv⟩
  | cons p m ih =>
    simp only [SMap.set] at h
    split at h
    · split at h
      · exact .inr h
      · next hv =>
        rcases List.mem_cons.mp h with h | h
        · exact .inl ⟨h, hv⟩
        · exact .inr h
    · split at h
      · split at h
        · exact .inr (List.mem_cons_of_mem _ (List.mem_of_mem_filter h))
        · next hv =>
          rcases List.mem_cons.mp h with h | h
          · exact .inl ⟨h, hv⟩
          · exact .inr (List.mem_cons_of_mem _ h)
      · rcases List.mem_cons.mp h with h | h
        · exact .inr (by simp [h])
        · rcases ih h with h | h
          · exact .inl h
          · exact .inr (List.mem_cons_of_mem _ h)

/-- Keeping some entries keeps the canonical form. -/
theorem SMap.filter_wf (d : Nat → α) (m : SMap α) (p : Nat × α → Bool) (h : SMap.wf d m) : SMap.wf d (m.filter p) :=
  ⟨h.1.filter p, fun x hx => h.2 x (List.mem_of_mem_filter hx)⟩

theorem SMap.nil_wf (d : Nat → α) : SMap.wf d ([] : SMap α) := ⟨List.Pairwise.nil, fun _ h => by cases h⟩

/-- A write keeps the canonical form. -/
theorem SMap.set_wf [DecidableEq α] (d : Nat → α) (m : SMap α) (k : Nat) (v : α) (h : SMap.wf d m) :
    SMap.wf d (SMap.set d m k v) := by
  refine ⟨?_, fun x hx => ?_⟩
  · induction m with
    | nil => simp only [SMap.set]; split <;> simp
    | cons p m ih =>
      obtain ⟨h1, h2⟩ := h
      have ht : SMap.wf d m := ⟨h1.of_cons, fun x hx => h2 x (by simp [hx])⟩
      have hlt : ∀ x ∈ m, p.1 < x.1 := fun x hx => List.rel_of_pairwise_cons h1 hx
      simp only [SMap.set]
      split
      · split
        · exact h1
        · refine List.pairwise_cons.mpr ⟨fun x hx => ?_, h1⟩
          rcases List.mem_cons.mp hx with hx | hx
          · subst hx; assumption
          · have := hlt x hx; simp only; omega
      · split
        · next hk he =>
          split
          · exact h1.of_cons.filter _
          · exact List.pairwise_cons.mpr ⟨fun x hx => by have := hlt x hx; simp only; omega, h1.of_cons⟩
        · next hk he =>
          refine List.pairwise_cons.mpr ⟨fun x hx => ?_, ih ht⟩
          rcases SMap.mem_set d m k v x hx with ⟨hx, _⟩ | hx
          · subst hx; simp only; omega
          · exact hlt x hx
  · rcases SMap.mem_set d m k v x hx with ⟨hx, hv⟩ | hx
    · subst hx; exact hv
    · exact h.2 x hx

/-- A change of one key keeps the canonical form. -/
theorem SMap.upd_wf [DecidableEq α] (d : Nat → α) (m : SMap α) (k : Nat) (f : α → α) (h : SMap.wf d m) :
    SMap.wf d (SMap.upd d m k f) := SMap.set_wf d m k _ h

end Sys2Proof
end

