-- ==== Sys2Proof/Laws/State.lean ====
section
/-! SUPPORT. What the named updates of the state, a core and a thread change, field by field. -/

namespace Sys2Proof.Machine

/-! ### The state -/

@[simp] theorem State.pending_setDev (s : State) (o : Nat) (w : Word) : (s.setDev o w).pending = s.pending := rfl
@[simp] theorem State.now_setDev (s : State) (o : Nat) (w : Word) : (s.setDev o w).now = s.now := rfl
@[simp] theorem State.cores_setDev (s : State) (o : Nat) (w : Word) : (s.setDev o w).cores = s.cores := rfl
@[simp] theorem State.net_setDev (s : State) (o : Nat) (w : Word) : (s.setDev o w).net = s.net := rfl
@[simp] theorem State.mesh_setDev (s : State) (o : Nat) (w : Word) : (s.setDev o w).mesh = s.mesh := rfl
@[simp] theorem State.dram_setDev (s : State) (o : Nat) (w : Word) : (s.setDev o w).dram = s.dram := rfl
@[simp] theorem State.dramPsn_setDev (s : State) (o : Nat) (w : Word) : (s.setDev o w).dramPsn = s.dramPsn := rfl
@[simp] theorem State.taps_setDev (s : State) (o : Nat) (w : Word) : (s.setDev o w).taps = s.taps := rfl
@[simp] theorem State.lines_setDev (s : State) (o : Nat) (w : Word) : (s.setDev o w).lines = s.lines := rfl
@[simp] theorem State.invs_setDev (s : State) (o : Nat) (w : Word) : (s.setDev o w).invs = s.invs := rfl
@[simp] theorem State.fills_setDev (s : State) (o : Nat) (w : Word) : (s.setDev o w).fills = s.fills := rfl
@[simp] theorem State.rmapTap_setDev (s : State) (o : Nat) (w : Word) : (s.setDev o w).rmapTap = s.rmapTap := rfl
@[simp] theorem State.streams_setDev (s : State) (o : Nat) (w : Word) : (s.setDev o w).streams = s.streams := rfl
@[simp] theorem State.strHist_setDev (s : State) (o : Nat) (w : Word) : (s.setDev o w).strHist = s.strHist := rfl
@[simp] theorem State.strSeq_setDev (s : State) (o : Nat) (w : Word) : (s.setDev o w).strSeq = s.strSeq := rfl
@[simp] theorem State.elog_setDev (s : State) (o : Nat) (w : Word) : (s.setDev o w).elog = s.elog := rfl
@[simp] theorem State.stgX_setDev (s : State) (o : Nat) (w : Word) : (s.setDev o w).stgX = s.stgX := rfl
@[simp] theorem State.fabX_setDev (s : State) (o : Nat) (w : Word) : (s.setDev o w).fabX = s.fabX := rfl
@[simp] theorem State.jobs_setDev (s : State) (o : Nat) (w : Word) : (s.setDev o w).jobs = s.jobs := rfl
@[simp] theorem State.saved_setDev (s : State) (o : Nat) (w : Word) : (s.setDev o w).saved = s.saved := rfl
@[simp] theorem State.ports_setDev (s : State) (o : Nat) (w : Word) : (s.setDev o w).ports = s.ports := rfl
@[simp] theorem State.routes_setDev (s : State) (o : Nat) (w : Word) : (s.setDev o w).routes = s.routes := rfl
@[simp] theorem State.ctxw_setDev (s : State) (o : Nat) (w : Word) : (s.setDev o w).ctxw = s.ctxw := rfl
@[simp] theorem State.ctxs_setDev (s : State) (o : Nat) (w : Word) : (s.setDev o w).ctxs = s.ctxs := rfl
@[simp] theorem State.reds_setDev (s : State) (o : Nat) (w : Word) : (s.setDev o w).reds = s.reds := rfl
@[simp] theorem State.feeds_setDev (s : State) (o : Nat) (w : Word) : (s.setDev o w).feeds = s.feeds := rfl
@[simp] theorem State.feedBuf_setDev (s : State) (o : Nat) (w : Word) : (s.setDev o w).feedBuf = s.feedBuf := rfl
@[simp] theorem State.accFree_setDev (s : State) (o : Nat) (w : Word) : (s.setDev o w).accFree = s.accFree := rfl
@[simp] theorem State.redQ_setDev (s : State) (o : Nat) (w : Word) : (s.setDev o w).redQ = s.redQ := rfl
@[simp] theorem State.rings_setDev (s : State) (o : Nat) (w : Word) : (s.setDev o w).rings = s.rings := rfl
@[simp] theorem State.reads_setDev (s : State) (o : Nat) (w : Word) : (s.setDev o w).reads = s.reads := rfl
@[simp] theorem State.hostOut_setDev (s : State) (o : Nat) (w : Word) : (s.setDev o w).hostOut = s.hostOut := rfl
@[simp] theorem State.hostLost_setDev (s : State) (o : Nat) (w : Word) : (s.setDev o w).hostLost = s.hostLost := rfl
@[simp] theorem State.hostWait_setDev (s : State) (o : Nat) (w : Word) : (s.setDev o w).hostWait = s.hostWait := rfl
@[simp] theorem State.latches_setDev (s : State) (o : Nat) (w : Word) : (s.setDev o w).latches = s.latches := rfl
@[simp] theorem State.answers_setDev (s : State) (o : Nat) (w : Word) : (s.setDev o w).answers = s.answers := rfl
@[simp] theorem State.rests_setDev (s : State) (o : Nat) (w : Word) : (s.setDev o w).rests = s.rests := rfl
@[simp] theorem State.regions_setDev (s : State) (o : Nat) (w : Word) : (s.setDev o w).regions = s.regions := rfl
@[simp] theorem State.lockE_setDev (s : State) (o : Nat) (w : Word) : (s.setDev o w).lockE = s.lockE := rfl
@[simp] theorem State.slewE_setDev (s : State) (o : Nat) (w : Word) : (s.setDev o w).slewE = s.slewE := rfl
@[simp] theorem State.masterTo_setDev (s : State) (o : Nat) (w : Word) : (s.setDev o w).masterTo = s.masterTo := rfl
@[simp] theorem State.driftRev_setDev (s : State) (o : Nat) (w : Word) : (s.setDev o w).driftRev = s.driftRev := rfl
@[simp] theorem State.fuses_setDev (s : State) (o : Nat) (w : Word) : (s.setDev o w).fuses = s.fuses := rfl
@[simp] theorem State.hs_setDev (s : State) (o : Nat) (w : Word) : (s.setDev o w).hs = s.hs := rfl
@[simp] theorem State.power_setDev (s : State) (o : Nat) (w : Word) : (s.setDev o w).power = s.power := rfl
@[simp] theorem State.ibis_setDev (s : State) (o : Nat) (w : Word) : (s.setDev o w).ibis = s.ibis := rfl
@[simp] theorem State.kpPrev_setDev (s : State) (o : Nat) (w : Word) : (s.setDev o w).kpPrev = s.kpPrev := rfl
@[simp] theorem State.windowed_setDev (s : State) (o : Nat) (w : Word) : (s.setDev o w).windowed = s.windowed := rfl
@[simp] theorem State.evs_setDev (s : State) (o : Nat) (w : Word) : (s.setDev o w).evs = s.evs := rfl
@[simp] theorem State.free_setDev (s : State) (o : Nat) (w : Word) : (s.setDev o w).free = s.free := rfl

@[simp] theorem State.pending_setFld (s : State) (f : Fld) (x : Nat) : (s.setFld f x).pending = s.pending := rfl
@[simp] theorem State.now_setFld (s : State) (f : Fld) (x : Nat) : (s.setFld f x).now = s.now := rfl
@[simp] theorem State.cores_setFld (s : State) (f : Fld) (x : Nat) : (s.setFld f x).cores = s.cores := rfl
@[simp] theorem State.net_setFld (s : State) (f : Fld) (x : Nat) : (s.setFld f x).net = s.net := rfl
@[simp] theorem State.mesh_setFld (s : State) (f : Fld) (x : Nat) : (s.setFld f x).mesh = s.mesh := rfl
@[simp] theorem State.dram_setFld (s : State) (f : Fld) (x : Nat) : (s.setFld f x).dram = s.dram := rfl
@[simp] theorem State.dramPsn_setFld (s : State) (f : Fld) (x : Nat) : (s.setFld f x).dramPsn = s.dramPsn := rfl
@[simp] theorem State.taps_setFld (s : State) (f : Fld) (x : Nat) : (s.setFld f x).taps = s.taps := rfl
@[simp] theorem State.lines_setFld (s : State) (f : Fld) (x : Nat) : (s.setFld f x).lines = s.lines := rfl
@[simp] theorem State.invs_setFld (s : State) (f : Fld) (x : Nat) : (s.setFld f x).invs = s.invs := rfl
@[simp] theorem State.fills_setFld (s : State) (f : Fld) (x : Nat) : (s.setFld f x).fills = s.fills := rfl
@[simp] theorem State.rmapTap_setFld (s : State) (f : Fld) (x : Nat) : (s.setFld f x).rmapTap = s.rmapTap := rfl
@[simp] theorem State.streams_setFld (s : State) (f : Fld) (x : Nat) : (s.setFld f x).streams = s.streams := rfl
@[simp] theorem State.strHist_setFld (s : State) (f : Fld) (x : Nat) : (s.setFld f x).strHist = s.strHist := rfl
@[simp] theorem State.strSeq_setFld (s : State) (f : Fld) (x : Nat) : (s.setFld f x).strSeq = s.strSeq := rfl
@[simp] theorem State.elog_setFld (s : State) (f : Fld) (x : Nat) : (s.setFld f x).elog = s.elog := rfl
@[simp] theorem State.stgX_setFld (s : State) (f : Fld) (x : Nat) : (s.setFld f x).stgX = s.stgX := rfl
@[simp] theorem State.fabX_setFld (s : State) (f : Fld) (x : Nat) : (s.setFld f x).fabX = s.fabX := rfl
@[simp] theorem State.jobs_setFld (s : State) (f : Fld) (x : Nat) : (s.setFld f x).jobs = s.jobs := rfl
@[simp] theorem State.saved_setFld (s : State) (f : Fld) (x : Nat) : (s.setFld f x).saved = s.saved := rfl
@[simp] theorem State.ports_setFld (s : State) (f : Fld) (x : Nat) : (s.setFld f x).ports = s.ports := rfl
@[simp] theorem State.routes_setFld (s : State) (f : Fld) (x : Nat) : (s.setFld f x).routes = s.routes := rfl
@[simp] theorem State.ctxw_setFld (s : State) (f : Fld) (x : Nat) : (s.setFld f x).ctxw = s.ctxw := rfl
@[simp] theorem State.ctxs_setFld (s : State) (f : Fld) (x : Nat) : (s.setFld f x).ctxs = s.ctxs := rfl
@[simp] theorem State.reds_setFld (s : State) (f : Fld) (x : Nat) : (s.setFld f x).reds = s.reds := rfl
@[simp] theorem State.feeds_setFld (s : State) (f : Fld) (x : Nat) : (s.setFld f x).feeds = s.feeds := rfl
@[simp] theorem State.feedBuf_setFld (s : State) (f : Fld) (x : Nat) : (s.setFld f x).feedBuf = s.feedBuf := rfl
@[simp] theorem State.accFree_setFld (s : State) (f : Fld) (x : Nat) : (s.setFld f x).accFree = s.accFree := rfl
@[simp] theorem State.redQ_setFld (s : State) (f : Fld) (x : Nat) : (s.setFld f x).redQ = s.redQ := rfl
@[simp] theorem State.rings_setFld (s : State) (f : Fld) (x : Nat) : (s.setFld f x).rings = s.rings := rfl
@[simp] theorem State.reads_setFld (s : State) (f : Fld) (x : Nat) : (s.setFld f x).reads = s.reads := rfl
@[simp] theorem State.hostOut_setFld (s : State) (f : Fld) (x : Nat) : (s.setFld f x).hostOut = s.hostOut := rfl
@[simp] theorem State.hostLost_setFld (s : State) (f : Fld) (x : Nat) : (s.setFld f x).hostLost = s.hostLost := rfl
@[simp] theorem State.hostWait_setFld (s : State) (f : Fld) (x : Nat) : (s.setFld f x).hostWait = s.hostWait := rfl
@[simp] theorem State.latches_setFld (s : State) (f : Fld) (x : Nat) : (s.setFld f x).latches = s.latches := rfl
@[simp] theorem State.answers_setFld (s : State) (f : Fld) (x : Nat) : (s.setFld f x).answers = s.answers := rfl
@[simp] theorem State.rests_setFld (s : State) (f : Fld) (x : Nat) : (s.setFld f x).rests = s.rests := rfl
@[simp] theorem State.regions_setFld (s : State) (f : Fld) (x : Nat) : (s.setFld f x).regions = s.regions := rfl
@[simp] theorem State.lockE_setFld (s : State) (f : Fld) (x : Nat) : (s.setFld f x).lockE = s.lockE := rfl
@[simp] theorem State.slewE_setFld (s : State) (f : Fld) (x : Nat) : (s.setFld f x).slewE = s.slewE := rfl
@[simp] theorem State.masterTo_setFld (s : State) (f : Fld) (x : Nat) : (s.setFld f x).masterTo = s.masterTo := rfl
@[simp] theorem State.driftRev_setFld (s : State) (f : Fld) (x : Nat) : (s.setFld f x).driftRev = s.driftRev := rfl
@[simp] theorem State.fuses_setFld (s : State) (f : Fld) (x : Nat) : (s.setFld f x).fuses = s.fuses := rfl
@[simp] theorem State.hs_setFld (s : State) (f : Fld) (x : Nat) : (s.setFld f x).hs = s.hs := rfl
@[simp] theorem State.power_setFld (s : State) (f : Fld) (x : Nat) : (s.setFld f x).power = s.power := rfl
@[simp] theorem State.ibis_setFld (s : State) (f : Fld) (x : Nat) : (s.setFld f x).ibis = s.ibis := rfl
@[simp] theorem State.kpPrev_setFld (s : State) (f : Fld) (x : Nat) : (s.setFld f x).kpPrev = s.kpPrev := rfl
@[simp] theorem State.windowed_setFld (s : State) (f : Fld) (x : Nat) : (s.setFld f x).windowed = s.windowed := rfl
@[simp] theorem State.evs_setFld (s : State) (f : Fld) (x : Nat) : (s.setFld f x).evs = s.evs := rfl
@[simp] theorem State.free_setFld (s : State) (f : Fld) (x : Nat) : (s.setFld f x).free = s.free := rfl

@[simp] theorem State.pending_setCore (s : State) (c : CoreId) (k : Core) : (s.setCore c k).pending = s.pending := rfl
@[simp] theorem State.now_setCore (s : State) (c : CoreId) (k : Core) : (s.setCore c k).now = s.now := rfl
@[simp] theorem State.dev_setCore (s : State) (c : CoreId) (k : Core) : (s.setCore c k).dev = s.dev := rfl
@[simp] theorem State.net_setCore (s : State) (c : CoreId) (k : Core) : (s.setCore c k).net = s.net := rfl
@[simp] theorem State.mesh_setCore (s : State) (c : CoreId) (k : Core) : (s.setCore c k).mesh = s.mesh := rfl
@[simp] theorem State.dram_setCore (s : State) (c : CoreId) (k : Core) : (s.setCore c k).dram = s.dram := rfl
@[simp] theorem State.dramPsn_setCore (s : State) (c : CoreId) (k : Core) : (s.setCore c k).dramPsn = s.dramPsn := rfl
@[simp] theorem State.taps_setCore (s : State) (c : CoreId) (k : Core) : (s.setCore c k).taps = s.taps := rfl
@[simp] theorem State.lines_setCore (s : State) (c : CoreId) (k : Core) : (s.setCore c k).lines = s.lines := rfl
@[simp] theorem State.invs_setCore (s : State) (c : CoreId) (k : Core) : (s.setCore c k).invs = s.invs := rfl
@[simp] theorem State.fills_setCore (s : State) (c : CoreId) (k : Core) : (s.setCore c k).fills = s.fills := rfl
@[simp] theorem State.rmapTap_setCore (s : State) (c : CoreId) (k : Core) : (s.setCore c k).rmapTap = s.rmapTap := rfl
@[simp] theorem State.streams_setCore (s : State) (c : CoreId) (k : Core) : (s.setCore c k).streams = s.streams := rfl
@[simp] theorem State.strHist_setCore (s : State) (c : CoreId) (k : Core) : (s.setCore c k).strHist = s.strHist := rfl
@[simp] theorem State.strSeq_setCore (s : State) (c : CoreId) (k : Core) : (s.setCore c k).strSeq = s.strSeq := rfl
@[simp] theorem State.elog_setCore (s : State) (c : CoreId) (k : Core) : (s.setCore c k).elog = s.elog := rfl
@[simp] theorem State.stgX_setCore (s : State) (c : CoreId) (k : Core) : (s.setCore c k).stgX = s.stgX := rfl
@[simp] theorem State.fabX_setCore (s : State) (c : CoreId) (k : Core) : (s.setCore c k).fabX = s.fabX := rfl
@[simp] theorem State.jobs_setCore (s : State) (c : CoreId) (k : Core) : (s.setCore c k).jobs = s.jobs := rfl
@[simp] theorem State.saved_setCore (s : State) (c : CoreId) (k : Core) : (s.setCore c k).saved = s.saved := rfl
@[simp] theorem State.ports_setCore (s : State) (c : CoreId) (k : Core) : (s.setCore c k).ports = s.ports := rfl
@[simp] theorem State.routes_setCore (s : State) (c : CoreId) (k : Core) : (s.setCore c k).routes = s.routes := rfl
@[simp] theorem State.ctxw_setCore (s : State) (c : CoreId) (k : Core) : (s.setCore c k).ctxw = s.ctxw := rfl
@[simp] theorem State.ctxs_setCore (s : State) (c : CoreId) (k : Core) : (s.setCore c k).ctxs = s.ctxs := rfl
@[simp] theorem State.reds_setCore (s : State) (c : CoreId) (k : Core) : (s.setCore c k).reds = s.reds := rfl
@[simp] theorem State.feeds_setCore (s : State) (c : CoreId) (k : Core) : (s.setCore c k).feeds = s.feeds := rfl
@[simp] theorem State.feedBuf_setCore (s : State) (c : CoreId) (k : Core) : (s.setCore c k).feedBuf = s.feedBuf := rfl
@[simp] theorem State.accFree_setCore (s : State) (c : CoreId) (k : Core) : (s.setCore c k).accFree = s.accFree := rfl
@[simp] theorem State.redQ_setCore (s : State) (c : CoreId) (k : Core) : (s.setCore c k).redQ = s.redQ := rfl
@[simp] theorem State.rings_setCore (s : State) (c : CoreId) (k : Core) : (s.setCore c k).rings = s.rings := rfl
@[simp] theorem State.reads_setCore (s : State) (c : CoreId) (k : Core) : (s.setCore c k).reads = s.reads := rfl
@[simp] theorem State.hostOut_setCore (s : State) (c : CoreId) (k : Core) : (s.setCore c k).hostOut = s.hostOut := rfl
@[simp] theorem State.hostLost_setCore (s : State) (c : CoreId) (k : Core) : (s.setCore c k).hostLost = s.hostLost := rfl
@[simp] theorem State.hostWait_setCore (s : State) (c : CoreId) (k : Core) : (s.setCore c k).hostWait = s.hostWait := rfl
@[simp] theorem State.latches_setCore (s : State) (c : CoreId) (k : Core) : (s.setCore c k).latches = s.latches := rfl
@[simp] theorem State.answers_setCore (s : State) (c : CoreId) (k : Core) : (s.setCore c k).answers = s.answers := rfl
@[simp] theorem State.rests_setCore (s : State) (c : CoreId) (k : Core) : (s.setCore c k).rests = s.rests := rfl
@[simp] theorem State.regions_setCore (s : State) (c : CoreId) (k : Core) : (s.setCore c k).regions = s.regions := rfl
@[simp] theorem State.lockE_setCore (s : State) (c : CoreId) (k : Core) : (s.setCore c k).lockE = s.lockE := rfl
@[simp] theorem State.slewE_setCore (s : State) (c : CoreId) (k : Core) : (s.setCore c k).slewE = s.slewE := rfl
@[simp] theorem State.masterTo_setCore (s : State) (c : CoreId) (k : Core) : (s.setCore c k).masterTo = s.masterTo := rfl
@[simp] theorem State.driftRev_setCore (s : State) (c : CoreId) (k : Core) : (s.setCore c k).driftRev = s.driftRev := rfl
@[simp] theorem State.fuses_setCore (s : State) (c : CoreId) (k : Core) : (s.setCore c k).fuses = s.fuses := rfl
@[simp] theorem State.hs_setCore (s : State) (c : CoreId) (k : Core) : (s.setCore c k).hs = s.hs := rfl
@[simp] theorem State.power_setCore (s : State) (c : CoreId) (k : Core) : (s.setCore c k).power = s.power := rfl
@[simp] theorem State.ibis_setCore (s : State) (c : CoreId) (k : Core) : (s.setCore c k).ibis = s.ibis := rfl
@[simp] theorem State.kpPrev_setCore (s : State) (c : CoreId) (k : Core) : (s.setCore c k).kpPrev = s.kpPrev := rfl
@[simp] theorem State.windowed_setCore (s : State) (c : CoreId) (k : Core) : (s.setCore c k).windowed = s.windowed := rfl
@[simp] theorem State.evs_setCore (s : State) (c : CoreId) (k : Core) : (s.setCore c k).evs = s.evs := rfl
@[simp] theorem State.free_setCore (s : State) (c : CoreId) (k : Core) : (s.setCore c k).free = s.free := rfl

@[simp] theorem State.pending_onCore (s : State) (c : CoreId) (f : Core → Core) : (s.onCore c f).pending = s.pending := rfl
@[simp] theorem State.now_onCore (s : State) (c : CoreId) (f : Core → Core) : (s.onCore c f).now = s.now := rfl
@[simp] theorem State.dev_onCore (s : State) (c : CoreId) (f : Core → Core) : (s.onCore c f).dev = s.dev := rfl
@[simp] theorem State.net_onCore (s : State) (c : CoreId) (f : Core → Core) : (s.onCore c f).net = s.net := rfl
@[simp] theorem State.mesh_onCore (s : State) (c : CoreId) (f : Core → Core) : (s.onCore c f).mesh = s.mesh := rfl
@[simp] theorem State.dram_onCore (s : State) (c : CoreId) (f : Core → Core) : (s.onCore c f).dram = s.dram := rfl
@[simp] theorem State.dramPsn_onCore (s : State) (c : CoreId) (f : Core → Core) : (s.onCore c f).dramPsn = s.dramPsn := rfl
@[simp] theorem State.taps_onCore (s : State) (c : CoreId) (f : Core → Core) : (s.onCore c f).taps = s.taps := rfl
@[simp] theorem State.lines_onCore (s : State) (c : CoreId) (f : Core → Core) : (s.onCore c f).lines = s.lines := rfl
@[simp] theorem State.invs_onCore (s : State) (c : CoreId) (f : Core → Core) : (s.onCore c f).invs = s.invs := rfl
@[simp] theorem State.fills_onCore (s : State) (c : CoreId) (f : Core → Core) : (s.onCore c f).fills = s.fills := rfl
@[simp] theorem State.rmapTap_onCore (s : State) (c : CoreId) (f : Core → Core) : (s.onCore c f).rmapTap = s.rmapTap := rfl
@[simp] theorem State.streams_onCore (s : State) (c : CoreId) (f : Core → Core) : (s.onCore c f).streams = s.streams := rfl
@[simp] theorem State.strHist_onCore (s : State) (c : CoreId) (f : Core → Core) : (s.onCore c f).strHist = s.strHist := rfl
@[simp] theorem State.strSeq_onCore (s : State) (c : CoreId) (f : Core → Core) : (s.onCore c f).strSeq = s.strSeq := rfl
@[simp] theorem State.elog_onCore (s : State) (c : CoreId) (f : Core → Core) : (s.onCore c f).elog = s.elog := rfl
@[simp] theorem State.stgX_onCore (s : State) (c : CoreId) (f : Core → Core) : (s.onCore c f).stgX = s.stgX := rfl
@[simp] theorem State.fabX_onCore (s : State) (c : CoreId) (f : Core → Core) : (s.onCore c f).fabX = s.fabX := rfl
@[simp] theorem State.jobs_onCore (s : State) (c : CoreId) (f : Core → Core) : (s.onCore c f).jobs = s.jobs := rfl
@[simp] theorem State.saved_onCore (s : State) (c : CoreId) (f : Core → Core) : (s.onCore c f).saved = s.saved := rfl
@[simp] theorem State.ports_onCore (s : State) (c : CoreId) (f : Core → Core) : (s.onCore c f).ports = s.ports := rfl
@[simp] theorem State.routes_onCore (s : State) (c : CoreId) (f : Core → Core) : (s.onCore c f).routes = s.routes := rfl
@[simp] theorem State.ctxw_onCore (s : State) (c : CoreId) (f : Core → Core) : (s.onCore c f).ctxw = s.ctxw := rfl
@[simp] theorem State.ctxs_onCore (s : State) (c : CoreId) (f : Core → Core) : (s.onCore c f).ctxs = s.ctxs := rfl
@[simp] theorem State.reds_onCore (s : State) (c : CoreId) (f : Core → Core) : (s.onCore c f).reds = s.reds := rfl
@[simp] theorem State.feeds_onCore (s : State) (c : CoreId) (f : Core → Core) : (s.onCore c f).feeds = s.feeds := rfl
@[simp] theorem State.feedBuf_onCore (s : State) (c : CoreId) (f : Core → Core) : (s.onCore c f).feedBuf = s.feedBuf := rfl
@[simp] theorem State.accFree_onCore (s : State) (c : CoreId) (f : Core → Core) : (s.onCore c f).accFree = s.accFree := rfl
@[simp] theorem State.redQ_onCore (s : State) (c : CoreId) (f : Core → Core) : (s.onCore c f).redQ = s.redQ := rfl
@[simp] theorem State.rings_onCore (s : State) (c : CoreId) (f : Core → Core) : (s.onCore c f).rings = s.rings := rfl
@[simp] theorem State.reads_onCore (s : State) (c : CoreId) (f : Core → Core) : (s.onCore c f).reads = s.reads := rfl
@[simp] theorem State.hostOut_onCore (s : State) (c : CoreId) (f : Core → Core) : (s.onCore c f).hostOut = s.hostOut := rfl
@[simp] theorem State.hostLost_onCore (s : State) (c : CoreId) (f : Core → Core) : (s.onCore c f).hostLost = s.hostLost := rfl
@[simp] theorem State.hostWait_onCore (s : State) (c : CoreId) (f : Core → Core) : (s.onCore c f).hostWait = s.hostWait := rfl
@[simp] theorem State.latches_onCore (s : State) (c : CoreId) (f : Core → Core) : (s.onCore c f).latches = s.latches := rfl
@[simp] theorem State.answers_onCore (s : State) (c : CoreId) (f : Core → Core) : (s.onCore c f).answers = s.answers := rfl
@[simp] theorem State.rests_onCore (s : State) (c : CoreId) (f : Core → Core) : (s.onCore c f).rests = s.rests := rfl
@[simp] theorem State.regions_onCore (s : State) (c : CoreId) (f : Core → Core) : (s.onCore c f).regions = s.regions := rfl
@[simp] theorem State.lockE_onCore (s : State) (c : CoreId) (f : Core → Core) : (s.onCore c f).lockE = s.lockE := rfl
@[simp] theorem State.slewE_onCore (s : State) (c : CoreId) (f : Core → Core) : (s.onCore c f).slewE = s.slewE := rfl
@[simp] theorem State.masterTo_onCore (s : State) (c : CoreId) (f : Core → Core) : (s.onCore c f).masterTo = s.masterTo := rfl
@[simp] theorem State.driftRev_onCore (s : State) (c : CoreId) (f : Core → Core) : (s.onCore c f).driftRev = s.driftRev := rfl
@[simp] theorem State.fuses_onCore (s : State) (c : CoreId) (f : Core → Core) : (s.onCore c f).fuses = s.fuses := rfl
@[simp] theorem State.hs_onCore (s : State) (c : CoreId) (f : Core → Core) : (s.onCore c f).hs = s.hs := rfl
@[simp] theorem State.power_onCore (s : State) (c : CoreId) (f : Core → Core) : (s.onCore c f).power = s.power := rfl
@[simp] theorem State.ibis_onCore (s : State) (c : CoreId) (f : Core → Core) : (s.onCore c f).ibis = s.ibis := rfl
@[simp] theorem State.kpPrev_onCore (s : State) (c : CoreId) (f : Core → Core) : (s.onCore c f).kpPrev = s.kpPrev := rfl
@[simp] theorem State.windowed_onCore (s : State) (c : CoreId) (f : Core → Core) : (s.onCore c f).windowed = s.windowed := rfl
@[simp] theorem State.evs_onCore (s : State) (c : CoreId) (f : Core → Core) : (s.onCore c f).evs = s.evs := rfl
@[simp] theorem State.free_onCore (s : State) (c : CoreId) (f : Core → Core) : (s.onCore c f).free = s.free := rfl

@[simp] theorem State.pending_onTh (s : State) (c : CoreId) (t : Thr) (f : Thread → Thread) : (s.onTh c t f).pending = s.pending := rfl
@[simp] theorem State.now_onTh (s : State) (c : CoreId) (t : Thr) (f : Thread → Thread) : (s.onTh c t f).now = s.now := rfl
@[simp] theorem State.dev_onTh (s : State) (c : CoreId) (t : Thr) (f : Thread → Thread) : (s.onTh c t f).dev = s.dev := rfl
@[simp] theorem State.net_onTh (s : State) (c : CoreId) (t : Thr) (f : Thread → Thread) : (s.onTh c t f).net = s.net := rfl
@[simp] theorem State.mesh_onTh (s : State) (c : CoreId) (t : Thr) (f : Thread → Thread) : (s.onTh c t f).mesh = s.mesh := rfl
@[simp] theorem State.dram_onTh (s : State) (c : CoreId) (t : Thr) (f : Thread → Thread) : (s.onTh c t f).dram = s.dram := rfl
@[simp] theorem State.dramPsn_onTh (s : State) (c : CoreId) (t : Thr) (f : Thread → Thread) : (s.onTh c t f).dramPsn = s.dramPsn := rfl
@[simp] theorem State.taps_onTh (s : State) (c : CoreId) (t : Thr) (f : Thread → Thread) : (s.onTh c t f).taps = s.taps := rfl
@[simp] theorem State.lines_onTh (s : State) (c : CoreId) (t : Thr) (f : Thread → Thread) : (s.onTh c t f).lines = s.lines := rfl
@[simp] theorem State.invs_onTh (s : State) (c : CoreId) (t : Thr) (f : Thread → Thread) : (s.onTh c t f).invs = s.invs := rfl
@[simp] theorem State.fills_onTh (s : State) (c : CoreId) (t : Thr) (f : Thread → Thread) : (s.onTh c t f).fills = s.fills := rfl
@[simp] theorem State.rmapTap_onTh (s : State) (c : CoreId) (t : Thr) (f : Thread → Thread) : (s.onTh c t f).rmapTap = s.rmapTap := rfl
@[simp] theorem State.streams_onTh (s : State) (c : CoreId) (t : Thr) (f : Thread → Thread) : (s.onTh c t f).streams = s.streams := rfl
@[simp] theorem State.strHist_onTh (s : State) (c : CoreId) (t : Thr) (f : Thread → Thread) : (s.onTh c t f).strHist = s.strHist := rfl
@[simp] theorem State.strSeq_onTh (s : State) (c : CoreId) (t : Thr) (f : Thread → Thread) : (s.onTh c t f).strSeq = s.strSeq := rfl
@[simp] theorem State.elog_onTh (s : State) (c : CoreId) (t : Thr) (f : Thread → Thread) : (s.onTh c t f).elog = s.elog := rfl
@[simp] theorem State.stgX_onTh (s : State) (c : CoreId) (t : Thr) (f : Thread → Thread) : (s.onTh c t f).stgX = s.stgX := rfl
@[simp] theorem State.fabX_onTh (s : State) (c : CoreId) (t : Thr) (f : Thread → Thread) : (s.onTh c t f).fabX = s.fabX := rfl
@[simp] theorem State.jobs_onTh (s : State) (c : CoreId) (t : Thr) (f : Thread → Thread) : (s.onTh c t f).jobs = s.jobs := rfl
@[simp] theorem State.saved_onTh (s : State) (c : CoreId) (t : Thr) (f : Thread → Thread) : (s.onTh c t f).saved = s.saved := rfl
@[simp] theorem State.ports_onTh (s : State) (c : CoreId) (t : Thr) (f : Thread → Thread) : (s.onTh c t f).ports = s.ports := rfl
@[simp] theorem State.routes_onTh (s : State) (c : CoreId) (t : Thr) (f : Thread → Thread) : (s.onTh c t f).routes = s.routes := rfl
@[simp] theorem State.ctxw_onTh (s : State) (c : CoreId) (t : Thr) (f : Thread → Thread) : (s.onTh c t f).ctxw = s.ctxw := rfl
@[simp] theorem State.ctxs_onTh (s : State) (c : CoreId) (t : Thr) (f : Thread → Thread) : (s.onTh c t f).ctxs = s.ctxs := rfl
@[simp] theorem State.reds_onTh (s : State) (c : CoreId) (t : Thr) (f : Thread → Thread) : (s.onTh c t f).reds = s.reds := rfl
@[simp] theorem State.feeds_onTh (s : State) (c : CoreId) (t : Thr) (f : Thread → Thread) : (s.onTh c t f).feeds = s.feeds := rfl
@[simp] theorem State.feedBuf_onTh (s : State) (c : CoreId) (t : Thr) (f : Thread → Thread) : (s.onTh c t f).feedBuf = s.feedBuf := rfl
@[simp] theorem State.accFree_onTh (s : State) (c : CoreId) (t : Thr) (f : Thread → Thread) : (s.onTh c t f).accFree = s.accFree := rfl
@[simp] theorem State.redQ_onTh (s : State) (c : CoreId) (t : Thr) (f : Thread → Thread) : (s.onTh c t f).redQ = s.redQ := rfl
@[simp] theorem State.rings_onTh (s : State) (c : CoreId) (t : Thr) (f : Thread → Thread) : (s.onTh c t f).rings = s.rings := rfl
@[simp] theorem State.reads_onTh (s : State) (c : CoreId) (t : Thr) (f : Thread → Thread) : (s.onTh c t f).reads = s.reads := rfl
@[simp] theorem State.hostOut_onTh (s : State) (c : CoreId) (t : Thr) (f : Thread → Thread) : (s.onTh c t f).hostOut = s.hostOut := rfl
@[simp] theorem State.hostLost_onTh (s : State) (c : CoreId) (t : Thr) (f : Thread → Thread) : (s.onTh c t f).hostLost = s.hostLost := rfl
@[simp] theorem State.hostWait_onTh (s : State) (c : CoreId) (t : Thr) (f : Thread → Thread) : (s.onTh c t f).hostWait = s.hostWait := rfl
@[simp] theorem State.latches_onTh (s : State) (c : CoreId) (t : Thr) (f : Thread → Thread) : (s.onTh c t f).latches = s.latches := rfl
@[simp] theorem State.answers_onTh (s : State) (c : CoreId) (t : Thr) (f : Thread → Thread) : (s.onTh c t f).answers = s.answers := rfl
@[simp] theorem State.rests_onTh (s : State) (c : CoreId) (t : Thr) (f : Thread → Thread) : (s.onTh c t f).rests = s.rests := rfl
@[simp] theorem State.regions_onTh (s : State) (c : CoreId) (t : Thr) (f : Thread → Thread) : (s.onTh c t f).regions = s.regions := rfl
@[simp] theorem State.lockE_onTh (s : State) (c : CoreId) (t : Thr) (f : Thread → Thread) : (s.onTh c t f).lockE = s.lockE := rfl
@[simp] theorem State.slewE_onTh (s : State) (c : CoreId) (t : Thr) (f : Thread → Thread) : (s.onTh c t f).slewE = s.slewE := rfl
@[simp] theorem State.masterTo_onTh (s : State) (c : CoreId) (t : Thr) (f : Thread → Thread) : (s.onTh c t f).masterTo = s.masterTo := rfl
@[simp] theorem State.driftRev_onTh (s : State) (c : CoreId) (t : Thr) (f : Thread → Thread) : (s.onTh c t f).driftRev = s.driftRev := rfl
@[simp] theorem State.fuses_onTh (s : State) (c : CoreId) (t : Thr) (f : Thread → Thread) : (s.onTh c t f).fuses = s.fuses := rfl
@[simp] theorem State.hs_onTh (s : State) (c : CoreId) (t : Thr) (f : Thread → Thread) : (s.onTh c t f).hs = s.hs := rfl
@[simp] theorem State.power_onTh (s : State) (c : CoreId) (t : Thr) (f : Thread → Thread) : (s.onTh c t f).power = s.power := rfl
@[simp] theorem State.ibis_onTh (s : State) (c : CoreId) (t : Thr) (f : Thread → Thread) : (s.onTh c t f).ibis = s.ibis := rfl
@[simp] theorem State.kpPrev_onTh (s : State) (c : CoreId) (t : Thr) (f : Thread → Thread) : (s.onTh c t f).kpPrev = s.kpPrev := rfl
@[simp] theorem State.windowed_onTh (s : State) (c : CoreId) (t : Thr) (f : Thread → Thread) : (s.onTh c t f).windowed = s.windowed := rfl
@[simp] theorem State.evs_onTh (s : State) (c : CoreId) (t : Thr) (f : Thread → Thread) : (s.onTh c t f).evs = s.evs := rfl
@[simp] theorem State.free_onTh (s : State) (c : CoreId) (t : Thr) (f : Thread → Thread) : (s.onTh c t f).free = s.free := rfl

@[simp] theorem State.pending_putG (s : State) (c : CoreId) (t : Thr) (d : Reg) (x : Word) (n : Nat) : (s.putG c t d x n).pending = s.pending := rfl
@[simp] theorem State.now_putG (s : State) (c : CoreId) (t : Thr) (d : Reg) (x : Word) (n : Nat) : (s.putG c t d x n).now = s.now := rfl
@[simp] theorem State.dev_putG (s : State) (c : CoreId) (t : Thr) (d : Reg) (x : Word) (n : Nat) : (s.putG c t d x n).dev = s.dev := rfl
@[simp] theorem State.net_putG (s : State) (c : CoreId) (t : Thr) (d : Reg) (x : Word) (n : Nat) : (s.putG c t d x n).net = s.net := rfl
@[simp] theorem State.mesh_putG (s : State) (c : CoreId) (t : Thr) (d : Reg) (x : Word) (n : Nat) : (s.putG c t d x n).mesh = s.mesh := rfl
@[simp] theorem State.dram_putG (s : State) (c : CoreId) (t : Thr) (d : Reg) (x : Word) (n : Nat) : (s.putG c t d x n).dram = s.dram := rfl
@[simp] theorem State.dramPsn_putG (s : State) (c : CoreId) (t : Thr) (d : Reg) (x : Word) (n : Nat) : (s.putG c t d x n).dramPsn = s.dramPsn := rfl
@[simp] theorem State.taps_putG (s : State) (c : CoreId) (t : Thr) (d : Reg) (x : Word) (n : Nat) : (s.putG c t d x n).taps = s.taps := rfl
@[simp] theorem State.lines_putG (s : State) (c : CoreId) (t : Thr) (d : Reg) (x : Word) (n : Nat) : (s.putG c t d x n).lines = s.lines := rfl
@[simp] theorem State.invs_putG (s : State) (c : CoreId) (t : Thr) (d : Reg) (x : Word) (n : Nat) : (s.putG c t d x n).invs = s.invs := rfl
@[simp] theorem State.fills_putG (s : State) (c : CoreId) (t : Thr) (d : Reg) (x : Word) (n : Nat) : (s.putG c t d x n).fills = s.fills := rfl
@[simp] theorem State.rmapTap_putG (s : State) (c : CoreId) (t : Thr) (d : Reg) (x : Word) (n : Nat) : (s.putG c t d x n).rmapTap = s.rmapTap := rfl
@[simp] theorem State.streams_putG (s : State) (c : CoreId) (t : Thr) (d : Reg) (x : Word) (n : Nat) : (s.putG c t d x n).streams = s.streams := rfl
@[simp] theorem State.strHist_putG (s : State) (c : CoreId) (t : Thr) (d : Reg) (x : Word) (n : Nat) : (s.putG c t d x n).strHist = s.strHist := rfl
@[simp] theorem State.strSeq_putG (s : State) (c : CoreId) (t : Thr) (d : Reg) (x : Word) (n : Nat) : (s.putG c t d x n).strSeq = s.strSeq := rfl
@[simp] theorem State.elog_putG (s : State) (c : CoreId) (t : Thr) (d : Reg) (x : Word) (n : Nat) : (s.putG c t d x n).elog = s.elog := rfl
@[simp] theorem State.stgX_putG (s : State) (c : CoreId) (t : Thr) (d : Reg) (x : Word) (n : Nat) : (s.putG c t d x n).stgX = s.stgX := rfl
@[simp] theorem State.fabX_putG (s : State) (c : CoreId) (t : Thr) (d : Reg) (x : Word) (n : Nat) : (s.putG c t d x n).fabX = s.fabX := rfl
@[simp] theorem State.jobs_putG (s : State) (c : CoreId) (t : Thr) (d : Reg) (x : Word) (n : Nat) : (s.putG c t d x n).jobs = s.jobs := rfl
@[simp] theorem State.saved_putG (s : State) (c : CoreId) (t : Thr) (d : Reg) (x : Word) (n : Nat) : (s.putG c t d x n).saved = s.saved := rfl
@[simp] theorem State.ports_putG (s : State) (c : CoreId) (t : Thr) (d : Reg) (x : Word) (n : Nat) : (s.putG c t d x n).ports = s.ports := rfl
@[simp] theorem State.routes_putG (s : State) (c : CoreId) (t : Thr) (d : Reg) (x : Word) (n : Nat) : (s.putG c t d x n).routes = s.routes := rfl
@[simp] theorem State.ctxw_putG (s : State) (c : CoreId) (t : Thr) (d : Reg) (x : Word) (n : Nat) : (s.putG c t d x n).ctxw = s.ctxw := rfl
@[simp] theorem State.ctxs_putG (s : State) (c : CoreId) (t : Thr) (d : Reg) (x : Word) (n : Nat) : (s.putG c t d x n).ctxs = s.ctxs := rfl
@[simp] theorem State.reds_putG (s : State) (c : CoreId) (t : Thr) (d : Reg) (x : Word) (n : Nat) : (s.putG c t d x n).reds = s.reds := rfl
@[simp] theorem State.feeds_putG (s : State) (c : CoreId) (t : Thr) (d : Reg) (x : Word) (n : Nat) : (s.putG c t d x n).feeds = s.feeds := rfl
@[simp] theorem State.feedBuf_putG (s : State) (c : CoreId) (t : Thr) (d : Reg) (x : Word) (n : Nat) : (s.putG c t d x n).feedBuf = s.feedBuf := rfl
@[simp] theorem State.accFree_putG (s : State) (c : CoreId) (t : Thr) (d : Reg) (x : Word) (n : Nat) : (s.putG c t d x n).accFree = s.accFree := rfl
@[simp] theorem State.redQ_putG (s : State) (c : CoreId) (t : Thr) (d : Reg) (x : Word) (n : Nat) : (s.putG c t d x n).redQ = s.redQ := rfl
@[simp] theorem State.rings_putG (s : State) (c : CoreId) (t : Thr) (d : Reg) (x : Word) (n : Nat) : (s.putG c t d x n).rings = s.rings := rfl
@[simp] theorem State.reads_putG (s : State) (c : CoreId) (t : Thr) (d : Reg) (x : Word) (n : Nat) : (s.putG c t d x n).reads = s.reads := rfl
@[simp] theorem State.hostOut_putG (s : State) (c : CoreId) (t : Thr) (d : Reg) (x : Word) (n : Nat) : (s.putG c t d x n).hostOut = s.hostOut := rfl
@[simp] theorem State.hostLost_putG (s : State) (c : CoreId) (t : Thr) (d : Reg) (x : Word) (n : Nat) : (s.putG c t d x n).hostLost = s.hostLost := rfl
@[simp] theorem State.hostWait_putG (s : State) (c : CoreId) (t : Thr) (d : Reg) (x : Word) (n : Nat) : (s.putG c t d x n).hostWait = s.hostWait := rfl
@[simp] theorem State.latches_putG (s : State) (c : CoreId) (t : Thr) (d : Reg) (x : Word) (n : Nat) : (s.putG c t d x n).latches = s.latches := rfl
@[simp] theorem State.answers_putG (s : State) (c : CoreId) (t : Thr) (d : Reg) (x : Word) (n : Nat) : (s.putG c t d x n).answers = s.answers := rfl
@[simp] theorem State.rests_putG (s : State) (c : CoreId) (t : Thr) (d : Reg) (x : Word) (n : Nat) : (s.putG c t d x n).rests = s.rests := rfl
@[simp] theorem State.regions_putG (s : State) (c : CoreId) (t : Thr) (d : Reg) (x : Word) (n : Nat) : (s.putG c t d x n).regions = s.regions := rfl
@[simp] theorem State.lockE_putG (s : State) (c : CoreId) (t : Thr) (d : Reg) (x : Word) (n : Nat) : (s.putG c t d x n).lockE = s.lockE := rfl
@[simp] theorem State.slewE_putG (s : State) (c : CoreId) (t : Thr) (d : Reg) (x : Word) (n : Nat) : (s.putG c t d x n).slewE = s.slewE := rfl
@[simp] theorem State.masterTo_putG (s : State) (c : CoreId) (t : Thr) (d : Reg) (x : Word) (n : Nat) : (s.putG c t d x n).masterTo = s.masterTo := rfl
@[simp] theorem State.driftRev_putG (s : State) (c : CoreId) (t : Thr) (d : Reg) (x : Word) (n : Nat) : (s.putG c t d x n).driftRev = s.driftRev := rfl
@[simp] theorem State.fuses_putG (s : State) (c : CoreId) (t : Thr) (d : Reg) (x : Word) (n : Nat) : (s.putG c t d x n).fuses = s.fuses := rfl
@[simp] theorem State.hs_putG (s : State) (c : CoreId) (t : Thr) (d : Reg) (x : Word) (n : Nat) : (s.putG c t d x n).hs = s.hs := rfl
@[simp] theorem State.power_putG (s : State) (c : CoreId) (t : Thr) (d : Reg) (x : Word) (n : Nat) : (s.putG c t d x n).power = s.power := rfl
@[simp] theorem State.ibis_putG (s : State) (c : CoreId) (t : Thr) (d : Reg) (x : Word) (n : Nat) : (s.putG c t d x n).ibis = s.ibis := rfl
@[simp] theorem State.kpPrev_putG (s : State) (c : CoreId) (t : Thr) (d : Reg) (x : Word) (n : Nat) : (s.putG c t d x n).kpPrev = s.kpPrev := rfl
@[simp] theorem State.windowed_putG (s : State) (c : CoreId) (t : Thr) (d : Reg) (x : Word) (n : Nat) : (s.putG c t d x n).windowed = s.windowed := rfl
@[simp] theorem State.evs_putG (s : State) (c : CoreId) (t : Thr) (d : Reg) (x : Word) (n : Nat) : (s.putG c t d x n).evs = s.evs := rfl
@[simp] theorem State.free_putG (s : State) (c : CoreId) (t : Thr) (d : Reg) (x : Word) (n : Nat) : (s.putG c t d x n).free = s.free := rfl

@[simp] theorem State.pending_putV (s : State) (c : CoreId) (t : Thr) (d : Reg) (x : BitVec 512) (n : Nat) : (s.putV c t d x n).pending = s.pending := rfl
@[simp] theorem State.now_putV (s : State) (c : CoreId) (t : Thr) (d : Reg) (x : BitVec 512) (n : Nat) : (s.putV c t d x n).now = s.now := rfl
@[simp] theorem State.dev_putV (s : State) (c : CoreId) (t : Thr) (d : Reg) (x : BitVec 512) (n : Nat) : (s.putV c t d x n).dev = s.dev := rfl
@[simp] theorem State.net_putV (s : State) (c : CoreId) (t : Thr) (d : Reg) (x : BitVec 512) (n : Nat) : (s.putV c t d x n).net = s.net := rfl
@[simp] theorem State.mesh_putV (s : State) (c : CoreId) (t : Thr) (d : Reg) (x : BitVec 512) (n : Nat) : (s.putV c t d x n).mesh = s.mesh := rfl
@[simp] theorem State.dram_putV (s : State) (c : CoreId) (t : Thr) (d : Reg) (x : BitVec 512) (n : Nat) : (s.putV c t d x n).dram = s.dram := rfl
@[simp] theorem State.dramPsn_putV (s : State) (c : CoreId) (t : Thr) (d : Reg) (x : BitVec 512) (n : Nat) : (s.putV c t d x n).dramPsn = s.dramPsn := rfl
@[simp] theorem State.taps_putV (s : State) (c : CoreId) (t : Thr) (d : Reg) (x : BitVec 512) (n : Nat) : (s.putV c t d x n).taps = s.taps := rfl
@[simp] theorem State.lines_putV (s : State) (c : CoreId) (t : Thr) (d : Reg) (x : BitVec 512) (n : Nat) : (s.putV c t d x n).lines = s.lines := rfl
@[simp] theorem State.invs_putV (s : State) (c : CoreId) (t : Thr) (d : Reg) (x : BitVec 512) (n : Nat) : (s.putV c t d x n).invs = s.invs := rfl
@[simp] theorem State.fills_putV (s : State) (c : CoreId) (t : Thr) (d : Reg) (x : BitVec 512) (n : Nat) : (s.putV c t d x n).fills = s.fills := rfl
@[simp] theorem State.rmapTap_putV (s : State) (c : CoreId) (t : Thr) (d : Reg) (x : BitVec 512) (n : Nat) : (s.putV c t d x n).rmapTap = s.rmapTap := rfl
@[simp] theorem State.streams_putV (s : State) (c : CoreId) (t : Thr) (d : Reg) (x : BitVec 512) (n : Nat) : (s.putV c t d x n).streams = s.streams := rfl
@[simp] theorem State.strHist_putV (s : State) (c : CoreId) (t : Thr) (d : Reg) (x : BitVec 512) (n : Nat) : (s.putV c t d x n).strHist = s.strHist := rfl
@[simp] theorem State.strSeq_putV (s : State) (c : CoreId) (t : Thr) (d : Reg) (x : BitVec 512) (n : Nat) : (s.putV c t d x n).strSeq = s.strSeq := rfl
@[simp] theorem State.elog_putV (s : State) (c : CoreId) (t : Thr) (d : Reg) (x : BitVec 512) (n : Nat) : (s.putV c t d x n).elog = s.elog := rfl
@[simp] theorem State.stgX_putV (s : State) (c : CoreId) (t : Thr) (d : Reg) (x : BitVec 512) (n : Nat) : (s.putV c t d x n).stgX = s.stgX := rfl
@[simp] theorem State.fabX_putV (s : State) (c : CoreId) (t : Thr) (d : Reg) (x : BitVec 512) (n : Nat) : (s.putV c t d x n).fabX = s.fabX := rfl
@[simp] theorem State.jobs_putV (s : State) (c : CoreId) (t : Thr) (d : Reg) (x : BitVec 512) (n : Nat) : (s.putV c t d x n).jobs = s.jobs := rfl
@[simp] theorem State.saved_putV (s : State) (c : CoreId) (t : Thr) (d : Reg) (x : BitVec 512) (n : Nat) : (s.putV c t d x n).saved = s.saved := rfl
@[simp] theorem State.ports_putV (s : State) (c : CoreId) (t : Thr) (d : Reg) (x : BitVec 512) (n : Nat) : (s.putV c t d x n).ports = s.ports := rfl
@[simp] theorem State.routes_putV (s : State) (c : CoreId) (t : Thr) (d : Reg) (x : BitVec 512) (n : Nat) : (s.putV c t d x n).routes = s.routes := rfl
@[simp] theorem State.ctxw_putV (s : State) (c : CoreId) (t : Thr) (d : Reg) (x : BitVec 512) (n : Nat) : (s.putV c t d x n).ctxw = s.ctxw := rfl
@[simp] theorem State.ctxs_putV (s : State) (c : CoreId) (t : Thr) (d : Reg) (x : BitVec 512) (n : Nat) : (s.putV c t d x n).ctxs = s.ctxs := rfl
@[simp] theorem State.reds_putV (s : State) (c : CoreId) (t : Thr) (d : Reg) (x : BitVec 512) (n : Nat) : (s.putV c t d x n).reds = s.reds := rfl
@[simp] theorem State.feeds_putV (s : State) (c : CoreId) (t : Thr) (d : Reg) (x : BitVec 512) (n : Nat) : (s.putV c t d x n).feeds = s.feeds := rfl
@[simp] theorem State.feedBuf_putV (s : State) (c : CoreId) (t : Thr) (d : Reg) (x : BitVec 512) (n : Nat) : (s.putV c t d x n).feedBuf = s.feedBuf := rfl
@[simp] theorem State.accFree_putV (s : State) (c : CoreId) (t : Thr) (d : Reg) (x : BitVec 512) (n : Nat) : (s.putV c t d x n).accFree = s.accFree := rfl
@[simp] theorem State.redQ_putV (s : State) (c : CoreId) (t : Thr) (d : Reg) (x : BitVec 512) (n : Nat) : (s.putV c t d x n).redQ = s.redQ := rfl
@[simp] theorem State.rings_putV (s : State) (c : CoreId) (t : Thr) (d : Reg) (x : BitVec 512) (n : Nat) : (s.putV c t d x n).rings = s.rings := rfl
@[simp] theorem State.reads_putV (s : State) (c : CoreId) (t : Thr) (d : Reg) (x : BitVec 512) (n : Nat) : (s.putV c t d x n).reads = s.reads := rfl
@[simp] theorem State.hostOut_putV (s : State) (c : CoreId) (t : Thr) (d : Reg) (x : BitVec 512) (n : Nat) : (s.putV c t d x n).hostOut = s.hostOut := rfl
@[simp] theorem State.hostLost_putV (s : State) (c : CoreId) (t : Thr) (d : Reg) (x : BitVec 512) (n : Nat) : (s.putV c t d x n).hostLost = s.hostLost := rfl
@[simp] theorem State.hostWait_putV (s : State) (c : CoreId) (t : Thr) (d : Reg) (x : BitVec 512) (n : Nat) : (s.putV c t d x n).hostWait = s.hostWait := rfl
@[simp] theorem State.latches_putV (s : State) (c : CoreId) (t : Thr) (d : Reg) (x : BitVec 512) (n : Nat) : (s.putV c t d x n).latches = s.latches := rfl
@[simp] theorem State.answers_putV (s : State) (c : CoreId) (t : Thr) (d : Reg) (x : BitVec 512) (n : Nat) : (s.putV c t d x n).answers = s.answers := rfl
@[simp] theorem State.rests_putV (s : State) (c : CoreId) (t : Thr) (d : Reg) (x : BitVec 512) (n : Nat) : (s.putV c t d x n).rests = s.rests := rfl
@[simp] theorem State.regions_putV (s : State) (c : CoreId) (t : Thr) (d : Reg) (x : BitVec 512) (n : Nat) : (s.putV c t d x n).regions = s.regions := rfl
@[simp] theorem State.lockE_putV (s : State) (c : CoreId) (t : Thr) (d : Reg) (x : BitVec 512) (n : Nat) : (s.putV c t d x n).lockE = s.lockE := rfl
@[simp] theorem State.slewE_putV (s : State) (c : CoreId) (t : Thr) (d : Reg) (x : BitVec 512) (n : Nat) : (s.putV c t d x n).slewE = s.slewE := rfl
@[simp] theorem State.masterTo_putV (s : State) (c : CoreId) (t : Thr) (d : Reg) (x : BitVec 512) (n : Nat) : (s.putV c t d x n).masterTo = s.masterTo := rfl
@[simp] theorem State.driftRev_putV (s : State) (c : CoreId) (t : Thr) (d : Reg) (x : BitVec 512) (n : Nat) : (s.putV c t d x n).driftRev = s.driftRev := rfl
@[simp] theorem State.fuses_putV (s : State) (c : CoreId) (t : Thr) (d : Reg) (x : BitVec 512) (n : Nat) : (s.putV c t d x n).fuses = s.fuses := rfl
@[simp] theorem State.hs_putV (s : State) (c : CoreId) (t : Thr) (d : Reg) (x : BitVec 512) (n : Nat) : (s.putV c t d x n).hs = s.hs := rfl
@[simp] theorem State.power_putV (s : State) (c : CoreId) (t : Thr) (d : Reg) (x : BitVec 512) (n : Nat) : (s.putV c t d x n).power = s.power := rfl
@[simp] theorem State.ibis_putV (s : State) (c : CoreId) (t : Thr) (d : Reg) (x : BitVec 512) (n : Nat) : (s.putV c t d x n).ibis = s.ibis := rfl
@[simp] theorem State.kpPrev_putV (s : State) (c : CoreId) (t : Thr) (d : Reg) (x : BitVec 512) (n : Nat) : (s.putV c t d x n).kpPrev = s.kpPrev := rfl
@[simp] theorem State.windowed_putV (s : State) (c : CoreId) (t : Thr) (d : Reg) (x : BitVec 512) (n : Nat) : (s.putV c t d x n).windowed = s.windowed := rfl
@[simp] theorem State.evs_putV (s : State) (c : CoreId) (t : Thr) (d : Reg) (x : BitVec 512) (n : Nat) : (s.putV c t d x n).evs = s.evs := rfl
@[simp] theorem State.free_putV (s : State) (c : CoreId) (t : Thr) (d : Reg) (x : BitVec 512) (n : Nat) : (s.putV c t d x n).free = s.free := rfl

@[simp] theorem State.pending_trace (s : State) (c : CoreId) (kind : Nat) (t : Thr) (aux data : Nat) : (s.trace c kind t aux data).pending = s.pending := rfl
@[simp] theorem State.now_trace (s : State) (c : CoreId) (kind : Nat) (t : Thr) (aux data : Nat) : (s.trace c kind t aux data).now = s.now := rfl
@[simp] theorem State.dev_trace (s : State) (c : CoreId) (kind : Nat) (t : Thr) (aux data : Nat) : (s.trace c kind t aux data).dev = s.dev := rfl
@[simp] theorem State.net_trace (s : State) (c : CoreId) (kind : Nat) (t : Thr) (aux data : Nat) : (s.trace c kind t aux data).net = s.net := rfl
@[simp] theorem State.mesh_trace (s : State) (c : CoreId) (kind : Nat) (t : Thr) (aux data : Nat) : (s.trace c kind t aux data).mesh = s.mesh := rfl
@[simp] theorem State.dram_trace (s : State) (c : CoreId) (kind : Nat) (t : Thr) (aux data : Nat) : (s.trace c kind t aux data).dram = s.dram := rfl
@[simp] theorem State.dramPsn_trace (s : State) (c : CoreId) (kind : Nat) (t : Thr) (aux data : Nat) : (s.trace c kind t aux data).dramPsn = s.dramPsn := rfl
@[simp] theorem State.taps_trace (s : State) (c : CoreId) (kind : Nat) (t : Thr) (aux data : Nat) : (s.trace c kind t aux data).taps = s.taps := rfl
@[simp] theorem State.lines_trace (s : State) (c : CoreId) (kind : Nat) (t : Thr) (aux data : Nat) : (s.trace c kind t aux data).lines = s.lines := rfl
@[simp] theorem State.invs_trace (s : State) (c : CoreId) (kind : Nat) (t : Thr) (aux data : Nat) : (s.trace c kind t aux data).invs = s.invs := rfl
@[simp] theorem State.fills_trace (s : State) (c : CoreId) (kind : Nat) (t : Thr) (aux data : Nat) : (s.trace c kind t aux data).fills = s.fills := rfl
@[simp] theorem State.rmapTap_trace (s : State) (c : CoreId) (kind : Nat) (t : Thr) (aux data : Nat) : (s.trace c kind t aux data).rmapTap = s.rmapTap := rfl
@[simp] theorem State.streams_trace (s : State) (c : CoreId) (kind : Nat) (t : Thr) (aux data : Nat) : (s.trace c kind t aux data).streams = s.streams := rfl
@[simp] theorem State.strHist_trace (s : State) (c : CoreId) (kind : Nat) (t : Thr) (aux data : Nat) : (s.trace c kind t aux data).strHist = s.strHist := rfl
@[simp] theorem State.strSeq_trace (s : State) (c : CoreId) (kind : Nat) (t : Thr) (aux data : Nat) : (s.trace c kind t aux data).strSeq = s.strSeq := rfl
@[simp] theorem State.elog_trace (s : State) (c : CoreId) (kind : Nat) (t : Thr) (aux data : Nat) : (s.trace c kind t aux data).elog = s.elog := rfl
@[simp] theorem State.stgX_trace (s : State) (c : CoreId) (kind : Nat) (t : Thr) (aux data : Nat) : (s.trace c kind t aux data).stgX = s.stgX := rfl
@[simp] theorem State.fabX_trace (s : State) (c : CoreId) (kind : Nat) (t : Thr) (aux data : Nat) : (s.trace c kind t aux data).fabX = s.fabX := rfl
@[simp] theorem State.jobs_trace (s : State) (c : CoreId) (kind : Nat) (t : Thr) (aux data : Nat) : (s.trace c kind t aux data).jobs = s.jobs := rfl
@[simp] theorem State.saved_trace (s : State) (c : CoreId) (kind : Nat) (t : Thr) (aux data : Nat) : (s.trace c kind t aux data).saved = s.saved := rfl
@[simp] theorem State.ports_trace (s : State) (c : CoreId) (kind : Nat) (t : Thr) (aux data : Nat) : (s.trace c kind t aux data).ports = s.ports := rfl
@[simp] theorem State.routes_trace (s : State) (c : CoreId) (kind : Nat) (t : Thr) (aux data : Nat) : (s.trace c kind t aux data).routes = s.routes := rfl
@[simp] theorem State.ctxw_trace (s : State) (c : CoreId) (kind : Nat) (t : Thr) (aux data : Nat) : (s.trace c kind t aux data).ctxw = s.ctxw := rfl
@[simp] theorem State.ctxs_trace (s : State) (c : CoreId) (kind : Nat) (t : Thr) (aux data : Nat) : (s.trace c kind t aux data).ctxs = s.ctxs := rfl
@[simp] theorem State.reds_trace (s : State) (c : CoreId) (kind : Nat) (t : Thr) (aux data : Nat) : (s.trace c kind t aux data).reds = s.reds := rfl
@[simp] theorem State.feeds_trace (s : State) (c : CoreId) (kind : Nat) (t : Thr) (aux data : Nat) : (s.trace c kind t aux data).feeds = s.feeds := rfl
@[simp] theorem State.feedBuf_trace (s : State) (c : CoreId) (kind : Nat) (t : Thr) (aux data : Nat) : (s.trace c kind t aux data).feedBuf = s.feedBuf := rfl
@[simp] theorem State.accFree_trace (s : State) (c : CoreId) (kind : Nat) (t : Thr) (aux data : Nat) : (s.trace c kind t aux data).accFree = s.accFree := rfl
@[simp] theorem State.redQ_trace (s : State) (c : CoreId) (kind : Nat) (t : Thr) (aux data : Nat) : (s.trace c kind t aux data).redQ = s.redQ := rfl
@[simp] theorem State.rings_trace (s : State) (c : CoreId) (kind : Nat) (t : Thr) (aux data : Nat) : (s.trace c kind t aux data).rings = s.rings := rfl
@[simp] theorem State.reads_trace (s : State) (c : CoreId) (kind : Nat) (t : Thr) (aux data : Nat) : (s.trace c kind t aux data).reads = s.reads := rfl
@[simp] theorem State.hostOut_trace (s : State) (c : CoreId) (kind : Nat) (t : Thr) (aux data : Nat) : (s.trace c kind t aux data).hostOut = s.hostOut := rfl
@[simp] theorem State.hostLost_trace (s : State) (c : CoreId) (kind : Nat) (t : Thr) (aux data : Nat) : (s.trace c kind t aux data).hostLost = s.hostLost := rfl
@[simp] theorem State.hostWait_trace (s : State) (c : CoreId) (kind : Nat) (t : Thr) (aux data : Nat) : (s.trace c kind t aux data).hostWait = s.hostWait := rfl
@[simp] theorem State.latches_trace (s : State) (c : CoreId) (kind : Nat) (t : Thr) (aux data : Nat) : (s.trace c kind t aux data).latches = s.latches := rfl
@[simp] theorem State.answers_trace (s : State) (c : CoreId) (kind : Nat) (t : Thr) (aux data : Nat) : (s.trace c kind t aux data).answers = s.answers := rfl
@[simp] theorem State.rests_trace (s : State) (c : CoreId) (kind : Nat) (t : Thr) (aux data : Nat) : (s.trace c kind t aux data).rests = s.rests := rfl
@[simp] theorem State.regions_trace (s : State) (c : CoreId) (kind : Nat) (t : Thr) (aux data : Nat) : (s.trace c kind t aux data).regions = s.regions := rfl
@[simp] theorem State.lockE_trace (s : State) (c : CoreId) (kind : Nat) (t : Thr) (aux data : Nat) : (s.trace c kind t aux data).lockE = s.lockE := rfl
@[simp] theorem State.slewE_trace (s : State) (c : CoreId) (kind : Nat) (t : Thr) (aux data : Nat) : (s.trace c kind t aux data).slewE = s.slewE := rfl
@[simp] theorem State.masterTo_trace (s : State) (c : CoreId) (kind : Nat) (t : Thr) (aux data : Nat) : (s.trace c kind t aux data).masterTo = s.masterTo := rfl
@[simp] theorem State.driftRev_trace (s : State) (c : CoreId) (kind : Nat) (t : Thr) (aux data : Nat) : (s.trace c kind t aux data).driftRev = s.driftRev := rfl
@[simp] theorem State.fuses_trace (s : State) (c : CoreId) (kind : Nat) (t : Thr) (aux data : Nat) : (s.trace c kind t aux data).fuses = s.fuses := rfl
@[simp] theorem State.hs_trace (s : State) (c : CoreId) (kind : Nat) (t : Thr) (aux data : Nat) : (s.trace c kind t aux data).hs = s.hs := rfl
@[simp] theorem State.power_trace (s : State) (c : CoreId) (kind : Nat) (t : Thr) (aux data : Nat) : (s.trace c kind t aux data).power = s.power := rfl
@[simp] theorem State.ibis_trace (s : State) (c : CoreId) (kind : Nat) (t : Thr) (aux data : Nat) : (s.trace c kind t aux data).ibis = s.ibis := rfl
@[simp] theorem State.kpPrev_trace (s : State) (c : CoreId) (kind : Nat) (t : Thr) (aux data : Nat) : (s.trace c kind t aux data).kpPrev = s.kpPrev := rfl
@[simp] theorem State.windowed_trace (s : State) (c : CoreId) (kind : Nat) (t : Thr) (aux data : Nat) : (s.trace c kind t aux data).windowed = s.windowed := rfl
@[simp] theorem State.evs_trace (s : State) (c : CoreId) (kind : Nat) (t : Thr) (aux data : Nat) : (s.trace c kind t aux data).evs = s.evs := rfl
@[simp] theorem State.free_trace (s : State) (c : CoreId) (kind : Nat) (t : Thr) (aux data : Nat) : (s.trace c kind t aux data).free = s.free := rfl

@[simp] theorem State.pending_issued (s : State) (c : CoreId) (t : Thr) (pc : BitVec 15) (tile : Bool) : (s.issued c t pc tile).pending = s.pending := rfl
@[simp] theorem State.now_issued (s : State) (c : CoreId) (t : Thr) (pc : BitVec 15) (tile : Bool) : (s.issued c t pc tile).now = s.now := rfl
@[simp] theorem State.dev_issued (s : State) (c : CoreId) (t : Thr) (pc : BitVec 15) (tile : Bool) : (s.issued c t pc tile).dev = s.dev := rfl
@[simp] theorem State.net_issued (s : State) (c : CoreId) (t : Thr) (pc : BitVec 15) (tile : Bool) : (s.issued c t pc tile).net = s.net := rfl
@[simp] theorem State.mesh_issued (s : State) (c : CoreId) (t : Thr) (pc : BitVec 15) (tile : Bool) : (s.issued c t pc tile).mesh = s.mesh := rfl
@[simp] theorem State.dram_issued (s : State) (c : CoreId) (t : Thr) (pc : BitVec 15) (tile : Bool) : (s.issued c t pc tile).dram = s.dram := rfl
@[simp] theorem State.dramPsn_issued (s : State) (c : CoreId) (t : Thr) (pc : BitVec 15) (tile : Bool) : (s.issued c t pc tile).dramPsn = s.dramPsn := rfl
@[simp] theorem State.taps_issued (s : State) (c : CoreId) (t : Thr) (pc : BitVec 15) (tile : Bool) : (s.issued c t pc tile).taps = s.taps := rfl
@[simp] theorem State.lines_issued (s : State) (c : CoreId) (t : Thr) (pc : BitVec 15) (tile : Bool) : (s.issued c t pc tile).lines = s.lines := rfl
@[simp] theorem State.invs_issued (s : State) (c : CoreId) (t : Thr) (pc : BitVec 15) (tile : Bool) : (s.issued c t pc tile).invs = s.invs := rfl
@[simp] theorem State.fills_issued (s : State) (c : CoreId) (t : Thr) (pc : BitVec 15) (tile : Bool) : (s.issued c t pc tile).fills = s.fills := rfl
@[simp] theorem State.rmapTap_issued (s : State) (c : CoreId) (t : Thr) (pc : BitVec 15) (tile : Bool) : (s.issued c t pc tile).rmapTap = s.rmapTap := rfl
@[simp] theorem State.streams_issued (s : State) (c : CoreId) (t : Thr) (pc : BitVec 15) (tile : Bool) : (s.issued c t pc tile).streams = s.streams := rfl
@[simp] theorem State.strHist_issued (s : State) (c : CoreId) (t : Thr) (pc : BitVec 15) (tile : Bool) : (s.issued c t pc tile).strHist = s.strHist := rfl
@[simp] theorem State.strSeq_issued (s : State) (c : CoreId) (t : Thr) (pc : BitVec 15) (tile : Bool) : (s.issued c t pc tile).strSeq = s.strSeq := rfl
@[simp] theorem State.elog_issued (s : State) (c : CoreId) (t : Thr) (pc : BitVec 15) (tile : Bool) : (s.issued c t pc tile).elog = s.elog := rfl
@[simp] theorem State.stgX_issued (s : State) (c : CoreId) (t : Thr) (pc : BitVec 15) (tile : Bool) : (s.issued c t pc tile).stgX = s.stgX := rfl
@[simp] theorem State.fabX_issued (s : State) (c : CoreId) (t : Thr) (pc : BitVec 15) (tile : Bool) : (s.issued c t pc tile).fabX = s.fabX := rfl
@[simp] theorem State.jobs_issued (s : State) (c : CoreId) (t : Thr) (pc : BitVec 15) (tile : Bool) : (s.issued c t pc tile).jobs = s.jobs := rfl
@[simp] theorem State.saved_issued (s : State) (c : CoreId) (t : Thr) (pc : BitVec 15) (tile : Bool) : (s.issued c t pc tile).saved = s.saved := rfl
@[simp] theorem State.ports_issued (s : State) (c : CoreId) (t : Thr) (pc : BitVec 15) (tile : Bool) : (s.issued c t pc tile).ports = s.ports := rfl
@[simp] theorem State.routes_issued (s : State) (c : CoreId) (t : Thr) (pc : BitVec 15) (tile : Bool) : (s.issued c t pc tile).routes = s.routes := rfl
@[simp] theorem State.ctxw_issued (s : State) (c : CoreId) (t : Thr) (pc : BitVec 15) (tile : Bool) : (s.issued c t pc tile).ctxw = s.ctxw := rfl
@[simp] theorem State.ctxs_issued (s : State) (c : CoreId) (t : Thr) (pc : BitVec 15) (tile : Bool) : (s.issued c t pc tile).ctxs = s.ctxs := rfl
@[simp] theorem State.reds_issued (s : State) (c : CoreId) (t : Thr) (pc : BitVec 15) (tile : Bool) : (s.issued c t pc tile).reds = s.reds := rfl
@[simp] theorem State.feeds_issued (s : State) (c : CoreId) (t : Thr) (pc : BitVec 15) (tile : Bool) : (s.issued c t pc tile).feeds = s.feeds := rfl
@[simp] theorem State.feedBuf_issued (s : State) (c : CoreId) (t : Thr) (pc : BitVec 15) (tile : Bool) : (s.issued c t pc tile).feedBuf = s.feedBuf := rfl
@[simp] theorem State.accFree_issued (s : State) (c : CoreId) (t : Thr) (pc : BitVec 15) (tile : Bool) : (s.issued c t pc tile).accFree = s.accFree := rfl
@[simp] theorem State.redQ_issued (s : State) (c : CoreId) (t : Thr) (pc : BitVec 15) (tile : Bool) : (s.issued c t pc tile).redQ = s.redQ := rfl
@[simp] theorem State.rings_issued (s : State) (c : CoreId) (t : Thr) (pc : BitVec 15) (tile : Bool) : (s.issued c t pc tile).rings = s.rings := rfl
@[simp] theorem State.reads_issued (s : State) (c : CoreId) (t : Thr) (pc : BitVec 15) (tile : Bool) : (s.issued c t pc tile).reads = s.reads := rfl
@[simp] theorem State.hostOut_issued (s : State) (c : CoreId) (t : Thr) (pc : BitVec 15) (tile : Bool) : (s.issued c t pc tile).hostOut = s.hostOut := rfl
@[simp] theorem State.hostLost_issued (s : State) (c : CoreId) (t : Thr) (pc : BitVec 15) (tile : Bool) : (s.issued c t pc tile).hostLost = s.hostLost := rfl
@[simp] theorem State.hostWait_issued (s : State) (c : CoreId) (t : Thr) (pc : BitVec 15) (tile : Bool) : (s.issued c t pc tile).hostWait = s.hostWait := rfl
@[simp] theorem State.latches_issued (s : State) (c : CoreId) (t : Thr) (pc : BitVec 15) (tile : Bool) : (s.issued c t pc tile).latches = s.latches := rfl
@[simp] theorem State.answers_issued (s : State) (c : CoreId) (t : Thr) (pc : BitVec 15) (tile : Bool) : (s.issued c t pc tile).answers = s.answers := rfl
@[simp] theorem State.rests_issued (s : State) (c : CoreId) (t : Thr) (pc : BitVec 15) (tile : Bool) : (s.issued c t pc tile).rests = s.rests := rfl
@[simp] theorem State.regions_issued (s : State) (c : CoreId) (t : Thr) (pc : BitVec 15) (tile : Bool) : (s.issued c t pc tile).regions = s.regions := rfl
@[simp] theorem State.lockE_issued (s : State) (c : CoreId) (t : Thr) (pc : BitVec 15) (tile : Bool) : (s.issued c t pc tile).lockE = s.lockE := rfl
@[simp] theorem State.slewE_issued (s : State) (c : CoreId) (t : Thr) (pc : BitVec 15) (tile : Bool) : (s.issued c t pc tile).slewE = s.slewE := rfl
@[simp] theorem State.masterTo_issued (s : State) (c : CoreId) (t : Thr) (pc : BitVec 15) (tile : Bool) : (s.issued c t pc tile).masterTo = s.masterTo := rfl
@[simp] theorem State.driftRev_issued (s : State) (c : CoreId) (t : Thr) (pc : BitVec 15) (tile : Bool) : (s.issued c t pc tile).driftRev = s.driftRev := rfl
@[simp] theorem State.fuses_issued (s : State) (c : CoreId) (t : Thr) (pc : BitVec 15) (tile : Bool) : (s.issued c t pc tile).fuses = s.fuses := rfl
@[simp] theorem State.hs_issued (s : State) (c : CoreId) (t : Thr) (pc : BitVec 15) (tile : Bool) : (s.issued c t pc tile).hs = s.hs := rfl
@[simp] theorem State.power_issued (s : State) (c : CoreId) (t : Thr) (pc : BitVec 15) (tile : Bool) : (s.issued c t pc tile).power = s.power := rfl
@[simp] theorem State.ibis_issued (s : State) (c : CoreId) (t : Thr) (pc : BitVec 15) (tile : Bool) : (s.issued c t pc tile).ibis = s.ibis := rfl
@[simp] theorem State.kpPrev_issued (s : State) (c : CoreId) (t : Thr) (pc : BitVec 15) (tile : Bool) : (s.issued c t pc tile).kpPrev = s.kpPrev := rfl
@[simp] theorem State.windowed_issued (s : State) (c : CoreId) (t : Thr) (pc : BitVec 15) (tile : Bool) : (s.issued c t pc tile).windowed = s.windowed := rfl
@[simp] theorem State.evs_issued (s : State) (c : CoreId) (t : Thr) (pc : BitVec 15) (tile : Bool) : (s.issued c t pc tile).evs = s.evs := rfl
@[simp] theorem State.free_issued (s : State) (c : CoreId) (t : Thr) (pc : BitVec 15) (tile : Bool) : (s.issued c t pc tile).free = s.free := rfl

@[simp] theorem State.pending_onJob (s : State) (j : JobId) (f : Job → Job) : (s.onJob j f).pending = s.pending := rfl
@[simp] theorem State.now_onJob (s : State) (j : JobId) (f : Job → Job) : (s.onJob j f).now = s.now := rfl
@[simp] theorem State.dev_onJob (s : State) (j : JobId) (f : Job → Job) : (s.onJob j f).dev = s.dev := rfl
@[simp] theorem State.cores_onJob (s : State) (j : JobId) (f : Job → Job) : (s.onJob j f).cores = s.cores := rfl
@[simp] theorem State.net_onJob (s : State) (j : JobId) (f : Job → Job) : (s.onJob j f).net = s.net := rfl
@[simp] theorem State.mesh_onJob (s : State) (j : JobId) (f : Job → Job) : (s.onJob j f).mesh = s.mesh := rfl
@[simp] theorem State.dram_onJob (s : State) (j : JobId) (f : Job → Job) : (s.onJob j f).dram = s.dram := rfl
@[simp] theorem State.dramPsn_onJob (s : State) (j : JobId) (f : Job → Job) : (s.onJob j f).dramPsn = s.dramPsn := rfl
@[simp] theorem State.taps_onJob (s : State) (j : JobId) (f : Job → Job) : (s.onJob j f).taps = s.taps := rfl
@[simp] theorem State.lines_onJob (s : State) (j : JobId) (f : Job → Job) : (s.onJob j f).lines = s.lines := rfl
@[simp] theorem State.invs_onJob (s : State) (j : JobId) (f : Job → Job) : (s.onJob j f).invs = s.invs := rfl
@[simp] theorem State.fills_onJob (s : State) (j : JobId) (f : Job → Job) : (s.onJob j f).fills = s.fills := rfl
@[simp] theorem State.rmapTap_onJob (s : State) (j : JobId) (f : Job → Job) : (s.onJob j f).rmapTap = s.rmapTap := rfl
@[simp] theorem State.streams_onJob (s : State) (j : JobId) (f : Job → Job) : (s.onJob j f).streams = s.streams := rfl
@[simp] theorem State.strHist_onJob (s : State) (j : JobId) (f : Job → Job) : (s.onJob j f).strHist = s.strHist := rfl
@[simp] theorem State.strSeq_onJob (s : State) (j : JobId) (f : Job → Job) : (s.onJob j f).strSeq = s.strSeq := rfl
@[simp] theorem State.elog_onJob (s : State) (j : JobId) (f : Job → Job) : (s.onJob j f).elog = s.elog := rfl
@[simp] theorem State.stgX_onJob (s : State) (j : JobId) (f : Job → Job) : (s.onJob j f).stgX = s.stgX := rfl
@[simp] theorem State.fabX_onJob (s : State) (j : JobId) (f : Job → Job) : (s.onJob j f).fabX = s.fabX := rfl
@[simp] theorem State.saved_onJob (s : State) (j : JobId) (f : Job → Job) : (s.onJob j f).saved = s.saved := rfl
@[simp] theorem State.ports_onJob (s : State) (j : JobId) (f : Job → Job) : (s.onJob j f).ports = s.ports := rfl
@[simp] theorem State.routes_onJob (s : State) (j : JobId) (f : Job → Job) : (s.onJob j f).routes = s.routes := rfl
@[simp] theorem State.ctxw_onJob (s : State) (j : JobId) (f : Job → Job) : (s.onJob j f).ctxw = s.ctxw := rfl
@[simp] theorem State.ctxs_onJob (s : State) (j : JobId) (f : Job → Job) : (s.onJob j f).ctxs = s.ctxs := rfl
@[simp] theorem State.reds_onJob (s : State) (j : JobId) (f : Job → Job) : (s.onJob j f).reds = s.reds := rfl
@[simp] theorem State.feeds_onJob (s : State) (j : JobId) (f : Job → Job) : (s.onJob j f).feeds = s.feeds := rfl
@[simp] theorem State.feedBuf_onJob (s : State) (j : JobId) (f : Job → Job) : (s.onJob j f).feedBuf = s.feedBuf := rfl
@[simp] theorem State.accFree_onJob (s : State) (j : JobId) (f : Job → Job) : (s.onJob j f).accFree = s.accFree := rfl
@[simp] theorem State.redQ_onJob (s : State) (j : JobId) (f : Job → Job) : (s.onJob j f).redQ = s.redQ := rfl
@[simp] theorem State.rings_onJob (s : State) (j : JobId) (f : Job → Job) : (s.onJob j f).rings = s.rings := rfl
@[simp] theorem State.reads_onJob (s : State) (j : JobId) (f : Job → Job) : (s.onJob j f).reads = s.reads := rfl
@[simp] theorem State.hostOut_onJob (s : State) (j : JobId) (f : Job → Job) : (s.onJob j f).hostOut = s.hostOut := rfl
@[simp] theorem State.hostLost_onJob (s : State) (j : JobId) (f : Job → Job) : (s.onJob j f).hostLost = s.hostLost := rfl
@[simp] theorem State.hostWait_onJob (s : State) (j : JobId) (f : Job → Job) : (s.onJob j f).hostWait = s.hostWait := rfl
@[simp] theorem State.latches_onJob (s : State) (j : JobId) (f : Job → Job) : (s.onJob j f).latches = s.latches := rfl
@[simp] theorem State.answers_onJob (s : State) (j : JobId) (f : Job → Job) : (s.onJob j f).answers = s.answers := rfl
@[simp] theorem State.rests_onJob (s : State) (j : JobId) (f : Job → Job) : (s.onJob j f).rests = s.rests := rfl
@[simp] theorem State.regions_onJob (s : State) (j : JobId) (f : Job → Job) : (s.onJob j f).regions = s.regions := rfl
@[simp] theorem State.lockE_onJob (s : State) (j : JobId) (f : Job → Job) : (s.onJob j f).lockE = s.lockE := rfl
@[simp] theorem State.slewE_onJob (s : State) (j : JobId) (f : Job → Job) : (s.onJob j f).slewE = s.slewE := rfl
@[simp] theorem State.masterTo_onJob (s : State) (j : JobId) (f : Job → Job) : (s.onJob j f).masterTo = s.masterTo := rfl
@[simp] theorem State.driftRev_onJob (s : State) (j : JobId) (f : Job → Job) : (s.onJob j f).driftRev = s.driftRev := rfl
@[simp] theorem State.fuses_onJob (s : State) (j : JobId) (f : Job → Job) : (s.onJob j f).fuses = s.fuses := rfl
@[simp] theorem State.hs_onJob (s : State) (j : JobId) (f : Job → Job) : (s.onJob j f).hs = s.hs := rfl
@[simp] theorem State.power_onJob (s : State) (j : JobId) (f : Job → Job) : (s.onJob j f).power = s.power := rfl
@[simp] theorem State.ibis_onJob (s : State) (j : JobId) (f : Job → Job) : (s.onJob j f).ibis = s.ibis := rfl
@[simp] theorem State.kpPrev_onJob (s : State) (j : JobId) (f : Job → Job) : (s.onJob j f).kpPrev = s.kpPrev := rfl
@[simp] theorem State.windowed_onJob (s : State) (j : JobId) (f : Job → Job) : (s.onJob j f).windowed = s.windowed := rfl
@[simp] theorem State.evs_onJob (s : State) (j : JobId) (f : Job → Job) : (s.onJob j f).evs = s.evs := rfl
@[simp] theorem State.free_onJob (s : State) (j : JobId) (f : Job → Job) : (s.onJob j f).free = s.free := rfl

@[simp] theorem State.pending_send (s : State) (a b : CoreId) (m : NetBody) : (s.send a b m).pending = s.pending := rfl
@[simp] theorem State.now_send (s : State) (a b : CoreId) (m : NetBody) : (s.send a b m).now = s.now := rfl
@[simp] theorem State.dev_send (s : State) (a b : CoreId) (m : NetBody) : (s.send a b m).dev = s.dev := rfl
@[simp] theorem State.cores_send (s : State) (a b : CoreId) (m : NetBody) : (s.send a b m).cores = s.cores := rfl
@[simp] theorem State.mesh_send (s : State) (a b : CoreId) (m : NetBody) : (s.send a b m).mesh = s.mesh := rfl
@[simp] theorem State.dram_send (s : State) (a b : CoreId) (m : NetBody) : (s.send a b m).dram = s.dram := rfl
@[simp] theorem State.dramPsn_send (s : State) (a b : CoreId) (m : NetBody) : (s.send a b m).dramPsn = s.dramPsn := rfl
@[simp] theorem State.taps_send (s : State) (a b : CoreId) (m : NetBody) : (s.send a b m).taps = s.taps := rfl
@[simp] theorem State.lines_send (s : State) (a b : CoreId) (m : NetBody) : (s.send a b m).lines = s.lines := rfl
@[simp] theorem State.invs_send (s : State) (a b : CoreId) (m : NetBody) : (s.send a b m).invs = s.invs := rfl
@[simp] theorem State.fills_send (s : State) (a b : CoreId) (m : NetBody) : (s.send a b m).fills = s.fills := rfl
@[simp] theorem State.rmapTap_send (s : State) (a b : CoreId) (m : NetBody) : (s.send a b m).rmapTap = s.rmapTap := rfl
@[simp] theorem State.streams_send (s : State) (a b : CoreId) (m : NetBody) : (s.send a b m).streams = s.streams := rfl
@[simp] theorem State.strHist_send (s : State) (a b : CoreId) (m : NetBody) : (s.send a b m).strHist = s.strHist := rfl
@[simp] theorem State.strSeq_send (s : State) (a b : CoreId) (m : NetBody) : (s.send a b m).strSeq = s.strSeq := rfl
@[simp] theorem State.elog_send (s : State) (a b : CoreId) (m : NetBody) : (s.send a b m).elog = s.elog := rfl
@[simp] theorem State.stgX_send (s : State) (a b : CoreId) (m : NetBody) : (s.send a b m).stgX = s.stgX := rfl
@[simp] theorem State.fabX_send (s : State) (a b : CoreId) (m : NetBody) : (s.send a b m).fabX = s.fabX := rfl
@[simp] theorem State.jobs_send (s : State) (a b : CoreId) (m : NetBody) : (s.send a b m).jobs = s.jobs := rfl
@[simp] theorem State.saved_send (s : State) (a b : CoreId) (m : NetBody) : (s.send a b m).saved = s.saved := rfl
@[simp] theorem State.ports_send (s : State) (a b : CoreId) (m : NetBody) : (s.send a b m).ports = s.ports := rfl
@[simp] theorem State.routes_send (s : State) (a b : CoreId) (m : NetBody) : (s.send a b m).routes = s.routes := rfl
@[simp] theorem State.ctxw_send (s : State) (a b : CoreId) (m : NetBody) : (s.send a b m).ctxw = s.ctxw := rfl
@[simp] theorem State.ctxs_send (s : State) (a b : CoreId) (m : NetBody) : (s.send a b m).ctxs = s.ctxs := rfl
@[simp] theorem State.reds_send (s : State) (a b : CoreId) (m : NetBody) : (s.send a b m).reds = s.reds := rfl
@[simp] theorem State.feeds_send (s : State) (a b : CoreId) (m : NetBody) : (s.send a b m).feeds = s.feeds := rfl
@[simp] theorem State.feedBuf_send (s : State) (a b : CoreId) (m : NetBody) : (s.send a b m).feedBuf = s.feedBuf := rfl
@[simp] theorem State.accFree_send (s : State) (a b : CoreId) (m : NetBody) : (s.send a b m).accFree = s.accFree := rfl
@[simp] theorem State.redQ_send (s : State) (a b : CoreId) (m : NetBody) : (s.send a b m).redQ = s.redQ := rfl
@[simp] theorem State.rings_send (s : State) (a b : CoreId) (m : NetBody) : (s.send a b m).rings = s.rings := rfl
@[simp] theorem State.reads_send (s : State) (a b : CoreId) (m : NetBody) : (s.send a b m).reads = s.reads := rfl
@[simp] theorem State.hostOut_send (s : State) (a b : CoreId) (m : NetBody) : (s.send a b m).hostOut = s.hostOut := rfl
@[simp] theorem State.hostLost_send (s : State) (a b : CoreId) (m : NetBody) : (s.send a b m).hostLost = s.hostLost := rfl
@[simp] theorem State.hostWait_send (s : State) (a b : CoreId) (m : NetBody) : (s.send a b m).hostWait = s.hostWait := rfl
@[simp] theorem State.latches_send (s : State) (a b : CoreId) (m : NetBody) : (s.send a b m).latches = s.latches := rfl
@[simp] theorem State.answers_send (s : State) (a b : CoreId) (m : NetBody) : (s.send a b m).answers = s.answers := rfl
@[simp] theorem State.rests_send (s : State) (a b : CoreId) (m : NetBody) : (s.send a b m).rests = s.rests := rfl
@[simp] theorem State.regions_send (s : State) (a b : CoreId) (m : NetBody) : (s.send a b m).regions = s.regions := rfl
@[simp] theorem State.lockE_send (s : State) (a b : CoreId) (m : NetBody) : (s.send a b m).lockE = s.lockE := rfl
@[simp] theorem State.slewE_send (s : State) (a b : CoreId) (m : NetBody) : (s.send a b m).slewE = s.slewE := rfl
@[simp] theorem State.masterTo_send (s : State) (a b : CoreId) (m : NetBody) : (s.send a b m).masterTo = s.masterTo := rfl
@[simp] theorem State.driftRev_send (s : State) (a b : CoreId) (m : NetBody) : (s.send a b m).driftRev = s.driftRev := rfl
@[simp] theorem State.fuses_send (s : State) (a b : CoreId) (m : NetBody) : (s.send a b m).fuses = s.fuses := rfl
@[simp] theorem State.hs_send (s : State) (a b : CoreId) (m : NetBody) : (s.send a b m).hs = s.hs := rfl
@[simp] theorem State.power_send (s : State) (a b : CoreId) (m : NetBody) : (s.send a b m).power = s.power := rfl
@[simp] theorem State.ibis_send (s : State) (a b : CoreId) (m : NetBody) : (s.send a b m).ibis = s.ibis := rfl
@[simp] theorem State.kpPrev_send (s : State) (a b : CoreId) (m : NetBody) : (s.send a b m).kpPrev = s.kpPrev := rfl
@[simp] theorem State.windowed_send (s : State) (a b : CoreId) (m : NetBody) : (s.send a b m).windowed = s.windowed := rfl
@[simp] theorem State.evs_send (s : State) (a b : CoreId) (m : NetBody) : (s.send a b m).evs = s.evs := rfl
@[simp] theorem State.free_send (s : State) (a b : CoreId) (m : NetBody) : (s.send a b m).free = s.free := rfl

@[simp] theorem State.pending_dropMsg (s : State) (m : NetMsg) : (s.dropMsg m).pending = s.pending := rfl
@[simp] theorem State.now_dropMsg (s : State) (m : NetMsg) : (s.dropMsg m).now = s.now := rfl
@[simp] theorem State.dev_dropMsg (s : State) (m : NetMsg) : (s.dropMsg m).dev = s.dev := rfl
@[simp] theorem State.cores_dropMsg (s : State) (m : NetMsg) : (s.dropMsg m).cores = s.cores := rfl
@[simp] theorem State.mesh_dropMsg (s : State) (m : NetMsg) : (s.dropMsg m).mesh = s.mesh := rfl
@[simp] theorem State.dram_dropMsg (s : State) (m : NetMsg) : (s.dropMsg m).dram = s.dram := rfl
@[simp] theorem State.dramPsn_dropMsg (s : State) (m : NetMsg) : (s.dropMsg m).dramPsn = s.dramPsn := rfl
@[simp] theorem State.taps_dropMsg (s : State) (m : NetMsg) : (s.dropMsg m).taps = s.taps := rfl
@[simp] theorem State.lines_dropMsg (s : State) (m : NetMsg) : (s.dropMsg m).lines = s.lines := rfl
@[simp] theorem State.invs_dropMsg (s : State) (m : NetMsg) : (s.dropMsg m).invs = s.invs := rfl
@[simp] theorem State.fills_dropMsg (s : State) (m : NetMsg) : (s.dropMsg m).fills = s.fills := rfl
@[simp] theorem State.rmapTap_dropMsg (s : State) (m : NetMsg) : (s.dropMsg m).rmapTap = s.rmapTap := rfl
@[simp] theorem State.streams_dropMsg (s : State) (m : NetMsg) : (s.dropMsg m).streams = s.streams := rfl
@[simp] theorem State.strHist_dropMsg (s : State) (m : NetMsg) : (s.dropMsg m).strHist = s.strHist := rfl
@[simp] theorem State.strSeq_dropMsg (s : State) (m : NetMsg) : (s.dropMsg m).strSeq = s.strSeq := rfl
@[simp] theorem State.elog_dropMsg (s : State) (m : NetMsg) : (s.dropMsg m).elog = s.elog := rfl
@[simp] theorem State.stgX_dropMsg (s : State) (m : NetMsg) : (s.dropMsg m).stgX = s.stgX := rfl
@[simp] theorem State.fabX_dropMsg (s : State) (m : NetMsg) : (s.dropMsg m).fabX = s.fabX := rfl
@[simp] theorem State.jobs_dropMsg (s : State) (m : NetMsg) : (s.dropMsg m).jobs = s.jobs := rfl
@[simp] theorem State.saved_dropMsg (s : State) (m : NetMsg) : (s.dropMsg m).saved = s.saved := rfl
@[simp] theorem State.ports_dropMsg (s : State) (m : NetMsg) : (s.dropMsg m).ports = s.ports := rfl
@[simp] theorem State.routes_dropMsg (s : State) (m : NetMsg) : (s.dropMsg m).routes = s.routes := rfl
@[simp] theorem State.ctxw_dropMsg (s : State) (m : NetMsg) : (s.dropMsg m).ctxw = s.ctxw := rfl
@[simp] theorem State.ctxs_dropMsg (s : State) (m : NetMsg) : (s.dropMsg m).ctxs = s.ctxs := rfl
@[simp] theorem State.reds_dropMsg (s : State) (m : NetMsg) : (s.dropMsg m).reds = s.reds := rfl
@[simp] theorem State.feeds_dropMsg (s : State) (m : NetMsg) : (s.dropMsg m).feeds = s.feeds := rfl
@[simp] theorem State.feedBuf_dropMsg (s : State) (m : NetMsg) : (s.dropMsg m).feedBuf = s.feedBuf := rfl
@[simp] theorem State.accFree_dropMsg (s : State) (m : NetMsg) : (s.dropMsg m).accFree = s.accFree := rfl
@[simp] theorem State.redQ_dropMsg (s : State) (m : NetMsg) : (s.dropMsg m).redQ = s.redQ := rfl
@[simp] theorem State.rings_dropMsg (s : State) (m : NetMsg) : (s.dropMsg m).rings = s.rings := rfl
@[simp] theorem State.reads_dropMsg (s : State) (m : NetMsg) : (s.dropMsg m).reads = s.reads := rfl
@[simp] theorem State.hostOut_dropMsg (s : State) (m : NetMsg) : (s.dropMsg m).hostOut = s.hostOut := rfl
@[simp] theorem State.hostLost_dropMsg (s : State) (m : NetMsg) : (s.dropMsg m).hostLost = s.hostLost := rfl
@[simp] theorem State.hostWait_dropMsg (s : State) (m : NetMsg) : (s.dropMsg m).hostWait = s.hostWait := rfl
@[simp] theorem State.latches_dropMsg (s : State) (m : NetMsg) : (s.dropMsg m).latches = s.latches := rfl
@[simp] theorem State.answers_dropMsg (s : State) (m : NetMsg) : (s.dropMsg m).answers = s.answers := rfl
@[simp] theorem State.rests_dropMsg (s : State) (m : NetMsg) : (s.dropMsg m).rests = s.rests := rfl
@[simp] theorem State.regions_dropMsg (s : State) (m : NetMsg) : (s.dropMsg m).regions = s.regions := rfl
@[simp] theorem State.lockE_dropMsg (s : State) (m : NetMsg) : (s.dropMsg m).lockE = s.lockE := rfl
@[simp] theorem State.slewE_dropMsg (s : State) (m : NetMsg) : (s.dropMsg m).slewE = s.slewE := rfl
@[simp] theorem State.masterTo_dropMsg (s : State) (m : NetMsg) : (s.dropMsg m).masterTo = s.masterTo := rfl
@[simp] theorem State.driftRev_dropMsg (s : State) (m : NetMsg) : (s.dropMsg m).driftRev = s.driftRev := rfl
@[simp] theorem State.fuses_dropMsg (s : State) (m : NetMsg) : (s.dropMsg m).fuses = s.fuses := rfl
@[simp] theorem State.hs_dropMsg (s : State) (m : NetMsg) : (s.dropMsg m).hs = s.hs := rfl
@[simp] theorem State.power_dropMsg (s : State) (m : NetMsg) : (s.dropMsg m).power = s.power := rfl
@[simp] theorem State.ibis_dropMsg (s : State) (m : NetMsg) : (s.dropMsg m).ibis = s.ibis := rfl
@[simp] theorem State.kpPrev_dropMsg (s : State) (m : NetMsg) : (s.dropMsg m).kpPrev = s.kpPrev := rfl
@[simp] theorem State.windowed_dropMsg (s : State) (m : NetMsg) : (s.dropMsg m).windowed = s.windowed := rfl
@[simp] theorem State.evs_dropMsg (s : State) (m : NetMsg) : (s.dropMsg m).evs = s.evs := rfl
@[simp] theorem State.free_dropMsg (s : State) (m : NetMsg) : (s.dropMsg m).free = s.free := rfl

@[simp] theorem State.pending_answer (s : State) (p : Path) (a : Bool) (d : Word) : (s.answer p a d).pending = s.pending := rfl
@[simp] theorem State.now_answer (s : State) (p : Path) (a : Bool) (d : Word) : (s.answer p a d).now = s.now := rfl
@[simp] theorem State.dev_answer (s : State) (p : Path) (a : Bool) (d : Word) : (s.answer p a d).dev = s.dev := rfl
@[simp] theorem State.cores_answer (s : State) (p : Path) (a : Bool) (d : Word) : (s.answer p a d).cores = s.cores := rfl
@[simp] theorem State.net_answer (s : State) (p : Path) (a : Bool) (d : Word) : (s.answer p a d).net = s.net := rfl
@[simp] theorem State.mesh_answer (s : State) (p : Path) (a : Bool) (d : Word) : (s.answer p a d).mesh = s.mesh := rfl
@[simp] theorem State.dram_answer (s : State) (p : Path) (a : Bool) (d : Word) : (s.answer p a d).dram = s.dram := rfl
@[simp] theorem State.dramPsn_answer (s : State) (p : Path) (a : Bool) (d : Word) : (s.answer p a d).dramPsn = s.dramPsn := rfl
@[simp] theorem State.taps_answer (s : State) (p : Path) (a : Bool) (d : Word) : (s.answer p a d).taps = s.taps := rfl
@[simp] theorem State.lines_answer (s : State) (p : Path) (a : Bool) (d : Word) : (s.answer p a d).lines = s.lines := rfl
@[simp] theorem State.invs_answer (s : State) (p : Path) (a : Bool) (d : Word) : (s.answer p a d).invs = s.invs := rfl
@[simp] theorem State.fills_answer (s : State) (p : Path) (a : Bool) (d : Word) : (s.answer p a d).fills = s.fills := rfl
@[simp] theorem State.rmapTap_answer (s : State) (p : Path) (a : Bool) (d : Word) : (s.answer p a d).rmapTap = s.rmapTap := rfl
@[simp] theorem State.streams_answer (s : State) (p : Path) (a : Bool) (d : Word) : (s.answer p a d).streams = s.streams := rfl
@[simp] theorem State.strHist_answer (s : State) (p : Path) (a : Bool) (d : Word) : (s.answer p a d).strHist = s.strHist := rfl
@[simp] theorem State.strSeq_answer (s : State) (p : Path) (a : Bool) (d : Word) : (s.answer p a d).strSeq = s.strSeq := rfl
@[simp] theorem State.elog_answer (s : State) (p : Path) (a : Bool) (d : Word) : (s.answer p a d).elog = s.elog := rfl
@[simp] theorem State.stgX_answer (s : State) (p : Path) (a : Bool) (d : Word) : (s.answer p a d).stgX = s.stgX := rfl
@[simp] theorem State.fabX_answer (s : State) (p : Path) (a : Bool) (d : Word) : (s.answer p a d).fabX = s.fabX := rfl
@[simp] theorem State.jobs_answer (s : State) (p : Path) (a : Bool) (d : Word) : (s.answer p a d).jobs = s.jobs := rfl
@[simp] theorem State.saved_answer (s : State) (p : Path) (a : Bool) (d : Word) : (s.answer p a d).saved = s.saved := rfl
@[simp] theorem State.ports_answer (s : State) (p : Path) (a : Bool) (d : Word) : (s.answer p a d).ports = s.ports := rfl
@[simp] theorem State.routes_answer (s : State) (p : Path) (a : Bool) (d : Word) : (s.answer p a d).routes = s.routes := rfl
@[simp] theorem State.ctxw_answer (s : State) (p : Path) (a : Bool) (d : Word) : (s.answer p a d).ctxw = s.ctxw := rfl
@[simp] theorem State.ctxs_answer (s : State) (p : Path) (a : Bool) (d : Word) : (s.answer p a d).ctxs = s.ctxs := rfl
@[simp] theorem State.reds_answer (s : State) (p : Path) (a : Bool) (d : Word) : (s.answer p a d).reds = s.reds := rfl
@[simp] theorem State.feeds_answer (s : State) (p : Path) (a : Bool) (d : Word) : (s.answer p a d).feeds = s.feeds := rfl
@[simp] theorem State.feedBuf_answer (s : State) (p : Path) (a : Bool) (d : Word) : (s.answer p a d).feedBuf = s.feedBuf := rfl
@[simp] theorem State.accFree_answer (s : State) (p : Path) (a : Bool) (d : Word) : (s.answer p a d).accFree = s.accFree := rfl
@[simp] theorem State.redQ_answer (s : State) (p : Path) (a : Bool) (d : Word) : (s.answer p a d).redQ = s.redQ := rfl
@[simp] theorem State.rings_answer (s : State) (p : Path) (a : Bool) (d : Word) : (s.answer p a d).rings = s.rings := rfl
@[simp] theorem State.reads_answer (s : State) (p : Path) (a : Bool) (d : Word) : (s.answer p a d).reads = s.reads := rfl
@[simp] theorem State.hostOut_answer (s : State) (p : Path) (a : Bool) (d : Word) : (s.answer p a d).hostOut = s.hostOut := rfl
@[simp] theorem State.hostLost_answer (s : State) (p : Path) (a : Bool) (d : Word) : (s.answer p a d).hostLost = s.hostLost := rfl
@[simp] theorem State.hostWait_answer (s : State) (p : Path) (a : Bool) (d : Word) : (s.answer p a d).hostWait = s.hostWait := rfl
@[simp] theorem State.latches_answer (s : State) (p : Path) (a : Bool) (d : Word) : (s.answer p a d).latches = s.latches := rfl
@[simp] theorem State.rests_answer (s : State) (p : Path) (a : Bool) (d : Word) : (s.answer p a d).rests = s.rests := rfl
@[simp] theorem State.regions_answer (s : State) (p : Path) (a : Bool) (d : Word) : (s.answer p a d).regions = s.regions := rfl
@[simp] theorem State.lockE_answer (s : State) (p : Path) (a : Bool) (d : Word) : (s.answer p a d).lockE = s.lockE := rfl
@[simp] theorem State.slewE_answer (s : State) (p : Path) (a : Bool) (d : Word) : (s.answer p a d).slewE = s.slewE := rfl
@[simp] theorem State.masterTo_answer (s : State) (p : Path) (a : Bool) (d : Word) : (s.answer p a d).masterTo = s.masterTo := rfl
@[simp] theorem State.driftRev_answer (s : State) (p : Path) (a : Bool) (d : Word) : (s.answer p a d).driftRev = s.driftRev := rfl
@[simp] theorem State.fuses_answer (s : State) (p : Path) (a : Bool) (d : Word) : (s.answer p a d).fuses = s.fuses := rfl
@[simp] theorem State.hs_answer (s : State) (p : Path) (a : Bool) (d : Word) : (s.answer p a d).hs = s.hs := rfl
@[simp] theorem State.power_answer (s : State) (p : Path) (a : Bool) (d : Word) : (s.answer p a d).power = s.power := rfl
@[simp] theorem State.ibis_answer (s : State) (p : Path) (a : Bool) (d : Word) : (s.answer p a d).ibis = s.ibis := rfl
@[simp] theorem State.kpPrev_answer (s : State) (p : Path) (a : Bool) (d : Word) : (s.answer p a d).kpPrev = s.kpPrev := rfl
@[simp] theorem State.windowed_answer (s : State) (p : Path) (a : Bool) (d : Word) : (s.answer p a d).windowed = s.windowed := rfl
@[simp] theorem State.evs_answer (s : State) (p : Path) (a : Bool) (d : Word) : (s.answer p a d).evs = s.evs := rfl
@[simp] theorem State.free_answer (s : State) (p : Path) (a : Bool) (d : Word) : (s.answer p a d).free = s.free := rfl

@[simp] theorem State.pending_setLatch (s : State) (p : Path) (l : Latch) : (s.setLatch p l).pending = s.pending := rfl
@[simp] theorem State.now_setLatch (s : State) (p : Path) (l : Latch) : (s.setLatch p l).now = s.now := rfl
@[simp] theorem State.dev_setLatch (s : State) (p : Path) (l : Latch) : (s.setLatch p l).dev = s.dev := rfl
@[simp] theorem State.cores_setLatch (s : State) (p : Path) (l : Latch) : (s.setLatch p l).cores = s.cores := rfl
@[simp] theorem State.net_setLatch (s : State) (p : Path) (l : Latch) : (s.setLatch p l).net = s.net := rfl
@[simp] theorem State.mesh_setLatch (s : State) (p : Path) (l : Latch) : (s.setLatch p l).mesh = s.mesh := rfl
@[simp] theorem State.dram_setLatch (s : State) (p : Path) (l : Latch) : (s.setLatch p l).dram = s.dram := rfl
@[simp] theorem State.dramPsn_setLatch (s : State) (p : Path) (l : Latch) : (s.setLatch p l).dramPsn = s.dramPsn := rfl
@[simp] theorem State.taps_setLatch (s : State) (p : Path) (l : Latch) : (s.setLatch p l).taps = s.taps := rfl
@[simp] theorem State.lines_setLatch (s : State) (p : Path) (l : Latch) : (s.setLatch p l).lines = s.lines := rfl
@[simp] theorem State.invs_setLatch (s : State) (p : Path) (l : Latch) : (s.setLatch p l).invs = s.invs := rfl
@[simp] theorem State.fills_setLatch (s : State) (p : Path) (l : Latch) : (s.setLatch p l).fills = s.fills := rfl
@[simp] theorem State.rmapTap_setLatch (s : State) (p : Path) (l : Latch) : (s.setLatch p l).rmapTap = s.rmapTap := rfl
@[simp] theorem State.streams_setLatch (s : State) (p : Path) (l : Latch) : (s.setLatch p l).streams = s.streams := rfl
@[simp] theorem State.strHist_setLatch (s : State) (p : Path) (l : Latch) : (s.setLatch p l).strHist = s.strHist := rfl
@[simp] theorem State.strSeq_setLatch (s : State) (p : Path) (l : Latch) : (s.setLatch p l).strSeq = s.strSeq := rfl
@[simp] theorem State.elog_setLatch (s : State) (p : Path) (l : Latch) : (s.setLatch p l).elog = s.elog := rfl
@[simp] theorem State.stgX_setLatch (s : State) (p : Path) (l : Latch) : (s.setLatch p l).stgX = s.stgX := rfl
@[simp] theorem State.fabX_setLatch (s : State) (p : Path) (l : Latch) : (s.setLatch p l).fabX = s.fabX := rfl
@[simp] theorem State.jobs_setLatch (s : State) (p : Path) (l : Latch) : (s.setLatch p l).jobs = s.jobs := rfl
@[simp] theorem State.saved_setLatch (s : State) (p : Path) (l : Latch) : (s.setLatch p l).saved = s.saved := rfl
@[simp] theorem State.ports_setLatch (s : State) (p : Path) (l : Latch) : (s.setLatch p l).ports = s.ports := rfl
@[simp] theorem State.routes_setLatch (s : State) (p : Path) (l : Latch) : (s.setLatch p l).routes = s.routes := rfl
@[simp] theorem State.ctxw_setLatch (s : State) (p : Path) (l : Latch) : (s.setLatch p l).ctxw = s.ctxw := rfl
@[simp] theorem State.ctxs_setLatch (s : State) (p : Path) (l : Latch) : (s.setLatch p l).ctxs = s.ctxs := rfl
@[simp] theorem State.reds_setLatch (s : State) (p : Path) (l : Latch) : (s.setLatch p l).reds = s.reds := rfl
@[simp] theorem State.feeds_setLatch (s : State) (p : Path) (l : Latch) : (s.setLatch p l).feeds = s.feeds := rfl
@[simp] theorem State.feedBuf_setLatch (s : State) (p : Path) (l : Latch) : (s.setLatch p l).feedBuf = s.feedBuf := rfl
@[simp] theorem State.accFree_setLatch (s : State) (p : Path) (l : Latch) : (s.setLatch p l).accFree = s.accFree := rfl
@[simp] theorem State.redQ_setLatch (s : State) (p : Path) (l : Latch) : (s.setLatch p l).redQ = s.redQ := rfl
@[simp] theorem State.rings_setLatch (s : State) (p : Path) (l : Latch) : (s.setLatch p l).rings = s.rings := rfl
@[simp] theorem State.reads_setLatch (s : State) (p : Path) (l : Latch) : (s.setLatch p l).reads = s.reads := rfl
@[simp] theorem State.hostOut_setLatch (s : State) (p : Path) (l : Latch) : (s.setLatch p l).hostOut = s.hostOut := rfl
@[simp] theorem State.hostLost_setLatch (s : State) (p : Path) (l : Latch) : (s.setLatch p l).hostLost = s.hostLost := rfl
@[simp] theorem State.hostWait_setLatch (s : State) (p : Path) (l : Latch) : (s.setLatch p l).hostWait = s.hostWait := rfl
@[simp] theorem State.answers_setLatch (s : State) (p : Path) (l : Latch) : (s.setLatch p l).answers = s.answers := rfl
@[simp] theorem State.rests_setLatch (s : State) (p : Path) (l : Latch) : (s.setLatch p l).rests = s.rests := rfl
@[simp] theorem State.regions_setLatch (s : State) (p : Path) (l : Latch) : (s.setLatch p l).regions = s.regions := rfl
@[simp] theorem State.lockE_setLatch (s : State) (p : Path) (l : Latch) : (s.setLatch p l).lockE = s.lockE := rfl
@[simp] theorem State.slewE_setLatch (s : State) (p : Path) (l : Latch) : (s.setLatch p l).slewE = s.slewE := rfl
@[simp] theorem State.masterTo_setLatch (s : State) (p : Path) (l : Latch) : (s.setLatch p l).masterTo = s.masterTo := rfl
@[simp] theorem State.driftRev_setLatch (s : State) (p : Path) (l : Latch) : (s.setLatch p l).driftRev = s.driftRev := rfl
@[simp] theorem State.fuses_setLatch (s : State) (p : Path) (l : Latch) : (s.setLatch p l).fuses = s.fuses := rfl
@[simp] theorem State.hs_setLatch (s : State) (p : Path) (l : Latch) : (s.setLatch p l).hs = s.hs := rfl
@[simp] theorem State.power_setLatch (s : State) (p : Path) (l : Latch) : (s.setLatch p l).power = s.power := rfl
@[simp] theorem State.ibis_setLatch (s : State) (p : Path) (l : Latch) : (s.setLatch p l).ibis = s.ibis := rfl
@[simp] theorem State.kpPrev_setLatch (s : State) (p : Path) (l : Latch) : (s.setLatch p l).kpPrev = s.kpPrev := rfl
@[simp] theorem State.windowed_setLatch (s : State) (p : Path) (l : Latch) : (s.setLatch p l).windowed = s.windowed := rfl
@[simp] theorem State.evs_setLatch (s : State) (p : Path) (l : Latch) : (s.setLatch p l).evs = s.evs := rfl
@[simp] theorem State.free_setLatch (s : State) (p : Path) (l : Latch) : (s.setLatch p l).free = s.free := rfl

@[simp] theorem State.pending_emptyWl (s : State) (p : Path) : (s.emptyWl p).pending = s.pending := rfl
@[simp] theorem State.now_emptyWl (s : State) (p : Path) : (s.emptyWl p).now = s.now := rfl
@[simp] theorem State.dev_emptyWl (s : State) (p : Path) : (s.emptyWl p).dev = s.dev := rfl
@[simp] theorem State.cores_emptyWl (s : State) (p : Path) : (s.emptyWl p).cores = s.cores := rfl
@[simp] theorem State.net_emptyWl (s : State) (p : Path) : (s.emptyWl p).net = s.net := rfl
@[simp] theorem State.mesh_emptyWl (s : State) (p : Path) : (s.emptyWl p).mesh = s.mesh := rfl
@[simp] theorem State.dram_emptyWl (s : State) (p : Path) : (s.emptyWl p).dram = s.dram := rfl
@[simp] theorem State.dramPsn_emptyWl (s : State) (p : Path) : (s.emptyWl p).dramPsn = s.dramPsn := rfl
@[simp] theorem State.taps_emptyWl (s : State) (p : Path) : (s.emptyWl p).taps = s.taps := rfl
@[simp] theorem State.lines_emptyWl (s : State) (p : Path) : (s.emptyWl p).lines = s.lines := rfl
@[simp] theorem State.invs_emptyWl (s : State) (p : Path) : (s.emptyWl p).invs = s.invs := rfl
@[simp] theorem State.fills_emptyWl (s : State) (p : Path) : (s.emptyWl p).fills = s.fills := rfl
@[simp] theorem State.rmapTap_emptyWl (s : State) (p : Path) : (s.emptyWl p).rmapTap = s.rmapTap := rfl
@[simp] theorem State.streams_emptyWl (s : State) (p : Path) : (s.emptyWl p).streams = s.streams := rfl
@[simp] theorem State.strHist_emptyWl (s : State) (p : Path) : (s.emptyWl p).strHist = s.strHist := rfl
@[simp] theorem State.strSeq_emptyWl (s : State) (p : Path) : (s.emptyWl p).strSeq = s.strSeq := rfl
@[simp] theorem State.elog_emptyWl (s : State) (p : Path) : (s.emptyWl p).elog = s.elog := rfl
@[simp] theorem State.stgX_emptyWl (s : State) (p : Path) : (s.emptyWl p).stgX = s.stgX := rfl
@[simp] theorem State.fabX_emptyWl (s : State) (p : Path) : (s.emptyWl p).fabX = s.fabX := rfl
@[simp] theorem State.jobs_emptyWl (s : State) (p : Path) : (s.emptyWl p).jobs = s.jobs := rfl
@[simp] theorem State.saved_emptyWl (s : State) (p : Path) : (s.emptyWl p).saved = s.saved := rfl
@[simp] theorem State.ports_emptyWl (s : State) (p : Path) : (s.emptyWl p).ports = s.ports := rfl
@[simp] theorem State.routes_emptyWl (s : State) (p : Path) : (s.emptyWl p).routes = s.routes := rfl
@[simp] theorem State.ctxw_emptyWl (s : State) (p : Path) : (s.emptyWl p).ctxw = s.ctxw := rfl
@[simp] theorem State.ctxs_emptyWl (s : State) (p : Path) : (s.emptyWl p).ctxs = s.ctxs := rfl
@[simp] theorem State.reds_emptyWl (s : State) (p : Path) : (s.emptyWl p).reds = s.reds := rfl
@[simp] theorem State.feeds_emptyWl (s : State) (p : Path) : (s.emptyWl p).feeds = s.feeds := rfl
@[simp] theorem State.feedBuf_emptyWl (s : State) (p : Path) : (s.emptyWl p).feedBuf = s.feedBuf := rfl
@[simp] theorem State.accFree_emptyWl (s : State) (p : Path) : (s.emptyWl p).accFree = s.accFree := rfl
@[simp] theorem State.redQ_emptyWl (s : State) (p : Path) : (s.emptyWl p).redQ = s.redQ := rfl
@[simp] theorem State.rings_emptyWl (s : State) (p : Path) : (s.emptyWl p).rings = s.rings := rfl
@[simp] theorem State.reads_emptyWl (s : State) (p : Path) : (s.emptyWl p).reads = s.reads := rfl
@[simp] theorem State.hostOut_emptyWl (s : State) (p : Path) : (s.emptyWl p).hostOut = s.hostOut := rfl
@[simp] theorem State.hostLost_emptyWl (s : State) (p : Path) : (s.emptyWl p).hostLost = s.hostLost := rfl
@[simp] theorem State.hostWait_emptyWl (s : State) (p : Path) : (s.emptyWl p).hostWait = s.hostWait := rfl
@[simp] theorem State.answers_emptyWl (s : State) (p : Path) : (s.emptyWl p).answers = s.answers := rfl
@[simp] theorem State.rests_emptyWl (s : State) (p : Path) : (s.emptyWl p).rests = s.rests := rfl
@[simp] theorem State.regions_emptyWl (s : State) (p : Path) : (s.emptyWl p).regions = s.regions := rfl
@[simp] theorem State.lockE_emptyWl (s : State) (p : Path) : (s.emptyWl p).lockE = s.lockE := rfl
@[simp] theorem State.slewE_emptyWl (s : State) (p : Path) : (s.emptyWl p).slewE = s.slewE := rfl
@[simp] theorem State.masterTo_emptyWl (s : State) (p : Path) : (s.emptyWl p).masterTo = s.masterTo := rfl
@[simp] theorem State.driftRev_emptyWl (s : State) (p : Path) : (s.emptyWl p).driftRev = s.driftRev := rfl
@[simp] theorem State.fuses_emptyWl (s : State) (p : Path) : (s.emptyWl p).fuses = s.fuses := rfl
@[simp] theorem State.hs_emptyWl (s : State) (p : Path) : (s.emptyWl p).hs = s.hs := rfl
@[simp] theorem State.power_emptyWl (s : State) (p : Path) : (s.emptyWl p).power = s.power := rfl
@[simp] theorem State.ibis_emptyWl (s : State) (p : Path) : (s.emptyWl p).ibis = s.ibis := rfl
@[simp] theorem State.kpPrev_emptyWl (s : State) (p : Path) : (s.emptyWl p).kpPrev = s.kpPrev := rfl
@[simp] theorem State.windowed_emptyWl (s : State) (p : Path) : (s.emptyWl p).windowed = s.windowed := rfl
@[simp] theorem State.evs_emptyWl (s : State) (p : Path) : (s.emptyWl p).evs = s.evs := rfl
@[simp] theorem State.free_emptyWl (s : State) (p : Path) : (s.emptyWl p).free = s.free := rfl

/-- `logHs` changes hs and nothing else. -/
theorem State.logHs_eq (s : State) (kind : Nat) (j : JobId) (d : Nat) :
    s.logHs kind j d = { s with hs := (s.logHs kind j d).hs } := by unfold State.logHs; split <;> rfl

@[simp] theorem State.pending_logHs (s : State) (kind : Nat) (j : JobId) (d : Nat) : (s.logHs kind j d).pending = s.pending := (congrArg State.pending (State.logHs_eq s kind j d)).trans rfl
@[simp] theorem State.now_logHs (s : State) (kind : Nat) (j : JobId) (d : Nat) : (s.logHs kind j d).now = s.now := (congrArg State.now (State.logHs_eq s kind j d)).trans rfl
@[simp] theorem State.dev_logHs (s : State) (kind : Nat) (j : JobId) (d : Nat) : (s.logHs kind j d).dev = s.dev := (congrArg State.dev (State.logHs_eq s kind j d)).trans rfl
@[simp] theorem State.cores_logHs (s : State) (kind : Nat) (j : JobId) (d : Nat) : (s.logHs kind j d).cores = s.cores := (congrArg State.cores (State.logHs_eq s kind j d)).trans rfl
@[simp] theorem State.net_logHs (s : State) (kind : Nat) (j : JobId) (d : Nat) : (s.logHs kind j d).net = s.net := (congrArg State.net (State.logHs_eq s kind j d)).trans rfl
@[simp] theorem State.mesh_logHs (s : State) (kind : Nat) (j : JobId) (d : Nat) : (s.logHs kind j d).mesh = s.mesh := (congrArg State.mesh (State.logHs_eq s kind j d)).trans rfl
@[simp] theorem State.dram_logHs (s : State) (kind : Nat) (j : JobId) (d : Nat) : (s.logHs kind j d).dram = s.dram := (congrArg State.dram (State.logHs_eq s kind j d)).trans rfl
@[simp] theorem State.dramPsn_logHs (s : State) (kind : Nat) (j : JobId) (d : Nat) : (s.logHs kind j d).dramPsn = s.dramPsn := (congrArg State.dramPsn (State.logHs_eq s kind j d)).trans rfl
@[simp] theorem State.taps_logHs (s : State) (kind : Nat) (j : JobId) (d : Nat) : (s.logHs kind j d).taps = s.taps := (congrArg State.taps (State.logHs_eq s kind j d)).trans rfl
@[simp] theorem State.lines_logHs (s : State) (kind : Nat) (j : JobId) (d : Nat) : (s.logHs kind j d).lines = s.lines := (congrArg State.lines (State.logHs_eq s kind j d)).trans rfl
@[simp] theorem State.invs_logHs (s : State) (kind : Nat) (j : JobId) (d : Nat) : (s.logHs kind j d).invs = s.invs := (congrArg State.invs (State.logHs_eq s kind j d)).trans rfl
@[simp] theorem State.fills_logHs (s : State) (kind : Nat) (j : JobId) (d : Nat) : (s.logHs kind j d).fills = s.fills := (congrArg State.fills (State.logHs_eq s kind j d)).trans rfl
@[simp] theorem State.rmapTap_logHs (s : State) (kind : Nat) (j : JobId) (d : Nat) : (s.logHs kind j d).rmapTap = s.rmapTap := (congrArg State.rmapTap (State.logHs_eq s kind j d)).trans rfl
@[simp] theorem State.streams_logHs (s : State) (kind : Nat) (j : JobId) (d : Nat) : (s.logHs kind j d).streams = s.streams := (congrArg State.streams (State.logHs_eq s kind j d)).trans rfl
@[simp] theorem State.strHist_logHs (s : State) (kind : Nat) (j : JobId) (d : Nat) : (s.logHs kind j d).strHist = s.strHist := (congrArg State.strHist (State.logHs_eq s kind j d)).trans rfl
@[simp] theorem State.strSeq_logHs (s : State) (kind : Nat) (j : JobId) (d : Nat) : (s.logHs kind j d).strSeq = s.strSeq := (congrArg State.strSeq (State.logHs_eq s kind j d)).trans rfl
@[simp] theorem State.elog_logHs (s : State) (kind : Nat) (j : JobId) (d : Nat) : (s.logHs kind j d).elog = s.elog := (congrArg State.elog (State.logHs_eq s kind j d)).trans rfl
@[simp] theorem State.stgX_logHs (s : State) (kind : Nat) (j : JobId) (d : Nat) : (s.logHs kind j d).stgX = s.stgX := (congrArg State.stgX (State.logHs_eq s kind j d)).trans rfl
@[simp] theorem State.fabX_logHs (s : State) (kind : Nat) (j : JobId) (d : Nat) : (s.logHs kind j d).fabX = s.fabX := (congrArg State.fabX (State.logHs_eq s kind j d)).trans rfl
@[simp] theorem State.jobs_logHs (s : State) (kind : Nat) (j : JobId) (d : Nat) : (s.logHs kind j d).jobs = s.jobs := (congrArg State.jobs (State.logHs_eq s kind j d)).trans rfl
@[simp] theorem State.saved_logHs (s : State) (kind : Nat) (j : JobId) (d : Nat) : (s.logHs kind j d).saved = s.saved := (congrArg State.saved (State.logHs_eq s kind j d)).trans rfl
@[simp] theorem State.ports_logHs (s : State) (kind : Nat) (j : JobId) (d : Nat) : (s.logHs kind j d).ports = s.ports := (congrArg State.ports (State.logHs_eq s kind j d)).trans rfl
@[simp] theorem State.routes_logHs (s : State) (kind : Nat) (j : JobId) (d : Nat) : (s.logHs kind j d).routes = s.routes := (congrArg State.routes (State.logHs_eq s kind j d)).trans rfl
@[simp] theorem State.ctxw_logHs (s : State) (kind : Nat) (j : JobId) (d : Nat) : (s.logHs kind j d).ctxw = s.ctxw := (congrArg State.ctxw (State.logHs_eq s kind j d)).trans rfl
@[simp] theorem State.ctxs_logHs (s : State) (kind : Nat) (j : JobId) (d : Nat) : (s.logHs kind j d).ctxs = s.ctxs := (congrArg State.ctxs (State.logHs_eq s kind j d)).trans rfl
@[simp] theorem State.reds_logHs (s : State) (kind : Nat) (j : JobId) (d : Nat) : (s.logHs kind j d).reds = s.reds := (congrArg State.reds (State.logHs_eq s kind j d)).trans rfl
@[simp] theorem State.feeds_logHs (s : State) (kind : Nat) (j : JobId) (d : Nat) : (s.logHs kind j d).feeds = s.feeds := (congrArg State.feeds (State.logHs_eq s kind j d)).trans rfl
@[simp] theorem State.feedBuf_logHs (s : State) (kind : Nat) (j : JobId) (d : Nat) : (s.logHs kind j d).feedBuf = s.feedBuf := (congrArg State.feedBuf (State.logHs_eq s kind j d)).trans rfl
@[simp] theorem State.accFree_logHs (s : State) (kind : Nat) (j : JobId) (d : Nat) : (s.logHs kind j d).accFree = s.accFree := (congrArg State.accFree (State.logHs_eq s kind j d)).trans rfl
@[simp] theorem State.redQ_logHs (s : State) (kind : Nat) (j : JobId) (d : Nat) : (s.logHs kind j d).redQ = s.redQ := (congrArg State.redQ (State.logHs_eq s kind j d)).trans rfl
@[simp] theorem State.rings_logHs (s : State) (kind : Nat) (j : JobId) (d : Nat) : (s.logHs kind j d).rings = s.rings := (congrArg State.rings (State.logHs_eq s kind j d)).trans rfl
@[simp] theorem State.reads_logHs (s : State) (kind : Nat) (j : JobId) (d : Nat) : (s.logHs kind j d).reads = s.reads := (congrArg State.reads (State.logHs_eq s kind j d)).trans rfl
@[simp] theorem State.hostOut_logHs (s : State) (kind : Nat) (j : JobId) (d : Nat) : (s.logHs kind j d).hostOut = s.hostOut := (congrArg State.hostOut (State.logHs_eq s kind j d)).trans rfl
@[simp] theorem State.hostLost_logHs (s : State) (kind : Nat) (j : JobId) (d : Nat) : (s.logHs kind j d).hostLost = s.hostLost := (congrArg State.hostLost (State.logHs_eq s kind j d)).trans rfl
@[simp] theorem State.hostWait_logHs (s : State) (kind : Nat) (j : JobId) (d : Nat) : (s.logHs kind j d).hostWait = s.hostWait := (congrArg State.hostWait (State.logHs_eq s kind j d)).trans rfl
@[simp] theorem State.latches_logHs (s : State) (kind : Nat) (j : JobId) (d : Nat) : (s.logHs kind j d).latches = s.latches := (congrArg State.latches (State.logHs_eq s kind j d)).trans rfl
@[simp] theorem State.answers_logHs (s : State) (kind : Nat) (j : JobId) (d : Nat) : (s.logHs kind j d).answers = s.answers := (congrArg State.answers (State.logHs_eq s kind j d)).trans rfl
@[simp] theorem State.rests_logHs (s : State) (kind : Nat) (j : JobId) (d : Nat) : (s.logHs kind j d).rests = s.rests := (congrArg State.rests (State.logHs_eq s kind j d)).trans rfl
@[simp] theorem State.regions_logHs (s : State) (kind : Nat) (j : JobId) (d : Nat) : (s.logHs kind j d).regions = s.regions := (congrArg State.regions (State.logHs_eq s kind j d)).trans rfl
@[simp] theorem State.lockE_logHs (s : State) (kind : Nat) (j : JobId) (d : Nat) : (s.logHs kind j d).lockE = s.lockE := (congrArg State.lockE (State.logHs_eq s kind j d)).trans rfl
@[simp] theorem State.slewE_logHs (s : State) (kind : Nat) (j : JobId) (d : Nat) : (s.logHs kind j d).slewE = s.slewE := (congrArg State.slewE (State.logHs_eq s kind j d)).trans rfl
@[simp] theorem State.masterTo_logHs (s : State) (kind : Nat) (j : JobId) (d : Nat) : (s.logHs kind j d).masterTo = s.masterTo := (congrArg State.masterTo (State.logHs_eq s kind j d)).trans rfl
@[simp] theorem State.driftRev_logHs (s : State) (kind : Nat) (j : JobId) (d : Nat) : (s.logHs kind j d).driftRev = s.driftRev := (congrArg State.driftRev (State.logHs_eq s kind j d)).trans rfl
@[simp] theorem State.fuses_logHs (s : State) (kind : Nat) (j : JobId) (d : Nat) : (s.logHs kind j d).fuses = s.fuses := (congrArg State.fuses (State.logHs_eq s kind j d)).trans rfl
@[simp] theorem State.power_logHs (s : State) (kind : Nat) (j : JobId) (d : Nat) : (s.logHs kind j d).power = s.power := (congrArg State.power (State.logHs_eq s kind j d)).trans rfl
@[simp] theorem State.ibis_logHs (s : State) (kind : Nat) (j : JobId) (d : Nat) : (s.logHs kind j d).ibis = s.ibis := (congrArg State.ibis (State.logHs_eq s kind j d)).trans rfl
@[simp] theorem State.kpPrev_logHs (s : State) (kind : Nat) (j : JobId) (d : Nat) : (s.logHs kind j d).kpPrev = s.kpPrev := (congrArg State.kpPrev (State.logHs_eq s kind j d)).trans rfl
@[simp] theorem State.windowed_logHs (s : State) (kind : Nat) (j : JobId) (d : Nat) : (s.logHs kind j d).windowed = s.windowed := (congrArg State.windowed (State.logHs_eq s kind j d)).trans rfl
@[simp] theorem State.evs_logHs (s : State) (kind : Nat) (j : JobId) (d : Nat) : (s.logHs kind j d).evs = s.evs := (congrArg State.evs (State.logHs_eq s kind j d)).trans rfl
@[simp] theorem State.free_logHs (s : State) (kind : Nat) (j : JobId) (d : Nat) : (s.logHs kind j d).free = s.free := (congrArg State.free (State.logHs_eq s kind j d)).trans rfl

/-- `noteParity` changes hs and nothing else. -/
theorem State.noteParity_eq (s : State) (c : CoreId) (x : Nat) :
    s.noteParity c x = { s with hs := (s.noteParity c x).hs } := by unfold State.noteParity; dsimp only; repeat' (first | rfl | split)

@[simp] theorem State.pending_noteParity (s : State) (c : CoreId) (x : Nat) : (s.noteParity c x).pending = s.pending := (congrArg State.pending (State.noteParity_eq s c x)).trans rfl
@[simp] theorem State.now_noteParity (s : State) (c : CoreId) (x : Nat) : (s.noteParity c x).now = s.now := (congrArg State.now (State.noteParity_eq s c x)).trans rfl
@[simp] theorem State.dev_noteParity (s : State) (c : CoreId) (x : Nat) : (s.noteParity c x).dev = s.dev := (congrArg State.dev (State.noteParity_eq s c x)).trans rfl
@[simp] theorem State.cores_noteParity (s : State) (c : CoreId) (x : Nat) : (s.noteParity c x).cores = s.cores := (congrArg State.cores (State.noteParity_eq s c x)).trans rfl
@[simp] theorem State.net_noteParity (s : State) (c : CoreId) (x : Nat) : (s.noteParity c x).net = s.net := (congrArg State.net (State.noteParity_eq s c x)).trans rfl
@[simp] theorem State.mesh_noteParity (s : State) (c : CoreId) (x : Nat) : (s.noteParity c x).mesh = s.mesh := (congrArg State.mesh (State.noteParity_eq s c x)).trans rfl
@[simp] theorem State.dram_noteParity (s : State) (c : CoreId) (x : Nat) : (s.noteParity c x).dram = s.dram := (congrArg State.dram (State.noteParity_eq s c x)).trans rfl
@[simp] theorem State.dramPsn_noteParity (s : State) (c : CoreId) (x : Nat) : (s.noteParity c x).dramPsn = s.dramPsn := (congrArg State.dramPsn (State.noteParity_eq s c x)).trans rfl
@[simp] theorem State.taps_noteParity (s : State) (c : CoreId) (x : Nat) : (s.noteParity c x).taps = s.taps := (congrArg State.taps (State.noteParity_eq s c x)).trans rfl
@[simp] theorem State.lines_noteParity (s : State) (c : CoreId) (x : Nat) : (s.noteParity c x).lines = s.lines := (congrArg State.lines (State.noteParity_eq s c x)).trans rfl
@[simp] theorem State.invs_noteParity (s : State) (c : CoreId) (x : Nat) : (s.noteParity c x).invs = s.invs := (congrArg State.invs (State.noteParity_eq s c x)).trans rfl
@[simp] theorem State.fills_noteParity (s : State) (c : CoreId) (x : Nat) : (s.noteParity c x).fills = s.fills := (congrArg State.fills (State.noteParity_eq s c x)).trans rfl
@[simp] theorem State.rmapTap_noteParity (s : State) (c : CoreId) (x : Nat) : (s.noteParity c x).rmapTap = s.rmapTap := (congrArg State.rmapTap (State.noteParity_eq s c x)).trans rfl
@[simp] theorem State.streams_noteParity (s : State) (c : CoreId) (x : Nat) : (s.noteParity c x).streams = s.streams := (congrArg State.streams (State.noteParity_eq s c x)).trans rfl
@[simp] theorem State.strHist_noteParity (s : State) (c : CoreId) (x : Nat) : (s.noteParity c x).strHist = s.strHist := (congrArg State.strHist (State.noteParity_eq s c x)).trans rfl
@[simp] theorem State.strSeq_noteParity (s : State) (c : CoreId) (x : Nat) : (s.noteParity c x).strSeq = s.strSeq := (congrArg State.strSeq (State.noteParity_eq s c x)).trans rfl
@[simp] theorem State.elog_noteParity (s : State) (c : CoreId) (x : Nat) : (s.noteParity c x).elog = s.elog := (congrArg State.elog (State.noteParity_eq s c x)).trans rfl
@[simp] theorem State.stgX_noteParity (s : State) (c : CoreId) (x : Nat) : (s.noteParity c x).stgX = s.stgX := (congrArg State.stgX (State.noteParity_eq s c x)).trans rfl
@[simp] theorem State.fabX_noteParity (s : State) (c : CoreId) (x : Nat) : (s.noteParity c x).fabX = s.fabX := (congrArg State.fabX (State.noteParity_eq s c x)).trans rfl
@[simp] theorem State.jobs_noteParity (s : State) (c : CoreId) (x : Nat) : (s.noteParity c x).jobs = s.jobs := (congrArg State.jobs (State.noteParity_eq s c x)).trans rfl
@[simp] theorem State.saved_noteParity (s : State) (c : CoreId) (x : Nat) : (s.noteParity c x).saved = s.saved := (congrArg State.saved (State.noteParity_eq s c x)).trans rfl
@[simp] theorem State.ports_noteParity (s : State) (c : CoreId) (x : Nat) : (s.noteParity c x).ports = s.ports := (congrArg State.ports (State.noteParity_eq s c x)).trans rfl
@[simp] theorem State.routes_noteParity (s : State) (c : CoreId) (x : Nat) : (s.noteParity c x).routes = s.routes := (congrArg State.routes (State.noteParity_eq s c x)).trans rfl
@[simp] theorem State.ctxw_noteParity (s : State) (c : CoreId) (x : Nat) : (s.noteParity c x).ctxw = s.ctxw := (congrArg State.ctxw (State.noteParity_eq s c x)).trans rfl
@[simp] theorem State.ctxs_noteParity (s : State) (c : CoreId) (x : Nat) : (s.noteParity c x).ctxs = s.ctxs := (congrArg State.ctxs (State.noteParity_eq s c x)).trans rfl
@[simp] theorem State.reds_noteParity (s : State) (c : CoreId) (x : Nat) : (s.noteParity c x).reds = s.reds := (congrArg State.reds (State.noteParity_eq s c x)).trans rfl
@[simp] theorem State.feeds_noteParity (s : State) (c : CoreId) (x : Nat) : (s.noteParity c x).feeds = s.feeds := (congrArg State.feeds (State.noteParity_eq s c x)).trans rfl
@[simp] theorem State.feedBuf_noteParity (s : State) (c : CoreId) (x : Nat) : (s.noteParity c x).feedBuf = s.feedBuf := (congrArg State.feedBuf (State.noteParity_eq s c x)).trans rfl
@[simp] theorem State.accFree_noteParity (s : State) (c : CoreId) (x : Nat) : (s.noteParity c x).accFree = s.accFree := (congrArg State.accFree (State.noteParity_eq s c x)).trans rfl
@[simp] theorem State.redQ_noteParity (s : State) (c : CoreId) (x : Nat) : (s.noteParity c x).redQ = s.redQ := (congrArg State.redQ (State.noteParity_eq s c x)).trans rfl
@[simp] theorem State.rings_noteParity (s : State) (c : CoreId) (x : Nat) : (s.noteParity c x).rings = s.rings := (congrArg State.rings (State.noteParity_eq s c x)).trans rfl
@[simp] theorem State.reads_noteParity (s : State) (c : CoreId) (x : Nat) : (s.noteParity c x).reads = s.reads := (congrArg State.reads (State.noteParity_eq s c x)).trans rfl
@[simp] theorem State.hostOut_noteParity (s : State) (c : CoreId) (x : Nat) : (s.noteParity c x).hostOut = s.hostOut := (congrArg State.hostOut (State.noteParity_eq s c x)).trans rfl
@[simp] theorem State.hostLost_noteParity (s : State) (c : CoreId) (x : Nat) : (s.noteParity c x).hostLost = s.hostLost := (congrArg State.hostLost (State.noteParity_eq s c x)).trans rfl
@[simp] theorem State.hostWait_noteParity (s : State) (c : CoreId) (x : Nat) : (s.noteParity c x).hostWait = s.hostWait := (congrArg State.hostWait (State.noteParity_eq s c x)).trans rfl
@[simp] theorem State.latches_noteParity (s : State) (c : CoreId) (x : Nat) : (s.noteParity c x).latches = s.latches := (congrArg State.latches (State.noteParity_eq s c x)).trans rfl
@[simp] theorem State.answers_noteParity (s : State) (c : CoreId) (x : Nat) : (s.noteParity c x).answers = s.answers := (congrArg State.answers (State.noteParity_eq s c x)).trans rfl
@[simp] theorem State.rests_noteParity (s : State) (c : CoreId) (x : Nat) : (s.noteParity c x).rests = s.rests := (congrArg State.rests (State.noteParity_eq s c x)).trans rfl
@[simp] theorem State.regions_noteParity (s : State) (c : CoreId) (x : Nat) : (s.noteParity c x).regions = s.regions := (congrArg State.regions (State.noteParity_eq s c x)).trans rfl
@[simp] theorem State.lockE_noteParity (s : State) (c : CoreId) (x : Nat) : (s.noteParity c x).lockE = s.lockE := (congrArg State.lockE (State.noteParity_eq s c x)).trans rfl
@[simp] theorem State.slewE_noteParity (s : State) (c : CoreId) (x : Nat) : (s.noteParity c x).slewE = s.slewE := (congrArg State.slewE (State.noteParity_eq s c x)).trans rfl
@[simp] theorem State.masterTo_noteParity (s : State) (c : CoreId) (x : Nat) : (s.noteParity c x).masterTo = s.masterTo := (congrArg State.masterTo (State.noteParity_eq s c x)).trans rfl
@[simp] theorem State.driftRev_noteParity (s : State) (c : CoreId) (x : Nat) : (s.noteParity c x).driftRev = s.driftRev := (congrArg State.driftRev (State.noteParity_eq s c x)).trans rfl
@[simp] theorem State.fuses_noteParity (s : State) (c : CoreId) (x : Nat) : (s.noteParity c x).fuses = s.fuses := (congrArg State.fuses (State.noteParity_eq s c x)).trans rfl
@[simp] theorem State.power_noteParity (s : State) (c : CoreId) (x : Nat) : (s.noteParity c x).power = s.power := (congrArg State.power (State.noteParity_eq s c x)).trans rfl
@[simp] theorem State.ibis_noteParity (s : State) (c : CoreId) (x : Nat) : (s.noteParity c x).ibis = s.ibis := (congrArg State.ibis (State.noteParity_eq s c x)).trans rfl
@[simp] theorem State.kpPrev_noteParity (s : State) (c : CoreId) (x : Nat) : (s.noteParity c x).kpPrev = s.kpPrev := (congrArg State.kpPrev (State.noteParity_eq s c x)).trans rfl
@[simp] theorem State.windowed_noteParity (s : State) (c : CoreId) (x : Nat) : (s.noteParity c x).windowed = s.windowed := (congrArg State.windowed (State.noteParity_eq s c x)).trans rfl
@[simp] theorem State.evs_noteParity (s : State) (c : CoreId) (x : Nat) : (s.noteParity c x).evs = s.evs := (congrArg State.evs (State.noteParity_eq s c x)).trans rfl
@[simp] theorem State.free_noteParity (s : State) (c : CoreId) (x : Nat) : (s.noteParity c x).free = s.free := (congrArg State.free (State.noteParity_eq s c x)).trans rfl

/-- `failCore` changes jobs and nothing else. -/
theorem State.failCore_eq (s : State) (c : CoreId) :
    s.failCore c = { s with jobs := (s.failCore c).jobs } := by unfold State.failCore; split <;> rfl

@[simp] theorem State.pending_failCore (s : State) (c : CoreId) : (s.failCore c).pending = s.pending := (congrArg State.pending (State.failCore_eq s c)).trans rfl
@[simp] theorem State.now_failCore (s : State) (c : CoreId) : (s.failCore c).now = s.now := (congrArg State.now (State.failCore_eq s c)).trans rfl
@[simp] theorem State.dev_failCore (s : State) (c : CoreId) : (s.failCore c).dev = s.dev := (congrArg State.dev (State.failCore_eq s c)).trans rfl
@[simp] theorem State.cores_failCore (s : State) (c : CoreId) : (s.failCore c).cores = s.cores := (congrArg State.cores (State.failCore_eq s c)).trans rfl
@[simp] theorem State.net_failCore (s : State) (c : CoreId) : (s.failCore c).net = s.net := (congrArg State.net (State.failCore_eq s c)).trans rfl
@[simp] theorem State.mesh_failCore (s : State) (c : CoreId) : (s.failCore c).mesh = s.mesh := (congrArg State.mesh (State.failCore_eq s c)).trans rfl
@[simp] theorem State.dram_failCore (s : State) (c : CoreId) : (s.failCore c).dram = s.dram := (congrArg State.dram (State.failCore_eq s c)).trans rfl
@[simp] theorem State.dramPsn_failCore (s : State) (c : CoreId) : (s.failCore c).dramPsn = s.dramPsn := (congrArg State.dramPsn (State.failCore_eq s c)).trans rfl
@[simp] theorem State.taps_failCore (s : State) (c : CoreId) : (s.failCore c).taps = s.taps := (congrArg State.taps (State.failCore_eq s c)).trans rfl
@[simp] theorem State.lines_failCore (s : State) (c : CoreId) : (s.failCore c).lines = s.lines := (congrArg State.lines (State.failCore_eq s c)).trans rfl
@[simp] theorem State.invs_failCore (s : State) (c : CoreId) : (s.failCore c).invs = s.invs := (congrArg State.invs (State.failCore_eq s c)).trans rfl
@[simp] theorem State.fills_failCore (s : State) (c : CoreId) : (s.failCore c).fills = s.fills := (congrArg State.fills (State.failCore_eq s c)).trans rfl
@[simp] theorem State.rmapTap_failCore (s : State) (c : CoreId) : (s.failCore c).rmapTap = s.rmapTap := (congrArg State.rmapTap (State.failCore_eq s c)).trans rfl
@[simp] theorem State.streams_failCore (s : State) (c : CoreId) : (s.failCore c).streams = s.streams := (congrArg State.streams (State.failCore_eq s c)).trans rfl
@[simp] theorem State.strHist_failCore (s : State) (c : CoreId) : (s.failCore c).strHist = s.strHist := (congrArg State.strHist (State.failCore_eq s c)).trans rfl
@[simp] theorem State.strSeq_failCore (s : State) (c : CoreId) : (s.failCore c).strSeq = s.strSeq := (congrArg State.strSeq (State.failCore_eq s c)).trans rfl
@[simp] theorem State.elog_failCore (s : State) (c : CoreId) : (s.failCore c).elog = s.elog := (congrArg State.elog (State.failCore_eq s c)).trans rfl
@[simp] theorem State.stgX_failCore (s : State) (c : CoreId) : (s.failCore c).stgX = s.stgX := (congrArg State.stgX (State.failCore_eq s c)).trans rfl
@[simp] theorem State.fabX_failCore (s : State) (c : CoreId) : (s.failCore c).fabX = s.fabX := (congrArg State.fabX (State.failCore_eq s c)).trans rfl
@[simp] theorem State.saved_failCore (s : State) (c : CoreId) : (s.failCore c).saved = s.saved := (congrArg State.saved (State.failCore_eq s c)).trans rfl
@[simp] theorem State.ports_failCore (s : State) (c : CoreId) : (s.failCore c).ports = s.ports := (congrArg State.ports (State.failCore_eq s c)).trans rfl
@[simp] theorem State.routes_failCore (s : State) (c : CoreId) : (s.failCore c).routes = s.routes := (congrArg State.routes (State.failCore_eq s c)).trans rfl
@[simp] theorem State.ctxw_failCore (s : State) (c : CoreId) : (s.failCore c).ctxw = s.ctxw := (congrArg State.ctxw (State.failCore_eq s c)).trans rfl
@[simp] theorem State.ctxs_failCore (s : State) (c : CoreId) : (s.failCore c).ctxs = s.ctxs := (congrArg State.ctxs (State.failCore_eq s c)).trans rfl
@[simp] theorem State.reds_failCore (s : State) (c : CoreId) : (s.failCore c).reds = s.reds := (congrArg State.reds (State.failCore_eq s c)).trans rfl
@[simp] theorem State.feeds_failCore (s : State) (c : CoreId) : (s.failCore c).feeds = s.feeds := (congrArg State.feeds (State.failCore_eq s c)).trans rfl
@[simp] theorem State.feedBuf_failCore (s : State) (c : CoreId) : (s.failCore c).feedBuf = s.feedBuf := (congrArg State.feedBuf (State.failCore_eq s c)).trans rfl
@[simp] theorem State.accFree_failCore (s : State) (c : CoreId) : (s.failCore c).accFree = s.accFree := (congrArg State.accFree (State.failCore_eq s c)).trans rfl
@[simp] theorem State.redQ_failCore (s : State) (c : CoreId) : (s.failCore c).redQ = s.redQ := (congrArg State.redQ (State.failCore_eq s c)).trans rfl
@[simp] theorem State.rings_failCore (s : State) (c : CoreId) : (s.failCore c).rings = s.rings := (congrArg State.rings (State.failCore_eq s c)).trans rfl
@[simp] theorem State.reads_failCore (s : State) (c : CoreId) : (s.failCore c).reads = s.reads := (congrArg State.reads (State.failCore_eq s c)).trans rfl
@[simp] theorem State.hostOut_failCore (s : State) (c : CoreId) : (s.failCore c).hostOut = s.hostOut := (congrArg State.hostOut (State.failCore_eq s c)).trans rfl
@[simp] theorem State.hostLost_failCore (s : State) (c : CoreId) : (s.failCore c).hostLost = s.hostLost := (congrArg State.hostLost (State.failCore_eq s c)).trans rfl
@[simp] theorem State.hostWait_failCore (s : State) (c : CoreId) : (s.failCore c).hostWait = s.hostWait := (congrArg State.hostWait (State.failCore_eq s c)).trans rfl
@[simp] theorem State.latches_failCore (s : State) (c : CoreId) : (s.failCore c).latches = s.latches := (congrArg State.latches (State.failCore_eq s c)).trans rfl
@[simp] theorem State.answers_failCore (s : State) (c : CoreId) : (s.failCore c).answers = s.answers := (congrArg State.answers (State.failCore_eq s c)).trans rfl
@[simp] theorem State.rests_failCore (s : State) (c : CoreId) : (s.failCore c).rests = s.rests := (congrArg State.rests (State.failCore_eq s c)).trans rfl
@[simp] theorem State.regions_failCore (s : State) (c : CoreId) : (s.failCore c).regions = s.regions := (congrArg State.regions (State.failCore_eq s c)).trans rfl
@[simp] theorem State.lockE_failCore (s : State) (c : CoreId) : (s.failCore c).lockE = s.lockE := (congrArg State.lockE (State.failCore_eq s c)).trans rfl
@[simp] theorem State.slewE_failCore (s : State) (c : CoreId) : (s.failCore c).slewE = s.slewE := (congrArg State.slewE (State.failCore_eq s c)).trans rfl
@[simp] theorem State.masterTo_failCore (s : State) (c : CoreId) : (s.failCore c).masterTo = s.masterTo := (congrArg State.masterTo (State.failCore_eq s c)).trans rfl
@[simp] theorem State.driftRev_failCore (s : State) (c : CoreId) : (s.failCore c).driftRev = s.driftRev := (congrArg State.driftRev (State.failCore_eq s c)).trans rfl
@[simp] theorem State.fuses_failCore (s : State) (c : CoreId) : (s.failCore c).fuses = s.fuses := (congrArg State.fuses (State.failCore_eq s c)).trans rfl
@[simp] theorem State.hs_failCore (s : State) (c : CoreId) : (s.failCore c).hs = s.hs := (congrArg State.hs (State.failCore_eq s c)).trans rfl
@[simp] theorem State.power_failCore (s : State) (c : CoreId) : (s.failCore c).power = s.power := (congrArg State.power (State.failCore_eq s c)).trans rfl
@[simp] theorem State.ibis_failCore (s : State) (c : CoreId) : (s.failCore c).ibis = s.ibis := (congrArg State.ibis (State.failCore_eq s c)).trans rfl
@[simp] theorem State.kpPrev_failCore (s : State) (c : CoreId) : (s.failCore c).kpPrev = s.kpPrev := (congrArg State.kpPrev (State.failCore_eq s c)).trans rfl
@[simp] theorem State.windowed_failCore (s : State) (c : CoreId) : (s.failCore c).windowed = s.windowed := (congrArg State.windowed (State.failCore_eq s c)).trans rfl
@[simp] theorem State.evs_failCore (s : State) (c : CoreId) : (s.failCore c).evs = s.evs := (congrArg State.evs (State.failCore_eq s c)).trans rfl
@[simp] theorem State.free_failCore (s : State) (c : CoreId) : (s.failCore c).free = s.free := (congrArg State.free (State.failCore_eq s c)).trans rfl

/-- `advanceTo` changes cores, now and nothing else. -/
theorem State.advanceTo_eq (s : State) (d : Count) :
    s.advanceTo d = { s with cores := (s.advanceTo d).cores, now := (s.advanceTo d).now } := by unfold State.advanceTo; split <;> rfl

@[simp] theorem State.pending_advanceTo (s : State) (d : Count) : (s.advanceTo d).pending = s.pending := (congrArg State.pending (State.advanceTo_eq s d)).trans rfl
@[simp] theorem State.dev_advanceTo (s : State) (d : Count) : (s.advanceTo d).dev = s.dev := (congrArg State.dev (State.advanceTo_eq s d)).trans rfl
@[simp] theorem State.net_advanceTo (s : State) (d : Count) : (s.advanceTo d).net = s.net := (congrArg State.net (State.advanceTo_eq s d)).trans rfl
@[simp] theorem State.mesh_advanceTo (s : State) (d : Count) : (s.advanceTo d).mesh = s.mesh := (congrArg State.mesh (State.advanceTo_eq s d)).trans rfl
@[simp] theorem State.dram_advanceTo (s : State) (d : Count) : (s.advanceTo d).dram = s.dram := (congrArg State.dram (State.advanceTo_eq s d)).trans rfl
@[simp] theorem State.dramPsn_advanceTo (s : State) (d : Count) : (s.advanceTo d).dramPsn = s.dramPsn := (congrArg State.dramPsn (State.advanceTo_eq s d)).trans rfl
@[simp] theorem State.taps_advanceTo (s : State) (d : Count) : (s.advanceTo d).taps = s.taps := (congrArg State.taps (State.advanceTo_eq s d)).trans rfl
@[simp] theorem State.lines_advanceTo (s : State) (d : Count) : (s.advanceTo d).lines = s.lines := (congrArg State.lines (State.advanceTo_eq s d)).trans rfl
@[simp] theorem State.invs_advanceTo (s : State) (d : Count) : (s.advanceTo d).invs = s.invs := (congrArg State.invs (State.advanceTo_eq s d)).trans rfl
@[simp] theorem State.fills_advanceTo (s : State) (d : Count) : (s.advanceTo d).fills = s.fills := (congrArg State.fills (State.advanceTo_eq s d)).trans rfl
@[simp] theorem State.rmapTap_advanceTo (s : State) (d : Count) : (s.advanceTo d).rmapTap = s.rmapTap := (congrArg State.rmapTap (State.advanceTo_eq s d)).trans rfl
@[simp] theorem State.streams_advanceTo (s : State) (d : Count) : (s.advanceTo d).streams = s.streams := (congrArg State.streams (State.advanceTo_eq s d)).trans rfl
@[simp] theorem State.strHist_advanceTo (s : State) (d : Count) : (s.advanceTo d).strHist = s.strHist := (congrArg State.strHist (State.advanceTo_eq s d)).trans rfl
@[simp] theorem State.strSeq_advanceTo (s : State) (d : Count) : (s.advanceTo d).strSeq = s.strSeq := (congrArg State.strSeq (State.advanceTo_eq s d)).trans rfl
@[simp] theorem State.elog_advanceTo (s : State) (d : Count) : (s.advanceTo d).elog = s.elog := (congrArg State.elog (State.advanceTo_eq s d)).trans rfl
@[simp] theorem State.stgX_advanceTo (s : State) (d : Count) : (s.advanceTo d).stgX = s.stgX := (congrArg State.stgX (State.advanceTo_eq s d)).trans rfl
@[simp] theorem State.fabX_advanceTo (s : State) (d : Count) : (s.advanceTo d).fabX = s.fabX := (congrArg State.fabX (State.advanceTo_eq s d)).trans rfl
@[simp] theorem State.jobs_advanceTo (s : State) (d : Count) : (s.advanceTo d).jobs = s.jobs := (congrArg State.jobs (State.advanceTo_eq s d)).trans rfl
@[simp] theorem State.saved_advanceTo (s : State) (d : Count) : (s.advanceTo d).saved = s.saved := (congrArg State.saved (State.advanceTo_eq s d)).trans rfl
@[simp] theorem State.ports_advanceTo (s : State) (d : Count) : (s.advanceTo d).ports = s.ports := (congrArg State.ports (State.advanceTo_eq s d)).trans rfl
@[simp] theorem State.routes_advanceTo (s : State) (d : Count) : (s.advanceTo d).routes = s.routes := (congrArg State.routes (State.advanceTo_eq s d)).trans rfl
@[simp] theorem State.ctxw_advanceTo (s : State) (d : Count) : (s.advanceTo d).ctxw = s.ctxw := (congrArg State.ctxw (State.advanceTo_eq s d)).trans rfl
@[simp] theorem State.ctxs_advanceTo (s : State) (d : Count) : (s.advanceTo d).ctxs = s.ctxs := (congrArg State.ctxs (State.advanceTo_eq s d)).trans rfl
@[simp] theorem State.reds_advanceTo (s : State) (d : Count) : (s.advanceTo d).reds = s.reds := (congrArg State.reds (State.advanceTo_eq s d)).trans rfl
@[simp] theorem State.feeds_advanceTo (s : State) (d : Count) : (s.advanceTo d).feeds = s.feeds := (congrArg State.feeds (State.advanceTo_eq s d)).trans rfl
@[simp] theorem State.feedBuf_advanceTo (s : State) (d : Count) : (s.advanceTo d).feedBuf = s.feedBuf := (congrArg State.feedBuf (State.advanceTo_eq s d)).trans rfl
@[simp] theorem State.accFree_advanceTo (s : State) (d : Count) : (s.advanceTo d).accFree = s.accFree := (congrArg State.accFree (State.advanceTo_eq s d)).trans rfl
@[simp] theorem State.redQ_advanceTo (s : State) (d : Count) : (s.advanceTo d).redQ = s.redQ := (congrArg State.redQ (State.advanceTo_eq s d)).trans rfl
@[simp] theorem State.rings_advanceTo (s : State) (d : Count) : (s.advanceTo d).rings = s.rings := (congrArg State.rings (State.advanceTo_eq s d)).trans rfl
@[simp] theorem State.reads_advanceTo (s : State) (d : Count) : (s.advanceTo d).reads = s.reads := (congrArg State.reads (State.advanceTo_eq s d)).trans rfl
@[simp] theorem State.hostOut_advanceTo (s : State) (d : Count) : (s.advanceTo d).hostOut = s.hostOut := (congrArg State.hostOut (State.advanceTo_eq s d)).trans rfl
@[simp] theorem State.hostLost_advanceTo (s : State) (d : Count) : (s.advanceTo d).hostLost = s.hostLost := (congrArg State.hostLost (State.advanceTo_eq s d)).trans rfl
@[simp] theorem State.hostWait_advanceTo (s : State) (d : Count) : (s.advanceTo d).hostWait = s.hostWait := (congrArg State.hostWait (State.advanceTo_eq s d)).trans rfl
@[simp] theorem State.latches_advanceTo (s : State) (d : Count) : (s.advanceTo d).latches = s.latches := (congrArg State.latches (State.advanceTo_eq s d)).trans rfl
@[simp] theorem State.answers_advanceTo (s : State) (d : Count) : (s.advanceTo d).answers = s.answers := (congrArg State.answers (State.advanceTo_eq s d)).trans rfl
@[simp] theorem State.rests_advanceTo (s : State) (d : Count) : (s.advanceTo d).rests = s.rests := (congrArg State.rests (State.advanceTo_eq s d)).trans rfl
@[simp] theorem State.regions_advanceTo (s : State) (d : Count) : (s.advanceTo d).regions = s.regions := (congrArg State.regions (State.advanceTo_eq s d)).trans rfl
@[simp] theorem State.lockE_advanceTo (s : State) (d : Count) : (s.advanceTo d).lockE = s.lockE := (congrArg State.lockE (State.advanceTo_eq s d)).trans rfl
@[simp] theorem State.slewE_advanceTo (s : State) (d : Count) : (s.advanceTo d).slewE = s.slewE := (congrArg State.slewE (State.advanceTo_eq s d)).trans rfl
@[simp] theorem State.masterTo_advanceTo (s : State) (d : Count) : (s.advanceTo d).masterTo = s.masterTo := (congrArg State.masterTo (State.advanceTo_eq s d)).trans rfl
@[simp] theorem State.driftRev_advanceTo (s : State) (d : Count) : (s.advanceTo d).driftRev = s.driftRev := (congrArg State.driftRev (State.advanceTo_eq s d)).trans rfl
@[simp] theorem State.fuses_advanceTo (s : State) (d : Count) : (s.advanceTo d).fuses = s.fuses := (congrArg State.fuses (State.advanceTo_eq s d)).trans rfl
@[simp] theorem State.hs_advanceTo (s : State) (d : Count) : (s.advanceTo d).hs = s.hs := (congrArg State.hs (State.advanceTo_eq s d)).trans rfl
@[simp] theorem State.power_advanceTo (s : State) (d : Count) : (s.advanceTo d).power = s.power := (congrArg State.power (State.advanceTo_eq s d)).trans rfl
@[simp] theorem State.ibis_advanceTo (s : State) (d : Count) : (s.advanceTo d).ibis = s.ibis := (congrArg State.ibis (State.advanceTo_eq s d)).trans rfl
@[simp] theorem State.kpPrev_advanceTo (s : State) (d : Count) : (s.advanceTo d).kpPrev = s.kpPrev := (congrArg State.kpPrev (State.advanceTo_eq s d)).trans rfl
@[simp] theorem State.windowed_advanceTo (s : State) (d : Count) : (s.advanceTo d).windowed = s.windowed := (congrArg State.windowed (State.advanceTo_eq s d)).trans rfl
@[simp] theorem State.evs_advanceTo (s : State) (d : Count) : (s.advanceTo d).evs = s.evs := (congrArg State.evs (State.advanceTo_eq s d)).trans rfl
@[simp] theorem State.free_advanceTo (s : State) (d : Count) : (s.advanceTo d).free = s.free := (congrArg State.free (State.advanceTo_eq s d)).trans rfl

/-- `idleCycle` changes cores, now and nothing else. -/
theorem State.idleCycle_eq (s : State)  :
    s.idleCycle  = { s with cores := (s.idleCycle ).cores, now := (s.idleCycle ).now } := by
  unfold State.idleCycle
  split
  · exact State.advanceTo_eq s _
  · rfl

@[simp] theorem State.pending_idleCycle (s : State) : (s.idleCycle).pending = s.pending := (congrArg State.pending (State.idleCycle_eq s)).trans rfl
@[simp] theorem State.dev_idleCycle (s : State) : (s.idleCycle).dev = s.dev := (congrArg State.dev (State.idleCycle_eq s)).trans rfl
@[simp] theorem State.net_idleCycle (s : State) : (s.idleCycle).net = s.net := (congrArg State.net (State.idleCycle_eq s)).trans rfl
@[simp] theorem State.mesh_idleCycle (s : State) : (s.idleCycle).mesh = s.mesh := (congrArg State.mesh (State.idleCycle_eq s)).trans rfl
@[simp] theorem State.dram_idleCycle (s : State) : (s.idleCycle).dram = s.dram := (congrArg State.dram (State.idleCycle_eq s)).trans rfl
@[simp] theorem State.dramPsn_idleCycle (s : State) : (s.idleCycle).dramPsn = s.dramPsn := (congrArg State.dramPsn (State.idleCycle_eq s)).trans rfl
@[simp] theorem State.taps_idleCycle (s : State) : (s.idleCycle).taps = s.taps := (congrArg State.taps (State.idleCycle_eq s)).trans rfl
@[simp] theorem State.lines_idleCycle (s : State) : (s.idleCycle).lines = s.lines := (congrArg State.lines (State.idleCycle_eq s)).trans rfl
@[simp] theorem State.invs_idleCycle (s : State) : (s.idleCycle).invs = s.invs := (congrArg State.invs (State.idleCycle_eq s)).trans rfl
@[simp] theorem State.fills_idleCycle (s : State) : (s.idleCycle).fills = s.fills := (congrArg State.fills (State.idleCycle_eq s)).trans rfl
@[simp] theorem State.rmapTap_idleCycle (s : State) : (s.idleCycle).rmapTap = s.rmapTap := (congrArg State.rmapTap (State.idleCycle_eq s)).trans rfl
@[simp] theorem State.streams_idleCycle (s : State) : (s.idleCycle).streams = s.streams := (congrArg State.streams (State.idleCycle_eq s)).trans rfl
@[simp] theorem State.strHist_idleCycle (s : State) : (s.idleCycle).strHist = s.strHist := (congrArg State.strHist (State.idleCycle_eq s)).trans rfl
@[simp] theorem State.strSeq_idleCycle (s : State) : (s.idleCycle).strSeq = s.strSeq := (congrArg State.strSeq (State.idleCycle_eq s)).trans rfl
@[simp] theorem State.elog_idleCycle (s : State) : (s.idleCycle).elog = s.elog := (congrArg State.elog (State.idleCycle_eq s)).trans rfl
@[simp] theorem State.stgX_idleCycle (s : State) : (s.idleCycle).stgX = s.stgX := (congrArg State.stgX (State.idleCycle_eq s)).trans rfl
@[simp] theorem State.fabX_idleCycle (s : State) : (s.idleCycle).fabX = s.fabX := (congrArg State.fabX (State.idleCycle_eq s)).trans rfl
@[simp] theorem State.jobs_idleCycle (s : State) : (s.idleCycle).jobs = s.jobs := (congrArg State.jobs (State.idleCycle_eq s)).trans rfl
@[simp] theorem State.saved_idleCycle (s : State) : (s.idleCycle).saved = s.saved := (congrArg State.saved (State.idleCycle_eq s)).trans rfl
@[simp] theorem State.ports_idleCycle (s : State) : (s.idleCycle).ports = s.ports := (congrArg State.ports (State.idleCycle_eq s)).trans rfl
@[simp] theorem State.routes_idleCycle (s : State) : (s.idleCycle).routes = s.routes := (congrArg State.routes (State.idleCycle_eq s)).trans rfl
@[simp] theorem State.ctxw_idleCycle (s : State) : (s.idleCycle).ctxw = s.ctxw := (congrArg State.ctxw (State.idleCycle_eq s)).trans rfl
@[simp] theorem State.ctxs_idleCycle (s : State) : (s.idleCycle).ctxs = s.ctxs := (congrArg State.ctxs (State.idleCycle_eq s)).trans rfl
@[simp] theorem State.reds_idleCycle (s : State) : (s.idleCycle).reds = s.reds := (congrArg State.reds (State.idleCycle_eq s)).trans rfl
@[simp] theorem State.feeds_idleCycle (s : State) : (s.idleCycle).feeds = s.feeds := (congrArg State.feeds (State.idleCycle_eq s)).trans rfl
@[simp] theorem State.feedBuf_idleCycle (s : State) : (s.idleCycle).feedBuf = s.feedBuf := (congrArg State.feedBuf (State.idleCycle_eq s)).trans rfl
@[simp] theorem State.accFree_idleCycle (s : State) : (s.idleCycle).accFree = s.accFree := (congrArg State.accFree (State.idleCycle_eq s)).trans rfl
@[simp] theorem State.redQ_idleCycle (s : State) : (s.idleCycle).redQ = s.redQ := (congrArg State.redQ (State.idleCycle_eq s)).trans rfl
@[simp] theorem State.rings_idleCycle (s : State) : (s.idleCycle).rings = s.rings := (congrArg State.rings (State.idleCycle_eq s)).trans rfl
@[simp] theorem State.reads_idleCycle (s : State) : (s.idleCycle).reads = s.reads := (congrArg State.reads (State.idleCycle_eq s)).trans rfl
@[simp] theorem State.hostOut_idleCycle (s : State) : (s.idleCycle).hostOut = s.hostOut := (congrArg State.hostOut (State.idleCycle_eq s)).trans rfl
@[simp] theorem State.hostLost_idleCycle (s : State) : (s.idleCycle).hostLost = s.hostLost := (congrArg State.hostLost (State.idleCycle_eq s)).trans rfl
@[simp] theorem State.hostWait_idleCycle (s : State) : (s.idleCycle).hostWait = s.hostWait := (congrArg State.hostWait (State.idleCycle_eq s)).trans rfl
@[simp] theorem State.latches_idleCycle (s : State) : (s.idleCycle).latches = s.latches := (congrArg State.latches (State.idleCycle_eq s)).trans rfl
@[simp] theorem State.answers_idleCycle (s : State) : (s.idleCycle).answers = s.answers := (congrArg State.answers (State.idleCycle_eq s)).trans rfl
@[simp] theorem State.rests_idleCycle (s : State) : (s.idleCycle).rests = s.rests := (congrArg State.rests (State.idleCycle_eq s)).trans rfl
@[simp] theorem State.regions_idleCycle (s : State) : (s.idleCycle).regions = s.regions := (congrArg State.regions (State.idleCycle_eq s)).trans rfl
@[simp] theorem State.lockE_idleCycle (s : State) : (s.idleCycle).lockE = s.lockE := (congrArg State.lockE (State.idleCycle_eq s)).trans rfl
@[simp] theorem State.slewE_idleCycle (s : State) : (s.idleCycle).slewE = s.slewE := (congrArg State.slewE (State.idleCycle_eq s)).trans rfl
@[simp] theorem State.masterTo_idleCycle (s : State) : (s.idleCycle).masterTo = s.masterTo := (congrArg State.masterTo (State.idleCycle_eq s)).trans rfl
@[simp] theorem State.driftRev_idleCycle (s : State) : (s.idleCycle).driftRev = s.driftRev := (congrArg State.driftRev (State.idleCycle_eq s)).trans rfl
@[simp] theorem State.fuses_idleCycle (s : State) : (s.idleCycle).fuses = s.fuses := (congrArg State.fuses (State.idleCycle_eq s)).trans rfl
@[simp] theorem State.hs_idleCycle (s : State) : (s.idleCycle).hs = s.hs := (congrArg State.hs (State.idleCycle_eq s)).trans rfl
@[simp] theorem State.power_idleCycle (s : State) : (s.idleCycle).power = s.power := (congrArg State.power (State.idleCycle_eq s)).trans rfl
@[simp] theorem State.ibis_idleCycle (s : State) : (s.idleCycle).ibis = s.ibis := (congrArg State.ibis (State.idleCycle_eq s)).trans rfl
@[simp] theorem State.kpPrev_idleCycle (s : State) : (s.idleCycle).kpPrev = s.kpPrev := (congrArg State.kpPrev (State.idleCycle_eq s)).trans rfl
@[simp] theorem State.windowed_idleCycle (s : State) : (s.idleCycle).windowed = s.windowed := (congrArg State.windowed (State.idleCycle_eq s)).trans rfl
@[simp] theorem State.evs_idleCycle (s : State) : (s.idleCycle).evs = s.evs := (congrArg State.evs (State.idleCycle_eq s)).trans rfl
@[simp] theorem State.free_idleCycle (s : State) : (s.idleCycle).free = s.free := (congrArg State.free (State.idleCycle_eq s)).trans rfl

/-- `faultReport` changes hs, net and nothing else. -/
theorem State.faultReport_eq (s : State) (c : CoreId) (t : Thr) :
    s.faultReport c t = { s with hs := (s.faultReport c t).hs, net := (s.faultReport c t).net } := by unfold State.faultReport; dsimp only; split <;> rfl

@[simp] theorem State.pending_faultReport (s : State) (c : CoreId) (t : Thr) : (s.faultReport c t).pending = s.pending := (congrArg State.pending (State.faultReport_eq s c t)).trans rfl
@[simp] theorem State.now_faultReport (s : State) (c : CoreId) (t : Thr) : (s.faultReport c t).now = s.now := (congrArg State.now (State.faultReport_eq s c t)).trans rfl
@[simp] theorem State.dev_faultReport (s : State) (c : CoreId) (t : Thr) : (s.faultReport c t).dev = s.dev := (congrArg State.dev (State.faultReport_eq s c t)).trans rfl
@[simp] theorem State.cores_faultReport (s : State) (c : CoreId) (t : Thr) : (s.faultReport c t).cores = s.cores := (congrArg State.cores (State.faultReport_eq s c t)).trans rfl
@[simp] theorem State.mesh_faultReport (s : State) (c : CoreId) (t : Thr) : (s.faultReport c t).mesh = s.mesh := (congrArg State.mesh (State.faultReport_eq s c t)).trans rfl
@[simp] theorem State.dram_faultReport (s : State) (c : CoreId) (t : Thr) : (s.faultReport c t).dram = s.dram := (congrArg State.dram (State.faultReport_eq s c t)).trans rfl
@[simp] theorem State.dramPsn_faultReport (s : State) (c : CoreId) (t : Thr) : (s.faultReport c t).dramPsn = s.dramPsn := (congrArg State.dramPsn (State.faultReport_eq s c t)).trans rfl
@[simp] theorem State.taps_faultReport (s : State) (c : CoreId) (t : Thr) : (s.faultReport c t).taps = s.taps := (congrArg State.taps (State.faultReport_eq s c t)).trans rfl
@[simp] theorem State.lines_faultReport (s : State) (c : CoreId) (t : Thr) : (s.faultReport c t).lines = s.lines := (congrArg State.lines (State.faultReport_eq s c t)).trans rfl
@[simp] theorem State.invs_faultReport (s : State) (c : CoreId) (t : Thr) : (s.faultReport c t).invs = s.invs := (congrArg State.invs (State.faultReport_eq s c t)).trans rfl
@[simp] theorem State.fills_faultReport (s : State) (c : CoreId) (t : Thr) : (s.faultReport c t).fills = s.fills := (congrArg State.fills (State.faultReport_eq s c t)).trans rfl
@[simp] theorem State.rmapTap_faultReport (s : State) (c : CoreId) (t : Thr) : (s.faultReport c t).rmapTap = s.rmapTap := (congrArg State.rmapTap (State.faultReport_eq s c t)).trans rfl
@[simp] theorem State.streams_faultReport (s : State) (c : CoreId) (t : Thr) : (s.faultReport c t).streams = s.streams := (congrArg State.streams (State.faultReport_eq s c t)).trans rfl
@[simp] theorem State.strHist_faultReport (s : State) (c : CoreId) (t : Thr) : (s.faultReport c t).strHist = s.strHist := (congrArg State.strHist (State.faultReport_eq s c t)).trans rfl
@[simp] theorem State.strSeq_faultReport (s : State) (c : CoreId) (t : Thr) : (s.faultReport c t).strSeq = s.strSeq := (congrArg State.strSeq (State.faultReport_eq s c t)).trans rfl
@[simp] theorem State.elog_faultReport (s : State) (c : CoreId) (t : Thr) : (s.faultReport c t).elog = s.elog := (congrArg State.elog (State.faultReport_eq s c t)).trans rfl
@[simp] theorem State.stgX_faultReport (s : State) (c : CoreId) (t : Thr) : (s.faultReport c t).stgX = s.stgX := (congrArg State.stgX (State.faultReport_eq s c t)).trans rfl
@[simp] theorem State.fabX_faultReport (s : State) (c : CoreId) (t : Thr) : (s.faultReport c t).fabX = s.fabX := (congrArg State.fabX (State.faultReport_eq s c t)).trans rfl
@[simp] theorem State.jobs_faultReport (s : State) (c : CoreId) (t : Thr) : (s.faultReport c t).jobs = s.jobs := (congrArg State.jobs (State.faultReport_eq s c t)).trans rfl
@[simp] theorem State.saved_faultReport (s : State) (c : CoreId) (t : Thr) : (s.faultReport c t).saved = s.saved := (congrArg State.saved (State.faultReport_eq s c t)).trans rfl
@[simp] theorem State.ports_faultReport (s : State) (c : CoreId) (t : Thr) : (s.faultReport c t).ports = s.ports := (congrArg State.ports (State.faultReport_eq s c t)).trans rfl
@[simp] theorem State.routes_faultReport (s : State) (c : CoreId) (t : Thr) : (s.faultReport c t).routes = s.routes := (congrArg State.routes (State.faultReport_eq s c t)).trans rfl
@[simp] theorem State.ctxw_faultReport (s : State) (c : CoreId) (t : Thr) : (s.faultReport c t).ctxw = s.ctxw := (congrArg State.ctxw (State.faultReport_eq s c t)).trans rfl
@[simp] theorem State.ctxs_faultReport (s : State) (c : CoreId) (t : Thr) : (s.faultReport c t).ctxs = s.ctxs := (congrArg State.ctxs (State.faultReport_eq s c t)).trans rfl
@[simp] theorem State.reds_faultReport (s : State) (c : CoreId) (t : Thr) : (s.faultReport c t).reds = s.reds := (congrArg State.reds (State.faultReport_eq s c t)).trans rfl
@[simp] theorem State.feeds_faultReport (s : State) (c : CoreId) (t : Thr) : (s.faultReport c t).feeds = s.feeds := (congrArg State.feeds (State.faultReport_eq s c t)).trans rfl
@[simp] theorem State.feedBuf_faultReport (s : State) (c : CoreId) (t : Thr) : (s.faultReport c t).feedBuf = s.feedBuf := (congrArg State.feedBuf (State.faultReport_eq s c t)).trans rfl
@[simp] theorem State.accFree_faultReport (s : State) (c : CoreId) (t : Thr) : (s.faultReport c t).accFree = s.accFree := (congrArg State.accFree (State.faultReport_eq s c t)).trans rfl
@[simp] theorem State.redQ_faultReport (s : State) (c : CoreId) (t : Thr) : (s.faultReport c t).redQ = s.redQ := (congrArg State.redQ (State.faultReport_eq s c t)).trans rfl
@[simp] theorem State.rings_faultReport (s : State) (c : CoreId) (t : Thr) : (s.faultReport c t).rings = s.rings := (congrArg State.rings (State.faultReport_eq s c t)).trans rfl
@[simp] theorem State.reads_faultReport (s : State) (c : CoreId) (t : Thr) : (s.faultReport c t).reads = s.reads := (congrArg State.reads (State.faultReport_eq s c t)).trans rfl
@[simp] theorem State.hostOut_faultReport (s : State) (c : CoreId) (t : Thr) : (s.faultReport c t).hostOut = s.hostOut := (congrArg State.hostOut (State.faultReport_eq s c t)).trans rfl
@[simp] theorem State.hostLost_faultReport (s : State) (c : CoreId) (t : Thr) : (s.faultReport c t).hostLost = s.hostLost := (congrArg State.hostLost (State.faultReport_eq s c t)).trans rfl
@[simp] theorem State.hostWait_faultReport (s : State) (c : CoreId) (t : Thr) : (s.faultReport c t).hostWait = s.hostWait := (congrArg State.hostWait (State.faultReport_eq s c t)).trans rfl
@[simp] theorem State.latches_faultReport (s : State) (c : CoreId) (t : Thr) : (s.faultReport c t).latches = s.latches := (congrArg State.latches (State.faultReport_eq s c t)).trans rfl
@[simp] theorem State.answers_faultReport (s : State) (c : CoreId) (t : Thr) : (s.faultReport c t).answers = s.answers := (congrArg State.answers (State.faultReport_eq s c t)).trans rfl
@[simp] theorem State.rests_faultReport (s : State) (c : CoreId) (t : Thr) : (s.faultReport c t).rests = s.rests := (congrArg State.rests (State.faultReport_eq s c t)).trans rfl
@[simp] theorem State.regions_faultReport (s : State) (c : CoreId) (t : Thr) : (s.faultReport c t).regions = s.regions := (congrArg State.regions (State.faultReport_eq s c t)).trans rfl
@[simp] theorem State.lockE_faultReport (s : State) (c : CoreId) (t : Thr) : (s.faultReport c t).lockE = s.lockE := (congrArg State.lockE (State.faultReport_eq s c t)).trans rfl
@[simp] theorem State.slewE_faultReport (s : State) (c : CoreId) (t : Thr) : (s.faultReport c t).slewE = s.slewE := (congrArg State.slewE (State.faultReport_eq s c t)).trans rfl
@[simp] theorem State.masterTo_faultReport (s : State) (c : CoreId) (t : Thr) : (s.faultReport c t).masterTo = s.masterTo := (congrArg State.masterTo (State.faultReport_eq s c t)).trans rfl
@[simp] theorem State.driftRev_faultReport (s : State) (c : CoreId) (t : Thr) : (s.faultReport c t).driftRev = s.driftRev := (congrArg State.driftRev (State.faultReport_eq s c t)).trans rfl
@[simp] theorem State.fuses_faultReport (s : State) (c : CoreId) (t : Thr) : (s.faultReport c t).fuses = s.fuses := (congrArg State.fuses (State.faultReport_eq s c t)).trans rfl
@[simp] theorem State.power_faultReport (s : State) (c : CoreId) (t : Thr) : (s.faultReport c t).power = s.power := (congrArg State.power (State.faultReport_eq s c t)).trans rfl
@[simp] theorem State.ibis_faultReport (s : State) (c : CoreId) (t : Thr) : (s.faultReport c t).ibis = s.ibis := (congrArg State.ibis (State.faultReport_eq s c t)).trans rfl
@[simp] theorem State.kpPrev_faultReport (s : State) (c : CoreId) (t : Thr) : (s.faultReport c t).kpPrev = s.kpPrev := (congrArg State.kpPrev (State.faultReport_eq s c t)).trans rfl
@[simp] theorem State.windowed_faultReport (s : State) (c : CoreId) (t : Thr) : (s.faultReport c t).windowed = s.windowed := (congrArg State.windowed (State.faultReport_eq s c t)).trans rfl
@[simp] theorem State.evs_faultReport (s : State) (c : CoreId) (t : Thr) : (s.faultReport c t).evs = s.evs := (congrArg State.evs (State.faultReport_eq s c t)).trans rfl
@[simp] theorem State.free_faultReport (s : State) (c : CoreId) (t : Thr) : (s.faultReport c t).free = s.free := (congrArg State.free (State.faultReport_eq s c t)).trans rfl

@[simp] theorem State.dev_setDev (s : State) (o : Nat) (w : Word) : (s.setDev o w).dev = SMap.set devReset s.dev o w := rfl
@[simp] theorem State.cores_setCore (s : State) (c : CoreId) (k : Core) :
    (s.setCore c k).cores = SMap.set (fun _ => Core.reset) s.cores c.toNat k := rfl
@[simp] theorem State.net_send (s : State) (a b : CoreId) (m : NetBody) :
    (s.send a b m).net = s.net ++ [{ src := a, dst := b, due := s.now + BitVec.ofNat 60 (s.lat a b), body := m }] := rfl

/-- A device register reads what was written to it. -/
@[simp] theorem State.devW_setDev_same (s : State) (o : Nat) (w : Word) : (s.setDev o w).devW o = w := SMap.get_set_same _ _ _ _

/-- A write of a device register leaves every other one alone. -/
theorem State.devW_setDev_other (s : State) (o p : Nat) (w : Word) (h : p ≠ o) : (s.setDev o w).devW p = s.devW p :=
  SMap.get_set_other _ _ _ _ _ h

/-- A core reads as the record it was given. -/
@[simp] theorem State.core_setCore_same (s : State) (c : CoreId) (k : Core) : (s.setCore c k).core c = k := SMap.get_set_same _ _ _ _

/-- Replacing a core's record leaves every other core alone. -/
theorem State.core_setCore_other (s : State) (c d : CoreId) (k : Core) (h : d ≠ c) : (s.setCore c k).core d = s.core d :=
  SMap.get_set_other _ _ _ _ _ (fun e => h (BitVec.eq_of_toNat_eq e))

@[simp] theorem State.core_onCore_same (s : State) (c : CoreId) (f : Core → Core) : (s.onCore c f).core c = f (s.core c) :=
  State.core_setCore_same _ _ _

theorem State.core_onCore_other (s : State) (c d : CoreId) (f : Core → Core) (h : d ≠ c) : (s.onCore c f).core d = s.core d :=
  State.core_setCore_other _ _ _ _ h

@[simp] theorem Core.th_setTh_same (k : Core) (t : Thr) (x : Thread) : (k.setTh t x).th t = x := SMap.get_set_same _ _ _ _

theorem Core.th_setTh_other (k : Core) (t u : Thr) (x : Thread) (h : u ≠ t) : (k.setTh t x).th u = k.th u :=
  SMap.get_set_other _ _ _ _ _ (fun e => h (BitVec.eq_of_toNat_eq e))

@[simp] theorem Core.th_onTh_same (k : Core) (t : Thr) (f : Thread → Thread) : (k.onTh t f).th t = f (k.th t) :=
  Core.th_setTh_same _ _ _

theorem Core.th_onTh_other (k : Core) (t u : Thr) (f : Thread → Thread) (h : u ≠ t) : (k.onTh t f).th u = k.th u :=
  Core.th_setTh_other _ _ _ _ h

@[simp] theorem State.th_onTh_same (s : State) (c : CoreId) (t : Thr) (f : Thread → Thread) : (s.onTh c t f).th c t = f (s.th c t) := by
  simp [State.onTh, State.th]

/-- A change of a thread leaves every other thread of the module alone. -/
theorem State.th_onTh_other (s : State) (c d : CoreId) (t u : Thr) (f : Thread → Thread) (h : d ≠ c ∨ u ≠ t) :
    (s.onTh c t f).th d u = s.th d u := by
  by_cases hd : d = c
  · subst hd; simp only [State.onTh, State.th, State.core_onCore_same]
    exact Core.th_onTh_other _ _ _ _ (h.resolve_left (fun e => e rfl))
  · simp only [State.onTh, State.th, State.core_onCore_other _ _ _ _ hd]

@[simp] theorem State.th_setCore_same (s : State) (c : CoreId) (t : Thr) (k : Core) : (s.setCore c k).th c t = k.th t := by
  simp [State.th]

@[simp] theorem State.th_onCore_same (s : State) (c : CoreId) (t : Thr) (f : Core → Core) : (s.onCore c f).th c t = (f (s.core c)).th t := by
  simp [State.th]

@[simp] theorem State.core_onTh_same (s : State) (c : CoreId) (t : Thr) (f : Thread → Thread) :
    (s.onTh c t f).core c = (s.core c).onTh t f := State.core_onCore_same _ _ _

theorem State.core_onTh_other (s : State) (c d : CoreId) (t : Thr) (f : Thread → Thread) (h : d ≠ c) :
    (s.onTh c t f).core d = s.core d := State.core_onCore_other _ _ _ _ h

/-- A change of a thread by functions that agree on it. -/
theorem State.onTh_congr (s : State) (c : CoreId) (t : Thr) (f g : Thread → Thread) (h : f (s.th c t) = g (s.th c t)) :
    s.onTh c t f = s.onTh c t g := by
  simp only [State.onTh, State.onCore, Core.onTh]; rw [show f ((s.core c).th t) = g ((s.core c).th t) from h]

/-- A change of a core by functions that agree on it. -/
theorem State.onCore_congr (s : State) (c : CoreId) (f g : Core → Core) (h : f (s.core c) = g (s.core c)) :
    s.onCore c f = s.onCore c g := by
  simp only [State.onCore, h]

/-! ### A core -/

@[simp] theorem Core.win_setSpByte (k : Core) (a : Nat) (b : Byte) : (k.setSpByte a b).win = k.win := rfl
@[simp] theorem Core.thr_setSpByte (k : Core) (a : Nat) (b : Byte) : (k.setSpByte a b).thr = k.thr := rfl
@[simp] theorem Core.pm_setSpByte (k : Core) (a : Nat) (b : Byte) : (k.setSpByte a b).pm = k.pm := rfl
@[simp] theorem Core.pmPar_setSpByte (k : Core) (a : Nat) (b : Byte) : (k.setSpByte a b).pmPar = k.pmPar := rfl
@[simp] theorem Core.valid_setSpByte (k : Core) (a : Nat) (b : Byte) : (k.setSpByte a b).valid = k.valid := rfl
@[simp] theorem Core.psn_setSpByte (k : Core) (a : Nat) (b : Byte) : (k.setSpByte a b).psn = k.psn := rfl
@[simp] theorem Core.lockq_setSpByte (k : Core) (a : Nat) (b : Byte) : (k.setSpByte a b).lockq = k.lockq := rfl
@[simp] theorem Core.fsq_setSpByte (k : Core) (a : Nat) (b : Byte) : (k.setSpByte a b).fsq = k.fsq := rfl
@[simp] theorem Core.fsqOvf_setSpByte (k : Core) (a : Nat) (b : Byte) : (k.setSpByte a b).fsqOvf = k.fsqOvf := rfl
@[simp] theorem Core.flags_setSpByte (k : Core) (a : Nat) (b : Byte) : (k.setSpByte a b).flags = k.flags := rfl
@[simp] theorem Core.fcyc_setSpByte (k : Core) (a : Nat) (b : Byte) : (k.setSpByte a b).fcyc = k.fcyc := rfl
@[simp] theorem Core.nst_setSpByte (k : Core) (a : Nat) (b : Byte) : (k.setSpByte a b).nst = k.nst := rfl
@[simp] theorem Core.bdata_setSpByte (k : Core) (a : Nat) (b : Byte) : (k.setSpByte a b).bdata = k.bdata := rfl
@[simp] theorem Core.bscale_setSpByte (k : Core) (a : Nat) (b : Byte) : (k.setSpByte a b).bscale = k.bscale := rfl
@[simp] theorem Core.bext_setSpByte (k : Core) (a : Nat) (b : Byte) : (k.setSpByte a b).bext = k.bext := rfl
@[simp] theorem Core.tq_setSpByte (k : Core) (a : Nat) (b : Byte) : (k.setSpByte a b).tq = k.tq := rfl
@[simp] theorem Core.tseq_setSpByte (k : Core) (a : Nat) (b : Byte) : (k.setSpByte a b).tseq = k.tseq := rfl
@[simp] theorem Core.xcap_setSpByte (k : Core) (a : Nat) (b : Byte) : (k.setSpByte a b).xcap = k.xcap := rfl
@[simp] theorem Core.stage_setSpByte (k : Core) (a : Nat) (b : Byte) : (k.setSpByte a b).stage = k.stage := rfl
@[simp] theorem Core.tdone_setSpByte (k : Core) (a : Nat) (b : Byte) : (k.setSpByte a b).tdone = k.tdone := rfl
@[simp] theorem Core.trow_setSpByte (k : Core) (a : Nat) (b : Byte) : (k.setSpByte a b).trow = k.trow := rfl
@[simp] theorem Core.chan_setSpByte (k : Core) (a : Nat) (b : Byte) : (k.setSpByte a b).chan = k.chan := rfl
@[simp] theorem Core.slotAt_setSpByte (k : Core) (a : Nat) (b : Byte) : (k.setSpByte a b).slotAt = k.slotAt := rfl
@[simp] theorem Core.edgeAt_setSpByte (k : Core) (a : Nat) (b : Byte) : (k.setSpByte a b).edgeAt = k.edgeAt := rfl
@[simp] theorem Core.locAt_setSpByte (k : Core) (a : Nat) (b : Byte) : (k.setSpByte a b).locAt = k.locAt := rfl
@[simp] theorem Core.dmaMsgs_setSpByte (k : Core) (a : Nat) (b : Byte) : (k.setSpByte a b).dmaMsgs = k.dmaMsgs := rfl
@[simp] theorem Core.vset_setSpByte (k : Core) (a : Nat) (b : Byte) : (k.setSpByte a b).vset = k.vset := rfl
@[simp] theorem Core.gots_setSpByte (k : Core) (a : Nat) (b : Byte) : (k.setSpByte a b).gots = k.gots := rfl
@[simp] theorem Core.served_setSpByte (k : Core) (a : Nat) (b : Byte) : (k.setSpByte a b).served = k.served := rfl
@[simp] theorem Core.xlate_setSpByte (k : Core) (a : Nat) (b : Byte) : (k.setSpByte a b).xlate = k.xlate := rfl
@[simp] theorem Core.conn_setSpByte (k : Core) (a : Nat) (b : Byte) : (k.setSpByte a b).conn = k.conn := rfl
@[simp] theorem Core.connSeq_setSpByte (k : Core) (a : Nat) (b : Byte) : (k.setSpByte a b).connSeq = k.connSeq := rfl
@[simp] theorem Core.ring_setSpByte (k : Core) (a : Nat) (b : Byte) : (k.setSpByte a b).ring = k.ring := rfl
@[simp] theorem Core.owed_setSpByte (k : Core) (a : Nat) (b : Byte) : (k.setSpByte a b).owed = k.owed := rfl
@[simp] theorem Core.dying_setSpByte (k : Core) (a : Nat) (b : Byte) : (k.setSpByte a b).dying = k.dying := rfl
@[simp] theorem Core.oldBed_setSpByte (k : Core) (a : Nat) (b : Byte) : (k.setSpByte a b).oldBed = k.oldBed := rfl
@[simp] theorem Core.front_setSpByte (k : Core) (a : Nat) (b : Byte) : (k.setSpByte a b).front = k.front := rfl
@[simp] theorem Core.back_setSpByte (k : Core) (a : Nat) (b : Byte) : (k.setSpByte a b).back = k.back := rfl
@[simp] theorem Core.swN_setSpByte (k : Core) (a : Nat) (b : Byte) : (k.setSpByte a b).swN = k.swN := rfl
@[simp] theorem Core.snapBar_setSpByte (k : Core) (a : Nat) (b : Byte) : (k.setSpByte a b).snapBar = k.snapBar := rfl
@[simp] theorem Core.snapPh_setSpByte (k : Core) (a : Nat) (b : Byte) : (k.setSpByte a b).snapPh = k.snapPh := rfl
@[simp] theorem Core.snapTlo_setSpByte (k : Core) (a : Nat) (b : Byte) : (k.setSpByte a b).snapTlo = k.snapTlo := rfl
@[simp] theorem Core.snapThi_setSpByte (k : Core) (a : Nat) (b : Byte) : (k.setSpByte a b).snapThi = k.snapThi := rfl
@[simp] theorem Core.trace_setSpByte (k : Core) (a : Nat) (b : Byte) : (k.setSpByte a b).trace = k.trace := rfl
@[simp] theorem Core.tarm_setSpByte (k : Core) (a : Nat) (b : Byte) : (k.setSpByte a b).tarm = k.tarm := rfl
@[simp] theorem Core.topen_setSpByte (k : Core) (a : Nat) (b : Byte) : (k.setSpByte a b).topen = k.topen := rfl
@[simp] theorem Core.tqCyc_setSpByte (k : Core) (a : Nat) (b : Byte) : (k.setSpByte a b).tqCyc = k.tqCyc := rfl
@[simp] theorem Core.tqFill_setSpByte (k : Core) (a : Nat) (b : Byte) : (k.setSpByte a b).tqFill = k.tqFill := rfl
@[simp] theorem Core.evs_setSpByte (k : Core) (a : Nat) (b : Byte) : (k.setSpByte a b).evs = k.evs := rfl

@[simp] theorem Core.win_setSpWord (k : Core) (a : Nat) (v : Word) : (k.setSpWord a v).win = k.win := rfl
@[simp] theorem Core.thr_setSpWord (k : Core) (a : Nat) (v : Word) : (k.setSpWord a v).thr = k.thr := rfl
@[simp] theorem Core.pm_setSpWord (k : Core) (a : Nat) (v : Word) : (k.setSpWord a v).pm = k.pm := rfl
@[simp] theorem Core.pmPar_setSpWord (k : Core) (a : Nat) (v : Word) : (k.setSpWord a v).pmPar = k.pmPar := rfl
@[simp] theorem Core.valid_setSpWord (k : Core) (a : Nat) (v : Word) : (k.setSpWord a v).valid = k.valid := rfl
@[simp] theorem Core.psn_setSpWord (k : Core) (a : Nat) (v : Word) : (k.setSpWord a v).psn = k.psn := rfl
@[simp] theorem Core.lockq_setSpWord (k : Core) (a : Nat) (v : Word) : (k.setSpWord a v).lockq = k.lockq := rfl
@[simp] theorem Core.fsq_setSpWord (k : Core) (a : Nat) (v : Word) : (k.setSpWord a v).fsq = k.fsq := rfl
@[simp] theorem Core.fsqOvf_setSpWord (k : Core) (a : Nat) (v : Word) : (k.setSpWord a v).fsqOvf = k.fsqOvf := rfl
@[simp] theorem Core.flags_setSpWord (k : Core) (a : Nat) (v : Word) : (k.setSpWord a v).flags = k.flags := rfl
@[simp] theorem Core.fcyc_setSpWord (k : Core) (a : Nat) (v : Word) : (k.setSpWord a v).fcyc = k.fcyc := rfl
@[simp] theorem Core.nst_setSpWord (k : Core) (a : Nat) (v : Word) : (k.setSpWord a v).nst = k.nst := rfl
@[simp] theorem Core.bdata_setSpWord (k : Core) (a : Nat) (v : Word) : (k.setSpWord a v).bdata = k.bdata := rfl
@[simp] theorem Core.bscale_setSpWord (k : Core) (a : Nat) (v : Word) : (k.setSpWord a v).bscale = k.bscale := rfl
@[simp] theorem Core.bext_setSpWord (k : Core) (a : Nat) (v : Word) : (k.setSpWord a v).bext = k.bext := rfl
@[simp] theorem Core.tq_setSpWord (k : Core) (a : Nat) (v : Word) : (k.setSpWord a v).tq = k.tq := rfl
@[simp] theorem Core.tseq_setSpWord (k : Core) (a : Nat) (v : Word) : (k.setSpWord a v).tseq = k.tseq := rfl
@[simp] theorem Core.xcap_setSpWord (k : Core) (a : Nat) (v : Word) : (k.setSpWord a v).xcap = k.xcap := rfl
@[simp] theorem Core.stage_setSpWord (k : Core) (a : Nat) (v : Word) : (k.setSpWord a v).stage = k.stage := rfl
@[simp] theorem Core.tdone_setSpWord (k : Core) (a : Nat) (v : Word) : (k.setSpWord a v).tdone = k.tdone := rfl
@[simp] theorem Core.trow_setSpWord (k : Core) (a : Nat) (v : Word) : (k.setSpWord a v).trow = k.trow := rfl
@[simp] theorem Core.chan_setSpWord (k : Core) (a : Nat) (v : Word) : (k.setSpWord a v).chan = k.chan := rfl
@[simp] theorem Core.slotAt_setSpWord (k : Core) (a : Nat) (v : Word) : (k.setSpWord a v).slotAt = k.slotAt := rfl
@[simp] theorem Core.edgeAt_setSpWord (k : Core) (a : Nat) (v : Word) : (k.setSpWord a v).edgeAt = k.edgeAt := rfl
@[simp] theorem Core.locAt_setSpWord (k : Core) (a : Nat) (v : Word) : (k.setSpWord a v).locAt = k.locAt := rfl
@[simp] theorem Core.dmaMsgs_setSpWord (k : Core) (a : Nat) (v : Word) : (k.setSpWord a v).dmaMsgs = k.dmaMsgs := rfl
@[simp] theorem Core.vset_setSpWord (k : Core) (a : Nat) (v : Word) : (k.setSpWord a v).vset = k.vset := rfl
@[simp] theorem Core.gots_setSpWord (k : Core) (a : Nat) (v : Word) : (k.setSpWord a v).gots = k.gots := rfl
@[simp] theorem Core.served_setSpWord (k : Core) (a : Nat) (v : Word) : (k.setSpWord a v).served = k.served := rfl
@[simp] theorem Core.xlate_setSpWord (k : Core) (a : Nat) (v : Word) : (k.setSpWord a v).xlate = k.xlate := rfl
@[simp] theorem Core.conn_setSpWord (k : Core) (a : Nat) (v : Word) : (k.setSpWord a v).conn = k.conn := rfl
@[simp] theorem Core.connSeq_setSpWord (k : Core) (a : Nat) (v : Word) : (k.setSpWord a v).connSeq = k.connSeq := rfl
@[simp] theorem Core.ring_setSpWord (k : Core) (a : Nat) (v : Word) : (k.setSpWord a v).ring = k.ring := rfl
@[simp] theorem Core.owed_setSpWord (k : Core) (a : Nat) (v : Word) : (k.setSpWord a v).owed = k.owed := rfl
@[simp] theorem Core.dying_setSpWord (k : Core) (a : Nat) (v : Word) : (k.setSpWord a v).dying = k.dying := rfl
@[simp] theorem Core.oldBed_setSpWord (k : Core) (a : Nat) (v : Word) : (k.setSpWord a v).oldBed = k.oldBed := rfl
@[simp] theorem Core.front_setSpWord (k : Core) (a : Nat) (v : Word) : (k.setSpWord a v).front = k.front := rfl
@[simp] theorem Core.back_setSpWord (k : Core) (a : Nat) (v : Word) : (k.setSpWord a v).back = k.back := rfl
@[simp] theorem Core.swN_setSpWord (k : Core) (a : Nat) (v : Word) : (k.setSpWord a v).swN = k.swN := rfl
@[simp] theorem Core.snapBar_setSpWord (k : Core) (a : Nat) (v : Word) : (k.setSpWord a v).snapBar = k.snapBar := rfl
@[simp] theorem Core.snapPh_setSpWord (k : Core) (a : Nat) (v : Word) : (k.setSpWord a v).snapPh = k.snapPh := rfl
@[simp] theorem Core.snapTlo_setSpWord (k : Core) (a : Nat) (v : Word) : (k.setSpWord a v).snapTlo = k.snapTlo := rfl
@[simp] theorem Core.snapThi_setSpWord (k : Core) (a : Nat) (v : Word) : (k.setSpWord a v).snapThi = k.snapThi := rfl
@[simp] theorem Core.trace_setSpWord (k : Core) (a : Nat) (v : Word) : (k.setSpWord a v).trace = k.trace := rfl
@[simp] theorem Core.tarm_setSpWord (k : Core) (a : Nat) (v : Word) : (k.setSpWord a v).tarm = k.tarm := rfl
@[simp] theorem Core.topen_setSpWord (k : Core) (a : Nat) (v : Word) : (k.setSpWord a v).topen = k.topen := rfl
@[simp] theorem Core.tqCyc_setSpWord (k : Core) (a : Nat) (v : Word) : (k.setSpWord a v).tqCyc = k.tqCyc := rfl
@[simp] theorem Core.tqFill_setSpWord (k : Core) (a : Nat) (v : Word) : (k.setSpWord a v).tqFill = k.tqFill := rfl
@[simp] theorem Core.evs_setSpWord (k : Core) (a : Nat) (v : Word) : (k.setSpWord a v).evs = k.evs := rfl

@[simp] theorem Core.win_setPsn (k : Core) (l : Nat) (b : Bool) : (k.setPsn l b).win = k.win := rfl
@[simp] theorem Core.thr_setPsn (k : Core) (l : Nat) (b : Bool) : (k.setPsn l b).thr = k.thr := rfl
@[simp] theorem Core.pm_setPsn (k : Core) (l : Nat) (b : Bool) : (k.setPsn l b).pm = k.pm := rfl
@[simp] theorem Core.pmPar_setPsn (k : Core) (l : Nat) (b : Bool) : (k.setPsn l b).pmPar = k.pmPar := rfl
@[simp] theorem Core.sp_setPsn (k : Core) (l : Nat) (b : Bool) : (k.setPsn l b).sp = k.sp := rfl
@[simp] theorem Core.spPar_setPsn (k : Core) (l : Nat) (b : Bool) : (k.setPsn l b).spPar = k.spPar := rfl
@[simp] theorem Core.valid_setPsn (k : Core) (l : Nat) (b : Bool) : (k.setPsn l b).valid = k.valid := rfl
@[simp] theorem Core.lockq_setPsn (k : Core) (l : Nat) (b : Bool) : (k.setPsn l b).lockq = k.lockq := rfl
@[simp] theorem Core.fsq_setPsn (k : Core) (l : Nat) (b : Bool) : (k.setPsn l b).fsq = k.fsq := rfl
@[simp] theorem Core.fsqOvf_setPsn (k : Core) (l : Nat) (b : Bool) : (k.setPsn l b).fsqOvf = k.fsqOvf := rfl
@[simp] theorem Core.flags_setPsn (k : Core) (l : Nat) (b : Bool) : (k.setPsn l b).flags = k.flags := rfl
@[simp] theorem Core.fcyc_setPsn (k : Core) (l : Nat) (b : Bool) : (k.setPsn l b).fcyc = k.fcyc := rfl
@[simp] theorem Core.nst_setPsn (k : Core) (l : Nat) (b : Bool) : (k.setPsn l b).nst = k.nst := rfl
@[simp] theorem Core.bdata_setPsn (k : Core) (l : Nat) (b : Bool) : (k.setPsn l b).bdata = k.bdata := rfl
@[simp] theorem Core.bscale_setPsn (k : Core) (l : Nat) (b : Bool) : (k.setPsn l b).bscale = k.bscale := rfl
@[simp] theorem Core.bext_setPsn (k : Core) (l : Nat) (b : Bool) : (k.setPsn l b).bext = k.bext := rfl
@[simp] theorem Core.tq_setPsn (k : Core) (l : Nat) (b : Bool) : (k.setPsn l b).tq = k.tq := rfl
@[simp] theorem Core.tseq_setPsn (k : Core) (l : Nat) (b : Bool) : (k.setPsn l b).tseq = k.tseq := rfl
@[simp] theorem Core.xcap_setPsn (k : Core) (l : Nat) (b : Bool) : (k.setPsn l b).xcap = k.xcap := rfl
@[simp] theorem Core.stage_setPsn (k : Core) (l : Nat) (b : Bool) : (k.setPsn l b).stage = k.stage := rfl
@[simp] theorem Core.tdone_setPsn (k : Core) (l : Nat) (b : Bool) : (k.setPsn l b).tdone = k.tdone := rfl
@[simp] theorem Core.trow_setPsn (k : Core) (l : Nat) (b : Bool) : (k.setPsn l b).trow = k.trow := rfl
@[simp] theorem Core.chan_setPsn (k : Core) (l : Nat) (b : Bool) : (k.setPsn l b).chan = k.chan := rfl
@[simp] theorem Core.slotAt_setPsn (k : Core) (l : Nat) (b : Bool) : (k.setPsn l b).slotAt = k.slotAt := rfl
@[simp] theorem Core.edgeAt_setPsn (k : Core) (l : Nat) (b : Bool) : (k.setPsn l b).edgeAt = k.edgeAt := rfl
@[simp] theorem Core.locAt_setPsn (k : Core) (l : Nat) (b : Bool) : (k.setPsn l b).locAt = k.locAt := rfl
@[simp] theorem Core.dmaMsgs_setPsn (k : Core) (l : Nat) (b : Bool) : (k.setPsn l b).dmaMsgs = k.dmaMsgs := rfl
@[simp] theorem Core.vset_setPsn (k : Core) (l : Nat) (b : Bool) : (k.setPsn l b).vset = k.vset := rfl
@[simp] theorem Core.gots_setPsn (k : Core) (l : Nat) (b : Bool) : (k.setPsn l b).gots = k.gots := rfl
@[simp] theorem Core.served_setPsn (k : Core) (l : Nat) (b : Bool) : (k.setPsn l b).served = k.served := rfl
@[simp] theorem Core.xlate_setPsn (k : Core) (l : Nat) (b : Bool) : (k.setPsn l b).xlate = k.xlate := rfl
@[simp] theorem Core.conn_setPsn (k : Core) (l : Nat) (b : Bool) : (k.setPsn l b).conn = k.conn := rfl
@[simp] theorem Core.connSeq_setPsn (k : Core) (l : Nat) (b : Bool) : (k.setPsn l b).connSeq = k.connSeq := rfl
@[simp] theorem Core.ring_setPsn (k : Core) (l : Nat) (b : Bool) : (k.setPsn l b).ring = k.ring := rfl
@[simp] theorem Core.owed_setPsn (k : Core) (l : Nat) (b : Bool) : (k.setPsn l b).owed = k.owed := rfl
@[simp] theorem Core.dying_setPsn (k : Core) (l : Nat) (b : Bool) : (k.setPsn l b).dying = k.dying := rfl
@[simp] theorem Core.oldBed_setPsn (k : Core) (l : Nat) (b : Bool) : (k.setPsn l b).oldBed = k.oldBed := rfl
@[simp] theorem Core.front_setPsn (k : Core) (l : Nat) (b : Bool) : (k.setPsn l b).front = k.front := rfl
@[simp] theorem Core.back_setPsn (k : Core) (l : Nat) (b : Bool) : (k.setPsn l b).back = k.back := rfl
@[simp] theorem Core.swN_setPsn (k : Core) (l : Nat) (b : Bool) : (k.setPsn l b).swN = k.swN := rfl
@[simp] theorem Core.snapBar_setPsn (k : Core) (l : Nat) (b : Bool) : (k.setPsn l b).snapBar = k.snapBar := rfl
@[simp] theorem Core.snapPh_setPsn (k : Core) (l : Nat) (b : Bool) : (k.setPsn l b).snapPh = k.snapPh := rfl
@[simp] theorem Core.snapTlo_setPsn (k : Core) (l : Nat) (b : Bool) : (k.setPsn l b).snapTlo = k.snapTlo := rfl
@[simp] theorem Core.snapThi_setPsn (k : Core) (l : Nat) (b : Bool) : (k.setPsn l b).snapThi = k.snapThi := rfl
@[simp] theorem Core.trace_setPsn (k : Core) (l : Nat) (b : Bool) : (k.setPsn l b).trace = k.trace := rfl
@[simp] theorem Core.tarm_setPsn (k : Core) (l : Nat) (b : Bool) : (k.setPsn l b).tarm = k.tarm := rfl
@[simp] theorem Core.topen_setPsn (k : Core) (l : Nat) (b : Bool) : (k.setPsn l b).topen = k.topen := rfl
@[simp] theorem Core.tqCyc_setPsn (k : Core) (l : Nat) (b : Bool) : (k.setPsn l b).tqCyc = k.tqCyc := rfl
@[simp] theorem Core.tqFill_setPsn (k : Core) (l : Nat) (b : Bool) : (k.setPsn l b).tqFill = k.tqFill := rfl
@[simp] theorem Core.evs_setPsn (k : Core) (l : Nat) (b : Bool) : (k.setPsn l b).evs = k.evs := rfl

@[simp] theorem Core.win_setValid (k : Core) (l : Nat) (b : Bool) : (k.setValid l b).win = k.win := rfl
@[simp] theorem Core.thr_setValid (k : Core) (l : Nat) (b : Bool) : (k.setValid l b).thr = k.thr := rfl
@[simp] theorem Core.pm_setValid (k : Core) (l : Nat) (b : Bool) : (k.setValid l b).pm = k.pm := rfl
@[simp] theorem Core.pmPar_setValid (k : Core) (l : Nat) (b : Bool) : (k.setValid l b).pmPar = k.pmPar := rfl
@[simp] theorem Core.sp_setValid (k : Core) (l : Nat) (b : Bool) : (k.setValid l b).sp = k.sp := rfl
@[simp] theorem Core.spPar_setValid (k : Core) (l : Nat) (b : Bool) : (k.setValid l b).spPar = k.spPar := rfl
@[simp] theorem Core.psn_setValid (k : Core) (l : Nat) (b : Bool) : (k.setValid l b).psn = k.psn := rfl
@[simp] theorem Core.lockq_setValid (k : Core) (l : Nat) (b : Bool) : (k.setValid l b).lockq = k.lockq := rfl
@[simp] theorem Core.fsq_setValid (k : Core) (l : Nat) (b : Bool) : (k.setValid l b).fsq = k.fsq := rfl
@[simp] theorem Core.fsqOvf_setValid (k : Core) (l : Nat) (b : Bool) : (k.setValid l b).fsqOvf = k.fsqOvf := rfl
@[simp] theorem Core.flags_setValid (k : Core) (l : Nat) (b : Bool) : (k.setValid l b).flags = k.flags := rfl
@[simp] theorem Core.fcyc_setValid (k : Core) (l : Nat) (b : Bool) : (k.setValid l b).fcyc = k.fcyc := rfl
@[simp] theorem Core.nst_setValid (k : Core) (l : Nat) (b : Bool) : (k.setValid l b).nst = k.nst := rfl
@[simp] theorem Core.bdata_setValid (k : Core) (l : Nat) (b : Bool) : (k.setValid l b).bdata = k.bdata := rfl
@[simp] theorem Core.bscale_setValid (k : Core) (l : Nat) (b : Bool) : (k.setValid l b).bscale = k.bscale := rfl
@[simp] theorem Core.bext_setValid (k : Core) (l : Nat) (b : Bool) : (k.setValid l b).bext = k.bext := rfl
@[simp] theorem Core.tq_setValid (k : Core) (l : Nat) (b : Bool) : (k.setValid l b).tq = k.tq := rfl
@[simp] theorem Core.tseq_setValid (k : Core) (l : Nat) (b : Bool) : (k.setValid l b).tseq = k.tseq := rfl
@[simp] theorem Core.xcap_setValid (k : Core) (l : Nat) (b : Bool) : (k.setValid l b).xcap = k.xcap := rfl
@[simp] theorem Core.stage_setValid (k : Core) (l : Nat) (b : Bool) : (k.setValid l b).stage = k.stage := rfl
@[simp] theorem Core.tdone_setValid (k : Core) (l : Nat) (b : Bool) : (k.setValid l b).tdone = k.tdone := rfl
@[simp] theorem Core.trow_setValid (k : Core) (l : Nat) (b : Bool) : (k.setValid l b).trow = k.trow := rfl
@[simp] theorem Core.chan_setValid (k : Core) (l : Nat) (b : Bool) : (k.setValid l b).chan = k.chan := rfl
@[simp] theorem Core.slotAt_setValid (k : Core) (l : Nat) (b : Bool) : (k.setValid l b).slotAt = k.slotAt := rfl
@[simp] theorem Core.edgeAt_setValid (k : Core) (l : Nat) (b : Bool) : (k.setValid l b).edgeAt = k.edgeAt := rfl
@[simp] theorem Core.locAt_setValid (k : Core) (l : Nat) (b : Bool) : (k.setValid l b).locAt = k.locAt := rfl
@[simp] theorem Core.dmaMsgs_setValid (k : Core) (l : Nat) (b : Bool) : (k.setValid l b).dmaMsgs = k.dmaMsgs := rfl
@[simp] theorem Core.vset_setValid (k : Core) (l : Nat) (b : Bool) : (k.setValid l b).vset = k.vset := rfl
@[simp] theorem Core.gots_setValid (k : Core) (l : Nat) (b : Bool) : (k.setValid l b).gots = k.gots := rfl
@[simp] theorem Core.served_setValid (k : Core) (l : Nat) (b : Bool) : (k.setValid l b).served = k.served := rfl
@[simp] theorem Core.xlate_setValid (k : Core) (l : Nat) (b : Bool) : (k.setValid l b).xlate = k.xlate := rfl
@[simp] theorem Core.conn_setValid (k : Core) (l : Nat) (b : Bool) : (k.setValid l b).conn = k.conn := rfl
@[simp] theorem Core.connSeq_setValid (k : Core) (l : Nat) (b : Bool) : (k.setValid l b).connSeq = k.connSeq := rfl
@[simp] theorem Core.ring_setValid (k : Core) (l : Nat) (b : Bool) : (k.setValid l b).ring = k.ring := rfl
@[simp] theorem Core.owed_setValid (k : Core) (l : Nat) (b : Bool) : (k.setValid l b).owed = k.owed := rfl
@[simp] theorem Core.dying_setValid (k : Core) (l : Nat) (b : Bool) : (k.setValid l b).dying = k.dying := rfl
@[simp] theorem Core.oldBed_setValid (k : Core) (l : Nat) (b : Bool) : (k.setValid l b).oldBed = k.oldBed := rfl
@[simp] theorem Core.front_setValid (k : Core) (l : Nat) (b : Bool) : (k.setValid l b).front = k.front := rfl
@[simp] theorem Core.back_setValid (k : Core) (l : Nat) (b : Bool) : (k.setValid l b).back = k.back := rfl
@[simp] theorem Core.swN_setValid (k : Core) (l : Nat) (b : Bool) : (k.setValid l b).swN = k.swN := rfl
@[simp] theorem Core.snapBar_setValid (k : Core) (l : Nat) (b : Bool) : (k.setValid l b).snapBar = k.snapBar := rfl
@[simp] theorem Core.snapPh_setValid (k : Core) (l : Nat) (b : Bool) : (k.setValid l b).snapPh = k.snapPh := rfl
@[simp] theorem Core.snapTlo_setValid (k : Core) (l : Nat) (b : Bool) : (k.setValid l b).snapTlo = k.snapTlo := rfl
@[simp] theorem Core.snapThi_setValid (k : Core) (l : Nat) (b : Bool) : (k.setValid l b).snapThi = k.snapThi := rfl
@[simp] theorem Core.trace_setValid (k : Core) (l : Nat) (b : Bool) : (k.setValid l b).trace = k.trace := rfl
@[simp] theorem Core.tarm_setValid (k : Core) (l : Nat) (b : Bool) : (k.setValid l b).tarm = k.tarm := rfl
@[simp] theorem Core.topen_setValid (k : Core) (l : Nat) (b : Bool) : (k.setValid l b).topen = k.topen := rfl
@[simp] theorem Core.tqCyc_setValid (k : Core) (l : Nat) (b : Bool) : (k.setValid l b).tqCyc = k.tqCyc := rfl
@[simp] theorem Core.tqFill_setValid (k : Core) (l : Nat) (b : Bool) : (k.setValid l b).tqFill = k.tqFill := rfl
@[simp] theorem Core.evs_setValid (k : Core) (l : Nat) (b : Bool) : (k.setValid l b).evs = k.evs := rfl

@[simp] theorem Core.thr_setW (k : Core) (o : Nat) (w : Word) : (k.setW o w).thr = k.thr := rfl
@[simp] theorem Core.pm_setW (k : Core) (o : Nat) (w : Word) : (k.setW o w).pm = k.pm := rfl
@[simp] theorem Core.pmPar_setW (k : Core) (o : Nat) (w : Word) : (k.setW o w).pmPar = k.pmPar := rfl
@[simp] theorem Core.sp_setW (k : Core) (o : Nat) (w : Word) : (k.setW o w).sp = k.sp := rfl
@[simp] theorem Core.spPar_setW (k : Core) (o : Nat) (w : Word) : (k.setW o w).spPar = k.spPar := rfl
@[simp] theorem Core.valid_setW (k : Core) (o : Nat) (w : Word) : (k.setW o w).valid = k.valid := rfl
@[simp] theorem Core.psn_setW (k : Core) (o : Nat) (w : Word) : (k.setW o w).psn = k.psn := rfl
@[simp] theorem Core.lockq_setW (k : Core) (o : Nat) (w : Word) : (k.setW o w).lockq = k.lockq := rfl
@[simp] theorem Core.fsq_setW (k : Core) (o : Nat) (w : Word) : (k.setW o w).fsq = k.fsq := rfl
@[simp] theorem Core.fsqOvf_setW (k : Core) (o : Nat) (w : Word) : (k.setW o w).fsqOvf = k.fsqOvf := rfl
@[simp] theorem Core.flags_setW (k : Core) (o : Nat) (w : Word) : (k.setW o w).flags = k.flags := rfl
@[simp] theorem Core.fcyc_setW (k : Core) (o : Nat) (w : Word) : (k.setW o w).fcyc = k.fcyc := rfl
@[simp] theorem Core.nst_setW (k : Core) (o : Nat) (w : Word) : (k.setW o w).nst = k.nst := rfl
@[simp] theorem Core.bdata_setW (k : Core) (o : Nat) (w : Word) : (k.setW o w).bdata = k.bdata := rfl
@[simp] theorem Core.bscale_setW (k : Core) (o : Nat) (w : Word) : (k.setW o w).bscale = k.bscale := rfl
@[simp] theorem Core.bext_setW (k : Core) (o : Nat) (w : Word) : (k.setW o w).bext = k.bext := rfl
@[simp] theorem Core.tq_setW (k : Core) (o : Nat) (w : Word) : (k.setW o w).tq = k.tq := rfl
@[simp] theorem Core.tseq_setW (k : Core) (o : Nat) (w : Word) : (k.setW o w).tseq = k.tseq := rfl
@[simp] theorem Core.xcap_setW (k : Core) (o : Nat) (w : Word) : (k.setW o w).xcap = k.xcap := rfl
@[simp] theorem Core.stage_setW (k : Core) (o : Nat) (w : Word) : (k.setW o w).stage = k.stage := rfl
@[simp] theorem Core.tdone_setW (k : Core) (o : Nat) (w : Word) : (k.setW o w).tdone = k.tdone := rfl
@[simp] theorem Core.trow_setW (k : Core) (o : Nat) (w : Word) : (k.setW o w).trow = k.trow := rfl
@[simp] theorem Core.chan_setW (k : Core) (o : Nat) (w : Word) : (k.setW o w).chan = k.chan := rfl
@[simp] theorem Core.slotAt_setW (k : Core) (o : Nat) (w : Word) : (k.setW o w).slotAt = k.slotAt := rfl
@[simp] theorem Core.edgeAt_setW (k : Core) (o : Nat) (w : Word) : (k.setW o w).edgeAt = k.edgeAt := rfl
@[simp] theorem Core.locAt_setW (k : Core) (o : Nat) (w : Word) : (k.setW o w).locAt = k.locAt := rfl
@[simp] theorem Core.dmaMsgs_setW (k : Core) (o : Nat) (w : Word) : (k.setW o w).dmaMsgs = k.dmaMsgs := rfl
@[simp] theorem Core.vset_setW (k : Core) (o : Nat) (w : Word) : (k.setW o w).vset = k.vset := rfl
@[simp] theorem Core.gots_setW (k : Core) (o : Nat) (w : Word) : (k.setW o w).gots = k.gots := rfl
@[simp] theorem Core.served_setW (k : Core) (o : Nat) (w : Word) : (k.setW o w).served = k.served := rfl
@[simp] theorem Core.xlate_setW (k : Core) (o : Nat) (w : Word) : (k.setW o w).xlate = k.xlate := rfl
@[simp] theorem Core.conn_setW (k : Core) (o : Nat) (w : Word) : (k.setW o w).conn = k.conn := rfl
@[simp] theorem Core.connSeq_setW (k : Core) (o : Nat) (w : Word) : (k.setW o w).connSeq = k.connSeq := rfl
@[simp] theorem Core.ring_setW (k : Core) (o : Nat) (w : Word) : (k.setW o w).ring = k.ring := rfl
@[simp] theorem Core.owed_setW (k : Core) (o : Nat) (w : Word) : (k.setW o w).owed = k.owed := rfl
@[simp] theorem Core.dying_setW (k : Core) (o : Nat) (w : Word) : (k.setW o w).dying = k.dying := rfl
@[simp] theorem Core.oldBed_setW (k : Core) (o : Nat) (w : Word) : (k.setW o w).oldBed = k.oldBed := rfl
@[simp] theorem Core.front_setW (k : Core) (o : Nat) (w : Word) : (k.setW o w).front = k.front := rfl
@[simp] theorem Core.back_setW (k : Core) (o : Nat) (w : Word) : (k.setW o w).back = k.back := rfl
@[simp] theorem Core.swN_setW (k : Core) (o : Nat) (w : Word) : (k.setW o w).swN = k.swN := rfl
@[simp] theorem Core.snapBar_setW (k : Core) (o : Nat) (w : Word) : (k.setW o w).snapBar = k.snapBar := rfl
@[simp] theorem Core.snapPh_setW (k : Core) (o : Nat) (w : Word) : (k.setW o w).snapPh = k.snapPh := rfl
@[simp] theorem Core.snapTlo_setW (k : Core) (o : Nat) (w : Word) : (k.setW o w).snapTlo = k.snapTlo := rfl
@[simp] theorem Core.snapThi_setW (k : Core) (o : Nat) (w : Word) : (k.setW o w).snapThi = k.snapThi := rfl
@[simp] theorem Core.trace_setW (k : Core) (o : Nat) (w : Word) : (k.setW o w).trace = k.trace := rfl
@[simp] theorem Core.tarm_setW (k : Core) (o : Nat) (w : Word) : (k.setW o w).tarm = k.tarm := rfl
@[simp] theorem Core.topen_setW (k : Core) (o : Nat) (w : Word) : (k.setW o w).topen = k.topen := rfl
@[simp] theorem Core.tqCyc_setW (k : Core) (o : Nat) (w : Word) : (k.setW o w).tqCyc = k.tqCyc := rfl
@[simp] theorem Core.tqFill_setW (k : Core) (o : Nat) (w : Word) : (k.setW o w).tqFill = k.tqFill := rfl
@[simp] theorem Core.evs_setW (k : Core) (o : Nat) (w : Word) : (k.setW o w).evs = k.evs := rfl

@[simp] theorem Core.thr_setFld (k : Core) (f : Fld) (v : Nat) : (k.setFld f v).thr = k.thr := rfl
@[simp] theorem Core.pm_setFld (k : Core) (f : Fld) (v : Nat) : (k.setFld f v).pm = k.pm := rfl
@[simp] theorem Core.pmPar_setFld (k : Core) (f : Fld) (v : Nat) : (k.setFld f v).pmPar = k.pmPar := rfl
@[simp] theorem Core.sp_setFld (k : Core) (f : Fld) (v : Nat) : (k.setFld f v).sp = k.sp := rfl
@[simp] theorem Core.spPar_setFld (k : Core) (f : Fld) (v : Nat) : (k.setFld f v).spPar = k.spPar := rfl
@[simp] theorem Core.valid_setFld (k : Core) (f : Fld) (v : Nat) : (k.setFld f v).valid = k.valid := rfl
@[simp] theorem Core.psn_setFld (k : Core) (f : Fld) (v : Nat) : (k.setFld f v).psn = k.psn := rfl
@[simp] theorem Core.lockq_setFld (k : Core) (f : Fld) (v : Nat) : (k.setFld f v).lockq = k.lockq := rfl
@[simp] theorem Core.fsq_setFld (k : Core) (f : Fld) (v : Nat) : (k.setFld f v).fsq = k.fsq := rfl
@[simp] theorem Core.fsqOvf_setFld (k : Core) (f : Fld) (v : Nat) : (k.setFld f v).fsqOvf = k.fsqOvf := rfl
@[simp] theorem Core.flags_setFld (k : Core) (f : Fld) (v : Nat) : (k.setFld f v).flags = k.flags := rfl
@[simp] theorem Core.fcyc_setFld (k : Core) (f : Fld) (v : Nat) : (k.setFld f v).fcyc = k.fcyc := rfl
@[simp] theorem Core.nst_setFld (k : Core) (f : Fld) (v : Nat) : (k.setFld f v).nst = k.nst := rfl
@[simp] theorem Core.bdata_setFld (k : Core) (f : Fld) (v : Nat) : (k.setFld f v).bdata = k.bdata := rfl
@[simp] theorem Core.bscale_setFld (k : Core) (f : Fld) (v : Nat) : (k.setFld f v).bscale = k.bscale := rfl
@[simp] theorem Core.bext_setFld (k : Core) (f : Fld) (v : Nat) : (k.setFld f v).bext = k.bext := rfl
@[simp] theorem Core.tq_setFld (k : Core) (f : Fld) (v : Nat) : (k.setFld f v).tq = k.tq := rfl
@[simp] theorem Core.tseq_setFld (k : Core) (f : Fld) (v : Nat) : (k.setFld f v).tseq = k.tseq := rfl
@[simp] theorem Core.xcap_setFld (k : Core) (f : Fld) (v : Nat) : (k.setFld f v).xcap = k.xcap := rfl
@[simp] theorem Core.stage_setFld (k : Core) (f : Fld) (v : Nat) : (k.setFld f v).stage = k.stage := rfl
@[simp] theorem Core.tdone_setFld (k : Core) (f : Fld) (v : Nat) : (k.setFld f v).tdone = k.tdone := rfl
@[simp] theorem Core.trow_setFld (k : Core) (f : Fld) (v : Nat) : (k.setFld f v).trow = k.trow := rfl
@[simp] theorem Core.chan_setFld (k : Core) (f : Fld) (v : Nat) : (k.setFld f v).chan = k.chan := rfl
@[simp] theorem Core.slotAt_setFld (k : Core) (f : Fld) (v : Nat) : (k.setFld f v).slotAt = k.slotAt := rfl
@[simp] theorem Core.edgeAt_setFld (k : Core) (f : Fld) (v : Nat) : (k.setFld f v).edgeAt = k.edgeAt := rfl
@[simp] theorem Core.locAt_setFld (k : Core) (f : Fld) (v : Nat) : (k.setFld f v).locAt = k.locAt := rfl
@[simp] theorem Core.dmaMsgs_setFld (k : Core) (f : Fld) (v : Nat) : (k.setFld f v).dmaMsgs = k.dmaMsgs := rfl
@[simp] theorem Core.vset_setFld (k : Core) (f : Fld) (v : Nat) : (k.setFld f v).vset = k.vset := rfl
@[simp] theorem Core.gots_setFld (k : Core) (f : Fld) (v : Nat) : (k.setFld f v).gots = k.gots := rfl
@[simp] theorem Core.served_setFld (k : Core) (f : Fld) (v : Nat) : (k.setFld f v).served = k.served := rfl
@[simp] theorem Core.xlate_setFld (k : Core) (f : Fld) (v : Nat) : (k.setFld f v).xlate = k.xlate := rfl
@[simp] theorem Core.conn_setFld (k : Core) (f : Fld) (v : Nat) : (k.setFld f v).conn = k.conn := rfl
@[simp] theorem Core.connSeq_setFld (k : Core) (f : Fld) (v : Nat) : (k.setFld f v).connSeq = k.connSeq := rfl
@[simp] theorem Core.ring_setFld (k : Core) (f : Fld) (v : Nat) : (k.setFld f v).ring = k.ring := rfl
@[simp] theorem Core.owed_setFld (k : Core) (f : Fld) (v : Nat) : (k.setFld f v).owed = k.owed := rfl
@[simp] theorem Core.dying_setFld (k : Core) (f : Fld) (v : Nat) : (k.setFld f v).dying = k.dying := rfl
@[simp] theorem Core.oldBed_setFld (k : Core) (f : Fld) (v : Nat) : (k.setFld f v).oldBed = k.oldBed := rfl
@[simp] theorem Core.front_setFld (k : Core) (f : Fld) (v : Nat) : (k.setFld f v).front = k.front := rfl
@[simp] theorem Core.back_setFld (k : Core) (f : Fld) (v : Nat) : (k.setFld f v).back = k.back := rfl
@[simp] theorem Core.swN_setFld (k : Core) (f : Fld) (v : Nat) : (k.setFld f v).swN = k.swN := rfl
@[simp] theorem Core.snapBar_setFld (k : Core) (f : Fld) (v : Nat) : (k.setFld f v).snapBar = k.snapBar := rfl
@[simp] theorem Core.snapPh_setFld (k : Core) (f : Fld) (v : Nat) : (k.setFld f v).snapPh = k.snapPh := rfl
@[simp] theorem Core.snapTlo_setFld (k : Core) (f : Fld) (v : Nat) : (k.setFld f v).snapTlo = k.snapTlo := rfl
@[simp] theorem Core.snapThi_setFld (k : Core) (f : Fld) (v : Nat) : (k.setFld f v).snapThi = k.snapThi := rfl
@[simp] theorem Core.trace_setFld (k : Core) (f : Fld) (v : Nat) : (k.setFld f v).trace = k.trace := rfl
@[simp] theorem Core.tarm_setFld (k : Core) (f : Fld) (v : Nat) : (k.setFld f v).tarm = k.tarm := rfl
@[simp] theorem Core.topen_setFld (k : Core) (f : Fld) (v : Nat) : (k.setFld f v).topen = k.topen := rfl
@[simp] theorem Core.tqCyc_setFld (k : Core) (f : Fld) (v : Nat) : (k.setFld f v).tqCyc = k.tqCyc := rfl
@[simp] theorem Core.tqFill_setFld (k : Core) (f : Fld) (v : Nat) : (k.setFld f v).tqFill = k.tqFill := rfl
@[simp] theorem Core.evs_setFld (k : Core) (f : Fld) (v : Nat) : (k.setFld f v).evs = k.evs := rfl

@[simp] theorem Core.win_setTh (k : Core) (t : Thr) (x : Thread) : (k.setTh t x).win = k.win := rfl
@[simp] theorem Core.pm_setTh (k : Core) (t : Thr) (x : Thread) : (k.setTh t x).pm = k.pm := rfl
@[simp] theorem Core.pmPar_setTh (k : Core) (t : Thr) (x : Thread) : (k.setTh t x).pmPar = k.pmPar := rfl
@[simp] theorem Core.sp_setTh (k : Core) (t : Thr) (x : Thread) : (k.setTh t x).sp = k.sp := rfl
@[simp] theorem Core.spPar_setTh (k : Core) (t : Thr) (x : Thread) : (k.setTh t x).spPar = k.spPar := rfl
@[simp] theorem Core.valid_setTh (k : Core) (t : Thr) (x : Thread) : (k.setTh t x).valid = k.valid := rfl
@[simp] theorem Core.psn_setTh (k : Core) (t : Thr) (x : Thread) : (k.setTh t x).psn = k.psn := rfl
@[simp] theorem Core.lockq_setTh (k : Core) (t : Thr) (x : Thread) : (k.setTh t x).lockq = k.lockq := rfl
@[simp] theorem Core.fsq_setTh (k : Core) (t : Thr) (x : Thread) : (k.setTh t x).fsq = k.fsq := rfl
@[simp] theorem Core.fsqOvf_setTh (k : Core) (t : Thr) (x : Thread) : (k.setTh t x).fsqOvf = k.fsqOvf := rfl
@[simp] theorem Core.flags_setTh (k : Core) (t : Thr) (x : Thread) : (k.setTh t x).flags = k.flags := rfl
@[simp] theorem Core.fcyc_setTh (k : Core) (t : Thr) (x : Thread) : (k.setTh t x).fcyc = k.fcyc := rfl
@[simp] theorem Core.nst_setTh (k : Core) (t : Thr) (x : Thread) : (k.setTh t x).nst = k.nst := rfl
@[simp] theorem Core.bdata_setTh (k : Core) (t : Thr) (x : Thread) : (k.setTh t x).bdata = k.bdata := rfl
@[simp] theorem Core.bscale_setTh (k : Core) (t : Thr) (x : Thread) : (k.setTh t x).bscale = k.bscale := rfl
@[simp] theorem Core.bext_setTh (k : Core) (t : Thr) (x : Thread) : (k.setTh t x).bext = k.bext := rfl
@[simp] theorem Core.tq_setTh (k : Core) (t : Thr) (x : Thread) : (k.setTh t x).tq = k.tq := rfl
@[simp] theorem Core.tseq_setTh (k : Core) (t : Thr) (x : Thread) : (k.setTh t x).tseq = k.tseq := rfl
@[simp] theorem Core.xcap_setTh (k : Core) (t : Thr) (x : Thread) : (k.setTh t x).xcap = k.xcap := rfl
@[simp] theorem Core.stage_setTh (k : Core) (t : Thr) (x : Thread) : (k.setTh t x).stage = k.stage := rfl
@[simp] theorem Core.tdone_setTh (k : Core) (t : Thr) (x : Thread) : (k.setTh t x).tdone = k.tdone := rfl
@[simp] theorem Core.trow_setTh (k : Core) (t : Thr) (x : Thread) : (k.setTh t x).trow = k.trow := rfl
@[simp] theorem Core.chan_setTh (k : Core) (t : Thr) (x : Thread) : (k.setTh t x).chan = k.chan := rfl
@[simp] theorem Core.slotAt_setTh (k : Core) (t : Thr) (x : Thread) : (k.setTh t x).slotAt = k.slotAt := rfl
@[simp] theorem Core.edgeAt_setTh (k : Core) (t : Thr) (x : Thread) : (k.setTh t x).edgeAt = k.edgeAt := rfl
@[simp] theorem Core.locAt_setTh (k : Core) (t : Thr) (x : Thread) : (k.setTh t x).locAt = k.locAt := rfl
@[simp] theorem Core.dmaMsgs_setTh (k : Core) (t : Thr) (x : Thread) : (k.setTh t x).dmaMsgs = k.dmaMsgs := rfl
@[simp] theorem Core.vset_setTh (k : Core) (t : Thr) (x : Thread) : (k.setTh t x).vset = k.vset := rfl
@[simp] theorem Core.gots_setTh (k : Core) (t : Thr) (x : Thread) : (k.setTh t x).gots = k.gots := rfl
@[simp] theorem Core.served_setTh (k : Core) (t : Thr) (x : Thread) : (k.setTh t x).served = k.served := rfl
@[simp] theorem Core.xlate_setTh (k : Core) (t : Thr) (x : Thread) : (k.setTh t x).xlate = k.xlate := rfl
@[simp] theorem Core.conn_setTh (k : Core) (t : Thr) (x : Thread) : (k.setTh t x).conn = k.conn := rfl
@[simp] theorem Core.connSeq_setTh (k : Core) (t : Thr) (x : Thread) : (k.setTh t x).connSeq = k.connSeq := rfl
@[simp] theorem Core.ring_setTh (k : Core) (t : Thr) (x : Thread) : (k.setTh t x).ring = k.ring := rfl
@[simp] theorem Core.owed_setTh (k : Core) (t : Thr) (x : Thread) : (k.setTh t x).owed = k.owed := rfl
@[simp] theorem Core.dying_setTh (k : Core) (t : Thr) (x : Thread) : (k.setTh t x).dying = k.dying := rfl
@[simp] theorem Core.oldBed_setTh (k : Core) (t : Thr) (x : Thread) : (k.setTh t x).oldBed = k.oldBed := rfl
@[simp] theorem Core.front_setTh (k : Core) (t : Thr) (x : Thread) : (k.setTh t x).front = k.front := rfl
@[simp] theorem Core.back_setTh (k : Core) (t : Thr) (x : Thread) : (k.setTh t x).back = k.back := rfl
@[simp] theorem Core.swN_setTh (k : Core) (t : Thr) (x : Thread) : (k.setTh t x).swN = k.swN := rfl
@[simp] theorem Core.snapBar_setTh (k : Core) (t : Thr) (x : Thread) : (k.setTh t x).snapBar = k.snapBar := rfl
@[simp] theorem Core.snapPh_setTh (k : Core) (t : Thr) (x : Thread) : (k.setTh t x).snapPh = k.snapPh := rfl
@[simp] theorem Core.snapTlo_setTh (k : Core) (t : Thr) (x : Thread) : (k.setTh t x).snapTlo = k.snapTlo := rfl
@[simp] theorem Core.snapThi_setTh (k : Core) (t : Thr) (x : Thread) : (k.setTh t x).snapThi = k.snapThi := rfl
@[simp] theorem Core.trace_setTh (k : Core) (t : Thr) (x : Thread) : (k.setTh t x).trace = k.trace := rfl
@[simp] theorem Core.tarm_setTh (k : Core) (t : Thr) (x : Thread) : (k.setTh t x).tarm = k.tarm := rfl
@[simp] theorem Core.topen_setTh (k : Core) (t : Thr) (x : Thread) : (k.setTh t x).topen = k.topen := rfl
@[simp] theorem Core.tqCyc_setTh (k : Core) (t : Thr) (x : Thread) : (k.setTh t x).tqCyc = k.tqCyc := rfl
@[simp] theorem Core.tqFill_setTh (k : Core) (t : Thr) (x : Thread) : (k.setTh t x).tqFill = k.tqFill := rfl
@[simp] theorem Core.evs_setTh (k : Core) (t : Thr) (x : Thread) : (k.setTh t x).evs = k.evs := rfl

@[simp] theorem Core.win_onTh (k : Core) (t : Thr) (f : Thread → Thread) : (k.onTh t f).win = k.win := rfl
@[simp] theorem Core.pm_onTh (k : Core) (t : Thr) (f : Thread → Thread) : (k.onTh t f).pm = k.pm := rfl
@[simp] theorem Core.pmPar_onTh (k : Core) (t : Thr) (f : Thread → Thread) : (k.onTh t f).pmPar = k.pmPar := rfl
@[simp] theorem Core.sp_onTh (k : Core) (t : Thr) (f : Thread → Thread) : (k.onTh t f).sp = k.sp := rfl
@[simp] theorem Core.spPar_onTh (k : Core) (t : Thr) (f : Thread → Thread) : (k.onTh t f).spPar = k.spPar := rfl
@[simp] theorem Core.valid_onTh (k : Core) (t : Thr) (f : Thread → Thread) : (k.onTh t f).valid = k.valid := rfl
@[simp] theorem Core.psn_onTh (k : Core) (t : Thr) (f : Thread → Thread) : (k.onTh t f).psn = k.psn := rfl
@[simp] theorem Core.lockq_onTh (k : Core) (t : Thr) (f : Thread → Thread) : (k.onTh t f).lockq = k.lockq := rfl
@[simp] theorem Core.fsq_onTh (k : Core) (t : Thr) (f : Thread → Thread) : (k.onTh t f).fsq = k.fsq := rfl
@[simp] theorem Core.fsqOvf_onTh (k : Core) (t : Thr) (f : Thread → Thread) : (k.onTh t f).fsqOvf = k.fsqOvf := rfl
@[simp] theorem Core.flags_onTh (k : Core) (t : Thr) (f : Thread → Thread) : (k.onTh t f).flags = k.flags := rfl
@[simp] theorem Core.fcyc_onTh (k : Core) (t : Thr) (f : Thread → Thread) : (k.onTh t f).fcyc = k.fcyc := rfl
@[simp] theorem Core.nst_onTh (k : Core) (t : Thr) (f : Thread → Thread) : (k.onTh t f).nst = k.nst := rfl
@[simp] theorem Core.bdata_onTh (k : Core) (t : Thr) (f : Thread → Thread) : (k.onTh t f).bdata = k.bdata := rfl
@[simp] theorem Core.bscale_onTh (k : Core) (t : Thr) (f : Thread → Thread) : (k.onTh t f).bscale = k.bscale := rfl
@[simp] theorem Core.bext_onTh (k : Core) (t : Thr) (f : Thread → Thread) : (k.onTh t f).bext = k.bext := rfl
@[simp] theorem Core.tq_onTh (k : Core) (t : Thr) (f : Thread → Thread) : (k.onTh t f).tq = k.tq := rfl
@[simp] theorem Core.tseq_onTh (k : Core) (t : Thr) (f : Thread → Thread) : (k.onTh t f).tseq = k.tseq := rfl
@[simp] theorem Core.xcap_onTh (k : Core) (t : Thr) (f : Thread → Thread) : (k.onTh t f).xcap = k.xcap := rfl
@[simp] theorem Core.stage_onTh (k : Core) (t : Thr) (f : Thread → Thread) : (k.onTh t f).stage = k.stage := rfl
@[simp] theorem Core.tdone_onTh (k : Core) (t : Thr) (f : Thread → Thread) : (k.onTh t f).tdone = k.tdone := rfl
@[simp] theorem Core.trow_onTh (k : Core) (t : Thr) (f : Thread → Thread) : (k.onTh t f).trow = k.trow := rfl
@[simp] theorem Core.chan_onTh (k : Core) (t : Thr) (f : Thread → Thread) : (k.onTh t f).chan = k.chan := rfl
@[simp] theorem Core.slotAt_onTh (k : Core) (t : Thr) (f : Thread → Thread) : (k.onTh t f).slotAt = k.slotAt := rfl
@[simp] theorem Core.edgeAt_onTh (k : Core) (t : Thr) (f : Thread → Thread) : (k.onTh t f).edgeAt = k.edgeAt := rfl
@[simp] theorem Core.locAt_onTh (k : Core) (t : Thr) (f : Thread → Thread) : (k.onTh t f).locAt = k.locAt := rfl
@[simp] theorem Core.dmaMsgs_onTh (k : Core) (t : Thr) (f : Thread → Thread) : (k.onTh t f).dmaMsgs = k.dmaMsgs := rfl
@[simp] theorem Core.vset_onTh (k : Core) (t : Thr) (f : Thread → Thread) : (k.onTh t f).vset = k.vset := rfl
@[simp] theorem Core.gots_onTh (k : Core) (t : Thr) (f : Thread → Thread) : (k.onTh t f).gots = k.gots := rfl
@[simp] theorem Core.served_onTh (k : Core) (t : Thr) (f : Thread → Thread) : (k.onTh t f).served = k.served := rfl
@[simp] theorem Core.xlate_onTh (k : Core) (t : Thr) (f : Thread → Thread) : (k.onTh t f).xlate = k.xlate := rfl
@[simp] theorem Core.conn_onTh (k : Core) (t : Thr) (f : Thread → Thread) : (k.onTh t f).conn = k.conn := rfl
@[simp] theorem Core.connSeq_onTh (k : Core) (t : Thr) (f : Thread → Thread) : (k.onTh t f).connSeq = k.connSeq := rfl
@[simp] theorem Core.ring_onTh (k : Core) (t : Thr) (f : Thread → Thread) : (k.onTh t f).ring = k.ring := rfl
@[simp] theorem Core.owed_onTh (k : Core) (t : Thr) (f : Thread → Thread) : (k.onTh t f).owed = k.owed := rfl
@[simp] theorem Core.dying_onTh (k : Core) (t : Thr) (f : Thread → Thread) : (k.onTh t f).dying = k.dying := rfl
@[simp] theorem Core.oldBed_onTh (k : Core) (t : Thr) (f : Thread → Thread) : (k.onTh t f).oldBed = k.oldBed := rfl
@[simp] theorem Core.front_onTh (k : Core) (t : Thr) (f : Thread → Thread) : (k.onTh t f).front = k.front := rfl
@[simp] theorem Core.back_onTh (k : Core) (t : Thr) (f : Thread → Thread) : (k.onTh t f).back = k.back := rfl
@[simp] theorem Core.swN_onTh (k : Core) (t : Thr) (f : Thread → Thread) : (k.onTh t f).swN = k.swN := rfl
@[simp] theorem Core.snapBar_onTh (k : Core) (t : Thr) (f : Thread → Thread) : (k.onTh t f).snapBar = k.snapBar := rfl
@[simp] theorem Core.snapPh_onTh (k : Core) (t : Thr) (f : Thread → Thread) : (k.onTh t f).snapPh = k.snapPh := rfl
@[simp] theorem Core.snapTlo_onTh (k : Core) (t : Thr) (f : Thread → Thread) : (k.onTh t f).snapTlo = k.snapTlo := rfl
@[simp] theorem Core.snapThi_onTh (k : Core) (t : Thr) (f : Thread → Thread) : (k.onTh t f).snapThi = k.snapThi := rfl
@[simp] theorem Core.trace_onTh (k : Core) (t : Thr) (f : Thread → Thread) : (k.onTh t f).trace = k.trace := rfl
@[simp] theorem Core.tarm_onTh (k : Core) (t : Thr) (f : Thread → Thread) : (k.onTh t f).tarm = k.tarm := rfl
@[simp] theorem Core.topen_onTh (k : Core) (t : Thr) (f : Thread → Thread) : (k.onTh t f).topen = k.topen := rfl
@[simp] theorem Core.tqCyc_onTh (k : Core) (t : Thr) (f : Thread → Thread) : (k.onTh t f).tqCyc = k.tqCyc := rfl
@[simp] theorem Core.tqFill_onTh (k : Core) (t : Thr) (f : Thread → Thread) : (k.onTh t f).tqFill = k.tqFill := rfl
@[simp] theorem Core.evs_onTh (k : Core) (t : Thr) (f : Thread → Thread) : (k.onTh t f).evs = k.evs := rfl

/-- `traceAt` changes evs, tqCyc, tqFill, trace, win and nothing else. -/
theorem Core.traceAt_eq (k : Core) (now : Count) (kind : Nat) (t : Thr) (aux data : Nat) :
    k.traceAt now kind t aux data = { k with evs := (k.traceAt now kind t aux data).evs, tqCyc := (k.traceAt now kind t aux data).tqCyc, tqFill := (k.traceAt now kind t aux data).tqFill, trace := (k.traceAt now kind t aux data).trace, win := (k.traceAt now kind t aux data).win } := by
  unfold Core.traceAt; dsimp only
  repeat' (first | rfl | split)

@[simp] theorem Core.thr_traceAt (k : Core) (now : Count) (kind : Nat) (t : Thr) (aux data : Nat) : (k.traceAt now kind t aux data).thr = k.thr := (congrArg Core.thr (Core.traceAt_eq k now kind t aux data)).trans rfl
@[simp] theorem Core.pm_traceAt (k : Core) (now : Count) (kind : Nat) (t : Thr) (aux data : Nat) : (k.traceAt now kind t aux data).pm = k.pm := (congrArg Core.pm (Core.traceAt_eq k now kind t aux data)).trans rfl
@[simp] theorem Core.pmPar_traceAt (k : Core) (now : Count) (kind : Nat) (t : Thr) (aux data : Nat) : (k.traceAt now kind t aux data).pmPar = k.pmPar := (congrArg Core.pmPar (Core.traceAt_eq k now kind t aux data)).trans rfl
@[simp] theorem Core.sp_traceAt (k : Core) (now : Count) (kind : Nat) (t : Thr) (aux data : Nat) : (k.traceAt now kind t aux data).sp = k.sp := (congrArg Core.sp (Core.traceAt_eq k now kind t aux data)).trans rfl
@[simp] theorem Core.spPar_traceAt (k : Core) (now : Count) (kind : Nat) (t : Thr) (aux data : Nat) : (k.traceAt now kind t aux data).spPar = k.spPar := (congrArg Core.spPar (Core.traceAt_eq k now kind t aux data)).trans rfl
@[simp] theorem Core.valid_traceAt (k : Core) (now : Count) (kind : Nat) (t : Thr) (aux data : Nat) : (k.traceAt now kind t aux data).valid = k.valid := (congrArg Core.valid (Core.traceAt_eq k now kind t aux data)).trans rfl
@[simp] theorem Core.psn_traceAt (k : Core) (now : Count) (kind : Nat) (t : Thr) (aux data : Nat) : (k.traceAt now kind t aux data).psn = k.psn := (congrArg Core.psn (Core.traceAt_eq k now kind t aux data)).trans rfl
@[simp] theorem Core.lockq_traceAt (k : Core) (now : Count) (kind : Nat) (t : Thr) (aux data : Nat) : (k.traceAt now kind t aux data).lockq = k.lockq := (congrArg Core.lockq (Core.traceAt_eq k now kind t aux data)).trans rfl
@[simp] theorem Core.fsq_traceAt (k : Core) (now : Count) (kind : Nat) (t : Thr) (aux data : Nat) : (k.traceAt now kind t aux data).fsq = k.fsq := (congrArg Core.fsq (Core.traceAt_eq k now kind t aux data)).trans rfl
@[simp] theorem Core.fsqOvf_traceAt (k : Core) (now : Count) (kind : Nat) (t : Thr) (aux data : Nat) : (k.traceAt now kind t aux data).fsqOvf = k.fsqOvf := (congrArg Core.fsqOvf (Core.traceAt_eq k now kind t aux data)).trans rfl
@[simp] theorem Core.flags_traceAt (k : Core) (now : Count) (kind : Nat) (t : Thr) (aux data : Nat) : (k.traceAt now kind t aux data).flags = k.flags := (congrArg Core.flags (Core.traceAt_eq k now kind t aux data)).trans rfl
@[simp] theorem Core.fcyc_traceAt (k : Core) (now : Count) (kind : Nat) (t : Thr) (aux data : Nat) : (k.traceAt now kind t aux data).fcyc = k.fcyc := (congrArg Core.fcyc (Core.traceAt_eq k now kind t aux data)).trans rfl
@[simp] theorem Core.nst_traceAt (k : Core) (now : Count) (kind : Nat) (t : Thr) (aux data : Nat) : (k.traceAt now kind t aux data).nst = k.nst := (congrArg Core.nst (Core.traceAt_eq k now kind t aux data)).trans rfl
@[simp] theorem Core.bdata_traceAt (k : Core) (now : Count) (kind : Nat) (t : Thr) (aux data : Nat) : (k.traceAt now kind t aux data).bdata = k.bdata := (congrArg Core.bdata (Core.traceAt_eq k now kind t aux data)).trans rfl
@[simp] theorem Core.bscale_traceAt (k : Core) (now : Count) (kind : Nat) (t : Thr) (aux data : Nat) : (k.traceAt now kind t aux data).bscale = k.bscale := (congrArg Core.bscale (Core.traceAt_eq k now kind t aux data)).trans rfl
@[simp] theorem Core.bext_traceAt (k : Core) (now : Count) (kind : Nat) (t : Thr) (aux data : Nat) : (k.traceAt now kind t aux data).bext = k.bext := (congrArg Core.bext (Core.traceAt_eq k now kind t aux data)).trans rfl
@[simp] theorem Core.tq_traceAt (k : Core) (now : Count) (kind : Nat) (t : Thr) (aux data : Nat) : (k.traceAt now kind t aux data).tq = k.tq := (congrArg Core.tq (Core.traceAt_eq k now kind t aux data)).trans rfl
@[simp] theorem Core.tseq_traceAt (k : Core) (now : Count) (kind : Nat) (t : Thr) (aux data : Nat) : (k.traceAt now kind t aux data).tseq = k.tseq := (congrArg Core.tseq (Core.traceAt_eq k now kind t aux data)).trans rfl
@[simp] theorem Core.xcap_traceAt (k : Core) (now : Count) (kind : Nat) (t : Thr) (aux data : Nat) : (k.traceAt now kind t aux data).xcap = k.xcap := (congrArg Core.xcap (Core.traceAt_eq k now kind t aux data)).trans rfl
@[simp] theorem Core.stage_traceAt (k : Core) (now : Count) (kind : Nat) (t : Thr) (aux data : Nat) : (k.traceAt now kind t aux data).stage = k.stage := (congrArg Core.stage (Core.traceAt_eq k now kind t aux data)).trans rfl
@[simp] theorem Core.tdone_traceAt (k : Core) (now : Count) (kind : Nat) (t : Thr) (aux data : Nat) : (k.traceAt now kind t aux data).tdone = k.tdone := (congrArg Core.tdone (Core.traceAt_eq k now kind t aux data)).trans rfl
@[simp] theorem Core.trow_traceAt (k : Core) (now : Count) (kind : Nat) (t : Thr) (aux data : Nat) : (k.traceAt now kind t aux data).trow = k.trow := (congrArg Core.trow (Core.traceAt_eq k now kind t aux data)).trans rfl
@[simp] theorem Core.chan_traceAt (k : Core) (now : Count) (kind : Nat) (t : Thr) (aux data : Nat) : (k.traceAt now kind t aux data).chan = k.chan := (congrArg Core.chan (Core.traceAt_eq k now kind t aux data)).trans rfl
@[simp] theorem Core.slotAt_traceAt (k : Core) (now : Count) (kind : Nat) (t : Thr) (aux data : Nat) : (k.traceAt now kind t aux data).slotAt = k.slotAt := (congrArg Core.slotAt (Core.traceAt_eq k now kind t aux data)).trans rfl
@[simp] theorem Core.edgeAt_traceAt (k : Core) (now : Count) (kind : Nat) (t : Thr) (aux data : Nat) : (k.traceAt now kind t aux data).edgeAt = k.edgeAt := (congrArg Core.edgeAt (Core.traceAt_eq k now kind t aux data)).trans rfl
@[simp] theorem Core.locAt_traceAt (k : Core) (now : Count) (kind : Nat) (t : Thr) (aux data : Nat) : (k.traceAt now kind t aux data).locAt = k.locAt := (congrArg Core.locAt (Core.traceAt_eq k now kind t aux data)).trans rfl
@[simp] theorem Core.dmaMsgs_traceAt (k : Core) (now : Count) (kind : Nat) (t : Thr) (aux data : Nat) : (k.traceAt now kind t aux data).dmaMsgs = k.dmaMsgs := (congrArg Core.dmaMsgs (Core.traceAt_eq k now kind t aux data)).trans rfl
@[simp] theorem Core.vset_traceAt (k : Core) (now : Count) (kind : Nat) (t : Thr) (aux data : Nat) : (k.traceAt now kind t aux data).vset = k.vset := (congrArg Core.vset (Core.traceAt_eq k now kind t aux data)).trans rfl
@[simp] theorem Core.gots_traceAt (k : Core) (now : Count) (kind : Nat) (t : Thr) (aux data : Nat) : (k.traceAt now kind t aux data).gots = k.gots := (congrArg Core.gots (Core.traceAt_eq k now kind t aux data)).trans rfl
@[simp] theorem Core.served_traceAt (k : Core) (now : Count) (kind : Nat) (t : Thr) (aux data : Nat) : (k.traceAt now kind t aux data).served = k.served := (congrArg Core.served (Core.traceAt_eq k now kind t aux data)).trans rfl
@[simp] theorem Core.xlate_traceAt (k : Core) (now : Count) (kind : Nat) (t : Thr) (aux data : Nat) : (k.traceAt now kind t aux data).xlate = k.xlate := (congrArg Core.xlate (Core.traceAt_eq k now kind t aux data)).trans rfl
@[simp] theorem Core.conn_traceAt (k : Core) (now : Count) (kind : Nat) (t : Thr) (aux data : Nat) : (k.traceAt now kind t aux data).conn = k.conn := (congrArg Core.conn (Core.traceAt_eq k now kind t aux data)).trans rfl
@[simp] theorem Core.connSeq_traceAt (k : Core) (now : Count) (kind : Nat) (t : Thr) (aux data : Nat) : (k.traceAt now kind t aux data).connSeq = k.connSeq := (congrArg Core.connSeq (Core.traceAt_eq k now kind t aux data)).trans rfl
@[simp] theorem Core.ring_traceAt (k : Core) (now : Count) (kind : Nat) (t : Thr) (aux data : Nat) : (k.traceAt now kind t aux data).ring = k.ring := (congrArg Core.ring (Core.traceAt_eq k now kind t aux data)).trans rfl
@[simp] theorem Core.owed_traceAt (k : Core) (now : Count) (kind : Nat) (t : Thr) (aux data : Nat) : (k.traceAt now kind t aux data).owed = k.owed := (congrArg Core.owed (Core.traceAt_eq k now kind t aux data)).trans rfl
@[simp] theorem Core.dying_traceAt (k : Core) (now : Count) (kind : Nat) (t : Thr) (aux data : Nat) : (k.traceAt now kind t aux data).dying = k.dying := (congrArg Core.dying (Core.traceAt_eq k now kind t aux data)).trans rfl
@[simp] theorem Core.oldBed_traceAt (k : Core) (now : Count) (kind : Nat) (t : Thr) (aux data : Nat) : (k.traceAt now kind t aux data).oldBed = k.oldBed := (congrArg Core.oldBed (Core.traceAt_eq k now kind t aux data)).trans rfl
@[simp] theorem Core.front_traceAt (k : Core) (now : Count) (kind : Nat) (t : Thr) (aux data : Nat) : (k.traceAt now kind t aux data).front = k.front := (congrArg Core.front (Core.traceAt_eq k now kind t aux data)).trans rfl
@[simp] theorem Core.back_traceAt (k : Core) (now : Count) (kind : Nat) (t : Thr) (aux data : Nat) : (k.traceAt now kind t aux data).back = k.back := (congrArg Core.back (Core.traceAt_eq k now kind t aux data)).trans rfl
@[simp] theorem Core.swN_traceAt (k : Core) (now : Count) (kind : Nat) (t : Thr) (aux data : Nat) : (k.traceAt now kind t aux data).swN = k.swN := (congrArg Core.swN (Core.traceAt_eq k now kind t aux data)).trans rfl
@[simp] theorem Core.snapBar_traceAt (k : Core) (now : Count) (kind : Nat) (t : Thr) (aux data : Nat) : (k.traceAt now kind t aux data).snapBar = k.snapBar := (congrArg Core.snapBar (Core.traceAt_eq k now kind t aux data)).trans rfl
@[simp] theorem Core.snapPh_traceAt (k : Core) (now : Count) (kind : Nat) (t : Thr) (aux data : Nat) : (k.traceAt now kind t aux data).snapPh = k.snapPh := (congrArg Core.snapPh (Core.traceAt_eq k now kind t aux data)).trans rfl
@[simp] theorem Core.snapTlo_traceAt (k : Core) (now : Count) (kind : Nat) (t : Thr) (aux data : Nat) : (k.traceAt now kind t aux data).snapTlo = k.snapTlo := (congrArg Core.snapTlo (Core.traceAt_eq k now kind t aux data)).trans rfl
@[simp] theorem Core.snapThi_traceAt (k : Core) (now : Count) (kind : Nat) (t : Thr) (aux data : Nat) : (k.traceAt now kind t aux data).snapThi = k.snapThi := (congrArg Core.snapThi (Core.traceAt_eq k now kind t aux data)).trans rfl
@[simp] theorem Core.tarm_traceAt (k : Core) (now : Count) (kind : Nat) (t : Thr) (aux data : Nat) : (k.traceAt now kind t aux data).tarm = k.tarm := (congrArg Core.tarm (Core.traceAt_eq k now kind t aux data)).trans rfl
@[simp] theorem Core.topen_traceAt (k : Core) (now : Count) (kind : Nat) (t : Thr) (aux data : Nat) : (k.traceAt now kind t aux data).topen = k.topen := (congrArg Core.topen (Core.traceAt_eq k now kind t aux data)).trans rfl

/-- `count` changes win and nothing else. -/
theorem Core.count_eq (k : Core) (event : Nat) (t : Option Thr) (n : Nat) :
    k.count event t n = { k with win := (k.count event t n).win } := by
  unfold Core.count; split
  · rfl
  · refine (?_ : ∀ (xs : List Nat) (f : Core → Nat → Core), (∀ a b, f a b = { a with win := (f a b).win }) →
      ∀ a, xs.foldl f a = { a with win := (xs.foldl f a).win }) _ _ (fun a b => by dsimp only; repeat' (first | rfl | split)) k
    intro xs f h
    induction xs with
    | nil => intro a; rfl
    | cons x xs ih => intro a; rw [List.foldl_cons, ih (f a x), h a x]

@[simp] theorem Core.thr_count (k : Core) (event : Nat) (t : Option Thr) (n : Nat) : (k.count event t n).thr = k.thr := (congrArg Core.thr (Core.count_eq k event t n)).trans rfl
@[simp] theorem Core.pm_count (k : Core) (event : Nat) (t : Option Thr) (n : Nat) : (k.count event t n).pm = k.pm := (congrArg Core.pm (Core.count_eq k event t n)).trans rfl
@[simp] theorem Core.pmPar_count (k : Core) (event : Nat) (t : Option Thr) (n : Nat) : (k.count event t n).pmPar = k.pmPar := (congrArg Core.pmPar (Core.count_eq k event t n)).trans rfl
@[simp] theorem Core.sp_count (k : Core) (event : Nat) (t : Option Thr) (n : Nat) : (k.count event t n).sp = k.sp := (congrArg Core.sp (Core.count_eq k event t n)).trans rfl
@[simp] theorem Core.spPar_count (k : Core) (event : Nat) (t : Option Thr) (n : Nat) : (k.count event t n).spPar = k.spPar := (congrArg Core.spPar (Core.count_eq k event t n)).trans rfl
@[simp] theorem Core.valid_count (k : Core) (event : Nat) (t : Option Thr) (n : Nat) : (k.count event t n).valid = k.valid := (congrArg Core.valid (Core.count_eq k event t n)).trans rfl
@[simp] theorem Core.psn_count (k : Core) (event : Nat) (t : Option Thr) (n : Nat) : (k.count event t n).psn = k.psn := (congrArg Core.psn (Core.count_eq k event t n)).trans rfl
@[simp] theorem Core.lockq_count (k : Core) (event : Nat) (t : Option Thr) (n : Nat) : (k.count event t n).lockq = k.lockq := (congrArg Core.lockq (Core.count_eq k event t n)).trans rfl
@[simp] theorem Core.fsq_count (k : Core) (event : Nat) (t : Option Thr) (n : Nat) : (k.count event t n).fsq = k.fsq := (congrArg Core.fsq (Core.count_eq k event t n)).trans rfl
@[simp] theorem Core.fsqOvf_count (k : Core) (event : Nat) (t : Option Thr) (n : Nat) : (k.count event t n).fsqOvf = k.fsqOvf := (congrArg Core.fsqOvf (Core.count_eq k event t n)).trans rfl
@[simp] theorem Core.flags_count (k : Core) (event : Nat) (t : Option Thr) (n : Nat) : (k.count event t n).flags = k.flags := (congrArg Core.flags (Core.count_eq k event t n)).trans rfl
@[simp] theorem Core.fcyc_count (k : Core) (event : Nat) (t : Option Thr) (n : Nat) : (k.count event t n).fcyc = k.fcyc := (congrArg Core.fcyc (Core.count_eq k event t n)).trans rfl
@[simp] theorem Core.nst_count (k : Core) (event : Nat) (t : Option Thr) (n : Nat) : (k.count event t n).nst = k.nst := (congrArg Core.nst (Core.count_eq k event t n)).trans rfl
@[simp] theorem Core.bdata_count (k : Core) (event : Nat) (t : Option Thr) (n : Nat) : (k.count event t n).bdata = k.bdata := (congrArg Core.bdata (Core.count_eq k event t n)).trans rfl
@[simp] theorem Core.bscale_count (k : Core) (event : Nat) (t : Option Thr) (n : Nat) : (k.count event t n).bscale = k.bscale := (congrArg Core.bscale (Core.count_eq k event t n)).trans rfl
@[simp] theorem Core.bext_count (k : Core) (event : Nat) (t : Option Thr) (n : Nat) : (k.count event t n).bext = k.bext := (congrArg Core.bext (Core.count_eq k event t n)).trans rfl
@[simp] theorem Core.tq_count (k : Core) (event : Nat) (t : Option Thr) (n : Nat) : (k.count event t n).tq = k.tq := (congrArg Core.tq (Core.count_eq k event t n)).trans rfl
@[simp] theorem Core.tseq_count (k : Core) (event : Nat) (t : Option Thr) (n : Nat) : (k.count event t n).tseq = k.tseq := (congrArg Core.tseq (Core.count_eq k event t n)).trans rfl
@[simp] theorem Core.xcap_count (k : Core) (event : Nat) (t : Option Thr) (n : Nat) : (k.count event t n).xcap = k.xcap := (congrArg Core.xcap (Core.count_eq k event t n)).trans rfl
@[simp] theorem Core.stage_count (k : Core) (event : Nat) (t : Option Thr) (n : Nat) : (k.count event t n).stage = k.stage := (congrArg Core.stage (Core.count_eq k event t n)).trans rfl
@[simp] theorem Core.tdone_count (k : Core) (event : Nat) (t : Option Thr) (n : Nat) : (k.count event t n).tdone = k.tdone := (congrArg Core.tdone (Core.count_eq k event t n)).trans rfl
@[simp] theorem Core.trow_count (k : Core) (event : Nat) (t : Option Thr) (n : Nat) : (k.count event t n).trow = k.trow := (congrArg Core.trow (Core.count_eq k event t n)).trans rfl
@[simp] theorem Core.chan_count (k : Core) (event : Nat) (t : Option Thr) (n : Nat) : (k.count event t n).chan = k.chan := (congrArg Core.chan (Core.count_eq k event t n)).trans rfl
@[simp] theorem Core.slotAt_count (k : Core) (event : Nat) (t : Option Thr) (n : Nat) : (k.count event t n).slotAt = k.slotAt := (congrArg Core.slotAt (Core.count_eq k event t n)).trans rfl
@[simp] theorem Core.edgeAt_count (k : Core) (event : Nat) (t : Option Thr) (n : Nat) : (k.count event t n).edgeAt = k.edgeAt := (congrArg Core.edgeAt (Core.count_eq k event t n)).trans rfl
@[simp] theorem Core.locAt_count (k : Core) (event : Nat) (t : Option Thr) (n : Nat) : (k.count event t n).locAt = k.locAt := (congrArg Core.locAt (Core.count_eq k event t n)).trans rfl
@[simp] theorem Core.dmaMsgs_count (k : Core) (event : Nat) (t : Option Thr) (n : Nat) : (k.count event t n).dmaMsgs = k.dmaMsgs := (congrArg Core.dmaMsgs (Core.count_eq k event t n)).trans rfl
@[simp] theorem Core.vset_count (k : Core) (event : Nat) (t : Option Thr) (n : Nat) : (k.count event t n).vset = k.vset := (congrArg Core.vset (Core.count_eq k event t n)).trans rfl
@[simp] theorem Core.gots_count (k : Core) (event : Nat) (t : Option Thr) (n : Nat) : (k.count event t n).gots = k.gots := (congrArg Core.gots (Core.count_eq k event t n)).trans rfl
@[simp] theorem Core.served_count (k : Core) (event : Nat) (t : Option Thr) (n : Nat) : (k.count event t n).served = k.served := (congrArg Core.served (Core.count_eq k event t n)).trans rfl
@[simp] theorem Core.xlate_count (k : Core) (event : Nat) (t : Option Thr) (n : Nat) : (k.count event t n).xlate = k.xlate := (congrArg Core.xlate (Core.count_eq k event t n)).trans rfl
@[simp] theorem Core.conn_count (k : Core) (event : Nat) (t : Option Thr) (n : Nat) : (k.count event t n).conn = k.conn := (congrArg Core.conn (Core.count_eq k event t n)).trans rfl
@[simp] theorem Core.connSeq_count (k : Core) (event : Nat) (t : Option Thr) (n : Nat) : (k.count event t n).connSeq = k.connSeq := (congrArg Core.connSeq (Core.count_eq k event t n)).trans rfl
@[simp] theorem Core.ring_count (k : Core) (event : Nat) (t : Option Thr) (n : Nat) : (k.count event t n).ring = k.ring := (congrArg Core.ring (Core.count_eq k event t n)).trans rfl
@[simp] theorem Core.owed_count (k : Core) (event : Nat) (t : Option Thr) (n : Nat) : (k.count event t n).owed = k.owed := (congrArg Core.owed (Core.count_eq k event t n)).trans rfl
@[simp] theorem Core.dying_count (k : Core) (event : Nat) (t : Option Thr) (n : Nat) : (k.count event t n).dying = k.dying := (congrArg Core.dying (Core.count_eq k event t n)).trans rfl
@[simp] theorem Core.oldBed_count (k : Core) (event : Nat) (t : Option Thr) (n : Nat) : (k.count event t n).oldBed = k.oldBed := (congrArg Core.oldBed (Core.count_eq k event t n)).trans rfl
@[simp] theorem Core.front_count (k : Core) (event : Nat) (t : Option Thr) (n : Nat) : (k.count event t n).front = k.front := (congrArg Core.front (Core.count_eq k event t n)).trans rfl
@[simp] theorem Core.back_count (k : Core) (event : Nat) (t : Option Thr) (n : Nat) : (k.count event t n).back = k.back := (congrArg Core.back (Core.count_eq k event t n)).trans rfl
@[simp] theorem Core.swN_count (k : Core) (event : Nat) (t : Option Thr) (n : Nat) : (k.count event t n).swN = k.swN := (congrArg Core.swN (Core.count_eq k event t n)).trans rfl
@[simp] theorem Core.snapBar_count (k : Core) (event : Nat) (t : Option Thr) (n : Nat) : (k.count event t n).snapBar = k.snapBar := (congrArg Core.snapBar (Core.count_eq k event t n)).trans rfl
@[simp] theorem Core.snapPh_count (k : Core) (event : Nat) (t : Option Thr) (n : Nat) : (k.count event t n).snapPh = k.snapPh := (congrArg Core.snapPh (Core.count_eq k event t n)).trans rfl
@[simp] theorem Core.snapTlo_count (k : Core) (event : Nat) (t : Option Thr) (n : Nat) : (k.count event t n).snapTlo = k.snapTlo := (congrArg Core.snapTlo (Core.count_eq k event t n)).trans rfl
@[simp] theorem Core.snapThi_count (k : Core) (event : Nat) (t : Option Thr) (n : Nat) : (k.count event t n).snapThi = k.snapThi := (congrArg Core.snapThi (Core.count_eq k event t n)).trans rfl
@[simp] theorem Core.trace_count (k : Core) (event : Nat) (t : Option Thr) (n : Nat) : (k.count event t n).trace = k.trace := (congrArg Core.trace (Core.count_eq k event t n)).trans rfl
@[simp] theorem Core.tarm_count (k : Core) (event : Nat) (t : Option Thr) (n : Nat) : (k.count event t n).tarm = k.tarm := (congrArg Core.tarm (Core.count_eq k event t n)).trans rfl
@[simp] theorem Core.topen_count (k : Core) (event : Nat) (t : Option Thr) (n : Nat) : (k.count event t n).topen = k.topen := (congrArg Core.topen (Core.count_eq k event t n)).trans rfl
@[simp] theorem Core.tqCyc_count (k : Core) (event : Nat) (t : Option Thr) (n : Nat) : (k.count event t n).tqCyc = k.tqCyc := (congrArg Core.tqCyc (Core.count_eq k event t n)).trans rfl
@[simp] theorem Core.tqFill_count (k : Core) (event : Nat) (t : Option Thr) (n : Nat) : (k.count event t n).tqFill = k.tqFill := (congrArg Core.tqFill (Core.count_eq k event t n)).trans rfl
@[simp] theorem Core.evs_count (k : Core) (event : Nat) (t : Option Thr) (n : Nat) : (k.count event t n).evs = k.evs := (congrArg Core.evs (Core.count_eq k event t n)).trans rfl

/-- A window register reads what was written to it. -/
@[simp] theorem Core.w_setW_same (k : Core) (o : Nat) (w : Word) : (k.setW o w).w o = w := SMap.get_set_same _ _ _ _

/-- A write of a window register leaves every other one alone. -/
theorem Core.w_setW_other (k : Core) (o p : Nat) (w : Word) (h : p ≠ o) : (k.setW o w).w p = k.w p := SMap.get_set_other _ _ _ _ _ h

@[simp] theorem Core.th_setSpByte (k : Core) (a : Nat) (b : Byte) (t : Thr) : (k.setSpByte a b).th t = k.th t := rfl
@[simp] theorem Core.th_setSpWord (k : Core) (a : Nat) (v : Word) (t : Thr) : (k.setSpWord a v).th t = k.th t := by
  simp only [Core.th, Core.thr_setSpWord]
@[simp] theorem Core.th_setPsn (k : Core) (l : Nat) (b : Bool) (t : Thr) : (k.setPsn l b).th t = k.th t := rfl
@[simp] theorem Core.th_setValid (k : Core) (l : Nat) (b : Bool) (t : Thr) : (k.setValid l b).th t = k.th t := rfl
@[simp] theorem Core.w_setTh (k : Core) (t : Thr) (x : Thread) (o : Nat) : (k.setTh t x).w o = k.w o := rfl
@[simp] theorem Core.w_onTh (k : Core) (t : Thr) (f : Thread → Thread) (o : Nat) : (k.onTh t f).w o = k.w o := rfl
@[simp] theorem Core.fld_onTh (k : Core) (t : Thr) (f : Thread → Thread) (g : Fld) : (k.onTh t f).fld g = k.fld g := rfl
@[simp] theorem Core.th_setW (k : Core) (o : Nat) (w : Word) (t : Thr) : (k.setW o w).th t = k.th t := rfl
@[simp] theorem Core.th_setFld (k : Core) (f : Fld) (v : Nat) (t : Thr) : (k.setFld f v).th t = k.th t := rfl
@[simp] theorem Core.th_traceAt (k : Core) (now : Count) (kind : Nat) (u : Thr) (aux data : Nat) (t : Thr) :
    (k.traceAt now kind u aux data).th t = k.th t := by simp only [Core.th, Core.thr_traceAt]
@[simp] theorem Core.th_count (k : Core) (event : Nat) (u : Option Thr) (n : Nat) (t : Thr) : (k.count event u n).th t = k.th t := by
  simp only [Core.th, Core.thr_count]

/-! ### A thread -/

@[simp] theorem Thread.state_setG (x : Thread) (r : Reg) (w : Word) : (x.setG r w).state = x.state := rfl
@[simp] theorem Thread.waits_setG (x : Thread) (r : Reg) (w : Word) : (x.setG r w).waits = x.waits := rfl
@[simp] theorem Thread.v_setG (x : Thread) (r : Reg) (w : Word) : (x.setG r w).v = x.v := rfl
@[simp] theorem Thread.pc_setG (x : Thread) (r : Reg) (w : Word) : (x.setG r w).pc = x.pc := rfl
@[simp] theorem Thread.sw_setG (x : Thread) (r : Reg) (w : Word) : (x.setG r w).sw = x.sw := rfl
@[simp] theorem Thread.dsp_setG (x : Thread) (r : Reg) (w : Word) : (x.setG r w).dsp = x.dsp := rfl
@[simp] theorem Thread.rs_setG (x : Thread) (r : Reg) (w : Word) : (x.setG r w).rs = x.rs := rfl
@[simp] theorem Thread.ls_setG (x : Thread) (r : Reg) (w : Word) : (x.setG r w).ls = x.ls := rfl
@[simp] theorem Thread.le_setG (x : Thread) (r : Reg) (w : Word) : (x.setG r w).le = x.le := rfl
@[simp] theorem Thread.lc_setG (x : Thread) (r : Reg) (w : Word) : (x.setG r w).lc = x.lc := rfl
@[simp] theorem Thread.tcmp_setG (x : Thread) (r : Reg) (w : Word) : (x.setG r w).tcmp = x.tcmp := rfl
@[simp] theorem Thread.epc_setG (x : Thread) (r : Reg) (w : Word) : (x.setG r w).epc = x.epc := rfl
@[simp] theorem Thread.cause_setG (x : Thread) (r : Reg) (w : Word) : (x.setG r w).cause = x.cause := rfl
@[simp] theorem Thread.faddr_setG (x : Thread) (r : Reg) (w : Word) : (x.setG r w).faddr = x.faddr := rfl
@[simp] theorem Thread.waiton_setG (x : Thread) (r : Reg) (w : Word) : (x.setG r w).waiton = x.waiton := rfl
@[simp] theorem Thread.wcount_setG (x : Thread) (r : Reg) (w : Word) : (x.setG r w).wcount = x.wcount := rfl
@[simp] theorem Thread.key_setG (x : Thread) (r : Reg) (w : Word) : (x.setG r w).key = x.key := rfl
@[simp] theorem Thread.ctr_setG (x : Thread) (r : Reg) (w : Word) : (x.setG r w).ctr = x.ctr := rfl
@[simp] theorem Thread.waiting_setG (x : Thread) (r : Reg) (w : Word) : (x.setG r w).waiting = x.waiting := rfl
@[simp] theorem Thread.wake_setG (x : Thread) (r : Reg) (w : Word) : (x.setG r w).wake = x.wake := rfl
@[simp] theorem Thread.stalled_setG (x : Thread) (r : Reg) (w : Word) : (x.setG r w).stalled = x.stalled := rfl
@[simp] theorem Thread.aside_setG (x : Thread) (r : Reg) (w : Word) : (x.setG r w).aside = x.aside := rfl
@[simp] theorem Thread.next_setG (x : Thread) (r : Reg) (w : Word) : (x.setG r w).next = x.next := rfl
@[simp] theorem Thread.ready_setG (x : Thread) (r : Reg) (w : Word) : (x.setG r w).ready = x.ready := rfl
@[simp] theorem Thread.fp64_setG (x : Thread) (r : Reg) (w : Word) : (x.setG r w).fp64 = x.fp64 := rfl
@[simp] theorem Thread.held_setG (x : Thread) (r : Reg) (w : Word) : (x.setG r w).held = x.held := rfl
@[simp] theorem Thread.step_setG (x : Thread) (r : Reg) (w : Word) : (x.setG r w).step = x.step := rfl
@[simp] theorem Thread.sas_setG (x : Thread) (r : Reg) (w : Word) : (x.setG r w).sas = x.sas := rfl
@[simp] theorem Thread.bpPass_setG (x : Thread) (r : Reg) (w : Word) : (x.setG r w).bpPass = x.bpPass := rfl
@[simp] theorem Thread.wrev_setG (x : Thread) (r : Reg) (w : Word) : (x.setG r w).wrev = x.wrev := rfl
@[simp] theorem Thread.wlimit_setG (x : Thread) (r : Reg) (w : Word) : (x.setG r w).wlimit = x.wlimit := rfl
@[simp] theorem Thread.arrived_setG (x : Thread) (r : Reg) (w : Word) : (x.setG r w).arrived = x.arrived := rfl

@[simp] theorem Thread.state_setV (x : Thread) (r : Reg) (w : BitVec 512) : (x.setV r w).state = x.state := rfl
@[simp] theorem Thread.waits_setV (x : Thread) (r : Reg) (w : BitVec 512) : (x.setV r w).waits = x.waits := rfl
@[simp] theorem Thread.g_setV (x : Thread) (r : Reg) (w : BitVec 512) : (x.setV r w).g = x.g := rfl
@[simp] theorem Thread.pc_setV (x : Thread) (r : Reg) (w : BitVec 512) : (x.setV r w).pc = x.pc := rfl
@[simp] theorem Thread.sw_setV (x : Thread) (r : Reg) (w : BitVec 512) : (x.setV r w).sw = x.sw := rfl
@[simp] theorem Thread.dsp_setV (x : Thread) (r : Reg) (w : BitVec 512) : (x.setV r w).dsp = x.dsp := rfl
@[simp] theorem Thread.rs_setV (x : Thread) (r : Reg) (w : BitVec 512) : (x.setV r w).rs = x.rs := rfl
@[simp] theorem Thread.ls_setV (x : Thread) (r : Reg) (w : BitVec 512) : (x.setV r w).ls = x.ls := rfl
@[simp] theorem Thread.le_setV (x : Thread) (r : Reg) (w : BitVec 512) : (x.setV r w).le = x.le := rfl
@[simp] theorem Thread.lc_setV (x : Thread) (r : Reg) (w : BitVec 512) : (x.setV r w).lc = x.lc := rfl
@[simp] theorem Thread.tcmp_setV (x : Thread) (r : Reg) (w : BitVec 512) : (x.setV r w).tcmp = x.tcmp := rfl
@[simp] theorem Thread.epc_setV (x : Thread) (r : Reg) (w : BitVec 512) : (x.setV r w).epc = x.epc := rfl
@[simp] theorem Thread.cause_setV (x : Thread) (r : Reg) (w : BitVec 512) : (x.setV r w).cause = x.cause := rfl
@[simp] theorem Thread.faddr_setV (x : Thread) (r : Reg) (w : BitVec 512) : (x.setV r w).faddr = x.faddr := rfl
@[simp] theorem Thread.waiton_setV (x : Thread) (r : Reg) (w : BitVec 512) : (x.setV r w).waiton = x.waiton := rfl
@[simp] theorem Thread.wcount_setV (x : Thread) (r : Reg) (w : BitVec 512) : (x.setV r w).wcount = x.wcount := rfl
@[simp] theorem Thread.key_setV (x : Thread) (r : Reg) (w : BitVec 512) : (x.setV r w).key = x.key := rfl
@[simp] theorem Thread.ctr_setV (x : Thread) (r : Reg) (w : BitVec 512) : (x.setV r w).ctr = x.ctr := rfl
@[simp] theorem Thread.waiting_setV (x : Thread) (r : Reg) (w : BitVec 512) : (x.setV r w).waiting = x.waiting := rfl
@[simp] theorem Thread.wake_setV (x : Thread) (r : Reg) (w : BitVec 512) : (x.setV r w).wake = x.wake := rfl
@[simp] theorem Thread.stalled_setV (x : Thread) (r : Reg) (w : BitVec 512) : (x.setV r w).stalled = x.stalled := rfl
@[simp] theorem Thread.aside_setV (x : Thread) (r : Reg) (w : BitVec 512) : (x.setV r w).aside = x.aside := rfl
@[simp] theorem Thread.next_setV (x : Thread) (r : Reg) (w : BitVec 512) : (x.setV r w).next = x.next := rfl
@[simp] theorem Thread.ready_setV (x : Thread) (r : Reg) (w : BitVec 512) : (x.setV r w).ready = x.ready := rfl
@[simp] theorem Thread.fp64_setV (x : Thread) (r : Reg) (w : BitVec 512) : (x.setV r w).fp64 = x.fp64 := rfl
@[simp] theorem Thread.held_setV (x : Thread) (r : Reg) (w : BitVec 512) : (x.setV r w).held = x.held := rfl
@[simp] theorem Thread.step_setV (x : Thread) (r : Reg) (w : BitVec 512) : (x.setV r w).step = x.step := rfl
@[simp] theorem Thread.sas_setV (x : Thread) (r : Reg) (w : BitVec 512) : (x.setV r w).sas = x.sas := rfl
@[simp] theorem Thread.bpPass_setV (x : Thread) (r : Reg) (w : BitVec 512) : (x.setV r w).bpPass = x.bpPass := rfl
@[simp] theorem Thread.wrev_setV (x : Thread) (r : Reg) (w : BitVec 512) : (x.setV r w).wrev = x.wrev := rfl
@[simp] theorem Thread.wlimit_setV (x : Thread) (r : Reg) (w : BitVec 512) : (x.setV r w).wlimit = x.wlimit := rfl
@[simp] theorem Thread.arrived_setV (x : Thread) (r : Reg) (w : BitVec 512) : (x.setV r w).arrived = x.arrived := rfl

@[simp] theorem Thread.state_setSt (x : Thread) (i : Nat) (b : Bool) : (x.setSt i b).state = x.state := rfl
@[simp] theorem Thread.waits_setSt (x : Thread) (i : Nat) (b : Bool) : (x.setSt i b).waits = x.waits := rfl
@[simp] theorem Thread.g_setSt (x : Thread) (i : Nat) (b : Bool) : (x.setSt i b).g = x.g := rfl
@[simp] theorem Thread.v_setSt (x : Thread) (i : Nat) (b : Bool) : (x.setSt i b).v = x.v := rfl
@[simp] theorem Thread.pc_setSt (x : Thread) (i : Nat) (b : Bool) : (x.setSt i b).pc = x.pc := rfl
@[simp] theorem Thread.dsp_setSt (x : Thread) (i : Nat) (b : Bool) : (x.setSt i b).dsp = x.dsp := rfl
@[simp] theorem Thread.rs_setSt (x : Thread) (i : Nat) (b : Bool) : (x.setSt i b).rs = x.rs := rfl
@[simp] theorem Thread.ls_setSt (x : Thread) (i : Nat) (b : Bool) : (x.setSt i b).ls = x.ls := rfl
@[simp] theorem Thread.le_setSt (x : Thread) (i : Nat) (b : Bool) : (x.setSt i b).le = x.le := rfl
@[simp] theorem Thread.lc_setSt (x : Thread) (i : Nat) (b : Bool) : (x.setSt i b).lc = x.lc := rfl
@[simp] theorem Thread.tcmp_setSt (x : Thread) (i : Nat) (b : Bool) : (x.setSt i b).tcmp = x.tcmp := rfl
@[simp] theorem Thread.epc_setSt (x : Thread) (i : Nat) (b : Bool) : (x.setSt i b).epc = x.epc := rfl
@[simp] theorem Thread.cause_setSt (x : Thread) (i : Nat) (b : Bool) : (x.setSt i b).cause = x.cause := rfl
@[simp] theorem Thread.faddr_setSt (x : Thread) (i : Nat) (b : Bool) : (x.setSt i b).faddr = x.faddr := rfl
@[simp] theorem Thread.waiton_setSt (x : Thread) (i : Nat) (b : Bool) : (x.setSt i b).waiton = x.waiton := rfl
@[simp] theorem Thread.wcount_setSt (x : Thread) (i : Nat) (b : Bool) : (x.setSt i b).wcount = x.wcount := rfl
@[simp] theorem Thread.key_setSt (x : Thread) (i : Nat) (b : Bool) : (x.setSt i b).key = x.key := rfl
@[simp] theorem Thread.ctr_setSt (x : Thread) (i : Nat) (b : Bool) : (x.setSt i b).ctr = x.ctr := rfl
@[simp] theorem Thread.waiting_setSt (x : Thread) (i : Nat) (b : Bool) : (x.setSt i b).waiting = x.waiting := rfl
@[simp] theorem Thread.wake_setSt (x : Thread) (i : Nat) (b : Bool) : (x.setSt i b).wake = x.wake := rfl
@[simp] theorem Thread.stalled_setSt (x : Thread) (i : Nat) (b : Bool) : (x.setSt i b).stalled = x.stalled := rfl
@[simp] theorem Thread.aside_setSt (x : Thread) (i : Nat) (b : Bool) : (x.setSt i b).aside = x.aside := rfl
@[simp] theorem Thread.next_setSt (x : Thread) (i : Nat) (b : Bool) : (x.setSt i b).next = x.next := rfl
@[simp] theorem Thread.ready_setSt (x : Thread) (i : Nat) (b : Bool) : (x.setSt i b).ready = x.ready := rfl
@[simp] theorem Thread.fp64_setSt (x : Thread) (i : Nat) (b : Bool) : (x.setSt i b).fp64 = x.fp64 := rfl
@[simp] theorem Thread.held_setSt (x : Thread) (i : Nat) (b : Bool) : (x.setSt i b).held = x.held := rfl
@[simp] theorem Thread.step_setSt (x : Thread) (i : Nat) (b : Bool) : (x.setSt i b).step = x.step := rfl
@[simp] theorem Thread.sas_setSt (x : Thread) (i : Nat) (b : Bool) : (x.setSt i b).sas = x.sas := rfl
@[simp] theorem Thread.bpPass_setSt (x : Thread) (i : Nat) (b : Bool) : (x.setSt i b).bpPass = x.bpPass := rfl
@[simp] theorem Thread.wrev_setSt (x : Thread) (i : Nat) (b : Bool) : (x.setSt i b).wrev = x.wrev := rfl
@[simp] theorem Thread.wlimit_setSt (x : Thread) (i : Nat) (b : Bool) : (x.setSt i b).wlimit = x.wlimit := rfl
@[simp] theorem Thread.arrived_setSt (x : Thread) (i : Nat) (b : Bool) : (x.setSt i b).arrived = x.arrived := rfl

@[simp] theorem Thread.state_setFlags (x : Thread) (r : Word) (b v : Bool) : (x.setFlags r b v).state = x.state := rfl
@[simp] theorem Thread.waits_setFlags (x : Thread) (r : Word) (b v : Bool) : (x.setFlags r b v).waits = x.waits := rfl
@[simp] theorem Thread.g_setFlags (x : Thread) (r : Word) (b v : Bool) : (x.setFlags r b v).g = x.g := rfl
@[simp] theorem Thread.v_setFlags (x : Thread) (r : Word) (b v : Bool) : (x.setFlags r b v).v = x.v := rfl
@[simp] theorem Thread.pc_setFlags (x : Thread) (r : Word) (b v : Bool) : (x.setFlags r b v).pc = x.pc := rfl
@[simp] theorem Thread.dsp_setFlags (x : Thread) (r : Word) (b v : Bool) : (x.setFlags r b v).dsp = x.dsp := rfl
@[simp] theorem Thread.rs_setFlags (x : Thread) (r : Word) (b v : Bool) : (x.setFlags r b v).rs = x.rs := rfl
@[simp] theorem Thread.ls_setFlags (x : Thread) (r : Word) (b v : Bool) : (x.setFlags r b v).ls = x.ls := rfl
@[simp] theorem Thread.le_setFlags (x : Thread) (r : Word) (b v : Bool) : (x.setFlags r b v).le = x.le := rfl
@[simp] theorem Thread.lc_setFlags (x : Thread) (r : Word) (b v : Bool) : (x.setFlags r b v).lc = x.lc := rfl
@[simp] theorem Thread.tcmp_setFlags (x : Thread) (r : Word) (b v : Bool) : (x.setFlags r b v).tcmp = x.tcmp := rfl
@[simp] theorem Thread.epc_setFlags (x : Thread) (r : Word) (b v : Bool) : (x.setFlags r b v).epc = x.epc := rfl
@[simp] theorem Thread.cause_setFlags (x : Thread) (r : Word) (b v : Bool) : (x.setFlags r b v).cause = x.cause := rfl
@[simp] theorem Thread.faddr_setFlags (x : Thread) (r : Word) (b v : Bool) : (x.setFlags r b v).faddr = x.faddr := rfl
@[simp] theorem Thread.waiton_setFlags (x : Thread) (r : Word) (b v : Bool) : (x.setFlags r b v).waiton = x.waiton := rfl
@[simp] theorem Thread.wcount_setFlags (x : Thread) (r : Word) (b v : Bool) : (x.setFlags r b v).wcount = x.wcount := rfl
@[simp] theorem Thread.key_setFlags (x : Thread) (r : Word) (b v : Bool) : (x.setFlags r b v).key = x.key := rfl
@[simp] theorem Thread.ctr_setFlags (x : Thread) (r : Word) (b v : Bool) : (x.setFlags r b v).ctr = x.ctr := rfl
@[simp] theorem Thread.waiting_setFlags (x : Thread) (r : Word) (b v : Bool) : (x.setFlags r b v).waiting = x.waiting := rfl
@[simp] theorem Thread.wake_setFlags (x : Thread) (r : Word) (b v : Bool) : (x.setFlags r b v).wake = x.wake := rfl
@[simp] theorem Thread.stalled_setFlags (x : Thread) (r : Word) (b v : Bool) : (x.setFlags r b v).stalled = x.stalled := rfl
@[simp] theorem Thread.aside_setFlags (x : Thread) (r : Word) (b v : Bool) : (x.setFlags r b v).aside = x.aside := rfl
@[simp] theorem Thread.next_setFlags (x : Thread) (r : Word) (b v : Bool) : (x.setFlags r b v).next = x.next := rfl
@[simp] theorem Thread.ready_setFlags (x : Thread) (r : Word) (b v : Bool) : (x.setFlags r b v).ready = x.ready := rfl
@[simp] theorem Thread.fp64_setFlags (x : Thread) (r : Word) (b v : Bool) : (x.setFlags r b v).fp64 = x.fp64 := rfl
@[simp] theorem Thread.held_setFlags (x : Thread) (r : Word) (b v : Bool) : (x.setFlags r b v).held = x.held := rfl
@[simp] theorem Thread.step_setFlags (x : Thread) (r : Word) (b v : Bool) : (x.setFlags r b v).step = x.step := rfl
@[simp] theorem Thread.sas_setFlags (x : Thread) (r : Word) (b v : Bool) : (x.setFlags r b v).sas = x.sas := rfl
@[simp] theorem Thread.bpPass_setFlags (x : Thread) (r : Word) (b v : Bool) : (x.setFlags r b v).bpPass = x.bpPass := rfl
@[simp] theorem Thread.wrev_setFlags (x : Thread) (r : Word) (b v : Bool) : (x.setFlags r b v).wrev = x.wrev := rfl
@[simp] theorem Thread.wlimit_setFlags (x : Thread) (r : Word) (b v : Bool) : (x.setFlags r b v).wlimit = x.wlimit := rfl
@[simp] theorem Thread.arrived_setFlags (x : Thread) (r : Word) (b v : Bool) : (x.setFlags r b v).arrived = x.arrived := rfl

theorem Thread.loopEndGo_eq (a nxt : BitVec 15) (x : Thread) (n : Nat) : Thread.loopEnd.go a nxt x n =
    { x with pc := (Thread.loopEnd.go a nxt x n).pc, lc := (Thread.loopEnd.go a nxt x n).lc, sw := (Thread.loopEnd.go a nxt x n).sw } := by
  induction n generalizing x with
  | zero => rfl
  | succ n ih =>
    unfold Thread.loopEnd.go; dsimp only
    split
    · exact ih x
    · split
      · rfl
      · rw [ih]; rfl

/-- `loopEnd` changes the PC, the loop counts and the status word and nothing else. -/
theorem Thread.loopEnd_eq (x : Thread) (a : BitVec 15) (n : Nat) : x.loopEnd a n =
    { x with pc := (x.loopEnd a n).pc, lc := (x.loopEnd a n).lc, sw := (x.loopEnd a n).sw } := by
  unfold Thread.loopEnd; dsimp only
  split
  · rfl
  · exact Thread.loopEndGo_eq _ _ _ _

@[simp] theorem Thread.state_loopEnd (x : Thread) (a : BitVec 15) (n : Nat) : (x.loopEnd a n).state = x.state := (congrArg Thread.state (Thread.loopEnd_eq x a n)).trans rfl
@[simp] theorem Thread.waits_loopEnd (x : Thread) (a : BitVec 15) (n : Nat) : (x.loopEnd a n).waits = x.waits := (congrArg Thread.waits (Thread.loopEnd_eq x a n)).trans rfl
@[simp] theorem Thread.g_loopEnd (x : Thread) (a : BitVec 15) (n : Nat) : (x.loopEnd a n).g = x.g := (congrArg Thread.g (Thread.loopEnd_eq x a n)).trans rfl
@[simp] theorem Thread.v_loopEnd (x : Thread) (a : BitVec 15) (n : Nat) : (x.loopEnd a n).v = x.v := (congrArg Thread.v (Thread.loopEnd_eq x a n)).trans rfl
@[simp] theorem Thread.dsp_loopEnd (x : Thread) (a : BitVec 15) (n : Nat) : (x.loopEnd a n).dsp = x.dsp := (congrArg Thread.dsp (Thread.loopEnd_eq x a n)).trans rfl
@[simp] theorem Thread.rs_loopEnd (x : Thread) (a : BitVec 15) (n : Nat) : (x.loopEnd a n).rs = x.rs := (congrArg Thread.rs (Thread.loopEnd_eq x a n)).trans rfl
@[simp] theorem Thread.ls_loopEnd (x : Thread) (a : BitVec 15) (n : Nat) : (x.loopEnd a n).ls = x.ls := (congrArg Thread.ls (Thread.loopEnd_eq x a n)).trans rfl
@[simp] theorem Thread.le_loopEnd (x : Thread) (a : BitVec 15) (n : Nat) : (x.loopEnd a n).le = x.le := (congrArg Thread.le (Thread.loopEnd_eq x a n)).trans rfl
@[simp] theorem Thread.tcmp_loopEnd (x : Thread) (a : BitVec 15) (n : Nat) : (x.loopEnd a n).tcmp = x.tcmp := (congrArg Thread.tcmp (Thread.loopEnd_eq x a n)).trans rfl
@[simp] theorem Thread.epc_loopEnd (x : Thread) (a : BitVec 15) (n : Nat) : (x.loopEnd a n).epc = x.epc := (congrArg Thread.epc (Thread.loopEnd_eq x a n)).trans rfl
@[simp] theorem Thread.cause_loopEnd (x : Thread) (a : BitVec 15) (n : Nat) : (x.loopEnd a n).cause = x.cause := (congrArg Thread.cause (Thread.loopEnd_eq x a n)).trans rfl
@[simp] theorem Thread.faddr_loopEnd (x : Thread) (a : BitVec 15) (n : Nat) : (x.loopEnd a n).faddr = x.faddr := (congrArg Thread.faddr (Thread.loopEnd_eq x a n)).trans rfl
@[simp] theorem Thread.waiton_loopEnd (x : Thread) (a : BitVec 15) (n : Nat) : (x.loopEnd a n).waiton = x.waiton := (congrArg Thread.waiton (Thread.loopEnd_eq x a n)).trans rfl
@[simp] theorem Thread.wcount_loopEnd (x : Thread) (a : BitVec 15) (n : Nat) : (x.loopEnd a n).wcount = x.wcount := (congrArg Thread.wcount (Thread.loopEnd_eq x a n)).trans rfl
@[simp] theorem Thread.key_loopEnd (x : Thread) (a : BitVec 15) (n : Nat) : (x.loopEnd a n).key = x.key := (congrArg Thread.key (Thread.loopEnd_eq x a n)).trans rfl
@[simp] theorem Thread.ctr_loopEnd (x : Thread) (a : BitVec 15) (n : Nat) : (x.loopEnd a n).ctr = x.ctr := (congrArg Thread.ctr (Thread.loopEnd_eq x a n)).trans rfl
@[simp] theorem Thread.waiting_loopEnd (x : Thread) (a : BitVec 15) (n : Nat) : (x.loopEnd a n).waiting = x.waiting := (congrArg Thread.waiting (Thread.loopEnd_eq x a n)).trans rfl
@[simp] theorem Thread.wake_loopEnd (x : Thread) (a : BitVec 15) (n : Nat) : (x.loopEnd a n).wake = x.wake := (congrArg Thread.wake (Thread.loopEnd_eq x a n)).trans rfl
@[simp] theorem Thread.stalled_loopEnd (x : Thread) (a : BitVec 15) (n : Nat) : (x.loopEnd a n).stalled = x.stalled := (congrArg Thread.stalled (Thread.loopEnd_eq x a n)).trans rfl
@[simp] theorem Thread.aside_loopEnd (x : Thread) (a : BitVec 15) (n : Nat) : (x.loopEnd a n).aside = x.aside := (congrArg Thread.aside (Thread.loopEnd_eq x a n)).trans rfl
@[simp] theorem Thread.next_loopEnd (x : Thread) (a : BitVec 15) (n : Nat) : (x.loopEnd a n).next = x.next := (congrArg Thread.next (Thread.loopEnd_eq x a n)).trans rfl
@[simp] theorem Thread.ready_loopEnd (x : Thread) (a : BitVec 15) (n : Nat) : (x.loopEnd a n).ready = x.ready := (congrArg Thread.ready (Thread.loopEnd_eq x a n)).trans rfl
@[simp] theorem Thread.fp64_loopEnd (x : Thread) (a : BitVec 15) (n : Nat) : (x.loopEnd a n).fp64 = x.fp64 := (congrArg Thread.fp64 (Thread.loopEnd_eq x a n)).trans rfl
@[simp] theorem Thread.held_loopEnd (x : Thread) (a : BitVec 15) (n : Nat) : (x.loopEnd a n).held = x.held := (congrArg Thread.held (Thread.loopEnd_eq x a n)).trans rfl
@[simp] theorem Thread.step_loopEnd (x : Thread) (a : BitVec 15) (n : Nat) : (x.loopEnd a n).step = x.step := (congrArg Thread.step (Thread.loopEnd_eq x a n)).trans rfl
@[simp] theorem Thread.sas_loopEnd (x : Thread) (a : BitVec 15) (n : Nat) : (x.loopEnd a n).sas = x.sas := (congrArg Thread.sas (Thread.loopEnd_eq x a n)).trans rfl
@[simp] theorem Thread.bpPass_loopEnd (x : Thread) (a : BitVec 15) (n : Nat) : (x.loopEnd a n).bpPass = x.bpPass := (congrArg Thread.bpPass (Thread.loopEnd_eq x a n)).trans rfl
@[simp] theorem Thread.wrev_loopEnd (x : Thread) (a : BitVec 15) (n : Nat) : (x.loopEnd a n).wrev = x.wrev := (congrArg Thread.wrev (Thread.loopEnd_eq x a n)).trans rfl
@[simp] theorem Thread.wlimit_loopEnd (x : Thread) (a : BitVec 15) (n : Nat) : (x.loopEnd a n).wlimit = x.wlimit := (congrArg Thread.wlimit (Thread.loopEnd_eq x a n)).trans rfl
@[simp] theorem Thread.arrived_loopEnd (x : Thread) (a : BitVec 15) (n : Nat) : (x.loopEnd a n).arrived = x.arrived := (congrArg Thread.arrived (Thread.loopEnd_eq x a n)).trans rfl

/-- A scalar register reads what was written to it. -/
@[simp] theorem Thread.gr_setG_same (x : Thread) (r : Reg) (w : Word) : (x.setG r w).gr r = w := SMap.get_set_same _ _ _ _

/-- A write of a scalar register leaves every other one alone. -/
theorem Thread.gr_setG_other (x : Thread) (r q : Reg) (w : Word) (h : q ≠ r) : (x.setG r w).gr q = x.gr q :=
  SMap.get_set_other _ _ _ _ _ (fun e => h (BitVec.eq_of_toNat_eq e))

/-- A vector register reads what was written to it. -/
@[simp] theorem Thread.vr_setV_same (x : Thread) (r : Reg) (w : BitVec 512) : (x.setV r w).vr r = w := SMap.get_set_same _ _ _ _

/-- A write of a vector register leaves every other one alone. -/
theorem Thread.vr_setV_other (x : Thread) (r q : Reg) (w : BitVec 512) (h : q ≠ r) : (x.setV r w).vr q = x.vr q :=
  SMap.get_set_other _ _ _ _ _ (fun e => h (BitVec.eq_of_toNat_eq e))

@[simp] theorem Thread.gr_setV (x : Thread) (r q : Reg) (w : BitVec 512) : (x.setV r w).gr q = x.gr q := rfl
@[simp] theorem Thread.vr_setG (x : Thread) (r q : Reg) (w : Word) : (x.setG r w).vr q = x.vr q := rfl
@[simp] theorem Thread.gr_setSt (x : Thread) (i : Nat) (b : Bool) (q : Reg) : (x.setSt i b).gr q = x.gr q := rfl

end Sys2Proof.Machine
end

