-- ==== Sys2Proof/Laws/Access.lean ====
section
/-! SUPPORT. What the shared operations of register access answer. -/

namespace Sys2Proof.Machine

/-- A write that a window register accepts has its effect, and its path is answered without `ACCESS`. -/
theorem winWrite_ok (s : State) (p : Path) (c : CoreId) (o : Nat) (v : Word) (f : State → State) (hc : s.hasCore c = true)
    (h : s.acceptsWin p c o v = true) : s.winWrite p c o v f = .next ((f s).answer p false 0) := by
  simp [State.winWrite, State.ack, hc, h]

/-- A write that a window register rejects changes no register but, over the Brepo link, HL_ACCERR, and is answered with `ACCESS`. -/
theorem winWrite_rejected (s : State) (p : Path) (c : CoreId) (o : Nat) (v : Word) (f : State → State) (hc : s.hasCore c = true)
    (h : s.acceptsWin p c o v = false) :
    s.winWrite p c o v f = .next ((if p = .brepo then s.accErr 2 (winOff c o) else s).answer p true 0) := by
  simp [State.winWrite, State.ack, hc, h]

/-- A window beyond the last core holds no register: a write has no effect. -/
theorem winWrite_no_core (s : State) (p : Path) (c : CoreId) (o : Nat) (v : Word) (f : State → State) (hc : s.hasCore c = false) :
    s.winWrite p c o v f = .next (s.answer p false 0) := by
  simp [State.winWrite, State.ack, hc]

/-- A write that a device register accepts. -/
theorem devWrite_ok (s : State) (p : Path) (off : Nat) (v : Word) (f : State → State) (h : s.acceptsDev p off v = true) :
    s.devWrite p off v f = .next ((f s).answer p false 0) := by
  simp [State.devWrite, State.ack, h]

/-- A write that a device register rejects. -/
theorem devWrite_rejected (s : State) (p : Path) (off : Nat) (v : Word) (f : State → State) (h : s.acceptsDev p off v = false) :
    s.devWrite p off v f = .next ((if p = .brepo then s.accErr 2 off else s).answer p true 0) := by
  simp [State.devWrite, State.ack, h]

/-- A read of a window register. -/
theorem winRead_ok (s : State) (p : Path) (c : CoreId) (val : Word) (f : State → State) (hc : s.hasCore c = true) :
    s.winRead p c val f = .next ((f s).answer p false val) := by
  simp [State.winRead, hc]

/-- What a write of a window register answers. -/
theorem winWrite_takes (s : State) (p : Path) (c : CoreId) (o : Nat) (v : Word) (f : State → State) :
    s.winTakes p c o v (s.winWrite p c o v f) (f s) := fun hc => ⟨winWrite_ok s p c o v f hc, winWrite_rejected s p c o v f hc⟩

/-- What a write of a device register answers. -/
theorem devWrite_takes (s : State) (p : Path) (off : Nat) (v : Word) (f : State → State) :
    s.devTakes p off v (s.devWrite p off v f) (f s) := ⟨devWrite_ok s p off v f, devWrite_rejected s p off v f⟩

/-- A host command that is carried out. -/
theorem withHostCmd_ok (s : State) (ring : BitVec 4) (cid : BitVec 16) (opc : Byte) (x : HostCmd) (f : HostCmd → Out)
    (h : s.carries ring cid opc x) : withHostCmd s ring cid (· == opc) f = f x := by
  unfold withHostCmd
  rw [h.1]
  exact if_neg fun e => h.2.elim (fun a => a e.1) fun a => by rw [a] at e; exact absurd e.2 (by decide)

/-- A host command that begins. -/
theorem withCmd_ok (s : State) (ring : BitVec 4) (cid : BitVec 16) (opc : Byte) (x : HostCmd) (f : HostCmd → Out)
    (h : s.begins ring cid opc x) : withCmd s ring cid opc f = f x := by
  unfold withCmd
  rw [withHostCmd_ok s ring cid opc x _ h.1, h.2]
  rfl

/-- A host command on a job that takes it. -/
theorem withCmdJob_ok (s : State) (ring : BitVec 4) (cid : BitVec 16) (x : HostCmd) (j : Job) (f : Job → Out) (h : s.namesJob x j) :
    withCmdJob s ring cid x f = f j := by
  unfold withCmdJob
  rw [h.1]
  exact if_neg fun e => h.2.elim (fun a => a e.1) fun a => by rw [a] at e; exact absurd e.2 (by decide)

/-- A command on a job the module holds. -/
theorem withJob_ok (s : State) (id : JobId) (j : Job) (f : Job → Out) (h : s.job id = some j) : withJob s id f = f j := by
  unfold withJob; rw [h]

/-- A command on a core that exists. -/
theorem withCore_ok (s : State) (c : CoreId) (f : Out) (hc : s.hasCore c = true) : withCore s c f = f := if_pos hc

end Sys2Proof.Machine
end

