-- ==== Sys2Proof/Laws/Clock.lean ====
section
/-! SUPPORT. What the clock does to a core: loads that a line has woken are granted, the load and drain engines work, and the counters
count. -/

namespace Sys2Proof.Machine

/-- A change that the clock may make without an instruction: the scratchpad, the tile queues and the words of granted loads. -/
def Core.worked (k k' : Core) : Prop := k' = { k with sp := k'.sp, spPar := k'.spPar, tq := k'.tq, gots := k'.gots }

theorem Core.worked_refl (k : Core) : k.worked k := rfl

theorem Core.worked_trans (a b d : Core) (h : a.worked b) (k : b.worked d) : a.worked d := by
  unfold Core.worked at *; rw [k, h]

theorem foldl_worked {β : Type} (f : Core → β → Core) (h : ∀ (a : Core) (b : β), a.worked (f a b)) (a : Core) (l : List β) : a.worked (l.foldl f a) := by
  induction l generalizing a with
  | nil => exact a.worked_refl
  | cons b l ih => exact Core.worked_trans _ _ _ (h a b) (ih _)

theorem Core.worked_setSpWord (k : Core) (w : Nat) (v : Word) : k.worked (k.setSpWord w v) := rfl

theorem Core.worked_setSpWords (k : Core) (w : Nat) (vs : List Word) : k.worked (k.setSpWords w vs) := by
  induction vs generalizing k w with
  | nil => exact k.worked_refl
  | cons v vs ih => exact Core.worked_trans _ _ _ (k.worked_setSpWord w v) (ih _ _)

theorem Core.worked_workCycle (k : Core) (e : TEntry) : k.worked (k.workCycle e).1 := by
  unfold Core.workCycle
  split
  · exact k.worked_refl
  · dsimp only
    split
    · dsimp only
      split
      · exact k.worked_setSpWords _ _
      · exact k.worked_refl
    · split <;> exact k.worked_refl

theorem worked_workBefore (r : Rest) (d : Count) (n : Nat) (p : Core × TEntry) : p.1.worked (workBefore r d n p).1 := by
  induction n generalizing p with
  | zero => exact p.1.worked_refl
  | succ n ih =>
    rw [workBefore]
    dsimp only
    split
    · exact p.1.worked_refl
    · exact Core.worked_trans _ _ _ (p.1.worked_workCycle p.2) (ih _)

theorem Core.worked_putEntry (k : Core) (q : Nat) (e : TEntry) : k.worked (k.putEntry q e) := rfl

/-- The engines' work changes the scratchpad and the tile queues alone. -/
theorem Core.worked_runEngines (k : Core) (r : Rest) (d : Count) : k.worked (k.runEngines r d) :=
  foldl_worked _ (fun a q => foldl_worked _ (fun b e => Core.worked_trans _ _ _ (worked_workBefore r d _ (b, e)) (Core.worked_putEntry _ _ _)) _ _) _ _

/-- A granted load takes its words, and nothing else changes. -/
theorem Core.worked_grantLoads (k : Core) (r : Rest) (c : CoreId) (d : Count) : k.worked (k.grantLoads r c d) := rfl

/-- A function of a core that the engines' work and counting leave alone is left alone by the clock. -/
theorem State.core_advanceTo {α : Type} (g : Core → α) (hg : ∀ (k : Core) (e n : Nat) (t : Option Thr), g (k.count e t n) = g k)
    (hw : ∀ (k : Core) a b q z, g { k with sp := a, spPar := b, tq := q, gots := z } = g k) (s : State) (d : Count) (c : CoreId) :
    g ((s.advanceTo d).core c) = g (s.core c) := by
  have hk : ∀ (k : Core) (e : CoreId), g ((k.grantLoads (s.restOf e) e d).runEngines (s.restOf e) d) = g k := by
    intro k e
    have h : k.worked ((k.grantLoads (s.restOf e) e d).runEngines (s.restOf e) d) :=
      Core.worked_trans _ _ _ (Core.worked_grantLoads _ _ _ _) (Core.worked_runEngines _ _ _)
    unfold Core.worked at h
    rw [h, hw]
  unfold State.advanceTo
  split
  · rfl
  · simp only [State.core]
    generalize s.cores = m
    induction m with
    | nil => rfl
    | cons p m ih =>
      simp only [List.map_cons, SMap.get]
      split
      · split
        · rw [hg]; exact hk _ _
        · exact hk _ _
      · split
        · rfl
        · exact ih

/-- The threads after the clock has moved are as before. -/
theorem State.th_advanceTo (s : State) (d : Count) (c : CoreId) (t : Thr) : (s.advanceTo d).th c t = s.th c t :=
  State.core_advanceTo (fun k => k.th t) (fun _ _ _ _ => Core.th_count _ _ _ _ _) (fun _ _ _ _ _ => rfl) s d c

/-- The clock changes nothing of the module but the count and the cores. -/
theorem State.advanceTo_now (s : State) (d : Count) (h : notAfter d s.now = false) : (s.advanceTo d).now = d := by
  unfold State.advanceTo; rw [h]; rfl

/-- The clock does not move back. -/
@[simp] theorem State.advanceTo_self (s : State) : s.advanceTo s.now = s := by
  unfold State.advanceTo
  rw [if_pos (by simp [notAfter])]

end Sys2Proof.Machine
end

