-- ==== Sys2Proof/Laws/Dispatch.lean ====
section
/-! SUPPORT. Each arm of `exec`: the command's meaning. -/

namespace Sys2Proof.Machine

@[simp] theorem exec_add (c : CoreId) (t : Thr) (gd ga gb : Reg) (s : State) : exec (.add c t gd ga gb) s = execAdd c t gd ga gb s := rfl
@[simp] theorem exec_sub (c : CoreId) (t : Thr) (gd ga gb : Reg) (s : State) : exec (.sub c t gd ga gb) s = execSub c t gd ga gb s := rfl
@[simp] theorem exec_and (c : CoreId) (t : Thr) (gd ga gb : Reg) (s : State) : exec (.and c t gd ga gb) s = execAnd c t gd ga gb s := rfl
@[simp] theorem exec_or (c : CoreId) (t : Thr) (gd ga gb : Reg) (s : State) : exec (.or c t gd ga gb) s = execOr c t gd ga gb s := rfl
@[simp] theorem exec_xor (c : CoreId) (t : Thr) (gd ga gb : Reg) (s : State) : exec (.xor c t gd ga gb) s = execXor c t gd ga gb s := rfl
@[simp] theorem exec_mul (c : CoreId) (t : Thr) (gd ga gb : Reg) (s : State) : exec (.mul c t gd ga gb) s = execMul c t gd ga gb s := rfl
@[simp] theorem exec_shl (c : CoreId) (t : Thr) (gd ga gb : Reg) (s : State) : exec (.shl c t gd ga gb) s = execShl c t gd ga gb s := rfl
@[simp] theorem exec_shr (c : CoreId) (t : Thr) (gd ga gb : Reg) (s : State) : exec (.shr c t gd ga gb) s = execShr c t gd ga gb s := rfl
@[simp] theorem exec_sar (c : CoreId) (t : Thr) (gd ga gb : Reg) (s : State) : exec (.sar c t gd ga gb) s = execSar c t gd ga gb s := rfl
@[simp] theorem exec_rot (c : CoreId) (t : Thr) (gd ga gb : Reg) (s : State) : exec (.rot c t gd ga gb) s = execRot c t gd ga gb s := rfl
@[simp] theorem exec_min (c : CoreId) (t : Thr) (gd ga gb : Reg) (s : State) : exec (.min c t gd ga gb) s = execMin c t gd ga gb s := rfl
@[simp] theorem exec_max (c : CoreId) (t : Thr) (gd ga gb : Reg) (s : State) : exec (.max c t gd ga gb) s = execMax c t gd ga gb s := rfl
@[simp] theorem exec_addc (c : CoreId) (t : Thr) (gd ga gb : Reg) (s : State) : exec (.addc c t gd ga gb) s = execAddc c t gd ga gb s := rfl
@[simp] theorem exec_subc (c : CoreId) (t : Thr) (gd ga gb : Reg) (s : State) : exec (.subc c t gd ga gb) s = execSubc c t gd ga gb s := rfl
@[simp] theorem exec_mulh (c : CoreId) (t : Thr) (gd ga gb : Reg) (s : State) : exec (.mulh c t gd ga gb) s = execMulh c t gd ga gb s := rfl
@[simp] theorem exec_mulhu (c : CoreId) (t : Thr) (gd ga gb : Reg) (s : State) : exec (.mulhu c t gd ga gb) s = execMulhu c t gd ga gb s := rfl
@[simp] theorem exec_div (c : CoreId) (t : Thr) (gd ga gb : Reg) (s : State) : exec (.div c t gd ga gb) s = execDiv c t gd ga gb s := rfl
@[simp] theorem exec_divu (c : CoreId) (t : Thr) (gd ga gb : Reg) (s : State) : exec (.divu c t gd ga gb) s = execDivu c t gd ga gb s := rfl
@[simp] theorem exec_rem (c : CoreId) (t : Thr) (gd ga gb : Reg) (s : State) : exec (.rem c t gd ga gb) s = execRem c t gd ga gb s := rfl
@[simp] theorem exec_remu (c : CoreId) (t : Thr) (gd ga gb : Reg) (s : State) : exec (.remu c t gd ga gb) s = execRemu c t gd ga gb s := rfl
@[simp] theorem exec_mov (c : CoreId) (t : Thr) (gd ga : Reg) (s : State) : exec (.mov c t gd ga) s = execMov c t gd ga s := rfl
@[simp] theorem exec_not (c : CoreId) (t : Thr) (gd ga : Reg) (s : State) : exec (.not c t gd ga) s = execNot c t gd ga s := rfl
@[simp] theorem exec_cmp (c : CoreId) (t : Thr) (ga gb : Reg) (s : State) : exec (.cmp c t ga gb) s = execCmp c t ga gb s := rfl
@[simp] theorem exec_addi (c : CoreId) (t : Thr) (gd ga : Reg) (imm : BitVec 14) (s : State) : exec (.addi c t gd ga imm) s = execAddi c t gd ga imm s := rfl
@[simp] theorem exec_cmpi (c : CoreId) (t : Thr) (ga : Reg) (imm : BitVec 14) (s : State) : exec (.cmpi c t ga imm) s = execCmpi c t ga imm s := rfl
@[simp] theorem exec_movi (c : CoreId) (t : Thr) (gd : Reg) (imm : BitVec 20) (s : State) : exec (.movi c t gd imm) s = execMovi c t gd imm s := rfl
@[simp] theorem exec_movil (c : CoreId) (t : Thr) (gd : Reg) (imm : BitVec 32) (s : State) : exec (.movil c t gd imm) s = execMovil c t gd imm s := rfl
@[simp] theorem exec_ldw (c : CoreId) (t : Thr) (gd ga : Reg) (off : Option (BitVec 14)) (s : State) : exec (.ldw c t gd ga off) s = execLdw c t gd ga off s := rfl
@[simp] theorem exec_ldh (c : CoreId) (t : Thr) (gd ga : Reg) (off : Option (BitVec 14)) (s : State) : exec (.ldh c t gd ga off) s = execLdh c t gd ga off s := rfl
@[simp] theorem exec_ldhu (c : CoreId) (t : Thr) (gd ga : Reg) (off : Option (BitVec 14)) (s : State) : exec (.ldhu c t gd ga off) s = execLdhu c t gd ga off s := rfl
@[simp] theorem exec_ldb (c : CoreId) (t : Thr) (gd ga : Reg) (off : Option (BitVec 14)) (s : State) : exec (.ldb c t gd ga off) s = execLdb c t gd ga off s := rfl
@[simp] theorem exec_ldbu (c : CoreId) (t : Thr) (gd ga : Reg) (off : Option (BitVec 14)) (s : State) : exec (.ldbu c t gd ga off) s = execLdbu c t gd ga off s := rfl
@[simp] theorem exec_lds (c : CoreId) (t : Thr) (gd : Reg) (off : BitVec 14) (s : State) : exec (.lds c t gd off) s = execLds c t gd off s := rfl
@[simp] theorem exec_stw (c : CoreId) (t : Thr) (gs ga : Reg) (off : Option (BitVec 14)) (s : State) : exec (.stw c t gs ga off) s = execStw c t gs ga off s := rfl
@[simp] theorem exec_sth (c : CoreId) (t : Thr) (gs ga : Reg) (off : Option (BitVec 14)) (s : State) : exec (.sth c t gs ga off) s = execSth c t gs ga off s := rfl
@[simp] theorem exec_stb (c : CoreId) (t : Thr) (gs ga : Reg) (off : Option (BitVec 14)) (s : State) : exec (.stb c t gs ga off) s = execStb c t gs ga off s := rfl
@[simp] theorem exec_sts (c : CoreId) (t : Thr) (gs : Reg) (off : BitVec 14) (s : State) : exec (.sts c t gs off) s = execSts c t gs off s := rfl
@[simp] theorem exec_nop (c : CoreId) (t : Thr) (s : State) : exec (.nop c t) s = execNop c t s := rfl
@[simp] theorem exec_push (c : CoreId) (t : Thr) (gs : Reg) (s : State) : exec (.push c t gs) s = execPush c t gs s := rfl
@[simp] theorem exec_pop (c : CoreId) (t : Thr) (gd : Reg) (s : State) : exec (.pop c t gd) s = execPop c t gd s := rfl
@[simp] theorem exec_jr (c : CoreId) (t : Thr) (r : Reg) (s : State) : exec (.jr c t r) s = execJr c t r s := rfl
@[simp] theorem exec_callr (c : CoreId) (t : Thr) (r : Reg) (s : State) : exec (.callr c t r) s = execCallr c t r s := rfl
@[simp] theorem exec_ret (c : CoreId) (t : Thr) (s : State) : exec (.ret c t) s = execRet c t s := rfl
@[simp] theorem exec_rte (c : CoreId) (t : Thr) (s : State) : exec (.rte c t) s = execRte c t s := rfl
@[simp] theorem exec_halt (c : CoreId) (t : Thr) (s : State) : exec (.halt c t) s = execHalt c t s := rfl
@[simp] theorem exec_rdcyc (c : CoreId) (t : Thr) (gd : Reg) (s : State) : exec (.rdcyc c t gd) s = execRdcyc c t gd s := rfl
@[simp] theorem exec_mfs (c : CoreId) (t : Thr) (gd : Reg) (s : State) : exec (.mfs c t gd) s = execMfs c t gd s := rfl
@[simp] theorem exec_mts (c : CoreId) (t : Thr) (gs : Reg) (s : State) : exec (.mts c t gs) s = execMts c t gs s := rfl
@[simp] theorem exec_settc (c : CoreId) (t : Thr) (gs : Reg) (s : State) : exec (.settc c t gs) s = execSettc c t gs s := rfl
@[simp] theorem exec_clrtc (c : CoreId) (t : Thr) (s : State) : exec (.clrtc c t) s = execClrtc c t s := rfl
@[simp] theorem exec_waitt (c : CoreId) (t : Thr) (s : State) : exec (.waitt c t) s = execWaitt c t s := rfl
@[simp] theorem exec_rdfs (c : CoreId) (t : Thr) (gd : Reg) (s : State) : exec (.rdfs c t gd) s = execRdfs c t gd s := rfl
@[simp] theorem exec_consume (c : CoreId) (t : Thr) (r : Reg) (s : State) : exec (.consume c t r) s = execConsume c t r s := rfl
@[simp] theorem exec_lbrk (c : CoreId) (t : Thr) (lv : BitVec 2) (s : State) : exec (.lbrk c t lv) s = execLbrk c t lv s := rfl
@[simp] theorem exec_thrst (c : CoreId) (t k : Thr) (s : State) : exec (.thrst c t k) s = execThrst c t k s := rfl
@[simp] theorem exec_thstart (c : CoreId) (t k : Thr) (r : Reg) (s : State) : exec (.thstart c t k r) s = execThstart c t k r s := rfl
@[simp] theorem exec_setcc (c : CoreId) (t : Thr) (gd : Reg) (cc : BitVec 4) (s : State) : exec (.setcc c t gd cc) s = execSetcc c t gd cc s := rfl
@[simp] theorem exec_br (c : CoreId) (t : Thr) (t15 : BitVec 15) (s : State) : exec (.br c t t15) s = execBr c t t15 s := rfl
@[simp] theorem exec_jmp (c : CoreId) (t : Thr) (t15 : BitVec 15) (s : State) : exec (.jmp c t t15) s = execJmp c t t15 s := rfl
@[simp] theorem exec_bcc (c : CoreId) (t : Thr) (cc : BitVec 4) (a : Bool) (t15 : BitVec 15) (s : State) : exec (.bcc c t cc a t15) s = execBcc c t cc a t15 s := rfl
@[simp] theorem exec_call (c : CoreId) (t : Thr) (a : Bool) (t15 : BitVec 15) (s : State) : exec (.call c t a t15) s = execCall c t a t15 s := rfl
@[simp] theorem exec_loop (c : CoreId) (t : Thr) (lv : BitVec 2) (gs : Reg) (e : BitVec 15) (s : State) : exec (.loop c t lv gs e) s = execLoop c t lv gs e s := rfl
@[simp] theorem exec_lock (c : CoreId) (t : Thr) (gd : Reg) (n : BitVec 4) (s : State) : exec (.lock c t gd n) s = execLock c t gd n s := rfl
@[simp] theorem exec_trylock (c : CoreId) (t : Thr) (gd : Reg) (n : BitVec 4) (s : State) : exec (.trylock c t gd n) s = execTrylock c t gd n s := rfl
@[simp] theorem exec_unlock (c : CoreId) (t : Thr) (n : BitVec 4) (s : State) : exec (.unlock c t n) s = execUnlock c t n s := rfl
@[simp] theorem exec_lrst (c : CoreId) (t : Thr) (n : BitVec 4) (s : State) : exec (.lrst c t n) s = execLrst c t n s := rfl
@[simp] theorem exec_mft (c : CoreId) (t : Thr) (gd : Reg) (idx : BitVec 4) (s : State) : exec (.mft c t gd idx) s = execMft c t gd idx s := rfl
@[simp] theorem exec_mtt (c : CoreId) (t : Thr) (gs : Reg) (idx : BitVec 4) (s : State) : exec (.mtt c t gs idx) s = execMtt c t gs idx s := rfl
@[simp] theorem exec_trap (c : CoreId) (t : Thr) (imm : BitVec 9) (s : State) : exec (.trap c t imm) s = execTrap c t imm s := rfl
@[simp] theorem exec_reservedEncoding (c : CoreId) (t : Thr) (head : PWord) (ext : List PWord) (s : State) : exec (.reservedEncoding c t head ext) s = execReservedEncoding c t head ext s := rfl
@[simp] theorem exec_faultReport (src : CoreId) (s : State) : exec (.faultReport src) s = execFaultReport src s := rfl
@[simp] theorem exec_vadd (c : CoreId) (t : Thr) (fmt : BitVec 3) (vd va vb : Reg) (s : State) : exec (.vadd c t fmt vd va vb) s = execVadd c t fmt vd va vb s := rfl
@[simp] theorem exec_vsub (c : CoreId) (t : Thr) (fmt : BitVec 3) (vd va vb : Reg) (s : State) : exec (.vsub c t fmt vd va vb) s = execVsub c t fmt vd va vb s := rfl
@[simp] theorem exec_vmul (c : CoreId) (t : Thr) (fmt : BitVec 3) (vd va vb : Reg) (s : State) : exec (.vmul c t fmt vd va vb) s = execVmul c t fmt vd va vb s := rfl
@[simp] theorem exec_vfma (c : CoreId) (t : Thr) (fmt : BitVec 3) (vd va vb vc : Reg) (s : State) : exec (.vfma c t fmt vd va vb vc) s = execVfma c t fmt vd va vb vc s := rfl
@[simp] theorem exec_vmin (c : CoreId) (t : Thr) (fmt : BitVec 3) (vd va vb : Reg) (s : State) : exec (.vmin c t fmt vd va vb) s = execVmin c t fmt vd va vb s := rfl
@[simp] theorem exec_vmax (c : CoreId) (t : Thr) (fmt : BitVec 3) (vd va vb : Reg) (s : State) : exec (.vmax c t fmt vd va vb) s = execVmax c t fmt vd va vb s := rfl
@[simp] theorem exec_vabs (c : CoreId) (t : Thr) (fmt : BitVec 3) (vd va : Reg) (s : State) : exec (.vabs c t fmt vd va) s = execVabs c t fmt vd va s := rfl
@[simp] theorem exec_vneg (c : CoreId) (t : Thr) (fmt : BitVec 3) (vd va : Reg) (s : State) : exec (.vneg c t fmt vd va) s = execVneg c t fmt vd va s := rfl
@[simp] theorem exec_vdiv (c : CoreId) (t : Thr) (fmt : BitVec 3) (vd va vb : Reg) (s : State) : exec (.vdiv c t fmt vd va vb) s = execVdiv c t fmt vd va vb s := rfl
@[simp] theorem exec_vsqrt (c : CoreId) (t : Thr) (fmt : BitVec 3) (vd va : Reg) (s : State) : exec (.vsqrt c t fmt vd va) s = execVsqrt c t fmt vd va s := rfl
@[simp] theorem exec_vcmpeq (c : CoreId) (t : Thr) (fmt : BitVec 3) (vd va vb : Reg) (s : State) : exec (.vcmpeq c t fmt vd va vb) s = execVcmpeq c t fmt vd va vb s := rfl
@[simp] theorem exec_vcmplt (c : CoreId) (t : Thr) (fmt : BitVec 3) (vd va vb : Reg) (s : State) : exec (.vcmplt c t fmt vd va vb) s = execVcmplt c t fmt vd va vb s := rfl
@[simp] theorem exec_vcmple (c : CoreId) (t : Thr) (fmt : BitVec 3) (vd va vb : Reg) (s : State) : exec (.vcmple c t fmt vd va vb) s = execVcmple c t fmt vd va vb s := rfl
@[simp] theorem exec_vsel (c : CoreId) (t : Thr) (fmt : BitVec 3) (vd va vb vc : Reg) (s : State) : exec (.vsel c t fmt vd va vb vc) s = execVsel c t fmt vd va vb vc s := rfl
@[simp] theorem exec_vand (c : CoreId) (t : Thr) (fmt : BitVec 3) (vd va vb : Reg) (s : State) : exec (.vand c t fmt vd va vb) s = execVand c t fmt vd va vb s := rfl
@[simp] theorem exec_vor (c : CoreId) (t : Thr) (fmt : BitVec 3) (vd va vb : Reg) (s : State) : exec (.vor c t fmt vd va vb) s = execVor c t fmt vd va vb s := rfl
@[simp] theorem exec_vxor (c : CoreId) (t : Thr) (fmt : BitVec 3) (vd va vb : Reg) (s : State) : exec (.vxor c t fmt vd va vb) s = execVxor c t fmt vd va vb s := rfl
@[simp] theorem exec_vshl (c : CoreId) (t : Thr) (fmt : BitVec 3) (vd va vb : Reg) (s : State) : exec (.vshl c t fmt vd va vb) s = execVshl c t fmt vd va vb s := rfl
@[simp] theorem exec_vshr (c : CoreId) (t : Thr) (fmt : BitVec 3) (vd va vb : Reg) (s : State) : exec (.vshr c t fmt vd va vb) s = execVshr c t fmt vd va vb s := rfl
@[simp] theorem exec_vsar (c : CoreId) (t : Thr) (fmt : BitVec 3) (vd va vb : Reg) (s : State) : exec (.vsar c t fmt vd va vb) s = execVsar c t fmt vd va vb s := rfl
@[simp] theorem exec_vcvt (c : CoreId) (t : Thr) (fmt dst : BitVec 3) (rnd : BitVec 2) (vd va : Reg) (s : State) : exec (.vcvt c t fmt dst rnd vd va) s = execVcvt c t fmt dst rnd vd va s := rfl
@[simp] theorem exec_vrsum (c : CoreId) (t : Thr) (fmt : BitVec 3) (vd va : Reg) (s : State) : exec (.vrsum c t fmt vd va) s = execVrsum c t fmt vd va s := rfl
@[simp] theorem exec_vrmax (c : CoreId) (t : Thr) (fmt : BitVec 3) (vd va : Reg) (s : State) : exec (.vrmax c t fmt vd va) s = execVrmax c t fmt vd va s := rfl
@[simp] theorem exec_vbcast (c : CoreId) (t : Thr) (fmt : BitVec 3) (vd ga : Reg) (s : State) : exec (.vbcast c t fmt vd ga) s = execVbcast c t fmt vd ga s := rfl
@[simp] theorem exec_vext (c : CoreId) (t : Thr) (fmt : BitVec 3) (gd va gb : Reg) (s : State) : exec (.vext c t fmt gd va gb) s = execVext c t fmt gd va gb s := rfl
@[simp] theorem exec_vins (c : CoreId) (t : Thr) (fmt : BitVec 3) (vd ga gb : Reg) (s : State) : exec (.vins c t fmt vd ga gb) s = execVins c t fmt vd ga gb s := rfl
@[simp] theorem exec_vseed (c : CoreId) (t : Thr) (ga gb : Reg) (s : State) : exec (.vseed c t ga gb) s = execVseed c t ga gb s := rfl
@[simp] theorem exec_vld (c : CoreId) (t : Thr) (vd ga : Reg) (off : BitVec 14) (s : State) : exec (.vld c t vd ga off) s = execVld c t vd ga off s := rfl
@[simp] theorem exec_vst (c : CoreId) (t : Thr) (vs ga : Reg) (off : BitVec 14) (s : State) : exec (.vst c t vs ga off) s = execVst c t vs ga off s := rfl
@[simp] theorem exec_vldbc (c : CoreId) (t : Thr) (vd ga : Reg) (off : BitVec 14) (s : State) : exec (.vldbc c t vd ga off) s = execVldbc c t vd ga off s := rfl
@[simp] theorem exec_tcfg (c : CoreId) (t : Thr) (tb : Reg) (fmt : BitVec 4) (rowsM1 bprM1 : BitVec 6) (pm : Bool) (s : State) : exec (.tcfg c t tb fmt rowsM1 bprM1 pm) s = execTcfg c t tb fmt rowsM1 bprM1 pm s := rfl
@[simp] theorem exec_tld (c : CoreId) (t : Thr) (tb ga gs : Reg) (sfmt : BitVec 4) (tr : Bool) (rnd : BitVec 2) (s : State) : exec (.tld c t tb ga gs sfmt tr rnd) s = execTld c t tb ga gs sfmt tr rnd s := rfl
@[simp] theorem exec_tdrain (c : CoreId) (t : Thr) (tc ga gs : Reg) (opt : DrainOpt) (s : State) : exec (.tdrain c t tc ga gs opt) s = execTdrain c t tc ga gs opt s := rfl
@[simp] theorem exec_tmma (c : CoreId) (t : Thr) (tc ta tb : Reg) (q z : Bool) (s : State) : exec (.tmma c t tc ta tb q z) s = execTmma c t tc ta tb q z s := rfl
@[simp] theorem exec_trel (c : CoreId) (t : Thr) (tb : Reg) (s : State) : exec (.trel c t tb) s = execTrel c t tb s := rfl
@[simp] theorem exec_tzero (c : CoreId) (t : Thr) (tb : Reg) (s : State) : exec (.tzero c t tb) s = execTzero c t tb s := rfl
@[simp] theorem exec_tflags (c : CoreId) (t : Thr) (gd tb : Reg) (s : State) : exec (.tflags c t gd tb) s = execTflags c t gd tb s := rfl
@[simp] theorem exec_tclrf (c : CoreId) (t : Thr) (tb : Reg) (s : State) : exec (.tclrf c t tb) s = execTclrf c t tb s := rfl
@[simp] theorem exec_txcap (c : CoreId) (t : Thr) (gd : Reg) (s : State) : exec (.txcap c t gd) s = execTxcap c t gd s := rfl
@[simp] theorem exec_tileStart (c : CoreId) (q : BitVec 2) (s : State) : exec (.tileStart c q) s = execTileStart c q s := rfl
@[simp] theorem exec_matrixRowStep (c : CoreId) (s : State) : exec (.matrixRowStep c) s = execMatrixRowStep c s := rfl
@[simp] theorem exec_tldComplete (c : CoreId) (s : State) : exec (.tldComplete c) s = execTldComplete c s := rfl
@[simp] theorem exec_tmmaComplete (c : CoreId) (fill : Bool) (s : State) : exec (.tmmaComplete c fill) s = execTmmaComplete c fill s := rfl
@[simp] theorem exec_tdrainComplete (c : CoreId) (s : State) : exec (.tdrainComplete c) s = execTdrainComplete c s := rfl
@[simp] theorem exec_dmago (c : CoreId) (t : Thr) (ch ga : Reg) (s : State) : exec (.dmago c t ch ga) s = execDmago c t ch ga s := rfl
@[simp] theorem exec_dmastat (c : CoreId) (t : Thr) (gd ch : Reg) (s : State) : exec (.dmastat c t gd ch) s = execDmastat c t gd ch s := rfl
@[simp] theorem exec_dmadis (c : CoreId) (t : Thr) (ch : Reg) (s : State) : exec (.dmadis c t ch) s = execDmadis c t ch s := rfl
@[simp] theorem exec_dmaBurst (c : CoreId) (flow : Option (BitVec 16)) (s : State) : exec (.dmaBurst c flow) s = execDmaBurst c flow s := rfl
@[simp] theorem exec_dmaChannelDone (c : CoreId) (ch : Reg) (s : State) : exec (.dmaChannelDone c ch) s = execDmaChannelDone c ch s := rfl
@[simp] theorem exec_dmaChannelResume (c : CoreId) (ch : Reg) (s : State) : exec (.dmaChannelResume c ch) s = execDmaChannelResume c ch s := rfl
@[simp] theorem exec_dmaTimeout (c : CoreId) (ch : Reg) (s : State) : exec (.dmaTimeout c ch) s = execDmaTimeout c ch s := rfl
@[simp] theorem exec_creditRequest (c : CoreId) (s : State) : exec (.creditRequest c) s = execCreditRequest c s := rfl
@[simp] theorem exec_creditAnswer (c : CoreId) (ch : Reg) (s : State) : exec (.creditAnswer c ch) s = execCreditAnswer c ch s := rfl
@[simp] theorem exec_creditRetry (c : CoreId) (ch : Reg) (s : State) : exec (.creditRetry c ch) s = execCreditRetry c ch s := rfl
@[simp] theorem exec_creditReturn (c : CoreId) (s : State) : exec (.creditReturn c) s = execCreditReturn c s := rfl
@[simp] theorem exec_dataUnitCommit (c : CoreId) (s : State) : exec (.dataUnitCommit c) s = execDataUnitCommit c s := rfl
@[simp] theorem exec_heldTrapEntry (c : CoreId) (t : Thr) (s : State) : exec (.heldTrapEntry c t) s = execHeldTrapEntry c t s := rfl
@[simp] theorem exec_waitf (c : CoreId) (t : Thr) (gd : Reg) (n : BitVec 6) (p : Bool) (s : State) : exec (.waitf c t gd n p) s = execWaitf c t gd n p s := rfl
@[simp] theorem exec_setf (c : CoreId) (t : Thr) (gc : Reg) (n : BitVec 6) (s : State) : exec (.setf c t gc n) s = execSetf c t gc n s := rfl
@[simp] theorem exec_clrf (c : CoreId) (t : Thr) (gc : Reg) (n : BitVec 6) (s : State) : exec (.clrf c t gc n) s = execClrf c t gc n s := rfl
@[simp] theorem exec_tstf (c : CoreId) (t : Thr) (gd : Reg) (n : BitVec 6) (s : State) : exec (.tstf c t gd n) s = execTstf c t gd n s := rfl
@[simp] theorem exec_waitb (c : CoreId) (t : Thr) (gd : Reg) (b : BitVec 4) (s : State) : exec (.waitb c t gd b) s = execWaitb c t gd b s := rfl
@[simp] theorem exec_arrb (c : CoreId) (t : Thr) (b : BitVec 4) (s : State) : exec (.arrb c t b) s = execArrb c t b s := rfl
@[simp] theorem exec_flagMessageArrive (c : CoreId) (s : State) : exec (.flagMessageArrive c) s = execFlagMessageArrive c s := rfl
@[simp] theorem exec_barrierArrival (c : CoreId) (s : State) : exec (.barrierArrival c) s = execBarrierArrival c s := rfl
@[simp] theorem exec_barrierNotice (c : CoreId) (s : State) : exec (.barrierNotice c) s = execBarrierNotice c s := rfl
@[simp] theorem exec_threadWake (c : CoreId) (t : Thr) (s : State) : exec (.threadWake c t) s = execThreadWake c t s := rfl
@[simp] theorem exec_timerFire (c : CoreId) (t : Thr) (s : State) : exec (.timerFire c t) s = execTimerFire c t s := rfl
@[simp] theorem exec_watchdog (c : CoreId) (t : Thr) (s : State) : exec (.watchdog c t) s = execWatchdog c t s := rfl
@[simp] theorem exec_copen (c : CoreId) (t : Thr) (gd : Reg) (conn : BitVec 4) (ga : Reg) (s : State) : exec (.copen c t gd conn ga) s = execCopen c t gd conn ga s := rfl
@[simp] theorem exec_copenComplete (c : CoreId) (t : Thr) (s : State) : exec (.copenComplete c t) s = execCopenComplete c t s := rfl
@[simp] theorem exec_cclose (c : CoreId) (t : Thr) (conn : BitVec 4) (s : State) : exec (.cclose c t conn) s = execCclose c t conn s := rfl
@[simp] theorem exec_msend (c : CoreId) (t : Thr) (conn : BitVec 4) (ga gb : Reg) (h : BitVec 8) (s : State) : exec (.msend c t conn ga gb h) s = execMsend c t conn ga gb h s := rfl
@[simp] theorem exec_mrecv (c : CoreId) (t : Thr) (gd : Reg) (conn : BitVec 4) (s : State) : exec (.mrecv c t gd conn) s = execMrecv c t gd conn s := rfl
@[simp] theorem exec_mdone (c : CoreId) (t : Thr) (conn : BitVec 4) (s : State) : exec (.mdone c t conn) s = execMdone c t conn s := rfl
@[simp] theorem exec_claimRequest (c : CoreId) (s : State) : exec (.claimRequest c) s = execClaimRequest c s := rfl
@[simp] theorem exec_claimGrant (c : CoreId) (conn : BitVec 4) (s : State) : exec (.claimGrant c conn) s = execClaimGrant c conn s := rfl
@[simp] theorem exec_claimRetry (c : CoreId) (conn : BitVec 4) (s : State) : exec (.claimRetry c conn) s = execClaimRetry c conn s := rfl
@[simp] theorem exec_messageUnitSend (c : CoreId) (conn : BitVec 4) (s : State) : exec (.messageUnitSend c conn) s = execMessageUnitSend c conn s := rfl
@[simp] theorem exec_ringDispatch (c : CoreId) (ring : BitVec 3) (s : State) : exec (.ringDispatch c ring) s = execRingDispatch c ring s := rfl
@[simp] theorem exec_abandon (p : Path) (c : CoreId) (conn : BitVec 4) (s : State) : exec (.abandon p c conn) s = execAbandon p c conn s := rfl
@[simp] theorem exec_release (p : Path) (c : CoreId) (ring : BitVec 4) (s : State) : exec (.release p c ring) s = execRelease p c ring s := rfl
@[simp] theorem exec_connectionRestore (p : Path) (c : CoreId) (conn : BitVec 4) (v : Word) (s : State) : exec (.connectionRestore p c conn v) s = execConnectionRestore p c conn v s := rfl
@[simp] theorem exec_threadReset (p : Path) (c : CoreId) (t : Thr) (s : State) : exec (.threadReset p c t) s = execThreadReset p c t s := rfl
@[simp] theorem exec_threadStart (p : Path) (c : CoreId) (t : Thr) (s : State) : exec (.threadStart p c t) s = execThreadStart p c t s := rfl
@[simp] theorem exec_coreReset (p : Path) (c : CoreId) (s : State) : exec (.coreReset p c) s = execCoreReset p c s := rfl
@[simp] theorem exec_pmDataAccess (p : Path) (c : CoreId) (wr : Option Word) (s : State) : exec (.pmDataAccess p c wr) s = execPmDataAccess p c wr s := rfl
@[simp] theorem exec_lockWposWrite (p : Path) (c : CoreId) (v : Word) (s : State) : exec (.lockWposWrite p c v) s = execLockWposWrite p c v s := rfl
@[simp] theorem exec_registerWrite (p : Path) (off : BitVec 26) (width : Nat) (v : Word) (s : State) : exec (.registerWrite p off width v) s = execRegisterWrite p off width v s := rfl
@[simp] theorem exec_pairLoRead (p : Path) (off : BitVec 26) (s : State) : exec (.pairLoRead p off) s = execPairLoRead p off s := rfl
@[simp] theorem exec_pairHiRead (p : Path) (off : BitVec 26) (s : State) : exec (.pairHiRead p off) s = execPairHiRead p off s := rfl
@[simp] theorem exec_pairHiWrite (p : Path) (off : BitVec 26) (v : Word) (s : State) : exec (.pairHiWrite p off v) s = execPairHiWrite p off v s := rfl
@[simp] theorem exec_pairLoWrite (p : Path) (off : BitVec 26) (v : Word) (s : State) : exec (.pairLoWrite p off v) s = execPairLoWrite p off v s := rfl
@[simp] theorem exec_rcRead (p : Path) (off : BitVec 26) (s : State) : exec (.rcRead p off) s = execRcRead p off s := rfl
@[simp] theorem exec_tileQueuePush (p : Path) (c : CoreId) (v : Word) (s : State) : exec (.tileQueuePush p c v) s = execTileQueuePush p c v s := rfl
@[simp] theorem exec_tileDdataAccess (p : Path) (c : CoreId) (wr : Option Word) (s : State) : exec (.tileDdataAccess p c wr) s = execTileDdataAccess p c wr s := rfl
@[simp] theorem exec_guardWrite (p : Path) (c : CoreId) (n : BitVec 3) (v : Word) (s : State) : exec (.guardWrite p c n v) s = execGuardWrite p c n v s := rfl
@[simp] theorem exec_vdataAccess (p : Path) (c : CoreId) (wr : Option Word) (s : State) : exec (.vdataAccess p c wr) s = execVdataAccess p c wr s := rfl
@[simp] theorem exec_psndataAccess (p : Path) (c : CoreId) (wr : Option Word) (s : State) : exec (.psndataAccess p c wr) s = execPsndataAccess p c wr s := rfl
@[simp] theorem exec_meshPdataAccess (p : Path) (c : CoreId) (wr : Option Word) (s : State) : exec (.meshPdataAccess p c wr) s = execMeshPdataAccess p c wr s := rfl
@[simp] theorem exec_meshUnitArrive (c : CoreId) (port : BitVec 3) (s : State) : exec (.meshUnitArrive c port) s = execMeshUnitArrive c port s := rfl
@[simp] theorem exec_patternLoad (c : CoreId) (logp : BitVec 4) (drain : BitVec 12) (entries : List Word) (s : State) : exec (.patternLoad c logp drain entries) s = execPatternLoad c logp drain entries s := rfl
@[simp] theorem exec_switchArm (p : Path) (c : CoreId) (rev : BitVec 16) (s : State) : exec (.switchArm p c rev) s = execSwitchArm p c rev s := rfl
@[simp] theorem exec_switchWithdraw (p : Path) (c : CoreId) (s : State) : exec (.switchWithdraw p c) s = execSwitchWithdraw p c s := rfl
@[simp] theorem exec_patternDrainGuard (bed : BitVec 5) (s : State) : exec (.patternDrainGuard bed) s = execPatternDrainGuard bed s := rfl
@[simp] theorem exec_patternSwitch (s : State) : exec .patternSwitch s = execPatternSwitch s := rfl
@[simp] theorem exec_flagSet (p : Path) (c : CoreId) (mask : BitVec 64) (s : State) : exec (.flagSet p c mask) s = execFlagSet p c mask s := rfl
@[simp] theorem exec_flagClr (p : Path) (c : CoreId) (mask : BitVec 64) (s : State) : exec (.flagClr p c mask) s = execFlagClr p c mask s := rfl
@[simp] theorem exec_complete (p : Path) (c : CoreId) (bar : BitVec 4) (s : State) : exec (.complete p c bar) s = execComplete p c bar s := rfl
@[simp] theorem exec_barrierAbandon (p : Path) (c : CoreId) (bar : BitVec 4) (s : State) : exec (.barrierAbandon p c bar) s = execBarrierAbandon p c bar s := rfl
@[simp] theorem exec_barrierReset (p : Path) (c : CoreId) (bar : BitVec 4) (s : State) : exec (.barrierReset p c bar) s = execBarrierReset p c bar s := rfl
@[simp] theorem exec_tapRd (tap : BitVec 9) (ecc ecc2 : EccFound) (s : State) : exec (.tapRd tap ecc ecc2) s = execTapRd tap ecc ecc2 s := rfl
@[simp] theorem exec_tapWr (tap : BitVec 9) (s : State) : exec (.tapWr tap) s = execTapWr tap s := rfl
@[simp] theorem exec_tapData (tap : BitVec 9) (s : State) : exec (.tapData tap) s = execTapData tap s := rfl
@[simp] theorem exec_tapRetry (c : CoreId) (ch : Reg) (s : State) : exec (.tapRetry c ch) s = execTapRetry c ch s := rfl
@[simp] theorem exec_refreshWindow (w : BitVec 3) (s : State) : exec (.refreshWindow w) s = execRefreshWindow w s := rfl
@[simp] theorem exec_patrolScrub (tap : BitVec 9) (found : List EccFound) (s : State) : exec (.patrolScrub tap found) s = execPatrolScrub tap found s := rfl
@[simp] theorem exec_rowRemap (tap : BitVec 9) (found : List EccFound) (s : State) : exec (.rowRemap tap found) s = execRowRemap tap found s := rfl
@[simp] theorem exec_rmapGo (p : Path) (v : Word) (s : State) : exec (.rmapGo p v) s = execRmapGo p v s := rfl
@[simp] theorem exec_stageFill (tap : BitVec 9) (line : BitVec 68) (e : LpErrs) (s : State) : exec (.stageFill tap line e) s = execStageFill tap line e s := rfl
@[simp] theorem exec_stageInvalidate (tap : BitVec 9) (line : BitVec 68) (s : State) : exec (.stageInvalidate tap line) s = execStageInvalidate tap line s := rfl
@[simp] theorem exec_stageWriteback (tap : BitVec 9) (line : LpWrite) (s : State) : exec (.stageWriteback tap line) s = execStageWriteback tap line s := rfl
@[simp] theorem exec_lpRetrain (p : Path) (v : Word) (s : State) : exec (.lpRetrain p v) s = execLpRetrain p v s := rfl
@[simp] theorem exec_lpRetrainDone (ch : BitVec 5) (s : State) : exec (.lpRetrainDone ch) s = execLpRetrainDone ch s := rfl
@[simp] theorem exec_prefetchFetch (region : BitVec 5) (stream : BitVec 4) (s : State) : exec (.prefetchFetch region stream) s = execPrefetchFetch region stream s := rfl
@[simp] theorem exec_elogRead (p : Path) (s : State) : exec (.elogRead p) s = execElogRead p s := rfl
@[simp] theorem exec_translationWalk (c : CoreId) (ch : Reg) (s : State) : exec (.translationWalk c ch) s = execTranslationWalk c ch s := rfl
@[simp] theorem exec_passEntry (job : JobId) (s : State) : exec (.passEntry job) s = execPassEntry job s := rfl
@[simp] theorem exec_done (job : JobId) (s : State) : exec (.done job) s = execDone job s := rfl
@[simp] theorem exec_flush (job : JobId) (s : State) : exec (.flush job) s = execFlush job s := rfl
@[simp] theorem exec_flushed (job : JobId) (s : State) : exec (.flushed job) s = execFlushed job s := rfl
@[simp] theorem exec_passBoundary (job : JobId) (s : State) : exec (.passBoundary job) s = execPassBoundary job s := rfl
@[simp] theorem exec_passDeadline (job : JobId) (s : State) : exec (.passDeadline job) s = execPassDeadline job s := rfl
@[simp] theorem exec_rollback (job : JobId) (s : State) : exec (.rollback job) s = execRollback job s := rfl
@[simp] theorem exec_writeApply (job : JobId) (src : BitVec 16) (s : State) : exec (.writeApply job src) s = execWriteApply job src s := rfl
@[simp] theorem exec_remoteRead (ctx : BitVec 14) (e : LpErrs) (s : State) : exec (.remoteRead ctx e) s = execRemoteRead ctx e s := rfl
@[simp] theorem exec_faultResolve (at_ : FaultPoint) (frame : BitVec 48) (s : State) : exec (.faultResolve at_ frame) s = execFaultResolve at_ frame s := rfl
@[simp] theorem exec_pageMigrate (job : JobId) (vpn : BitVec 36) (frame : BitVec 48) (s : State) : exec (.pageMigrate job vpn frame) s = execPageMigrate job vpn frame s := rfl
@[simp] theorem exec_dmaXinv (p : Path) (c : CoreId) (v : BitVec 64) (s : State) : exec (.dmaXinv p c v) s = execDmaXinv p c v s := rfl
@[simp] theorem exec_mtXinv (p : Path) (v : BitVec 64) (s : State) : exec (.mtXinv p v) s = execMtXinv p v s := rfl
@[simp] theorem exec_fxXinv (p : Path) (v : BitVec 64) (s : State) : exec (.fxXinv p v) s = execFxXinv p v s := rfl
@[simp] theorem exec_preemptFreeze (job : JobId) (s : State) : exec (.preemptFreeze job) s = execPreemptFreeze job s := rfl
@[simp] theorem exec_coreSave (c : CoreId) (s : State) : exec (.coreSave c) s = execCoreSave c s := rfl
@[simp] theorem exec_coreRestore (c : CoreId) (s : State) : exec (.coreRestore c) s = execCoreRestore c s := rfl
@[simp] theorem exec_preemptResume (job : JobId) (s : State) : exec (.preemptResume job) s = execPreemptResume job s := rfl
@[simp] theorem exec_flitReceive (port : BitVec 6) (f : RawFlit) (s : State) : exec (.flitReceive port f) s = execFlitReceive port f s := rfl
@[simp] theorem exec_nak (port : BitVec 6) (lack : BitVec 12) (s : State) : exec (.nak port lack) s = execNak port lack s := rfl
@[simp] theorem exec_replayTimeout (port : BitVec 6) (s : State) : exec (.replayTimeout port) s = execReplayTimeout port s := rfl
@[simp] theorem exec_idle (port : BitVec 6) (s : State) : exec (.idle port) s = execIdle port s := rfl
@[simp] theorem exec_linkRetryBudget (port : BitVec 6) (s : State) : exec (.linkRetryBudget port) s = execLinkRetryBudget port s := rfl
@[simp] theorem exec_signalLoss (port : BitVec 6) (s : State) : exec (.signalLoss port) s = execSignalLoss port s := rfl
@[simp] theorem exec_train (p : Path) (port : BitVec 6) (s : State) : exec (.train p port) s = execTrain p port s := rfl
@[simp] theorem exec_portTrained (port : BitVec 6) (ok : Bool) (delay pmod : BitVec 16) (pport : BitVec 6) (s : State) : exec (.portTrained port ok delay pmod pport) s = execPortTrained port ok delay pmod pport s := rfl
@[simp] theorem exec_marker (s : State) : exec .marker s = execMarker s := rfl
@[simp] theorem exec_markerArrive (port : BitVec 6) (m : Marker) (s : State) : exec (.markerArrive port m) s = execMarkerArrive port m s := rfl
@[simp] theorem exec_markerMiss (port : BitVec 6) (s : State) : exec (.markerMiss port) s = execMarkerMiss port s := rfl
@[simp] theorem exec_stepped (s : State) : exec .stepped s = execStepped s := rfl
@[simp] theorem exec_lost (s : State) : exec .lost s = execLost s := rfl
@[simp] theorem exec_spnCtrlWrite (p : Path) (v : Word) (s : State) : exec (.spnCtrlWrite p v) s = execSpnCtrlWrite p v s := rfl
@[simp] theorem exec_masterEnter (s : State) : exec .masterEnter s = execMasterEnter s := rfl
@[simp] theorem exec_masterLeave (s : State) : exec .masterLeave s = execMasterLeave s := rfl
@[simp] theorem exec_refclkLoss (s : State) : exec .refclkLoss s = execRefclkLoss s := rfl
@[simp] theorem exec_pllLock (s : State) : exec .pllLock s = execPllLock s := rfl
@[simp] theorem exec_restCmd (p : Path) (v : Word) (s : State) : exec (.restCmd p v) s = execRestCmd p v s := rfl
@[simp] theorem exec_restRevolution (bed : BitVec 5) (s : State) : exec (.restRevolution bed) s = execRestRevolution bed s := rfl
@[simp] theorem exec_packetReceive (port : BitVec 6) (vl : Bool) (pkt : Packet) (s : State) : exec (.packetReceive port vl pkt) s = execPacketReceive port vl pkt s := rfl
@[simp] theorem exec_ack (ctx : BitVec 14) (s : State) : exec (.ack ctx) s = execAck ctx s := rfl
@[simp] theorem exec_retransmit (ctx : BitVec 14) (s : State) : exec (.retransmit ctx) s = execRetransmit ctx s := rfl
@[simp] theorem exec_fabOut (c : CoreId) (s : State) : exec (.fabOut c) s = execFabOut c s := rfl
@[simp] theorem exec_fabIn (ctx : BitVec 14) (s : State) : exec (.fabIn ctx) s = execFabIn ctx s := rfl
@[simp] theorem exec_fill (ctx : BitVec 14) (e : LpErrs) (s : State) : exec (.fill ctx e) s = execFill ctx e s := rfl
@[simp] theorem exec_writeEnd (ctx : BitVec 14) (s : State) : exec (.writeEnd ctx) s = execWriteEnd ctx s := rfl
@[simp] theorem exec_writeAck (ctx : BitVec 14) (s : State) : exec (.writeAck ctx) s = execWriteAck ctx s := rfl
@[simp] theorem exec_fxRtdataAccess (p : Path) (wr : Option Word) (s : State) : exec (.fxRtdataAccess p wr) s = execFxRtdataAccess p wr s := rfl
@[simp] theorem exec_agreeDone (job : JobId) (s : State) : exec (.agreeDone job) s = execAgreeDone job s := rfl
@[simp] theorem exec_agreeFlush (job : JobId) (s : State) : exec (.agreeFlush job) s = execAgreeFlush job s := rfl
@[simp] theorem exec_agreeFlushed (job : JobId) (s : State) : exec (.agreeFlushed job) s = execAgreeFlushed job s := rfl
@[simp] theorem exec_boundary (job : JobId) (s : State) : exec (.boundary job) s = execBoundary job s := rfl
@[simp] theorem exec_fail (job : JobId) (s : State) : exec (.fail job) s = execFail job s := rfl
@[simp] theorem exec_rerun (job : JobId) (s : State) : exec (.rerun job) s = execRerun job s := rfl
@[simp] theorem exec_agreePreempt (job : JobId) (s : State) : exec (.agreePreempt job) s = execAgreePreempt job s := rfl
@[simp] theorem exec_agreeResume (job : JobId) (s : State) : exec (.agreeResume job) s = execAgreeResume job s := rfl
@[simp] theorem exec_scan (side : Bool) (bed : BitVec 5) (flow : BitVec 16) (s : State) : exec (.scan side bed flow) s = execScan side bed flow s := rfl
@[simp] theorem exec_convert (side : Bool) (bed : BitVec 5) (flow : BitVec 16) (s : State) : exec (.convert side bed flow) s = execConvert side bed flow s := rfl
@[simp] theorem exec_reduceScan (job : JobId) (s : State) : exec (.reduceScan job) s = execReduceScan job s := rfl
@[simp] theorem exec_reduceData (job : JobId) (s : State) : exec (.reduceData job) s = execReduceData job s := rfl
@[simp] theorem exec_agreed (ctx : BitVec 14) (s : State) : exec (.agreed ctx) s = execAgreed ctx s := rfl
@[simp] theorem exec_result (ctx : BitVec 14) (s : State) : exec (.result ctx) s = execResult ctx s := rfl
@[simp] theorem exec_nexte (ctx : BitVec 14) (s : State) : exec (.nexte ctx) s = execNexte ctx s := rfl
@[simp] theorem exec_contribLate (rid : BitVec 10) (seg : BitVec 16) (isScan : Bool) (s : State) : exec (.contribLate rid seg isScan) s = execContribLate rid seg isScan s := rfl
@[simp] theorem exec_hregRd (tag : BitVec 16) (off : BitVec 64) (width : Nat) (s : State) : exec (.hregRd tag off width) s = execHregRd tag off width s := rfl
@[simp] theorem exec_hregWr (tag : BitVec 16) (off : BitVec 64) (width : Nat) (v : Word) (s : State) : exec (.hregWr tag off width v) s = execHregWr tag off width v s := rfl
@[simp] theorem exec_memCpl (tag : BitVec 16) (data : Option (List Byte)) (s : State) : exec (.memCpl tag data) s = execMemCpl tag data s := rfl
@[simp] theorem exec_hostLinkRecover (s : State) : exec .hostLinkRecover s = execHostLinkRecover s := rfl
@[simp] theorem exec_cqTail (ring : BitVec 4) (v : BitVec 16) (s : State) : exec (.cqTail ring v) s = execCqTail ring v s := rfl
@[simp] theorem exec_cqHead (ring : BitVec 4) (v : BitVec 16) (s : State) : exec (.cqHead ring v) s = execCqHead ring v s := rfl
@[simp] theorem exec_ringConfigWrite (p : Path) (v : Word) (s : State) : exec (.ringConfigWrite p v) s = execRingConfigWrite p v s := rfl
@[simp] theorem exec_completionWrite (ring : BitVec 4) (s : State) : exec (.completionWrite ring) s = execCompletionWrite ring s := rfl
@[simp] theorem exec_msi (ring : BitVec 4) (s : State) : exec (.msi ring) s = execMsi ring s := rfl
@[simp] theorem exec_hb (s : State) : exec .hb s = execHb s := rfl
@[simp] theorem exec_commandTimeout (ring : BitVec 4) (cid : BitVec 16) (s : State) : exec (.commandTimeout ring cid) s = execCommandTimeout ring cid s := rfl
@[simp] theorem exec_unlistedOpcode (ring : BitVec 4) (cid : BitVec 16) (s : State) : exec (.unlistedOpcode ring cid) s = execUnlistedOpcode ring cid s := rfl
@[simp] theorem exec_config (ring : BitVec 4) (cid : BitVec 16) (s : State) : exec (.config ring cid) s = execConfig ring cid s := rfl
@[simp] theorem exec_routes (ring : BitVec 4) (cid : BitVec 16) (buf : List Byte) (s : State) : exec (.routes ring cid buf) s = execRoutes ring cid buf s := rfl
@[simp] theorem exec_launch (ring : BitVec 4) (cid : BitVec 16) (image : List Byte) (s : State) : exec (.launch ring cid image) s = execLaunch ring cid image s := rfl
@[simp] theorem exec_cancel (ring : BitVec 4) (cid : BitVec 16) (s : State) : exec (.cancel ring cid) s = execCancel ring cid s := rfl
@[simp] theorem exec_preempt (ring : BitVec 4) (cid : BitVec 16) (s : State) : exec (.preempt ring cid) s = execPreempt ring cid s := rfl
@[simp] theorem exec_resume (ring : BitVec 4) (cid : BitVec 16) (s : State) : exec (.resume ring cid) s = execResume ring cid s := rfl
@[simp] theorem exec_loadpat (ring : BitVec 4) (cid : BitVec 16) (s : State) : exec (.loadpat ring cid) s = execLoadpat ring cid s := rfl
@[simp] theorem exec_switch (ring : BitVec 4) (cid : BitVec 16) (s : State) : exec (.switch ring cid) s = execSwitch ring cid s := rfl
@[simp] theorem exec_copyIn (ring : BitVec 4) (cid : BitVec 16) (buf : List Byte) (s : State) : exec (.copyIn ring cid buf) s = execCopyIn ring cid buf s := rfl
@[simp] theorem exec_copyOut (ring : BitVec 4) (cid : BitVec 16) (s : State) : exec (.copyOut ring cid) s = execCopyOut ring cid s := rfl
@[simp] theorem exec_readDtab (ring : BitVec 4) (cid : BitVec 16) (s : State) : exec (.readDtab ring cid) s = execReadDtab ring cid s := rfl
@[simp] theorem exec_jobStatus (ring : BitVec 4) (cid : BitVec 16) (s : State) : exec (.jobStatus ring cid) s = execJobStatus ring cid s := rfl
@[simp] theorem exec_fwInfo (ring : BitVec 4) (cid : BitVec 16) (s : State) : exec (.fwInfo ring cid) s = execFwInfo ring cid s := rfl
@[simp] theorem exec_fwLoad (ring : BitVec 4) (cid : BitVec 16) (img : Option FwImage) (s : State) : exec (.fwLoad ring cid img) s = execFwLoad ring cid img s := rfl
@[simp] theorem exec_fwActivate (ring : BitVec 4) (cid : BitVec 16) (s : State) : exec (.fwActivate ring cid) s = execFwActivate ring cid s := rfl
@[simp] theorem exec_attest (ring : BitVec 4) (cid : BitVec 16) (nonce sigs : List Byte) (s : State) : exec (.attest ring cid nonce sigs) s = execAttest ring cid nonce sigs s := rfl
@[simp] theorem exec_identity (ring : BitVec 4) (cid : BitVec 16) (s : State) : exec (.identity ring cid) s = execIdentity ring cid s := rfl
@[simp] theorem exec_test (ring : BitVec 4) (cid : BitVec 16) (failed : BitVec 4) (s : State) : exec (.test ring cid failed) s = execTest ring cid failed s := rfl
@[simp] theorem exec_testEnd (ring : BitVec 4) (cid : BitVec 16) (s : State) : exec (.testEnd ring cid) s = execTestEnd ring cid s := rfl
@[simp] theorem exec_svnCommit (ring : BitVec 4) (cid : BitVec 16) (s : State) : exec (.svnCommit ring cid) s = execSvnCommit ring cid s := rfl
@[simp] theorem exec_keyRevoke (ring : BitVec 4) (cid : BitVec 16) (s : State) : exec (.keyRevoke ring cid) s = execKeyRevoke ring cid s := rfl
@[simp] theorem exec_replace (ring : BitVec 4) (cid : BitVec 16) (s : State) : exec (.replace ring cid) s = execReplace ring cid s := rfl
@[simp] theorem exec_retire (ring : BitVec 4) (cid : BitVec 16) (sect : List Byte) (s : State) : exec (.retire ring cid sect) s = execRetire ring cid sect s := rfl
@[simp] theorem exec_startUp (img : FwImage) (found : BitVec 5) (s : State) : exec (.startUp img found) s = execStartUp img found s := rfl
@[simp] theorem exec_stepTime (s : State) : exec .stepTime s = execStepTime s := rfl
@[simp] theorem exec_recoveryGo (p : Path) (wrflash : Bool) (img : FwImage) (s : State) : exec (.recoveryGo p wrflash img) s = execRecoveryGo p wrflash img s := rfl
@[simp] theorem exec_reboot (p : Path) (s : State) : exec (.reboot p) s = execReboot p s := rfl
@[simp] theorem exec_handover (s : State) : exec .handover s = execHandover s := rfl
@[simp] theorem exec_handoverConfirm (s : State) : exec .handoverConfirm s = execHandoverConfirm s := rfl
@[simp] theorem exec_handoverConfirmTimeout (s : State) : exec .handoverConfirmTimeout s = execHandoverConfirmTimeout s := rfl
@[simp] theorem exec_flashWriteDone (ok : Bool) (s : State) : exec (.flashWriteDone ok) s = execFlashWriteDone ok s := rfl
@[simp] theorem exec_keyDerivation (keys : List Byte) (s : State) : exec (.keyDerivation keys) s = execKeyDerivation keys s := rfl
@[simp] theorem exec_agreementSilence (job : JobId) (rank : BitVec 16) (s : State) : exec (.agreementSilence job rank) s = execAgreementSilence job rank s := rfl
@[simp] theorem exec_neighbourUnroutable (job : JobId) (rank : BitVec 16) (s : State) : exec (.neighbourUnroutable job rank) s = execNeighbourUnroutable job rank s := rfl
@[simp] theorem exec_heldTimeout (job : JobId) (s : State) : exec (.heldTimeout job) s = execHeldTimeout job s := rfl
@[simp] theorem exec_retirementDecision (row : BitVec 6) (col : BitVec 7) (cause : BitVec 2) (s : State) : exec (.retirementDecision row col cause) s = execRetirementDecision row col cause s := rfl
@[simp] theorem exec_retirementEffect (row : BitVec 6) (s : State) : exec (.retirementEffect row) s = execRetirementEffect row s := rfl
@[simp] theorem exec_portRetrain (port : BitVec 6) (s : State) : exec (.portRetrain port) s = execPortRetrain port s := rfl
@[simp] theorem exec_powerWindow (watts : BitVec 12) (idle : Option (BitVec 12)) (s : State) : exec (.powerWindow watts idle) s = execPowerWindow watts idle s := rfl
@[simp] theorem exec_marginRead (region : BitVec 5) (low high : BitVec 8) (s : State) : exec (.marginRead region low high) s = execMarginRead region low high s := rfl
@[simp] theorem exec_margin (region : BitVec 5) (s : State) : exec (.margin region) s = execMargin region s := rfl
@[simp] theorem exec_temperatureReading (region : BitVec 5) (die stack inlet outlet : BitVec 10) (s : State) : exec (.temperatureReading region die stack inlet outlet) s = execTemperatureReading region die stack inlet outlet s := rfl
@[simp] theorem exec_thermalTrip (region : BitVec 5) (die stack : BitVec 10) (s : State) : exec (.thermalTrip region die stack) s = execThermalTrip region die stack s := rfl
@[simp] theorem exec_powerSequence (s : State) : exec .powerSequence s = execPowerSequence s := rfl
@[simp] theorem exec_seqfail (rail : BitVec 4) (s : State) : exec (.seqfail rail) s = execSeqfail rail s := rfl
@[simp] theorem exec_powerDown (s : State) : exec .powerDown s = execPowerDown s := rfl
@[simp] theorem exec_powerLoss (s : State) : exec .powerLoss s = execPowerLoss s := rfl
@[simp] theorem exec_overvoltage (s : State) : exec .overvoltage s = execOvervoltage s := rfl
@[simp] theorem exec_inputLow (decivolts : BitVec 10) (s : State) : exec (.inputLow decivolts) s = execInputLow decivolts s := rfl
@[simp] theorem exec_inputHigh (decivolts : BitVec 10) (s : State) : exec (.inputHigh decivolts) s = execInputHigh decivolts s := rfl
@[simp] theorem exec_sidebandWrite (off : BitVec 26) (v : Word) (s : State) : exec (.sidebandWrite off v) s = execSidebandWrite off v s := rfl
@[simp] theorem exec_extest (ports : BitVec 40) (link : Bool) (s : State) : exec (.extest ports link) s = execExtest ports link s := rfl
@[simp] theorem exec_debugAccess (p : Path) (wr : Bool) (s : State) : exec (.debugAccess p wr) s = execDebugAccess p wr s := rfl
@[simp] theorem exec_stop (p : Path) (c : CoreId) (t : Thr) (s : State) : exec (.stop p c t) s = execStop p c t s := rfl
@[simp] theorem exec_debugRun (p : Path) (c : CoreId) (t : Thr) (s : State) : exec (.debugRun p c t) s = execDebugRun p c t s := rfl
@[simp] theorem exec_step (p : Path) (c : CoreId) (t : Thr) (s : State) : exec (.step p c t) s = execStep p c t s := rfl
@[simp] theorem exec_breakpoint (c : CoreId) (t : Thr) (n : BitVec 2) (s : State) : exec (.breakpoint c t n) s = execBreakpoint c t n s := rfl
@[simp] theorem exec_bedStop (c : CoreId) (s : State) : exec (.bedStop c) s = execBedStop c s := rfl
@[simp] theorem exec_dbgBedcmdStop (p : Path) (bed : BitVec 5) (s : State) : exec (.dbgBedcmdStop p bed) s = execDbgBedcmdStop p bed s := rfl
@[simp] theorem exec_dbgBedcmdRun (p : Path) (bed : BitVec 5) (s : State) : exec (.dbgBedcmdRun p bed) s = execDbgBedcmdRun p bed s := rfl
@[simp] theorem exec_trdataAccess (p : Path) (c : CoreId) (wr : Option Word) (s : State) : exec (.trdataAccess p c wr) s = execTrdataAccess p c wr s := rfl
@[simp] theorem exec_spdataAccess (p : Path) (c : CoreId) (wr : Option Word) (s : State) : exec (.spdataAccess p c wr) s = execSpdataAccess p c wr s := rfl
@[simp] theorem exec_captureWindowOpen (c : CoreId) (s : State) : exec (.captureWindowOpen c) s = execCaptureWindowOpen c s := rfl
@[simp] theorem exec_captureWindowClose (c : CoreId) (s : State) : exec (.captureWindowClose c) s = execCaptureWindowClose c s := rfl
@[simp] theorem exec_traceRead (p : Path) (c : CoreId) (s : State) : exec (.traceRead p c) s = execTraceRead p c s := rfl
@[simp] theorem exec_hsElogRead (p : Path) (s : State) : exec (.hsElogRead p) s = execHsElogRead p s := rfl
@[simp] theorem exec_powerApplied (decivolts : BitVec 10) (s : State) : exec (.powerApplied decivolts) s = execPowerApplied decivolts s := rfl
@[simp] theorem exec_slewing (s : State) : exec .slewing s = execSlewing s := rfl
@[simp] theorem exec_brepoLinkTraining (s : State) : exec .brepoLinkTraining s = execBrepoLinkTraining s := rfl
@[simp] theorem exec_portDisable (p : Path) (port : BitVec 6) (s : State) : exec (.portDisable p port) s = execPortDisable p port s := rfl
@[simp] theorem exec_retirementRecordWrite (s : State) : exec .retirementRecordWrite s = execRetirementRecordWrite s := rfl

end Sys2Proof.Machine
end

