-- ==== Sys2Proof/Laws/Fields.lean ====
section
/-! SUPPORT. Fields of registers: what a field reads after a write of it, and after a write of another field of the register. -/

namespace Sys2Proof.Machine

/-- A word cut at a field: what stands above it, the field, and what stands below. -/
theorem Fld.cut (f : Fld) (h : f.lo ≤ f.hi) (hw : f.hi < 32) (w : Word) :
    ∃ q r, w.toNat = (q * 2 ^ (f.hi - f.lo + 1) + f.of w) * 2 ^ f.lo + r ∧ r < 2 ^ f.lo ∧
      ∀ y, y < 2 ^ (f.hi - f.lo + 1) → (q * 2 ^ (f.hi - f.lo + 1) + y) * 2 ^ f.lo + r < 2 ^ 32 := by
  refine ⟨w.toNat / 2 ^ f.lo / 2 ^ (f.hi - f.lo + 1), w.toNat % 2 ^ f.lo, ?_, Nat.mod_lt _ (by positivity), ?_⟩
  · unfold Fld.of
    rw [Nat.shiftRight_eq_div_pow, Nat.div_add_mod' (w.toNat / 2 ^ f.lo), Nat.div_add_mod']
  · intro y hy
    have e : 2 ^ 32 = 2 ^ (31 - f.hi) * (2 ^ (f.hi - f.lo + 1) * 2 ^ f.lo) := by
      rw [← pow_add, ← pow_add]; congr 1; omega
    have hq : w.toNat / 2 ^ f.lo / 2 ^ (f.hi - f.lo + 1) < 2 ^ (31 - f.hi) := by
      rw [Nat.div_div_eq_div_mul, Nat.div_lt_iff_lt_mul (by positivity), Nat.mul_comm (2 ^ f.lo)]
      exact Nat.lt_of_lt_of_eq w.isLt e
    have hr : w.toNat % 2 ^ f.lo < 2 ^ f.lo := Nat.mod_lt _ (by positivity)
    generalize w.toNat / 2 ^ f.lo / 2 ^ (f.hi - f.lo + 1) = q at *
    generalize w.toNat % 2 ^ f.lo = r at *
    rw [e]
    calc (q * 2 ^ (f.hi - f.lo + 1) + y) * 2 ^ f.lo + r < (q * 2 ^ (f.hi - f.lo + 1) + y) * 2 ^ f.lo + 2 ^ f.lo := by omega
      _ = (q * 2 ^ (f.hi - f.lo + 1) + y + 1) * 2 ^ f.lo := by ring
      _ ≤ (q * 2 ^ (f.hi - f.lo + 1) + 2 ^ (f.hi - f.lo + 1)) * 2 ^ f.lo := Nat.mul_le_mul_right _ (by omega)
      _ = (q + 1) * (2 ^ (f.hi - f.lo + 1) * 2 ^ f.lo) := by ring
      _ ≤ _ := Nat.mul_le_mul_right _ hq

/-- The word after a write of a field: only the field differs. -/
theorem Fld.toNat_put (f : Fld) (h : f.lo ≤ f.hi) (hw : f.hi < 32) (w : Word) (v : Nat) :
    ∃ q r, w.toNat = (q * 2 ^ (f.hi - f.lo + 1) + f.of w) * 2 ^ f.lo + r ∧ r < 2 ^ f.lo ∧
      (f.put w v).toNat = (q * 2 ^ (f.hi - f.lo + 1) + v % 2 ^ (f.hi - f.lo + 1)) * 2 ^ f.lo + r := by
  obtain ⟨q, r, e, hr, hb⟩ := f.cut h hw w
  refine ⟨q, r, e, hr, ?_⟩
  have hv : v % 2 ^ (f.hi - f.lo + 1) < 2 ^ (f.hi - f.lo + 1) := Nat.mod_lt _ (by positivity)
  unfold Fld.put
  dsimp only
  rw [BitVec.toNat_ofNat, show (w.toNat >>> f.lo) % 2 ^ (f.hi - f.lo + 1) = f.of w from rfl, Nat.shiftLeft_eq, Nat.shiftLeft_eq]
  have e' : w.toNat - f.of w * 2 ^ f.lo + v % 2 ^ (f.hi - f.lo + 1) * 2 ^ f.lo =
      (q * 2 ^ (f.hi - f.lo + 1) + v % 2 ^ (f.hi - f.lo + 1)) * 2 ^ f.lo + r := by
    rw [e, Nat.add_mul, Nat.add_mul]; omega
  rw [e', Nat.mod_eq_of_lt (hb _ hv)]

/-- A field reads what was written into it, cut to its width. -/
theorem Fld.of_put_same (f : Fld) (h : f.lo ≤ f.hi) (hw : f.hi < 32) (w : Word) (v : Nat) :
    f.of (f.put w v) = v % 2 ^ (f.hi - f.lo + 1) := by
  obtain ⟨q, r, _, hr, e⟩ := f.toNat_put h hw w v
  rw [Fld.of, e, Nat.shiftRight_eq_div_pow, Nat.mul_comm _ (2 ^ f.lo), Nat.mul_add_div (by positivity), Nat.div_eq_of_lt hr, Nat.add_zero,
    Nat.mul_comm, Nat.mul_add_mod, Nat.mod_mod]

/-- A bit outside a written field stands. -/
theorem Fld.testBit_put (f : Fld) (h : f.lo ≤ f.hi) (hw : f.hi < 32) (w : Word) (v i : Nat) (hi : i < f.lo ∨ f.hi < i) :
    (f.put w v).toNat.testBit i = w.toNat.testBit i := by
  obtain ⟨q, r, e0, hr, e⟩ := f.toNat_put h hw w v
  rw [e, e0, Nat.mul_comm _ (2 ^ f.lo), Nat.mul_comm _ (2 ^ f.lo), Nat.testBit_two_pow_mul_add _ hr, Nat.testBit_two_pow_mul_add _ hr]
  rcases hi with hi | hi
  · simp [hi]
  · have n : ¬ i < f.lo := by omega
    have m : ¬ i - f.lo < f.hi - f.lo + 1 := by omega
    simp only [n, if_false]
    rw [Nat.mul_comm q, Nat.testBit_two_pow_mul_add _ (Nat.mod_lt _ (by positivity)),
      Nat.testBit_two_pow_mul_add _ (show f.of w < 2 ^ (f.hi - f.lo + 1) from Nat.mod_lt _ (by positivity))]
    simp [m]

/-- A field that another does not overlap reads as before. -/
theorem Fld.of_put_other (f g : Fld) (h : g.lo ≤ g.hi) (hw : g.hi < 32) (w : Word) (v : Nat) (hfg : f.hi < g.lo ∨ g.hi < f.lo) (hf : f.lo ≤ f.hi) :
    f.of (g.put w v) = f.of w := by
  apply Nat.eq_of_testBit_eq
  intro i
  simp only [Fld.of, Nat.testBit_mod_two_pow, Nat.testBit_shiftRight]
  by_cases hi : i < f.hi - f.lo + 1
  · rw [g.testBit_put h hw w v (f.lo + i) (by omega)]
  · simp [hi]

theorem Core.fld_setFld_same (k : Core) (f : Fld) (h : f.lo ≤ f.hi) (hw : f.hi < 32) (v : Nat) :
    (k.setFld f v).fld f = v % 2 ^ (f.hi - f.lo + 1) := by
  unfold Core.fld Core.setFld; rw [Core.w_setW_same]; exact f.of_put_same h hw _ v

theorem State.fld_setFld_same (s : State) (f : Fld) (h : f.lo ≤ f.hi) (hw : f.hi < 32) (v : Nat) :
    (s.setFld f v).fld f = v % 2 ^ (f.hi - f.lo + 1) := by
  unfold State.fld State.setFld; rw [State.devW_setDev_same]; exact f.of_put_same h hw _ v

end Sys2Proof.Machine
end

