-- ==== Sys2Proof/Laws/Issue.lean ====
section
/-! SUPPORT. What an issue does: all outcomes of a thread's instruction, from the result of its execution. -/

namespace Sys2Proof.Machine

/-- The next state that the result of an execution leads to. -/
def State.after (s : State) (c : CoreId) (t : Thr) (i : Instr) : Res → State
  | .seq u => s.thenNext c t i u
  | .jump u target => s.thenAt c t i target u
  | .stay u => u.issued c t (s.th c t).pc (isTile i)
  | .fault u code detail faddr => s.thenTrap c t i code detail faddr u
  | .wait u kind obj => s.thenWait c t i kind obj u
  | .stall => s

/-- An instruction of a thread that issues it comes to what its execution in the issue cycle comes to. -/
theorem issue_of_issues (s : State) (c : CoreId) (t : Thr) (i : Instr) (body : State → Res) (h : s.issues c t i = true) :
    issue c t i body s = .next (s.after c t i (body (s.atIssue c t i))) := by
  simp only [State.issues, Bool.and_eq_true, beq_iff_eq, Bool.not_eq_true', bne_iff_ne, ne_eq, Option.isNone_iff_eq_none] at h
  obtain ⟨⟨⟨⟨⟨⟨⟨⟨⟨⟨hc, hr⟩, hst⟩, hpo⟩, hh⟩, hsas⟩, hstep⟩, hbp⟩, hpar⟩, hres⟩, htile⟩ := h
  have hbp' : (if (s.th c t).bpPass then [] else (s.core c).bpActs t (s.th c t).pc).any (· != 3) = false := by
    simpa [State.meets, List.all_eq_true, beq_iff_eq, List.any_eq_false] using hbp
  have hstep' : ((s.th c t).step == 2) = false := by simpa using hstep
  unfold issue
  simp only [hc, hr, hst, hpo, hh, hsas, hstep', hbp', hpar, hres, htile]
  rw [if_neg (by decide), if_neg (by decide), if_neg (by decide), if_neg (by decide), if_neg (by decide)]
  have hat : (if (if (s.th c t).bpPass then [] else (s.core c).bpActs t (s.th c t).pc) ≠ [] then
      ((((s.advanceTo (s.issueCyc c t i)).onCore c fun k => k.count 4 (some t)
        ((s.issueCyc c t i - slotFrom t (later s.now (s.th c t).next)).toNat / 4)).onTh c t fun x =>
          { x with next := s.issueCyc c t i + 4 }).trace c 12 t 4 (s.th c t).pc.toNat)
      else (((s.advanceTo (s.issueCyc c t i)).onCore c fun k => k.count 4 (some t)
        ((s.issueCyc c t i - slotFrom t (later s.now (s.th c t).next)).toNat / 4)).onTh c t fun x =>
          { x with next := s.issueCyc c t i + 4 })) = s.atIssue c t i := rfl
  rw [if_neg (by decide), hat]
  cases body (s.atIssue c t i) <;> rfl

/-- A thread that is not in RUN, or is stalled in an instruction, or whose job is past its pass, issues nothing. -/
theorem issue_of_not_run (s : State) (c : CoreId) (t : Thr) (i : Instr) (body : State → Res) (hc : s.hasCore c = true)
    (h : (s.th c t).state ≠ .run ∨ (s.th c t).stalled = true ∨ s.passOver c = true) : issue c t i body s = .next s := by
  unfold issue
  have : ((s.th c t).state != .run || (s.th c t).stalled || s.passOver c) = true := by simpa [or_assoc] using h
  simp [hc, this]

/-- No core above the grid issues an instruction. -/
theorem issue_of_no_core (s : State) (c : CoreId) (t : Thr) (i : Instr) (body : State → Res) (hc : s.hasCore c = false) :
    issue c t i body s = .refused .noSuchCore := by
  unfold issue; simp [hc]

/-! ### The state in the issue cycle -/

@[simp] theorem Core.setTh_th_count (k : Core) (e : Nat) (n : Nat) (t u : Thr) : (k.count e (some u) n).th t = k.th t := Core.th_count _ _ _ _ _

/-- In the issue cycle the issuing thread differs only in its next issue. -/
theorem State.th_atIssue (s : State) (c : CoreId) (t : Thr) (i : Instr) :
    (s.atIssue c t i).th c t = { s.th c t with next := s.issueCyc c t i + 4 } := by
  unfold State.atIssue
  dsimp only
  rw [← State.th_advanceTo s (s.issueCyc c t i) c t]
  split <;> simp [State.trace, State.onTh, State.th]

/-! ### The core and the module in the issue cycle -/

/-- A count moves no window register but the four counters. -/
theorem Core.w_count (k : Core) (e : Nat) (t : Option Thr) (n o : Nat) (h : measured o = false) : (k.count e t n).w o = k.w o := by
  have hm : ∀ m, m < 4 → o ≠ R.CORE_CNT m := by
    intro m hm he
    subst he
    simp only [measured, R.CORE_CNT, Bool.or_eq_false_iff, Bool.and_eq_false_iff, decide_eq_false_iff_not] at h; omega
  unfold Core.count
  split
  · rfl
  · have : ∀ (xs : List Nat), (∀ m ∈ xs, m < 4) → ∀ (f : Core → Nat → Core) (k : Core), (∀ a m, m < 4 → (f a m).w o = a.w o) →
        (xs.foldl f k).w o = k.w o := by
      intro xs
      induction xs with
      | nil => intros; rfl
      | cons x xs ih =>
        intro hx f k hf
        rw [List.foldl_cons, ih (fun m hm => hx m (by simp [hm])) f (f k x) hf, hf k x (hx x (by simp))]
    refine this _ (fun m hm => by simpa using hm) _ k (fun a m hm' => ?_)
    dsimp only
    repeat' split
    all_goals first | rfl | exact Core.w_setW_other _ _ _ _ (hm m hm')

/-- A trace record moves no window register but CORE_TRSTAT. -/
theorem Core.w_traceAt (k : Core) (now : Count) (kind : Nat) (t : Thr) (aux data o : Nat) (h : measured o = false) :
    (k.traceAt now kind t aux data).w o = k.w o := by
  have ho : o ≠ R.CORE_TRSTAT := by intro he; subst he; simp [measured] at h
  unfold Core.traceAt
  dsimp only
  repeat' split
  all_goals first | rfl | exact Core.w_setW_other _ _ _ _ ho

/-- The clock moves no window register but the counters. -/
theorem State.w_advanceTo (s : State) (d : Count) (c : CoreId) (o : Nat) (h : measured o = false) :
    ((s.advanceTo d).core c).w o = (s.core c).w o :=
  State.core_advanceTo (fun k => k.w o) (fun _ _ _ _ => Core.w_count _ _ _ _ _ h) (fun _ _ _ _ _ => rfl) s d c

/-- A function of a core that counting, tracing and the thread's next issue leave alone is in the issue cycle what the clock has left. -/
theorem State.core_atIssue_now {α : Type} (g : Core → α) (hc : ∀ (k : Core) (e n : Nat) (t : Option Thr), g (k.count e t n) = g k)
    (ht : ∀ (k : Core) (now : Count) (kind aux data : Nat) (t : Thr), g (k.traceAt now kind t aux data) = g k)
    (hx : ∀ (k : Core) (t : Thr) (f : Thread → Thread), g (k.onTh t f) = g k) (s : State) (c d : CoreId) (t : Thr) (i : Instr) :
    g ((s.atIssue c t i).core d) = g ((s.advanceTo (s.issueCyc c t i)).core d) := by
  by_cases e : d = c
  · subst e
    unfold State.atIssue
    dsimp only
    split <;> simp [State.trace, hc, ht, hx]
  · unfold State.atIssue
    dsimp only
    split <;> simp [State.trace, State.core_onCore_other _ _ _ _ e, State.core_onTh_other _ _ _ _ _ e]

/-- A function of a core that counting, tracing and the thread's next issue leave alone is as before in the issue cycle. -/
theorem State.core_atIssue {α : Type} (g : Core → α) (hc : ∀ (k : Core) (e n : Nat) (t : Option Thr), g (k.count e t n) = g k)
    (ht : ∀ (k : Core) (now : Count) (kind aux data : Nat) (t : Thr), g (k.traceAt now kind t aux data) = g k)
    (hx : ∀ (k : Core) (t : Thr) (f : Thread → Thread), g (k.onTh t f) = g k) (hw : ∀ (k : Core) a b q z, g { k with sp := a, spPar := b, tq := q, gots := z } = g k)
    (s : State) (c d : CoreId) (t : Thr) (i : Instr) : g ((s.atIssue c t i).core d) = g (s.core d) :=
  (State.core_atIssue_now g hc ht hx s c d t i).trans (State.core_advanceTo g hc hw s _ d)

@[simp] theorem State.w_atIssue (s : State) (c d : CoreId) (t : Thr) (i : Instr) (o : Nat) (h : measured o = false) :
    ((s.atIssue c t i).core d).w o = (s.core d).w o :=
  State.core_atIssue (fun k => k.w o) (fun _ _ _ _ => Core.w_count _ _ _ _ _ h) (fun _ _ _ _ _ _ => Core.w_traceAt _ _ _ _ _ _ _ h)
    (fun _ _ _ => rfl) (fun _ _ _ _ _ => rfl) s c d t i

@[simp] theorem State.pm_core_atIssue (s : State) (c d : CoreId) (t : Thr) (i : Instr) : ((s.atIssue c t i).core d).pm = (s.core d).pm :=
  State.core_atIssue Core.pm (fun _ _ _ _ => Core.pm_count _ _ _ _) (fun _ _ _ _ _ _ => Core.pm_traceAt _ _ _ _ _ _) (fun _ _ _ => rfl) (fun _ _ _ _ _ => rfl) s c d t i
@[simp] theorem State.pmPar_core_atIssue (s : State) (c d : CoreId) (t : Thr) (i : Instr) : ((s.atIssue c t i).core d).pmPar = (s.core d).pmPar :=
  State.core_atIssue Core.pmPar (fun _ _ _ _ => Core.pmPar_count _ _ _ _) (fun _ _ _ _ _ _ => Core.pmPar_traceAt _ _ _ _ _ _) (fun _ _ _ => rfl) (fun _ _ _ _ _ => rfl) s c d t i
@[simp] theorem State.sp_core_atIssue (s : State) (c d : CoreId) (t : Thr) (i : Instr) :
    ((s.atIssue c t i).core d).sp = ((s.advanceTo (s.issueCyc c t i)).core d).sp :=
  State.core_atIssue_now Core.sp (fun _ _ _ _ => Core.sp_count _ _ _ _) (fun _ _ _ _ _ _ => Core.sp_traceAt _ _ _ _ _ _) (fun _ _ _ => rfl) s c d t i
@[simp] theorem State.spPar_core_atIssue (s : State) (c d : CoreId) (t : Thr) (i : Instr) :
    ((s.atIssue c t i).core d).spPar = ((s.advanceTo (s.issueCyc c t i)).core d).spPar :=
  State.core_atIssue_now Core.spPar (fun _ _ _ _ => Core.spPar_count _ _ _ _) (fun _ _ _ _ _ _ => Core.spPar_traceAt _ _ _ _ _ _) (fun _ _ _ => rfl) s c d t i
@[simp] theorem State.valid_core_atIssue (s : State) (c d : CoreId) (t : Thr) (i : Instr) : ((s.atIssue c t i).core d).valid = (s.core d).valid :=
  State.core_atIssue Core.valid (fun _ _ _ _ => Core.valid_count _ _ _ _) (fun _ _ _ _ _ _ => Core.valid_traceAt _ _ _ _ _ _) (fun _ _ _ => rfl) (fun _ _ _ _ _ => rfl) s c d t i
@[simp] theorem State.psn_core_atIssue (s : State) (c d : CoreId) (t : Thr) (i : Instr) : ((s.atIssue c t i).core d).psn = (s.core d).psn :=
  State.core_atIssue Core.psn (fun _ _ _ _ => Core.psn_count _ _ _ _) (fun _ _ _ _ _ _ => Core.psn_traceAt _ _ _ _ _ _) (fun _ _ _ => rfl) (fun _ _ _ _ _ => rfl) s c d t i
@[simp] theorem State.lockq_core_atIssue (s : State) (c d : CoreId) (t : Thr) (i : Instr) : ((s.atIssue c t i).core d).lockq = (s.core d).lockq :=
  State.core_atIssue Core.lockq (fun _ _ _ _ => Core.lockq_count _ _ _ _) (fun _ _ _ _ _ _ => Core.lockq_traceAt _ _ _ _ _ _) (fun _ _ _ => rfl) (fun _ _ _ _ _ => rfl) s c d t i
@[simp] theorem State.fsq_core_atIssue (s : State) (c d : CoreId) (t : Thr) (i : Instr) : ((s.atIssue c t i).core d).fsq = (s.core d).fsq :=
  State.core_atIssue Core.fsq (fun _ _ _ _ => Core.fsq_count _ _ _ _) (fun _ _ _ _ _ _ => Core.fsq_traceAt _ _ _ _ _ _) (fun _ _ _ => rfl) (fun _ _ _ _ _ => rfl) s c d t i
@[simp] theorem State.fsqOvf_core_atIssue (s : State) (c d : CoreId) (t : Thr) (i : Instr) : ((s.atIssue c t i).core d).fsqOvf = (s.core d).fsqOvf :=
  State.core_atIssue Core.fsqOvf (fun _ _ _ _ => Core.fsqOvf_count _ _ _ _) (fun _ _ _ _ _ _ => Core.fsqOvf_traceAt _ _ _ _ _ _) (fun _ _ _ => rfl) (fun _ _ _ _ _ => rfl) s c d t i
@[simp] theorem State.flags_core_atIssue (s : State) (c d : CoreId) (t : Thr) (i : Instr) : ((s.atIssue c t i).core d).flags = (s.core d).flags :=
  State.core_atIssue Core.flags (fun _ _ _ _ => Core.flags_count _ _ _ _) (fun _ _ _ _ _ _ => Core.flags_traceAt _ _ _ _ _ _) (fun _ _ _ => rfl) (fun _ _ _ _ _ => rfl) s c d t i
@[simp] theorem State.fcyc_core_atIssue (s : State) (c d : CoreId) (t : Thr) (i : Instr) : ((s.atIssue c t i).core d).fcyc = (s.core d).fcyc :=
  State.core_atIssue Core.fcyc (fun _ _ _ _ => Core.fcyc_count _ _ _ _) (fun _ _ _ _ _ _ => Core.fcyc_traceAt _ _ _ _ _ _) (fun _ _ _ => rfl) (fun _ _ _ _ _ => rfl) s c d t i
@[simp] theorem State.nst_core_atIssue (s : State) (c d : CoreId) (t : Thr) (i : Instr) : ((s.atIssue c t i).core d).nst = (s.core d).nst :=
  State.core_atIssue Core.nst (fun _ _ _ _ => Core.nst_count _ _ _ _) (fun _ _ _ _ _ _ => Core.nst_traceAt _ _ _ _ _ _) (fun _ _ _ => rfl) (fun _ _ _ _ _ => rfl) s c d t i
@[simp] theorem State.bdata_core_atIssue (s : State) (c d : CoreId) (t : Thr) (i : Instr) : ((s.atIssue c t i).core d).bdata = (s.core d).bdata :=
  State.core_atIssue Core.bdata (fun _ _ _ _ => Core.bdata_count _ _ _ _) (fun _ _ _ _ _ _ => Core.bdata_traceAt _ _ _ _ _ _) (fun _ _ _ => rfl) (fun _ _ _ _ _ => rfl) s c d t i
@[simp] theorem State.bscale_core_atIssue (s : State) (c d : CoreId) (t : Thr) (i : Instr) : ((s.atIssue c t i).core d).bscale = (s.core d).bscale :=
  State.core_atIssue Core.bscale (fun _ _ _ _ => Core.bscale_count _ _ _ _) (fun _ _ _ _ _ _ => Core.bscale_traceAt _ _ _ _ _ _) (fun _ _ _ => rfl) (fun _ _ _ _ _ => rfl) s c d t i
@[simp] theorem State.bext_core_atIssue (s : State) (c d : CoreId) (t : Thr) (i : Instr) : ((s.atIssue c t i).core d).bext = (s.core d).bext :=
  State.core_atIssue Core.bext (fun _ _ _ _ => Core.bext_count _ _ _ _) (fun _ _ _ _ _ _ => Core.bext_traceAt _ _ _ _ _ _) (fun _ _ _ => rfl) (fun _ _ _ _ _ => rfl) s c d t i
@[simp] theorem State.tq_core_atIssue (s : State) (c d : CoreId) (t : Thr) (i : Instr) :
    ((s.atIssue c t i).core d).tq = ((s.advanceTo (s.issueCyc c t i)).core d).tq :=
  State.core_atIssue_now Core.tq (fun _ _ _ _ => Core.tq_count _ _ _ _) (fun _ _ _ _ _ _ => Core.tq_traceAt _ _ _ _ _ _) (fun _ _ _ => rfl) s c d t i
@[simp] theorem State.tseq_core_atIssue (s : State) (c d : CoreId) (t : Thr) (i : Instr) : ((s.atIssue c t i).core d).tseq = (s.core d).tseq :=
  State.core_atIssue Core.tseq (fun _ _ _ _ => Core.tseq_count _ _ _ _) (fun _ _ _ _ _ _ => Core.tseq_traceAt _ _ _ _ _ _) (fun _ _ _ => rfl) (fun _ _ _ _ _ => rfl) s c d t i
@[simp] theorem State.xcap_core_atIssue (s : State) (c d : CoreId) (t : Thr) (i : Instr) : ((s.atIssue c t i).core d).xcap = (s.core d).xcap :=
  State.core_atIssue Core.xcap (fun _ _ _ _ => Core.xcap_count _ _ _ _) (fun _ _ _ _ _ _ => Core.xcap_traceAt _ _ _ _ _ _) (fun _ _ _ => rfl) (fun _ _ _ _ _ => rfl) s c d t i
@[simp] theorem State.stage_core_atIssue (s : State) (c d : CoreId) (t : Thr) (i : Instr) : ((s.atIssue c t i).core d).stage = (s.core d).stage :=
  State.core_atIssue Core.stage (fun _ _ _ _ => Core.stage_count _ _ _ _) (fun _ _ _ _ _ _ => Core.stage_traceAt _ _ _ _ _ _) (fun _ _ _ => rfl) (fun _ _ _ _ _ => rfl) s c d t i
@[simp] theorem State.tdone_core_atIssue (s : State) (c d : CoreId) (t : Thr) (i : Instr) : ((s.atIssue c t i).core d).tdone = (s.core d).tdone :=
  State.core_atIssue Core.tdone (fun _ _ _ _ => Core.tdone_count _ _ _ _) (fun _ _ _ _ _ _ => Core.tdone_traceAt _ _ _ _ _ _) (fun _ _ _ => rfl) (fun _ _ _ _ _ => rfl) s c d t i
@[simp] theorem State.trow_core_atIssue (s : State) (c d : CoreId) (t : Thr) (i : Instr) : ((s.atIssue c t i).core d).trow = (s.core d).trow :=
  State.core_atIssue Core.trow (fun _ _ _ _ => Core.trow_count _ _ _ _) (fun _ _ _ _ _ _ => Core.trow_traceAt _ _ _ _ _ _) (fun _ _ _ => rfl) (fun _ _ _ _ _ => rfl) s c d t i
@[simp] theorem State.chan_core_atIssue (s : State) (c d : CoreId) (t : Thr) (i : Instr) : ((s.atIssue c t i).core d).chan = (s.core d).chan :=
  State.core_atIssue Core.chan (fun _ _ _ _ => Core.chan_count _ _ _ _) (fun _ _ _ _ _ _ => Core.chan_traceAt _ _ _ _ _ _) (fun _ _ _ => rfl) (fun _ _ _ _ _ => rfl) s c d t i
@[simp] theorem State.slotAt_core_atIssue (s : State) (c d : CoreId) (t : Thr) (i : Instr) : ((s.atIssue c t i).core d).slotAt = (s.core d).slotAt :=
  State.core_atIssue Core.slotAt (fun _ _ _ _ => Core.slotAt_count _ _ _ _) (fun _ _ _ _ _ _ => Core.slotAt_traceAt _ _ _ _ _ _) (fun _ _ _ => rfl) (fun _ _ _ _ _ => rfl) s c d t i
@[simp] theorem State.edgeAt_core_atIssue (s : State) (c d : CoreId) (t : Thr) (i : Instr) : ((s.atIssue c t i).core d).edgeAt = (s.core d).edgeAt :=
  State.core_atIssue Core.edgeAt (fun _ _ _ _ => Core.edgeAt_count _ _ _ _) (fun _ _ _ _ _ _ => Core.edgeAt_traceAt _ _ _ _ _ _) (fun _ _ _ => rfl) (fun _ _ _ _ _ => rfl) s c d t i
@[simp] theorem State.locAt_core_atIssue (s : State) (c d : CoreId) (t : Thr) (i : Instr) : ((s.atIssue c t i).core d).locAt = (s.core d).locAt :=
  State.core_atIssue Core.locAt (fun _ _ _ _ => Core.locAt_count _ _ _ _) (fun _ _ _ _ _ _ => Core.locAt_traceAt _ _ _ _ _ _) (fun _ _ _ => rfl) (fun _ _ _ _ _ => rfl) s c d t i
@[simp] theorem State.dmaMsgs_core_atIssue (s : State) (c d : CoreId) (t : Thr) (i : Instr) : ((s.atIssue c t i).core d).dmaMsgs = (s.core d).dmaMsgs :=
  State.core_atIssue Core.dmaMsgs (fun _ _ _ _ => Core.dmaMsgs_count _ _ _ _) (fun _ _ _ _ _ _ => Core.dmaMsgs_traceAt _ _ _ _ _ _) (fun _ _ _ => rfl) (fun _ _ _ _ _ => rfl) s c d t i
@[simp] theorem State.vset_core_atIssue (s : State) (c d : CoreId) (t : Thr) (i : Instr) : ((s.atIssue c t i).core d).vset = (s.core d).vset :=
  State.core_atIssue Core.vset (fun _ _ _ _ => Core.vset_count _ _ _ _) (fun _ _ _ _ _ _ => Core.vset_traceAt _ _ _ _ _ _) (fun _ _ _ => rfl) (fun _ _ _ _ _ => rfl) s c d t i
@[simp] theorem State.gots_core_atIssue (s : State) (c d : CoreId) (t : Thr) (i : Instr) :
    ((s.atIssue c t i).core d).gots = ((s.advanceTo (s.issueCyc c t i)).core d).gots :=
  State.core_atIssue_now Core.gots (fun _ _ _ _ => Core.gots_count _ _ _ _) (fun _ _ _ _ _ _ => Core.gots_traceAt _ _ _ _ _ _) (fun _ _ _ => rfl) s c d t i
@[simp] theorem State.served_core_atIssue (s : State) (c d : CoreId) (t : Thr) (i : Instr) : ((s.atIssue c t i).core d).served = (s.core d).served :=
  State.core_atIssue Core.served (fun _ _ _ _ => Core.served_count _ _ _ _) (fun _ _ _ _ _ _ => Core.served_traceAt _ _ _ _ _ _) (fun _ _ _ => rfl) (fun _ _ _ _ _ => rfl) s c d t i
@[simp] theorem State.xlate_core_atIssue (s : State) (c d : CoreId) (t : Thr) (i : Instr) : ((s.atIssue c t i).core d).xlate = (s.core d).xlate :=
  State.core_atIssue Core.xlate (fun _ _ _ _ => Core.xlate_count _ _ _ _) (fun _ _ _ _ _ _ => Core.xlate_traceAt _ _ _ _ _ _) (fun _ _ _ => rfl) (fun _ _ _ _ _ => rfl) s c d t i
@[simp] theorem State.conn_core_atIssue (s : State) (c d : CoreId) (t : Thr) (i : Instr) : ((s.atIssue c t i).core d).conn = (s.core d).conn :=
  State.core_atIssue Core.conn (fun _ _ _ _ => Core.conn_count _ _ _ _) (fun _ _ _ _ _ _ => Core.conn_traceAt _ _ _ _ _ _) (fun _ _ _ => rfl) (fun _ _ _ _ _ => rfl) s c d t i
@[simp] theorem State.connSeq_core_atIssue (s : State) (c d : CoreId) (t : Thr) (i : Instr) : ((s.atIssue c t i).core d).connSeq = (s.core d).connSeq :=
  State.core_atIssue Core.connSeq (fun _ _ _ _ => Core.connSeq_count _ _ _ _) (fun _ _ _ _ _ _ => Core.connSeq_traceAt _ _ _ _ _ _) (fun _ _ _ => rfl) (fun _ _ _ _ _ => rfl) s c d t i
@[simp] theorem State.ring_core_atIssue (s : State) (c d : CoreId) (t : Thr) (i : Instr) : ((s.atIssue c t i).core d).ring = (s.core d).ring :=
  State.core_atIssue Core.ring (fun _ _ _ _ => Core.ring_count _ _ _ _) (fun _ _ _ _ _ _ => Core.ring_traceAt _ _ _ _ _ _) (fun _ _ _ => rfl) (fun _ _ _ _ _ => rfl) s c d t i
@[simp] theorem State.owed_core_atIssue (s : State) (c d : CoreId) (t : Thr) (i : Instr) : ((s.atIssue c t i).core d).owed = (s.core d).owed :=
  State.core_atIssue Core.owed (fun _ _ _ _ => Core.owed_count _ _ _ _) (fun _ _ _ _ _ _ => Core.owed_traceAt _ _ _ _ _ _) (fun _ _ _ => rfl) (fun _ _ _ _ _ => rfl) s c d t i
@[simp] theorem State.dying_core_atIssue (s : State) (c d : CoreId) (t : Thr) (i : Instr) : ((s.atIssue c t i).core d).dying = (s.core d).dying :=
  State.core_atIssue Core.dying (fun _ _ _ _ => Core.dying_count _ _ _ _) (fun _ _ _ _ _ _ => Core.dying_traceAt _ _ _ _ _ _) (fun _ _ _ => rfl) (fun _ _ _ _ _ => rfl) s c d t i
@[simp] theorem State.oldBed_core_atIssue (s : State) (c d : CoreId) (t : Thr) (i : Instr) : ((s.atIssue c t i).core d).oldBed = (s.core d).oldBed :=
  State.core_atIssue Core.oldBed (fun _ _ _ _ => Core.oldBed_count _ _ _ _) (fun _ _ _ _ _ _ => Core.oldBed_traceAt _ _ _ _ _ _) (fun _ _ _ => rfl) (fun _ _ _ _ _ => rfl) s c d t i
@[simp] theorem State.front_core_atIssue (s : State) (c d : CoreId) (t : Thr) (i : Instr) : ((s.atIssue c t i).core d).front = (s.core d).front :=
  State.core_atIssue Core.front (fun _ _ _ _ => Core.front_count _ _ _ _) (fun _ _ _ _ _ _ => Core.front_traceAt _ _ _ _ _ _) (fun _ _ _ => rfl) (fun _ _ _ _ _ => rfl) s c d t i
@[simp] theorem State.back_core_atIssue (s : State) (c d : CoreId) (t : Thr) (i : Instr) : ((s.atIssue c t i).core d).back = (s.core d).back :=
  State.core_atIssue Core.back (fun _ _ _ _ => Core.back_count _ _ _ _) (fun _ _ _ _ _ _ => Core.back_traceAt _ _ _ _ _ _) (fun _ _ _ => rfl) (fun _ _ _ _ _ => rfl) s c d t i
@[simp] theorem State.swN_core_atIssue (s : State) (c d : CoreId) (t : Thr) (i : Instr) : ((s.atIssue c t i).core d).swN = (s.core d).swN :=
  State.core_atIssue Core.swN (fun _ _ _ _ => Core.swN_count _ _ _ _) (fun _ _ _ _ _ _ => Core.swN_traceAt _ _ _ _ _ _) (fun _ _ _ => rfl) (fun _ _ _ _ _ => rfl) s c d t i
@[simp] theorem State.snapBar_core_atIssue (s : State) (c d : CoreId) (t : Thr) (i : Instr) : ((s.atIssue c t i).core d).snapBar = (s.core d).snapBar :=
  State.core_atIssue Core.snapBar (fun _ _ _ _ => Core.snapBar_count _ _ _ _) (fun _ _ _ _ _ _ => Core.snapBar_traceAt _ _ _ _ _ _) (fun _ _ _ => rfl) (fun _ _ _ _ _ => rfl) s c d t i
@[simp] theorem State.snapPh_core_atIssue (s : State) (c d : CoreId) (t : Thr) (i : Instr) : ((s.atIssue c t i).core d).snapPh = (s.core d).snapPh :=
  State.core_atIssue Core.snapPh (fun _ _ _ _ => Core.snapPh_count _ _ _ _) (fun _ _ _ _ _ _ => Core.snapPh_traceAt _ _ _ _ _ _) (fun _ _ _ => rfl) (fun _ _ _ _ _ => rfl) s c d t i
@[simp] theorem State.snapTlo_core_atIssue (s : State) (c d : CoreId) (t : Thr) (i : Instr) : ((s.atIssue c t i).core d).snapTlo = (s.core d).snapTlo :=
  State.core_atIssue Core.snapTlo (fun _ _ _ _ => Core.snapTlo_count _ _ _ _) (fun _ _ _ _ _ _ => Core.snapTlo_traceAt _ _ _ _ _ _) (fun _ _ _ => rfl) (fun _ _ _ _ _ => rfl) s c d t i
@[simp] theorem State.snapThi_core_atIssue (s : State) (c d : CoreId) (t : Thr) (i : Instr) : ((s.atIssue c t i).core d).snapThi = (s.core d).snapThi :=
  State.core_atIssue Core.snapThi (fun _ _ _ _ => Core.snapThi_count _ _ _ _) (fun _ _ _ _ _ _ => Core.snapThi_traceAt _ _ _ _ _ _) (fun _ _ _ => rfl) (fun _ _ _ _ _ => rfl) s c d t i
@[simp] theorem State.tarm_core_atIssue (s : State) (c d : CoreId) (t : Thr) (i : Instr) : ((s.atIssue c t i).core d).tarm = (s.core d).tarm :=
  State.core_atIssue Core.tarm (fun _ _ _ _ => Core.tarm_count _ _ _ _) (fun _ _ _ _ _ _ => Core.tarm_traceAt _ _ _ _ _ _) (fun _ _ _ => rfl) (fun _ _ _ _ _ => rfl) s c d t i
@[simp] theorem State.topen_core_atIssue (s : State) (c d : CoreId) (t : Thr) (i : Instr) : ((s.atIssue c t i).core d).topen = (s.core d).topen :=
  State.core_atIssue Core.topen (fun _ _ _ _ => Core.topen_count _ _ _ _) (fun _ _ _ _ _ _ => Core.topen_traceAt _ _ _ _ _ _) (fun _ _ _ => rfl) (fun _ _ _ _ _ => rfl) s c d t i

/-! ### The loop-end check -/

/-- An inactive level, or one that ends elsewhere, is passed over. -/
theorem Thread.loopEnd_skip (a nxt : BitVec 15) (x : Thread) (lv : Nat)
    (h : x.st (16 + lv) = false ∨ SMap.get (fun _ => 0) x.le lv ≠ a) : Thread.loopEnd.go a nxt x (lv + 1) = Thread.loopEnd.go a nxt x lv := by
  rw [Thread.loopEnd.go, if_pos]
  simpa only [Bool.or_eq_true, Bool.not_eq_true', bne_iff_ne] using h

/-- A level that ends here loops back while its count is above 1. -/
theorem Thread.loopEnd_back (a nxt : BitVec 15) (x : Thread) (lv : Nat) (h : x.st (16 + lv) = true) (he : SMap.get (fun _ => 0) x.le lv = a)
    (hc : 1 < (SMap.get (fun _ => (0 : Word)) x.lc lv).toNat) : Thread.loopEnd.go a nxt x (lv + 1) =
      { x with lc := SMap.set (fun _ => 0) x.lc lv (SMap.get (fun _ => (0 : Word)) x.lc lv - 1), pc := SMap.get (fun _ => 0) x.ls lv } := by
  rw [Thread.loopEnd.go, if_neg (by simp only [h, he, Bool.not_true, bne_self_eq_false, Bool.or_self]; decide)]
  exact if_pos hc

/-- A level that ends here with a count of 1 or 0 is over, and the next lower one is looked at. -/
theorem Thread.loopEnd_over (a nxt : BitVec 15) (x : Thread) (lv : Nat) (h : x.st (16 + lv) = true) (he : SMap.get (fun _ => 0) x.le lv = a)
    (hc : ¬ 1 < (SMap.get (fun _ => (0 : Word)) x.lc lv).toNat) : Thread.loopEnd.go a nxt x (lv + 1) =
      Thread.loopEnd.go a nxt (({ x with lc := SMap.set (fun _ => 0) x.lc lv 0 } : Thread).setSt (16 + lv) false) lv := by
  rw [Thread.loopEnd.go, if_neg (by simp only [h, he, Bool.not_true, bne_self_eq_false, Bool.or_self]; decide)]
  exact if_neg hc

/-- Setting a bit of the status word changes that bit alone. -/
theorem Thread.st_setSt (x : Thread) (i j : Nat) (b : Bool) (hi : i < 32) (hj : j < 32) :
    (x.setSt i b).st j = if i = j then b else x.st j := by
  unfold Thread.setSt Thread.st
  cases b <;> simp only [Bool.false_eq_true, if_false, if_true, BitVec.getLsbD_and, BitVec.getLsbD_or, BitVec.getLsbD_not,
    BitVec.getLsbD_shiftLeft, BitVec.getLsbD_one]
  · by_cases h : i = j
    · subst h; simp [hi]
    · simp only [if_neg h]; by_cases h2 : j < i <;> simp [h2, hj]; omega
  · by_cases h : i = j
    · subst h; simp [hi]
    · simp only [if_neg h]; by_cases h2 : j < i <;> simp [h2, hj]; omega

@[simp] theorem State.fld_atIssue (s : State) (c d : CoreId) (t : Thr) (i : Instr) (f : Fld) (h : measured f.off = false) :
    ((s.atIssue c t i).core d).fld f = (s.core d).fld f := by unfold Core.fld; rw [State.w_atIssue _ _ _ _ _ _ h]

@[simp] theorem State.spByte_atIssue (s : State) (c d : CoreId) (t : Thr) (i : Instr) (a : Nat) :
    ((s.atIssue c t i).core d).spByte a = ((s.advanceTo (s.issueCyc c t i)).core d).spByte a := by simp [Core.spByte]

@[simp] theorem State.spWord_atIssue (s : State) (c d : CoreId) (t : Thr) (i : Instr) (w : Nat) :
    ((s.atIssue c t i).core d).spWord w = ((s.advanceTo (s.issueCyc c t i)).core d).spWord w := by simp [Core.spWord]

@[simp] theorem State.isPsn_atIssue (s : State) (c d : CoreId) (t : Thr) (i : Instr) (l : Nat) :
    ((s.atIssue c t i).core d).isPsn l = (s.core d).isPsn l := by unfold Core.isPsn; rw [State.psn_core_atIssue]

@[simp] theorem State.regionOf_atIssue (s : State) (c d : CoreId) (t : Thr) (i : Instr) (l : Nat) :
    ((s.atIssue c t i).core d).regionOf l = (s.core d).regionOf l := by
  have e : ∀ n, ((s.atIssue c t i).core d).gEn n = (s.core d).gEn n ∧ ((s.atIssue c t i).core d).gBase n = (s.core d).gBase n ∧
      ((s.atIssue c t i).core d).gCount n = (s.core d).gCount n := by
    intro n
    have h : measured (R.DMA_GUARD n) = false := by
      simp only [measured, R.DMA_GUARD, Bool.or_eq_false_iff, Bool.and_eq_false_iff, decide_eq_false_iff_not, beq_eq_false_iff_ne]; omega
    refine ⟨?_, ?_, ?_⟩
    · unfold Core.gEn; rw [State.fld_atIssue _ _ _ _ _ _ h]
    · unfold Core.gBase; rw [State.fld_atIssue _ _ _ _ _ _ h]
    · unfold Core.gCount; rw [State.fld_atIssue _ _ _ _ _ _ h]
  simp [Core.regionOf, e]

@[simp] theorem State.invalidLine_atIssue (s : State) (c d : CoreId) (t : Thr) (i : Instr) (w n : Nat) :
    ((s.atIssue c t i).core d).invalidLine w n = (s.core d).invalidLine w n := by
  simp [Core.invalidLine, Core.lineInvalid, Core.isValid]

@[simp] theorem State.dshi_atIssue (s : State) (c d : CoreId) (t u : Thr) (i : Instr) :
    ((s.atIssue c t i).core d).dshi u = (s.core d).dshi u := by
  unfold Core.dshi; rw [State.w_atIssue _ _ _ _ _ _ (by revert u; decide)]

@[simp] theorem State.dslo_atIssue (s : State) (c d : CoreId) (t u : Thr) (i : Instr) :
    ((s.atIssue c t i).core d).dslo u = (s.core d).dslo u := by
  unfold Core.dslo; rw [State.w_atIssue _ _ _ _ _ _ (by revert u; decide)]

/-- In the issue cycle the module differs only in the clock and its cores. -/
theorem State.atIssue_eq (s : State) (c : CoreId) (t : Thr) (i : Instr) :
    s.atIssue c t i = { s with now := (s.atIssue c t i).now, cores := (s.atIssue c t i).cores } := by
  unfold State.atIssue
  dsimp only
  have h := State.advanceTo_eq s (s.issueCyc c t i)
  revert h
  generalize s.advanceTo (s.issueCyc c t i) = u
  intro h
  rw [h]
  split <;> rfl

@[simp] theorem State.pending_atIssue (s : State) (c : CoreId) (t : Thr) (i : Instr) : (s.atIssue c t i).pending = s.pending := (congrArg State.pending (State.atIssue_eq s c t i)).trans rfl
@[simp] theorem State.dev_atIssue (s : State) (c : CoreId) (t : Thr) (i : Instr) : (s.atIssue c t i).dev = s.dev := (congrArg State.dev (State.atIssue_eq s c t i)).trans rfl
@[simp] theorem State.net_atIssue (s : State) (c : CoreId) (t : Thr) (i : Instr) : (s.atIssue c t i).net = s.net := (congrArg State.net (State.atIssue_eq s c t i)).trans rfl
@[simp] theorem State.mesh_atIssue (s : State) (c : CoreId) (t : Thr) (i : Instr) : (s.atIssue c t i).mesh = s.mesh := (congrArg State.mesh (State.atIssue_eq s c t i)).trans rfl
@[simp] theorem State.dram_atIssue (s : State) (c : CoreId) (t : Thr) (i : Instr) : (s.atIssue c t i).dram = s.dram := (congrArg State.dram (State.atIssue_eq s c t i)).trans rfl
@[simp] theorem State.dramPsn_atIssue (s : State) (c : CoreId) (t : Thr) (i : Instr) : (s.atIssue c t i).dramPsn = s.dramPsn := (congrArg State.dramPsn (State.atIssue_eq s c t i)).trans rfl
@[simp] theorem State.taps_atIssue (s : State) (c : CoreId) (t : Thr) (i : Instr) : (s.atIssue c t i).taps = s.taps := (congrArg State.taps (State.atIssue_eq s c t i)).trans rfl
@[simp] theorem State.lines_atIssue (s : State) (c : CoreId) (t : Thr) (i : Instr) : (s.atIssue c t i).lines = s.lines := (congrArg State.lines (State.atIssue_eq s c t i)).trans rfl
@[simp] theorem State.invs_atIssue (s : State) (c : CoreId) (t : Thr) (i : Instr) : (s.atIssue c t i).invs = s.invs := (congrArg State.invs (State.atIssue_eq s c t i)).trans rfl
@[simp] theorem State.fills_atIssue (s : State) (c : CoreId) (t : Thr) (i : Instr) : (s.atIssue c t i).fills = s.fills := (congrArg State.fills (State.atIssue_eq s c t i)).trans rfl
@[simp] theorem State.rmapTap_atIssue (s : State) (c : CoreId) (t : Thr) (i : Instr) : (s.atIssue c t i).rmapTap = s.rmapTap := (congrArg State.rmapTap (State.atIssue_eq s c t i)).trans rfl
@[simp] theorem State.streams_atIssue (s : State) (c : CoreId) (t : Thr) (i : Instr) : (s.atIssue c t i).streams = s.streams := (congrArg State.streams (State.atIssue_eq s c t i)).trans rfl
@[simp] theorem State.strHist_atIssue (s : State) (c : CoreId) (t : Thr) (i : Instr) : (s.atIssue c t i).strHist = s.strHist := (congrArg State.strHist (State.atIssue_eq s c t i)).trans rfl
@[simp] theorem State.strSeq_atIssue (s : State) (c : CoreId) (t : Thr) (i : Instr) : (s.atIssue c t i).strSeq = s.strSeq := (congrArg State.strSeq (State.atIssue_eq s c t i)).trans rfl
@[simp] theorem State.elog_atIssue (s : State) (c : CoreId) (t : Thr) (i : Instr) : (s.atIssue c t i).elog = s.elog := (congrArg State.elog (State.atIssue_eq s c t i)).trans rfl
@[simp] theorem State.stgX_atIssue (s : State) (c : CoreId) (t : Thr) (i : Instr) : (s.atIssue c t i).stgX = s.stgX := (congrArg State.stgX (State.atIssue_eq s c t i)).trans rfl
@[simp] theorem State.fabX_atIssue (s : State) (c : CoreId) (t : Thr) (i : Instr) : (s.atIssue c t i).fabX = s.fabX := (congrArg State.fabX (State.atIssue_eq s c t i)).trans rfl
@[simp] theorem State.jobs_atIssue (s : State) (c : CoreId) (t : Thr) (i : Instr) : (s.atIssue c t i).jobs = s.jobs := (congrArg State.jobs (State.atIssue_eq s c t i)).trans rfl
@[simp] theorem State.saved_atIssue (s : State) (c : CoreId) (t : Thr) (i : Instr) : (s.atIssue c t i).saved = s.saved := (congrArg State.saved (State.atIssue_eq s c t i)).trans rfl
@[simp] theorem State.ports_atIssue (s : State) (c : CoreId) (t : Thr) (i : Instr) : (s.atIssue c t i).ports = s.ports := (congrArg State.ports (State.atIssue_eq s c t i)).trans rfl
@[simp] theorem State.routes_atIssue (s : State) (c : CoreId) (t : Thr) (i : Instr) : (s.atIssue c t i).routes = s.routes := (congrArg State.routes (State.atIssue_eq s c t i)).trans rfl
@[simp] theorem State.ctxw_atIssue (s : State) (c : CoreId) (t : Thr) (i : Instr) : (s.atIssue c t i).ctxw = s.ctxw := (congrArg State.ctxw (State.atIssue_eq s c t i)).trans rfl
@[simp] theorem State.ctxs_atIssue (s : State) (c : CoreId) (t : Thr) (i : Instr) : (s.atIssue c t i).ctxs = s.ctxs := (congrArg State.ctxs (State.atIssue_eq s c t i)).trans rfl
@[simp] theorem State.reds_atIssue (s : State) (c : CoreId) (t : Thr) (i : Instr) : (s.atIssue c t i).reds = s.reds := (congrArg State.reds (State.atIssue_eq s c t i)).trans rfl
@[simp] theorem State.feeds_atIssue (s : State) (c : CoreId) (t : Thr) (i : Instr) : (s.atIssue c t i).feeds = s.feeds := (congrArg State.feeds (State.atIssue_eq s c t i)).trans rfl
@[simp] theorem State.feedBuf_atIssue (s : State) (c : CoreId) (t : Thr) (i : Instr) : (s.atIssue c t i).feedBuf = s.feedBuf := (congrArg State.feedBuf (State.atIssue_eq s c t i)).trans rfl
@[simp] theorem State.accFree_atIssue (s : State) (c : CoreId) (t : Thr) (i : Instr) : (s.atIssue c t i).accFree = s.accFree := (congrArg State.accFree (State.atIssue_eq s c t i)).trans rfl
@[simp] theorem State.redQ_atIssue (s : State) (c : CoreId) (t : Thr) (i : Instr) : (s.atIssue c t i).redQ = s.redQ := (congrArg State.redQ (State.atIssue_eq s c t i)).trans rfl
@[simp] theorem State.rings_atIssue (s : State) (c : CoreId) (t : Thr) (i : Instr) : (s.atIssue c t i).rings = s.rings := (congrArg State.rings (State.atIssue_eq s c t i)).trans rfl
@[simp] theorem State.reads_atIssue (s : State) (c : CoreId) (t : Thr) (i : Instr) : (s.atIssue c t i).reads = s.reads := (congrArg State.reads (State.atIssue_eq s c t i)).trans rfl
@[simp] theorem State.hostOut_atIssue (s : State) (c : CoreId) (t : Thr) (i : Instr) : (s.atIssue c t i).hostOut = s.hostOut := (congrArg State.hostOut (State.atIssue_eq s c t i)).trans rfl
@[simp] theorem State.hostLost_atIssue (s : State) (c : CoreId) (t : Thr) (i : Instr) : (s.atIssue c t i).hostLost = s.hostLost := (congrArg State.hostLost (State.atIssue_eq s c t i)).trans rfl
@[simp] theorem State.hostWait_atIssue (s : State) (c : CoreId) (t : Thr) (i : Instr) : (s.atIssue c t i).hostWait = s.hostWait := (congrArg State.hostWait (State.atIssue_eq s c t i)).trans rfl
@[simp] theorem State.latches_atIssue (s : State) (c : CoreId) (t : Thr) (i : Instr) : (s.atIssue c t i).latches = s.latches := (congrArg State.latches (State.atIssue_eq s c t i)).trans rfl
@[simp] theorem State.answers_atIssue (s : State) (c : CoreId) (t : Thr) (i : Instr) : (s.atIssue c t i).answers = s.answers := (congrArg State.answers (State.atIssue_eq s c t i)).trans rfl
@[simp] theorem State.rests_atIssue (s : State) (c : CoreId) (t : Thr) (i : Instr) : (s.atIssue c t i).rests = s.rests := (congrArg State.rests (State.atIssue_eq s c t i)).trans rfl
@[simp] theorem State.regions_atIssue (s : State) (c : CoreId) (t : Thr) (i : Instr) : (s.atIssue c t i).regions = s.regions := (congrArg State.regions (State.atIssue_eq s c t i)).trans rfl
@[simp] theorem State.lockE_atIssue (s : State) (c : CoreId) (t : Thr) (i : Instr) : (s.atIssue c t i).lockE = s.lockE := (congrArg State.lockE (State.atIssue_eq s c t i)).trans rfl
@[simp] theorem State.slewE_atIssue (s : State) (c : CoreId) (t : Thr) (i : Instr) : (s.atIssue c t i).slewE = s.slewE := (congrArg State.slewE (State.atIssue_eq s c t i)).trans rfl
@[simp] theorem State.masterTo_atIssue (s : State) (c : CoreId) (t : Thr) (i : Instr) : (s.atIssue c t i).masterTo = s.masterTo := (congrArg State.masterTo (State.atIssue_eq s c t i)).trans rfl
@[simp] theorem State.driftRev_atIssue (s : State) (c : CoreId) (t : Thr) (i : Instr) : (s.atIssue c t i).driftRev = s.driftRev := (congrArg State.driftRev (State.atIssue_eq s c t i)).trans rfl
@[simp] theorem State.fuses_atIssue (s : State) (c : CoreId) (t : Thr) (i : Instr) : (s.atIssue c t i).fuses = s.fuses := (congrArg State.fuses (State.atIssue_eq s c t i)).trans rfl
@[simp] theorem State.hs_atIssue (s : State) (c : CoreId) (t : Thr) (i : Instr) : (s.atIssue c t i).hs = s.hs := (congrArg State.hs (State.atIssue_eq s c t i)).trans rfl
@[simp] theorem State.power_atIssue (s : State) (c : CoreId) (t : Thr) (i : Instr) : (s.atIssue c t i).power = s.power := (congrArg State.power (State.atIssue_eq s c t i)).trans rfl
@[simp] theorem State.ibis_atIssue (s : State) (c : CoreId) (t : Thr) (i : Instr) : (s.atIssue c t i).ibis = s.ibis := (congrArg State.ibis (State.atIssue_eq s c t i)).trans rfl
@[simp] theorem State.kpPrev_atIssue (s : State) (c : CoreId) (t : Thr) (i : Instr) : (s.atIssue c t i).kpPrev = s.kpPrev := (congrArg State.kpPrev (State.atIssue_eq s c t i)).trans rfl
@[simp] theorem State.windowed_atIssue (s : State) (c : CoreId) (t : Thr) (i : Instr) : (s.atIssue c t i).windowed = s.windowed := (congrArg State.windowed (State.atIssue_eq s c t i)).trans rfl
@[simp] theorem State.evs_atIssue (s : State) (c : CoreId) (t : Thr) (i : Instr) : (s.atIssue c t i).evs = s.evs := (congrArg State.evs (State.atIssue_eq s c t i)).trans rfl
@[simp] theorem State.free_atIssue (s : State) (c : CoreId) (t : Thr) (i : Instr) : (s.atIssue c t i).free = s.free := (congrArg State.free (State.atIssue_eq s c t i)).trans rfl

/-- Counting and tracing change no thread of the module but the issuing one. -/
theorem State.th_atIssue_other (s : State) (c d : CoreId) (t u : Thr) (i : Instr) (h : d ≠ c ∨ u ≠ t) :
    (s.atIssue c t i).th d u = s.th d u := by
  by_cases e : d = c
  · subst e
    have hu : u ≠ t := h.resolve_left (fun e => e rfl)
    rw [← State.th_advanceTo s (s.issueCyc d t i) d u]
    unfold State.atIssue
    dsimp only
    split <;> simp [State.trace, State.onTh, State.th, Core.th_onTh_other _ _ _ _ hu]
  · rw [← State.th_advanceTo s (s.issueCyc c t i) d u]
    unfold State.atIssue
    dsimp only
    split <;> simp [State.trace, State.th, State.core_onCore_other _ _ _ _ e, State.core_onTh_other _ _ _ _ _ e]

end Sys2Proof.Machine
end

