-- ==== Sys2Proof/Laws/Memory.lean ====
section
/-! SUPPORT. Laws of the memories: reads after writes, and the canonical form that every memory operation keeps. -/

namespace Sys2Proof.Machine

/-! ### Local memory -/

@[simp] theorem State.byte_setByte_same (s : State) (a : Nat) (b : Byte) : (s.setByte a b).byte a = b := SMap.get_set_same _ _ _ _

theorem State.byte_setByte_other (s : State) (a x : Nat) (b : Byte) (h : x ≠ a) : (s.setByte a b).byte x = s.byte x :=
  SMap.get_set_other _ _ _ _ _ h

/-- A store of bytes leaves every byte outside it alone. -/
theorem State.byte_setBytes_other (s : State) (a x : Nat) (bs : List Byte) (h : x < a ∨ a + bs.length ≤ x) :
    (s.setBytes a bs).byte x = s.byte x := by
  induction bs generalizing s a with
  | nil => rfl
  | cons b bs ih =>
    rw [State.setBytes, ih _ _ (by simp only [List.length_cons] at h; omega)]
    exact State.byte_setByte_other _ _ _ _ (by simp only [List.length_cons] at h; omega)

/-- A store of bytes reads back byte by byte. -/
theorem State.byte_setBytes_same (s : State) (a i : Nat) (bs : List Byte) (h : i < bs.length) :
    (s.setBytes a bs).byte (a + i) = bs[i] := by
  induction bs generalizing s a i with
  | nil => simp at h
  | cons b bs ih =>
    cases i with
    | zero => rw [State.setBytes, State.byte_setBytes_other _ _ _ _ (by omega)]; simp
    | succ i =>
      have := ih (s.setByte a b) (a + 1) i (by simpa using h)
      rw [State.setBytes]
      simpa [Nat.add_assoc, Nat.add_comm 1 i] using this

@[simp] theorem State.psnAt_setPsnAt_same (s : State) (a : Nat) (p : Bool) : (s.setPsnAt a p).psnAt a = p := SMap.get_set_same _ _ _ _

@[simp] theorem State.byte_setPsnAt (s : State) (a x : Nat) (p : Bool) : (s.setPsnAt a p).byte x = s.byte x := rfl

theorem State.reset_memWf : State.reset.memWf := ⟨SMap.nil_wf _, SMap.nil_wf _⟩

theorem State.memWf_setByte (s : State) (a : Nat) (b : Byte) (h : s.memWf) : (s.setByte a b).memWf := ⟨SMap.set_wf _ _ _ _ h.1, h.2⟩

theorem State.memWf_setPsnAt (s : State) (a : Nat) (p : Bool) (h : s.memWf) : (s.setPsnAt a p).memWf := ⟨h.1, SMap.set_wf _ _ _ _ h.2⟩

theorem State.memWf_setBytes (s : State) (a : Nat) (bs : List Byte) (h : s.memWf) : (s.setBytes a bs).memWf := by
  induction bs generalizing s a with
  | nil => exact h
  | cons b bs ih => exact ih _ _ (State.memWf_setByte _ _ _ h)

theorem State.memWf_zeroPage (s : State) (p : Nat) (h : s.memWf) : (s.zeroPage p).memWf :=
  ⟨SMap.filter_wf _ _ _ h.1, SMap.filter_wf _ _ _ h.2⟩

theorem State.memWf_zeroDram (s : State) : s.zeroDram.memWf := ⟨SMap.nil_wf _, SMap.nil_wf _⟩

/-- What every step of a fold keeps, the fold keeps. -/
theorem foldl_keeps {α β γ : Type} (g : α → γ) (f : α → β → α) (h : ∀ a b, g (f a b) = g a) (a : α) (l : List β) : g (l.foldl f a) = g a := by
  induction l generalizing a with
  | nil => rfl
  | cons b l ih => rw [List.foldl_cons, ih, h]

/-- The fused fields are shown in registers alone. -/
theorem State.dram_showMain (s : State) : s.showMain.dram = s.dram := by
  unfold State.showMain State.showFuses
  exact (foldl_keeps State.dram _ (fun a b => by simp) _ _).trans (by simp)
theorem State.dramPsn_showMain (s : State) : s.showMain.dramPsn = s.dramPsn := by
  unfold State.showMain State.showFuses
  exact (foldl_keeps State.dramPsn _ (fun a b => by simp) _ _).trans (by simp)

@[simp] theorem State.dram_idleUnread (s : State) : s.idleUnread.dram = s.dram := rfl
@[simp] theorem State.dramPsn_idleUnread (s : State) : s.idleUnread.dramPsn = s.dramPsn := rfl

theorem State.memWf_modReset (s : State) (keep : Bool) (h : s.memWf) : (s.modReset keep).memWf := by
  unfold State.memWf State.modReset
  rw [State.dram_idleUnread, State.dramPsn_idleUnread, State.dram_showMain, State.dramPsn_showMain]
  cases keep
  · exact ⟨SMap.nil_wf _, SMap.nil_wf _⟩
  · exact h

/-! ### The scratchpad and program memory of a core -/

@[simp] theorem Core.spByte_setSpByte_same (k : Core) (a : Nat) (b : Byte) : (k.setSpByte a b).spByte a = b := SMap.get_set_same _ _ _ _

theorem Core.spByte_setSpByte_other (k : Core) (a x : Nat) (b : Byte) (h : x ≠ a) : (k.setSpByte a b).spByte x = k.spByte x :=
  SMap.get_set_other _ _ _ _ _ h

/-- A word store leaves every byte outside the word alone. -/
theorem Core.spByte_setSpWord_other (k : Core) (w x : Nat) (v : Word) (h : x / 4 ≠ w) : (k.setSpWord w v).spByte x = k.spByte x := by
  show ((((k.setSpByte (4 * w) _).setSpByte (4 * w + 1) _).setSpByte (4 * w + 2) _).setSpByte (4 * w + 3) _).spByte x = _
  rw [Core.spByte_setSpByte_other _ _ _ _ (by omega), Core.spByte_setSpByte_other _ _ _ _ (by omega),
    Core.spByte_setSpByte_other _ _ _ _ (by omega), Core.spByte_setSpByte_other _ _ _ _ (by omega)]

/-- A word reads as it was stored. -/
@[simp] theorem Core.spWord_setSpWord_same (k : Core) (w : Nat) (v : Word) : (k.setSpWord w v).spWord w = v := by
  have e : ∀ x, (k.setSpWord w v).spByte x = ((((k.setSpByte (4 * w) (v.extractLsb' 0 8)).setSpByte (4 * w + 1)
    (v.extractLsb' 8 8)).setSpByte (4 * w + 2) (v.extractLsb' 16 8)).setSpByte (4 * w + 3) (v.extractLsb' 24 8)).spByte x := fun _ => rfl
  simp only [Core.spWord, e]
  rw [Core.spByte_setSpByte_same, Core.spByte_setSpByte_other _ _ _ _ (by omega), Core.spByte_setSpByte_same,
    Core.spByte_setSpByte_other _ _ _ _ (by omega), Core.spByte_setSpByte_other _ _ _ _ (by omega), Core.spByte_setSpByte_same,
    Core.spByte_setSpByte_other _ _ _ _ (by omega), Core.spByte_setSpByte_other _ _ _ _ (by omega),
    Core.spByte_setSpByte_other _ _ _ _ (by omega), Core.spByte_setSpByte_same]
  apply BitVec.eq_of_getLsbD_eq
  intro i hi
  simp only [BitVec.getLsbD_append, BitVec.getLsbD_extractLsb']
  interval_cases i <;> simp

/-- A word store leaves every other word alone. -/
theorem Core.spWord_setSpWord_other (k : Core) (w x : Nat) (v : Word) (h : x ≠ w) : (k.setSpWord w v).spWord x = k.spWord x := by
  unfold Core.spWord
  rw [Core.spByte_setSpWord_other _ _ _ _ (by omega), Core.spByte_setSpWord_other _ _ _ _ (by omega),
    Core.spByte_setSpWord_other _ _ _ _ (by omega), Core.spByte_setSpWord_other _ _ _ _ (by omega)]

theorem Core.reset_memWf : Core.reset.memWf :=
  ⟨SMap.nil_wf _, SMap.nil_wf _, SMap.nil_wf _, SMap.nil_wf _, SMap.nil_wf _, SMap.nil_wf _⟩

theorem Core.memWf_setSpByte (k : Core) (a : Nat) (b : Byte) (h : k.memWf) : (k.setSpByte a b).memWf :=
  ⟨SMap.set_wf _ _ _ _ h.1, h.2.1, h.2.2.1, h.2.2.2.1, SMap.set_wf _ _ _ _ h.2.2.2.2.1, h.2.2.2.2.2⟩

theorem Core.memWf_setSpWord (k : Core) (w : Nat) (v : Word) (h : k.memWf) : (k.setSpWord w v).memWf :=
  Core.memWf_setSpByte _ _ _ (Core.memWf_setSpByte _ _ _ (Core.memWf_setSpByte _ _ _ (Core.memWf_setSpByte _ _ _ h)))

theorem Core.memWf_setSpWords (k : Core) (w : Nat) (vs : List Word) (h : k.memWf) : (k.setSpWords w vs).memWf := by
  induction vs generalizing k w with
  | nil => exact h
  | cons v vs ih => exact ih _ _ (Core.memWf_setSpWord _ _ _ h)

theorem Core.memWf_setPsn (k : Core) (l : Nat) (b : Bool) (h : k.memWf) : (k.setPsn l b).memWf :=
  ⟨h.1, h.2.1, h.2.2.1, SMap.set_wf _ _ _ _ h.2.2.2.1, h.2.2.2.2⟩

theorem Core.memWf_setValid (k : Core) (l : Nat) (b : Bool) (h : k.memWf) : (k.setValid l b).memWf :=
  ⟨h.1, h.2.1, SMap.set_wf _ _ _ _ h.2.2.1, h.2.2.2⟩

theorem Core.memWf_clearValid (k : Core) (l n : Nat) (h : k.memWf) : (k.clearValid l n).memWf := by
  unfold Core.clearValid
  generalize List.range n = xs
  induction xs generalizing k with
  | nil => exact h
  | cons x xs ih => exact ih _ (Core.memWf_setValid _ _ _ h)

theorem Core.memWf_putPm (k : Core) (a : Nat) (v : PWord) (h : k.memWf) : (k.putPm a v).memWf :=
  ⟨h.1, SMap.set_wf _ _ _ _ h.2.1, h.2.2.1, h.2.2.2.1, h.2.2.2.2.1, SMap.set_wf _ _ _ _ h.2.2.2.2.2⟩

/-- A write of a group of valid or poison bits keeps the canonical form. -/
theorem putGroup_wf (m : SMap Bool) (g : Nat) (v : Word) (h : SMap.wf (fun _ => false) m) : SMap.wf (fun _ => false) (putGroup m g v) := by
  unfold putGroup
  split
  · exact h
  · generalize List.range 32 = xs
    induction xs generalizing m with
    | nil => exact h
    | cons x xs ih => exact ih _ (SMap.set_wf _ _ _ _ h)

end Sys2Proof.Machine
end

