-- ==== Sys2Proof/Laws/Frame.lean ====
section
/-! SUPPORT. What an issue leaves unchanged: the parts of the state after an instruction that its execution alone decides. -/

namespace Sys2Proof.Machine

/-! ### Threads -/

/-- The loop-end check moves no bit of the status word but those of the levels. -/
theorem Thread.sw_loopEndGo (a nxt : BitVec 15) (n : Nat) (h : n ≤ 4) :
    ∀ x : Thread, (Thread.loopEnd.go a nxt x n).sw &&& ~~~0x000F0000#32 = x.sw &&& ~~~0x000F0000#32 := by
  induction n with
  | zero => intro x; rfl
  | succ lv ih =>
    intro x
    rw [Thread.loopEnd.go]
    split
    · exact ih (by omega) x
    · dsimp only
      split
      · rfl
      · refine (ih (by omega) _).trans ?_
        have : lv = 0 ∨ lv = 1 ∨ lv = 2 ∨ lv = 3 := by omega
        show (x.sw &&& ~~~(1#32 <<< (16 + lv))) &&& ~~~0x000F0000#32 = x.sw &&& ~~~0x000F0000#32
        rw [BitVec.and_assoc]
        rcases this with rfl | rfl | rfl | rfl <;> rfl

theorem Thread.sw_loopEnd (x : Thread) (a : BitVec 15) (n : Nat) : (x.loopEnd a n).sw &&& ~~~0x000F0000#32 = x.sw &&& ~~~0x000F0000#32 := by
  unfold Thread.loopEnd
  dsimp only
  split
  · rfl
  · exact Thread.sw_loopEndGo _ _ 4 (by omega) x

theorem Thread.keepsBut_loopEnd (x : Thread) (a : BitVec 15) (n : Nat) : x.keepsBut (x.loopEnd a n) 0x000F0000 :=
  ⟨x.sw_loopEnd a n, by simp, by simp, by simp, by simp, by simp, by simp, by simp, by simp⟩

theorem Thread.gr_loopEnd (x : Thread) (a : BitVec 15) (n : Nat) (r : Reg) : (x.loopEnd a n).gr r = x.gr r := by simp [Thread.gr]
theorem Thread.vr_loopEnd (x : Thread) (a : BitVec 15) (n : Nat) (r : Reg) : (x.loopEnd a n).vr r = x.vr r := by simp [Thread.vr]

/-- A change of bits outside a wider mask. -/
theorem Thread.keepsBut_trans (x y z : Thread) (m n : Word) (h : x.keepsBut y m) (k : y.keepsBut z n) (hm : m &&& ~~~n = 0) :
    x.keepsBut z n := by
  have e : ∀ a b : Word, a &&& ~~~m = b &&& ~~~m → a &&& ~~~n = b &&& ~~~n := by
    intro a b h
    have hn : ~~~n = ~~~m &&& ~~~n := by
      ext i hi
      have := congrArg (fun w : Word => w.getLsbD i) hm
      simp only [BitVec.getLsbD_and, BitVec.getLsbD_not, hi, decide_true, Bool.true_and] at this
      simp only [BitVec.getElem_and, BitVec.getElem_not]
      simp only [BitVec.getLsbD_eq_getElem hi] at this
      cases h1 : m[i] <;> cases h2 : n[i] <;> simp_all
    rw [hn, ← BitVec.and_assoc, ← BitVec.and_assoc, h]
  obtain ⟨h0, h1, h2, h3, h4, h5, h6, h7, h8⟩ := h
  obtain ⟨k0, k1, k2, k3, k4, k5, k6, k7, k8⟩ := k
  exact ⟨k0.trans (e _ _ h0), k1.trans h1, k2.trans h2, k3.trans h3, k4.trans h4, k5.trans h5, k6.trans h6, k7.trans h7, k8.trans h8⟩

/-! ### The bookkeeping of an issue -/

/-- The issuing thread after the bookkeeping. -/
theorem State.th_issued (u : State) (c : CoreId) (t : Thr) (pc : BitVec 15) (b : Bool) :
    (u.issued c t pc b).th c t = { u.th c t with bpPass := false, step := if (u.th c t).step = 1 then 2 else (u.th c t).step } := by
  unfold State.issued
  dsimp only
  split <;> split <;> simp [State.th, State.onTh] <;> rfl

/-- A function of a core that counting, tracing and changes of a thread leave alone is as before. -/
theorem State.core_issued {α : Type} (g : Core → α) (hc : ∀ (k : Core) (e n : Nat) (t : Option Thr), g (k.count e t n) = g k)
    (ht : ∀ (k : Core) (now : Count) (kind aux data : Nat) (t : Thr), g (k.traceAt now kind t aux data) = g k)
    (hx : ∀ (k : Core) (t : Thr) (f : Thread → Thread), g (k.onTh t f) = g k) (u : State) (c d : CoreId) (t : Thr) (pc : BitVec 15) (b : Bool) :
    g ((u.issued c t pc b).core d) = g (u.core d) := by
  unfold State.issued
  dsimp only
  by_cases e : d = c
  · subst e
    split <;> split <;> simp [hc, ht, hx]
  · split <;> split <;> simp [State.core_setCore_other _ _ _ _ e, State.core_onTh_other _ _ _ _ _ e]

theorem State.th_issued_other (u : State) (c d : CoreId) (t v : Thr) (pc : BitVec 15) (b : Bool) (h : d ≠ c ∨ v ≠ t) :
    (u.issued c t pc b).th d v = u.th d v := by
  unfold State.issued
  dsimp only
  by_cases e : d = c
  · subst e
    have hv : v ≠ t := h.resolve_left (fun e => e rfl)
    split <;> split <;> simp [State.th, State.onTh, Core.th_onTh_other _ _ _ _ hv]
  · split <;> split <;> simp [State.th, State.core_setCore_other _ _ _ _ e, State.core_onTh_other _ _ _ _ _ e]

/-! ### After an instruction that goes on, or goes elsewhere -/

theorem State.th_thenNext (s u : State) (c : CoreId) (t : Thr) (i : Instr) : (s.thenNext c t i u).th c t =
    { (u.th c t).loopEnd (s.th c t).pc (instrLen i) with
      bpPass := false, step := if (u.th c t).step = 1 then 2 else (u.th c t).step } := by
  unfold State.thenNext
  rw [State.th_issued]
  simp [State.th, State.onTh]
  rfl

theorem State.th_thenAt (s u : State) (c : CoreId) (t : Thr) (i : Instr) (a : BitVec 15) : (s.thenAt c t i a u).th c t =
    { u.th c t with pc := a, bpPass := false, step := if (u.th c t).step = 1 then 2 else (u.th c t).step } := by
  unfold State.thenAt
  rw [State.th_issued]
  simp [State.th, State.onTh]
  rfl

theorem State.keepsThreads_onTh (u : State) (c : CoreId) (t : Thr) (f : Thread → Thread) : u.keepsThreads (u.onTh c t f) c t := by
  intro d v h
  by_cases e : d = c
  · subst e
    simp [State.th, State.onTh, Core.th_onTh_other _ _ _ _ (h.resolve_left (fun e => e rfl))]
  · simp [State.th, State.core_onTh_other _ _ _ _ _ e]

theorem State.keepsThreads_trans (s u v : State) (c : CoreId) (t : Thr) (h : s.keepsThreads u c t) (k : u.keepsThreads v c t) :
    s.keepsThreads v c t := fun d w e => (k d w e).trans (h d w e)

theorem State.keepsThreads_thenNext (s u : State) (c : CoreId) (t : Thr) (i : Instr) : u.keepsThreads (s.thenNext c t i u) c t := by
  unfold State.thenNext
  exact State.keepsThreads_trans _ _ _ _ _ (State.keepsThreads_onTh u c t _) fun d v h => State.th_issued_other _ _ _ _ _ _ _ h

theorem State.keepsThreads_thenAt (s u : State) (c : CoreId) (t : Thr) (i : Instr) (a : BitVec 15) :
    u.keepsThreads (s.thenAt c t i a u) c t := by
  unfold State.thenAt
  exact State.keepsThreads_trans _ _ _ _ _ (State.keepsThreads_onTh u c t _) fun d v h => State.th_issued_other _ _ _ _ _ _ _ h

/-- A function of a core that counting, tracing and changes of a thread leave alone is as the execution left it. -/
theorem State.core_thenNext {α : Type} (g : Core → α) (hc : ∀ (k : Core) (e n : Nat) (t : Option Thr), g (k.count e t n) = g k)
    (ht : ∀ (k : Core) (now : Count) (kind aux data : Nat) (t : Thr), g (k.traceAt now kind t aux data) = g k)
    (hx : ∀ (k : Core) (t : Thr) (f : Thread → Thread), g (k.onTh t f) = g k) (s u : State) (c d : CoreId) (t : Thr) (i : Instr) :
    g ((s.thenNext c t i u).core d) = g (u.core d) := by
  unfold State.thenNext
  rw [State.core_issued g hc ht hx]
  by_cases e : d = c
  · subst e; simp [hx]
  · simp [State.core_onTh_other _ _ _ _ _ e]

theorem State.core_thenAt {α : Type} (g : Core → α) (hc : ∀ (k : Core) (e n : Nat) (t : Option Thr), g (k.count e t n) = g k)
    (ht : ∀ (k : Core) (now : Count) (kind aux data : Nat) (t : Thr), g (k.traceAt now kind t aux data) = g k)
    (hx : ∀ (k : Core) (t : Thr) (f : Thread → Thread), g (k.onTh t f) = g k) (s u : State) (c d : CoreId) (t : Thr) (i : Instr) (a : BitVec 15) :
    g ((s.thenAt c t i a u).core d) = g (u.core d) := by
  unfold State.thenAt
  rw [State.core_issued g hc ht hx]
  by_cases e : d = c
  · subst e; simp [hx]
  · simp [State.core_onTh_other _ _ _ _ _ e]

theorem State.keepsMem_thenNext (s u : State) (c : CoreId) (t : Thr) (i : Instr) : u.keepsMem (s.thenNext c t i u) := by
  refine ⟨fun d a => ?_, fun a => ?_, fun a => ?_⟩
  · exact State.core_thenNext (fun k => k.spByte a) (fun _ _ _ _ => by simp [Core.spByte]) (fun _ _ _ _ _ _ => by simp [Core.spByte])
      (fun _ _ _ => rfl) s u c d t i
  · rfl
  · rfl

theorem State.keepsMem_thenAt (s u : State) (c : CoreId) (t : Thr) (i : Instr) (b : BitVec 15) : u.keepsMem (s.thenAt c t i b u) := by
  refine ⟨fun d a => ?_, fun a => ?_, fun a => ?_⟩
  · exact State.core_thenAt (fun k => k.spByte a) (fun _ _ _ _ => by simp [Core.spByte]) (fun _ _ _ _ _ _ => by simp [Core.spByte])
      (fun _ _ _ => rfl) s u c d t i b
  · rfl
  · rfl

theorem State.keepsWindows_thenNext (s u : State) (c : CoreId) (t : Thr) (i : Instr) : u.keepsWindows (s.thenNext c t i u) :=
  ⟨fun d o h => State.core_thenNext (fun k => k.w o) (fun _ _ _ _ => Core.w_count _ _ _ _ _ h) (fun _ _ _ _ _ _ => Core.w_traceAt _ _ _ _ _ _ _ h)
    (fun _ _ _ => rfl) s u c d t i, rfl⟩

theorem State.keepsWindows_thenAt (s u : State) (c : CoreId) (t : Thr) (i : Instr) (b : BitVec 15) : u.keepsWindows (s.thenAt c t i b u) :=
  ⟨fun d o h => State.core_thenAt (fun k => k.w o) (fun _ _ _ _ => Core.w_count _ _ _ _ _ h) (fun _ _ _ _ _ _ => Core.w_traceAt _ _ _ _ _ _ _ h)
    (fun _ _ _ => rfl) s u c d t i b, rfl⟩

/-! ### In the issue cycle -/

theorem State.keepsThreads_atIssue (s : State) (c : CoreId) (t : Thr) (i : Instr) : s.keepsThreads (s.atIssue c t i) c t :=
  fun d v h => State.th_atIssue_other s c d t v i h

/-- The issue itself moves no memory: in the issue cycle every byte is as the clock has left it. -/
theorem State.keepsMem_atIssue (s : State) (c : CoreId) (t : Thr) (i : Instr) :
    (s.advanceTo (s.issueCyc c t i)).keepsMem (s.atIssue c t i) :=
  ⟨fun d a => State.spByte_atIssue s c d t i a, fun a => by simp [State.byte], fun a => by simp [State.psnAt]⟩

theorem State.keepsWindows_atIssue (s : State) (c : CoreId) (t : Thr) (i : Instr) : s.keepsWindows (s.atIssue c t i) :=
  ⟨fun d o h => State.w_atIssue s c d t i o h, State.dev_atIssue s c t i⟩

theorem State.keepsMem_trans (s u v : State) (h : s.keepsMem u) (k : u.keepsMem v) : s.keepsMem v :=
  ⟨fun d a => (k.1 d a).trans (h.1 d a), fun a => (k.2.1 a).trans (h.2.1 a), fun a => (k.2.2 a).trans (h.2.2 a)⟩

theorem State.keepsWindows_trans (s u v : State) (h : s.keepsWindows u) (k : u.keepsWindows v) : s.keepsWindows v :=
  ⟨fun d o e => (k.1 d o e).trans (h.1 d o e), k.2.trans h.2⟩

/-- A change of one thread moves no memory and no register of a window or of the device. -/
theorem State.keepsMem_onTh (u : State) (c : CoreId) (t : Thr) (f : Thread → Thread) : u.keepsMem (u.onTh c t f) := by
  refine ⟨fun d a => ?_, fun a => rfl, fun a => rfl⟩
  by_cases e : d = c
  · subst e; simp [Core.spByte]
  · simp [State.core_onTh_other _ _ _ _ _ e]

theorem State.keepsWindows_onTh (u : State) (c : CoreId) (t : Thr) (f : Thread → Thread) : u.keepsWindows (u.onTh c t f) := by
  refine ⟨fun d o _ => ?_, rfl⟩
  by_cases e : d = c
  · subst e; simp
  · simp [State.core_onTh_other _ _ _ _ _ e]

/-! ### Trap entry outside a handler (03 R122) -/

/-- The end of a wait moves no thread, and no handler address. -/
theorem Core.thr_endWait (k : Core) (t : Thr) : (k.endWait t).thr = k.thr := by
  unfold Core.endWait; dsimp only
  split
  · split <;> rfl
  · rfl

theorem Core.tvec_endWait (k : Core) (t : Thr) : (k.endWait t).tvec t = k.tvec t := by
  unfold Core.endWait; dsimp only
  split
  · split
    · show ((Core.setFld _ _ _).w _).truncate 15 = _
      rw [Core.setFld, Core.w_setW_other]; rfl
      simp [R.CORE_TH_TVEC, F.MESH_CONN_STATE, R.MESH_CONN]; omega
    · rfl
  · rfl

theorem Core.sp_endWait (k : Core) (t : Thr) : (k.endWait t).sp = k.sp := by
  unfold Core.endWait; dsimp only
  split
  · split <;> rfl
  · rfl

/-- A thread that does not wait ends no wait: only the waiters of locks are looked through. -/
theorem Core.w_endWait (k : Core) (t : Thr) (h : (k.th t).inWait = false) (o : Nat) : (k.endWait t).w o = k.w o := by
  unfold Core.endWait; dsimp only
  rw [if_neg (by simp [h])]; rfl

/-- Trap entry with IT clear, as one change of the thread's core. -/
theorem State.takeTrap_eq (s : State) (c : CoreId) (t : Thr) (a : BitVec 15) (code detail : Byte) (faddr : Word) (h : (s.th c t).st 4 = false) :
    s.takeTrap c t a code detail faddr = (s.setCore c (((s.core c).endWait t).setTh t
      ((s.th c t).trap ((s.core c).tvec t) s.now a code detail faddr))).trace c 2 t (a.toNat <<< 8 + code.toNat) faddr.toNat := by
  have e : ((s.core c).endWait t).th t = s.th c t := by simp [Core.th, Core.thr_endWait, State.th]
  unfold State.takeTrap
  simp only [e, Core.tvec_endWait]
  rw [if_neg (by simp [bIT, h])]

theorem Thread.trap_regs (x : Thread) (tvec : BitVec 15) (now : Count) (a : BitVec 15) (code detail : Byte) (faddr : Word) :
    (x.trap tvec now a code detail faddr).g = x.g ∧ (x.trap tvec now a code detail faddr).v = x.v := by
  unfold Thread.trap; dsimp only; split <;> exact ⟨rfl, rfl⟩

theorem State.keepsRegs_takeTrap (s : State) (c : CoreId) (t : Thr) (a : BitVec 15) (code detail : Byte) (faddr : Word)
    (h : (s.th c t).st 4 = false) : s.keepsRegs (s.takeTrap c t a code detail faddr) c t := by
  rw [State.takeTrap_eq s c t a code detail faddr h]
  have ht := Thread.trap_regs (s.th c t) ((s.core c).tvec t) s.now a code detail faddr
  refine ⟨fun d v e => ?_, fun r => ?_, fun r => ?_⟩
  · by_cases ed : d = c
    · subst ed
      have hv : v ≠ t := e.resolve_left (fun e => e rfl)
      simp only [State.trace, State.th, State.core_onCore_same, Core.th_traceAt, State.core_setCore_same, Core.th_setTh_other _ _ _ _ hv]
      simp only [Core.th, Core.thr_endWait]
    · simp [State.trace, State.th, State.core_setCore_other _ _ _ _ ed, State.core_onCore_other _ _ _ _ ed]
  · simp only [State.trace, State.th, State.core_onCore_same, Core.th_traceAt, State.core_setCore_same, Core.th_setTh_same]
    unfold Thread.gr; exact congrArg (fun m => SMap.get _ m _) ht.1
  · simp only [State.trace, State.th, State.core_onCore_same, Core.th_traceAt, State.core_setCore_same, Core.th_setTh_same]
    unfold Thread.vr; exact congrArg (fun m => SMap.get _ m _) ht.2

theorem State.keepsMem_takeTrap (s : State) (c : CoreId) (t : Thr) (a : BitVec 15) (code detail : Byte) (faddr : Word)
    (h : (s.th c t).st 4 = false) : s.keepsMem (s.takeTrap c t a code detail faddr) := by
  rw [State.takeTrap_eq s c t a code detail faddr h]
  refine ⟨fun d b => ?_, fun b => rfl, fun b => rfl⟩
  by_cases ed : d = c
  · subst ed; simp [State.trace, Core.spByte, Core.sp_endWait]
  · simp [State.trace, State.core_setCore_other _ _ _ _ ed, State.core_onCore_other _ _ _ _ ed]

theorem State.keepsRegs_trans (s u v : State) (c : CoreId) (t : Thr) (h : s.keepsRegs u c t) (k : u.keepsRegs v c t) : s.keepsRegs v c t :=
  ⟨State.keepsThreads_trans s u v c t h.1 k.1, fun r => (k.2.1 r).trans (h.2.1 r), fun r => (k.2.2 r).trans (h.2.2 r)⟩

theorem State.keepsRegs_atIssue (s : State) (c : CoreId) (t : Thr) (i : Instr) : s.keepsRegs (s.atIssue c t i) c t :=
  ⟨s.keepsThreads_atIssue c t i, fun r => by rw [State.th_atIssue]; rfl, fun r => by rw [State.th_atIssue]; rfl⟩

theorem State.keepsRegs_issued (u : State) (c : CoreId) (t : Thr) (pc : BitVec 15) (b : Bool) : u.keepsRegs (u.issued c t pc b) c t :=
  ⟨fun d v h => State.th_issued_other u c d t v pc b h, fun r => by rw [State.th_issued]; rfl, fun r => by rw [State.th_issued]; rfl⟩

theorem State.keepsMem_issued (u : State) (c : CoreId) (t : Thr) (pc : BitVec 15) (b : Bool) : u.keepsMem (u.issued c t pc b) := by
  refine ⟨fun d a => ?_, fun a => rfl, fun a => rfl⟩
  exact State.core_issued (fun k => k.spByte a) (fun _ _ _ _ => by simp [Core.spByte]) (fun _ _ _ _ _ _ => by simp [Core.spByte])
    (fun _ _ _ => rfl) u c d t pc b

theorem State.keepsRegs_thenNext (s u : State) (c : CoreId) (t : Thr) (i : Instr) : u.keepsRegs (s.thenNext c t i u) c t :=
  ⟨s.keepsThreads_thenNext u c t i, fun r => by rw [State.th_thenNext]; exact Thread.gr_loopEnd _ _ _ r,
    fun r => by rw [State.th_thenNext]; exact Thread.vr_loopEnd _ _ _ r⟩

theorem State.keepsRegs_thenAt (s u : State) (c : CoreId) (t : Thr) (i : Instr) (a : BitVec 15) : u.keepsRegs (s.thenAt c t i a u) c t :=
  ⟨s.keepsThreads_thenAt u c t i a, fun r => by rw [State.th_thenAt]; rfl, fun r => by rw [State.th_thenAt]; rfl⟩

theorem State.keepsRegs_thenTrap (s u : State) (c : CoreId) (t : Thr) (i : Instr) (code detail : Byte) (faddr : Word)
    (h : (u.th c t).st 4 = false) : u.keepsRegs (s.thenTrap c t i code detail faddr u) c t := by
  unfold State.thenTrap
  exact State.keepsRegs_trans _ _ _ _ _ (u.keepsRegs_issued c t _ _)
    (State.keepsRegs_takeTrap _ c t _ code detail faddr (by rw [State.th_issued]; exact h))

theorem State.keepsMem_thenTrap (s u : State) (c : CoreId) (t : Thr) (i : Instr) (code detail : Byte) (faddr : Word)
    (h : (u.th c t).st 4 = false) : u.keepsMem (s.thenTrap c t i code detail faddr u) := by
  unfold State.thenTrap
  exact State.keepsMem_trans _ _ _ (u.keepsMem_issued c t _ _)
    (State.keepsMem_takeTrap _ c t _ code detail faddr (by rw [State.th_issued]; exact h))

end Sys2Proof.Machine
end

