-- ==== Sys2Proof/Laws/Ops.lean ====
section
/-! SUPPORT. What the shared operations of loads and stores can answer. -/

namespace Sys2Proof.Machine

theorem rangeFault_ok (s : State) (w n : Nat) (h : w + n ≤ spWords) : rangeFault s w n = none := if_neg (by omega)

theorem rangeFault_out (s : State) (w n : Nat) (h : spWords < w + n) :
    rangeFault s w n = some (.fault s 0x03 0 (BitVec.ofNat 32 (4 * Nat.max w spWords))) := if_pos h

theorem subFault_ok (s : State) (a : Nat) (half : Bool) (h : a / 4 < spWords) (e : half = true → a % 2 = 0) : subFault s a half = none := by
  unfold subFault
  rw [if_neg (by omega), if_neg (by cases half <;> simp_all)]

theorem stackFault_ok (c : CoreId) (t : Thr) (s : State) (w : Nat) (h : w < (s.core c).dshi t) (hw : w < spWords) :
    stackFault c t s w = none := by
  unfold stackFault
  rw [if_neg (by omega), rangeFault_ok _ _ _ (by omega)]

/-- Words that read well hold no fault. -/
theorem Core.firstBad_none (k : Core) (ws : List Nat) (h : ∀ w ∈ ws, k.readFault w = none) : k.firstBad ws = none := by
  simp only [Core.firstBad, List.findSome?_eq_none_iff]
  intro w hw
  simp [h w hw]

/-- A load of a span no line of which is held and whose words read well finishes. -/
theorem load_ok (c : CoreId) (t : Thr) (i : Instr) (s : State) (w n : Nat) (hs : loadSpan (s.th c t) i = some (w, n))
    (hv : (s.core c).heldLine s.now w n = none) (hb : ∀ j, w ≤ j → j < w + n → (s.core c).readFault j = none) :
    load c t i s = .seq (loadFinish c t 1 i s) := by
  unfold load
  rw [hs]
  dsimp only
  rw [hv]
  unfold loadChecked
  rw [Core.firstBad_none _ _ (fun x hx => by
    simp only [List.mem_map, List.mem_range] at hx; obtain ⟨j, hj, rfl⟩ := hx; exact hb _ (by omega) (by omega))]

/-- A load that touches an invalid guarded line, or one that becomes valid in its cycle, waits for it. -/
theorem load_waits (c : CoreId) (t : Thr) (i : Instr) (s : State) (w n l : Nat) (hs : loadSpan (s.th c t) i = some (w, n))
    (hv : (s.core c).heldLine s.now w n = some l) : load c t i s = .wait s 5 (16 * l) := by
  unfold load
  rw [hs]
  dsimp only
  rw [hv]

/-- A load of one word that reads badly faults. -/
theorem load_bad (c : CoreId) (t : Thr) (i : Instr) (s : State) (w : Nat) (f : Byte) (hs : loadSpan (s.th c t) i = some (w, 1))
    (hv : (s.core c).heldLine s.now w 1 = none) (hb : (s.core c).readFault w = some f) :
    load c t i s = .fault (s.spErr c 0 t 0 w) f (BitVec.ofNat 8 (w % 32)) (BitVec.ofNat 32 (4 * w)) := by
  unfold load
  rw [hs]
  dsimp only
  rw [hv]
  unfold loadChecked
  simp [Core.firstBad, hb, bankOf]

/-- A sub-word store to a word that reads well writes its bytes. -/
theorem storeBytes_ok (c : CoreId) (t : Thr) (a n : Nat) (v : Word) (s : State) (hb : (s.core c).readFault (a / 4) = none) :
    storeBytes c t a n v s = .seq (s.onCore c fun k => (List.range n).foldl (fun k i => k.setSpByte (a + i) (v.extractLsb' (8 * i) 8)) k) := by
  unfold storeBytes
  rw [hb]

end Sys2Proof.Machine
end

