-- ==== Sys2Proof/Laws/Vector.lean ====
section
/-! SUPPORT. What the shared operations of the vector unit answer. -/

namespace Sys2Proof.Machine

/-- A lane-wise result with no invalid lane, or with TNV clear, is written with its flags. -/
theorem vwrite_ok (c : CoreId) (t : Thr) (d : Reg) (w lat : Nat) (r : List (Nat × Nat)) (s : State)
    (h : (s.th c t).st 13 = false ∨ badLane r = none) :
    vwrite c t d w lat (r.map Prod.fst) (laneFlags r) (badLane r) s = .seq (s.putLanes c t d w lat r) := by
  unfold vwrite
  rw [if_neg]; rfl
  rcases h with h | h <;> simp [h, bTNV]

/-- With TNV set, the lowest invalid lane faults and nothing is written. -/
theorem vwrite_traps (c : CoreId) (t : Thr) (d : Reg) (w lat fl l : Nat) (xs : List Nat) (bad : Option Nat) (s : State)
    (h : (s.th c t).st 13 = true) (hb : bad = some l) : vwrite c t d w lat xs fl bad s = .fault s 0x0D 0 (BitVec.ofNat 32 l) := by
  unfold vwrite
  rw [if_pos (by simp [h, hb, bTNV]), hb]; rfl

/-- Lanes without flags hold no invalid lane. -/
theorem badLane_plain (r : List Nat) : badLane (r.map fun v => (v, 0)) = none := by
  have : bit 0 4 = false := by decide
  simp [badLane, List.findIdx?_map, List.findIdx?_eq_none_iff, hasNV, flNV, this]

/-- A lane-wise operation without flags. -/
theorem zipWith_plain {α β : Type} (g : α → β → Nat) (A : List α) (B : List β) :
    List.zipWith (fun p q => (g p q, 0)) A B = (List.zipWith g A B).map fun v => (v, 0) := by rw [List.map_zipWith]

theorem laneBits_eq (f : BitVec 3) (op : Nat → Nat → Nat → Nat) : laneBits f op = fun a b => (op (vW f) a b % 2 ^ vW f, 0) := rfl

end Sys2Proof.Machine
end

