-- ==== Sys2Proof/Machine/Chequer.lean ====
section
/-! DEFINITION. The chequer layout of a tensor, which job images, feeds and result areas use (14 R457). No command computes it: it is the
programs' own use of memory. -/

namespace Sys2Proof.Machine

/-- Bytes of the image of a block's row of 32 elements in a format (14 R457; 05 R168, R169). -/
def chequerRow (f : Nat) : Nat := 4 * (rowWords f 32).getD 0

/-- Bytes of a block's slot: 512, 1,024, 2,048 or 4,096, the least that holds its 32 row images (14 R457, table). -/
def chequerSlot (f : Nat) : Nat := (([512, 1024, 2048, 4096] : List Nat).find? fun n => decide (32 * chequerRow f ≤ n)).getD 4096

/-- The byte offset, from the base of a tensor of `cols` columns, of the row image that holds an element (14 R457). -/
def chequerOffset (f cols row col : Nat) : Nat :=
  (row / 32 * (cols / 32) + col / 32) * chequerSlot f + row % 32 * chequerRow f

end Sys2Proof.Machine
end

