-- ==== Sys2Proof/Tests/Slice0.lean ====
section
/-! SUPPORT. Tests: ill-formed commands that the checks refuse, the spec's worked examples, and for every statement a state and operands
that meet its hypotheses. -/

namespace Sys2Proof.Tests

set_option Elab.async false

open Sys2Proof Sys2Proof.Machine

/-! ### Well-formed commands: one ill-formed term for each check -/

/-- No error found in the LPDDR6 tier, the 256 bytes of a flit, a packet of zeros, and an image of no bytes. -/
def noErr : LpErrs := { ue := 0, ce := 0, rty := 0 }
def zeros : List Byte := List.replicate 256 0
def packet0 : Packet :=
  { dmod := 0, smod := 0, dctx := 0, job := 0, op := 0, seq := 0, epoch := 0, hops := 0, aux := 0, addr := 0, data := [] }
def image0 : FwImage :=
  { magic := 0, format := 0, svn := 0, keyslot := 0, fwver := 0, plen := 0, entry := 0, statever := 0, statemin := 0, zeros := true,
    total := 0, keyHashOk := true, rsaOk := true, slhOk := true, digest := 0 }

/-- Condition codes 14 and 15 are BR, JMP and CALL (04 R147), and an encoding that decodes is not a reserved one. -/
theorem test_wf_encodings : ([.bcc 0 0 14 false 0, .bcc 0 0 15 true 0, .reservedEncoding 0 0 0 [], .reservedEncoding 0 0 0x3E00 [1, 2, 3, 4]]
  : List Instr).all (fun i => !i.wf) = true := by decide +kernel

/-- Taps end at 319 (01 R25), regions at 19 (01 R23). -/
theorem test_wf_taps_and_regions : ([.tapWr 320, .tapData 320, .stageFill 320 0 noErr, .stageInvalidate 320 0, .stageWriteback 320 ⟨0, noErr⟩,
  .patrolScrub 320 [], .patrolScrub 0 [], .rowRemap 320 [], .rowRemap 0 [], .prefetchFetch 20 0, .faultResolve (.stream 20 0) 0, .margin 20,
  .marginRead 20 0 0, .temperatureReading 20 0 0 0 0, .thermalTrip 20 0 0] : List Instr).all (fun i => !i.wf) = true := by decide +kernel
theorem test_wf_tap_read : ([.tapRd 320 .clean .clean] : List Instr).all (fun i => !i.wf) = true := by decide +kernel

/-- Ports end at 39, with the Brepo link as 40 (12 R389; 15 R460), and a flit has 256 bytes (12 R391). -/
theorem test_wf_ports : ([.flitReceive 41 ⟨0, zeros⟩, .flitReceive 0 ⟨0, []⟩, .nak 41 0, .replayTimeout 41, .idle 41, .linkRetryBudget 41, .signalLoss 41,
  .portTrained 41 true 0 0 0, .train .debug 40, .markerArrive 40 { crcOk := true, offset := 0, rev := 0, hops := 0, masterId := 0, hold := false },
  .markerMiss 40, .packetReceive 40 false packet0, .portRetrain 40, .portDisable .debug 40] : List Instr).all (fun i => !i.wf) = true := by
  decide +kernel

/-- Lengths of payloads (08 R284; 16 R503, R504), found causes of start-up, and ranges of measured values (17 R517; 18 R527, R531). -/
theorem test_wf_lengths_and_ranges : ([.patternLoad 0 5 0 [], .patternLoad 0 11 0 [], .patternLoad 0 6 0 [], .attest 0 0 [] [], .keyDerivation [],
  .startUp image0 5, .startUp image0 10, .startUp image0 16, .retirementDecision 40 0 1, .retirementDecision 0 80 1, .retirementDecision 0 0 0,
  .marginRead 0 2 1, .seqfail 7, .inputLow 459, .inputLow 480, .inputHigh 580, .inputHigh 601, .powerApplied 459, .powerApplied 601]
  : List Instr).all (fun i => !i.wf) = true := by decide +kernel

/-- Terms at the edge of the checks pass. -/
theorem test_wf_accepts : ([.bcc 0 0 13 false 0, .tapWr 319, .margin 19, .idle 40, .train .debug 39, .seqfail 6, .inputLow 460, .inputHigh 600,
  .powerApplied 600, .startUp image0 15, .retirementDecision 39 79 3, .marginRead 19 7 7] : List Instr).all Instr.wf = true := by decide +kernel

/-! ### Words of the spec's worked examples (04 R142 and its worked examples, 06 R226) -/

/-- 04 R142: MOVI g6, -2 and MOVIL g6, 0x8000_0001. -/
theorem test_words_immediates : encodeInstr (.movi 0 0 6 0xFFFFE) = [0x19BF, 0x3FFE] ∧ decodeWords 0 0 0x19BF [0x3FFE] = some (.movi 0 0 6 0xFFFFE) ∧
  encodeInstr (.movil 0 0 6 0x80000001) = [0x1B88, 0, 1] ∧ decodeWords 0 0 0x1B88 [0, 1] = some (.movil 0 0 6 0x80000001) := by decide +kernel

/-- The scaled-sum loop at 0x0100. -/
theorem test_words_loop : decodeWords 0 2 0x2220 [0x0106] = some (.loop 0 2 0 4 0x0106) ∧
  decodeWords 0 2 0x1050 [] = some (.ldw 0 2 1 2 none) ∧ decodeWords 0 2 0x0B4E [] = some (.mul 0 2 5 1 6) ∧
  decodeWords 0 2 0x1C90 [1] = some (.addi 0 2 2 2 1) ∧ decodeWords 0 2 0x00DD [] = some (.add 0 2 3 3 5) := by decide +kernel

/-- BNE back from 0x0200 to 0x01F0: head 0x2021, extension 0x3FF0. -/
theorem test_words_bne : decodeWords 0 0 0x2021 [0x3FF0] = some (.bcc 0 0 1 false 0x7FF0) ∧ branchTarget 0x0200 false 0x7FF0 = 0x01F0 := by
  decide +kernel

/-- TCFG tb3 as BF16, 32 rows by 64 bytes: 0x2EC4, 0x1F3C. -/
theorem test_words_tcfg : decodeWords 0 0 0x2EC4 [0x1F3C] = some (.tcfg 0 0 3 1 31 15 false) := by decide +kernel

/-- The drain of an exact accumulator row: 0x3213, 0x04D0, 0x3780, 0x3E00. -/
theorem test_words_tdrain : decodeWords 0 1 0x3213 [0x04D0, 0x3780, 0x3E00] = some (.tdrain 0 1 0 2 3
  { ofmt := 1, rnd := 0, se := true, sk := true, sreg := 2, be := true, bk := true, breg := 3, ce := true, creg := 4, ste := true, stb := 7,
    za := true }) := by decide +kernel

/-- STH with an offset of -6 from 0x0004_0002 is at byte 262,140, and of -5 at an odd byte (04 R144). -/
theorem test_byte_address : byteAddr 0x00040002 (some 0x3FFA) = 262140 ∧ byteAddr 0x00040002 (some 0x3FFB) = 262141 := by decide +kernel

/-! ### Numbers (05 R174 to R177) -/

/-- 0x3F81_8000 to BF16 in the three modes, and four FP32 values to E4M3 under RNE. -/
theorem test_round_bf16 : bf16.ofN rne 0 (fp32.unpack 0x3F818000) = (0x3F82, flNX) ∧ bf16.ofN rtz 0 (fp32.unpack 0x3F818000) = (0x3F81, flNX) ∧
  bf16.ofN sr 0x5C1D0E37 (fp32.unpack 0x3F818000) = (0x3F82, flNX) ∧ bf16.ofN sr 0x80000000 (fp32.unpack 0x3F818000) = (0x3F81, flNX) := by
  decide +kernel
theorem test_round_e4m3 : e4m3.ofN rne 0 (.fin false 300 0) = (0x79, flNX) ∧ e4m3.ofN rne 0 (.fin false 460 0) = (0x7E, flNX) ∧
  e4m3.ofN rne 0 (.fin false 500 0) = (0x7E, flOF + flNX) ∧ e4m3.ofN rne 0 (.fin false 1 (-10)) = (0, flUF + flNX) := by decide +kernel

/-! ### Chequer layout (14 R457) and the identity code (18 R543) -/

/-- The table's row images and slots, and billet block 300: rows 24 and 25 of chequer block 18 of FP32. -/
theorem test_chequer : ([0, 1, 2, 3, 4, 5, 6, 8, 9, 13, 10, 11, 12, 7] : List Nat).map (fun f => (chequerRow f, chequerSlot f)) =
  [(128, 4096), (64, 2048), (64, 2048), (32, 1024), (32, 1024), (32, 1024), (32, 1024), (36, 2048), (36, 2048), (36, 2048), (28, 1024), (28, 1024),
   (20, 1024), (16, 512)] ∧ chequerOffset 0 8192 24 (18 * 32) = 300 * 256 := by decide +kernel

/-- Billet block 300 of the worked example lands, for rank 5, at 0x4_0007_D401_2C00 (14, worked example). -/
def red7 : Reduction :=
  { Reduction.none with segs := [0], dests := [[0xFFFF, 0x97, 0x54000000, 0x40000, 0xBFFF0000, 1, 256, 98304]] }
theorem test_result_address : red7.dAddr 0 5 300 = 0x40007D4012C00 := by decide +kernel

/-- IDCODE of MAJOR 1: 0x1, 0x0C09, 0x4D3, 1. -/
theorem test_idcode : ((State.reset.setFld F.DEV_STEP_MAJOR 1).idcode).toNat = 0x10C099A7 := by decide +kernel

/-! ### The queue, reset, memories, encodings -/

/-- Thread 0 of core 0 in RUN after reset, and the same with a change of the thread, of the core, or of both. -/
def runS : State := State.reset.onTh 0 0 fun x => { x with state := .run }
def runT (f : Thread → Thread) : State := runS.onTh 0 0 f
def runC (f : Core → Core) : State := runS.onCore 0 f

/-- The module with its rails on; the same with the host link UP. -/
def onS : State := State.reset.onPower fun p => { p with stby := true, en := true, pgood := true }
def upS : State := (onS.setFld F.HL_STATUS_LINK portUp).setFld F.DEV_STATUS_STATE mSERVICE

/-- Whether a command goes on. -/
def goes (i : Instr) (s : State) : Bool := match exec i s with
  | .next _ => true
  | _ => false

theorem test_StepRunsTheFrontCommand_met : onS.pending = [] ∧ onS.power.pgood = true ∧ State.reset.power.pgood = false := by decide +kernel
theorem test_ResetDomains_met : SMap.wf devReset State.reset.dev ∧ devPor R.PW_CTRL = true ∧ devPor R.MT_CTRL = false :=
  ⟨by decide +kernel, by decide +kernel⟩
theorem test_CommandsLeaveTheQueue_met : goes (.add 0 0 1 2 3) runS = true ∧ goes .marker onS = true := by decide +kernel
theorem test_StepsKeepTheMemoryCanonical_met : runS.memWf ∧ ({ runS with pending := [.add 0 0 1 2 3] } : State).goesOn = true :=
  ⟨⟨SMap.nil_wf _, SMap.nil_wf _⟩, by decide +kernel⟩
theorem test_InstructionWordsRoundTrip_met : threadOf (.loop 0 2 3 4 0x4106) = some (0, 2) ∧ (Instr.loop 0 2 3 4 0x4106).wf = true ∧
  reservedOperands (.loop 0 2 3 4 0x4106) = false ∧ nExt (headOf (.loop 0 2 3 4 0x4106)) = 1 ∧
  (decodeWords 0 2 (headOf (.loop 0 2 3 4 0x4106)) [0x0106]).isSome = true := by decide +kernel

/-! ### Scalar instructions: a thread that issues each of them -/

/-- Every scalar instruction is issued by the thread of `runS` (the hypothesis of ScalarResults, DivisionResults and FlagsStatusAndConditions; the
next four theorems: that of the statements of those instructions). -/
theorem test_issues_arithmetic : ([.add 0 0 1 2 3, .sub 0 0 1 2 3, .and 0 0 1 2 3, .or 0 0 1 2 3, .xor 0 0 1 2 3, .min 0 0 1 2 3, .max 0 0 1 2 3,
  .mul 0 0 1 2 3, .mulh 0 0 1 2 3, .mulhu 0 0 1 2 3, .shl 0 0 1 2 3, .shr 0 0 1 2 3, .sar 0 0 1 2 3, .rot 0 0 1 2 3, .mov 0 0 1 2, .not 0 0 1 2,
  .addi 0 0 1 2 0x3FFF, .movi 0 0 1 0xFFFFF, .movil 0 0 1 5, .nop 0 0, .div 0 0 1 2 3, .divu 0 0 1 2 3, .rem 0 0 1 2 3, .remu 0 0 1 2 3,
  .cmp 0 0 2 3, .cmpi 0 0 2 0x2000, .addc 0 0 1 2 3, .subc 0 0 1 2 3, .setcc 0 0 1 5, .mfs 0 0 1, .mts 0 0 2, .rdcyc 0 0 6, .rdcyc 0 0 7]
  : List Instr).all (fun i => runS.issues 0 0 i) = true := by decide +kernel
theorem test_issues_control : ([.br 0 0 0x7FFF, .jmp 0 0 5, .bcc 0 0 0 true 5, .bcc 0 0 1 false 5, .jr 0 0 2, .call 0 0 true 5, .callr 0 0 2, .ret 0 0,
  .loop 0 0 3 2 9, .lbrk 0 0 1, .mft 0 0 1 15, .mtt 0 0 1 3, .halt 0 0, .settc 0 0 1, .clrtc 0 0, .lrst 0 0 15, .waitt 0 0, .trap 0 0 511,
  .reservedEncoding 0 0 0x3FFF [], .lock 0 0 1 2, .trylock 0 0 1 2, .unlock 0 0 2, .thrst 0 0 1, .thrst 0 0 0, .thstart 0 0 1 2,
  .thstart 0 0 0 2, .rdfs 0 0 1, .rte 0 0]
  : List Instr).all (fun i => runS.issues 0 0 i) = true := by decide +kernel
theorem test_issues_memory : ([.ldw 0 0 1 2 none, .ldh 0 0 1 2 (some 0x3FFF), .ldhu 0 0 1 2 none, .ldb 0 0 1 2 none, .ldbu 0 0 1 2 none, .lds 0 0 1 0,
  .pop 0 0 1, .vld 0 0 1 2 0, .vldbc 0 0 1 2 0, .stw 0 0 1 2 none, .sth 0 0 1 2 none, .stb 0 0 1 2 (some 1), .sts 0 0 1 0, .push 0 0 1, .vst 0 0 1 2 0,
  .consume 0 0 1] : List Instr).all (fun i => runS.issues 0 0 i) = true := by decide +kernel
theorem test_issues_vector : ([.vadd 0 0 0 1 2 3, .vsub 0 0 1 1 2 3, .vmul 0 0 2 1 2 3, .vfma 0 0 3 1 2 3 4, .vmin 0 0 0 1 2 3, .vmax 0 0 4 1 2 3,
  .vabs 0 0 5 1 2, .vneg 0 0 0 1 2, .vdiv 0 0 0 1 2 3, .vsqrt 0 0 1 1 2, .vcmpeq 0 0 6 1 2 3, .vcmplt 0 0 0 1 2 3, .vcmple 0 0 0 1 2 3,
  .vsel 0 0 0 1 2 3 4, .vand 0 0 4 1 2 3, .vor 0 0 4 1 2 3, .vxor 0 0 4 1 2 3, .vshl 0 0 5 1 2 3, .vshr 0 0 6 1 2 3, .vsar 0 0 4 1 2 3,
  .vcvt 0 0 0 2 2 1 2, .vrsum 0 0 0 1 2, .vrmax 0 0 0 1 2, .vbcast 0 0 0 1 2, .vext 0 0 0 1 2 3, .vins 0 0 0 1 2 3, .vseed 0 0 1 2]
  : List Instr).all (fun i => runS.issues 0 0 i) = true := by decide +kernel
theorem test_issues_system : ([.tcfg 0 0 1 1 31 15 false, .trel 0 0 1, .tzero 0 0 1, .tflags 0 0 1 2, .tclrf 0 0 1, .txcap 0 0 1,
  .tld 0 0 1 2 3 1 false 0, .tmma 0 0 1 2 3 false true, .tmma 0 0 1 2 3 true false, .dmago 0 0 1 2, .dmastat 0 0 1 2, .dmadis 0 0 7,
  .waitf 0 0 1 63 true, .waitb 0 0 1 15, .setf 0 0 1 3, .clrf 0 0 1 3, .tstf 0 0 1 3, .arrb 0 0 15, .copen 0 0 1 2 3, .cclose 0 0 2, .msend 0 0 1 2 3 4,
  .mrecv 0 0 1 2, .mdone 0 0 2] : List Instr).all (fun i => runS.issues 0 0 i) = true := by decide +kernel

/-- The two cases of division and of the conditions: a zero and another divisor; each condition code both ways. -/
theorem test_FlagsStatusAndConditions_both : (List.range 14).all (fun n => [0x0, 0x1, 0x2, 0x4, 0x8, 0xF].any (fun w => condHolds
  { Thread.reset with sw := w } (BitVec.ofNat 4 n)) && [0x0, 0x1, 0x2, 0x4, 0x8, 0xF].any (fun w => !condHolds { Thread.reset with sw := w }
    (BitVec.ofNat 4 n))) = true := by decide +kernel
/-- 7 / -2 is -3 with remainder 1; by zero the quotient is all ones and the remainder the dividend (03 R88). -/
theorem test_division : divS 7 0xFFFFFFFE = 0xFFFFFFFD ∧ remS 7 0xFFFFFFFE = 1 ∧ divU 7 0 = 0xFFFFFFFF ∧ remS 7 0 = 7 := by decide +kernel

/-! ### Loads and stores: boundary values of each clause -/

/-- A thread with g1 = `v`, whose data stack runs from word 16 to word 32 and stands at word 20. -/
def memS (v : Word) : State := ((runT fun x => { x.setG 1 v with dsp := 20 }).onCore 0 fun k =>
  (k.setW (R.CORE_TH_DSLO 0) 16).setW (R.CORE_TH_DSHI 0) 32)

/-- Line 0 in guard region 3 of one line, valid, invalid, or set valid by a commit of the cycle of its issue. -/
def guardS (valid : Bool) : State := (memS 0).onCore 0 fun k => (k.setW (R.DMA_GUARD 3) 0x80002000).setValid 0 valid
def justS : State := (guardS true).onCore 0 fun k => { k with vset := (((guardS true).atIssue 0 0 (.consume 0 0 1)).now, [0]) }

/-- The last word, the last half-word, the last byte, and the last 16 words are in range, readable, and no guarded line. -/
theorem test_LoadsReadTheScratchpad_met : wordAddr 81919 none = 81919 ∧ byteAddr 327678 none = 327678 ∧ wordAddr 81904 (some 0) = 81904 ∧
  ((memS 0).core 0).heldLine 5 81919 1 = none ∧ ((memS 0).core 0).heldLine 5 81904 16 = none ∧ ((guardS true).core 0).heldLine 5 0 1 = none ∧
  (List.range 16).all (fun i => (((memS 0).core 0).readFault (81904 + i)).isNone) = true ∧ ((memS 0).core 0).dshi 0 = 32 ∧
  ((memS 0).th 0 0).dsp.toNat + 11 < 32 ∧ (memS 81919).issues 0 0 (.ldw 0 0 2 1 none) = true := by decide +kernel
theorem test_StoresWriteTheScratchpad_met : ((memS 327678).core 0).readFault (327678 / 4) = none ∧ ((memS 0).core 0).dslo 0 = 16 ∧
  ((memS 0).core 0).dslo 0 < ((memS 0).th 0 0).dsp.toNat ∧ (memS 81904).issues 0 0 (.vst 0 0 2 1 0) = true ∧
  (memS 327678).issues 0 0 (.sth 0 0 2 1 none) = true ∧
  ((((guardS true).atIssue 0 0 (.consume 0 0 1)).core 0).justSet ((guardS true).atIssue 0 0 (.consume 0 0 1)).now).contains 0 = false := by decide +kernel
theorem test_ConsumeReturnsCredit_met : ((guardS true).core 0).gEn 3 = true ∧ ((guardS true).core 0).regionOf 0 = some 3 ∧
  ((guardS true).core 0).isValid 0 = true ∧ ((guardS false).core 0).isValid 0 = false ∧ ((memS 0).core 0).regionOf 0 = none ∧
  (guardS true).issues 0 0 (.consume 0 0 1) = true ∧ ((guardS true).core 0).justSet ((guardS true).atIssue 0 0 (.consume 0 0 1)).now = [] ∧
  (justS.core 0).isValid 0 = true ∧ ((justS.core 0).justSet (justS.atIssue 0 0 (.consume 0 0 1)).now).contains 0 = true := by decide +kernel
theorem test_AccessFaultsAndGuardWaits_met : wordAddr 81920 none = 81920 ∧ byteAddr 327679 none % 2 = 1 ∧
  ((guardS false).core 0).heldLine 5 0 1 = some 0 ∧ (justS.core 0).heldLine (justS.atIssue 0 0 (.consume 0 0 1)).now 0 1 = some 0 ∧ (((memS 0).core 0).setPsn 0 true).readFault 15 = some 6 ∧
  ({ (memS 0).core 0 with spPar := [(5, 1)] } : Core).readFault 5 = some 5 ∧ (((memS 0).core 0).setSpWord 5 7).readFault 5 = none ∧
  ((runS.core 0).dshi 0 ≤ (runS.th 0 0).dsp.toNat) ∧ (runS.th 0 0).dsp.toNat ≤ (runS.core 0).dslo 0 ∧
  (memS 81920).issues 0 0 (.ldw 0 0 2 1 none) = true := by decide +kernel

/-! ### Control, loops, threads, traps -/

/-- A thread with a full return stack. -/
def deepS : State := runT fun x => { x with rs := List.replicate 16 7 }
theorem test_BranchesCallsAndReturns_met : condHolds (runS.th 0 0) 1 = true ∧ condHolds (runS.th 0 0) 0 = false ∧ (runS.th 0 0).rs = [] ∧
  (deepS.th 0 0).rs = 7 :: List.replicate 15 7 ∧ 16 ≤ (deepS.th 0 0).rs.length ∧ deepS.issues 0 0 (.call 0 0 true 5) = true ∧
  deepS.issues 0 0 (.ret 0 0) = true ∧ ((runT fun x => { x with rs := List.replicate 15 7 }).th 0 0).rs.length < 16 := by decide +kernel

/-- Level 3 active, with its end at 9, its start at 4 and a count; in a handler. -/
def loopT (n : Word) : Thread := ({ Thread.reset with
  ls := SMap.set (fun _ => 0) [] 3 4, le := SMap.set (fun _ => 0) [] 3 9, lc := SMap.set (fun _ => 0) [] 3 n } : Thread).setSt 19 true
theorem test_LoopsRunAndEnd_met : (runS.th 0 0).st 4 = false ∧ (runS.th 0 0).st 16 = false ∧ ((runS.th 0 0).pc + 2).toNat ≤ 2 ∧
  ((runT fun x => x.setG 2 1).th 0 0).gr 2 ≠ 0 ∧ (runS.th 0 0).gr 2 = 0 ∧ ((runT fun x => x.setSt 4 true).th 0 0).st 4 = true ∧
  ((runT fun x => x.setSt 16 true).th 0 0).st 16 = true ∧ (1 : BitVec 15).toNat < ((runS.th 0 0).pc + 2).toNat ∧
  (loopT 2).st 4 = false ∧ (loopT 2).st 19 = true ∧ SMap.get (fun _ => 0) (loopT 2).le 3 = 9 ∧ (∀ m : BitVec 2, m ≠ 3 → (loopT 2).st (16 + m.toNat) = false) ∧
  1 < (SMap.get (fun _ => (0 : Word)) (loopT 2).lc 3).toNat ∧ (SMap.get (fun _ => (0 : Word)) (loopT 1).lc 3).toNat ≤ 1 := by decide +kernel
/-- 03 R99: from the end of the body with count 2 the thread goes to 4 with count 1, then on to 10. -/
theorem test_loop_back : ((loopT 2).loopEnd 9 1).pc = 4 ∧ ((loopT 1).loopEnd 9 1).pc = 10 := by decide +kernel

/-- Lock 2 held by a thread, or abandoned. -/
def lockS (st : Nat) (t : Thr) : State := runC fun k => k.setLock 2 st t
theorem test_ThreadRegistersTimersAndHalt_met : ((lockS 2 0).core 0).lock 2 = 2 ∧ ((lockS 1 0).core 0).lock 2 = 1 ∧ (runS.th 0 0).gr 1 = 0 ∧
  ((memS 5).th 0 0).gr 1 ≠ 0 ∧ ((runT fun x => x.setSt 5 true).th 0 0).st 5 = true ∧ ((runT fun x => x.setSt 6 true).th 0 0).st 6 = true ∧
  ((runT fun x => x.setSt 6 true).th 0 0).st 5 = false ∧ (runT fun x => x.setSt 6 true).issues 0 0 (.waitt 0 0) = true := by decide +kernel
theorem test_SoftTrapsAndReservedEncodings_met : ([] : List PWord).length = nExt 0x3FFF ∧ decodeWords 0 0 0x3FFF [] = none ∧
  runS.issues 0 0 (.reservedEncoding 0 0 0x3FFF []) = true := by decide +kernel
theorem test_LocksAreTakenAndReleased_met : (runS.core 0).lock 2 = 0 ∧ ((lockS 1 0).core 0).lockOwner 2 = 0 ∧ ((lockS 1 3).core 0).lockOwner 2 ≠ 0 ∧
  ((lockS 1 3).core 0).lock 2 = 1 ∧ ((lockS 1 3).th 0 0).st 5 = false ∧ (lockS 1 3).issues 0 0 (.lock 0 0 1 2) = true ∧
  (((lockS 1 3).onTh 0 0 fun x => x.setSt 5 true).th 0 0).st 5 = true ∧ ((lockS 2 0).core 0).lock 2 = 2 := by decide +kernel
theorem test_SiblingsAndFaultReports_met :
  (runS.th 0 1).state = .idle ∧ ((runS.onTh 0 1 fun x => { x with state := .stopped }).th 0 1).state ≠ .idle ∧
  (runC fun k => { k with fsq := [7] }).issues 0 0 (.rdfs 0 0 1) = true ∧ (runS.core 0).fsq = [] := by decide +kernel
/-- In a handler with EPC 7, and outside one. -/
def trapS : State := runT fun x => { x.setSt 4 true with epc := 7 }
theorem test_TrapEntryAndReturn_met : (runS.th 0 0).st 4 = false ∧ (trapS.th 0 0).st 4 = true ∧
  ((trapS.core 0).tqOf 0 ++ (trapS.core 0).tqOf 1).all (fun e => !e.held) = true ∧ trapS.issues 0 0 (.rte 0 0) = true ∧
  runS.issues 0 0 (.rte 0 0) = true := by decide +kernel
theorem test_DoubleFaultStopsTheThread_met : (trapS.th 0 0).st 4 = true ∧ ((trapS.takeTrap 0 0 7 3 0 0).th 0 0).state = .stopped := by decide +kernel

/-- A thread that waits for its timer, with its wake decided or not. -/
def waitS (w : Option Wake) (ta : Bool) : State := runT fun x =>
  { x.setSt 6 ta with state := .wait, waiting := some (.waitt 0 0), waiton := 0x60000000, wake := w }
def faultMsg : NetMsg := { src := 0, dst := 1, due := 40, body := .fault 0 }
/-- A thread whose load of word 0, a bad one, waited on its line and is woken in cycle 4. -/
def grantS : State := ((guardS true).onTh 0 0 fun x => { x with state := .wait, waiting := some (.ldw 0 0 2 1 none), waiton := 0x50000000, wake := some { cyc := 4, status := 0 } }).onCore 0
    fun k => { k with spPar := [(0, 1)] }
def badGot (s : State) : Bool := (SMap.get (fun _ => []) ((s.advanceTo 3).core 0).gots 0).any fun v => v.2.isSome
theorem test_ThreadEvents_granted : badGot grantS = true ∧ badGot (waitS (some { cyc := 4, status := 0 }) false) = false ∧
  (grantS.core 0).waitInstr 0 0 = some (.ldw 0 0 2 1 none) ∧ (waitS none false).eventAt 0 0 (revStart ((waitS none false).wdogRev 0 0)) = false := by
  decide +kernel
theorem test_ThreadEvents_met : (waitS (some { cyc := 4, status := 0 }) false).hasCore 0 = true ∧
  ((waitS (some { cyc := 4, status := 0 }) false).core 0).waitInstr 0 0 = some (.waitt 0 0) ∧ ((waitS none true).th 0 0).timed = true ∧
  ((waitS none true).th 0 0).wkind ≠ 4 ∧ ((waitS none false).th 0 0).st 6 = false ∧ ((waitS none true).th 0 0).st 6 = true ∧
  ((runT fun x => x.setSt 6 true).th 0 0).state ≠ .wait ∧
  earliest (fun m => m.src == 0 && m.body == .fault 0) (fun _ _ => false) ({ runS with net := [faultMsg] } : State).net = some faultMsg := by decide +kernel
theorem test_CoreRegistersThatAct_met : State.reset.hasCore 3039 = true ∧ State.reset.acceptsWin (.hs 0) 0 R.CORE_CTRL 0x80000 = true ∧
  State.reset.acceptsWin (.hs 0) 0 R.CORE_CTRL 0x800 = true ∧ State.reset.acceptsWin (.hs 0) 0 R.CORE_CTRL 1 = true ∧
  State.reset.acceptsWin (.hs 0) 0 R.CORE_LOCK_WPOS 5 = true ∧ State.reset.acceptsWin (.hs 0) 0 R.CORE_PM_DATA 5 = true ∧
  (State.reset.core 0).atRest = true := by decide +kernel
theorem test_CoreRegistersThatAct_starts : (State.reset.th 0 0).state = .idle ∧
  ((runT fun x => { x with state := .halted }).th 0 0).state = .halted ∧ (runS.th 0 0).state ≠ .idle ∧ (runS.th 0 0).state ≠ .halted := by decide +kernel
/-! ### Vectors, tiles, DMA, flags -/

/-- A thread whose v2 holds a signalling NaN in lane 3, with TNV as given. -/
def nanS (tnv : Bool) : State := runT fun x => (x.setSt 13 tnv).setV 2 (BitVec.ofNat 512 (0x7F800001 * 2 ^ 96))
theorem test_VectorArithmeticByLanes_met : (runS.th 0 0).st 13 = false ∧ badLane (List.zipWith (laneAdd 0) (lanesOf 32 0) (lanesOf 32 0)) = none := by
  decide +kernel
theorem test_VectorComparesSelectsAndShifts_met : (runS.th 0 0).st 13 = false ∧
  badLane (List.zipWith (fun x _ => laneSign 0 false x) (lanesOf 32 0) (lanesOf 32 0)) = none := by decide +kernel
theorem test_VectorMovesConversionsAndTraps_met : ((nanS false).th 0 0).st 13 = false ∧ ((nanS true).th 0 0).st 13 = true ∧
  badLane (List.zipWith (laneAdd 0) (lanesOf 32 (((nanS true).th 0 0).vr 2)) (lanesOf 32 0)) = some 3 ∧
  (nanS true).issues 0 0 (.vadd 0 0 0 1 2 3) = true := by decide +kernel

/-- Blanks of thread 0: tb1 FP32 2 by 2, tb2 and tb3 BF16 2 by 2, tb4 ACC64 2 by 2, tb5 and tb6 E4M3 2 by 4 (all in TILE_CFG layout). -/
def tileS : State := runC fun k => [(1, 0x80041000#32), (2, 0x81040000#32), (3, 0x81040000#32), (4, 0x8E043000#32), (5, 0x83040000#32),
  (6, 0x83040000#32)].foldl (fun (k : Core) p => k.setW (R.TILE_CFG p.1) p.2) k
def tileI (i : Instr) : Core := (tileS.atIssue 0 0 i).core 0
theorem test_TileInstructions_blanks : (tileI (.tcfg 0 0 0 0 1 1 false)).tCfg 0 = false ∧ (tileI (.tcfg 0 0 1 0 1 1 false)).tOwner 1 = 0 ∧
  4 * (1 + 1) % tGranule 0 = 0 ∧ (tileI (.trel 0 0 1)).tCfg 1 = true ∧ (tileI (.trel 0 0 1)).tNamed 1 = false ∧
  (tileI (.tzero 0 0 1)).tOwn 0 1 = none ∧ (tileI (.tflags 0 0 1 2)).tWritten 2 = false ∧
  (((tileI (.txcap 0 0 1)).tqOf 0 ++ (tileI (.txcap 0 0 1)).tqOf 1).any fun e => e.thr == 0 && e.open_) = false ∧
  (tileI (.tzero 0 0 0)).tOwn 0 0 = some (1, 0) ∧ tileS.issues 0 0 (.tzero 0 0 0) = true := by decide +kernel
theorem test_TileInstructions_queues : (tileI (.tld 0 0 1 2 3 1 false 0)).tldFault 0 1 1 false = none ∧
  (tileI (.tld 0 0 1 2 3 1 false 0)).tImage (.tld 0 0 1 2 3 1 false 0) 0 1 = some (0, 2, 1, 1) ∧ ((tileI (.nop 0 0)).tqOf 2).length < tileDepth 2 ∧
  (tileI (.tmma 0 0 1 2 3 false true)).tmmaFault 0 1 2 3 true = none ∧ (tileI (.tmma 0 0 1 2 3 false true)).tFmt 1 ≠ 14 ∧
  (tileI (.tmma 0 0 1 4 3 false true)).tmmaFault 0 1 4 3 true = some (4, 4) ∧ (tileI (.tmma 0 0 4 5 6 false true)).tFmt 4 = 14 ∧
  tileS.issues 0 0 (.tmma 0 0 1 2 3 true true) = true ∧ tileS.issues 0 0 (.tld 0 0 1 2 3 1 false 0) = true := by decide +kernel
/-- The options of a plain drain in FP32. -/
def opt0 : DrainOpt := { ofmt := 0, rnd := 0, se := false, sk := false, sreg := 0, be := false, bk := false, breg := 0, ce := false, creg := 0,
                         ste := false, stb := 0, za := false }
theorem test_TileInstructions_exact : (tileI (.tmma 0 0 4 5 6 false true)).tmmaFault 0 4 5 6 true = none ∧
  (tileI (.tmma 0 0 4 5 6 false true)).tqAll.any (resetsAcc 4) = false ∧
  (tileI (.tdrain 0 0 1 2 3 opt0)).tdrainFault 0 1 opt0 = none ∧ (tileI (.tdrain 0 0 1 2 3 opt0)).tImage (.tdrain 0 0 1 2 3 opt0) 0 2 = some (0, 2, 2, 2) ∧
  tileS.issues 0 0 (.tmma 0 0 4 5 6 false true) = true ∧ tileS.issues 0 0 (.tdrain 0 0 1 2 3 opt0) = true := by decide +kernel

/-- An entry of a queue, not started, or started in cycle 0 after `row` row-steps; the core that holds it. -/
def entry (i : Instr) (start : Option Count) (row : Nat) : TEntry :=
  { thr := 0, pc := 0, i := i, ga := 0, gs := 2, seq := 0, start := start, next := 0, row := row, got := [], bad := none, held := false, sync := false,
    iss := 0, vregs := [], key := 0, ctr := 0, free := 0 }
def queueS (q : Nat) (e : TEntry) : State := tileS.onCore 0 fun k => { k.setTq q [e] with tseq := 1 }
def mma0 : Instr := .tmma 0 0 1 2 3 false true
theorem test_TileEngineEvents_met : (((queueS 0 (entry mma0 none 0)).core 0).tqOf 0).find? (fun e => e.start.isNone) = some (entry mma0 none 0) ∧
  (queueS 0 (entry mma0 none 0)).frozenAt 0 = false ∧ ((queueS 0 (entry mma0 none 0)).core 0).tReady (entry mma0 none 0) = true ∧
  (match ((queueS 0 (entry mma0 (some 0) 0)).core 0).nextRow with | some (0, e, _) => e == entry mma0 (some 0) 0 | _ => false) = true ∧
  (((queueS 0 (entry mma0 (some 0) 2)).core 0).tqOf 0).head? = some (entry mma0 (some 0) 2) ∧
  ((queueS 0 (entry mma0 (some 0) 2)).core 0).tmmaRows mma0 ≤ 2 ∧
  ((queueS 0 (entry mma0 none 0)).th 0 0).state ≠ .debug ∧
  goes (.tldComplete 0) (queueS 2 (entry (.tld 0 0 1 2 3 1 false 0) (some 0) 0)) = true ∧
  goes (.tdrainComplete 0) (queueS 3 (entry (.tdrain 0 0 1 2 3 opt0) (some 0) 0)) = true := by decide +kernel

/-- A job on a bed of one core, with the given state of its pass. -/
def job0 (st : PassState) : Job :=
  { id := 5, image := [], rank := 0, mods := [0], lead := 4, rerunMax := 3, deadline := 100, start := 10, bshadow := 0, lshadow := 0, bed := 0,
    ox := 0, oy := 0, w := 1, h := 1, supv := 0, parent := none, kids := [], ctxs := [],
    tab := [(0, 0x000F#64)], dzero := [], pass := 0, st := st, begun := true, frozen := false, dline := none, fails := 0, named := none, again := false,
    entered := false, cause := none, sat := false, written := [], nr := false, inbox := [], sent := [], sums := [], shadow := [], migs := [], shPages := [],
    lshadows := [], deferred := [], recv := [], ends := [], applied := [], sentEnd := [], ackEnd := [], copyIns := [], freezeAt := none,
    thawAt := none, heldTo := none, holdReq := false, hold := false, delay := 0, rolled := false, posted := false, gone := [], unrouted := [],
    swReq := none }
/-- Core 0 in bed 0, whose pattern gives the flow 7 the first of 64 slots eastward; the job; page 0 translated, on route 0 to tap 0. -/
def patS : State := { (runC fun k => { (((k.setW R.MESH_BED 0x80000002).setW R.MESH_FHDR 0x86000000).setW (R.MESH_TAPRT 0) 0x80000000).setW
    (R.MESH_TAPFL 0) 0x00080007 with
      front := SMap.set (fun _ => 0) [] 1024 0xC0000007, xlate := [{ job := 5, vpn := 0, entry := 0x000F, write := true }] }) with
  jobs := [job0 .run] }
/-- Channel 0 with a descriptor of 16 words, started and granted 64 bytes. -/
def chanS (w0 w4 w6 w7 : Word) : State := ((patS.startChan 0 0 0 64 [w0, 0xF, 0, 0, w4, 0, w6, w7]).onCore 0 fun k => k.setGrant 0 64)
def fillLocal : State := chanS 0x10000000 0xAB 0x100 0
def fillCore : State := chanS 0x10020000 0xAB 0x100 0x00100007
def fillMem : State := chanS 0x10060000 0xAB 0x100 0

/-- A descriptor at word 0 that is good, bad, or out of range at its destination. -/
def descS (w0 w6 : Word) : State := patS.onCore 0 fun k => ((k.setSpWord 0 w0).setSpWord 1 0xF).setSpWord 6 w6
def descW (s : State) : List Word := ((s.atIssue 0 0 (.dmago 0 0 0 1)).core 0).spRange 0 8
theorem test_DmaInstructionsAndCredits_dmago : ((fillLocal.core 0).chState 0 = chRunning) ∧ (patS.core 0).chState 0 ≠ chRunning ∧
  (patS.core 0).chState 0 ≠ chParked ∧ descBad (descW (descS 0x10000000 0x100)) 3040 = false ∧ descBad (descW (descS 0x30000000 0)) 3040 = true ∧
  (descOf (descW (descS 0x10000000 0x100))).rangeFault = none ∧ (descOf (descW (descS 0x10000000 81910))).rangeFault = some 81920 ∧
  (patS.core 0).firstBad [0, 1, 2, 3, 4, 5, 6, 7] = none ∧ patS.issues 0 0 (.dmago 0 0 0 1) = true ∧
  (memS 3).issues 0 0 (.dmago 0 0 0 1) = true ∧ (memS 81920).issues 0 0 (.dmago 0 0 0 1) = true := by decide +kernel
/-- One message on its way to core 0. -/
def netS (b : NetBody) : State := { patS with net := [{ src := 0, dst := 0, due := 40, body := b }] }
def theMsg (b : NetBody) : Option NetMsg := some { src := 0, dst := 0, due := 40, body := b }
theorem test_DmaInstructionsAndCredits_credits :
  earliest (fun m => m.asks 0) reqBefore (netS (.creditReq 0 1 64 64 64)).net = theMsg (.creditReq 0 1 64 64 64) ∧
  earliest (fun m => m.answers 0 0) (fun _ _ => false) (netS (.creditAns 0 1 64 false false 0)).net = theMsg (.creditAns 0 1 64 false false 0) ∧
  ((fillCore.core 0).ch 0).gen = 1 ∧ (fillCore.core 0).chState 0 = chRunning ∧ (patS.core 0).chState 0 = chIdle ∧
  earliest (fun m => m.returns 0) (fun _ _ => false) (netS (.creditRet 0 64)).net = theMsg (.creditRet 0 64) ∧
  ((({ fillCore with cores := fillCore.cores } : State).onCore 0 fun k => k.onCh 0 fun x => { x with retry := some 300 }).core 0).chState 0 = chRunning := by
  decide +kernel
theorem test_DmaInstructionsAndCredits_fabric :
  ([.fabricReq 3 0x100 64 64, .fabAsk 0 1 3 7 0x100 64 64, .fabAns 3 0x100 64 false false] : List NetBody).all (fun b =>
    earliest (fun m => m.asks 0) reqBefore (netS b).net == theMsg b) = true ∧
  ([.fabRet convCtx 7 64, .creditRet 0 64] : List NetBody).all (fun b =>
    earliest (fun m => m.returns 0) (fun _ _ => false) (netS b).net == theMsg b) = true := by decide +kernel
/-- What channel 0 moves next on a flow, by kind: 0 through the local port, 1 to a core, 2 to memory; and whether the slot is the flow's. -/
def nextStep (s : State) (f : Nat) : Option (Nat × Bool) := match s.pickChan 0 f with
  | some p => match p.st with
    | .loc => some (0, true)
    | .send fl => some (1, s.owns 0 fl p.t)
    | .mem q => some (2, s.owns 0 q.flow p.t)
  | none => none
/-- A read that is due and that nothing brings. -/
def due0 : TapReq := { due := 20, flow := 7, kind := 1, addr := 0, words := [], poison := 0, rflow := 8, stage := false, pos := 0, off := 0, n := 16, side := false }
def dueS : State := fillMem.onCore 0 fun k => k.onCh 0 fun x => { x with due := [due0], ends := some (90, 0) }
theorem test_DmaBurstsAndEngines_bursts : nextStep fillLocal 65536 = some (0, true) ∧ nextStep fillCore 7 = some (1, true) ∧
  nextStep fillMem 7 = some (2, true) ∧ fillLocal.guarded 0 4 = false ∧ dueS.overdue 0 0 = some due0 ∧
  (dueS.ownedFrom 0 7 (notBefore (notBefore dueS.now (20 + 256)) (dueS.core 0).slotAt)).isSome = true := by decide +kernel
/-- A unit at output C of core 0. -/
def outS (kind : BitVec 3) (s : State) : State :=
  { s with mesh := [{ core := 0, place := .outC, due := 9, u := { flow := 8, kind := kind, addr := 0x1FFFF, words := List.replicate 16 1, poison := 0 } }] }
theorem test_DmaBurstsAndEngines_engines : ((dueS.core 0).ch 0).ends = some (90, 0) ∧ (fillLocal.core 0).chState 0 = chRunning ∧
  ((runT fun x => { x with held := some { code := 3, detail := 0, faddr := 0, epc := none } }).th 0 0).held.isSome = true ∧
  ((outS 0 patS).unitAt 0 .outC).map (fun m => m.u.kind) = some 0 ∧ ((outS 3 dueS).unitAt 0 .outC).map (fun m => m.u.kind) = some 3 ∧
  ((fillLocal.core 0).ch 0).ends = none ∧ fillLocal.burstEndsAt 0 0 (fillLocal.chDeadline 0 0) = false := by decide +kernel
/-- What answers the unit at output C of core 0. -/
def answered (s : State) : Option (Option (Reg × TapReq)) := (s.unitAt 0 .outC).map fun m => ((s.outTaken 0 m).core 0).answers (s.outTaken 0 m).now m.u
/-- A read that is due in the cycle in which its data arrives, at the engine's buffers or in the scratchpad. -/
def dueR (a : BitVec 17) : State := dueS.onCore 0 fun k => k.onCh 0 fun x => { x with due := [{ due0 with due := 9, addr := a }] }
def outA : State := { dueR 0x100 with mesh := (outS 3 patS).mesh.map fun m => { m with u := { m.u with addr := 0x100 } } }
theorem test_DmaBurstsAndEngines_answer : answered (outS 3 patS) = some none ∧ answered (outS 3 dueS) = some none ∧
  answered (outS 3 (dueR 0x1FFFF)) = some (some (0, { due0 with due := 9, addr := 0x1FFFF })) ∧
  answered outA = some (some (0, { due0 with due := 9, addr := 0x100 })) := by decide +kernel

/-- A supervisor; a barrier past, or not; flag 3 set; the timer's bit set. -/
def supvS : State := runC fun k => k.setW R.CORE_SUPV 0x10000
theorem test_FlagsAndBarriers_instructions : (runS.core 0).flagWord.getLsbD 3 = false ∧ ((runC fun k => { k with flags := 8 }).core 0).flagWord.getLsbD 3 = true ∧
  ((runT fun x => x.setSt 5 true).th 0 0).st bTF = true ∧ (runS.core 0).phase 3 = (runS.core 0).tph 0 3 ∧
  ((runC fun k => k.setW R.FLAG_PHASE 8).core 0).phase 3 ≠ ((runC fun k => k.setW R.FLAG_PHASE 8).core 0).tph 0 3 ∧
  runS.hasCore 0 = true ∧ runS.hasCore (((memS 4000).th 0 0).gr 1 |>.truncate 12) = false ∧ (supvS.core 0).fld F.CORE_SUPV_VALID = 1 ∧
  (runS.core 0).fld F.CORE_SUPV_VALID ≠ 1 ∧ supvS.issues 0 0 (.arrb 0 0 3) = true ∧ (memS 4000).issues 0 0 (.setf 0 0 1 3) = true := by decide +kernel
theorem test_FlagsAndBarriers_messages : ((netS (.flag 3 true)).arriving 0 NetBody.isFlag).length = 1 ∧
  ((netS (.notice 3 false)).arriving 0 NetBody.isNotice).take 1 = [{ src := 0, dst := 0, due := 40, body := .notice 3 false }] ∧
  (patS.arriving 0 NetBody.isNotice).take 1 = [] ∧ ((runC fun k => k.setW (R.FLAG_BARCFG 3) 0x80008000).core 0).fld (F.FLAG_BARCFG_EN 3) ≠ 0 ∧
  ((runC fun k => k.setW (R.FLAG_BARCFG 3) 0x80008000).core 0).fld (F.FLAG_BARCFG_COUNT 3) = 2 ∧
  (runS.core 0).fld (F.FLAG_BARCFG_EN 3) = 0 := by decide +kernel
/-! ### Registers -/

/-- The window registers of the statements, with a value that the headstock writes and the host may not. -/
def winRegs : List (Nat × Word) := [(R.FLAG_SET_LO, 1), (R.FLAG_CLR_LO, 1), (R.FLAG_BARCMD, 0x40000003), (R.FLAG_BARCMD, 0x80000003),
  (R.FLAG_BARCMD, 0xC0000003), (R.MESH_MCMD, 0x40000003), (R.MESH_MCMD, 0x80000003), (R.MESH_CONN 3, 0), (R.TILE_QSEL, 0), (R.DMA_GUARD 3, 0x80002000),
  (R.MESH_SWITCH, 0x80000009), (R.MESH_SWITCH, 0), (R.DMA_XINV_LO, 1), (R.CORE_DBGCMD, dbgWord 2 1), (R.CORE_DBGCMD, dbgWord 2 2),
  (R.CORE_DBGCMD, dbgWord 2 3), (R.TILE_DDATA, 7), (R.DMA_VDATA, 7), (R.MESH_PSNDATA, 7), (R.MESH_PDATA, 7), (R.CORE_TRDATA, 7), (R.CORE_SPDATA, 7)]
def backS : State := State.reset.onCore 0 fun k => (k.setW R.MESH_BHDR 0x86000000).setW R.MESH_PSEL 0
theorem test_CoreRegistersAndStreams_met : backS.hasCore 0 = true ∧ winRegs.all (fun p => backS.acceptsWin (.hs 0) 0 p.1 p.2) = true ∧
  winRegs.all (fun p => !backS.acceptsWin .brepo 0 p.1 p.2) = true := by decide +kernel

/-- The device registers of the statements, with a value and a path that writes them, and one that does not before `PGOOD`. -/
def devRegs : List (Path × Nat × Word × Path) := [(.hs 0, R.MT_XINV_LO, 1, .brepo), (.hs 0, R.FX_XINV_LO, 1, .brepo), (.hs 0, R.MT_RMAP_CMD, 0x80000000, .brepo),
  (.hs 0, R.LP_RETRAIN, 1, .brepo), (.brepo, R.SPN_CTRL, 0x40, .sideband), (.hs 0, R.SPN_REST_CMD, 0x10001, .sideband), (.hs 0, R.FX_PORT_CTRL 39, 3, .brepo),
  (.hs 0, R.FX_PORT_CTRL 0, 0, .brepo), (.brepo, R.HL_RCFG, 0x80040000, .sideband), (.brepo, R.DBG_BEDCMD, 0x40000001, .debug),
  (.sideband, R.DBG_BEDCMD, 0x8000001F, .hs 0), (.hs 0, R.HS_RECOV_CMD, 0x80000000, .debug), (.brepo, R.HS_CTRL, 1, .debug),
  (.hs 0, R.FX_RTDATA, 5, .brepo)]
def testS : State := let s := upS.setFld F.DEV_STATUS_STATE mTEST; { s with power := { s.power with pgood := true } }
def unpS : State := { testS with power := { testS.power with pgood := false } }
theorem test_DeviceRegisterCommands_met : devRegs.all (fun x => testS.acceptsDev x.1 x.2.1 x.2.2.1) = true ∧
  devRegs.all (fun x => !unpS.acceptsDev x.2.2.2 x.2.1 x.2.2.1) = true := by decide +kernel
theorem test_AnyRegisterAccess_met : (0x100000 : BitVec 26).toNat % 4 = 0 ∧ (0x100001 : BitVec 26).toNat % 4 ≠ 0 ∧
  upS.takesWrite .brepo R.SPN_CTRL 0x40 = true ∧ upS.takesWrite .brepo (R.FX_PORT_CTRL 0) 1 = false ∧ upS.hostReaches 0x3000FFC 4 = true ∧
  upS.hostReaches 0x3FFFFFC 4 = true ∧ upS.portState 40 = portUp ∧ upS.power.stby = true := by decide +kernel

/-! ### The mesh and its messages -/

/-- A receive and a send descriptor at words 0 and 1; guard region 1 of 8 lines from line 8, and a route to core 1. -/
def copenS (w0 w1 : Word) (bound : Nat) : State := patS.onCore 0 fun k =>
  ((((k.setSpWord 0 w0).setSpWord 1 w1).setW (R.DMA_GUARD 1) 0x80010008).setW (R.MESH_ROUTE 2) 0x80010007).setFld (F.MESH_ROUTE_BOUND 2) bound
def copenC (w0 w1 : Word) : Core := ((copenS w0 w1 0).atIssue 0 0 (.copen 0 0 1 3 2)).core 0
def freeRoute (s : State) : Option Nat := ((List.range 8).filter fun x => (s.core 0).fld (F.MESH_ROUTE_VALID x) = 1 && (s.core 0).fld (F.MESH_ROUTE_DEST x) == 1).find?
  fun x => (s.core 0).fld (F.MESH_ROUTE_BOUND x) = 0
theorem test_MeshConnections_opens : (copenC 0x80001000 0).firstBad [0, 1] = none ∧ (copenC 0x80001000 0).gEn 1 = true ∧
  (copenC 0x80001000 0).cnState 3 = cnClosed ∧ ((copenS 0x80001000 0 0).opening 0 fun _ x => x == 3) = none ∧ (copenC 0x80001000 0).ringOpen 1 = false ∧
  (copenC 0x80001000 0).rgOut 1 = 0 ∧ ((copenC 0x80001000 0).setW (R.MESH_RING 1) 0x80000000).ringOpen 1 = true ∧
  (1 < 40 * (copenS 0x00001001 0 0).L) ∧ freeRoute (copenS 0x00001001 0 0) = some 2 ∧ freeRoute (copenS 0x00001001 0 1) = none ∧ freeRoute runS = none ∧
  ((copenC 0x00001001 0).setW (R.MESH_CONN 3) 0x40000000).cnState 3 ≠ cnClosed ∧ (40 * patS.L = 3040) ∧ (copenS 0x00001001 0 0).issues 0 0 (.copen 0 0 1 3 2) = true ∧
  (memS 81919).issues 0 0 (.copen 0 0 2 3 1) = true := by decide +kernel
/-- A COPEN waits for its binding reply; a connection of thread 0, receiving on ring 1 or idle. -/
def bindS : State := netS (.openAns 0 3 1 2 true 8)
def connS (v : Word) : State := (copenS 0 0 0).onCore 0 fun k => (((k.emptyRing 1 8).setFld (F.MESH_RING_OPEN 1) 1).setW (R.MESH_CONN 3) v)
def recvS : State := connS 0x21000000
def idleS : State := (connS 0x40200000).onCore 0 fun k => k.onCn 3 fun y => { y with dest := 1, count := 8 }
theorem test_MeshConnections_closes : bindS.opening 0 (fun u _ => u == 0) = theMsg (.openAns 0 3 1 2 true 8) ∧
  (netS (.openReq 0 3 1 2)).opening 0 (fun u _ => u == 0) = theMsg (.openReq 0 3 1 2) ∧
  (recvS.core 0).badConn 0 3 true true = false ∧ (recvS.core 0).cnState 3 = cnRecv ∧ (recvS.core 0).rgOut 1 = 0 ∧ (recvS.core 0).cnRing 3 = 1 ∧
  (recvS.core 0).fld (F.MESH_RING_DISP 1) ≠ 1 ∧ (recvS.core 0).credit 1 = 64 * (recvS.core 0).gCount 1 ∧ (idleS.core 0).badConn 0 3 true true = false ∧
  (idleS.core 0).cnState 3 = cnIdle ∧ (runS.core 0).badConn 0 3 true true = true ∧ recvS.issues 0 0 (.cclose 0 0 3) = true ∧
  idleS.issues 0 0 (.cclose 0 0 3) = true := by decide +kernel
/-- A unit at input C at an angle that the pattern names, or not; a router armed for revolution 7. -/
def inS (due : Count) : State :=
  { patS with mesh := [{ core := 0, place := .inp 4, due := due, u := { flow := 7, kind := 0, addr := 0, words := [], poison := 0 } }] }
def armedS : State := { (patS.onCore 0 fun k => { (k.setW R.MESH_BHDR 0x86000100).setFld F.MESH_SWITCH_ARM 1 with swN := 7 }) with jobs := [job0 .run] }
theorem test_MeshConnections_patterns : ((inS 64).unitAt 0 (.inp 4)).isSome = true ∧ (inS 64).outsFor 0 4 64 = [(1, 7)] ∧ (inS 65).outsFor 0 4 65 = [] ∧
  (List.replicate (7 * 2 ^ 6) (0 : Word)).length = 7 * 2 ^ (6 : BitVec 4).toNat ∧ (patS.core 0).fld F.MESH_SWITCH_ARM ≠ 1 ∧
  (armedS.core 0).fld F.MESH_SWITCH_ARM = 1 ∧ armedS.armedFor (fun k => k.bed == some 0) = some 7 ∧ armedS.armedFor (fun _ => true) = some 7 ∧
  armedS.jobs.all (fun j => j.swReq.isNone) = true := by decide +kernel

/-- Requests, answers and retries of a claim, and a send in progress. -/
def waitC : State := { (idleS.onCore 0 fun k => (k.setCnState 3 cnWait).onCn 3 fun y => { y with gen := 1, retry := some 400 }) with
  net := [{ src := 0, dst := 0, due := 40, body := .claimAns 3 1 7 1 0 .refused }] }
def sendS : State := idleS.onCore 0 fun k => k.setCnState 3 cnSending
def owed0 : Owed := { conn := 3, flow := 7, dest := 1, line := 8, n := 1, void := true, seq := 0 }
def owedS : State := idleS.onCore 0 fun k => { k with owed := [owed0] }
theorem test_MessagesAreSentAndReceived_sends : ((idleS.atIssue 0 0 (.msend 0 0 3 2 4 9)).core 0).badConn 0 3 true false = false ∧
  msgLines 0 ≤ (((idleS.core 0).cn 3).count + 1) / 2 ∧ msgLines 4088 = 64 ∧ ¬ (msgLines 4088 ≤ (((idleS.core 0).cn 3).count + 1) / 2) ∧
  ((runS.core 0).badConn 0 3 true false = true) ∧ idleS.issues 0 0 (.msend 0 0 3 2 4 9) = true ∧
  (idleS.onTh 0 0 fun x => (x.setG 2 81919).setG 4 8).issues 0 0 (.msend 0 0 3 2 4 9) = true ∧
  earliest (fun m => m.claims 0) reqBefore (netS (.claimReq 3 1 7 1 1 0)).net = theMsg (.claimReq 3 1 7 1 1 0) ∧
  earliest (fun m => m.claimed 0 3) (fun _ _ => false) waitC.net = theMsg (.claimAns 3 1 7 1 0 .refused) ∧ ((waitC.core 0).cn 3).gen = 1 ∧
  (waitC.core 0).cnState 3 = cnWait ∧ ((waitC.core 0).cn 3).retry = some 400 ∧ waitC.frozenAt 0 = false ∧
  (owedS.core 0).owed.find? (fun o => o.conn == 3) = some owed0 ∧ (owedS.freeSlot 0 7).isSome = true ∧ (sendS.core 0).maySend 3 = true ∧
  (sendS.core 0).cnFlow 3 = 7 := by decide +kernel
/-- A message of one line with handler 5 at the head of ring 1, found by the dispatcher or not; the handler's table entry. -/
def msgS (w : Word) (entry : Word) (found : Bool) : State := recvS.onCore 0 fun k =>
  ((((k.setSpWord 128 w).setSpWord 5 entry).setValid 8 true).setFld (F.MESH_RING_OUT 1) 1).setRg 1 { RingX.none with found := found }
def msgC (entry : Word) (found : Bool) : Core := ((msgS 0x40050000 entry found).atIssue 0 0 (.mrecv 0 0 1 3)).core 0
theorem test_MessagesAreSentAndReceived_receives : (msgC 0x80000040 true).badConn 0 3 false true = false ∧ (msgC 0x80000040 true).fld (F.MESH_RING_DISP 1) ≠ 1 ∧
  ((msgC 0x80000040 true).rg 1).found = true ∧ ((msgC 0x80000040 true).takeMsg 1 0 0 3).isSome = true ∧ ((msgC 0 true).takeMsg 1 0 0 3).isSome = false ∧
  ((msgC 0 false).rg 1).found = false ∧ ((recvS.onTh 0 0 fun x => x.setSt 5 true).th 0 0).st bTF = true ∧
  (msgS 0x40050000 0 true).issues 0 0 (.mrecv 0 0 1 3) = true ∧ (((msgS 0x40050000 0 true).core 0).setFld (F.MESH_RING_DISP 1) 1).fld (F.MESH_RING_DISP 1) ≠ 0 ∧
  ((msgS 0x40050000 0 false).core 0).dispatch 1 1 ≠ (msgS 0x40050000 0 false).core 0 ∧
  ((((msgS 0x40050000 0 false).core 0).dispatch 1 1).rg 1).stuck = false ∧ ((((msgS 0 0 false).core 0).dispatch 1 1).rg 1).stuck = true ∧ (runS.core 0).badConn 0 3 false true = true := by decide +kernel
/-! ### Memory taps, translation, remote memory -/

/-- A unit at output T of core 77, which anchors tap 0: a bonded read, a staged read, a bonded write, a staged write, and a read no tap accepts. -/
def tapU (kind : BitVec 3) (ws : List Word) : MeshUnit := { core := 77, place := .outT, due := 9, u := { flow := 7, kind := kind, addr := 0, words := ws, poison := 0 } }
def tapS (u : MeshUnit) : State := { patS with mesh := [u] }
def rdB : MeshUnit := tapU 1 [0x40000000, 7]
def rdS : MeshUnit := tapU 1 [0x80000005, 7, 0, 1, 0, 0]
def wrB : MeshUnit := tapU 2 (List.replicate 16 5 ++ 0 :: 0xFFFF0007 :: List.replicate 14 0)
def wrS : MeshUnit := tapU 2 (List.replicate 16 5 ++ 0x80000005 :: 0xFFFF0007 :: List.replicate 14 0)
def rdBad : MeshUnit := tapU 1 [0x01000000, 7]
theorem test_TapsAndTiers_taps :
  ([(rdB, false, true), (rdS, false, true), (rdBad, false, false), (wrB, true, true), (wrS, true, true)].all fun x =>
    (tapS x.1).tapUnit 0 (fun u => (u.kind == 2) == x.2.1) == some x.1 && (((tapS x.1).unitTaken x.1).acceptUnit 0 x.1.u).2 == x.2.2) = true ∧
  (reqOf rdB.u 0).stage = false ∧ (reqOf rdS.u 0).stage = true ∧ (reqOf wrB.u 16).stage = false ∧ (reqOf wrS.u 16).stage = true ∧
  (319 : BitVec 9).toNat < 320 := by decide +kernel
/-- Returns that wait at tap 0, without and with a burst that is acknowledged; a stage line of its tap. -/
def ret0 (a : Option (BitVec 68)) : TapRet := { due := 90, u := rdB.u, ack := a }
def retS (a : Option (BitVec 68)) : State := patS.setTap 0 { patS.tap 0 with rets := [ret0 a] }
def line0 (m : BitVec 16) (st : LineState) : StageLine :=
  { tap := 0, addr := if m = 0 then BitVec.ofNat 68 (lpBase / 4096) else BitVec.ofNat 68 (m.toNat * 2 ^ 52 + 5 * 2 ^ 40 + 3), job := 5, vline := 3, st := st,
    present := 0, wrote := if st = .dirty then [(2, 0xFFFF)] else [], poison := 0, last := 0, since := 0, units := 0, bursts := 0, loc := 0, first := 0,
    forNext := false, data := [] }
def lineS (m : BitVec 16) (st : LineState) (x : State) : State := { x.setDev R.LP_TRAINED 1 with lines := [line0 m st] }
theorem test_TapsAndTiers_data : ((retS none).tap 0).rets = [ret0 none] ∧ ((retS (some 7)).tap 0).rets = [ret0 (some 7)] ∧
  (((retS (some 7)).setTap 0 { (retS (some 7)).tap 0 with rets := [] }).advanceTo 90).lines.any (fun l => l.addr == 7 && l.tap != 0) = false ∧
  ({ retS (some 7) with lines := [{ line0 0 .filling with addr := 7, tap := 1 }] } : State).lines.any (fun l => l.addr == 7 && l.tap != 0) = true := by
  decide +kernel
/-- A PEER context of module 9 with a FILL sent and its answer, or another packet; a stream to fetch ahead. -/
def peerS (op : BitVec 4) (ty : Word) : State := { patS with
  ctxw := [(0, 0x80050009 + ty * 0x10000000)],
  ctxs := [(0, { Ctx.none with rx := [{ dmod := 0, smod := 9, dctx := 0, job := 5, op := op, seq := 0, epoch := 0, hops := 0, aux := 0, addr := 0x3000, data := [] }] })],
  fills := [{ ctx := 0, vline := 3, tap := 0, live := true }] }
def str0 (susp : Bool) : Stream := { job := 5, twoD := false, conf := 2, susp := susp, x0 := 0, s1 := 1, s2 := 0, n1 := 0, tap := 0, n := 3, len := 100, ahead := 3, taken := 0,
                                     kept := false }
def strS (susp : Bool) (page : BitVec 64) : State := { (patS.setStream 19 15 (some (str0 susp))).setFld F.MT_CTRL_PF_EN 1 with jobs := [{ job0 .run with tab := [(0, page)] }] }
/-- Row 7 of tap 0 to be remapped; a copy of a line to be made invalid. -/
def remapS : State := onS.setTap 0 { onS.tap 0 with remap := [{ row := 7, cmd := true, rev := 0, pass := none }] }
def invS : State := { patS with invs := [{ home := 0, tap := 0, addr := 7 }] }
theorem test_TapsAndTiers_windows : (onS.setFld F.MT_CTRL_SCRUB_EN 1).fld F.MT_CTRL_SCRUB_EN ≠ 0 ∧ onS.remapNext 0 = none ∧
  remapS.remapNext 0 = some ({ row := 7, cmd := true, rev := 0, pass := none }, remapS.maintAt 0 (({ row := 7, cmd := true, rev := 0, pass := none } : Remap).from_)) ∧
  (319 : BitVec 9).toNat < 320 ∧ (List.replicate 16 EccFound.clean).length = 16 ∧ (List.replicate 32 EccFound.clean).length = 32 ∧
  ((invS.invs.find? fun r => r.tap == 0 && r.addr == 7).isSome) = true ∧ (patS.setDev R.LP_RETRAIN 8).devW R.LP_RETRAIN &&& 8#32 ≠ 0 ∧
  ((strS false 0xF).stream 19 15).bind Stream.ahead_ = some 3 ∧ (strS false 0xF).fld F.MT_CTRL_PF_EN ≠ 0 ∧ ((strS false 0xF).job 5).isSome = true := by decide +kernel
theorem test_TapsAndTiers_lines : (lineS 0 .filling patS).lineAt 0 (line0 0 .filling).addr = some (line0 0 .filling) ∧
  lineModule (line0 0 .filling).addr = patS.ownModule ∧ (lineS 0 .filling patS).lpReady (lineLocal (line0 0 .filling).addr) = true ∧
  (lineS 0 .filling patS).tapTaken 0 ((lineS 0 .filling patS).roomAt 0 (line0 0 .filling) 64) = false ∧ (lineS 0 .filling patS).refuted (line0 0 .filling) = false ∧
  (lineS 0 .filling { patS with jobs := [{ job0 .flush with sums := [(9, [0])] }] }).refuted (line0 0 .filling) = true ∧
  (lineS 9 .filling (peerS 4 4)).lineAt 0 (line0 9 .filling).addr = some (line0 9 .filling) ∧ lineModule (line0 9 .filling).addr ≠ (peerS 4 4).ownModule ∧
  (lineS 9 .filling (peerS 4 4)).peerOf 5 9 = some 0 ∧ ((lineS 9 .filling (peerS 4 4)).fillData 0 (line0 9 .filling)).isSome = true ∧
  (lineS 0 .dirty patS).lineAt 0 (line0 0 .dirty).addr = some (line0 0 .dirty) ∧
  (lineS 0 .dirty patS).tapTaken 0 ((lineS 0 .dirty patS).roomAt 0 (line0 0 .dirty) (line0 0 .dirty).wrote.length) = false ∧
  (lineS 0 .dirty patS).mayReturn (line0 0 .dirty) = true := by decide +kernel
/-- A dirty line of another module in which nothing is written fits the deferred-write buffer, whatever its size. -/
theorem test_TapsAndTiers_deferred : (lineS 9 .dirty patS).deferredNow + ({ line0 9 .dirty with wrote := [] } : StageLine).wrote.length ≤ Config.deferredSize ∧
    (lineS 9 .dirty patS).job 5 = some (job0 .run) :=
  ⟨(by decide +kernel : (lineS 9 .dirty patS).deferredNow + ({ line0 9 .dirty with wrote := [] } : StageLine).wrote.length = 0) ▸ Nat.zero_le _, by decide +kernel⟩

/-- The running channel of `fillMem` without its cached page, and parked for a page that is mapped or not. -/
def missS (page : BitVec 64) (parked : Bool) : State := { (fillMem.onCore 0 fun k =>
  let k := { k with xlate := [] }
  if parked then (k.setFld (F.DMA_CH_STAT_STATE 0) chParked).setFld (F.DMA_CH_STAT_CODE 0) 8 else k) with jobs := [{ job0 .run with tab := [(0, page)] }] }
theorem test_TranslationAndRemoteMemory_met : ((missS 0xF false).core 0).chState 0 = chRunning ∧ (((missS 0xF false).core 0).ch 0).ends = none ∧
  (((missS 0xF false).jobOf 0).bind fun j => (missS 0xF false).chMiss 0 0 j).isSome = true ∧ ((missS 0xF true).core 0).chState 0 = chParked ∧
  ((missS 0xF true).core 0).fld (F.DMA_CH_STAT_CODE 0) = 8 ∧ (((missS 0xF true).jobOf 0).bind fun j => (missS 0xF true).chFault 0 0 j) = none ∧
  (((missS 0 true).jobOf 0).bind fun j => (missS 0 true).chFault 0 0 j) = some (0, 0) ∧ ((strS true 0xF).stream 19 15).map Stream.susp = some true ∧
  pteFault ((job0 .run).pte (str0 true).nextPage) false = none ∧ pteFault (({ job0 .run with tab := [] } : Job).pte (str0 true).nextPage) false = some 0 ∧
  (peerS 3 4).fabFault 0 (job0 .run) = none ∧ (peerS 3 4).fabFault 0 { job0 .run with tab := [] } = some (0, 0) ∧
  (peerS 3 4).fabFault 0 { job0 .run with tab := [(0, 0x3#64)], recv := [{ modl := 9, va := 0x10, mask := 1, poison := false, data := [] }] } = some (0, 1) ∧
  (peerS 3 4).ctxType 0 = ctxPeer ∧ ((peerS 3 4).oldFill 0).isSome = true ∧ (peerS 3 4).job ((peerS 3 4).ctxJob 0) = some (job0 .run) ∧
  pteFault (0x0B : BitVec 64) false = some 1 ∧ (((peerS 6 4).ctx 0).rx.find? fun p => p.op == 6).isSome = true ∧
  (((peerS 7 4).ctx 0).rx.find? fun p => p.op == 7).isSome = true := by decide +kernel

/-! ### Preemption and passes -/

/-- The state of `patS` with another job. -/
def jobS (j : Job) : State := { patS with jobs := [j] }
def frozen0 : Job := { job0 .run with frozen := true, thawAt := some 9, freezeAt := some 7 }
def savedS : State := { jobS frozen0 with saved := [{ job := 5, core := 0, image := runS.core 0 }] }
theorem test_PreemptionOfABed_met : frozen0.freezeAt = some 7 ∧ frozen0.thawAt = some 9 ∧ (jobS frozen0).saved.any (fun x => x.job == 5) = false ∧
  (jobS frozen0).jobOf 0 = some frozen0 ∧ (jobS frozen0).claimOpen 0 = false ∧ (jobS frozen0).isSaved 5 0 = false ∧
  (savedS.toRestore 0).isSome = true ∧ savedS.isSaved 5 0 = true := by decide +kernel

/-- A job of two modules: the root with a child 1, or a child of module 1; what is in its inbox; what it has sent. -/
def treeJ (st : PassState) (root : Bool) (inbox : List AgreeIn) (sent : List Byte) : Job :=
  { job0 st with mods := [0, 1], parent := if root then none else some 1, kids := if root then [1] else [], inbox := inbox, sent := sent }
def agIn (kind : Byte) (cause : Byte) : AgreeIn := { src := 1, at_ := 50, msg := { AgreeMsg.of kind 0 20 with cause := cause } }
/-- The pass control of core 0 says that the job is done, or that it is not; its thread has halted. -/
def doneS : State := { (patS.onCore 0 fun k => ((k.setFld F.FLAG_PASSCFG_EN 1).setFld F.FLAG_PASSCFG_DONE 1).setTh 0 { Thread.reset with state := .halted }) with
  jobs := [job0 .run] }
def write0 : RemoteWrite := { modl := 1, va := 0, mask := 0xFFFF, poison := false, data := List.replicate 16 1 }
theorem test_LifeOfAPass_agreement : doneS.mayVote 5 (job0 .run) = true ∧ (jobS (job0 .run)).mayVote 5 (job0 .run) = false ∧
  (treeJ .done true [agIn kDone 0] []).fromKids kDone = true ∧ (treeJ .done true [] []).fromKids kDone = false ∧
  (treeJ .done true [] [kDone]).flushSums = some [] ∧ (treeJ .done false [agIn kFlush 0] [kDone]).flushSums = some [] ∧
  ({ treeJ .done true [] [kDone] with sums := [(0, []), (1, [])] } : Job).mods.all (fun m => [(0, []), (1, ([] : List (BitVec 36)))].any fun x => x.1 == m) = true ∧
  ((treeJ .done true [] [kDone]).mods.all fun m => ([] : List (BitVec 16 × List (BitVec 36))).any fun x => x.1 == m) = false ∧
  patS.spin ≠ spLost ∧ patS.lpReady (lineLocal (line0 0 .dirty).addr) = false ∧ (lineS 0 .dirty patS).lpReady (lineLocal (line0 0 .dirty).addr) = true ∧
  ({ treeJ .flush true [] [] with recv := [write0] } : Job).writeFaults [write0] = none ∧
  ({ treeJ .flush true [] [] with tab := [] } : Job).writeFaults [write0] = some 0 ∧ patS.writesWait (job0 .flush) [write0] = false ∧
  patS.writesWait { job0 .flush with tab := [(0, BitVec.ofNat 64 (lpBase / 65536 * 65536 + 15))] } [write0] = true ∧
  patS.rangeUp (job0 .flush) 0 64 = true ∧ patS.sources (treeJ .flush true [] []) = [] ∧ patS.sources { treeJ .flush true [] [] with sums := [(1, [0])] } = [1] ∧
  ({ treeJ .flush true [] [] with ends := [(1, 1)], recv := [write0] } : Job).ends.find? (fun e => e.1 == 1) = some (1, 1) ∧
  ((job0 .flush).sentEnd.all fun m => (job0 .flush).ackEnd.contains m) = true ∧ (treeJ .flushed true [agIn kFlushed 0] []).fromKids kFlushed = true ∧
  (treeJ .flushed true [] [kFlushed]).sent.contains kFlushed = true ∧ ((treeJ .flushed false [agIn kBoundary 0] [kFlushed]).fromParent kBoundary) = some (agIn kBoundary 0) ∧
  lateFor (agIn kBoundary 0).at_ 20 = false ∧ lateFor (revStart 20) 20 = true := by decide +kernel
/-- A master module; the job with a boundary named, failed, rolled back, or with an AGREE context to module 1. -/
def masterS (j : Job) : State := (jobS j).setFld F.SPN_STATUS_STATE spMaster
def agreeS : State := { jobS (treeJ .run true [] []) with ctxw := [(0, 0xD0050001)], ctxs := [(0, { Ctx.none with unack :=
  [{ pkt := { dmod := 1, smod := 0, dctx := 0, job := 5, op := 8, seq := 0, epoch := 0, hops := 0, aux := 0, addr := 0, data := [] }, rev := 3, port := none }] })] }
theorem test_LifeOfAPass_ends : (masterS { job0 .run with named := some 9, begun := false }).mayStart { job0 .run with begun := false } = true ∧
  (masterS (job0 .run)).mayStart (treeJ .run true [] []) = true ∧ ({ job0 .run with again := true, rolled := true } : Job).rolled = true ∧
  (treeJ .run false [agIn kFail 18] []).verdictIn = some (agIn kFail 18) ∧ (treeJ .run false [agIn kFail 4] []).verdictIn = none ∧
  (treeJ .run true [] []).verdictIn = none ∧ ((((jobS { job0 .run with cause := some 4 }).noteFail 5).job 5).bind Job.verdict) = none ∧
  (((jobS { job0 .run with cause := some 4 }).noteFail 5).job 5).isSome = true ∧
  (treeJ .run false [agIn kRerun 2] []).fromParent kRerun = some (agIn kRerun 2) ∧ (treeJ .run true [] []).live.contains 1 = true ∧ agreeS.agreeOf 5 1 = some 0 ∧
  ((agreeS.ctx 0).unack.find? fun p => p.pkt.op == 8).isSome = true ∧ (treeJ .run true [] []).mods.getD 1 0xFFFF = 1 ∧
  ({ treeJ .run true [] [] with unrouted := [(1, 3)] } : Job).unrouted.find? (fun p => p.1 == 1) = some (1, 3) := by decide +kernel
/-! ### Links, packets, streams, reductions -/

/-- The module with a port in a state. -/
def portS (p st : Nat) (f : Port → Port) : State := ((onS.setPort p (f Port.reset)).setFld (if p < 40 then F.FX_PORT_STAT_STATE p else F.HL_STATUS_LINK) st).setFld F.FX_CTRL_EN 1
/-- The CRC of a long list of bytes, byte by byte on numerals. -/
def crcFrom : List Byte → Nat → Nat
  | [], n => n
  | b :: bs, n => match n with
    | 0 => crcFrom bs (crcByte 0 b).toNat
    | k + 1 => crcFrom bs (crcByte (BitVec.ofNat 32 (k + 1)) b).toNat
theorem crcFrom_cons (b : Byte) (bs : List Byte) (c : Word) : crcFrom (b :: bs) c.toNat = crcFrom bs (crcByte c b).toNat := by
  rcases h : c.toNat with _ | k
  · rw [show c = 0 from BitVec.eq_of_toNat_eq h]; rfl
  · rw [show c = BitVec.ofNat 32 (k + 1) by rw [← h, BitVec.ofNat_toNat, BitVec.setWidth_eq]]; rfl
theorem crcRun_eq_crcFrom (bs : List Byte) : ∀ c : Word, crcRun c bs = BitVec.ofNat 32 (crcFrom bs c.toNat) := by
  induction bs with
  | nil => intro c; simp [crcRun, crcFrom]
  | cons b bs ih => intro c; rw [crcFrom_cons, ← ih]; rfl
/-- The 256 bytes of a flit of two body bytes of the given type, with the CRC given. -/
def flitRx (type crc : Nat) : List Byte :=
  leBytes 2 (1 + type * 4096) ++ leBytes 2 0 ++ [0, 0] ++ leBytes 2 2 ++ leBytes 4 0 ++ leBytes 4 crc ++ [1, 2] ++ List.replicate 238 0
theorem flitOk_iff (bs : List Byte) : flitOk bs = decide (0xFFFFFFFF - crcFrom (bs.take 12 ++ bs.drop 16) 0xFFFFFFFF % 2 ^ 32 = ofLe ((bs.drop 12).take 4)) := by
  unfold flitOk crc32
  rw [crcRun_eq_crcFrom]
  simp
/-- Flits of types 1 and 5 with their CRC, and of types 1 and 4 without it. -/
theorem test_LinksCarryFlits_ok : flitOk (flitRx 1 1678250357) = true ∧ flitOk (flitRx 5 3456870381) = true ∧ flitOk (flitRx 1 0) = false ∧
  flitOk (flitRx 4 0) = false := by
  rw [flitOk_iff, flitOk_iff, flitOk_iff, flitOk_iff]
  decide +kernel
theorem test_LinksCarryFlits_flits : (portS 39 portUp id).portState 39 = portUp ∧ (portS 40 portUp id).portState 40 = portUp ∧
  ([1, 2, 3, 4, 5].all fun ty => decide ((flitRx ty 0).length = 256) && decide (flitOf (flitRx ty 0) =
    { lseq := 1, type := BitVec.ofNat 4 ty, lack := 0, vl := false, cred0 := 0, cred1 := 0, eop := false, body := [1, 2] })) = true ∧
  (flitOf (flitRx 1 0)).lseq = Port.reset.expect := by decide +kernel
theorem test_LinksCarryFlits_codewords : ((portS 3 portUp fun x => { x with naked := true }).port 3).naked = true ∧ Port.reset.flitLost 16 = true ∧
  Port.reset.flitLost 15 = false ∧ ({ Port.reset with rxPos := 2048, rxBad := true } : Port).flitLost 0 = true ∧
  ({ Port.reset with rxPos := 2048 } : Port).flitLost 16 = false := by decide +kernel
def sent0 : SentFlit := { lseq := 1, rev := 0, vl := false, type := 1, eop := true, body := [] }
theorem test_LinksCarryFlits_events : (((portS 39 portUp id).port 39).budget.map fun d => notAfter d (portS 39 portUp id).now) = none ∧
  ((portS 39 portUp fun x => { x with replay := [sent0] }).port 39).replay ≠ [] ∧ ((portS 39 portUp fun x => { x with replay := [sent0] }).port 39).budget.isSome = true ∧
  (portS 40 portTraining id).portState 40 = portTraining ∧ (portS 0 portTraining id).portState 0 = portTraining ∧
  ((portS 0 portFailed fun x => { x with trainAt := some 6 }).port 0).trainAt = some 6 ∧ (portS 0 portFailed id).portState 0 = portFailed ∧
  (((portS 0 portUp fun x => { x with trainAt := some 6 }).setFld (F.FX_PORT_CTRL_EN 0) 1).fld (F.FX_PORT_CTRL_EN 0)) ≠ 0 ∧
  onS.portState 40 = portDown ∧ onS.power.pgood = true := by decide +kernel

/-- A packet for module `d`, context 0, job 5; a module whose context 0 has the type `ty`, flow 7. -/
def pkt0 (d : BitVec 16) (op : BitVec 4) (seq : BitVec 24) (aux : BitVec 64) : Packet :=
  { dmod := d, smod := 9, dctx := 0, job := 5, op := op, seq := seq, epoch := 0, hops := 3, aux := aux, addr := 0, data := List.replicate 64 7 }
def ctxS (ty : Word) (x : Ctx) : State := { (portS 39 portUp id) with
  ctxw := if ty = 0 then [] else [(0, 0x80050009 + ty * 0x10000000), (2, 0x00070000)], ctxs := [(0, x)], jobs := [job0 .run], cores := patS.cores }
theorem test_PacketsAreForwardedAndChecked_met : (ctxS 2 Ctx.none).fld F.FX_CTRL_EN ≠ 0 ∧ (pkt0 0 0 0 0).dmod = (ctxS 2 Ctx.none).ownModule ∧
  (pkt0 4 0 0 0).dmod ≠ (ctxS 2 Ctx.none).ownModule ∧ (pkt0 4 0 0 0).hops ≠ 0 ∧ ({ pkt0 4 0 0 0 with hops := 0 } : Packet).hops = 0 ∧ (ctxS 0 Ctx.none).ctxType 0 = 0 ∧
  (ctxS 2 Ctx.none).ctxType 0 ≠ 0 ∧ (ctxS 2 Ctx.none).ctxJob 0 = (pkt0 0 0 0 0).job ∧ opTaken ((ctxS 2 Ctx.none).ctxType 0) 0 = true ∧
  (pkt0 0 0 0 0).epoch.toNat = bits ((ctxS 2 Ctx.none).cw 0 3) 31 24 ∧ ({ pkt0 0 0 0 0 with epoch := 1 } : Packet).epoch.toNat ≠ bits ((ctxS 2 Ctx.none).cw 0 3) 31 24 ∧
  seqDiff (0x7FFFFF : BitVec 24).toNat (bits ((ctxS 2 Ctx.none).cw 0 5) 23 0) < 2 ^ 23 ∧ seqDiff (0x7FFFFF : BitVec 24).toNat (bits ((ctxS 2 Ctx.none).cw 0 5) 23 0) ≠ 0 ∧
  2 ^ 23 ≤ seqDiff (0x800000 : BitVec 24).toNat (bits ((ctxS 2 Ctx.none).cw 0 5) 23 0) ∧ ((ctxS 2 { Ctx.none with owed := 1, owedAt := 4 }).ctx 0).owed ≠ 0 ∧
  (ctxS 1 { Ctx.none with unack := [{ pkt := pkt0 9 0 0 0, rev := 3, port := none }] }).ctxTimer 0 = none ∧
  ((ctxS 1 { Ctx.none with trev := 5 }).setCw 0 6 0x80000000).ctxTimer 0 = some 5 ∧ (ctxS 2 Ctx.none).isResult (pkt0 0 0 0 0) = false ∧
  ((ctxS 2 Ctx.none).ctx 0).wait = [] ∧ ((ctxS 2 Ctx.none).setFld F.FX_CTRL_EN 0).fld F.FX_CTRL_EN = 0 ∧ (ctxS 2 Ctx.none).portState 0 ≠ portUp := by decide +kernel
/-- A unit of flow 7 at output X of core 0, of kind 4 or another, where a converter takes the flow, a FLOW_TX context, or neither. -/
def edgeU : MeshUnit := { core := 0, place := .outX, due := 9, u := { flow := 7, kind := 4, addr := 1, words := List.replicate 16 1, poison := 0 } }
def edgeS (ty : Word) (conv : Bool) : State := { (ctxS ty Ctx.none).onCore 0 (fun k => if conv then k.setW (R.MESH_FABRT 3) (BitVec.ofNat 32 (0x80000007 + convCtx.toNat * 2 ^ 16)) else k) with
  mesh := [edgeU] }
def enterS : State := (ctxS 2 { Ctx.none with rx := [pkt0 0 0 0 0] }).onCore 0 fun k => { k with front := SMap.set (fun _ => 0) [] (1024 * 4 + 63) 0xE0000007 }
theorem test_ScratchpadStreams_met : (edgeS 1 false).unitAt 0 .outX = some edgeU ∧ (((edgeS 1 false).unitTaken edgeU).core 0).bed = some 0 ∧
  ((edgeS 1 true).unitTaken edgeU).feedsConv 0 7 = true ∧ ((edgeS 1 false).unitTaken edgeU).feedsConv 0 7 = false ∧ ((edgeS 1 false).unitTaken edgeU).flowTx 0 7 = some 0 ∧
  ((edgeS 0 false).unitTaken edgeU).flowTx 0 7 = none ∧ ((({ edgeS 1 false with cores := runS.cores } : State).unitTaken edgeU).core 0).bed = none ∧ enterS.ctxType 0 = ctxFlowRx ∧ enterS.rxEdge 0 = 0 ∧
  enterS.hasCore 0 = true ∧
  enterS.nextIn 0 7 (notBefore enterS.now (enterS.core 0).edgeAt) = some 63 ∧ enterS.guarded 0 63 = false := by decide +kernel

/-- Reduction 3 of job 5: one segment of two blocks at home here, one contributor, fed by this module; its exponents carried, or agreed for no or both blocks. -/
def red0 (agreed : List Nat) : Reduction := { Reduction.none with words := [(0, 0x80005000), (2, 2), (3, 0x00100000)], segs := [0x10000000#64], conts := [0xFFFF0000], agreed := agreed }
def feed0 (kind : Word) (first : Word) : Feed := { Feed.none with head := [kind * 0x40000000 + 3, 0, first, 2] }
def redS (agreed : List Nat) (q r : List Packet) : State :=
  let s := ((jobS (job0 .run)).setRed 3 (red0 agreed)).setFeed (feedKey 1 0 7) [feed0 1 0]
  let s := s.setFld F.FX_RED_CTRL_EN 1
  { s with redQ := q, ctxw := [(0, 0xB0050009)], ctxs := [(0, { Ctx.none with rx := r })] }
def redAux (kind : Nat) : BitVec 64 := BitVec.ofNat 64 (3 + 1024 * kind)
theorem test_ReductionFeedsAndHomes_met : (redS [] [] []).feed (feedKey 1 0 7) = feed0 1 0 :: [] ∧ (redS [] [] []).jobOfBed 0 = some (job0 .run) ∧
  (redS [] [] []).fld F.FX_RED_CTRL_EN ≠ 0 ∧ (feed0 1 0).head.length = 4 ∧ (redS [] [] []).badFeed (job0 .run) (feed0 1 0) = false ∧
  (redS [] [] []).badFeed (job0 .run) (feed0 2 0) = false ∧ (redS [] [] []).badFeed (job0 .run) (feed0 1 1) = true ∧ (feed0 1 0).kind = 1 ∧ (feed0 2 0).kind = 2 ∧
  (redS [] [] []).feedWaits (feed0 2 0) = true ∧ (redS [0, 1] [] []).feedWaits (feed0 2 0) = false ∧
  pKind (pkt0 0 10 0 (redAux 0)) = 0 ∧ pKind (pkt0 0 10 0 (redAux 1)) = 1 ∧ (pkt0 0 10 0 (redAux 0)).job = 5 ∧ (job0 .done).st ≠ .run ∧
  ({ red0 [] with words := [(14, 0x20000000)] } : Reduction).carried = true ∧
  ((redS [] [pkt0 0 10 0 (redAux 0)] []).red 3).carried = false ∧ ({ Seg.none with armed := some 7 } : Seg).done ≠ (red0 []).c := by decide +kernel
theorem test_ReductionResults_met : ([2, 4].all fun k => (redS [] [] [pkt0 0 10 0 (redAux k)]).ctxType 0 == ctxReduce &&
    ((((redS [] [] [pkt0 0 10 0 (redAux k)]).ctx 0).rx.find? fun p => pKind p == k) == some (pkt0 0 10 0 (redAux k)))) = true ∧
  (redS [] [] []).job ((redS [] [] []).ctxJob 0) = some (job0 .run) ∧ (redS [] [] []).canWrite (job0 .run) 0 64 = true ∧
  (redS [] [] []).rangeUp (job0 .run) 0 64 = true ∧ (((redS [] [] []).setCtx 0 { Ctx.none with wait := [pkt0 0 10 0 (redAux 3)] }).ctx 0).wait = pkt0 0 10 0 (redAux 3) :: [] ∧
  (redS [] [] []).canWrite (job0 .run) 65535 64 = false := by decide +kernel
/-! ### The spindle and rests -/

/-- The state with SPN_STATUS.STATE; the marker that arrives at port 0. -/
def spinS (st : Nat) : State := (portS 0 portUp id).setFld F.SPN_STATUS_STATE st
def mark0 (rev : BitVec 48) : Marker := { hold := false, hops := 1, masterId := 2, rev := rev, offset := 0, crcOk := true }
theorem test_SpindleLockAndStates_met : (spinS spLocked).phaseErr 0 (mark0 0) = 0 ∧ 128 < ((spinS spLocked).phaseErr 0 (mark0 1)).natAbs ∧
  (spinS spHoldover).spin = spHoldover ∧ ((spinS spLocked).port 0).got ≠ some (spinS spLocked).rev ∧ (spinS spLost).beds = 0 ∧ (spinS spLost).spin = spLost ∧
  (((spinS spAcquiring).setFld F.SPN_STATUS_STEP_PENDING 1).fld F.SPN_STATUS_STEP_PENDING = 1) ∧ agree8 (List.replicate 8 3) = true ∧ agree8 (List.replicate 7 3) = false ∧
  agree8 [0, 4, 0, 0, 0, 0, 0, 0] = true ∧ agree8 [0, 5, 0, 0, 0, 0, 0, 0] = false ∧ ({ onS with masterTo := some (true, 4) } : State).masterTo = some (true, 4) ∧
  (onS.setFld F.SPN_STATUS_REFCLK_OK 1).fld F.SPN_STATUS_REFCLK_OK ≠ 0 ∧ (onS.setFld F.SPN_STATUS_SLEWING 1).fld F.SPN_STATUS_SLEWING ≠ 0 := by decide +kernel
def restS (n : Nat) : State := patS.setRest 0 { runs := [(5, n), (20, 1)] }
theorem test_RestRevolutions_met : (restS 1).nextRest 0 = some 5 ∧ (patS.setRest 0 { Rest.none with runs := [(5, 2)] }).nextRest 0 = some 5 ∧
  ({ Rest.none with runs := [(5, 2)] } : Rest).rests 6 = true ∧ ({ Rest.none with runs := [(5, 2)] } : Rest).rests 7 = false ∧
  ({ Rest.none with runs := [(5, 2)] } : Rest).expiry 3 4 = 10 ∧ ({ Rest.none with runs := [(5, 2)] } : Rest).expiry 3 1 = 7 ∧
  ({ Rest.none with runs := [(5, 2)] } : Rest).expiry 3 0 = 4 := by decide +kernel

/-- 02 R56: a port that has given this revolution's marker gives no second one; one that has not does. -/
theorem test_marker_once : ((spinS spLocked).port 0).gave = none ∧ (match exec .marker (spinS spLocked) with
  | .next u => (u.port 0).gave == some 0 && u.now == 0 && (match exec .marker u with
    | .next v => v.now == 4096 && (v.port 0).gave == some 1
    | _ => false)
  | _ => false) = true := by decide +kernel

/-! ### The host interface -/

/-- A command of opcode `opc` with CID 1, whose words from 1 are given, alone on ring 0 of a module in SERVICE with one job or none. -/
def cmd0 (opc : Byte) (ws : List Word) : HostCmd :=
  { cid := 1, opc := opc, order := false, noirq := false, words := 0 :: ws, expire := 100, started := false }
def hostS (opc : Byte) (ws : List Word) (js : List Job) : State :=
  ({ upS with jobs := js, cores := patS.cores } : State).setRing 0 { HRing.reset with cfg := 0x80040000, cmds := [cmd0 opc ws] }
/-- Whether that command is there and has not started. -/
def beginB (s : State) (opc : Byte) (ws : List Word) : Bool :=
  s.hostCmd 0 1 (· == opc) == some (cmd0 opc ws) && s.fld F.DEV_STATUS_STATE != mTEST
theorem begins_of {s : State} {opc : Byte} {ws : List Word} (h : beginB s opc ws = true) : s.begins 0 1 opc (cmd0 opc ws) := by
  simp only [beginB, Bool.and_eq_true, beq_iff_eq, bne_iff_ne] at h
  exact ⟨⟨h.1, .inl h.2⟩, rfl⟩
/-- The commands that begin, with a job that none, a running or a held one names. -/
theorem test_host_commands_begin : ([0x01, 0x02, 0x0B, 0x03, 0x10, 0x11, 0x12, 0x13, 0x14, 0x15, 0x16, 0x17, 0x18] : List Byte).all (fun o => beginB (hostS o [] []) o []) = true ∧
  ([0x04, 0x05, 0x06, 0x07, 0x08, 0x09, 0x0A, 0x0C, 0x0D, 0x0E] : List Byte).all (fun o => beginB (hostS o [5] [job0 .run]) o [5]) = true ∧
  (hostS 0x04 [5] [job0 .run]).job (cmd0 0x04 [5]).job = some (job0 .run) ∧ (job0 .held).st = .held ∧ heldTakes 0x04 = true ∧ heldTakes 0x05 = false := by decide +kernel
def ev0 : HostCpl := { status := 0, sq := 0, cid := 1, noirq := false, words := [], expire := some 100, launch := none }
def cplS (en : Bool) (n : Nat) (cfg : Word) : State := (upS.setRing 0 { HRing.reset with cfg := 0x80042000 }).setRing 18
  { HRing.reset with cfg := (if en then 0x80840000 else 0x00840000) ||| cfg, cpls := List.replicate n ev0 }
def readS : State := { upS with reads := [{ tag := 9, addr := 0x1000, ring := 0, data := none }] }
theorem test_HostLinkEvents_met : upS.portState 40 = portUp ∧ (readS.reads.find? fun r => r.tag == 9 && r.data.isNone).isSome = true ∧
  ((cplS true 1 0).ring 18).cpls = ev0 :: [] ∧ ((cplS true 1 0).ring 18).en = true ∧ ((cplS true 1 0).ring 18).room = true ∧
  (((cplS true 1 0).setRing 18 { (cplS true 1 0).ring 18 with tail := 2, head := 0 }).ring 18).room = true ∧ bit ((cplS true 0 0).ring 18).cfg.toNat 23 = true ∧
  Nat.max 1 (bits (HRing.reset.coal.toNat) 15 0) ≤ 1 ∧ ¬ Nat.max 1 (bits (0x40002 : Word).toNat 15 0) ≤ 1 ∧
  ((hostS 0x01 [] []).ring 0).cmds.find? (fun x => x.cid == 1) = some (cmd0 0x01 []) ∧ ((cplS true 1 0).ring 0).cmds.find? (fun x => x.cid == 1) = none ∧
  (cplS true 1 0).waitingEntry 0 1 = some ev0 ∧ (List.replicate 64 (0 : Byte)).length = 64 := by decide +kernel

/-- An image of job 5 on one module and one core: MODULES, BEDS with the core at (0, 0), and one pattern of 64 slots. -/
def img0 (crc : Word) : List Byte :=
  leBytes 4 0x474D494A ++ leBytes 2 1 ++ leBytes 2 3 ++ leBytes 4 1984 ++ leBytes 2 5 ++ leBytes 2 0 ++ leBytes 2 1 ++ List.replicate 6 0 ++ leBytes 6 10 ++
    List.replicate 10 0 ++ leBytes 4 3523407757 ++ List.replicate 16 0 ++ leBytes 4 crc.toNat ++
    (leBytes 4 1 ++ leBytes 4 1 ++ leBytes 8 112) ++ (leBytes 4 2 ++ leBytes 4 1 ++ leBytes 8 120) ++ (leBytes 4 5 ++ leBytes 4 1 ++ leBytes 8 184) ++
    List.replicate 8 0 ++ (List.replicate 4 0 ++ leBytes 2 1 ++ leBytes 2 1 ++ List.replicate 56 0) ++ (leBytes 4 0x0600 ++ List.replicate 1796 0)
/-- The image with its CRC. -/
def imgOk : List Byte := img0 2396645586
theorem crc_imgOk : imageCrc imgOk = 2396645586 := by
  unfold imageCrc crc32
  rw [crcRun_eq_crcFrom]
  decide +kernel
theorem test_HostCommandsOnTheModule_launches : imgOk.length = 1984 ∧ readImage imgOk = readFields imgOk ∧
    ((readFields imgOk).map fun i => upS.launchRefusal i) = some none ∧
    readImage (imgOk.take 59) = none :=
  ⟨by decide +kernel, if_neg (by rw [crc_imgOk]; decide +kernel), by decide +kernel, by decide +kernel⟩
theorem test_HostCommandsOnTheModule_met : ((hostS 0x0F [] []).hostCmd 0 1 fun o => 0x0E < o.toNat && !(0x10 ≤ o.toNat && o.toNat ≤ 0x18)) = some (cmd0 0x0F []) ∧
  ((hostS 0xFF [] []).hostCmd 0 1 fun o => 0x0E < o.toNat && !(0x10 ≤ o.toNat && o.toNat ≤ 0x18)) = some (cmd0 0xFF []) ∧ (hostS 0x01 [] []).beds = 0 ∧
  (hostS 0x01 [] [job0 .run]).beds ≠ 0 ∧ ((cmd0 0x0B [0, 0, 0, 99904]).w 4).toNat = upS.dtabLen ∧ ((cmd0 0x0B [0, 0, 0, 99903]).w 4).toNat < upS.dtabLen := by decide +kernel

/-- The job with the pattern of `imgOk`; a job one of whose cores has an armed switch, or no valid header in the back bank. -/
def patJ : Job := { job0 .run with image := imgOk }
def backedS (arm : Nat) : State := { upS with jobs := [patJ], cores := (patS.onCore 0 fun k => (k.setW R.MESH_BHDR 0x86000000).setFld F.MESH_SWITCH_ARM arm).cores }
theorem test_HostCommandsOnJobs_met : (treeJ .run true [] []).parent = none ∧ (treeJ .run false [] []).parent.isSome = true ∧
  revNotAfter (upS.rev + BitVec.ofNat 48 ((job0 .run).lead + 1)) 5 = true ∧ revNotAfter (upS.rev + BitVec.ofNat 48 ((job0 .run).lead + 1)) 4 = false ∧
  patJ.pattern 1 = none ∧ (patJ.pattern 0).isSome = true ∧ (backedS 0).bedArmed patJ = false ∧ (backedS 1).bedArmed patJ = true ∧
  lateFor upS.now 2 = false ∧ lateFor upS.now 1 = true ∧ (patJ.cores (backedS 0)).any (fun c => !hdrValid (((backedS 0).bedImage patJ.id c).w R.MESH_BHDR)) = false ∧
  (cmd0 0x09 [5, 0x40, 0, 0, 0, 64]).copyOk = true ∧ upS.copyFault (job0 .run) 0 65536 true = none ∧ upS.copyFault (job0 .run) 64 65536 true = some (stXLATE, 65536) ∧
  upS.copyFault (job0 .run) 0 64 false = none ∧ upS.rangeUp (job0 .run) 0 64 = true ∧ (job0 .run).begun = true ∧ ({ job0 .run with begun := false } : Job).st ≠ .held := by decide +kernel
/-! ### Firmware, recovery, power, debug -/

/-- An image that every check passes; another whose RSA signature fails. -/
def fw0 (rsa : Bool) : FwImage := { FwImage.bad with magic := 0x57465348, format := 1, plen := 64, zeros := true, keyHashOk := true, rsaOk := rsa, slhOk := true }
def fwS (opc : Byte) (ws : List Word) : State := (hostS opc ws []).setFld F.HS_BOOT_STAT_IDK 1
theorem test_FirmwareCommands_met : upS.fwCheck { fw0 true with total := 17168 } = none ∧ upS.fwCheck { fw0 false with total := 17168 } = some 9 ∧
  upS.fwCheck { fw0 true with total := 17167 } = some 5 ∧ (upS.setFld F.HS_PAIR_SB 2).fld F.HS_PAIR_SB = 2 ∧ upS.fld F.HS_PAIR_SB ≠ 2 ∧ (cmd0 0x12 []).job = 0 ∧
  (fwS 0x13 [0, 0, 0, 0, 0, 16848]).fld F.HS_BOOT_STAT_IDK ≠ 0 ∧ 16848 ≤ ((cmd0 0x13 [0, 0, 0, 0, 0, 16848]).w 6).toNat ∧ 432 ≤ ((cmd0 0x14 [0, 0, 0, 432]).w 4).toNat ∧
  (hostS 0x14 [0, 0, 0, 432] []).fld F.HS_BOOT_STAT_IDK = 0 ∧ (cmd0 0x14 []).started = false ∧ ((cmd0 0x18 [0, 3]).w 2).toNat ≤ 3 ∧
  ((cmd0 0x18 [0, 0]).w 2).toNat = upS.fld F.HS_FW_SEC_KEYSLOT ∧ ((cmd0 0x18 [0, 3]).w 2).toNat ≠ upS.fld F.HS_FW_SEC_KEYSLOT ∧
  (upS.fuses.revoked ||| BitVec.ofNat 4 (2 ^ (3 % 4))) ≠ 15 ∧ (0x7#4 ||| BitVec.ofNat 4 (2 ^ (3 % 4))) = 15 := by decide +kernel
theorem test_FirmwareCommands_lengths : (List.replicate 48 (0 : Byte)).length = 48 ∧ (List.replicate 16608 (0 : Byte)).length = 16608 :=
  ⟨List.length_replicate, List.length_replicate⟩
/-- Handovers: not yet at its revolution, exchanged, and writing flash. -/
def hand0 (rev : Option (BitVec 48)) (sw wr : Bool) : Handover := { ring := 0, cid := 1, job := 0, flash := true, rev := rev, swapped := sw, writing := wr }
theorem test_StartUpAndHandover_met : onS.fld F.DEV_STATUS_STATE = mBOOT ∧ onS.fld F.HS_BOOT_STAT_FAIL ≠ 1 ∧
  ([4, 11, 15].all fun f : Nat => !((5 ≤ f && f ≤ 10) || 15 < f)) = true ∧ onS.handoverRev (hand0 (some 9) false false) = some 9 ∧
  onS.handoverRev (hand0 none false false) = none ∧ revNotAfter ((hand0 (some 9) true false).rev.getD 0 + 65) onS.rev = false ∧
  (hand0 (some 9) true true).writing = true ∧ (List.replicate 432 (0 : Byte)).length = 432 ∧ upS.serving = true ∧ upS.fld F.HS_BOOT_STAT_IDK ≠ 1 := by decide +kernel
/-- Retirements decided for the row of the job, with and without a spare core; a failure at two attempts, or a test that failed. -/
def pend0 (nospare : Bool) : PendRet := { prow := 0, pcol := 79, cause := 1, job := some 5, neutral := false, nospare := nospare, loaded := true }
def pendS (nospare : Bool) (j : Job) : State := (jobS j).onHs fun h => { h with pending := [pend0 nospare] }
def fault0 (attempt : BitVec 48) : CoreFault := { pos := 80 * 39 + 79, job := 5, pass := 0, attempt := some attempt, word := 4, rev := 0 }
def faultS : State := (upS.setFld F.DEV_STATUS_STATE mTEST).onHs fun h => { h with faults := [fault0 4, fault0 9], tested := 4 }
theorem test_ReplacementAndRetirement_met : (treeJ .held true [] []).mods.contains 7 = false ∧ (1 : Nat) < (treeJ .held true [] []).mods.length ∧
  (treeJ .held true [] []).st = .held ∧ (job0 .run).begun = true ∧ (jobS (job0 .run)).hs.pending.find? (job0 .run).retires = none ∧
  (pendS true (job0 .run)).hs.pending.find? (job0 .run).retires = some (pend0 true) ∧ (pendS false (job0 .run)).hs.pending.find? (job0 .run).retires = some (pend0 false) ∧
  (pendS false (job0 .run)).bedArmed (job0 .run) = false ∧ faultS.failedAt 39 79 = false ∧ faultS.mayRetire 39 79 1 = true ∧ faultS.mayRetire 39 79 3 = true ∧
  faultS.mayRetire 39 78 1 = false ∧ (faultS.hs.pending.any fun p => p.prow == 39 && p.pcol == 79) = false ∧ faultS.hs.retired.length < 128 ∧
  ((pendS false (job0 .run)).hs.pending.find? fun p => p.prow == 0 && !p.nospare) = some (pend0 false) ∧
  (pendS false { job0 .run with named := some 9, entered := true }).retireReady 0 (pend0 false) = true ∧
  (pendS false { job0 .run with named := some 9 }).retireReady 0 (pend0 false) = false := by decide +kernel
def stbyS : State := State.reset.onPower fun p => { p with stby := true }
theorem test_PowerVoltageAndTemperature_met : State.reset.power.stby = false ∧ stbyS.maySequence = true ∧ onS.maySequence = false ∧ stbyS.power.fault = false ∧
  stbyS.power.ovLock = false ∧ onS.power.en = true ∧ onS.power.pgood = true ∧ onS.beds = 0 ∧ (onS.rgn 19).alarm = false ∧
  ((onS.setRegion 19 { onS.rgn 19 with alarm := true }).rgn 19).alarm = true ∧ (stbyS.putTemps 19 200 200 200 200).power.pgood = false ∧
  (onS.putTemps 19 200 200 200 200).power.pgood = true ∧ upS.serving = true ∧ (480 : BitVec 10).toNat ≤ 600 ∧ (579 : BitVec 10).toNat < 580 := by decide +kernel
/-- A breakpoint of thread 0 at address 0; a bed stop to the supervisor and to a core; a capture window to open, or open. -/
def bpS : State := (runC fun k => ((k.setFld (F.CORE_BP_THRMASK 3) 1).setFld (F.CORE_BP_ACTION 3) 1))
def traceS : State := runC fun k => { k.setFld F.CORE_TRSTART_LEN 8 with tarm := some 4, topen := some 2 }
theorem test_DebugEvents_met : (bpS.core 0).bpStops 0 3 = true ∧ (bpS.core 0).bpIdle 0 0 = false ∧ bpS.passOver 0 = false ∧
  earliest (fun m => m.stops 0) (fun _ _ => false) (netS (.bedCmd false)).net = theMsg (.bedCmd false) ∧
  earliest (fun m => m.stops 0) (fun _ _ => false) (netS (.bedAct false)).net = theMsg (.bedAct false) ∧ (traceS.core 0).tarm = some 4 ∧
  (traceS.core 0).topen = some 2 ∧ (traceS.core 0).fld F.CORE_TRSTART_LEN ≠ 0 := by decide +kernel

/-! ### Frames: instructions that issue and go on, one that does not trap and one that does -/

/-- The thread of `memS v` after a command, if it goes on. -/
def after (i : Instr) (s : State) : Option Thread := match exec i s with
  | .next u => some (u.th 0 0)
  | _ => none
theorem test_ScalarInstructionsFrame_met : goes (.div 0 0 1 2 3) (memS 9) = true ∧ goes (.addc 0 0 1 2 3) (memS 9) = true ∧ goes (.cmpi 0 0 2 0x2000) (memS 9) = true ∧
  goes (.rdcyc 0 0 6) (memS 9) = true := by decide +kernel
theorem test_LoadsAndStoresFrame_met : ((memS 9).th 0 0).st 4 = false ∧
  ([.ldw 0 0 2 1 none, .pop 0 0 2, .vld 0 0 2 1 0, .stw 0 0 2 1 none, .sth 0 0 2 1 none, .stb 0 0 2 1 none, .sts 0 0 2 0, .push 0 0 2, .vst 0 0 2 1 0] : List Instr).all
    (fun i => (after i (memS 16)).map (fun y => y.st 4) == some false && (after i (memS 0xFFFFFFFF)).isSome) = true ∧
  (after (.ldw 0 0 2 1 none) (memS 81920)).map (fun y => y.st 4) = some true := by decide +kernel
theorem test_VectorInstructionsFrame_met : goes (.vadd 0 0 0 1 2 3) runS = true ∧ goes (.vcvt 0 0 0 2 2 1 2) runS = true ∧ goes (.vext 0 0 0 1 2 3) runS = true ∧
  goes (.vseed 0 0 1 2) runS = true ∧ (after (.vadd 0 0 0 1 2 3) (nanS true)).map (fun y => y.st 4) = some true ∧
  ((nanS true).th 0 0).st 4 = false := by decide +kernel
theorem test_ControlInstructionsFrame_met :
  ([.br 0 0 5, .bcc 0 0 1 false 5, .jr 0 0 2, .call 0 0 true 5, .loop 0 0 3 2 9, .lbrk 0 0 1, .settc 0 0 1, .clrtc 0 0, .halt 0 0, .mts 0 0 2] : List Instr).all
    (fun i => (after i runS).map (fun y => y.st 4) == some false) = true ∧ (after (.ret 0 0) runS).map (fun y => y.st 4) = some true ∧ runS.issues 0 0 (.ret 0 0) = true := by
  decide +kernel

end Sys2Proof.Tests
end

/-! SUPPORT. The scope of register access (00): what reset leaves, what a start-up resets, and what accesses of registers do. -/

namespace Sys2Proof.Machine

/-! ### What reset leaves (00 R15) -/

/-- Right after a power-on reset every device register but DEV_ORDER, a fuse, reads the reset word of its table. -/
theorem State.devW_reset (off : Nat) (h : off ≠ R.DEV_ORDER) : State.reset.devW off = devReset off := by
  show SMap.get devReset [(R.DEV_ORDER, _)] off = _
  simp only [SMap.get, if_neg h.symm, ite_self]

/-- Right after a power-on reset a field reads what its register's table gives. -/
theorem State.fld_reset (f : Fld) (h : f.off ≠ R.DEV_ORDER) : State.reset.fld f = f.of (devReset f.off) :=
  congrArg f.of (State.devW_reset f.off h)

/-- Every core is as reset leaves it. -/
theorem State.core_reset (c : CoreId) : State.reset.core c = Core.reset := rfl

/-- Every thread is as a thread reset leaves it. -/
theorem State.th_reset (c : CoreId) (t : Thr) : State.reset.th c t = Thread.reset := rfl

/-- A field of a window register reads what its register's table gives. -/
theorem Core.fld_reset (f : Fld) : Core.reset.fld f = f.of (winReset f.off) := rfl

/-- Settles O2: nothing is listed in any map, so that each read gives the default of its key, for a register the reset word of its table. -/
theorem resetState : Obligations.ResetState := by
  unfold Obligations.ResetState
  have memories : State.reset.memWf ∧ (∀ c, (State.reset.core c).memWf) ∧ (∀ a, State.reset.byte a = 0) ∧
      (∀ c a, (State.reset.core c).spByte a = 0) :=
    ⟨State.reset_memWf, fun _ => Core.reset_memWf, fun _ => rfl, fun _ _ => rfl⟩
  have threads : ∀ c t, (State.reset.th c t).state = .idle ∧ ∀ r, (State.reset.th c t).gr r = 0 ∧ (State.reset.th c t).vr r = 0 :=
    fun c t => by rw [State.th_reset]; exact ⟨rfl, fun _ => ⟨rfl, rfl⟩⟩
  obtain ⟨mem, coreMem, bytes, spBytes⟩ := memories
  have coreFields : ∀ c, (State.reset.core c).fld F.DMA_TLIMIT_LIMIT = 0x800 ∧ (State.reset.core c).fld F.MESH_FHDR_LOGP = 6 ∧
      (State.reset.core c).fld F.MESH_BHDR_LOGP = 6 := fun c => by rw [State.core_reset]; simp only [Core.fld_reset]; decide
  have devId : State.reset.devW R.DEV_ID = 0x1F3A0C09 := (State.devW_reset _ (by decide)).trans (by decide)
  refine ⟨rfl, mem, threads, coreMem, bytes, spBytes, rfl, rfl, rfl, ?_, ?_, ?_, ?_, ?_, ?_, ?_, devId, coreFields⟩
  all_goals rw [State.fld_reset _ (by decide)]; decide

/-! ### What a start-up resets (00 R15; 10, LP_CFG) -/

/-- A write of a field leaves every other register alone. -/
theorem State.devW_setFld_other (s : State) (f : Fld) (x : Nat) (off : Nat) (h : off ≠ f.off) : (s.setFld f x).devW off = s.devW off :=
  State.devW_setDev_other _ _ _ _ h

/-- Of the fields that a start-up shows, only the fused capacity lies in LP_CFG. -/
theorem State.devW_LP_CFG_showMain (s : State) : s.showMain.devW R.LP_CFG = s.showFuses.devW R.LP_CFG := by
  unfold State.showMain
  refine (foldl_keeps (fun u : State => u.devW R.LP_CFG) _ (fun u n => ?_) _ _).trans ?_
  · have vlim : R.LP_CFG ≠ R.PW_VLIM n := by simp only [R.LP_CFG, R.PW_VLIM]; omega
    exact (State.devW_setFld_other _ _ _ _ vlim).trans (State.devW_setFld_other _ _ _ _ vlim)
  · rw [State.devW_setFld_other _ _ _ _ (by decide), State.devW_setFld_other _ _ _ _ (by decide),
      State.devW_setFld_other _ _ _ _ (by decide), State.devW_setDev_other _ _ _ _ (by decide)]

/-- LP_CFG.CAP, once shown, says whether the fuses give 1,536 GiB. -/
theorem State.fld_LP_CFG_CAP_showFuses (s : State) : s.showFuses.fld F.LP_CFG_CAP = b2n (decide (s.fuses.lpGib.toNat = 1536)) := by
  unfold State.fld State.showFuses
  rw [State.devW_setDev_other _ _ _ _ (by decide), State.devW_setDev_other _ _ _ _ (by decide)]
  refine (State.fld_setFld_same _ _ (by decide) (by decide) _).trans ?_
  cases decide (s.fuses.lpGib.toNat = 1536) <;> rfl

/-- After the reset of a start-up LP_CFG.CAP shows its fuse, which the register table of chapter 10 names as its reset value. -/
theorem State.fld_LP_CFG_CAP_modReset (s : State) (keep : Bool) :
    (s.modReset keep).fld F.LP_CFG_CAP = b2n (decide (s.fuses.lpGib.toNat = 1536)) := by
  unfold State.modReset State.idleUnread State.fld
  rw [State.devW_setFld_other _ _ _ _ (by decide), State.devW_setFld_other _ _ _ _ (by decide)]
  exact (congrArg F.LP_CFG_CAP.of (State.devW_LP_CFG_showMain _)).trans (State.fld_LP_CFG_CAP_showFuses _)

/-- Refutes O3: a register of the MOD domain whose reset value is a fuse does not return to the word of its table. After a start-up of the module
as reset leaves it (1,536 GiB of LPDDR6), LP_CFG.CAP is 1, where the reset word of the model's table (`devReset`) is 0. -/
theorem not_resetDomains : ¬ Obligations.ResetDomains := by
  unfold Obligations.ResetDomains
  intro h
  have canonical : SMap.wf devReset State.reset.dev := by decide
  have tableWord : (State.reset.modReset true).devW R.LP_CFG = devReset R.LP_CFG :=
    (h State.reset true R.LP_CFG canonical).2.1 (by decide)
  have cap : (State.reset.modReset true).fld F.LP_CFG_CAP = 1 := State.fld_LP_CFG_CAP_modReset State.reset true
  rw [State.fld, show F.LP_CFG_CAP.off = R.LP_CFG from rfl, tableWord] at cap
  exact absurd cap (by decide)

/-! ### Commands that write registers (00 R10, R12) -/

/-- An access of a window register that steps a pointer: what it answers as a read, and what it does as a write. -/
theorem winAccess_steps (s : State) (p : Path) (c : CoreId) (o : Nat) (v val : Word) (put : Word → State → State) (adv : State → State) :
    (s.hasCore c = true → s.winAccess p c o none val put adv = .next ((adv s).answer p false val)) ∧
      s.winTakes p c o v (s.winAccess p c o (some v) val put adv) (adv (put v s)) :=
  ⟨winRead_ok s p c val adv, winWrite_takes s p c o v fun u => adv (put v u)⟩

/-- Settles O33: each command is the write of its register, with the effect named here, or the access that steps its pointer. -/
theorem coreRegistersAndStreams : Obligations.CoreRegistersAndStreams := by
  unfold Obligations.CoreRegistersAndStreams
  refine ⟨fun s p c t mask v64 b n v rev => ?_, fun s p c v => ?_⟩
  · have write := winWrite_takes s p c
    exact
      ⟨write _ _ fun u => (u.emptyWl p).flagReg p c mask true,
        write _ _ fun u => (u.emptyWl p).flagReg p c mask false,
        write _ _ fun u => u.barCmd c 1 b,
        write _ _ fun u => u.barCmd c 2 b,
        write _ _ fun u => u.barCmd c 3 b,
        write _ _ fun u => u.abandon c b,
        write _ _ fun u => u.release c b.toNat,
        write _ _ fun u => u.restoreConn c b v,
        write _ _ fun u => u.onCore c fun k => k.putQsel c v u.now,
        write _ _ fun u => u.putGuard c n.toNat v,
        write _ _ fun u => u.armSwitch c rev,
        write _ _ fun u => u.onCore c fun k => k.setFld F.MESH_SWITCH_ARM 0,
        write _ _ fun u => (u.emptyWl p).dmaXinv c v64,
        write _ _ fun u => u.dbgCmd c t 1,
        write _ _ fun u => u.dbgCmd c t 2,
        write _ _ fun u => u.dbgCmd c t 3⟩
  · have access := fun o val put (adv : Core → Core) => winAccess_steps s p c o v val put fun u => u.onCore c adv
    have spData := And.intro (winRead_ok s p c (s.core c).spData fun u => u.onCore c fun k => k.spPerr.stepSp)
      (winWrite_takes s p c R.CORE_SPDATA v fun u => u.onCore c fun k => (k.putSpData v).stepSp)
    have trace : s.hasCore c = true → exec (.traceRead p c) s = .next ((s.readTrace p c).1.answer p false (s.readTrace p c).2) :=
      fun hc => if_pos hc
    exact
      ⟨access R.TILE_DDATA _ (fun w u => u.onCore c fun k => k.putDData w) Core.stepD,
        access R.DMA_VDATA _ (fun w u => u.onCore c fun k =>
          ({ k with valid := putGroup k.valid ((s.core c).fld F.DMA_VSEL_INDEX) w } : Core).wakeLines c u.now) _,
        access R.MESH_PSNDATA _ (fun w u => u.onCore c fun k => { k with psn := putGroup k.psn ((s.core c).fld F.MESH_PSNSEL_INDEX) w }) _,
        access R.MESH_PDATA _ (fun w u => u.onCore c fun k => k.putPdata w) Core.stepPsel,
        access R.CORE_TRDATA _ (fun w u => u.onCore c fun k => k.putTrData w) Core.stepTr,
        spData, trace⟩

/-- A command of a fabric port below 40 is the write of its register that it names (12 R399). -/
theorem portCommand_takes (s : State) (p : Path) (port : BitVec 6) (v : Word) (f : State → State) (hp : port.toNat < 40) :
    s.devTakes p (R.FX_PORT_CTRL port.toNat) v
      (if 40 ≤ port.toNat then .refused .illFormed else s.devWrite p (R.FX_PORT_CTRL port.toNat) v f) (f s) := by
  rw [if_neg (Nat.not_le.mpr hp)]
  exact devWrite_takes s p _ v f

/-- Settles O34: each command is the write of its register, with the effect named here; the reads answer what the table or the log shows. -/
theorem deviceRegisterCommands : Obligations.DeviceRegisterCommands := by
  unfold Obligations.DeviceRegisterCommands
  intro s p v v64 bed port w img
  have write := devWrite_takes s p
  have ports : port.toNat < 40 →
      s.devTakes p (R.FX_PORT_CTRL port.toNat) 3 (exec (.train p port) s)
        ((s.setFld (F.FX_PORT_CTRL_EN port.toNat) 1).startTraining port.toNat) ∧
      s.devTakes p (R.FX_PORT_CTRL port.toNat) 0 (exec (.portDisable p port) s) (s.disablePort port.toNat) :=
    fun hp => ⟨portCommand_takes s p port 3 (fun u => (u.setFld (F.FX_PORT_CTRL_EN port.toNat) 1).startTraining port.toNat) hp,
      portCommand_takes s p port 0 (fun u => u.disablePort port.toNat) hp⟩
  exact
    ⟨write _ _ fun u => (u.emptyWl p).mtXinv v64,
      write _ _ fun u => (u.emptyWl p).fxXinv v64,
      write _ _ fun u =>
        if v.msb && decide (bits v.toNat 27 19 < 320) && decide (bits v.toNat 18 0 < 393216) then
          (({ u with rmapTap := bits v.toNat 27 19 } : State).wantRemap (bits v.toNat 27 19) (bits v.toNat 18 0) true).showLeft else u,
      write _ _ fun u => (u.setDev R.LP_RETRAIN (u.devW R.LP_RETRAIN ||| v)).setDev R.LP_TRAINED (u.devW R.LP_TRAINED &&& ~~~v),
      write _ _ fun u => u.putSpnCtrl v,
      write _ _ fun u => if isHs p then u.addRests (bits v.toNat 20 16) (bits v.toNat 7 0) else u,
      ports,
      write _ _ fun u => u.putRcfg v,
      write _ _ fun u => u.bedCmd bed.toNat 1,
      write _ _ fun u => u.bedCmd bed.toNat 2,
      write _ _ fun u => u.recover w img,
      write _ _ fun u => if u.power.pgood then u.reboot else u,
      write _ _ fun u => (u.putRt (BitVec.ofNat 16 (u.fld F.FX_RTSEL_DMOD)) v).stepRt,
      rfl, rfl, rfl⟩

/-! ### Accesses of any register on any path (00 R10 to R13; 15 R461 to R469; 18 R542; 19 R545) -/

/-- An access of 4 bytes at an aligned offset is carried out. -/
theorem registerWrite_aligned (s : State) (p : Path) (off : BitVec 26) (width : Nat) (v : Word) (hw : width = 4) (ha : off.toNat % 4 = 0) :
    exec (.registerWrite p off width v) s = .next (s.pathWrite p off.toNat v) :=
  congrArg Host.Outcome.next (if_neg (not_or.mpr ⟨not_not.mpr hw, not_not.mpr ha⟩))

/-- An access of another width or alignment is answered `ACCESS`. -/
theorem registerWrite_refused (s : State) (p : Path) (off : BitVec 26) (width : Nat) (v : Word) (h : width ≠ 4 ∨ off.toNat % 4 ≠ 0) :
    exec (.registerWrite p off width v) s = .next (s.answer p true 0) :=
  congrArg Host.Outcome.next (if_pos h)

/-- A read at an aligned offset answers the word read. -/
theorem State.pathRead_aligned (s : State) (p : Path) (off : Nat) (ha : off % 4 = 0) :
    s.pathRead p off = (s.readReg p off).1.answer p false (s.readReg p off).2 :=
  if_neg (not_not.mpr ha)

/-- A write that reaches its register has its effect. -/
theorem State.pathWrite_taken (s : State) (p : Path) (off : Nat) (v : Word) (h : s.takesWrite p off v = true) :
    s.pathWrite p off v = (s.write p off v).answer p false 0 := by
  rw [State.pathWrite, if_pos h, State.ack]

/-- A write that does not changes no register but, over the Brepo link, HL_ACCERR, and is answered `ACCESS`. -/
theorem State.pathWrite_rejected (s : State) (p : Path) (off : Nat) (v : Word) (h : s.takesWrite p off v = false) :
    s.pathWrite p off v = (if p = .brepo then s.accErr 2 off else s).answer p true 0 := by
  rw [State.pathWrite, h, if_neg Bool.false_ne_true, State.ack]

/-- A host read that reaches the module is answered with the word read. -/
theorem hregRd_reaches (s : State) (tag : BitVec 16) (o : BitVec 64) (width : Nat) (h : s.hostReaches o width = true) :
    exec (.hregRd tag o width) s =
      .next (((s.readReg .brepo o.toNat).1.answer .brepo false (s.readReg .brepo o.toNat).2).hostSend
        (.hregCpl tag (s.readReg .brepo o.toNat).2 false)) := by
  rw [exec_hregRd, execHregRd, h]; rfl

/-- A host write into the doorbell page rings a doorbell and has no answer (15 R469). -/
theorem hregWr_doorbell (s : State) (tag : BitVec 16) (o : BitVec 64) (width : Nat) (v : Word) (h : s.hostReaches o width = true)
    (hd : 0x3000000 ≤ o.toNat ∧ o.toNat < 0x3001000) :
    exec (.hregWr tag o width v) s = .next (s.doorbell (o.toNat - 0x3000000) (v.truncate 16)) := by
  rw [exec_hregWr, execHregWr, h]
  exact if_pos hd

/-- A host write elsewhere is a write over the Brepo link, answered with a free data word (log entry 4). -/
theorem hregWr_register (s : State) (tag : BitVec 16) (o : BitVec 64) (width : Nat) (v : Word) (h : s.hostReaches o width = true)
    (hd : ¬ (0x3000000 ≤ o.toNat ∧ o.toNat < 0x3001000)) :
    exec (.hregWr tag o width v) s =
      .next { (s.pathWrite .brepo o.toNat v).hostSend
                (.hregCpl tag (Config.freeWord (s.pathWrite .brepo o.toNat v).free) (!s.takesWrite .brepo o.toNat v)) with
              free := (s.pathWrite .brepo o.toNat v).free + 1 } := by
  rw [exec_hregWr, execHregWr, h]
  exact if_neg hd

/-- While the Brepo link is UP a ring's tail or head arrives as a doorbell. -/
theorem cqIndices_ring (s : State) (ring : BitVec 4) (q : BitVec 16) (h : s.portState 40 = portUp) :
    exec (.cqTail ring q) s = .next (s.doorbell (4 * ring.toNat) q) ∧
      exec (.cqHead ring q) s = .next (s.doorbell (0x100 + 4 * ring.toNat) q) :=
  ⟨if_neg (not_not.mpr h), if_neg (not_not.mpr h)⟩

/-- On STBY the sideband writes a register at an aligned offset (18 R542). -/
theorem sidebandWrite_aligned (s : State) (off : BitVec 26) (v : Word) (hs : s.power.stby = true) (ha : off.toNat % 4 = 0) :
    exec (.sidebandWrite off v) s = .next (s.pathWrite .sideband off.toNat v) := by
  rw [exec_sidebandWrite, execSidebandWrite, hs]
  exact congrArg Host.Outcome.next (if_neg (not_not.mpr ha))

/-- Settles O35: the halves of a pair, reads of RC registers and debug accesses are reads and writes on their path by definition; the others by
the lemma of their command. -/
theorem anyRegisterAccess : Obligations.AnyRegisterAccess := by
  unfold Obligations.AnyRegisterAccess
  intro s p off width v tag o ring q wr
  exact ⟨registerWrite_aligned s p off width v, registerWrite_refused s p off width v, rfl, rfl, rfl, rfl, rfl,
    s.pathRead_aligned p off.toNat, s.pathWrite_taken p off.toNat v, s.pathWrite_rejected p off.toNat v,
    fun reaches => ⟨hregRd_reaches s tag o width reaches, fun lo hi => hregWr_doorbell s tag o width v reaches ⟨lo, hi⟩,
      fun elsewhere => ⟨_, hregWr_register s tag o width v reaches elsewhere⟩⟩,
    cqIndices_ring s ring q, sidebandWrite_aligned s off v, rfl⟩

end Sys2Proof.Machine

/-! SUPPORT. The spindle (02): what its events do, and the arithmetic of rest revolutions. -/

namespace Sys2Proof.Machine

/-! ### Markers (02 R56 to R62; 12 R400) -/

/-- Whether a port is UP and has not sent its marker of the present revolution. -/
def State.owesMarker (s : State) (p : Nat) : Bool := s.portState p == portUp && (s.port p).gave != some s.rev

/-- Every port that owes its marker sends it. -/
def State.sendMarkers (s : State) : State :=
  (List.range 40).foldl (fun (s : State) p =>
    if s.owesMarker p then s.setPort p { (s.port p).emit s.now 3 0 false false s.markerBody with gave := some s.rev } else s) s

/-- While the rails are up, the markers are sent at the present angle 0 where one is owed, else at the next. -/
theorem execMarker_powered (s : State) (hp : s.power.pgood = true) :
    execMarker s =
      .next (if s.angle = 0 ∧ (List.range 40).any s.owesMarker then s else s.advanceTo (revStart (s.rev + 1))).sendMarkers := by
  rw [execMarker, hp]; rfl

/-- Markers that are owed at the present angle 0 are sent in it. -/
theorem execMarker_owed (s : State) (hp : s.power.pgood = true) (owed : s.angle = 0 ∧ (List.range 40).any s.owesMarker) :
    execMarker s = .next s.sendMarkers := by
  rw [execMarker_powered s hp, if_pos owed]

/-- Where none is owed now, the next angle 0 sends them. -/
theorem execMarker_not_owed (s : State) (hp : s.power.pgood = true) (notOwed : ¬ (s.angle = 0 ∧ (List.range 40).any s.owesMarker)) :
    execMarker s = .next (s.advanceTo (revStart (s.rev + 1))).sendMarkers := by
  rw [execMarker_powered s hp, if_neg notOwed]

/-- A marker with a good CRC, at a port that is UP, is missed where the state judges it too far off, else valid. -/
theorem execMarkerArrive_good (s : State) (port : BitVec 6) (m : Marker) (hp : port.toNat < 40) (up : s.portState port.toNat = portUp)
    (crc : m.crcOk = true) :
    execMarkerArrive port m s =
      if (s.spin = spLocked ∨ s.spin = spHoldover) ∧ 128 < (s.phaseErr port.toNat m).natAbs then
        .next ((s.spnSet evMARKER_MISMATCH).missMarker port.toNat s.rev)
      else .next (s.validMarker port.toNat m (s.phaseErr port.toNat m)) := by
  have accepted : ¬ (s.portState port.toNat ≠ portUp ∨ m.crcOk = false) := by simp [up, crc]
  rw [execMarkerArrive, if_neg (Nat.not_le.mpr hp)]
  exact if_neg accepted

/-- A port that is UP, locked or in a run of valid markers, and has none in a revolution, misses it at its end. -/
theorem execMarkerMiss_missed (s : State) (port : BitVec 6) (hp : port.toNat < 40)
    (watched : s.portState port.toNat = portUp ∨ s.portLock port.toNat = true ∨ (s.port port.toNat).run ≠ 0)
    (unheard : (s.port port.toNat).got ≠ some s.rev) :
    execMarkerMiss port s = .next (((s.advanceTo (revStart (s.rev + 1))).missMarker port.toNat s.rev).seekSource) := by
  have missed : ¬ ((s.portState port.toNat ≠ portUp ∧ s.portLock port.toNat = false ∧ (s.port port.toNat).run = 0) ∨
      (s.port port.toNat).got = some s.rev) := by
    rintro (⟨down, unlocked, idle⟩ | got)
    · rcases watched with up | locked | running
      · exact down up
      · exact Bool.noConfusion (locked.symm.trans unlocked)
      · exact running idle
    · exact unheard got
  rw [execMarkerMiss, if_neg (Nat.not_le.mpr hp)]
  exact if_neg missed

/-! ### The step and the states of the count (02 R51, R64 to R71) -/

/-- LOST is left for ACQUIRING at an angle 0 without beds. -/
theorem execStepped_lost (s : State) (beds : s.beds = 0) (lost : s.spin = spLost) :
    execStepped s = .next (s.nextAngle0.setFld F.SPN_STATUS_STATE spAcquiring).remeasure.seekSource := by
  rw [execStepped, if_neg (not_not.mpr beds)]
  exact if_pos lost

/-- A step that waits in ACQUIRING, on eight values that agree, is taken at an angle 0 without beds. -/
theorem execStepped_waiting (s : State) (beds : s.beds = 0) (acq : s.spin = spAcquiring) (waits : s.fld F.SPN_STATUS_STEP_PENDING = 1)
    (agree : agree8 s.lockE = true) :
    execStepped s =
      .next (((s.nextAngle0.median s.lockE).1.stepCount (s.nextAngle0.median s.lockE).2).enterLocked 0) := by
  have notLost : s.spin ≠ spLost := by rw [acq]; decide
  rw [execStepped, if_neg (not_not.mpr beds)]
  exact (if_neg notLost).trans (if_pos ⟨acq, waits, agree⟩)

/-- HOLDOVER becomes LOST in the revolution in which the drift reaches its budget. -/
theorem execLost_holdover (s : State) (hold : s.spin = spHoldover) :
    execLost s =
      .next ((s.advanceTo (revStart (s.driftRev + BitVec.ofNat 48 ((s.driftBudget - s.fld F.SPN_DRIFT_EST) * s.driftRate)))).enterLost) :=
  if_neg (not_not.mpr hold)

/-- A module that is to become master does so at the angle 0 named, and slews and measures no more. -/
theorem execMasterEnter_due (s : State) (r : BitVec 48) (h : s.masterTo = some (true, r)) :
    execMasterEnter s =
      .next { (((((s.advanceTo (revStart r)).rebaseDrift.setFld F.SPN_STATUS_STATE spMaster).setFld F.SPN_STATUS_HOPS 0).setFld
        F.SPN_STATUS_SRC_PORT 0x3F).noSlew.remeasure) with masterTo := none } := by
  rw [execMasterEnter, h]

/-- A master that is to leave becomes UNLOCKED at the angle 0 named. -/
theorem execMasterLeave_due (s : State) (r : BitVec 48) (h : s.masterTo = some (false, r)) :
    execMasterLeave s =
      .next { (((((s.advanceTo (revStart r)).setDev R.SPN_MASTER (s.advanceTo (revStart r)).spnMaster).setFld F.SPN_STATUS_STATE
        spUnlocked).setFld F.SPN_STATUS_HOPS 0xF).setFld F.SPN_MASTER_VALID 0) with masterTo := none } := by
  rw [execMasterLeave, h]

/-- The loss of a reference that is present clears REFCLK_OK and raises its event. -/
theorem execRefclkLoss_present (s : State) (h : s.fld F.SPN_STATUS_REFCLK_OK ≠ 0) :
    execRefclkLoss s = .next ((s.rebaseDrift.setFld F.SPN_STATUS_REFCLK_OK 0).spnSet evREFCLK_LOSS) :=
  if_neg h

/-- The error left after one revolution's slew: one sixteenth of a cycle nearer to 0. -/
def slewTowards0 (e : Int) : Int := if 0 < e then e - 1 else if e < 0 then e + 1 else 0

theorem slewTowards0_of_pos {e : Int} (h : 0 < e) : slewTowards0 e = e - 1 := if_pos h

theorem slewTowards0_of_neg {e : Int} (h : e < 0) : slewTowards0 e = e + 1 := by
  rw [slewTowards0, if_neg (by omega), if_pos h]

/-- A revolution of a slew brings its error towards 0. -/
theorem execSlewing_slews (s : State) (h : s.fld F.SPN_STATUS_SLEWING ≠ 0) :
    let u := s.advanceTo (revStart (s.rev + 1))
    execSlewing s =
      .next { (u.setFld F.SPN_STATUS_SLEWING (b2n (decide (slewTowards0 u.slewE ≠ 0)))) with slewE := slewTowards0 u.slewE } :=
  if_neg h

/-- Settles O47: each event by the lemma of its command, under the condition in which it acts. -/
theorem spindleLockAndStates : Obligations.SpindleLockAndStates := by
  unfold Obligations.SpindleLockAndStates
  refine ⟨fun s port m => ⟨fun powered => ⟨execMarker_owed s powered, execMarker_not_owed s powered⟩, fun hp up crc => ⟨fun locked off => ?_, fun near => ?_⟩,
    execMarkerMiss_missed s port⟩, fun s r => ⟨execStepped_lost s, execStepped_waiting s, execLost_holdover s, execMasterEnter_due s r,
    execMasterLeave_due s r, execRefclkLoss_present s, rfl, fun slewing => ⟨fun late => ?_, fun early => ?_⟩⟩⟩
  · exact (execMarkerArrive_good s port m hp up crc).trans (if_pos ⟨locked, off⟩)
  · exact (execMarkerArrive_good s port m hp up crc).trans (if_neg near)
  · rw [← slewTowards0_of_pos late]
    exact execSlewing_slews s slewing
  · rw [← slewTowards0_of_neg early]
    exact execSlewing_slews s slewing

/-! ### Rest revolutions (02 R75, R77 to R80) -/

/-- Where a bed has a next rest revolution, the event begins it. -/
theorem execRestRevolution_next (s : State) (bed : BitVec 5) (r : BitVec 48) (h : s.nextRest bed.toNat = some r) :
    execRestRevolution bed s = .next (s.advanceTo (revStart r)) := by
  rw [execRestRevolution, h]

/-- A run of at least one revolution that begins at or after `r` is not past at `r`. -/
theorem revNotAfter_runEnd (f r : BitVec 48) (k : Nat) (ahead : (f - r).toNat < 2 ^ 46) (h0 : 0 < k) (hk : k < 2 ^ 40) :
    revNotAfter (f + BitVec.ofNat 48 k) r = false := by
  unfold revNotAfter
  have small : (BitVec.ofNat 48 k).toNat = k := Nat.mod_eq_of_lt (by omega)
  simp only [decide_eq_false_iff_not, not_lt]
  bv_omega

/-- A revolution less than half the counter's range ahead, and reached, is the present one. -/
theorem eq_of_revNotAfter (f r : BitVec 48) (ahead : (f - r).toNat < 2 ^ 46) (reached : revNotAfter f r = true) : r = f := by
  unfold revNotAfter at reached
  have reached := of_decide_eq_true reached
  bv_omega

/-- A bed whose rests are one run that begins at or after the first angle 0 that is not past rests next in its first revolution. -/
theorem State.nextRest_one (s : State) (b : Nat) (f : BitVec 48) (k : Nat) (runs : (s.rest b).runs = [(f, k)])
    (ahead : (f - if s.angle = 0 then s.rev else s.rev + 1).toNat < 2 ^ 46) (h0 : 0 < k) (hk : k < 2 ^ 40) : s.nextRest b = some f := by
  unfold State.nextRest
  rw [runs]
  generalize (if s.angle = 0 then s.rev else s.rev + 1) = r0 at ahead
  have toCome := revNotAfter_runEnd f r0 k ahead h0 hk
  cases reached : revNotAfter f r0 with
  | false => simp [toCome, reached]
  | true =>
    obtain rfl := eq_of_revNotAfter f r0 ahead reached
    simp [toCome, reached]

/-- The rests of a bed that are one run of `k` revolutions from `f`. -/
def Rest.one (f : BitVec 48) (k : Nat) : Rest := { Rest.none with runs := [(f, k)] }

theorem Rest.rests_one (f r : BitVec 48) (k : Nat) :
    (Rest.one f k).rests r = (revNotAfter f r && !revNotAfter (f + BitVec.ofNat 48 k) r) := Bool.or_false _

/-- A cycle that falls into the run waits for its end; any other stands. -/
theorem Rest.skip_one (f : BitVec 48) (k : Nat) (d : Count) :
    (Rest.one f k).skip d = if (Rest.one f k).rests (d.extractLsb' 12 48) then revStart (f + BitVec.ofNat 48 k) else d := by
  rw [Rest.rests_one]; rfl

/-- A timer armed in revolution `m` with `n` runs out `n` revolutions after `m + 1`. -/
theorem armed_toInt (m : BitVec 48) (n : Nat) (hn : n < 2 ^ 40) : (m + BitVec.ofNat 48 (n + 1) - (m + 1)).toInt = n := by
  have left : m + BitVec.ofNat 48 (n + 1) - (m + 1) = BitVec.ofNat 48 n := by bv_omega
  have small : (BitVec.ofNat 48 n).toNat = n := Nat.mod_eq_of_lt (by omega)
  rw [left, BitVec.toInt_eq_toNat_of_lt (by omega), small]

/-- A run that begins after the timer was armed and before it runs out puts the expiry off by its length. -/
theorem Rest.expiry_one_within (f m : BitVec 48) (n k : Nat) (hn : n < 2 ^ 40) (within : (f - (m + 1)).toNat ≤ n) :
    (Rest.one f k).expiry m n = m + BitVec.ofNat 48 (n + 1 + k) := by
  have gap : (f - (m + 1)).toInt = (f - (m + 1)).toNat := BitVec.toInt_eq_toNat_of_lt (by omega)
  have off : (max ((f - (m + 1)).toInt + (k : Int)) 0 - max (f - (m + 1)).toInt 0).toNat = k := by omega
  have begins : (f - (m + 1)).toInt ≤ (m + BitVec.ofNat 48 (n + 1) - (m + 1)).toInt := by
    rw [armed_toInt m n hn, gap]; omega
  calc (Rest.one f k).expiry m n
    _ = m + BitVec.ofNat 48 (n + 1) +
        BitVec.ofNat 48 (max ((f - (m + 1)).toInt + (k : Int)) 0 - max (f - (m + 1)).toInt 0).toNat := if_pos begins
    _ = m + BitVec.ofNat 48 (n + 1 + k) := by rw [off, BitVec.add_assoc, ← BitVec.ofNat_add]

/-- A run that begins when the timer has run out does not put its expiry off. -/
theorem Rest.expiry_one_after (f m : BitVec 48) (n k : Nat) (hn : n < 2 ^ 40) (after : n < (f - (m + 1)).toNat)
    (half : (f - (m + 1)).toNat < 2 ^ 47) : (Rest.one f k).expiry m n = m + BitVec.ofNat 48 (n + 1) := by
  have begins : ¬ (f - (m + 1)).toInt ≤ (m + BitVec.ofNat 48 (n + 1) - (m + 1)).toInt := by
    rw [armed_toInt m n hn, BitVec.toInt_eq_toNat_of_lt (by omega)]; omega
  exact if_neg begins

/-- Settles O48: the rests of one run, by where the run lies. -/
theorem restRevolutions : Obligations.RestRevolutions := by
  unfold Obligations.RestRevolutions
  intro s bed f m r n k d one gap
  exact ⟨execRestRevolution_next s bed r, s.nextRest_one bed.toNat f k, rfl,
    fun within => (Rest.skip_one f k d).trans (if_pos within),
    fun outside => (Rest.skip_one f k d).trans (if_neg (Bool.eq_false_iff.mp outside)), rfl,
    fun hn _ => Rest.expiry_one_within f m n k hn, fun hn _ => Rest.expiry_one_after f m n k hn⟩

end Sys2Proof.Machine

/-! SUPPORT. Scalar instructions (03 R87, R88; 04 R139 to R148): what an issue comes to, from what its execution comes to, and the results of
each operation. -/

namespace Sys2Proof.Machine

/-! ### From the execution of an instruction to what its issue comes to -/

/-- An instruction whose execution in the issue cycle comes to `r` is, once issued, what `r` leads to. -/
theorem State.issuesTo_of_body (s : State) (c : CoreId) (t : Thr) (i : Instr) (body : State → Res) (r : Res)
    (arm : exec i s = issue c t i body s) (runs : body (s.atIssue c t i) = r) : s.issuesTo c t i (s.after c t i r) := by
  intro issues
  rw [arm, issue_of_issues s c t i body issues, runs]

/-- An operation that writes one scalar register: its result may read everything of the thread but its next issue. -/
theorem State.issuesTo_alu (s : State) (c : CoreId) (t : Thr) (i : Instr) (d : Reg) (n : Nat) (f : Thread → Word) (v : Word)
    (arm : exec i s = issue c t i (alu c t d n f) s) (value : ∀ e, f { s.th c t with next := e } = v) :
    s.issuesTo c t i (s.thenPut c t i d v n) := by
  refine s.issuesTo_of_body c t i _ (.seq ((s.atIssue c t i).putG c t d v n)) arm ?_
  rw [alu, State.th_atIssue, value]

/-- An operation that changes its thread alone, by a function that agrees with `g` on the thread, whatever its next issue. -/
theorem State.issuesTo_onTh (s : State) (c : CoreId) (t : Thr) (i : Instr) (f : State → Thread → Thread) (g : Thread → Thread)
    (arm : exec i s = issue c t i (fun u => .seq (u.onTh c t (f u))) s)
    (value : ∀ e, f (s.atIssue c t i) { s.th c t with next := e } = g { s.th c t with next := e }) :
    s.issuesTo c t i (s.thenTh c t i g) := by
  refine s.issuesTo_of_body c t i _ (.seq ((s.atIssue c t i).onTh c t g)) arm ?_
  exact congrArg Res.seq (State.onTh_congr _ _ _ _ _ (by rw [State.th_atIssue, value]))

/-- A division writes its result, and its thread issues nothing for 8 slots. -/
theorem State.issuesTo_divide (s : State) (c : CoreId) (t : Thr) (i : Instr) (d : Reg) (f : Thread → Word) (v : Word)
    (arm : exec i s = issue c t i (divide c t d f) s) (value : ∀ e, f { s.th c t with next := e } = v) :
    s.issuesTo c t i (s.thenNext c t i (((s.atIssue c t i).putG c t d v 8).onTh c t fun x =>
      { x with next := (s.atIssue c t i).now + 32 })) := by
  refine s.issuesTo_of_body c t i _ (.seq _) arm ?_
  rw [divide, State.th_atIssue, value]

/-- ADDC and SUBC write their result and set the flags from it. -/
theorem State.issuesTo_aluFlags (s : State) (c : CoreId) (t : Thr) (i : Instr) (d : Reg) (f : Thread → Word × Bool × Bool) (r : Word)
    (b v : Bool) (arm : exec i s = issue c t i (aluFlags c t d f) s) (value : ∀ e, f { s.th c t with next := e } = (r, b, v)) :
    s.issuesTo c t i (s.thenNext c t i (((s.atIssue c t i).putG c t d r 1).onTh c t fun x => x.setFlags r b v)) := by
  refine s.issuesTo_of_body c t i _ (.seq _) arm ?_
  rw [aluFlags, State.th_atIssue, value]

/-! ### Values (03 R87; 04 R139) -/

/-- A shift amount is taken from bits 4 to 0. -/
theorem toNat_low5 (q : Word) : (q.extractLsb' 0 5).toNat = q.toNat % 32 := by
  simp [BitVec.extractLsb'_toNat]

theorem mul_eq_ofNat (p q : Word) : p * q = BitVec.ofNat 32 (p.toNat * q.toNat) := by
  apply BitVec.eq_of_toNat_eq
  rw [BitVec.toNat_mul, BitVec.toNat_ofNat]

/-- A rotation to the right by less than a word. -/
theorem rotateRight_eq (p : Word) (n : Nat) (h : n < 32) : p.rotateRight n = p >>> n ||| p <<< (32 - n) := by
  rw [BitVec.rotateRight_def, Nat.mod_eq_of_lt h]

/-- Settles O7: each operation writes what its function of the thread's registers gives; shifts, the rotation and products by their values. -/
theorem scalarResults : Obligations.ScalarResults := by
  unfold Obligations.ScalarResults
  refine ⟨fun s c t d a b => ?_, fun s c t d a b m l w => ?_⟩
  · have writes := fun i n f v => s.issuesTo_alu c t i d n f v
    exact ⟨writes _ 1 _ _ (exec_add ..) fun _ => rfl, writes _ 1 _ _ (exec_sub ..) fun _ => rfl,
      writes _ 1 _ _ (exec_and ..) fun _ => rfl, writes _ 1 _ _ (exec_or ..) fun _ => rfl,
      writes _ 1 _ _ (exec_xor ..) fun _ => rfl, writes _ 1 _ _ (exec_min ..) fun _ => rfl,
      writes _ 1 _ _ (exec_max ..) fun _ => rfl, writes _ 2 _ _ (exec_mul ..) fun _ => mul_eq_ofNat _ _,
      writes _ 2 _ _ (exec_mulh ..) fun _ => rfl, writes _ 2 _ _ (exec_mulhu ..) fun _ => rfl⟩
  · have writes := fun i f v => s.issuesTo_alu c t i d 1 f v
    dsimp only
    rw [toNat_low5]
    exact ⟨writes _ _ _ (exec_shl ..) fun _ => rfl, writes _ _ _ (exec_shr ..) fun _ => rfl,
      writes _ _ _ (exec_sar ..) fun _ => rfl,
      writes _ _ _ (exec_rot ..) fun _ => rotateRight_eq _ _ (Nat.mod_lt _ (by decide)),
      writes _ _ _ (exec_mov ..) fun _ => rfl, writes _ _ _ (exec_not ..) fun _ => rfl,
      writes _ _ _ (exec_addi ..) fun _ => rfl, writes _ _ _ (exec_movi ..) fun _ => rfl,
      writes _ _ _ (exec_movil ..) fun _ => rfl, s.issuesTo_of_body c t _ _ (.seq _) (exec_nop ..) rfl⟩

/-- Settles O8: the quotients and remainders of the model are those of 03 R88. -/
theorem divisionResults : Obligations.DivisionResults := by
  unfold Obligations.DivisionResults
  intro s c t d a b
  have divides := fun i f v => s.issuesTo_divide c t i d f v
  exact ⟨divides _ _ _ (exec_div ..) fun _ => rfl, divides _ _ _ (exec_divu ..) fun _ => rfl,
    divides _ _ _ (exec_rem ..) fun _ => rfl, divides _ _ _ (exec_remu ..) fun _ => rfl, by decide⟩

/-! ### Flags and conditions (04 R148) -/

theorem subFlags_of_no_borrow (a b : Word) : subFlags a b false =
    (a - b, decide (a.toNat < b.toNat), decide (a.toInt - b.toInt < -(2 ^ 31)) || decide (2 ^ 31 ≤ a.toInt - b.toInt)) := by
  simp [subFlags, b2n]

/-- Settles O9: each operation by its function of the thread; the conditions by the sixteen codes. -/
theorem flagsStatusAndConditions : Obligations.FlagsStatusAndConditions := by
  unfold Obligations.FlagsStatusAndConditions
  refine ⟨fun s c t d a b m cc => ?_, fun x => ?_⟩
  · have writes := fun i f v => s.issuesTo_alu c t i d 1 f v
    have both := fun i f r k v => s.issuesTo_aluFlags c t i d f r k v
    have changes := fun i f g => s.issuesTo_onTh c t i (fun _ => f) g
    refine ⟨changes _ _ _ (exec_cmp ..) fun e => ?_, changes _ _ _ (exec_cmpi ..) fun e => ?_,
      both _ _ _ _ _ (exec_addc ..) fun _ => rfl, both _ _ _ _ _ (exec_subc ..) fun _ => rfl,
      writes _ _ _ (exec_setcc ..) fun _ => rfl, writes _ _ _ (exec_mfs ..) fun _ => rfl,
      changes _ _ _ (exec_mts ..) fun _ => rfl, fun hd => ?_, ?_⟩
    · dsimp only
      rw [subFlags_of_no_borrow]; rfl
    · have imm : (m.signExtend 32).toInt = m.toInt := BitVec.toInt_signExtend_of_le (by decide)
      dsimp only
      rw [subFlags_of_no_borrow, imm]; rfl
    · exact s.issuesTo_of_body c t _ _ (.seq _) (exec_rdcyc ..) (if_neg hd)
    · exact s.issuesTo_of_body c t _ _ (.fault _ _ _ _) (exec_rdcyc ..) (if_pos rfl)
  · exact ⟨rfl, rfl, rfl, rfl, rfl, rfl, rfl, rfl, rfl, rfl, rfl, rfl, rfl, rfl, rfl⟩

end Sys2Proof.Machine

/-! SUPPORT. Loads and stores (03 R92 to R95; 04 R155; 07 R247 to R256): where they complete, where they fault and where they wait. -/

namespace Sys2Proof.Machine

/-! ### The thread in the issue cycle -/

/-- In the issue cycle the thread's record differs only in its next issue. -/
theorem State.th_core_atIssue (s : State) (c : CoreId) (t : Thr) (i : Instr) :
    ((s.atIssue c t i).core c).th t = { s.th c t with next := s.issueCyc c t i + 4 } := s.th_atIssue c t i

@[simp] theorem State.gr_atIssue (s : State) (c : CoreId) (t : Thr) (i : Instr) (r : Reg) :
    ((s.atIssue c t i).th c t).gr r = (s.th c t).gr r := by rw [State.th_atIssue]; rfl

@[simp] theorem State.dsp_atIssue (s : State) (c : CoreId) (t : Thr) (i : Instr) :
    ((s.atIssue c t i).th c t).dsp = (s.th c t).dsp := by rw [State.th_atIssue]

@[simp] theorem State.vr_atIssue (s : State) (c : CoreId) (t : Thr) (i : Instr) (r : Reg) :
    ((s.atIssue c t i).th c t).vr r = (s.th c t).vr r := by rw [State.th_atIssue]; rfl

theorem State.gr_core_atIssue (s : State) (c : CoreId) (t : Thr) (i : Instr) (r : Reg) :
    (((s.atIssue c t i).core c).th t).gr r = (s.th c t).gr r := s.gr_atIssue c t i r

theorem State.dsp_core_atIssue (s : State) (c : CoreId) (t : Thr) (i : Instr) :
    (((s.atIssue c t i).core c).th t).dsp = (s.th c t).dsp := s.dsp_atIssue c t i

theorem State.isValid_atIssue (s : State) (c d : CoreId) (t : Thr) (i : Instr) (l : Nat) :
    ((s.atIssue c t i).core d).isValid l = (s.core d).isValid l := by unfold Core.isValid; rw [State.valid_core_atIssue]

/-! ### Loads -/

/-- An access whose check finds nothing comes to what follows the check. -/
theorem State.issuesTo_checked (s : State) (c : CoreId) (t : Thr) (i : Instr) (check : State → Option Res) (rest : State → Res) (r : Res)
    (arm : exec i s = issue c t i (fun v => (check v).getD (rest v)) s) (clear : check (s.atIssue c t i) = none)
    (runs : rest (s.atIssue c t i) = r) : s.issuesTo c t i (s.after c t i r) :=
  s.issuesTo_of_body c t i _ r arm (by rw [clear, Option.getD_none, runs])

/-- An access whose check finds a fault takes its trap. -/
theorem State.issuesTo_checked_fault (s : State) (c : CoreId) (t : Thr) (i : Instr) (check : State → Option Res) (rest : State → Res)
    (code detail : Byte) (faddr : Word) (arm : exec i s = issue c t i (fun v => (check v).getD (rest v)) s)
    (found : check (s.atIssue c t i) = some (.fault (s.atIssue c t i) code detail faddr)) :
    s.issuesTo c t i (s.thenTrap c t i code detail faddr (s.atIssue c t i)) :=
  s.issuesTo_of_body c t i _ (.fault _ _ _ _) arm (by rw [found, Option.getD_some])

/-- A load whose checks find nothing, of lines that hold nothing back and words that read well, finishes in its issue. -/
theorem State.issuesTo_load (s : State) (c : CoreId) (t : Thr) (i : Instr) (check : State → Option Res) (w n : Nat) (u : State)
    (arm : exec i s = issue c t i (fun v => (check v).getD (load c t i v)) s) (clear : check (s.atIssue c t i) = none)
    (span : loadSpan ((s.atIssue c t i).th c t) i = some (w, n))
    (free : ((s.atIssue c t i).core c).heldLine (s.atIssue c t i).now w n = none)
    (sound : ∀ j, w ≤ j → j < w + n → ((s.atIssue c t i).core c).readFault j = none)
    (finish : loadFinish c t 1 i (s.atIssue c t i) = u) : s.issuesTo c t i (s.thenNext c t i u) :=
  s.issuesTo_checked c t i check _ (.seq u) arm clear (by rw [load_ok c t i _ w n span free sound, finish])

/-! ### The checks in the issue cycle, by the operands as they stood before it -/

section
variable (s : State) (c : CoreId) (t : Thr) (i : Instr) (a : Reg) (off : Option (BitVec 14))

/-- A span of words that lies in the scratchpad. -/
theorem rangeFault_atIssue_ok (n : Nat) (h : wordAddr ((s.th c t).gr a) off + n ≤ 81920) :
    rangeFault (s.atIssue c t i) (wordAddr (((s.atIssue c t i).th c t).gr a) off) n = none :=
  rangeFault_ok _ _ _ (by rw [State.gr_atIssue]; exact h)

/-- A word beyond the scratchpad. -/
theorem rangeFault_atIssue_out (h : 81920 ≤ wordAddr ((s.th c t).gr a) off) :
    rangeFault (s.atIssue c t i) (wordAddr (((s.atIssue c t i).th c t).gr a) off) 1 =
      some (.fault (s.atIssue c t i) 0x03 0 (BitVec.ofNat 32 (4 * wordAddr ((s.th c t).gr a) off))) := by
  rw [State.gr_atIssue, rangeFault_out _ _ _ (Nat.lt_succ_of_le h), show Nat.max _ spWords = _ from Nat.max_eq_left h]

/-- A byte in the scratchpad, of a half-word an even one. -/
theorem subFault_atIssue_ok (half : Bool) (h : byteAddr ((s.th c t).gr a) off / 4 < 81920)
    (even : half = true → byteAddr ((s.th c t).gr a) off % 2 = 0) :
    subFault (s.atIssue c t i) (byteAddr (((s.atIssue c t i).th c t).gr a) off) half = none := by
  rw [State.gr_atIssue]; exact subFault_ok _ _ _ h even

/-- An odd byte of a half-word. -/
theorem subFault_atIssue_odd (h : byteAddr ((s.th c t).gr a) off < 327680) (odd : byteAddr ((s.th c t).gr a) off % 2 = 1) :
    subFault (s.atIssue c t i) (byteAddr (((s.atIssue c t i).th c t).gr a) off) true =
      some (.fault (s.atIssue c t i) 0x04 0 (BitVec.ofNat 32 (byteAddr ((s.th c t).gr a) off))) := by
  have inside : ¬ 81920 ≤ byteAddr ((s.th c t).gr a) off / 4 := by omega
  rw [State.gr_atIssue, subFault, if_neg inside, if_pos (by rw [odd]; rfl)]

/-- A word of the data stack below DSHI. -/
theorem stackFault_atIssue_ok (w : Nat) (hi : w < (s.core c).dshi t) (h : w < 81920) : stackFault c t (s.atIssue c t i) w = none :=
  stackFault_ok _ _ _ _ (by rw [State.dshi_atIssue]; exact hi) h

/-- A word of the data stack at or above DSHI. -/
theorem stackFault_atIssue_under (w : Nat) (hi : (s.core c).dshi t ≤ w) :
    stackFault c t (s.atIssue c t i) w = some (.fault (s.atIssue c t i) 0x08 1 (BitVec.ofNat 32 (w % 2 ^ 17))) :=
  if_pos (by rw [State.dshi_atIssue]; exact hi)

end

/-- Settles O10: each load by the span it reads, the check that it passes, and what it does with the words. -/
theorem loadsReadTheScratchpad : Obligations.LoadsReadTheScratchpad := by
  unfold Obligations.LoadsReadTheScratchpad
  intro s c t d a off m
  dsimp only
  have loads := fun i check w n u => s.issuesTo_load c t i check w n u
  have inRange := rangeFault_atIssue_ok s c t
  have inSub := fun i => subFault_atIssue_ok s c t i a off
  have inStack := stackFault_atIssue_ok s c t
  refine ⟨fun ⟨range, free, sound⟩ => ?_, fun even ⟨range, free, sound⟩ => ?_, fun even ⟨range, free, sound⟩ => ?_,
    fun ⟨range, free, sound⟩ => ?_, fun ⟨range, free, sound⟩ => ?_, fun hi ⟨range, free, sound⟩ => ?_,
    fun hi ⟨range, free, sound⟩ => ?_, fun ⟨range, free, sound⟩ => ?_, fun ⟨range, free, sound⟩ => ?_⟩
  · exact loads _ _ _ _ _ (exec_ldw ..) (inRange _ a off 1 range) (by simp [loadSpan]) free sound
      (by simp only [loadFinish, State.gr_core_atIssue])
  · exact loads _ _ _ _ _ (exec_ldh ..) (inSub _ true range fun _ => even) (by simp [loadSpan]) free sound
      (by simp only [loadFinish, State.gr_core_atIssue])
  · exact loads _ _ _ _ _ (exec_ldhu ..) (inSub _ true range fun _ => even) (by simp [loadSpan]) free sound
      (by simp only [loadFinish, State.gr_core_atIssue])
  · exact loads _ _ _ _ _ (exec_ldb ..) (inSub _ false range fun h => Bool.noConfusion h) (by simp [loadSpan]) free sound
      (by simp only [loadFinish, State.gr_core_atIssue])
  · exact loads _ _ _ _ _ (exec_ldbu ..) (inSub _ false range fun h => Bool.noConfusion h) (by simp [loadSpan]) free sound
      (by simp only [loadFinish, State.gr_core_atIssue])
  · exact loads _ _ _ _ _ (exec_lds ..) (by rw [State.dsp_atIssue]; exact inStack _ _ hi range) (by simp [loadSpan]) free sound
      (by simp only [loadFinish, State.dsp_core_atIssue])
  · refine loads _ _ _ _ _ (exec_pop ..) (by rw [State.dsp_atIssue]; exact inStack _ _ hi range) (by simp [loadSpan]) free sound ?_
    simp only [loadFinish, State.dsp_core_atIssue]
    exact State.onTh_congr _ _ _ _ _ (by simp [State.putG, Thread.setG])
  · exact loads _ _ _ _ _ (exec_vld ..) (inRange _ a (some m) 16 range) (by simp [loadSpan]) free sound
      (by simp only [loadFinish, State.gr_core_atIssue])
  · exact loads _ _ _ _ _ (exec_vldbc ..) (inRange _ a (some m) 1 range) (by simp [loadSpan]) free sound
      (by simp only [loadFinish, State.gr_core_atIssue])

/-! ### Stores -/

/-- Settles O11: each store by the check that it passes and the bytes that it writes; CONSUME by the line that it finds. -/
theorem storesWriteTheScratchpad : Obligations.StoresWriteTheScratchpad := by
  unfold Obligations.StoresWriteTheScratchpad
  intro s c t g a off m
  dsimp only
  have stores := fun i check rest u => s.issuesTo_checked c t i check rest (.seq u)
  refine ⟨fun inside => ?_, fun inside even reads => ?_, fun inside reads => ?_, fun hi inside => ?_, fun lo inside => ?_, fun inside => ?_,
    fun n region valid notNow => ?_⟩
  · exact stores _ _ _ _ (exec_stw ..) (rangeFault_atIssue_ok s c t _ a off 1 inside) (by simp only [State.gr_atIssue])
  · refine stores _ _ _ _ (exec_sth ..) (subFault_atIssue_ok s c t _ a off true (by omega) fun _ => even) ?_
    simp only [State.gr_atIssue]
    exact storeBytes_ok c t _ 2 _ _ reads
  · refine stores _ _ _ _ (exec_stb ..) (subFault_atIssue_ok s c t _ a off false (by omega) fun h => Bool.noConfusion h) ?_
    simp only [State.gr_atIssue]
    exact storeBytes_ok c t _ 1 _ _ reads
  · refine stores _ _ _ _ (exec_sts ..) ?_ (by simp only [State.gr_atIssue, State.dsp_atIssue])
    rw [State.dsp_atIssue]
    exact stackFault_atIssue_ok s c t _ _ hi inside
  · refine s.issuesTo_of_body c t _ _ (.seq _) (exec_push ..) ?_
    have below : ¬ (s.th c t).dsp.toNat < ((s.atIssue c t (.push c t g)).core c).dslo t + 1 := by rw [State.dslo_atIssue]; omega
    dsimp only
    rw [State.dsp_atIssue, State.gr_atIssue, if_neg below, rangeFault_ok _ _ _ (show _ + 1 ≤ 81920 by omega), Option.getD_none]
    exact congrArg Res.seq (State.onTh_congr _ _ _ _ _ (by simp [State.th_core_atIssue]))
  · exact stores _ _ _ _ (exec_vst ..) (rangeFault_atIssue_ok s c t _ a (some m) 16 inside)
      (by simp only [State.gr_atIssue, State.vr_atIssue, lineOf])
  · refine s.issuesTo_of_body c t _ _ (.seq _) (exec_consume ..) ?_
    have line : lineOf (wordAddr (((s.atIssue c t (.consume c t a)).th c t).gr a) none) = wordAddr ((s.th c t).gr a) none / 16 := by
      rw [State.gr_atIssue]; rfl
    have valid' : ((s.atIssue c t (.consume c t a)).core c).isValid (wordAddr ((s.th c t).gr a) none / 16) = true := by
      rw [State.isValid_atIssue]; exact valid
    dsimp only
    rw [line, State.regionOf_atIssue, region]
    dsimp only
    rw [valid', notNow]
    rfl

/-! ### Where an access does not complete -/

/-- Settles O13: faults by the check that finds them, those of words and the wait by what the load finds. -/
theorem accessFaultsAndGuardWaits : Obligations.AccessFaultsAndGuardWaits := by
  unfold Obligations.AccessFaultsAndGuardWaits
  intro s c t d a off
  dsimp only
  have faults := fun i check rest => s.issuesTo_checked_fault c t i check rest
  have loads := fun r => s.issuesTo_checked c t (.ldw c t d a off) _ _ r (exec_ldw ..)
  have span : loadSpan ((s.atIssue c t (.ldw c t d a off)).th c t) (.ldw c t d a off) = some (wordAddr ((s.th c t).gr a) off, 1) := by
    simp [loadSpan]
  refine ⟨fun out => ?_, fun out => ?_, fun inside odd => ?_, fun inside odd => ?_, fun hi => ?_, fun lo => ?_,
    fun inside free f bad => ?_, fun inside l held => ?_⟩
  · exact faults _ _ _ _ _ _ (exec_ldw ..) (rangeFault_atIssue_out s c t _ a off out)
  · exact faults _ _ _ _ _ _ (exec_stw ..) (rangeFault_atIssue_out s c t _ a off out)
  · exact faults _ _ _ _ _ _ (exec_ldh ..) (subFault_atIssue_odd s c t _ a off inside odd)
  · exact faults _ _ _ _ _ _ (exec_sth ..) (subFault_atIssue_odd s c t _ a off inside odd)
  · refine faults _ _ _ _ _ _ (exec_pop ..) ?_
    have wraps : BitVec.ofNat 32 ((s.th c t).dsp.toNat % 2 ^ 17) = (s.th c t).dsp.zeroExtend 32 := by
      rw [Nat.mod_eq_of_lt (s.th c t).dsp.isLt]; exact BitVec.ofNat_toNat _ _
    rw [State.dsp_atIssue, stackFault_atIssue_under s c t _ _ hi, wraps]
  · refine s.issuesTo_of_body c t _ _ (.fault _ _ _ _) (exec_push ..) ?_
    dsimp only
    rw [State.dsp_atIssue, if_pos (by rw [State.dslo_atIssue]; omega)]
  · exact loads (.fault _ _ _ _) (rangeFault_atIssue_ok s c t _ a off 1 inside) (load_bad c t _ _ _ f span free bad)
  · exact loads (.wait _ _ _) (rangeFault_atIssue_ok s c t _ a off 1 inside) (load_waits c t _ _ _ 1 l span held)

end Sys2Proof.Machine

/-! SUPPORT. Hardware loops (03 R98 to R101): LOOP and LBRK, and the loop-back at the end of a body. -/

namespace Sys2Proof.Machine

@[simp] theorem State.st_atIssue (s : State) (c : CoreId) (t : Thr) (i : Instr) (n : Nat) :
    ((s.atIssue c t i).th c t).st n = (s.th c t).st n := by rw [State.th_atIssue]; rfl

@[simp] theorem State.pc_atIssue (s : State) (c : CoreId) (t : Thr) (i : Instr) :
    ((s.atIssue c t i).th c t).pc = (s.th c t).pc := by rw [State.th_atIssue]

/-! ### LOOP and LBRK -/

/-- What LOOP comes to, by the thread's status word, address and count as they stood before its issue. -/
theorem State.issuesTo_loop (s : State) (c : CoreId) (t : Thr) (lv : BitVec 2) (g : Reg) (e : BitVec 15) (r : Res)
    (branch : (let x := s.th c t
      let u := s.atIssue c t (.loop c t lv g e)
      if x.st 4 then Res.fault u 0x09 2 (lv.zeroExtend 32)
      else if x.st (16 + lv.toNat) then .fault u 0x09 0 (lv.zeroExtend 32)
      else if e.toNat < (x.pc + 2).toNat then .fault u 0x09 1 (lv.zeroExtend 32)
      else if x.gr g = 0 then
        .jump (u.onTh c t fun y => { y with next := u.now + 8 }) (e + 1 + BitVec.ofNat 15 (nExt (pmGet (s.core c).pm e)))
      else
        .seq (u.onTh c t fun y =>
          ({ y with
            ls := SMap.set (fun _ => 0) x.ls lv.toNat (x.pc + 2)
            le := SMap.set (fun _ => 0) x.le lv.toNat e
            lc := SMap.set (fun _ => 0) x.lc lv.toNat (x.gr g) }).setSt (16 + lv.toNat) true)) = r) :
    s.issuesTo c t (.loop c t lv g e) (s.after c t (.loop c t lv g e) r) := by
  refine s.issuesTo_of_body c t _ _ r (exec_loop ..) (Eq.trans ?_ branch)
  dsimp only
  rw [State.st_atIssue, State.st_atIssue, State.pc_atIssue, State.gr_atIssue, State.pm_core_atIssue]
  congr 4
  exact congrArg Res.seq (State.onTh_congr _ _ _ _ _ (by rw [State.th_atIssue]; rfl))

/-! ### The loop-back (03 R99) -/

/-- Levels that are inactive or end elsewhere are passed over. -/
theorem Thread.loopEndGo_skips (a nxt : BitVec 15) (x : Thread) (lo n : Nat) (hlo : lo ≤ n)
    (h : ∀ m, lo ≤ m → m < n → x.st (16 + m) = false ∨ SMap.get (fun _ => 0) x.le m ≠ a) :
    Thread.loopEnd.go a nxt x n = Thread.loopEnd.go a nxt x lo := by
  induction n, hlo using Nat.le_induction with
  | base => rfl
  | succ n hn ih =>
    rw [Thread.loopEnd_skip a nxt x n (h n hn (Nat.lt_succ_self n))]
    exact ih fun m hm hmn => h m hm (Nat.lt_succ_of_lt hmn)

/-- Where the levels above `lv` do not end here, the loop-end check comes to `lv`. -/
theorem Thread.loopEnd_reaches (x : Thread) (a : BitVec 15) (n lv : Nat) (hlv : lv < 4) (noHandler : x.st 4 = false)
    (others : ∀ m, m < 4 → m ≠ lv → x.st (16 + m) = false ∨ SMap.get (fun _ => 0) x.le m ≠ a) :
    x.loopEnd a n = Thread.loopEnd.go a (a + BitVec.ofNat 15 n) x (lv + 1) := by
  unfold Thread.loopEnd
  dsimp only
  rw [if_neg (by rw [noHandler]; decide)]
  exact Thread.loopEndGo_skips a _ x (lv + 1) 4 hlv fun m hm h4 => others m h4 (by omega)

/-- Outside a handler, where one active level alone ends here, a count above 1 loops back to its start. -/
theorem Thread.loopEnd_loops_back (x : Thread) (a : BitVec 15) (n lv : Nat) (hlv : lv < 4) (noHandler : x.st 4 = false)
    (active : x.st (16 + lv) = true) (ends : SMap.get (fun _ => 0) x.le lv = a)
    (others : ∀ m, m < 4 → m ≠ lv → x.st (16 + m) = false ∨ SMap.get (fun _ => 0) x.le m ≠ a)
    (count : 1 < (SMap.get (fun _ => (0 : Word)) x.lc lv).toNat) :
    x.loopEnd a n =
      { x with lc := SMap.set (fun _ => 0) x.lc lv (SMap.get (fun _ => (0 : Word)) x.lc lv - 1), pc := SMap.get (fun _ => 0) x.ls lv } :=
  (x.loopEnd_reaches a n lv hlv noHandler others).trans (Thread.loopEnd_back a _ x lv active ends count)

/-- With a count of 1 or 0 the level ends, and the next instruction follows. -/
theorem Thread.loopEnd_ends (x : Thread) (a : BitVec 15) (n lv : Nat) (hlv : lv < 4) (noHandler : x.st 4 = false)
    (active : x.st (16 + lv) = true) (ends : SMap.get (fun _ => 0) x.le lv = a)
    (others : ∀ m, m < 4 → m ≠ lv → x.st (16 + m) = false ∨ SMap.get (fun _ => 0) x.le m ≠ a)
    (count : (SMap.get (fun _ => (0 : Word)) x.lc lv).toNat ≤ 1) :
    x.loopEnd a n =
      { ({ x with lc := SMap.set (fun _ => 0) x.lc lv 0 } : Thread).setSt (16 + lv) false with pc := a + BitVec.ofNat 15 n } := by
  rw [x.loopEnd_reaches a n lv hlv noHandler others, Thread.loopEnd_over a _ x lv active ends (Nat.not_lt.mpr count)]
  refine Thread.loopEndGo_skips a _ _ 0 lv (Nat.zero_le _) fun m _ hm => ?_
  have other : 16 + lv ≠ 16 + m := by omega
  rw [Thread.st_setSt _ _ _ _ (by omega) (by omega), if_neg other]
  exact others m (by omega) (by omega)

/-- Settles O15: LOOP by the branches of its execution, LBRK by its fold over the levels, the loop-back by the one level that ends. -/
theorem loopsRunAndEnd : Obligations.LoopsRunAndEnd := by
  unfold Obligations.LoopsRunAndEnd
  refine ⟨fun s c t lv g e => ?_, fun x a n lv noHandler active ends others => ?_⟩
  · have clear : ∀ {b : Bool}, b = false → ¬ b = true := fun h => by rw [h]; decide
    have loops := s.issuesTo_loop c t lv g e
    exact
      ⟨fun ⟨noHandler, free, fits⟩ count => loops (.seq _) ((if_neg (clear noHandler)).trans ((if_neg (clear free)).trans
          ((if_neg (Nat.not_lt.mpr fits)).trans (if_neg count)))),
        fun ⟨noHandler, free, fits⟩ count => loops (.jump _ _) ((if_neg (clear noHandler)).trans ((if_neg (clear free)).trans
          ((if_neg (Nat.not_lt.mpr fits)).trans (if_pos count)))),
        fun handler => loops (.fault _ _ _ _) (if_pos handler),
        fun noHandler used => loops (.fault _ _ _ _) ((if_neg (clear noHandler)).trans (if_pos used)),
        fun noHandler free short => loops (.fault _ _ _ _) ((if_neg (clear noHandler)).trans ((if_neg (clear free)).trans (if_pos short))),
        s.issuesTo_of_body c t _ _ (.seq _) (exec_lbrk ..) rfl⟩
  · have hlv : lv.toNat < 4 := lv.isLt
    have others' : ∀ m, m < 4 → m ≠ lv.toNat → x.st (16 + m) = false ∨ SMap.get (fun _ => 0) x.le m ≠ a := fun m h4 hm => by
      have level : (BitVec.ofNat 2 m).toNat = m := Nat.mod_eq_of_lt h4
      have := others (BitVec.ofNat 2 m) fun e => hm (by rw [← e, level])
      rwa [level] at this
    refine ⟨fun count => ?_, fun count => ?_⟩
    · rw [x.loopEnd_loops_back a n lv.toNat hlv noHandler active ends others' count]
      exact ⟨rfl, SMap.get_set_same _ _ _ _, active⟩
    · rw [x.loopEnd_ends a n lv.toNat hlv noHandler active ends others' count]
      exact ⟨rfl, (Thread.st_setSt _ _ _ _ (by omega) (by omega)).trans (if_pos rfl)⟩

end Sys2Proof.Machine

/-! SUPPORT. Locks, siblings and fault reports (03 R111, R116, R117, R120, R129). -/

namespace Sys2Proof.Machine

/-! ### Locks -/

@[simp] theorem State.lock_atIssue (s : State) (c d : CoreId) (t : Thr) (i : Instr) (n : BitVec 4) :
    ((s.atIssue c t i).core d).lock n = (s.core d).lock n := by
  unfold Core.lock; rw [State.w_atIssue _ _ _ _ _ _ (by decide)]

@[simp] theorem State.lockOwner_atIssue (s : State) (c d : CoreId) (t : Thr) (i : Instr) (n : BitVec 4) :
    ((s.atIssue c t i).core d).lockOwner n = (s.core d).lockOwner n := by
  unfold Core.lockOwner; rw [State.w_atIssue _ _ _ _ _ _ (by decide)]

/-- What LOCK and TRYLOCK come to, where `busy` is what they do with a lock that another thread holds. -/
def lockOutcome (k : Core) (c : CoreId) (t : Thr) (g : Reg) (n : BitVec 4) (busy : Res) (u : State) : Res :=
  if k.lock n = lockFree then .seq ((u.onCore c fun k => k.setLock n lockHeld t).putG c t g 0 1)
  else if k.lock n = lockAbandoned then .seq (u.putG c t g 2 1)
  else if k.lockOwner n = t then lockFault u 1 n
  else busy

section
variable (k : Core) (c : CoreId) (t : Thr) (g : Reg) (n : BitVec 4) (busy : Res) (u : State)

theorem lockOutcome_free (h : k.lock n = 0) :
    lockOutcome k c t g n busy u = .seq ((u.onCore c fun k => k.setLock n 1 t).putG c t g 0 1) := if_pos h

theorem lockOutcome_abandoned (h : k.lock n = 2) : lockOutcome k c t g n busy u = .seq (u.putG c t g 2 1) := by
  rw [lockOutcome, if_neg (by rw [h]; decide), if_pos h]

theorem lockOutcome_own (h : k.lock n = 1) (own : k.lockOwner n = t) :
    lockOutcome k c t g n busy u = .fault u 0x0A 1 (n.zeroExtend 32) := by
  rw [lockOutcome, if_neg (by rw [h]; decide), if_neg (by rw [h]; decide), if_pos own, lockFault]

theorem lockOutcome_busy (h : k.lock n = 1) (other : k.lockOwner n ≠ t) : lockOutcome k c t g n busy u = busy := by
  rw [lockOutcome, if_neg (by rw [h]; decide), if_neg (by rw [h]; decide), if_neg other]

end

/-- LOCK, where the lock is another's, waits with the lock's other waiters, or with TF set completes at once. -/
def lockWaits (x : Thread) (c : CoreId) (t : Thr) (g : Reg) (n : BitVec 4) (u : State) : Res :=
  if x.st 5 then .seq ((u.onTh c t fun x => x.setSt 5 false).putG c t g 1 1)
  else .wait (u.onCore c fun k => k.setWaiters n (k.waiters n ++ [t])) 3 n.toNat

theorem State.issuesTo_lock (s : State) (c : CoreId) (t : Thr) (g : Reg) (n : BitVec 4) (r : Res)
    (outcome : lockOutcome (s.core c) c t g n (lockWaits (s.th c t) c t g n (s.atIssue c t (.lock c t g n)))
      (s.atIssue c t (.lock c t g n)) = r) :
    s.issuesTo c t (.lock c t g n) (s.after c t (.lock c t g n) r) := by
  refine s.issuesTo_of_body c t _ _ r (exec_lock ..) (Eq.trans ?_ outcome)
  dsimp only
  rw [State.lock_atIssue, State.lockOwner_atIssue, waitOn, State.st_atIssue]
  unfold lockOutcome lockWaits
  congr 3
  cases (s.th c t).st 5 <;> rfl

theorem State.issuesTo_trylock (s : State) (c : CoreId) (t : Thr) (g : Reg) (n : BitVec 4) (r : Res)
    (outcome : lockOutcome (s.core c) c t g n (.seq ((s.atIssue c t (.trylock c t g n)).putG c t g 3 1))
      (s.atIssue c t (.trylock c t g n)) = r) :
    s.issuesTo c t (.trylock c t g n) (s.after c t (.trylock c t g n) r) := by
  refine s.issuesTo_of_body c t _ _ r (exec_trylock ..) (Eq.trans ?_ outcome)
  dsimp only
  rw [State.lock_atIssue, State.lockOwner_atIssue]
  rfl

/-- Settles O18: LOCK and TRYLOCK by what they find of the lock, UNLOCK by whether the thread owns it. -/
theorem locksAreTakenAndReleased : Obligations.LocksAreTakenAndReleased := by
  unfold Obligations.LocksAreTakenAndReleased
  intro s c t g n
  have lock := s.issuesTo_lock c t g n
  have trylock := s.issuesTo_trylock c t g n
  refine ⟨fun free => lock (.seq _) (lockOutcome_free _ c t g n _ _ free), fun free => trylock (.seq _) (lockOutcome_free _ c t g n _ _ free),
    fun left => lock (.seq _) (lockOutcome_abandoned _ c t g n _ _ left), fun left => trylock (.seq _) (lockOutcome_abandoned _ c t g n _ _ left),
    fun held own => lock (.fault _ _ _ _) (lockOutcome_own _ c t g n _ _ held own),
    fun held own => trylock (.fault _ _ _ _) (lockOutcome_own _ c t g n _ _ held own),
    fun held other => trylock (.seq _) (lockOutcome_busy _ c t g n _ _ held other), fun held other noTimer => lock (.wait _ _ _) ?_,
    fun held other timer => lock (.seq _) ?_, fun held own => ?_, fun notOwn => ?_⟩
  · exact (lockOutcome_busy _ c t g n _ _ held other).trans (if_neg (Bool.eq_false_iff.mp noTimer))
  · exact (lockOutcome_busy _ c t g n _ _ held other).trans (if_pos timer)
  · refine s.issuesTo_of_body c t _ _ (.seq _) (exec_unlock ..) (if_pos ?_)
    exact ⟨(s.lock_atIssue c c t _ n).trans held, (s.lockOwner_atIssue c c t _ n).trans own⟩
  · refine s.issuesTo_of_body c t _ _ (.fault _ _ _ _) (exec_unlock ..) (if_neg ?_)
    rw [State.lock_atIssue, State.lockOwner_atIssue]
    rintro ⟨held, own⟩
    exact notOwn.elim (fun h => h held) fun h => h own

/-! ### Siblings (03 R120) -/

/-- A thread that a start may put in RUN. -/
theorem Core.th_startThread (k : Core) (t : Thr) (pc : BitVec 15) (d : Count) (h : (k.th t).state = .idle ∨ (k.th t).state = .halted) :
    (k.startThread t pc d).th t =
      { k.th t with state := .run, pc := pc, next := d, sas := bit (k.fld F.CORE_DBGCFG_SAS) t.toNat } := by
  rw [Core.startThread, Core.th_onTh_same, if_pos h]

/-- Any other is left as it is. -/
theorem Core.th_startThread_other (k : Core) (t : Thr) (pc : BitVec 15) (d : Count)
    (h : ¬ ((k.th t).state = .idle ∨ (k.th t).state = .halted)) : (k.startThread t pc d).th t = k.th t := by
  rw [Core.startThread, Core.th_onTh_same, if_neg h]

/-- No thread of the module changes its state until its instruction executes. -/
theorem State.state_atIssue (s : State) (c : CoreId) (t u : Thr) (i : Instr) : ((s.atIssue c t i).th c u).state = (s.th c u).state := by
  by_cases h : u = t
  · rw [h, State.th_atIssue]
  · rw [State.th_atIssue_other _ _ _ _ _ _ (.inr h)]

/-- THSTART starts the named thread where it may, and sets Z to whether it has. -/
theorem State.issuesTo_thstart (s : State) (c : CoreId) (t u : Thr) (r : Reg) (z : Bool)
    (h : z = true ↔ (s.th c u).state = .idle ∨ (s.th c u).state = .halted) :
    s.issuesTo c t (.thstart c t u r) (s.thenNext c t (.thstart c t u r) (((s.atIssue c t (.thstart c t u r)).onCore c fun y =>
      y.startThread u (((s.th c t).gr r).truncate 15) ((s.atIssue c t (.thstart c t u r)).now + 4)).onTh c t fun y => y.setSt 0 z)) := by
  refine s.issuesTo_of_body c t _ _ (.seq _) (exec_thstart ..) ?_
  have started : ((s.th c u).state == .idle || (s.th c u).state == .halted) = z := by
    rw [Bool.eq_iff_iff, h, Bool.or_eq_true, beq_iff_eq, beq_iff_eq]
  dsimp only
  rw [State.state_atIssue, State.gr_atIssue, started]

/-- RDFS takes the oldest fault report; bit 31 says that there was none, bit 30 that one was lost. -/
theorem State.issuesTo_rdfs (s : State) (c : CoreId) (t : Thr) (r : Reg) (rest : List CoreId) (v : Word)
    (taken : (s.core c).fsq.drop 1 = rest)
    (value : BitVec.ofNat 32 (b2n (s.core c).fsq.isEmpty <<< 31 + b2n (s.core c).fsqOvf <<< 30 +
      (((s.core c).fsq.head?.map BitVec.toNat).getD 0)) = v) :
    s.issuesTo c t (.rdfs c t r) (s.thenNext c t (.rdfs c t r) (((s.atIssue c t (.rdfs c t r)).onCore c fun k =>
      ({ k with fsq := rest, fsqOvf := false } : Core).hwFlags c (s.atIssue c t (.rdfs c t r)).now k.flagWord).putG c t r v 1)) := by
  refine s.issuesTo_of_body c t _ _ (.seq _) (exec_rdfs ..) ?_
  dsimp only
  rw [State.fsq_core_atIssue, State.fsqOvf_core_atIssue, taken, value]
  rfl

/-- Settles O19: THRST by whether it names its own thread, THSTART by the state of the thread it names, RDFS by whether a report waits. -/
theorem siblingsAndFaultReports : Obligations.SiblingsAndFaultReports := by
  unfold Obligations.SiblingsAndFaultReports
  intro s c t u r h rest
  have bit30 : ∀ b : Bool, b2n b <<< 30 = if b then 2 ^ 30 else 0 := by decide
  refine ⟨fun other => s.issuesTo_of_body c t _ _ (.seq _) (exec_thrst ..) (if_neg other),
    s.issuesTo_of_body c t _ _ (.fault _ _ _ _) (exec_thrst ..) (if_pos rfl),
    fun _ startable => s.issuesTo_thstart c t u r true ⟨fun _ => startable, fun _ => rfl⟩,
    fun not => s.issuesTo_thstart c t u r false ⟨fun e => Bool.noConfusion e, fun startable => absurd startable not⟩,
    fun not pc d => (s.core c).th_startThread_other u pc d not, fun queue => s.issuesTo_rdfs c t r rest _ ?_ ?_,
    fun queue => s.issuesTo_rdfs c t r [] _ ?_ ?_⟩
  · rw [queue]; rfl
  · rw [queue, bit30]; simp [b2n]
  · rw [queue]; rfl
  · rw [queue, bit30]; simp [b2n]

end Sys2Proof.Machine

/-! SUPPORT. Resets, trap entry, double faults and the return from a trap (03 R119, R122 to R128). -/

namespace Sys2Proof.Machine

/-! ### A core reset (03 R119) -/

/-- A key that no entry lists reads its default, whatever the order of the entries. -/
theorem get_of_unlisted {α : Type} (d : Nat → α) (m : SMap α) (k : Nat) (h : ∀ x ∈ m, x.1 ≠ k) : SMap.get d m k = d k := by
  induction m with
  | nil => rfl
  | cons p m ih =>
    rw [SMap.get, if_neg (h p (by simp)), ih fun x hx => h x (by simp [hx])]
    exact ite_self _

/-- The end of a core reset clears registers and writes none. -/
theorem State.finishReset_win (s : State) (c : CoreId) (x : Nat × Word) (h : x ∈ ((s.finishReset c).core c).win) : x ∈ (s.core c).win := by
  unfold State.finishReset at h
  dsimp only at h
  split at h
  · exact h
  · rw [State.core_setCore_same] at h
    split at h
    · exact List.mem_of_mem_filter (List.mem_of_mem_filter h)
    · exact List.mem_of_mem_filter h

theorem State.finishReset_lockq (s : State) (c : CoreId) : ((s.finishReset c).core c).lockq = (s.core c).lockq := by
  unfold State.finishReset
  dsimp only
  split
  · rfl
  · rw [State.core_setCore_same]; split <;> rfl

/-- A core reset keeps no register but MESH_FHDR and the message routes. -/
theorem State.resetCore_win (s : State) (c : CoreId) (x : Nat × Word) (h : x ∈ ((s.resetCore c).core c).win) :
    x.1 = R.MESH_FHDR ∨ (0x880 ≤ x.1 ∧ x.1 < 0x8A0) := by
  have kept := State.finishReset_win _ c x h
  rw [State.core_setCore_same] at kept
  simpa using (List.mem_filter.mp kept).2

theorem State.resetCore_lockq (s : State) (c : CoreId) : ((s.resetCore c).core c).lockq = [] := by
  unfold State.resetCore
  dsimp only
  rw [State.finishReset_lockq, State.core_setCore_same]; rfl

/-- Settles O20: the lock registers return to their reset word, in which every lock is FREE, and no waiter is listed. -/
theorem coreResetFreesLocks : Obligations.CoreResetFreesLocks := by
  unfold Obligations.CoreResetFreesLocks
  intro s c n
  have states : ((s.resetCore c).core c).w R.CORE_LOCK_STATE = 0 := by
    refine (get_of_unlisted winReset _ _ fun x hx e => ?_).trans (by decide)
    have := s.resetCore_win c x hx
    rw [e] at this
    exact absurd this (by decide)
  refine ⟨?_, ?_⟩
  · unfold Core.lock
    rw [states]
    simp [bits]
  · unfold Core.waiters
    rw [State.resetCore_lockq]; rfl

/-! ### Trap entry (03 R122) -/

/-- CAUSE after a trap outside a handler: the code, the detail, and VALID. -/
theorem cause_fields (code detail : Byte) :
    let v := 0x80000000#32 ||| (detail.zeroExtend 32 <<< 8) ||| code.zeroExtend 32
    v.extractLsb' 0 8 = code ∧ v.extractLsb' 8 8 = detail ∧ v.extractLsb' 16 16 = 0x8000 := by
  refine ⟨?_, ?_, ?_⟩ <;> refine BitVec.eq_of_getLsbD_eq fun i hi => ?_
  · simp only [BitVec.getLsbD_extractLsb', BitVec.getLsbD_or, BitVec.getLsbD_shiftLeft, BitVec.getLsbD_setWidth]
    interval_cases i <;> simp
  · simp only [BitVec.getLsbD_extractLsb', BitVec.getLsbD_or, BitVec.getLsbD_shiftLeft, BitVec.getLsbD_setWidth]
    interval_cases i <;> simp
  · simp only [BitVec.getLsbD_extractLsb', BitVec.getLsbD_or, BitVec.getLsbD_shiftLeft, BitVec.getLsbD_setWidth]
    interval_cases i <;> simp [BitVec.getLsbD_of_ge]

/-- CAUSE after a double fault: the first fault's CODE, detail and VALID, the second code, and DOUBLE. -/
theorem cause_double_fields (w : Word) (code : Byte) :
    let v := (w &&& 0xBF00FFFF#32) ||| 0x40000000#32 ||| (code.zeroExtend 32 <<< 16)
    v.extractLsb' 0 16 = w.extractLsb' 0 16 ∧ v.extractLsb' 16 8 = code ∧ v.getLsbD 30 = true ∧ v.getLsbD 31 = w.getLsbD 31 := by
  refine ⟨BitVec.eq_of_getLsbD_eq fun i hi => ?_, BitVec.eq_of_getLsbD_eq fun i hi => ?_, ?_, ?_⟩
  · simp only [BitVec.getLsbD_extractLsb', BitVec.getLsbD_or, BitVec.getLsbD_and, BitVec.getLsbD_shiftLeft, BitVec.getLsbD_setWidth]
    interval_cases i <;> simp
  · simp only [BitVec.getLsbD_extractLsb', BitVec.getLsbD_or, BitVec.getLsbD_and, BitVec.getLsbD_shiftLeft, BitVec.getLsbD_setWidth]
    interval_cases i <;> simp
  · simp
  · simp [BitVec.getLsbD_of_ge]

/-- A thread outside a handler enters its handler. -/
theorem Thread.trap_enters (x : Thread) (tvec : BitVec 15) (now : Count) (a : BitVec 15) (code detail : Byte) (faddr : Word)
    (h : x.st 4 = false) :
    x.trap tvec now a code detail faddr =
      { x.setSt 4 true with
        waiting := none, wake := none, waiton := 0, wcount := 0, stalled := false, aside := false, waits := false
        state := .run, epc := a, cause := 0x80000000#32 ||| (detail.zeroExtend 32 <<< 8) ||| code.zeroExtend 32, faddr := faddr
        pc := tvec, next := now + 5 } :=
  if_neg (Bool.eq_false_iff.mp h)

/-- A thread in a handler stops. -/
theorem Thread.trap_stops (x : Thread) (tvec : BitVec 15) (now : Count) (a : BitVec 15) (code detail : Byte) (faddr : Word)
    (h : x.st 4 = true) :
    x.trap tvec now a code detail faddr =
      { x with
        waiting := none, wake := none, waiton := 0, wcount := 0, stalled := false, aside := false, waits := false
        state := .stopped, pc := a, step := 0
        cause := (x.cause &&& 0xBF00FFFF#32) ||| 0x40000000#32 ||| (code.zeroExtend 32 <<< 16) } :=
  if_pos h

/-- The thread after trap entry outside a handler. -/
theorem State.th_takeTrap (s : State) (c : CoreId) (t : Thr) (a : BitVec 15) (code detail : Byte) (faddr : Word)
    (h : (s.th c t).st 4 = false) :
    (s.takeTrap c t a code detail faddr).th c t = (s.th c t).trap ((s.core c).tvec t) s.now a code detail faddr := by
  rw [State.takeTrap_eq s c t a code detail faddr h]
  simp [State.trace]

/-! ### The return from a trap (03 R125) -/

theorem State.epc_atIssue (s : State) (c : CoreId) (t : Thr) (i : Instr) :
    ((s.atIssue c t i).th c t).epc = (s.th c t).epc := by rw [State.th_atIssue]

/-- Where no matrix instruction of the thread is held at EPC, RTE finds none to resume. -/
theorem find_held_at_epc (es : List TEntry) (t : Thr) (epc : BitVec 15) (h : ∀ e ∈ es, e.held = true → e.thr = t → e.pc ≠ epc) :
    (es.filter fun e => e.held && e.thr == t).find? (fun e => e.pc == epc) = none := by
  rw [List.find?_eq_none]
  intro e he
  obtain ⟨mem, held⟩ := List.mem_filter.mp he
  obtain ⟨isHeld, own⟩ := Bool.and_eq_true_iff.mp held
  simpa using h e mem isHeld (beq_iff_eq.mp own)

/-- Settles O21: trap entry by the record of the thread that enters, RTE by whether IT is set. -/
theorem trapEntryAndReturn : Obligations.TrapEntryAndReturn := by
  unfold Obligations.TrapEntryAndReturn
  refine ⟨fun s c t a code detail faddr => ?_, fun s c t => ?_⟩
  · intro x y noHandler
    obtain ⟨hcode, hdetail, hvalid⟩ := cause_fields code detail
    obtain ⟨others, -, -⟩ := s.keepsRegs_takeTrap c t a code detail faddr noHandler
    have hy : y = _ := (s.th_takeTrap c t a code detail faddr noHandler).trans (Thread.trap_enters x _ _ _ _ _ _ noHandler)
    have it : ∀ i, i < 32 → y.st i = if 4 = i then true else x.st i := fun i hi => by
      rw [hy]; exact Thread.st_setSt x 4 i true (by decide) hi
    refine ⟨?_, ?_, ?_, ?_, ?_, it 4 (by decide), ?_, ?_, ?_, ?_, ?_, ?_, ?_, ?_, ?_, ?_, fun i hi h4 => ?_, others⟩
    case refine_2 => rw [hy]; exact hcode
    case refine_3 => rw [hy]; exact hdetail
    case refine_4 => rw [hy]; exact hvalid
    case refine_16 => rw [it i hi, if_neg h4.symm]
    all_goals rw [hy] <;> rfl
  · intro k x
    have returns := fun r => s.issuesTo_of_body c t (.rte c t) _ r (exec_rte ..)
    have it : (k.th t).st bIT = x.st 4 := s.st_atIssue c t (.rte c t) 4
    have epc : (k.th t).epc = x.epc := s.epc_atIssue c t (.rte c t)
    refine ⟨fun handler notHeld => returns (.jump _ _) ?_, fun noHandler => returns (.fault _ _ _ _) ?_⟩
    · dsimp only
      rw [it, handler, if_neg (by decide), epc, find_held_at_epc _ t _ notHeld]
      rfl
    · dsimp only
      rw [it, noHandler]; rfl

/-! ### A fault inside a handler (03 R127 to R129) -/

/-- A write of bits of a blank changes no thread. -/
theorem Core.thr_tSetBits (k : Core) (b : Reg) (off w v : Nat) : (k.tSetBits b off w v).thr = k.thr := by
  unfold Core.tSetBits
  dsimp only
  split <;> split <;> rfl

theorem Core.thr_tSetElem (k : Core) (b : Reg) (i j v : Nat) : (k.tSetElem b i j v).thr = k.thr := k.thr_tSetBits b _ _ v

theorem Core.thr_tSetAcc (k : Core) (b : Reg) (i j : Nat) (a : AccV) : (k.tSetAcc b i j a).thr = k.thr := k.thr_tSetBits b _ _ _

theorem Core.thr_tSetScale (k : Core) (b : Reg) (i n x : Nat) : (k.tSetScale b i n x).thr = k.thr := rfl

/-- What both branches keep, a conditional keeps. -/
theorem ite_keeps {α γ : Type} (g : α → γ) (p : Prop) [Decidable p] {a b : α} {x : γ} (ha : g a = x) (hb : g b = x) :
    g (if p then a else b) = x := by
  split
  · exact ha
  · exact hb

/-- A load of a blank changes no thread. -/
theorem Core.thr_tLoad (k : Core) (tb : Reg) (ws : List Word) (sf : Nat) (tr : Bool) (mode : Nat) (rs free : Nat → Nat) :
    (k.tLoad tb ws sf tr mode rs free).k.thr = k.thr := by
  unfold Core.tLoad
  dsimp only
  refine ite_keeps (fun r : TRes => r.k.thr) _ ?accumulators (ite_keeps (fun r : TRes => r.k.thr) _ ?plain
    (ite_keeps (fun r : TRes => r.k.thr) _ ?blocks ?converted))
  case accumulators => exact foldl_keeps Core.thr _ (fun a p => ite_keeps Core.thr _ (Core.thr_tSetAcc ..) rfl) _ _
  case plain =>
    exact foldl_keeps Core.thr _ (fun a p => ite_keeps Core.thr _
      (ite_keeps Core.thr _ ((Core.thr_tSetScale ..).trans (Core.thr_tSetElem ..)) (Core.thr_tSetElem ..)) rfl) _ _
  case blocks =>
    exact foldl_keeps (fun r : TRes => r.k.thr) _ (fun r p => ite_keeps (fun r : TRes => r.k.thr) _
      ((foldl_keeps Core.thr _ (fun a q => Core.thr_tSetElem ..) _ _).trans (Core.thr_tSetScale ..)) rfl) _ _
  case converted =>
    exact foldl_keeps (fun r : TRes => r.k.thr) _ (fun r p => ite_keeps (fun r : TRes => r.k.thr) _ (Core.thr_tSetElem ..) rfl) _ _

theorem Core.thr_takeLoad (k : Core) (e : TEntry) : (k.takeLoad e).k.thr = k.thr := by
  unfold Core.takeLoad
  split
  · exact Core.thr_tLoad ..
  · rfl

theorem Core.thr_runEngines (k : Core) (r : Rest) (d : Count) : (k.runEngines r d).thr = k.thr := by
  have worked := k.worked_runEngines r d
  rw [Core.worked] at worked
  rw [worked]

theorem Core.thr_stopEngines (k : Core) (r : Rest) (p : Thr → Bool) (now : Count) : (k.stopEngines r p now).thr = k.thr := by
  unfold Core.stopEngines
  dsimp only
  refine (foldl_keeps Core.thr _ (fun a q => ?_) _ _).trans
    ((foldl_keeps Core.thr _ (fun a e => a.thr_takeLoad e) _ _).trans (k.thr_runEngines r (now + 1)))
  split <;> rfl

theorem Core.thr_accShow (k : Core) (b : Reg) (es : List TEntry) : (k.accShow b es).thr = k.thr := by
  unfold Core.accShow
  split <;> rfl

theorem Core.thr_dropTiles (k : Core) (t : Thr) : (k.dropTiles t).thr = k.thr := rfl

theorem Core.thr_syncSrow (k : Core) : k.syncSrow.thr = k.thr := rfl

/-- Discarding tile instructions changes no thread. -/
theorem Core.thr_discardTiles (k : Core) (r : Rest) (t : Thr) (now : Count) : (k.discardTiles r t now).thr = k.thr := by
  unfold Core.discardTiles
  dsimp only
  rw [Core.thr_syncSrow, foldl_keeps Core.thr _ (fun a b => a.thr_accShow _ _), Core.thr_dropTiles, Core.thr_stopEngines]

/-- Waking threads that wait changes none that does not. -/
theorem Core.th_wakeIf (k : Core) (now : Count) (st : Word) (p : Thr → Thread → Bool) (t : Thr) (x : Thread) (hx : k.th t = x)
    (h : x.inWait = false) : (k.wakeIf now st p).th t = x := by
  refine List.foldlRecOn (motive := fun k : Core => k.th t = x) allThr _ hx fun k hk u _ => ?_
  by_cases hu : t = u
  · subst hu
    rw [hk, h]; exact hk
  · split
    · rw [Core.th_onTh_other _ _ _ _ hu]; exact hk
    · exact hk

/-- A change of flags wakes no thread that does not wait. -/
theorem Core.th_wakeFlags (k : Core) (c : CoreId) (now : Count) (t : Thr) (h : (k.th t).inWait = false) :
    (k.wakeFlags c now).th t = k.th t := by
  unfold Core.wakeFlags
  refine Core.th_wakeIf _ now 0 _ t _ ?_ h
  refine List.foldlRecOn (motive := fun k' : Core => k'.th t = k.th t) allThr _ rfl fun k' hk u _ => ?_
  by_cases hu : t = u
  · subst hu
    dsimp only
    rw [hk, h]; exact hk
  · dsimp only
    split
    · rw [Core.th_setTh_other _ _ _ _ hu]; exact hk
    · exact hk

/-- A report changes the cores of no state, whatever cycle it leaves in. -/
theorem State.th_reported (s : State) (n : Count) (c : CoreId) (t : Thr) :
    State.th { ({ s with now := n } : State).faultReport c t with now := s.now } c t = s.th c t := by
  have cores := State.cores_faultReport { s with now := n } c t
  exact congrArg (fun m => (SMap.get (fun _ => Core.reset) m c.toNat).th t) cores

/-- What a double fault does after the thread has stopped changes no thread that does not wait. -/
theorem State.th_discard_wake (s : State) (r : Rest) (c : CoreId) (t : Thr) (d n : Count) (h : (s.th c t).inWait = false) :
    ((s.onCore c fun k => k.discardTiles r t d).onCore c fun k => k.wakeFlags c n).th c t = s.th c t := by
  have discarded : ((s.core c).discardTiles r t d).th t = s.th c t :=
    congrArg (fun m => SMap.get (fun _ => Thread.reset) m t.toNat) (Core.thr_discardTiles ..)
  have idle : (((s.core c).discardTiles r t d).th t).inWait = false := by rw [discarded]; exact h
  rw [State.th, State.core_onCore_same, State.core_onCore_same, Core.th_wakeFlags _ _ _ _ idle, discarded]

/-- The thread after a double fault. -/
theorem State.th_takeTrap_double (s : State) (c : CoreId) (t : Thr) (a : BitVec 15) (code detail : Byte) (faddr : Word)
    (h : (s.th c t).st 4 = true) :
    (s.takeTrap c t a code detail faddr).th c t = (s.th c t).trap (((s.core c).endWait t).tvec t) s.now a code detail faddr := by
  have same : ((s.core c).endWait t).th t = s.th c t := by simp [Core.th, Core.thr_endWait, State.th]
  have idle : ((s.th c t).trap (((s.core c).endWait t).tvec t) s.now a code detail faddr).inWait = false := by
    rw [Thread.trap_stops _ _ _ _ _ _ _ h]; rfl
  have entered : (s.setCore c (((s.core c).endWait t).setTh t ((s.th c t).trap (((s.core c).endWait t).tvec t) s.now a code detail faddr))).th c t
      = (s.th c t).trap (((s.core c).endWait t).tvec t) s.now a code detail faddr := by
    rw [State.th, State.core_setCore_same, Core.th_setTh_same]
  unfold State.takeTrap
  dsimp only
  rw [same, if_pos h, State.th_reported, State.th_discard_wake _ _ _ _ _ _ (by rw [entered]; exact idle), entered]

/-- Settles O22: the record of the thread that stops. -/
theorem doubleFaultStopsTheThread : Obligations.DoubleFaultStopsTheThread := by
  unfold Obligations.DoubleFaultStopsTheThread
  intro s c t a code detail faddr x y handler
  obtain ⟨first, second, double, valid⟩ := cause_double_fields x.cause code
  have hy : y = _ := (s.th_takeTrap_double c t a code detail faddr handler).trans (Thread.trap_stops x _ _ _ _ _ _ handler)
  rw [hy]
  exact ⟨rfl, rfl, rfl, rfl, first, second, double, valid⟩

end Sys2Proof.Machine

/-! SUPPORT. A thread's events, and the core registers whose write acts (03 R104, R108 to R113, R119, R120, R129). -/

namespace Sys2Proof.Machine

/-! ### Events (03 R108 to R113, R129) -/

/-- A wake at a given cycle of a thread that has none decided. -/
theorem Thread.wakeAt_undecided (x : Thread) (at_ : Count) (status : Word) (h : x.wake = none) :
    x.wakeAt at_ status = { x with wake := some { cyc := at_ + 2, status := status } } := by
  unfold Thread.wakeAt
  rw [h]

/-- A decided wake completes its wait. -/
theorem exec_threadWake_decided (s : State) (c : CoreId) (t : Thr) (i : Instr) (w : Wake) (hc : s.hasCore c = true)
    (waits : (s.th c t).state = .wait) (decided : (s.th c t).wake = some w) (instr : (s.core c).waitInstr c t = some i) :
    exec (.threadWake c t) s =
      let x := s.th c t
      let u := s.advanceTo (w.cyc - 1)
      let d := if (SMap.get (fun _ => []) (u.core c).gots t.toNat).any fun v => v.2.isSome then u.now
        else slotFrom t (u.afterRest c (later (later u.now w.cyc) x.next))
      .next ((((u.advanceTo d).onCore c fun k => k.count 3 (some t) ((d - x.next).toNat / 4))).completeWait c t i w.status d) := by
  rw [exec_threadWake, execThreadWake, withCore_ok s c _ hc]
  dsimp only
  rw [waits, decided, instr]

/-- The timer fires while TA is set. -/
theorem exec_timerFire_armed (s : State) (c : CoreId) (t : Thr) (f : Thread → Thread) (hc : s.hasCore c = true) (armed : (s.th c t).st 6 = true)
    (hf : (let y := (s.th c t).setSt 6 false
      if y.state = .wait ∧ y.timed = true ∧ y.wake = none then y.wakeAt y.tcmp 1 else y.setSt 5 true) = f (s.th c t)) :
    exec (.timerFire c t) s = .next ((s.advanceTo (s.th c t).tcmp).onTh c t f) := by
  rw [exec_timerFire, execTimerFire, withCore_ok s c _ hc]
  dsimp only
  rw [if_neg (by rw [show (s.th c t).st bTA = true from armed]; decide)]
  refine congrArg Host.Outcome.next (State.onTh_congr _ c t _ _ ?_)
  rw [State.th_advanceTo]
  exact hf

/-- Settles O23: each event by the branch of its instruction that the thread's state selects. -/
theorem threadEvents : Obligations.ThreadEvents := by
  unfold Obligations.ThreadEvents
  intro s c t i w m hc
  refine ⟨fun waits decided instr => ?_, fun armed runs => ?_, fun armed waits timed undecided => ?_,
    fun waits undecided unarmed quiet => ?_, fun arrives => ?_⟩
  · have woken := exec_threadWake_decided s c t i w hc waits decided instr
    dsimp only at woken
    exact ⟨fun good => woken.trans (by rw [if_neg (Bool.eq_false_iff.mp good)]), fun bad => woken.trans (by rw [if_pos bad])⟩
  · exact exec_timerFire_armed s c t _ hc armed (if_neg fun h => runs h.1)
  · exact exec_timerFire_armed s c t _ hc armed
      ((if_pos ⟨waits, timed, undecided⟩).trans (Thread.wakeAt_undecided _ _ _ undecided))
  · rw [exec_watchdog, execWatchdog, withCore_ok s c _ hc]
    refine if_neg ?_
    rintro (h | h | h | h)
    · exact h waits
    · rw [show ((s.core c).th t).wake = none from undecided] at h; exact absurd h (by decide)
    · rw [show ((s.core c).th t).st bTA = false from unarmed] at h; simp at h
    · rw [quiet] at h; exact absurd h (by decide)
  · rw [exec_faultReport, execFaultReport, withCore_ok s c _ hc]
    rw [arrives]

/-! ### Core registers (03 R104, R119, R120, R561) -/

/-- Settles O24: each command is the write of its register, with the effect named here; a start is that of THSTART. -/
theorem coreRegistersThatAct : Obligations.CoreRegistersThatAct := by
  unfold Obligations.CoreRegistersThatAct
  refine ⟨fun s p c t v hc => ?_, fun s c t => ?_⟩
  · have write := fun o w f => winWrite_ok s p c o w f hc
    obtain ⟨reads, writes⟩ := winAccess_steps s p c R.CORE_PM_DATA v (s.core c).pmData (fun v u => u.onCore c fun k => k.writePm v) (fun u => u.onCore c Core.stepPm)
    refine ⟨write _ _ fun u => u.resetThread c t false, write _ _ fun u => u.startBit c t, write _ _ fun u => u.resetCore c,
      write _ v fun u => u.onCore c fun k => k.putWpos v, fun accepted rest => ?_, reads hc⟩
    have written := s.onCore_congr c (fun k => k.writePm v) (fun k => k.putPm ((s.core c).fld F.CORE_PM_ADDR_ADDR) (v.truncate 14)) (if_pos rest)
    have stepped := State.onCore_congr (s.onCore c fun k => k.putPm ((s.core c).fld F.CORE_PM_ADDR_ADDR) (v.truncate 14)) c Core.stepPm
      (fun k => k.setFld F.CORE_PM_ADDR_ADDR (((s.core c).fld F.CORE_PM_ADDR_ADDR + 1) % 32768)) (by rw [State.core_onCore_same]; rfl)
    exact ((writes hc).1 accepted).trans (by dsimp only; rw [written, stepped])
  · have started : (s.startBit c t).th c t = ((s.core c).startThread t ((s.core c).start t) (revStart (s.rev + 1))).th t := by
      rw [State.th, State.startBit, State.core_onCore_same]
    refine ⟨fun h => ?_, fun hi hh => ?_⟩
    · rw [started, Core.th_startThread _ _ _ _ h]
      exact ⟨rfl, rfl, rfl⟩
    · rw [started, Core.th_startThread_other _ _ _ _ fun h => h.elim hi hh]; rfl

end Sys2Proof.Machine

/-! SUPPORT. What an instruction that only changes its thread's record leaves unchanged, and the frame of the scalar instructions (03 R87, R88;
04 R139 to R148). -/

namespace Sys2Proof.Machine

/-! ### Records that agree but in some bits of the status word -/

theorem Thread.keepsBut_refl (x : Thread) (m : Word) : x.keepsBut x m := ⟨rfl, rfl, rfl, rfl, rfl, rfl, rfl, rfl, rfl⟩

/-- More bits may differ. -/
theorem Thread.keepsBut_mono (x y : Thread) (m n : Word) (h : x.keepsBut y m) (hm : m &&& ~~~n = 0) : x.keepsBut y n :=
  x.keepsBut_trans y y m n h (y.keepsBut_refl n) hm

/-- A write of one bit of the status word. -/
theorem Thread.keepsBut_setSt (x : Thread) (i : Nat) (b : Bool) (m : Word) (hi : m.getLsbD i = true) : x.keepsBut (x.setSt i b) m := by
  refine ⟨BitVec.eq_of_getLsbD_eq fun j hj => ?_, rfl, rfl, rfl, rfl, rfl, rfl, rfl, rfl⟩
  by_cases e : j = i
  · subst e; simp [hi]
  · have := Thread.st_setSt x i j b (BitVec.lt_of_getLsbD hi) hj
    rw [if_neg (Ne.symm e)] at this
    simp only [BitVec.getLsbD_and, show (x.setSt i b).sw.getLsbD j = x.sw.getLsbD j from this]

/-- The flags are bits 0 to 3. -/
theorem Thread.keepsBut_setFlags (x : Thread) (r : Word) (c v : Bool) : x.keepsBut (x.setFlags r c v) 0x0000000F := by
  have bit := fun (x : Thread) i b hi => x.keepsBut_setSt i b 0x0000000F#32 hi
  have chain := fun (x y z : Thread) h k => x.keepsBut_trans y z 0x0000000F 0x0000000F h k (by decide)
  exact chain _ _ _ (chain _ _ _ (chain _ _ _ (bit x 0 _ (by decide)) (bit _ 1 _ (by decide))) (bit _ 2 c (by decide))) (bit _ 3 v (by decide))

/-! ### States that differ in the record of one thread -/

/-- From `s` to `s'` no thread changes but one, and neither memory nor a register of a window or of the device. -/
def State.keepsApart (s s' : State) (c : CoreId) (t : Thr) : Prop := s.keepsThreads s' c t ∧ s.keepsMem s' ∧ s.keepsWindows s'

theorem State.keepsApart_refl (s : State) (c : CoreId) (t : Thr) : s.keepsApart s c t :=
  ⟨fun _ _ _ => rfl, ⟨fun _ _ => rfl, fun _ => rfl, fun _ => rfl⟩, fun _ _ _ => rfl, rfl⟩

theorem State.keepsApart_onTh (s : State) (c : CoreId) (t : Thr) (f : Thread → Thread) : s.keepsApart (s.onTh c t f) c t :=
  ⟨s.keepsThreads_onTh c t f, s.keepsMem_onTh c t f, s.keepsWindows_onTh c t f⟩

theorem State.keepsApart_trans (s u w : State) (c : CoreId) (t : Thr) (h : s.keepsApart u c t) (k : u.keepsApart w c t) : s.keepsApart w c t := by
  obtain ⟨threads, mem, windows⟩ := h
  obtain ⟨threads', mem', windows'⟩ := k
  exact ⟨s.keepsThreads_trans u w c t threads threads', s.keepsMem_trans u w mem mem', s.keepsWindows_trans u w windows windows'⟩

theorem State.keepsApart_issued (s : State) (c : CoreId) (t : Thr) (pc : BitVec 15) (b : Bool) : s.keepsApart (s.issued c t pc b) c t :=
  ⟨fun d v h => s.th_issued_other c d t v pc b h, s.keepsMem_issued c t pc b,
    fun d o h => State.core_issued (fun k => k.w o) (fun _ _ _ _ => Core.w_count _ _ _ _ _ h) (fun _ _ _ _ _ _ => Core.w_traceAt _ _ _ _ _ _ _ h)
      (fun _ _ _ => rfl) s c d t pc b, rfl⟩

theorem State.keepsApart_trace (s : State) (c : CoreId) (kind : Nat) (t : Thr) (aux data : Nat) : s.keepsApart (s.trace c kind t aux data) c t := by
  refine ⟨fun d v h => ?_, ⟨fun d a => ?_, fun a => rfl, fun a => rfl⟩, fun d o h => ?_, rfl⟩
  all_goals by_cases e : d = c
  · subst e; simp [State.trace, State.th]
  · simp [State.trace, State.th, State.core_onCore_other _ _ _ _ e]
  · subst e; simp [State.trace, Core.spByte]
  · simp [State.trace, State.core_onCore_other _ _ _ _ e]
  · subst e; simp [State.trace, Core.w_traceAt _ _ _ _ _ _ _ h]
  · simp [State.trace, State.core_onCore_other _ _ _ _ e]

/-- What completing an instruction, or beginning its wait, does to its thread: no register changes, and of the status word only the bits of loop
levels. -/
def Thread.goesOn (x y : Thread) : Prop := (∀ r, y.gr r = x.gr r) ∧ (∀ r, y.vr r = x.vr r) ∧ x.keepsBut y 0x000F0000

/-- The state that an execution leaves to an instruction that neither faults nor waits on a line. -/
def Res.left : Res → Option State
  | .seq u | .jump u _ | .stay u => some u
  | .wait u kind _ => if kind = 5 then none else some u
  | .fault .. | .stall => none

/-- From what the execution left to the state after the instruction. -/
theorem State.goesOn_after (s w : State) (c : CoreId) (t : Thr) (i : Instr) (r : Res) (h : r.left = some w) :
    w.keepsApart (s.after c t i r) c t ∧ (w.th c t).goesOn ((s.after c t i r).th c t) := by
  cases r with
  | seq u =>
    obtain rfl : u = w := Option.some.inj h
    refine ⟨⟨s.keepsThreads_thenNext u c t i, s.keepsMem_thenNext u c t i, s.keepsWindows_thenNext u c t i⟩, ?_⟩
    rw [show s.after c t i (.seq u) = s.thenNext c t i u from rfl, State.th_thenNext]
    exact ⟨Thread.gr_loopEnd _ _ _, Thread.vr_loopEnd _ _ _, Thread.keepsBut_loopEnd _ _ _⟩
  | jump u a =>
    obtain rfl : u = w := Option.some.inj h
    refine ⟨⟨s.keepsThreads_thenAt u c t i a, s.keepsMem_thenAt u c t i a, s.keepsWindows_thenAt u c t i a⟩, ?_⟩
    rw [show s.after c t i (.jump u a) = s.thenAt c t i a u from rfl, State.th_thenAt]
    exact ⟨fun _ => rfl, fun _ => rfl, Thread.keepsBut_refl _ _⟩
  | stay u =>
    obtain rfl : u = w := Option.some.inj h
    refine ⟨u.keepsApart_issued c t _ _, ?_⟩
    rw [show s.after c t i (.stay u) = u.issued c t (s.th c t).pc (isTile i) from rfl, State.th_issued]
    exact ⟨fun _ => rfl, fun _ => rfl, Thread.keepsBut_refl _ _⟩
  | wait u kind obj =>
    by_cases line : kind = 5
    · exact absurd ((if_pos line).symm.trans h) (by simp)
    obtain rfl : u = w := Option.some.inj ((if_neg line).symm.trans h)
    rw [show s.after c t i (.wait u kind obj) = s.thenWait c t i kind obj u from rfl, State.thenWait, if_neg line]
    refine ⟨State.keepsApart_trans _ _ _ _ _ (u.keepsApart_onTh c t _)
      (State.keepsApart_trans _ _ _ _ _ (State.keepsApart_issued _ c t _ _) (State.keepsApart_trace _ _ _ _ _ _)), ?_⟩
    have traced : ∀ s' : State, (s'.trace c 3 t kind obj).th c t = s'.th c t := fun s' => by simp [State.trace, State.th]
    rw [traced, State.th_issued, State.th_onTh_same]
    exact ⟨fun _ => rfl, fun _ => rfl, Thread.keepsBut_refl _ _⟩
  | fault => exact absurd h (by simp [Res.left])
  | stall => exact absurd h (by simp [Res.left])

/-- An instruction that issues, whose execution changes its thread's record alone. -/
theorem State.frame_of_left (s u w : State) (c : CoreId) (t : Thr) (i : Instr) (r : Res) (issues : s.issues c t i = true)
    (steps : exec i s = .next u) (runs : s.issuesTo c t i (s.after c t i r)) (left : r.left = some w)
    (apart : (s.atIssue c t i).keepsApart w c t) :
    s.keepsThreads u c t ∧ (s.advanceTo (s.issueCyc c t i)).keepsMem u ∧ s.keepsWindows u ∧ (w.th c t).goesOn (u.th c t) := by
  obtain ⟨threads, mem, windows⟩ := apart
  have hu : s.after c t i r = u := Host.Outcome.next.inj ((runs issues).symm.trans steps)
  obtain ⟨⟨threads', mem', windows'⟩, goes⟩ := s.goesOn_after w c t i r left
  rw [hu] at threads' mem' windows' goes
  have atThreads := s.keepsThreads_atIssue c t i
  have atMem := s.keepsMem_atIssue c t i
  have atWindows := s.keepsWindows_atIssue c t i
  exact ⟨State.keepsThreads_trans _ _ _ _ _ (State.keepsThreads_trans _ _ _ _ _ atThreads threads) threads',
    State.keepsMem_trans _ _ _ (State.keepsMem_trans _ _ _ atMem mem) mem',
    State.keepsWindows_trans _ _ _ (State.keepsWindows_trans _ _ _ atWindows windows) windows', goes⟩

/-! ### The frame of the scalar instructions -/

/-- What a scalar instruction keeps: the scalar registers of `P`, and of the status word the bits outside `n`. -/
def State.keepsScalar (s u : State) (c : CoreId) (t : Thr) (d : Count) (P : Reg → Prop) (n : Word) : Prop :=
  (s.keepsThreads u c t ∧ (s.advanceTo d).keepsMem u ∧ s.keepsWindows u ∧ ∀ r, (u.th c t).vr r = (s.th c t).vr r) ∧
    (∀ r, P r → (u.th c t).gr r = (s.th c t).gr r) ∧ (s.th c t).keepsBut (u.th c t) n

section
variable (s u : State) (c : CoreId) (t : Thr) (i : Instr) (d : Reg) (issues : s.issues c t i = true) (steps : exec i s = .next u)
include issues steps

/-- An execution that leaves a state in which the thread's record alone has changed, with what that record keeps. -/
theorem State.keepsScalar_of_seq (body : State → Res) (w : State) (P : Reg → Prop) (m n : Word) (arm : exec i s = issue c t i body s)
    (runs : body (s.atIssue c t i) = .seq w) (apart : (s.atIssue c t i).keepsApart w c t)
    (vectors : ∀ r, (w.th c t).vr r = (s.th c t).vr r) (scalars : ∀ r, P r → (w.th c t).gr r = (s.th c t).gr r)
    (but : (s.th c t).keepsBut (w.th c t) m) (hm : m &&& ~~~n = 0) (hn : 0x000F0000#32 &&& ~~~n = 0) :
    s.keepsScalar u c t (s.issueCyc c t i) P n := by
  obtain ⟨threads, mem, windows, gr, vr, loops⟩ := s.frame_of_left u w c t i _ issues steps (s.issuesTo_of_body c t i body _ arm runs) rfl apart
  exact ⟨⟨threads, mem, windows, fun r => (vr r).trans (vectors r)⟩, fun r hr => (gr r).trans (scalars r hr),
    Thread.keepsBut_trans _ _ _ m n but (Thread.keepsBut_mono _ _ _ n loops hn) hm⟩

/-- A write of one scalar register, and of other fields that no frame speaks of. -/
theorem State.keepsScalar_put (v : State → Word) (k : Nat) (arm : exec i s = issue c t i (fun z => .seq (z.putG c t d (v z) k)) s) :
    s.keepsScalar u c t (s.issueCyc c t i) (· ≠ d) 0x000F0000 := by
  have put : ((s.atIssue c t i).putG c t d (v (s.atIssue c t i)) k).th c t = _ := State.th_onTh_same _ c t _
  refine s.keepsScalar_of_seq u c t i issues steps _ _ _ 0 _ arm rfl (State.keepsApart_onTh _ _ _ _) (fun r => ?_) (fun r hr => ?_) ?_
    (by decide) (by decide)
  · rw [put, State.th_atIssue]; rfl
  · rw [put, State.th_atIssue]; exact Thread.gr_setG_other _ d r _ hr
  · rw [put, State.th_atIssue]; exact Thread.keepsBut_refl _ _

theorem State.keepsScalar_divide (f : Thread → Word) (arm : exec i s = issue c t i (divide c t d f) s) :
    s.keepsScalar u c t (s.issueCyc c t i) (· ≠ d) 0x000F0000 := by
  refine s.keepsScalar_of_seq u c t i issues steps _ _ _ 0 _ arm rfl
    (State.keepsApart_trans _ _ _ _ _ (State.keepsApart_onTh _ _ _ _) (State.keepsApart_onTh _ _ _ _)) (fun r => ?_) (fun r hr => ?_) ?_
    (by decide) (by decide)
  all_goals rw [State.th_onTh_same, State.putG, State.th_onTh_same, State.th_atIssue]
  · rfl
  · exact Thread.gr_setG_other _ d r _ hr
  · exact Thread.keepsBut_refl _ _

theorem State.keepsScalar_aluFlags (f : Thread → Word × Bool × Bool) (arm : exec i s = issue c t i (aluFlags c t d f) s) :
    s.keepsScalar u c t (s.issueCyc c t i) (· ≠ d) 0x000F000F := by
  refine s.keepsScalar_of_seq u c t i issues steps _ _ _ 0x0000000F _ arm rfl
    (State.keepsApart_trans _ _ _ _ _ (State.keepsApart_onTh _ _ _ _) (State.keepsApart_onTh _ _ _ _)) (fun r => ?_) (fun r hr => ?_) ?_
    (by decide) (by decide)
  all_goals rw [State.th_onTh_same, State.putG, State.th_onTh_same, State.th_atIssue]
  · rfl
  · exact Thread.gr_setG_other _ d r _ hr
  · exact Thread.keepsBut_setFlags _ _ _ _

theorem State.keepsScalar_compare (f : Thread → Word × Word) (arm : exec i s = issue c t i (compare c t f) s) :
    s.keepsScalar u c t (s.issueCyc c t i) (fun _ => True) 0x000F000F := by
  refine s.keepsScalar_of_seq u c t i issues steps _ _ _ 0x0000000F _ arm rfl (State.keepsApart_onTh _ _ _ _) (fun r => ?_) (fun r _ => ?_) ?_
    (by decide) (by decide)
  all_goals rw [State.th_onTh_same, State.th_atIssue]
  · rfl
  · rfl
  · exact Thread.keepsBut_setFlags { s.th c t with next := s.issueCyc c t i + 4 } _ _ _

end

/-- RDCYC writes its register and the next. -/
theorem State.keepsScalar_rdcyc (s u : State) (c : CoreId) (t : Thr) (d : Reg) (hd : d ≠ 7) (issues : s.issues c t (.rdcyc c t d) = true)
    (steps : exec (.rdcyc c t d) s = .next u) :
    s.keepsScalar u c t (s.issueCyc c t (.rdcyc c t d)) (fun r => r ≠ d ∧ r ≠ d + 1) 0x000F0000 := by
  refine s.keepsScalar_of_seq u c t _ issues steps _ _ _ 0 _ (exec_rdcyc ..) (if_neg hd) ?_ (fun r => ?_) (fun r hr => ?_) ?_
    (by decide) (by decide)
  · exact State.keepsApart_trans _ _ _ _ _ (State.keepsApart_onTh _ _ _ _) (State.keepsApart_onTh _ _ _ _)
  all_goals rw [State.putG, State.th_onTh_same, State.putG, State.th_onTh_same, State.th_atIssue]
  · rfl
  · exact (Thread.gr_setG_other _ (d + 1) r _ hr.2).trans (Thread.gr_setG_other _ d r _ hr.1)
  · exact Thread.keepsBut_refl _ _

/-- Settles O57: each instruction is a write of one register, a division, a compare, a carry operation or RDCYC, and has the frame of its kind. -/
theorem scalarInstructionsFrame : Obligations.ScalarInstructionsFrame := by
  unfold Obligations.ScalarInstructionsFrame
  intro s u c t d a b m l w cc idx i x y v apart issues steps
  have puts := s.keepsScalar_put u c t i d issues steps
  have divides := s.keepsScalar_divide u c t i d issues steps
  have carries := s.keepsScalar_aluFlags u c t i d issues steps
  have compares := s.keepsScalar_compare u c t i issues steps
  refine ⟨fun h => ?_, fun h => ?_, fun h => ?_, fun h hd => ?_⟩
  · simp only [List.mem_cons, List.not_mem_nil, or_false] at h
    obtain rfl | rfl | rfl | rfl | rfl | rfl | rfl | rfl | rfl | rfl | rfl | rfl | rfl | rfl | rfl | rfl | rfl | rfl | rfl | rfl | rfl | rfl | rfl |
      rfl | rfl | rfl := h
    · exact puts _ _ (exec_add ..)
    · exact puts _ _ (exec_sub ..)
    · exact puts _ _ (exec_and ..)
    · exact puts _ _ (exec_or ..)
    · exact puts _ _ (exec_xor ..)
    · exact puts _ _ (exec_mul ..)
    · exact puts _ _ (exec_shl ..)
    · exact puts _ _ (exec_shr ..)
    · exact puts _ _ (exec_sar ..)
    · exact puts _ _ (exec_rot ..)
    · exact puts _ _ (exec_min ..)
    · exact puts _ _ (exec_max ..)
    · exact puts _ _ (exec_mulh ..)
    · exact puts _ _ (exec_mulhu ..)
    · exact divides _ (exec_div ..)
    · exact divides _ (exec_divu ..)
    · exact divides _ (exec_rem ..)
    · exact divides _ (exec_remu ..)
    · exact puts _ _ (exec_mov ..)
    · exact puts _ _ (exec_not ..)
    · exact puts _ _ (exec_addi ..)
    · exact puts _ _ (exec_movi ..)
    · exact puts _ _ (exec_movil ..)
    · exact puts _ _ (exec_setcc ..)
    · exact puts _ _ (exec_mfs ..)
    · exact puts _ _ (exec_mft ..)
  · simp only [List.mem_cons, List.not_mem_nil, or_false] at h
    obtain rfl | rfl := h
    · exact carries _ (exec_addc ..)
    · exact carries _ (exec_subc ..)
  · simp only [List.mem_cons, List.not_mem_nil, or_false] at h
    have frame : s.keepsScalar u c t (s.issueCyc c t i) (fun _ => True) 0x000F000F := by
      obtain rfl | rfl := h
      · exact compares _ (exec_cmp ..)
      · exact compares _ (exec_cmpi ..)
    obtain ⟨apart, scalars, but⟩ := frame
    exact ⟨apart, fun r => scalars r trivial, but⟩
  · subst h
    obtain ⟨apart, scalars, but⟩ := s.keepsScalar_rdcyc u c t d hd issues steps
    exact ⟨apart, fun r h h' => scalars r ⟨h, h'⟩, but⟩

end Sys2Proof.Machine

/-! SUPPORT. The frame of branches, calls, returns, loops, the timer's instructions, HALT, NOP and MTS (03 R96 to R102, R110, R120). -/

namespace Sys2Proof.Machine

/-! ### What a thread's record keeps while its instruction completes -/

/-- Completing an instruction moves the bits of loop levels alone. -/
theorem Thread.keepsBut_of_goesOn (x y z : Thread) (n : Word) (h : x.keepsBut y n) (k : y.goesOn z) (hn : 0x000F0000#32 &&& ~~~n = 0) :
    x.keepsBut z n := by
  obtain ⟨-, -, loops⟩ := k
  exact x.keepsBut_trans y z n n h (y.keepsBut_mono z _ n loops hn) (by simp)

/-- Nor does completing an instruction change the return stack. -/
theorem Thread.stack_of_goesOn (x y z : Thread) (h : ({ x with rs := y.rs } : Thread).keepsBut y 0x000F0000) (k : y.goesOn z) :
    ({ x with rs := z.rs } : Thread).keepsBut z 0x000F0000 := by
  obtain ⟨-, -, -, rs, -⟩ := id k
  rw [rs]
  exact Thread.keepsBut_of_goesOn _ y z _ h k (by decide)

/-- Nor the timer's register. -/
theorem Thread.timer_of_goesOn (x y z : Thread) (h : ({ x with tcmp := y.tcmp } : Thread).keepsBut y 0x000F0060) (k : y.goesOn z) :
    ({ x with tcmp := z.tcmp } : Thread).keepsBut z 0x000F0060 := by
  obtain ⟨-, -, -, -, -, -, -, -, tcmp, -⟩ := id k
  rw [tcmp]
  exact Thread.keepsBut_of_goesOn _ y z _ h k (by decide)

/-- The bits of loop levels. -/
theorem level_bit (n : Nat) (h : n < 4) : (0x000F0000#32).getLsbD (16 + n) = true := by
  interval_cases n <;> rfl

/-- The whole of LBRK's change of the record clears bits of loop levels. -/
theorem Thread.goesOn_lbrk (x : Thread) (lv : Nat) :
    x.goesOn ((List.range 4).foldl (fun x n => if n < lv then x
      else ({ x with lc := SMap.set (fun _ => 0) x.lc n 0 }).setSt (16 + n) false) x) := by
  refine List.foldlRecOn (motive := fun y => x.goesOn y) _ _ ⟨fun _ => rfl, fun _ => rfl, x.keepsBut_refl _⟩ fun y hy n hn => ?_
  split
  · exact hy
  · obtain ⟨gr, vr, but⟩ := hy
    exact ⟨gr, vr, x.keepsBut_trans y _ _ _ but
      (Thread.keepsBut_setSt { y with lc := SMap.set (fun _ => 0) y.lc n 0 } (16 + n) false _ (level_bit n (List.mem_range.mp hn))) (by decide)⟩

/-! ### Instructions that complete or fault -/

/-- What an instruction of control keeps: all registers and the memory, and, unless it enters a handler, every register of a window and of the
device, with `P` of its thread's record. -/
def State.keepsControl (s u : State) (c : CoreId) (t : Thr) (d : Count) (P : Thread → Prop) : Prop :=
  s.keepsRegs u c t ∧ (s.advanceTo d).keepsMem u ∧ ((u.th c t).st 4 = false → s.keepsWindows u ∧ P (u.th c t))

/-- What holds of every instruction of control, whatever its thread's record keeps. -/
theorem State.keepsControl.apart {s u : State} {c : CoreId} {t : Thr} {d : Count} {P : Thread → Prop} (h : s.keepsControl u c t d P) :
    s.keepsRegs u c t ∧ (s.advanceTo d).keepsMem u ∧ ((u.th c t).st 4 = false → s.keepsWindows u) := by
  obtain ⟨regs, mem, outside⟩ := h
  exact ⟨regs, mem, fun noHandler => (outside noHandler).1⟩

theorem State.keepsControl.thread {s u : State} {c : CoreId} {t : Thr} {d : Count} {P : Thread → Prop} (h : s.keepsControl u c t d P)
    (noHandler : (u.th c t).st 4 = false) : P (u.th c t) := by
  obtain ⟨-, -, outside⟩ := h
  exact (outside noHandler).2

section
variable (s u : State) (c : CoreId) (t : Thr) (i : Instr) (r : Res) (P : Thread → Prop)
  (issues : s.issues c t i = true) (steps : exec i s = .next u) (runs : s.issuesTo c t i (s.after c t i r))
include issues steps runs

/-- The thread's record alone changes, in no register, and `P` outlasts the instruction's completion. -/
theorem State.keepsControl_of_left (w : State) (left : r.left = some w) (apart : (s.atIssue c t i).keepsApart w c t)
    (scalars : ∀ r, (w.th c t).gr r = (s.th c t).gr r) (vectors : ∀ r, (w.th c t).vr r = (s.th c t).vr r) (holds : P (w.th c t))
    (stable : ∀ y z : Thread, P y → y.goesOn z → P z) : s.keepsControl u c t (s.issueCyc c t i) P ∧ P (u.th c t) := by
  obtain ⟨threads, mem, windows, goes⟩ := s.frame_of_left u w c t i r issues steps runs left apart
  obtain ⟨gr, vr, -⟩ := id goes
  have after := stable _ _ holds goes
  exact ⟨⟨⟨threads, fun r => (gr r).trans (scalars r), fun r => (vr r).trans (vectors r)⟩, mem, fun _ => ⟨windows, after⟩⟩, after⟩

/-- The execution changes nothing at all. -/
theorem State.keepsControl_same (left : r.left = some (s.atIssue c t i))
    (holds : P { s.th c t with next := s.issueCyc c t i + 4 }) (stable : ∀ y z : Thread, P y → y.goesOn z → P z) :
    s.keepsControl u c t (s.issueCyc c t i) P ∧ P (u.th c t) :=
  s.keepsControl_of_left u c t i r P issues steps runs _ left (State.keepsApart_refl _ c t) (fun _ => by rw [State.th_atIssue]; rfl)
    (fun _ => by rw [State.th_atIssue]; rfl) (by rw [State.th_atIssue]; exact holds) stable

/-- The execution changes the thread's record by `f`. -/
theorem State.keepsControl_onTh (f : Thread → Thread) (left : r.left = some ((s.atIssue c t i).onTh c t f))
    (scalars : ∀ (x : Thread) r, (f x).gr r = x.gr r) (vectors : ∀ (x : Thread) r, (f x).vr r = x.vr r)
    (holds : P (f { s.th c t with next := s.issueCyc c t i + 4 })) (stable : ∀ y z : Thread, P y → y.goesOn z → P z) :
    s.keepsControl u c t (s.issueCyc c t i) P ∧ P (u.th c t) := by
  have changed := State.th_onTh_same (s.atIssue c t i) c t f
  rw [State.th_atIssue] at changed
  exact s.keepsControl_of_left u c t i r P issues steps runs _ left (State.keepsApart_onTh _ _ _ _)
    (fun r => by rw [changed]; exact scalars _ r) (fun r => by rw [changed]; exact vectors _ r) (by rw [changed]; exact holds) stable

end

/-- A fault enters the handler. -/
theorem State.keepsControl_fault (s u : State) (c : CoreId) (t : Thr) (i : Instr) (P : Thread → Prop) (code detail : Byte) (faddr : Word)
    (noHandler : (s.th c t).st 4 = false) (issues : s.issues c t i = true) (steps : exec i s = .next u)
    (runs : s.issuesTo c t i (s.after c t i (.fault (s.atIssue c t i) code detail faddr))) : s.keepsControl u c t (s.issueCyc c t i) P := by
  obtain rfl : s.thenTrap c t i code detail faddr (s.atIssue c t i) = u := Host.Outcome.next.inj ((runs issues).symm.trans steps)
  have atIssue : ((s.atIssue c t i).th c t).st 4 = false := (s.st_atIssue c t i 4).trans noHandler
  have issued : (((s.atIssue c t i).issued c t (s.th c t).pc (isTile i)).th c t).st 4 = false := by rw [State.th_issued]; exact atIssue
  have entered : ((s.thenTrap c t i code detail faddr (s.atIssue c t i)).th c t).st 4 = true := by
    rw [State.thenTrap, State.th_takeTrap _ _ _ _ _ _ _ issued, Thread.trap_enters _ _ _ _ _ _ _ issued]
    exact Thread.st_setSt _ 4 4 true (by decide) (by decide)
  exact ⟨State.keepsRegs_trans _ _ _ _ _ (s.keepsRegs_atIssue c t i) (State.keepsRegs_thenTrap _ _ _ _ _ _ _ _ atIssue),
    State.keepsMem_trans _ _ _ (s.keepsMem_atIssue c t i) (State.keepsMem_thenTrap _ _ _ _ _ _ _ _ atIssue),
    fun h => absurd entered (by rw [h]; decide)⟩

/-! ### Calls, returns and loops -/

section
variable (s u : State) (c : CoreId) (t : Thr) (i : Instr) (noHandler : (s.th c t).st 4 = false)
  (issues : s.issues c t i = true) (steps : exec i s = .next u)
include noHandler issues steps

/-- A call pushes its return address or faults. -/
theorem State.keepsControl_callTo (len target : BitVec 15)
    (runs : s.issuesTo c t i (s.after c t i (callTo c t len target (s.atIssue c t i)))) :
    s.keepsControl u c t (s.issueCyc c t i) (fun y => ({ s.th c t with rs := y.rs } : Thread).keepsBut y 0x000F0000) := by
  by_cases full : 16 ≤ ((s.atIssue c t i).th c t).rs.length
  · rw [callTo, if_pos full] at runs
    exact s.keepsControl_fault u c t i _ _ _ _ noHandler issues steps runs
  · rw [callTo, if_neg full] at runs
    exact (s.keepsControl_onTh u c t i _ _ issues steps runs _ rfl (fun _ _ => rfl) (fun _ _ => rfl) (Thread.keepsBut_refl _ _)
      (s.th c t).stack_of_goesOn).1

/-- A return takes the last return address or faults. -/
theorem State.keepsControl_ret (hi : i = .ret c t) :
    s.keepsControl u c t (s.issueCyc c t i) (fun y => ({ s.th c t with rs := y.rs } : Thread).keepsBut y 0x000F0000) := by
  subst hi
  cases stack : ((s.atIssue c t (.ret c t)).th c t).rs with
  | nil =>
    have runs := s.issuesTo_of_body c t _ _ (.fault (s.atIssue c t (.ret c t)) 0x07 1 0) (exec_ret ..) (by rw [stack])
    exact s.keepsControl_fault u c t _ _ _ _ _ noHandler issues steps runs
  | cons a rest =>
    have runs := s.issuesTo_of_body c t _ _ (.jump ((s.atIssue c t (.ret c t)).onTh c t fun x => { x with rs := rest }) a) (exec_ret ..)
      (by rw [stack])
    exact (s.keepsControl_onTh u c t _ _ _ issues steps runs _ rfl (fun _ _ => rfl) (fun _ _ => rfl) (Thread.keepsBut_refl _ _)
      (s.th c t).stack_of_goesOn).1

/-- A conditional branch goes on, branches, or calls. -/
theorem State.keepsControl_bcc (cc : BitVec 4) (k : Bool) (e : BitVec 15) (hi : i = .bcc c t cc k e) :
    s.keepsControl u c t (s.issueCyc c t i) (fun y => ({ s.th c t with rs := y.rs } : Thread).keepsBut y 0x000F0000) := by
  subst hi
  have same := fun r left runs => (s.keepsControl_same u c t _ r _ issues steps runs left (Thread.keepsBut_refl _ _)
    (s.th c t).stack_of_goesOn).1
  by_cases call : cc = 15
  · exact s.keepsControl_callTo u c t _ noHandler issues steps _ _ (s.issuesTo_of_body c t _ _ _ (exec_bcc ..) (if_pos call))
  · by_cases holds : condHolds ((s.atIssue c t (.bcc c t cc k e)).th c t) cc
    · exact same (.jump _ _) rfl (s.issuesTo_of_body c t _ _ _ (exec_bcc ..) ((if_neg call).trans (if_pos holds)))
    · exact same (.seq _) rfl (s.issuesTo_of_body c t _ _ _ (exec_bcc ..) ((if_neg call).trans (if_neg holds)))

/-- A LOOP starts its level, passes over its body, or faults. -/
theorem State.keepsControl_loop (lv : BitVec 2) (r : Reg) (e : BitVec 15) (hi : i = .loop c t lv r e) :
    s.keepsControl u c t (s.issueCyc c t i) (fun y => (s.th c t).keepsBut y 0x000F0000) := by
  subst hi
  have runs := s.issuesTo_loop c t lv r e
  have outside : ¬ (s.th c t).st 4 = true := by rw [noHandler]; decide
  have faults := fun detail runs => s.keepsControl_fault u c t _ (fun y => (s.th c t).keepsBut y 0x000F0000) 0x09 detail (lv.zeroExtend 32)
    noHandler issues steps runs
  by_cases used : (s.th c t).st (16 + lv.toNat) = true
  · exact faults 0 (runs _ ((if_neg outside).trans (if_pos used)))
  by_cases short : e.toNat < ((s.th c t).pc + 2).toNat
  · exact faults 1 (runs _ ((if_neg outside).trans ((if_neg used).trans (if_pos short))))
  by_cases none : (s.th c t).gr r = 0
  · exact (s.keepsControl_onTh u c t _ _ _ issues steps
      (runs (.jump _ _) ((if_neg outside).trans ((if_neg used).trans ((if_neg short).trans (if_pos none))))) _ rfl (fun _ _ => rfl)
      (fun _ _ => rfl) (Thread.keepsBut_refl _ _) fun y z h k => Thread.keepsBut_of_goesOn _ y z _ h k (by decide)).1
  · refine (s.keepsControl_onTh u c t _ _ _ issues steps
      (runs (.seq _) ((if_neg outside).trans ((if_neg used).trans ((if_neg short).trans (if_neg none))))) _ rfl (fun _ _ => rfl)
      (fun _ _ => rfl) ?_ fun y z h k => Thread.keepsBut_of_goesOn _ y z _ h k (by decide)).1
    exact Thread.keepsBut_setSt { s.th c t with
      next := s.issueCyc c t (.loop c t lv r e) + 4
      ls := SMap.set (fun _ => 0) (s.th c t).ls lv.toNat ((s.th c t).pc + 2)
      le := SMap.set (fun _ => 0) (s.th c t).le lv.toNat e
      lc := SMap.set (fun _ => 0) (s.th c t).lc lv.toNat ((s.th c t).gr r) } _ true _ (level_bit _ lv.isLt)

end

/-! ### The timer and the status word -/

/-- The timer's two bits, and the register that SETTC writes with them. -/
theorem Thread.keepsBut_timer (x : Thread) (armed fired : Bool) : x.keepsBut ((x.setSt 6 armed).setSt 5 fired) 0x000F0060 :=
  x.keepsBut_trans _ _ _ _ (x.keepsBut_setSt 6 armed 0x000F0060 (by decide)) (Thread.keepsBut_setSt _ 5 fired _ (by decide)) (by decide)

/-- MTS writes the flags, the handling of FP traps and the rounding, and no other bit of the status word. -/
theorem Thread.keepsBut_mts (x : Thread) (w : Word) : x.keepsBut { x with sw := (x.sw &&& ~~~stM) ||| (w &&& stM) } 0x000F3F0F := by
  refine ⟨?_, rfl, rfl, rfl, rfl, rfl, rfl, rfl, rfl⟩
  show ((x.sw &&& ~~~0x00003F0F#32) ||| (w &&& 0x00003F0F#32)) &&& ~~~0x000F3F0F#32 = x.sw &&& ~~~0x000F3F0F#32
  have kept : ~~~0x00003F0F#32 &&& ~~~0x000F3F0F#32 = ~~~0x000F3F0F#32 := by decide
  have written : 0x00003F0F#32 &&& ~~~0x000F3F0F#32 = 0#32 := by decide
  rw [BitVec.and_or_distrib_right, BitVec.and_assoc, BitVec.and_assoc, kept, written, BitVec.and_zero, BitVec.or_zero]

section
variable (s u : State) (c : CoreId) (t : Thr) (i : Instr) (issues : s.issues c t i = true) (steps : exec i s = .next u)
include issues steps

theorem State.keepsControl_mts (r : Reg) (hi : i = .mts c t r) :
    s.keepsControl u c t (s.issueCyc c t i) ((s.th c t).keepsBut · 0x000F3F0F) ∧ (s.th c t).keepsBut (u.th c t) 0x000F3F0F := by
  subst hi
  exact s.keepsControl_onTh u c t _ _ ((s.th c t).keepsBut · 0x000F3F0F) issues steps
    (s.issuesTo_of_body c t _ _ (.seq _) (exec_mts ..) rfl) _ rfl (fun _ _ => rfl) (fun _ _ => rfl)
    (Thread.keepsBut_mts { s.th c t with next := s.issueCyc c t (.mts c t r) + 4 } _) fun y z h k => Thread.keepsBut_of_goesOn _ y z _ h k (by decide)

theorem State.keepsControl_settc (r : Reg) (hi : i = .settc c t r) :
    s.keepsControl u c t (s.issueCyc c t i) (fun y => ({ s.th c t with tcmp := y.tcmp } : Thread).keepsBut y 0x000F0060) ∧
      ({ s.th c t with tcmp := (u.th c t).tcmp } : Thread).keepsBut (u.th c t) 0x000F0060 := by
  subst hi
  exact s.keepsControl_onTh u c t _ _ (fun y => ({ s.th c t with tcmp := y.tcmp } : Thread).keepsBut y 0x000F0060) issues steps
    (s.issuesTo_of_body c t _ _ (.seq _) (exec_settc ..) rfl) _ rfl (fun _ _ => rfl) (fun _ _ => rfl)
    (Thread.keepsBut_timer { s.th c t with tcmp := _, next := s.issueCyc c t (.settc c t r) + 4 } _ _) (s.th c t).timer_of_goesOn

/-- A wait for the timer consumes the one that has fired, waits for one that runs, and otherwise does nothing. -/
theorem State.keepsControl_waitt (hi : i = .waitt c t) : s.keepsControl u c t (s.issueCyc c t i) ((s.th c t).keepsBut · 0x000F0060) ∧
    (s.th c t).keepsBut (u.th c t) 0x000F0060 := by
  subst hi
  have runs := fun r runs => s.issuesTo_of_body c t _ _ r (exec_waitt c t s) runs
  have stable := fun y z h k => Thread.keepsBut_of_goesOn (s.th c t) y z 0x000F0060 h k (by decide)
  have same := fun r runs left => s.keepsControl_same u c t _ r ((s.th c t).keepsBut · 0x000F0060) issues steps runs left
    (Thread.keepsBut_refl _ _) stable
  by_cases fired : ((s.atIssue c t (.waitt c t)).th c t).st bTF = true
  · exact s.keepsControl_onTh u c t _ _ _ issues steps (runs (.seq _) (if_pos fired)) (fun x => x.setSt 5 false) rfl (fun _ _ => rfl)
      (fun _ _ => rfl) (Thread.keepsBut_setSt { s.th c t with next := s.issueCyc c t (.waitt c t) + 4 } 5 false _ (by decide)) stable
  by_cases armed : ((s.atIssue c t (.waitt c t)).th c t).st bTA = true
  · exact same (.wait _ 6 0) (runs _ ((if_neg fired).trans (if_pos armed))) rfl
  · exact same (.seq _) (runs _ ((if_neg fired).trans (if_neg armed))) rfl

end

/-- Settles O60: each instruction leaves its thread's record as its own lemma says; what holds of all is read off from that. -/
theorem controlInstructionsFrame : Obligations.ControlInstructionsFrame := by
  unfold Obligations.ControlInstructionsFrame
  intro s u c t r lv cc k e i x y v noHandler issues steps
  have runs := fun body r arm => s.issuesTo_of_body c t i body r arm
  have but := fun (n : Word) (hn : 0x000F0000#32 &&& ~~~n = 0) y z h k => Thread.keepsBut_of_goesOn x y z n h k hn
  have same := fun r' arm left => (s.keepsControl_same u c t i r' (x.keepsBut · 0x000F0000) issues steps arm left
    (Thread.keepsBut_refl _ _) (but _ (by decide))).1
  have changes := fun r' P arm f left => s.keepsControl_onTh u c t i r' P issues steps arm f left
  have plain : i ∈ ([.br c t e, .jmp c t e, .jr c t r, .loop c t lv r e, .lbrk c t lv, .nop c t, .halt c t] : List Instr) →
      s.keepsControl u c t (s.issueCyc c t i) (x.keepsBut · 0x000F0000) := by
    intro h
    simp only [List.mem_cons, List.not_mem_nil, or_false] at h
    obtain hi | hi | hi | hi | hi | hi | hi := h
    · subst hi; exact same _ (runs _ (.jump _ _) (exec_br ..) rfl) rfl
    · subst hi; exact same _ (runs _ (.jump _ _) (exec_jmp ..) rfl) rfl
    · subst hi; exact same _ (runs _ (.jump _ _) (exec_jr ..) rfl) rfl
    · exact s.keepsControl_loop u c t i noHandler issues steps lv r e hi
    · subst hi
      have levels := fun x => Thread.goesOn_lbrk x lv.toNat
      exact (changes _ _ (runs _ (.seq _) (exec_lbrk ..) rfl) _ rfl (fun x => (levels x).1) (fun x => (levels x).2.1)
        (levels { x with next := s.issueCyc c t (.lbrk c t lv) + 4 }).2.2 (but _ (by decide))).1
    · subst hi; exact same _ (runs _ (.seq _) (exec_nop ..) rfl) rfl
    · subst hi
      exact (changes _ _ (runs _ (.seq _) (exec_halt ..) rfl) _ rfl (fun _ _ => rfl) (fun _ _ => rfl) (Thread.keepsBut_refl _ _)
        (but _ (by decide))).1
  have stack : i ∈ ([.bcc c t cc k e, .call c t k e, .callr c t r, .ret c t] : List Instr) →
      s.keepsControl u c t (s.issueCyc c t i) (fun y => ({ x with rs := y.rs } : Thread).keepsBut y 0x000F0000) := by
    intro h
    simp only [List.mem_cons, List.not_mem_nil, or_false] at h
    have calls := s.keepsControl_callTo u c t i noHandler issues steps
    obtain hi | hi | hi | hi := h
    · exact s.keepsControl_bcc u c t i noHandler issues steps cc k e hi
    · subst hi; exact calls _ _ (runs _ _ (exec_call ..) rfl)
    · subst hi; exact calls _ _ (runs _ _ (exec_callr ..) rfl)
    · exact s.keepsControl_ret u c t i noHandler issues steps hi
  have status := s.keepsControl_mts u c t i issues steps r
  have timer := s.keepsControl_settc u c t i issues steps r
  have bits : i ∈ ([.clrtc c t, .waitt c t] : List Instr) →
      s.keepsControl u c t (s.issueCyc c t i) (x.keepsBut · 0x000F0060) ∧ x.keepsBut y 0x000F0060 := by
    intro h
    simp only [List.mem_cons, List.not_mem_nil, or_false] at h
    obtain hi | hi := h
    · subst hi
      exact changes _ (x.keepsBut · 0x000F0060) (runs _ (.seq _) (exec_clrtc ..) rfl) _ rfl (fun _ _ => rfl) (fun _ _ => rfl)
        (Thread.keepsBut_timer { x with next := s.issueCyc c t (.clrtc c t) + 4 } _ _) (but _ (by decide))
    · exact s.keepsControl_waitt u c t i issues steps hi
  refine ⟨fun h => ?_, fun h => (plain h).thread, fun h => (stack h).thread, fun h => (status h).2, fun h => (timer h).2, fun h => (bits h).2⟩
  have kinds : i ∈ ([.br c t e, .jmp c t e, .jr c t r, .loop c t lv r e, .lbrk c t lv, .nop c t, .halt c t] : List Instr) ∨
      i ∈ ([.bcc c t cc k e, .call c t k e, .callr c t r, .ret c t] : List Instr) ∨ i = .mts c t r ∨ i = .settc c t r ∨
      i ∈ ([.clrtc c t, .waitt c t] : List Instr) := by
    simp only [List.mem_cons, List.not_mem_nil, or_false] at h ⊢
    obtain h | h | h | h | h | h | h | h | h | h | h | h | h | h | h := h <;> simp [h]
  obtain hi | hi | hi | hi | hi := kinds
  · exact (plain hi).apart
  · exact (stack hi).apart
  · exact (status hi).1.apart
  · exact (timer hi).1.apart
  · exact (bits hi).1.apart

end Sys2Proof.Machine

/-! SUPPORT. Where the frame of loads and stores fails: a load that begins to wait for a line looks at every thread of its core that waits for one. -/

namespace Sys2Proof.Machine

/-- Core 0, whose line 0 is guarded and invalid, with thread 0 in RUN and thread 1 in WAIT for line 1, which no region guards. -/
def staleWait : State := State.reset.onCore 0 fun k =>
  (((k.setW (R.DMA_GUARD 3) 0x80002000).setValid 0 false).onTh 0 fun x => { x with state := .run }).onTh 1 fun x =>
    { x.setG 1 16 with state := .wait, waiting := some (.ldw 0 1 2 1 none), waiton := 0x50000010 }

/-- Thread 0 reads word 0. -/
def staleLoad : Instr := .ldw 0 0 2 1 none

theorem staleLoad_issues : staleWait.issues 0 0 staleLoad = true := by decide +kernel

/-- Its line is held. -/
theorem staleLoad_waits : staleWait.issuesTo 0 0 staleLoad (staleWait.thenWait 0 0 staleLoad 5 0 (staleWait.atIssue 0 0 staleLoad)) :=
  staleWait.issuesTo_checked 0 0 staleLoad _ _ (.wait _ 5 0) (exec_ldw ..) (rangeFault_ok _ _ _ (by decide +kernel))
    (load_waits 0 0 staleLoad _ 0 1 0 (by decide +kernel) (by decide +kernel))

/-- The wait of thread 1 is undecided before, and decided after. -/
theorem staleLoad_wakes_sibling : (staleWait.th 0 1).wake = none ∧
    ((staleWait.thenWait 0 0 staleLoad 5 0 (staleWait.atIssue 0 0 staleLoad)).th 0 1).wake ≠ none := by decide +kernel

/-- Refutes O58: in `staleWait` the load of thread 0 waits for line 0, which wakes every thread whose own line is valid or unguarded, and so decides
the wait of thread 1; the statement lets no load change another thread. -/
theorem not_loadsAndStoresFrame : ¬ Obligations.LoadsAndStoresFrame := by
  unfold Obligations.LoadsAndStoresFrame
  intro frame
  obtain ⟨before, after⟩ := staleLoad_wakes_sibling
  obtain ⟨loads, -⟩ := frame staleWait _ 0 0 2 1 none 0 staleLoad (by decide +kernel) staleLoad_issues (staleLoad_waits staleLoad_issues)
  obtain ⟨others, -⟩ := loads (List.mem_cons_self ..)
  exact after ((congrArg Thread.wake (others 0 1 (.inr (by decide)))).trans before)

end Sys2Proof.Machine

/-! SUPPORT. Words of instructions (04 R131 to R136): the fields of a head word and of an extension word, read back and put together again. -/

namespace Sys2Proof.Machine

/-! ### Fields, as numbers -/

theorem toNat_field {w : Nat} (x : BitVec w) (lo n : Nat) : (x.extractLsb' lo n).toNat = x.toNat / 2 ^ lo % 2 ^ n := by
  rw [BitVec.extractLsb'_toNat, Nat.shiftRight_eq_div_pow]

theorem b2n_bit {w : Nat} (x : BitVec w) (n : Nat) : b2n (x.getLsbD n) = x.toNat / 2 ^ n % 2 := by
  rw [BitVec.getLsbD, Nat.testBit_eq_decide_div_mod_eq, b2n]
  split <;> simp_all

theorem b2n_le (b : Bool) : b2n b ≤ 1 := by cases b <;> decide

theorem toNat_concat {m n : Nat} (x : BitVec m) (y : BitVec n) : (x ++ y).toNat = x.toNat * 2 ^ n + y.toNat := by
  rw [BitVec.toNat_append, ← Nat.shiftLeft_add_eq_or_of_lt y.isLt, Nat.shiftLeft_eq]

theorem ofNat_toNat_self {w : Nat} (x : BitVec w) : BitVec.ofNat w x.toNat = x := by rw [BitVec.ofNat_toNat, BitVec.setWidth_eq]

theorem field_eq {w n lo : Nat} {x : BitVec w} {f : BitVec n} (h : x.toNat / 2 ^ lo % 2 ^ n = f.toNat) : x.extractLsb' lo n = f :=
  BitVec.eq_of_toNat_eq ((toNat_field x lo n).trans h)

theorem field_zero_iff {w n lo : Nat} {x : BitVec w} : x.extractLsb' lo n = 0 ↔ x.toNat / 2 ^ lo % 2 ^ n = 0 := by
  rw [← toNat_field]
  exact ⟨fun h => h ▸ BitVec.toNat_zero, fun h => BitVec.eq_of_toNat_eq (h.trans BitVec.toNat_zero.symm)⟩

theorem bit_eq {w n : Nat} {x : BitVec w} {b : Bool} (h : x.toNat / 2 ^ n % 2 = b2n b) : x.getLsbD n = b := by
  have same : b2n (x.getLsbD n) = b2n b := (b2n_bit x n).trans h
  revert same
  cases x.getLsbD n <;> cases b <;> decide

theorem bit_false_iff {w n : Nat} {x : BitVec w} : x.getLsbD n = false ↔ x.toNat / 2 ^ n % 2 = 0 :=
  ⟨fun h => (b2n_bit x n).symm.trans (congrArg b2n h), bit_eq (b := false)⟩

/-- A field followed by a part that another word holds. -/
theorem field_concat_eq {w m n lo : Nat} {x : BitVec w} {y : BitVec m} {f : BitVec (n + m)}
    (h : x.toNat / 2 ^ lo % 2 ^ n * 2 ^ m + y.toNat = f.toNat) : x.extractLsb' lo n ++ y = f :=
  BitVec.eq_of_toNat_eq (by rw [toNat_concat, toNat_field, h])

/-! ### Head words and extension words (04 R131, R135) -/

theorem toNat_extw {x : Nat} (h : x < 2 ^ 14) : (extw x).toNat = x := Nat.mod_eq_of_lt h

theorem extw_eq {x : Nat} {w : PWord} (h : x = w.toNat) : extw x = w := h ▸ ofNat_toNat_self w

theorem opcodeOf_lt (h : PWord) : opcodeOf h < 32 := by
  unfold opcodeOf; omega

theorem toNat_head9 {op lo : Nat} (hop : op < 32) (hlo : lo < 512) : (head9 op lo).toNat = op * 512 + lo := Nat.mod_eq_of_lt (by omega)

theorem opcodeOf_head9 {op lo : Nat} (hop : op < 32) (hlo : lo < 512) : opcodeOf (head9 op lo) = op := by
  rw [opcodeOf, toNat_head9 hop hlo]; omega

/-- A head word is its opcode and its low nine bits. -/
theorem head9_eq {op lo : Nat} {h : PWord} (hop : opcodeOf h = op) (hlo : lo = h.toNat % 512) : head9 op lo = h := by
  apply BitVec.eq_of_toNat_eq
  unfold opcodeOf at hop
  rw [toNat_head9 (by omega) (by omega)]
  omega

theorem head3_eq_head9 (op : Nat) (a b d : Reg) : head3 op a b d = head9 op (a.toNat * 64 + b.toNat * 8 + d.toNat) := by
  simp only [head3, head9, Nat.add_assoc]

/-- A head word is its opcode and its three fields. -/
theorem head3_fields {op : Nat} {h : PWord} (hop : opcodeOf h = op) :
    head3 op (h.extractLsb' 6 3) (h.extractLsb' 3 3) (h.extractLsb' 0 3) = h := by
  rw [head3_eq_head9]
  exact head9_eq hop (by simp only [toNat_field]; omega)

/-- The extension words that follow a head word of opcode `op`, one by one. -/
theorem ext_eq {op : Nat} {h : PWord} {e : List PWord} (hop : opcodeOf h = op) (hlen : e.length = nExt h) :
    e = (List.range (nExtTab.getD op 0)).map fun k => e.getD k 0 := by
  rw [nExt, hop] at hlen
  refine List.ext_getElem (by simp [hlen]) fun k hk _ => ?_
  simp [hk]

theorem one_word {h w : PWord} (hw : w = h) : [w] = [h] := congrArg (List.cons · []) hw

theorem two_words {h w e x : PWord} (hw : w = h) (hx : x = e) : [w, x] = [h, e] := congrArg₂ List.cons hw (one_word hx)

theorem three_words {h w e x f y : PWord} (hw : w = h) (hx : x = e) (hy : y = f) : [w, x, y] = [h, e, f] :=
  congrArg₂ List.cons hw (two_words hx hy)

/-! ### Codes that hold an operand, and TDRAIN's options (04 R146, R159, R163) -/

/-- The codes of the ONE group that hold an operand. -/
theorem decodeOne_of_le (c : CoreId) (t : Thr) {f : Nat} (r : Reg) (hf : 0x10 ≤ f) : decodeOne c t f r =
    if f < 0x14 then if r = 0 then some (.lbrk c t (BitVec.ofNat 2 (f - 0x10))) else none
    else if f < 0x18 then if r = 0 then some (.thrst c t (BitVec.ofNat 2 (f - 0x14))) else none
    else if f < 0x1C then some (.thstart c t (BitVec.ofNat 2 (f - 0x18)) r)
    else if 0x20 ≤ f && f < 0x2F then some (.setcc c t r (BitVec.ofNat 4 (f - 0x20))) else none := by
  obtain ⟨n, rfl⟩ := Nat.exists_eq_add_of_le' hf
  rfl

theorem oneWord_operand {f k n : Nat} (r : Reg) (lo : k ≤ f) (hi : f < k + 2 ^ n) :
    oneWord (k + (BitVec.ofNat n (f - k)).toNat) r = oneWord f r := by
  rw [BitVec.toNat_ofNat, Nat.mod_eq_of_lt (by omega), Nat.add_sub_of_le lo]

/-- A barrier's number fits the field of a flag's number. -/
theorem toNat_barrier (b : BitVec 4) : (b.setWidth 6).toNat = b.toNat := by
  rw [BitVec.toNat_setWidth]; omega

/-- Three extension words spell TDRAIN's options exactly when they are those options' words. -/
theorem decodeDrain_eq_some_iff {e0 e1 e2 : PWord} {o : DrainOpt} : decodeDrain e0 e1 e2 = some o ↔ drainWords o = [e0, e1, e2] := by
  constructor
  · intro spelt
    unfold decodeDrain at spelt
    split at spelt
    · cases spelt
    next zeros =>
      cases spelt
      obtain ⟨⟨z0, z1⟩, z2⟩ : (e0.extractLsb' 0 3 = 0 ∧ e1.extractLsb' 0 5 = 0) ∧ e2.extractLsb' 0 9 = 0 := by simpa using zeros
      rw [field_zero_iff] at z0 z1 z2
      refine three_words (extw_eq ?_) (extw_eq ?_) (extw_eq ?_) <;> simp only [toNat_field, b2n_bit] <;> omega
  · intro words
    obtain ⟨ofmt, rnd, se, sk, sreg, be, bk, breg, ce, creg, ste, stb, za⟩ := o
    have b1 := b2n_le se
    have b2 := b2n_le sk
    have b3 := b2n_le be
    have b4 := b2n_le bk
    have b5 := b2n_le ce
    have b6 := b2n_le ste
    have b7 := b2n_le za
    simp only [drainWords, List.cons.injEq, and_true] at words
    obtain ⟨w0, w1, w2⟩ := words
    have v0 := (congrArg BitVec.toNat w0).symm.trans (toNat_extw (by omega))
    have v1 := (congrArg BitVec.toNat w1).symm.trans (toNat_extw (by omega))
    have v2 := (congrArg BitVec.toNat w2).symm.trans (toNat_extw (by omega))
    have z0 : e0.extractLsb' 0 3 = 0 := field_zero_iff.mpr (by omega)
    have z1 : e1.extractLsb' 0 5 = 0 := field_zero_iff.mpr (by omega)
    have z2 : e2.extractLsb' 0 9 = 0 := field_zero_iff.mpr (by omega)
    simp only [decodeDrain, z0, z1, z2, ne_eq, not_true_eq_false, decide_false, Bool.or_self, Bool.false_eq_true, if_false,
      Option.some.injEq, DrainOpt.mk.injEq]
    exact ⟨field_eq (by omega), field_eq (by omega), bit_eq (by omega), bit_eq (by omega), field_eq (by omega), bit_eq (by omega),
      bit_eq (by omega), field_eq (by omega), bit_eq (by omega), field_eq (by omega), bit_eq (by omega), field_eq (by omega),
      bit_eq (by omega)⟩

end Sys2Proof.Machine

/-! SUPPORT. Decode of encode (04 R131 to R164): the words of an instruction spell it, by the layout of its words. -/

namespace Sys2Proof.Machine

/-- The words spell `i` for a thread, values of operands aside, and are as many as their head word says. -/
def Spells (c : CoreId) (t : Thr) (ws : List PWord) (i : Instr) : Prop :=
  decodeRaw c t (ws.headD 0) ws.tail = some i ∧ ws.length = nExt (ws.headD 0) + 1

section
variable {c : CoreId} {t : Thr} {i : Instr}

/-! ### Layouts of words -/

/-- Words whose head word has the opcode `op` and the low nine bits `lo`. -/
theorem spells_of_head9 {e : List PWord} (op : Nat) {lo : Nat} (hop : op < 32) (hlo : lo < 512) (hlen : e.length = nExtTab.getD op 0)
    (hd : ∀ w, opcodeOf w = op → w.toNat = op * 512 + lo → decodeRaw c t w e = some i) : Spells c t (head9 op lo :: e) i := by
  have opcode := opcodeOf_head9 hop hlo
  refine ⟨hd _ opcode (toNat_head9 hop hlo), ?_⟩
  rw [List.headD_cons, nExt, opcode, List.length_cons, hlen]

/-- Words whose head word has the opcode `op` and three fields. -/
theorem spells_of_head3 {e : List PWord} (op : Nat) {a b d : Reg} (hop : op < 32) (hlen : e.length = nExtTab.getD op 0)
    (hd : ∀ w, opcodeOf w = op → w.extractLsb' 6 3 = a → w.extractLsb' 3 3 = b → w.extractLsb' 0 3 = d → decodeRaw c t w e = some i) :
    Spells c t (head3 op a b d :: e) i := by
  rw [head3_eq_head9]
  exact spells_of_head9 op hop (by omega) hlen fun w hw hv =>
    hd w hw (field_eq (by omega)) (field_eq (by omega)) (field_eq (by omega))

theorem spells_xalu {f : Nat} {d a b : Reg} (fits : f < 2 ^ 14) (h : decodeXalu c t f d a b = some i) :
    Spells c t [head3 0x06 d a b, extw f] i :=
  spells_of_head3 0x06 (by decide) rfl fun w hw f1 f2 f3 => by
    simpa only [decodeRaw, hw, f1, f2, f3, List.getD_cons_zero, toNat_extw fits] using h

theorem spells_ld {d a w : Reg} {off : Option (BitVec 14)} (h : decodeLd c t d a w off = some i) :
    Spells c t (memWords 0x08 d a w off) i := by
  cases off with
  | none => exact spells_of_head3 0x08 (by decide) rfl fun w hw f1 f2 f3 => by simpa only [decodeRaw, hw, f1, f2, f3] using h
  | some x =>
    exact spells_of_head3 0x09 (by decide) rfl fun w hw f1 f2 f3 => by
      simpa only [decodeRaw, hw, f1, f2, f3, List.getD_cons_zero] using h

theorem spells_st {r a w : Reg} {off : Option (BitVec 14)} (h : decodeSt c t r a w off = some i) :
    Spells c t (memWords 0x0A r a w off) i := by
  cases off with
  | none => exact spells_of_head3 0x0A (by decide) rfl fun w hw f1 f2 f3 => by simpa only [decodeRaw, hw, f1, f2, f3] using h
  | some x =>
    exact spells_of_head3 0x0B (by decide) rfl fun w hw f1 f2 f3 => by
      simpa only [decodeRaw, hw, f1, f2, f3, List.getD_cons_zero] using h

theorem spells_one {f : Nat} {r : Reg} (fits : f < 64) (h : decodeOne c t f r = some i) : Spells c t (oneWord f r) i := by
  refine spells_of_head9 0x0F (by decide) (by omega) rfl fun w hw hv => ?_
  have code : (w.extractLsb' 3 6).toNat = f := (toNat_field ..).trans (by omega)
  have reg : w.extractLsb' 0 3 = r := field_eq (by omega)
  simpa only [decodeRaw, hw, code, reg] using h

theorem spells_br {cond : Nat} {a : Bool} {x : BitVec 15} (fits : cond < 16) (h : decodeBr c t cond a x = some i) :
    Spells c t (brWords cond a x) i := by
  have ha := b2n_le a
  refine spells_of_head9 0x10 (by decide) (by omega) rfl fun w hw hv => ?_
  have he : (extw (x.toNat % 2 ^ 14)).toNat = x.toNat % 2 ^ 14 := toNat_extw (by omega)
  have zero : w.extractLsb' 1 3 = 0 := field_zero_iff.mpr (by omega)
  have code : (w.extractLsb' 5 4).toNat = cond := (toNat_field ..).trans (by omega)
  have absolute : w.getLsbD 4 = a := bit_eq (by omega)
  have target : w.extractLsb' 0 1 ++ extw (x.toNat % 2 ^ 14) = x := field_concat_eq (by omega)
  simpa only [decodeRaw, hw, zero, code, absolute, target, List.getD_cons_zero, if_true] using h

theorem spells_vop {fn rnd : Nat} {f1 f2 f3 x : Reg} {fmt : BitVec 3} (hfn : fn < 64) (hrnd : rnd < 4)
    (h : decodeVop c t fn f1 f2 f3 fmt (BitVec.ofNat 2 rnd) x = some i) : Spells c t (vop fn f1 f2 f3 fmt rnd x) i := by
  refine spells_of_head3 0x15 (by decide) rfl fun w hw h1 h2 h3 => ?_
  have he : (extw (fn * 256 + fmt.toNat * 32 + rnd * 8 + x.toNat)).toNat = _ := toNat_extw (by omega)
  generalize extw _ = e at he ⊢
  have code : (e.extractLsb' 8 6).toNat = fn := (toNat_field ..).trans (by omega)
  have format : e.extractLsb' 5 3 = fmt := field_eq (by omega)
  have rounding : e.extractLsb' 3 2 = BitVec.ofNat 2 rnd := field_eq (by rw [BitVec.toNat_ofNat]; omega)
  have fourth : e.extractLsb' 0 3 = x := field_eq (by omega)
  simpa only [decodeRaw, hw, h1, h2, h3, code, format, rounding, fourth, List.getD_cons_zero] using h

theorem spells_tmisc {f1 f2 f3 : Reg} (h : decodeTmisc c t f1 f2 f3 = some i) : Spells c t [head3 0x1B f1 f2 f3] i :=
  spells_of_head3 0x1B (by decide) rfl fun w hw h1 h2 h3 => by simpa only [decodeRaw, hw, h1, h2, h3] using h

theorem spells_dma {f1 f2 f3 : Reg} (h : decodeDma c t f1 f2 f3 = some i) : Spells c t [head3 0x1C f1 f2 f3] i :=
  spells_of_head3 0x1C (by decide) rfl fun w hw h1 h2 h3 => by simpa only [decodeRaw, hw, h1, h2, h3] using h

theorem spells_sync {f1 f2 f3 : Reg} {m : Nat} {n : BitVec 6} {p : Bool} (hm : n.toNat = m) (h : decodeSync c t f1 f2 f3 n p 0 = some i) :
    Spells c t (syncWords f1 f2 f3 m p) i := by
  subst hm
  have hp := b2n_le p
  refine spells_of_head3 0x1D (by decide) rfl fun w hw h1 h2 h3 => ?_
  have he : (extw (n.toNat * 256 + b2n p * 128)).toNat = _ := toNat_extw (by omega)
  generalize extw _ = e at he ⊢
  have number : e.extractLsb' 8 6 = n := field_eq (by omega)
  have polarity : e.getLsbD 7 = p := bit_eq (by omega)
  have zero : e.extractLsb' 0 7 = 0 := field_zero_iff.mpr (by omega)
  simpa only [decodeRaw, hw, h1, h2, h3, number, polarity, zero, List.getD_cons_zero] using h

theorem spells_msg {f1 f2 f3 : Reg} {conn : BitVec 4} {b : Byte} (h : decodeMsg c t f1 f2 f3 conn b 0 = some i) :
    Spells c t (msgWords f1 f2 f3 conn b) i := by
  refine spells_of_head3 0x1E (by decide) rfl fun w hw h1 h2 h3 => ?_
  have he : (extw (conn.toNat * 1024 + b.toNat * 4)).toNat = _ := toNat_extw (by omega)
  generalize extw _ = e at he ⊢
  have connection : e.extractLsb' 10 4 = conn := field_eq (by omega)
  have handler : e.extractLsb' 2 8 = b := field_eq (by omega)
  have zero : e.extractLsb' 0 2 = 0 := field_zero_iff.mpr (by omega)
  simpa only [decodeRaw, hw, h1, h2, h3, connection, handler, zero, List.getD_cons_zero] using h

/-- LOCK, TRYLOCK, UNLOCK and LRST, by their function (04 R150). -/
theorem spells_lock {lo : Nat} (f : Nat) (n : BitVec 4) (d : Reg) (hf : f < 4) (hlo : lo = f * 128 + n.toNat * 8 + d.toNat)
    (h : ∀ w : PWord, opcodeOf w = 0x12 → (w.extractLsb' 7 2).toNat = f → w.extractLsb' 3 4 = n → w.extractLsb' 0 3 = d →
      decodeRaw c t w [] = some i) : Spells c t [head9 0x12 lo] i :=
  spells_of_head9 0x12 (by decide) (by omega) rfl fun w hw hv =>
    h w hw ((toNat_field ..).trans (by omega)) (field_eq (by omega)) (field_eq (by omega))

/-- MFT and MTT, by the bit that tells them apart (04 R151). -/
theorem spells_tr {lo : Nat} (wr : Bool) (n : BitVec 4) (r : Reg) (hlo : lo = b2n wr * 256 + n.toNat * 8 + r.toNat) :
    Spells c t [head9 0x13 lo] (if wr then .mtt c t r n else .mft c t r n) := by
  have hwr := b2n_le wr
  refine spells_of_head9 0x13 (by decide) (by omega) rfl fun w hw hv => ?_
  have zero : w.getLsbD 7 = false := bit_false_iff.mpr (by omega)
  have write : w.getLsbD 8 = wr := bit_eq (by omega)
  have index : w.extractLsb' 3 4 = n := field_eq (by omega)
  have reg : w.extractLsb' 0 3 = r := field_eq (by omega)
  simp only [decodeRaw, hw, zero, write, index, reg]
  cases wr <;> rfl

/-! ### Instructions with a layout of their own -/

theorem spells_movi (d : Reg) (imm : BitVec 20) : Spells c t (encodeInstr (.movi c t d imm)) (.movi c t d imm) := by
  refine spells_of_head9 0x0C (by decide) (by omega) rfl fun w hw hv => ?_
  have he : (extw (imm.toNat % 2 ^ 14)).toNat = imm.toNat % 2 ^ 14 := toNat_extw (by omega)
  have reg : w.extractLsb' 6 3 = d := field_eq (by omega)
  have value : w.extractLsb' 0 6 ++ extw (imm.toNat % 2 ^ 14) = imm := field_concat_eq (by omega)
  simp only [decodeRaw, hw, reg, value, List.getD_cons_zero]

theorem spells_movil (d : Reg) (imm : BitVec 32) : Spells c t (encodeInstr (.movil c t d imm)) (.movil c t d imm) := by
  refine spells_of_head9 0x0D (by decide) (by omega) rfl fun w hw hv => ?_
  have he : (extw (imm.toNat / 2 ^ 14 % 2 ^ 14)).toNat = imm.toNat / 2 ^ 14 % 2 ^ 14 := toNat_extw (by omega)
  have hf : (extw (imm.toNat % 2 ^ 14)).toNat = imm.toNat % 2 ^ 14 := toNat_extw (by omega)
  have zero : w.extractLsb' 4 2 = 0 := field_zero_iff.mpr (by omega)
  have reg : w.extractLsb' 6 3 = d := field_eq (by omega)
  have value : w.extractLsb' 0 4 ++ (extw (imm.toNat / 2 ^ 14 % 2 ^ 14) ++ extw (imm.toNat % 2 ^ 14)) = imm :=
    field_concat_eq (by rw [toNat_concat]; omega)
  simp only [decodeRaw, hw, zero, reg, value, List.getD_cons_zero, List.getD_cons_succ, if_true]

theorem spells_loop (lv : BitVec 2) (g : Reg) (x : BitVec 15) : Spells c t (encodeInstr (.loop c t lv g x)) (.loop c t lv g x) := by
  refine spells_of_head9 0x11 (by decide) (by omega) rfl fun w hw hv => ?_
  have he : (extw (x.toNat % 2 ^ 14)).toNat = x.toNat % 2 ^ 14 := toNat_extw (by omega)
  have zero6 : w.getLsbD 6 = false := bit_false_iff.mpr (by omega)
  have zero1 : w.extractLsb' 1 2 = 0 := field_zero_iff.mpr (by omega)
  have level : w.extractLsb' 7 2 = lv := field_eq (by omega)
  have reg : w.extractLsb' 3 3 = g := field_eq (by omega)
  have last : w.extractLsb' 0 1 ++ extw (x.toNat % 2 ^ 14) = x := field_concat_eq (by omega)
  simp only [decodeRaw, hw, zero6, zero1, level, reg, last, List.getD_cons_zero]
  rfl

theorem spells_trap (imm : BitVec 9) : Spells c t (encodeInstr (.trap c t imm)) (.trap c t imm) := by
  refine spells_of_head9 0x14 (by decide) imm.isLt rfl fun w hw hv => ?_
  have value : w.extractLsb' 0 9 = imm := field_eq (by omega)
  simp only [decodeRaw, hw, value]

theorem spells_tcfg (tb : Reg) (fmt : BitVec 4) (rows bpr : BitVec 6) (pm : Bool) :
    Spells c t (encodeInstr (.tcfg c t tb fmt rows bpr pm)) (.tcfg c t tb fmt rows bpr pm) := by
  have hpm := b2n_le pm
  refine spells_of_head9 0x17 (by decide) (by omega) rfl fun w hw hv => ?_
  have he : (extw (rows.toNat * 256 + bpr.toNat * 4 + b2n pm * 2)).toNat = _ := toNat_extw (by omega)
  generalize extw _ = e at he ⊢
  have zeroW : w.extractLsb' 0 2 = 0 := field_zero_iff.mpr (by omega)
  have zeroE : e.getLsbD 0 = false := bit_false_iff.mpr (by omega)
  have blank : w.extractLsb' 6 3 = tb := field_eq (by omega)
  have format : w.extractLsb' 2 4 = fmt := field_eq (by omega)
  have rowsAre : e.extractLsb' 8 6 = rows := field_eq (by omega)
  have bprIs : e.extractLsb' 2 6 = bpr := field_eq (by omega)
  have pmIs : e.getLsbD 1 = pm := bit_eq (by omega)
  simp only [decodeRaw, hw, zeroW, zeroE, blank, format, rowsAre, bprIs, pmIs, List.getD_cons_zero]
  rfl

theorem spells_tld (tb a g : Reg) (fmt : BitVec 4) (tr : Bool) (rnd : BitVec 2) :
    Spells c t (encodeInstr (.tld c t tb a g fmt tr rnd)) (.tld c t tb a g fmt tr rnd) := by
  have htr := b2n_le tr
  refine spells_of_head3 0x18 (by decide) rfl fun w hw f1 f2 f3 => ?_
  have he : (extw (fmt.toNat * 1024 + b2n tr * 512 + rnd.toNat * 128)).toNat = _ := toNat_extw (by omega)
  generalize extw _ = e at he ⊢
  have zero : e.extractLsb' 0 7 = 0 := field_zero_iff.mpr (by omega)
  have format : e.extractLsb' 10 4 = fmt := field_eq (by omega)
  have transposed : e.getLsbD 9 = tr := bit_eq (by omega)
  have rounding : e.extractLsb' 7 2 = rnd := field_eq (by omega)
  simp only [decodeRaw, hw, f1, f2, f3, zero, format, transposed, rounding, List.getD_cons_zero]
  rfl

theorem spells_tdrain (tc a g : Reg) (o : DrainOpt) : Spells c t (encodeInstr (.tdrain c t tc a g o)) (.tdrain c t tc a g o) := by
  have options := decodeDrain_eq_some_iff.mpr (Eq.refl (drainWords o))
  refine spells_of_head3 0x19 (by decide) rfl fun w hw f1 f2 f3 => ?_
  simp only [decodeRaw, hw, f1, f2, f3, drainWords, List.getD_cons_zero, List.getD_cons_succ, options, Option.map_some]

theorem spells_tmma (tc ta tb : Reg) (q z : Bool) : Spells c t (encodeInstr (.tmma c t tc ta tb q z)) (.tmma c t tc ta tb q z) := by
  have hq := b2n_le q
  have hz := b2n_le z
  refine spells_of_head3 0x1A (by decide) rfl fun w hw f1 f2 f3 => ?_
  have he : (extw (b2n q * 8192 + b2n z * 4096)).toNat = _ := toNat_extw (by omega)
  generalize extw _ = e at he ⊢
  have zero : e.extractLsb' 0 12 = 0 := field_zero_iff.mpr (by omega)
  have qIs : e.getLsbD 13 = q := bit_eq (by omega)
  have zIs : e.getLsbD 12 = z := bit_eq (by omega)
  simp only [decodeRaw, hw, f1, f2, f3, zero, qIs, zIs, List.getD_cons_zero]
  rfl

/-! ### Instructions whose code holds an operand -/

theorem spells_lbrk (lv : BitVec 2) : Spells c t (encodeInstr (.lbrk c t lv)) (.lbrk c t lv) := by
  refine spells_one (by omega) ?_
  rw [decodeOne_of_le c t 0 (by omega), if_pos (by omega), if_pos rfl, Nat.add_sub_cancel_left, ofNat_toNat_self]

theorem spells_thrst (k : Thr) : Spells c t (encodeInstr (.thrst c t k)) (.thrst c t k) := by
  refine spells_one (by omega) ?_
  rw [decodeOne_of_le c t 0 (by omega), if_neg (by omega), if_pos (by omega), if_pos rfl, Nat.add_sub_cancel_left, ofNat_toNat_self]

theorem spells_thstart (k : Thr) (r : Reg) : Spells c t (encodeInstr (.thstart c t k r)) (.thstart c t k r) := by
  refine spells_one (by omega) ?_
  rw [decodeOne_of_le c t r (by omega), if_neg (by omega), if_neg (by omega), if_pos (by omega), Nat.add_sub_cancel_left,
    ofNat_toNat_self]

/-- Condition 15 is reserved in SETcc (04 R137). -/
theorem spells_setcc (r : Reg) (cc : BitVec 4) (hcc : cc ≠ 15) : Spells c t (encodeInstr (.setcc c t r cc)) (.setcc c t r cc) := by
  have lt : cc.toNat < 15 := Nat.lt_of_le_of_ne (by omega) fun e => hcc (BitVec.eq_of_toNat_eq e)
  refine spells_one (by omega) ?_
  rw [decodeOne_of_le c t r (by omega), if_neg (by omega), if_neg (by omega), if_neg (by omega), if_pos (by simp; omega),
    Nat.add_sub_cancel_left, ofNat_toNat_self]

/-- Conditions 14 and 15 spell BR, JMP and CALL (04 R147). -/
theorem spells_bcc (cc : BitVec 4) (a : Bool) (x : BitVec 15) (hcc : cc.toNat < 14) :
    Spells c t (encodeInstr (.bcc c t cc a x)) (.bcc c t cc a x) := by
  refine spells_br (by omega) ?_
  rw [decodeBr, if_neg (by omega), if_neg (by omega), ofNat_toNat_self]

theorem spells_vcvt (fmt dst : BitVec 3) (rnd : BitVec 2) (d a : Reg) :
    Spells c t (encodeInstr (.vcvt c t fmt dst rnd d a)) (.vcvt c t fmt dst rnd d a) := by
  refine spells_vop (by decide) rnd.isLt ?_
  rw [ofNat_toNat_self]
  rfl

theorem spells_waitb (d : Reg) (b : BitVec 4) : Spells c t (encodeInstr (.waitb c t d b)) (.waitb c t d b) := by
  refine spells_sync (toNat_barrier b) ?_
  have lt : b.toNat % 64 < 16 := by omega
  simp [decodeSync, lt]

theorem spells_arrb (b : BitVec 4) : Spells c t (encodeInstr (.arrb c t b)) (.arrb c t b) := by
  refine spells_sync (toNat_barrier b) ?_
  have lt : b.toNat % 64 < 16 := by omega
  simp [decodeSync, lt]

end

/-- The words of an instruction spell it: each instruction by its layout. -/
theorem spells_encodeInstr {c : CoreId} {t : Thr} {i : Instr} (thread : threadOf i = some (c, t)) (wf : i.wf = true)
    (operands : reservedOperands i = false) (legal : ∀ h e, i ≠ .reservedEncoding c t h e) : Spells c t (encodeInstr i) i := by
  cases i
  case add | sub | and | or | xor | mul =>
    cases thread
    exact spells_of_head3 _ (by decide) rfl fun w hw f1 f2 f3 => by simp only [decodeRaw, hw, f1, f2, f3]
  case mov | not | cmp =>
    cases thread
    exact spells_of_head3 0x07 (by decide) rfl fun w hw f1 f2 f3 => by simp only [decodeRaw, hw, f1, f2, f3]; rfl
  case addi | cmpi | vld | vst | vldbc =>
    cases thread
    exact spells_of_head3 _ (by decide) rfl fun w hw f1 f2 f3 => by simp only [decodeRaw, hw, f1, f2, f3]; rfl
  case shl | shr | sar | rot | min | max | addc | subc | mulh | mulhu | div | divu | rem | remu =>
    cases thread
    exact spells_xalu (by decide) rfl
  case ldw | ldh | ldhu | ldb | ldbu => cases thread; exact spells_ld rfl
  case lds => cases thread; exact spells_ld (off := some _) rfl
  case stw | sth | stb => cases thread; exact spells_st rfl
  case sts => cases thread; exact spells_st (off := some _) rfl
  case nop | push | pop | jr | callr | ret | rte | halt | rdcyc | mfs | mts | settc | clrtc | waitt | rdfs | consume =>
    cases thread
    exact spells_one (by decide) rfl
  case lbrk => cases thread; exact spells_lbrk _
  case thrst => cases thread; exact spells_thrst _
  case thstart => cases thread; exact spells_thstart _ _
  case setcc => cases thread; exact spells_setcc _ _ (by simpa [reservedOperands] using operands)
  case br => cases thread; exact spells_br (a := false) (by decide) rfl
  case jmp => cases thread; exact spells_br (a := true) (by decide) rfl
  case bcc => cases thread; exact spells_bcc _ _ _ (of_decide_eq_true wf)
  case call => cases thread; exact spells_br (by decide) rfl
  case movi => cases thread; exact spells_movi _ _
  case movil => cases thread; exact spells_movil _ _
  case loop => cases thread; exact spells_loop _ _ _
  case lock _ _ d n =>
    cases thread
    exact spells_lock 0 n d (by decide) (by omega) fun w hw f1 f2 f3 => by simp only [decodeRaw, hw, f1, f2, f3]
  case trylock _ _ d n =>
    cases thread
    exact spells_lock 1 n d (by decide) (by omega) fun w hw f1 f2 f3 => by simp only [decodeRaw, hw, f1, f2, f3]
  case unlock _ _ n =>
    cases thread
    exact spells_lock 2 n 0 (by decide) rfl fun w hw f1 f2 f3 => by simp only [decodeRaw, hw, f1, f2, f3]; rfl
  case lrst _ _ n =>
    cases thread
    exact spells_lock 3 n 0 (by decide) rfl fun w hw f1 f2 f3 => by simp only [decodeRaw, hw, f1, f2, f3]; rfl
  case mft => cases thread; exact spells_tr false _ _ (by simp [b2n])
  case mtt => cases thread; exact spells_tr true _ _ (by simp [b2n])
  case trap => cases thread; exact spells_trap _
  case vadd | vsub | vmul | vfma | vmin | vmax | vabs | vneg | vdiv | vsqrt | vcmpeq | vcmplt | vcmple | vsel | vand | vor | vxor | vshl
      | vshr | vsar | vrsum | vrmax | vbcast | vext | vins | vseed =>
    cases thread
    exact spells_vop (by decide) (by decide) rfl
  case vcvt => cases thread; exact spells_vcvt _ _ _ _ _
  case tcfg => cases thread; exact spells_tcfg _ _ _ _ _
  case tld => cases thread; exact spells_tld _ _ _ _ _ _
  case tdrain => cases thread; exact spells_tdrain _ _ _ _
  case tmma => cases thread; exact spells_tmma _ _ _ _ _
  case trel | tzero | tflags | tclrf | txcap => cases thread; exact spells_tmisc rfl
  case dmago | dmastat | dmadis => cases thread; exact spells_dma rfl
  case waitf | setf | clrf | tstf => cases thread; exact spells_sync rfl rfl
  case waitb => cases thread; exact spells_waitb _ _
  case arrb => cases thread; exact spells_arrb _
  case copen | cclose | msend | mrecv | mdone => cases thread; exact spells_msg rfl
  case reservedEncoding => cases thread; exact absurd rfl (legal _ _)
  all_goals cases thread

end Sys2Proof.Machine

/-! SUPPORT. Encode of decode (04 R131 to R164): words that decode to an instruction are that instruction's words, opcode by opcode. -/

namespace Sys2Proof.Machine

/-- Whatever `o` holds is an instruction of the thread whose words are `ws`. -/
def Yields (c : CoreId) (t : Thr) (ws : List PWord) (o : Option Instr) : Prop :=
  ∀ i, o = some i → encodeInstr i = ws ∧ threadOf i = some (c, t)

section
variable {c : CoreId} {t : Thr} {i : Instr} {ws : List PWord} {o : Option Instr}

theorem yields_none : Yields c t ws none ↔ True := iff_true_intro fun _ h => nomatch h

theorem yields_some : Yields c t ws (some i) ↔ encodeInstr i = ws ∧ threadOf i = some (c, t) :=
  ⟨fun h => h i rfl, fun h _ e => Option.some.inj e ▸ h⟩

/-- A decoding under a condition. -/
theorem yields_if {p : Prop} [Decidable p] : Yields c t ws (if p then o else none) ↔ (p → Yields c t ws o) := by
  split <;> simp [*, yields_none]

/-- A decoding unless a condition holds. -/
theorem yields_unless {p : Prop} [Decidable p] : Yields c t ws (if p then none else o) ↔ (¬ p → Yields c t ws o) := by
  split <;> simp [*, yields_none]

/-! ### Groups of functions: each row of a group's table gives the instruction with the row's words, once the operands marked 0 are 0 -/

theorem yields_decodeXalu (f : Nat) (d a b : Reg) : Yields c t [head3 0x06 d a b, extw f] (decodeXalu c t f d a b) := by
  unfold decodeXalu
  split <;> simp only [yields_none, yields_some] <;> exact ⟨rfl, rfl⟩

theorem yields_decodeLd (d a w : Reg) (off : Option (BitVec 14)) : Yields c t (memWords 0x08 d a w off) (decodeLd c t d a w off) := by
  nth_rw 1 [← ofNat_toNat_self w]
  unfold decodeLd
  generalize w.toNat = n
  split <;> simp only [yields_none, yields_some, yields_if] <;> intros <;> subst_vars <;> exact ⟨rfl, rfl⟩

theorem yields_decodeSt (r a w : Reg) (off : Option (BitVec 14)) : Yields c t (memWords 0x0A r a w off) (decodeSt c t r a w off) := by
  nth_rw 1 [← ofNat_toNat_self w]
  unfold decodeSt
  generalize w.toNat = n
  split <;> simp only [yields_none, yields_some, yields_if] <;> intros <;> subst_vars <;> exact ⟨rfl, rfl⟩

theorem yields_decodeOne (f : Nat) (r : Reg) : Yields c t (oneWord f r) (decodeOne c t f r) := by
  by_cases hf : 0x10 ≤ f
  · rw [decodeOne_of_le c t r hf]
    split
    · simp only [yields_some, yields_if]
      rintro rfl
      exact ⟨oneWord_operand 0 hf (by omega), rfl⟩
    split
    · simp only [yields_some, yields_if]
      rintro rfl
      exact ⟨oneWord_operand 0 (by omega) (by omega), rfl⟩
    split
    · exact yields_some.mpr ⟨oneWord_operand r (by omega) (by omega), rfl⟩
    · simp only [yields_some, yields_if, Bool.and_eq_true, decide_eq_true_eq]
      rintro ⟨lo, hi⟩
      exact ⟨oneWord_operand r lo (by omega), rfl⟩
  · have hf : f < 0x10 := Nat.lt_of_not_le hf
    interval_cases f <;> simp only [decodeOne, yields_some, yields_if] <;> intros <;> subst_vars <;> exact ⟨rfl, rfl⟩

theorem yields_decodeBr {cond : Nat} (a : Bool) (x : BitVec 15) (h : cond < 16) :
    Yields c t (brWords cond a x) (decodeBr c t cond a x) := by
  unfold decodeBr
  split
  · subst_vars; exact yields_some.mpr ⟨rfl, rfl⟩
  split
  · subst_vars; cases a <;> exact yields_some.mpr ⟨rfl, rfl⟩
  · have code : (BitVec.ofNat 4 cond).toNat = cond := Nat.mod_eq_of_lt h
    exact yields_some.mpr ⟨congrArg (brWords · a x) code, rfl⟩

theorem yields_decodeVop (fn : Nat) (f1 f2 f3 : Reg) (fmt : BitVec 3) (rnd : BitVec 2) (x : Reg) :
    Yields c t (vop fn f1 f2 f3 fmt rnd.toNat x) (decodeVop c t fn f1 f2 f3 fmt rnd x) := by
  unfold decodeVop
  dsimp only
  split <;> simp only [yields_none, yields_some, yields_if, Bool.and_eq_true, decide_eq_true_eq, and_imp] <;> intros <;> subst_vars <;>
    exact ⟨rfl, rfl⟩

theorem yields_decodeTmisc (f1 f2 f3 : Reg) : Yields c t [head3 0x1B f1 f2 f3] (decodeTmisc c t f1 f2 f3) := by
  nth_rw 1 [← ofNat_toNat_self f1]
  unfold decodeTmisc
  dsimp only
  generalize f1.toNat = n
  split <;> simp only [yields_none, yields_some, yields_if] <;> intros <;> subst_vars <;> exact ⟨rfl, rfl⟩

theorem yields_decodeDma (f1 f2 f3 : Reg) : Yields c t [head3 0x1C f1 f2 f3] (decodeDma c t f1 f2 f3) := by
  nth_rw 1 [← ofNat_toNat_self f1]
  unfold decodeDma
  generalize f1.toNat = n
  split <;> simp only [yields_none, yields_some, yields_if] <;> intros <;> subst_vars <;> exact ⟨rfl, rfl⟩

theorem yields_decodeSync (f1 f2 f3 : Reg) (n : BitVec 6) (p : Bool) :
    Yields c t (syncWords f1 f2 f3 n.toNat p) (decodeSync c t f1 f2 f3 n p 0) := by
  have barrier : n.toNat < 16 → (n.truncate 4).toNat = n.toNat := fun h => by rw [BitVec.toNat_setWidth]; omega
  nth_rw 1 [← ofNat_toNat_self f1]
  unfold decodeSync
  dsimp only
  rw [yields_unless]
  intro
  generalize f1.toNat = k
  split <;> simp only [yields_none, yields_some, yields_if, Bool.and_eq_true, decide_eq_true_eq, Bool.not_eq_true', and_imp]
  case h_5 =>
    rintro lt rfl rfl
    exact ⟨congrArg (syncWords 4 f2 0 · false) (barrier lt), rfl⟩
  case h_6 =>
    rintro rfl lt rfl rfl
    exact ⟨congrArg (syncWords 5 0 0 · false) (barrier lt), rfl⟩
  all_goals
    intros
    subst_vars
    exact ⟨rfl, rfl⟩

theorem yields_decodeMsg (f1 f2 f3 : Reg) (conn : BitVec 4) (b : Byte) :
    Yields c t (msgWords f1 f2 f3 conn b) (decodeMsg c t f1 f2 f3 conn b 0) := by
  nth_rw 1 [← ofNat_toNat_self f1]
  unfold decodeMsg
  rw [yields_unless]
  intro
  generalize f1.toNat = k
  split <;> simp only [yields_none, yields_some, yields_if, Bool.and_eq_true, decide_eq_true_eq, and_imp] <;> intros <;> subst_vars <;>
    exact ⟨rfl, rfl⟩

/-! ### Opcodes -/

variable {op : Nat} {h : PWord} {e : List PWord}

/-- What words yield, from their head word of opcode `op` and their extension words one by one. -/
theorem yields_words (hop : opcodeOf h = op) (hlen : e.length = nExt h)
    (hw : ws = h :: (List.range (nExtTab.getD op 0)).map fun k => e.getD k 0) (yields : Yields c t ws o) : Yields c t (h :: e) o := by
  rw [ext_eq hop hlen, ← hw]; exact yields

/-- The same for a decoding that gives one instruction. -/
theorem yields_instr (hop : opcodeOf h = op) (hlen : e.length = nExt h)
    (hw : encodeInstr i = h :: (List.range (nExtTab.getD op 0)).map fun k => e.getD k 0) (thread : threadOf i = some (c, t)) :
    Yields c t (h :: e) (some i) := yields_words hop hlen hw (yields_some.mpr ⟨rfl, thread⟩)

section
variable (hlen : e.length = nExt h)
include hlen

theorem yields_movi (hop : opcodeOf h = 0x0C) : Yields c t (h :: e) (decodeRaw c t h e) := by
  simp only [decodeRaw, hop]
  refine yields_instr hop hlen (two_words (head9_eq hop ?_) (extw_eq ?_)) rfl <;> simp only [toNat_concat, toNat_field] <;> omega

theorem yields_movil (hop : opcodeOf h = 0x0D) : Yields c t (h :: e) (decodeRaw c t h e) := by
  simp only [decodeRaw, hop, yields_if, field_zero_iff]
  intro zero
  refine yields_instr hop hlen (three_words (head9_eq hop ?_) (extw_eq ?_) (extw_eq ?_)) rfl <;>
    simp only [toNat_concat, toNat_field] <;> omega

theorem yields_br (hop : opcodeOf h = 0x10) : Yields c t (h :: e) (decodeRaw c t h e) := by
  simp only [decodeRaw, hop, yields_if, field_zero_iff]
  intro zero
  refine yields_words hop hlen (two_words (head9_eq hop ?_) (extw_eq ?_)) (yields_decodeBr _ _ (BitVec.isLt _)) <;>
    simp only [toNat_concat, toNat_field, b2n_bit] <;> omega

theorem yields_loop (hop : opcodeOf h = 0x11) : Yields c t (h :: e) (decodeRaw c t h e) := by
  simp only [decodeRaw, hop, yields_unless]
  intro zeros
  obtain ⟨zero6, zero1⟩ : h.getLsbD 6 = false ∧ h.extractLsb' 1 2 = 0 := by simpa using zeros
  rw [bit_false_iff] at zero6
  rw [field_zero_iff] at zero1
  refine yields_instr hop hlen (two_words (head9_eq hop ?_) (extw_eq ?_)) rfl <;> simp only [toNat_concat, toNat_field] <;> omega

theorem yields_lock (hop : opcodeOf h = 0x12) : Yields c t (h :: e) (decodeRaw c t h e) := by
  simp only [decodeRaw, hop]
  have code := toNat_field h 7 2
  split
  · refine yields_instr hop hlen (one_word (head9_eq hop ?_)) rfl
    simp only [toNat_field]; omega
  · refine yields_instr hop hlen (one_word (head9_eq hop ?_)) rfl
    simp only [toNat_field]; omega
  · simp only [yields_if, field_zero_iff]
    intro zero
    refine yields_instr hop hlen (one_word (head9_eq hop ?_)) rfl
    simp only [toNat_field]; omega
  next not0 not1 not2 =>
    have code3 : (h.extractLsb' 7 2).toNat = 3 := by
      simp only [imp_false] at not0 not1 not2; omega
    simp only [yields_if, field_zero_iff]
    intro zero
    refine yields_instr hop hlen (one_word (head9_eq hop ?_)) rfl
    simp only [toNat_field]; omega

theorem yields_tr (hop : opcodeOf h = 0x13) : Yields c t (h :: e) (decodeRaw c t h e) := by
  simp only [decodeRaw, hop, yields_unless, Bool.not_eq_true, bit_false_iff]
  intro zero
  have write := b2n_bit h 8
  cases wr : h.getLsbD 8 <;> rw [wr] at write
  · change 0 = _ at write
    refine yields_instr hop hlen (one_word (head9_eq hop ?_)) rfl
    simp only [toNat_field]; omega
  · change 1 = _ at write
    refine yields_instr hop hlen (one_word (head9_eq hop ?_)) rfl
    simp only [toNat_field]; omega

theorem yields_trap (hop : opcodeOf h = 0x14) : Yields c t (h :: e) (decodeRaw c t h e) := by
  simp only [decodeRaw, hop]
  refine yields_instr hop hlen (one_word (head9_eq hop ?_)) rfl
  simp only [toNat_field]; omega

theorem yields_vop (hop : opcodeOf h = 0x15) : Yields c t (h :: e) (decodeRaw c t h e) := by
  simp only [decodeRaw, hop]
  refine yields_words hop hlen (two_words (head3_fields hop) (extw_eq ?_)) (yields_decodeVop _ _ _ _ _ _ _)
  simp only [toNat_field]; omega

theorem yields_tcfg (hop : opcodeOf h = 0x17) : Yields c t (h :: e) (decodeRaw c t h e) := by
  simp only [decodeRaw, hop, yields_unless]
  intro zeros
  obtain ⟨zeroH, zeroE⟩ : h.extractLsb' 0 2 = 0 ∧ (e.getD 0 0).getLsbD 0 = false := by simpa using zeros
  rw [field_zero_iff] at zeroH
  rw [bit_false_iff] at zeroE
  refine yields_instr hop hlen (two_words (head9_eq hop ?_) (extw_eq ?_)) rfl <;> simp only [toNat_field, b2n_bit] <;> omega

theorem yields_tld (hop : opcodeOf h = 0x18) : Yields c t (h :: e) (decodeRaw c t h e) := by
  simp only [decodeRaw, hop, yields_unless, ne_eq, not_not, field_zero_iff]
  intro zero
  refine yields_instr hop hlen (two_words (head3_fields hop) (extw_eq ?_)) rfl
  simp only [toNat_field, b2n_bit]; omega

theorem yields_tdrain (hop : opcodeOf h = 0x19) : Yields c t (h :: e) (decodeRaw c t h e) := by
  simp only [decodeRaw, hop]
  intro i found
  obtain ⟨o, options, rfl⟩ := Option.map_eq_some_iff.mp found
  exact yields_instr (i := .tdrain c t _ _ _ o) hop hlen (congrArg₂ List.cons (head3_fields hop) (decodeDrain_eq_some_iff.mp options)) rfl _ rfl

theorem yields_tmma (hop : opcodeOf h = 0x1A) : Yields c t (h :: e) (decodeRaw c t h e) := by
  simp only [decodeRaw, hop, yields_unless, ne_eq, not_not, field_zero_iff]
  intro zero
  refine yields_instr hop hlen (two_words (head3_fields hop) (extw_eq ?_)) rfl
  simp only [b2n_bit]; omega

theorem yields_sync (hop : opcodeOf h = 0x1D) : Yields c t (h :: e) (decodeRaw c t h e) := by
  simp only [decodeRaw, hop]
  by_cases zero : (e.getD 0 0).extractLsb' 0 7 = 0
  · rw [zero]
    rw [field_zero_iff] at zero
    refine yields_words hop hlen (two_words (head3_fields hop) (extw_eq ?_)) (yields_decodeSync _ _ _ _ _)
    simp only [toNat_field, b2n_bit]; omega
  · rw [decodeSync, if_pos zero]; exact yields_none.mpr trivial

theorem yields_msg (hop : opcodeOf h = 0x1E) : Yields c t (h :: e) (decodeRaw c t h e) := by
  simp only [decodeRaw, hop]
  by_cases zero : (e.getD 0 0).extractLsb' 0 2 = 0
  · rw [zero]
    rw [field_zero_iff] at zero
    refine yields_words hop hlen (two_words (head3_fields hop) (extw_eq ?_)) (yields_decodeMsg _ _ _ _ _)
    simp only [toNat_field]; omega
  · rw [decodeMsg, if_pos zero]; exact yields_none.mpr trivial

/-- MOV, NOT and CMP; ADDI and CMPI; VLD, VST and VLDBC: F3 is the function. -/
theorem yields_by_f3 (hop : opcodeOf h = op) (hf : op = 0x07 ∨ op = 0x0E ∨ op = 0x16) : Yields c t (h :: e) (decodeRaw c t h e) := by
  have f3 := ofNat_toNat_self (h.extractLsb' 0 3)
  have head := head3_fields hop
  rw [← f3] at head
  rcases hf with rfl | rfl | rfl <;> simp only [decodeRaw, hop]
  · refine yields_words hop hlen (one_word head) ?_
    generalize (h.extractLsb' 0 3).toNat = n
    split <;> simp only [yields_none, yields_some] <;> exact ⟨rfl, rfl⟩
  · refine yields_words hop hlen (two_words head rfl) ?_
    generalize (h.extractLsb' 0 3).toNat = n
    generalize h.extractLsb' 6 3 = f1
    split <;> simp only [yields_none, yields_some, yields_if] <;> intros <;> subst_vars <;> exact ⟨rfl, rfl⟩
  · refine yields_words hop hlen (two_words head rfl) ?_
    generalize (h.extractLsb' 0 3).toNat = n
    split <;> simp only [yields_none, yields_some] <;> exact ⟨rfl, rfl⟩

/-- Words whose number is what their head word says yield what they decode to, by the opcode. -/
theorem yields_decodeRaw : Yields c t (h :: e) (decodeRaw c t h e) := by
  match hop : opcodeOf h, opcodeOf_lt h with
  | 0x00, _ | 0x01, _ | 0x02, _ | 0x03, _ | 0x04, _ | 0x05, _ =>
    simp only [decodeRaw, hop]; exact yields_instr hop hlen (one_word (head3_fields hop)) rfl
  | 0x06, _ =>
    simp only [decodeRaw, hop]; exact yields_words hop hlen (two_words (head3_fields hop) (extw_eq rfl)) (yields_decodeXalu _ _ _ _)
  | 0x07, _ | 0x0E, _ | 0x16, _ => exact yields_by_f3 hlen hop (by decide)
  | 0x08, _ => simp only [decodeRaw, hop]; exact yields_words hop hlen (one_word (head3_fields hop)) (yields_decodeLd _ _ _ none)
  | 0x09, _ => simp only [decodeRaw, hop]; exact yields_words hop hlen (two_words (head3_fields hop) rfl) (yields_decodeLd _ _ _ (some _))
  | 0x0A, _ => simp only [decodeRaw, hop]; exact yields_words hop hlen (one_word (head3_fields hop)) (yields_decodeSt _ _ _ none)
  | 0x0B, _ => simp only [decodeRaw, hop]; exact yields_words hop hlen (two_words (head3_fields hop) rfl) (yields_decodeSt _ _ _ (some _))
  | 0x0C, _ => exact yields_movi hlen hop
  | 0x0D, _ => exact yields_movil hlen hop
  | 0x0F, _ =>
    simp only [decodeRaw, hop]
    exact yields_words hop hlen (one_word (head9_eq hop (by simp only [toNat_field]; omega))) (yields_decodeOne _ _)
  | 0x10, _ => exact yields_br hlen hop
  | 0x11, _ => exact yields_loop hlen hop
  | 0x12, _ => exact yields_lock hlen hop
  | 0x13, _ => exact yields_tr hlen hop
  | 0x14, _ => exact yields_trap hlen hop
  | 0x15, _ => exact yields_vop hlen hop
  | 0x17, _ => exact yields_tcfg hlen hop
  | 0x18, _ => exact yields_tld hlen hop
  | 0x19, _ => exact yields_tdrain hlen hop
  | 0x1A, _ => exact yields_tmma hlen hop
  | 0x1B, _ => simp only [decodeRaw, hop]; exact yields_words hop hlen (one_word (head3_fields hop)) (yields_decodeTmisc _ _ _)
  | 0x1C, _ => simp only [decodeRaw, hop]; exact yields_words hop hlen (one_word (head3_fields hop)) (yields_decodeDma _ _ _)
  | 0x1D, _ => exact yields_sync hlen hop
  | 0x1E, _ => exact yields_msg hlen hop
  | 0x1F, _ => simp only [decodeRaw, hop, yields_none]
  | n + 0x20, lt => exact absurd lt (by omega)

end
end

/-! ### The round trip -/

theorem decodeWords_eq_some_iff {c : CoreId} {t : Thr} {h : PWord} {e : List PWord} {i : Instr} :
    decodeWords c t h e = some i ↔ decodeRaw c t h e = some i ∧ reservedOperands i = false := by
  simp only [decodeWords, Option.bind_eq_some_iff, Option.ite_none_left_eq_some, Option.some.injEq, Bool.not_eq_true]
  exact ⟨fun ⟨_, raw, operands, same⟩ => same ▸ ⟨raw, operands⟩, fun ⟨raw, operands⟩ => ⟨i, raw, operands, rfl⟩⟩

/-- Settles O6: the words of an instruction spell it, by its layout; words yield what they decode to, by their opcode. -/
theorem instructionWordsRoundTrip : Obligations.InstructionWordsRoundTrip := by
  unfold Obligations.InstructionWordsRoundTrip
  refine fun c t => ⟨fun i thread wf operands legal => ?_, fun h e i hlen decodes => ?_⟩
  · obtain ⟨raw, length⟩ := spells_encodeInstr thread wf operands legal
    exact ⟨decodeWords_eq_some_iff.mpr ⟨raw, operands⟩, length⟩
  · obtain ⟨raw, operands⟩ := decodeWords_eq_some_iff.mp decodes
    obtain ⟨words, thread⟩ := yields_decodeRaw hlen i raw
    exact ⟨words, thread, operands⟩

end Sys2Proof.Machine

/-! SUPPORT. Control transfer, thread registers, the timer and traps by instruction (03 R96, R110, R120, R560; 04 R137, R147, R151, R152). -/

namespace Sys2Proof.Machine

@[simp] theorem State.rs_atIssue (s : State) (c : CoreId) (t : Thr) (i : Instr) :
    ((s.atIssue c t i).th c t).rs = (s.th c t).rs := by rw [State.th_atIssue]

theorem State.condHolds_atIssue (s : State) (c : CoreId) (t : Thr) (i : Instr) (cc : BitVec 4) :
    condHolds ((s.atIssue c t i).th c t) cc = condHolds (s.th c t) cc := by rw [State.th_atIssue]; rfl

/-! ### Branches, calls and returns (03 R96; 04 R147) -/

/-- A call finds room on the return stack and pushes its return address. -/
theorem callTo_atIssue_room (s : State) (c : CoreId) (t : Thr) (i : Instr) (len target : BitVec 15) (room : (s.th c t).rs.length < 16) :
    callTo c t len target (s.atIssue c t i) =
      .jump ((s.atIssue c t i).onTh c t fun y => { y with rs := ((s.th c t).pc + len) :: (s.th c t).rs }) target := by
  have notFull : ¬ 16 ≤ ((s.atIssue c t i).th c t).rs.length := by rw [State.rs_atIssue]; omega
  rw [callTo, if_neg notFull]
  exact congrArg (Res.jump · target) (State.onTh_congr _ _ _ _ _ (by rw [State.pc_atIssue, State.rs_atIssue]))

/-- A call finds the return stack full. -/
theorem callTo_atIssue_full (s : State) (c : CoreId) (t : Thr) (i : Instr) (len target : BitVec 15) (full : 16 ≤ (s.th c t).rs.length) :
    callTo c t len target (s.atIssue c t i) = .fault (s.atIssue c t i) 0x07 0 0 :=
  if_pos (by rw [State.rs_atIssue]; exact full)

/-- Settles O14: branches by their target, calls by the room on the return stack, RET by what the stack holds. -/
theorem branchesCallsAndReturns : Obligations.BranchesCallsAndReturns := by
  unfold Obligations.BranchesCallsAndReturns
  intro s c t r cc a e g rest x tgt pushed
  have runs := fun i body r arm => s.issuesTo_of_body c t i body r arm
  refine ⟨runs _ _ (.jump _ _) (exec_br ..) ?_, runs _ _ (.jump _ _) (exec_jmp ..) rfl, fun notCall holds => ?_, fun notCall fails => ?_,
    runs _ _ (.jump _ _) (exec_jr ..) ?_, fun room => ⟨?_, ?_⟩, fun full => ⟨?_, ?_⟩, fun stack => ?_, fun stack => ?_⟩
  · rw [State.pc_atIssue]; rfl
  · refine runs _ _ (.jump _ _) (exec_bcc ..) ?_
    dsimp only
    rw [if_neg notCall, State.condHolds_atIssue, if_pos holds, State.pc_atIssue]; rfl
  · refine runs _ _ (.seq _) (exec_bcc ..) ?_
    dsimp only
    rw [if_neg notCall, State.condHolds_atIssue, if_neg (Bool.eq_false_iff.mp fails)]
  · rw [State.gr_atIssue]
  · refine runs _ _ (.jump _ _) (exec_call ..) ?_
    rw [State.pc_atIssue, callTo_atIssue_room _ _ _ _ _ _ room]; rfl
  · refine runs _ _ (.jump _ _) (exec_callr ..) ?_
    rw [State.gr_atIssue, callTo_atIssue_room _ _ _ _ _ _ room]
  · exact runs _ _ (.fault _ _ _ _) (exec_call ..) (callTo_atIssue_full _ _ _ _ _ _ full)
  · exact runs _ _ (.fault _ _ _ _) (exec_callr ..) (callTo_atIssue_full _ _ _ _ _ _ full)
  · have top : ((s.atIssue c t (.ret c t)).th c t).rs = g :: rest := (s.rs_atIssue c t _).trans stack
    exact runs _ _ (.jump _ _) (exec_ret ..) (by rw [top])
  · have empty : ((s.atIssue c t (.ret c t)).th c t).rs = [] := (s.rs_atIssue c t _).trans stack
    exact runs _ _ (.fault _ _ _ _) (exec_ret ..) (by rw [empty])

/-! ### Thread registers, the timer, HALT and LRST (03 R110, R116, R120, R560; 04 R151) -/

/-- In the issue cycle the thread registers read as before. -/
theorem State.trRead_atIssue (s : State) (c : CoreId) (t : Thr) (i : Instr) (n : Nat) :
    trRead ((s.atIssue c t i).core c) t n = trRead (s.core c) t n := by
  have vector : ((s.atIssue c t i).core c).tvec t = (s.core c).tvec t := by
    unfold Core.tvec; rw [State.w_atIssue _ _ _ _ _ _ (by revert t; decide)]
  unfold trRead
  rw [State.th_core_atIssue, vector]
  rfl

/-- A write of a thread register takes the value that the source register held before the issue. -/
theorem State.issuesTo_mtt (s : State) (c : CoreId) (t : Thr) (g : Reg) (idx : BitVec 4) :
    s.issuesTo c t (.mtt c t g idx) (s.thenCore c t (.mtt c t g idx) fun k => trWrite k t idx.toNat ((s.th c t).gr g)) := by
  refine s.issuesTo_of_body c t _ _ (.seq _) (exec_mtt ..) ?_
  exact congrArg Res.seq (State.onCore_congr _ _ _ _ (by rw [State.gr_core_atIssue]))

/-- SETTC arms the timer by a count that is not 0, and lets it fire at once by a count of 0. -/
theorem State.issuesTo_settc (s : State) (c : CoreId) (t : Thr) (g : Reg) (armed : Bool) (count : ((s.th c t).gr g != 0) = armed) :
    s.issuesTo c t (.settc c t g) (s.thenTh c t (.settc c t g) fun y =>
      (({ y with tcmp := (s.atIssue c t (.settc c t g)).now + ((s.th c t).gr g).zeroExtend 60 }).setSt 6 armed).setSt 5 !armed) := by
  refine s.issuesTo_onTh c t _ _ _ (exec_settc ..) fun e => ?_
  subst count
  rw [bne, Bool.not_not]
  rfl

/-- What LRST comes to, by the lock as it stood before its issue. -/
theorem State.issuesTo_lrst (s : State) (c : CoreId) (t : Thr) (n : BitVec 4) (r : Res)
    (runs : (let u := s.atIssue c t (.lrst c t n)
      if (s.core c).lock n = lockHeld then lockFault u 2 n
      else if (s.core c).lock n = lockAbandoned then .seq (u.onCore c fun k => k.setLock n lockFree 0)
      else .seq u) = r) : s.issuesTo c t (.lrst c t n) (s.after c t (.lrst c t n) r) := by
  refine s.issuesTo_of_body c t _ _ r (exec_lrst ..) (Eq.trans ?_ runs)
  dsimp only
  rw [State.lock_atIssue]
  rfl

/-- What WAITT comes to, by TF and TA as they stood before its issue. -/
theorem State.issuesTo_waitt (s : State) (c : CoreId) (t : Thr) (r : Res)
    (runs : (let u := s.atIssue c t (.waitt c t)
      if (s.th c t).st 5 then .seq (u.onTh c t fun x => x.setSt 5 false)
      else if (s.th c t).st 6 then .wait u 6 0
      else .seq u) = r) : s.issuesTo c t (.waitt c t) (s.after c t (.waitt c t) r) := by
  refine s.issuesTo_of_body c t _ _ r (exec_waitt ..) (Eq.trans ?_ runs)
  dsimp only
  rw [State.st_atIssue, State.st_atIssue]

/-- Settles O16: each instruction by its lemma, LRST by the lock, SETTC by its count, WAITT by TF and TA. -/
theorem threadRegistersTimersAndHalt : Obligations.ThreadRegistersTimersAndHalt := by
  unfold Obligations.ThreadRegistersTimersAndHalt
  refine ⟨fun s c t g n idx => ⟨?_, s.issuesTo_mtt c t g idx, ?_, fun count => ?_, fun count => ?_, ?_, fun abandoned => ?_, fun held => ?_⟩,
    fun s c t => ⟨fun fired => ?_, fun notFired armed => ?_, fun notFired notArmed => ?_⟩⟩
  · exact s.issuesTo_of_body c t _ _ (.seq _) (exec_mft ..) (by rw [State.trRead_atIssue])
  · exact s.issuesTo_of_body c t _ _ (.seq _) (exec_halt ..) rfl
  · exact s.issuesTo_settc c t g true (bne_iff_ne.mpr count)
  · have zero : (s.th c t).gr g = 0 := count
    have fires := s.issuesTo_settc c t g false (by rw [zero]; rfl)
    rw [zero] at fires
    simpa using fires
  · exact s.issuesTo_of_body c t _ _ (.seq _) (exec_clrtc ..) rfl
  · exact s.issuesTo_lrst c t n (.seq _) ((if_neg (by rw [abandoned]; decide)).trans (if_pos abandoned))
  · exact s.issuesTo_lrst c t n (.fault _ _ _ _) (if_pos held)
  · exact s.issuesTo_waitt c t (.seq _) (if_pos fired)
  · exact s.issuesTo_waitt c t (.wait _ 6 0) ((if_neg (Bool.eq_false_iff.mp notFired)).trans (if_pos armed))
  · exact s.issuesTo_waitt c t (.seq _) ((if_neg (Bool.eq_false_iff.mp notFired)).trans (if_neg (Bool.eq_false_iff.mp notArmed)))

/-! ### Traps by instruction (04 R137, R152) -/

/-- Settles O17: TRAP faults in its execution; words that decode to nothing pass the check of their command and fault. -/
theorem softTrapsAndReservedEncodings : Obligations.SoftTrapsAndReservedEncodings := by
  unfold Obligations.SoftTrapsAndReservedEncodings
  intro s c t imm head ext
  refine ⟨s.issuesTo_of_body c t _ _ (.fault _ _ _ _) (exec_trap ..) rfl, fun length reserved => ?_⟩
  refine s.issuesTo_of_body c t _ (fun s => .fault s 0x01 0 (head.zeroExtend 32)) (.fault _ _ _ _) ?_ rfl
  rw [exec_reservedEncoding, execReservedEncoding, if_pos ⟨length, reserved⟩]

end Sys2Proof.Machine

/-! SUPPORT. Instructions of the vector unit (05 R178, R190 to R196; 04 R153, R154): what each comes to in the issue cycle. -/

namespace Sys2Proof.Machine

/-! ### Lane-wise operations in the issue cycle -/

/-- What `spaced` and `blocking` make of an execution that completes. -/
theorem spaced_seq (c : CoreId) (t : Thr) (f : BitVec 3) (u : State) :
    spaced c t f (.seq u) = .seq (if f = 1 then u.onTh c t fun x => { x with fp64 := u.now + 8 } else u) :=
  (apply_ite Res.seq ..).symm

theorem blocking_seq (c : CoreId) (t : Thr) (n : Nat) (u : State) :
    blocking c t n (.seq u) = .seq (u.onTh c t fun x => { x with next := u.now + BitVec.ofNat 60 (4 * n) }) := rfl

section
variable (s : State) (c : CoreId) (t : Thr) (i : Instr) (f : BitVec 3) (d a b e : Reg) (lat : Nat)

/-- A lane-wise operation of two registers writes its lanes, by the registers as they stood before the issue. -/
theorem vmap2_atIssue (op : Nat → Nat → Nat × Nat)
    (quiet : (s.th c t).st 13 = false ∨
      badLane (List.zipWith op (lanesOf (vW f) ((s.th c t).vr a)) (lanesOf (vW f) ((s.th c t).vr b))) = none) :
    vmap2 c t f d a b lat op (s.atIssue c t i) = .seq ((s.atIssue c t i).putLanes c t d (vW f) lat
      (List.zipWith op (lanesOf (vW f) ((s.th c t).vr a)) (lanesOf (vW f) ((s.th c t).vr b)))) := by
  simp only [vmap2, State.vr_atIssue]
  exact vwrite_ok _ _ _ _ _ _ _ (by rwa [State.st_atIssue])

/-- The same of three registers. -/
theorem vmap3_atIssue (op : Nat → Nat → Nat → Nat × Nat)
    (quiet : (s.th c t).st 13 = false ∨ badLane (List.zipWith (fun p z => op p.1 p.2 z)
      (List.zip (lanesOf (vW f) ((s.th c t).vr a)) (lanesOf (vW f) ((s.th c t).vr b))) (lanesOf (vW f) ((s.th c t).vr e))) = none) :
    vmap3 c t f d a b e lat op (s.atIssue c t i) = .seq ((s.atIssue c t i).putLanes c t d (vW f) lat
      (List.zipWith (fun p z => op p.1 p.2 z)
        (List.zip (lanesOf (vW f) ((s.th c t).vr a)) (lanesOf (vW f) ((s.th c t).vr b))) (lanesOf (vW f) ((s.th c t).vr e)))) := by
  simp only [vmap3, State.vr_atIssue]
  exact vwrite_ok _ _ _ _ _ _ _ (by rwa [State.st_atIssue])

/-- Logic and shifts raise no flag, so they complete whatever TNV is. -/
theorem vmap2_laneBits_atIssue (op : Nat → Nat → Nat → Nat) :
    vmap2 c t f d a b lat (laneBits f op) (s.atIssue c t i) = .seq ((s.atIssue c t i).putLanes c t d (vW f) lat
      ((List.zipWith (fun p q => op (vW f) p q % 2 ^ vW f) (lanesOf (vW f) ((s.th c t).vr a))
        (lanesOf (vW f) ((s.th c t).vr b))).map fun v => (v, 0))) := by
  rw [laneBits_eq, vmap2_atIssue _ _ _ _ _ _ _ _ _ _ (.inr (by rw [zipWith_plain, badLane_plain])), zipWith_plain]

/-- So does a select. -/
theorem vmap3_select_atIssue :
    vmap3 c t f d a b e lat (fun x y z => (if z ≠ 0 then x else y, 0)) (s.atIssue c t i) = .seq ((s.atIssue c t i).putLanes c t d (vW f) lat
      ((List.zipWith (fun p z => if z ≠ 0 then p.1 else p.2) (List.zip (lanesOf (vW f) ((s.th c t).vr a)) (lanesOf (vW f) ((s.th c t).vr b)))
        (lanesOf (vW f) ((s.th c t).vr e))).map fun v => (v, 0))) := by
  rw [vmap3_atIssue _ _ _ _ _ _ _ _ _ _ _ (.inr (by rw [zipWith_plain, badLane_plain])), zipWith_plain]

end

/-- Settles O25: each operation by its lanes, with the spacing of FP64 or the hold of a division or root after it. -/
theorem vectorArithmeticByLanes : Obligations.VectorArithmeticByLanes := by
  unfold Obligations.VectorArithmeticByLanes
  intro s c t f d a b e x A B E quiet lat long gap hold put
  have pairs := fun i op (arm : exec i s = issue c t i (fun z => spaced c t f (vmap2 c t f d a b (latArith f) op z)) s) q =>
    s.issuesTo_of_body c t i _ (.seq _) arm ((congrArg (spaced c t f) (vmap2_atIssue s c t i f d a b lat op q)).trans (spaced_seq ..))
  have divisions := fun i a b op (arm : exec i s = issue c t i (fun z => blocking c t (latDiv f) (vmap2 c t f d a b (latDiv f) op z)) s) q =>
    s.issuesTo_of_body c t i _ (.seq _) arm ((congrArg (blocking c t long) (vmap2_atIssue s c t i f d a b long op q)).trans (blocking_seq ..))
  refine ⟨pairs _ _ (exec_vadd ..), pairs _ _ (exec_vsub ..), pairs _ _ (exec_vmul ..), fun q => ?_, divisions _ _ _ _ (exec_vdiv ..),
    divisions _ _ _ _ (exec_vsqrt ..)⟩
  exact s.issuesTo_of_body c t _ _ (.seq _) (exec_vfma ..)
    ((congrArg (spaced c t f) (vmap3_atIssue s c t _ f d a b e lat (laneFma f) q)).trans (spaced_seq ..))

/-- Settles O26: minima, maxima, signs and compares where no lane is invalid or TNV is clear; select, logic and shifts always. -/
theorem vectorComparesSelectsAndShifts : Obligations.VectorComparesSelectsAndShifts := by
  unfold Obligations.VectorComparesSelectsAndShifts
  refine ⟨fun s c t f d a b => ?_, fun s c t f d a b e => ?_⟩
  · have writes := fun i a b op (arm : exec i s = issue c t i (vmap2 c t f d a b 2 op) s) q =>
      s.issuesTo_of_body c t i _ (.seq _) arm (vmap2_atIssue s c t i f d a b 2 op q)
    exact ⟨writes _ _ _ _ (exec_vmin ..), writes _ _ _ _ (exec_vmax ..), writes _ _ _ _ (exec_vabs ..), writes _ _ _ _ (exec_vneg ..),
      writes _ _ _ _ (exec_vcmpeq ..), writes _ _ _ _ (exec_vcmplt ..), writes _ _ _ _ (exec_vcmple ..)⟩
  · have bits := fun i op (arm : exec i s = issue c t i (vmap2 c t f d a b 2 (laneBits f op)) s) =>
      s.issuesTo_of_body c t i _ (.seq _) arm (vmap2_laneBits_atIssue s c t i f d a b 2 op)
    exact ⟨s.issuesTo_of_body c t _ _ (.seq _) (exec_vsel ..) (vmap3_select_atIssue ..), bits _ (fun _ p q => p &&& q) (exec_vand ..),
      bits _ (fun _ p q => p ||| q) (exec_vor ..), bits _ (fun _ p q => p ^^^ q) (exec_vxor ..),
      bits _ (fun w p q => p <<< (q % w)) (exec_vshl ..), bits _ (fun w p q => p >>> (q % w)) (exec_vshr ..),
      bits _ (fun w p q => (sext w p / 2 ^ (q % w) % (2 ^ w : Nat)).toNat) (exec_vsar ..)⟩

/-! ### Conversions, trees, moves and the seed -/

/-- The lanes of a conversion, each with its flags; under SR the random numbers come from the thread's key and counter (05 R178). -/
def cvtLanes (x : Thread) (f q : BitVec 3) (m : Nat) (a : Reg) : List (Nat × Nat) :=
  let ls := (lanesOf (vW f) (x.vr a)).take (512 / vW q)
  (ls.zip (List.range ls.length)).map fun p => laneCvt f q m (if m = sr then srBits x.key x.ctr p.2 else 0) p.1

/-- What follows the lanes of a conversion: under SR the counter steps. -/
def cvtStep (c : CoreId) (t : Thr) (m : Nat) : Res → Res
  | .seq u => .seq (if m = sr then u.onTh c t fun x => { x with ctr := x.ctr + 1 } else u)
  | r => r

/-- VCVT is the write of its lanes with the counter's step after it. -/
theorem exec_vcvt_eq (s : State) (c : CoreId) (t : Thr) (f q : BitVec 3) (m : BitVec 2) (d a : Reg) :
    exec (.vcvt c t f q m d a) s = issue c t (.vcvt c t f q m d a) (fun z =>
      let r := cvtLanes (z.th c t) f q m.toNat a
      cvtStep c t m.toNat (vwrite c t d (vW q) 2 (r.map Prod.fst) (laneFlags r) (badLane r) z)) s := by
  rw [exec_vcvt, execVcvt]
  rfl

theorem cvtLanes_next (x : Thread) (n : Count) (f q : BitVec 3) (m : Nat) (a : Reg) :
    cvtLanes { x with next := n } f q m a = cvtLanes x f q m a := rfl

theorem State.issuesTo_vcvt (s : State) (c : CoreId) (t : Thr) (f q : BitVec 3) (m : BitVec 2) (d a : Reg)
    (quiet : (s.th c t).st 13 = false ∨ badLane (cvtLanes (s.th c t) f q m.toNat a) = none) :
    s.issuesTo c t (.vcvt c t f q m d a) (s.thenNext c t (.vcvt c t f q m d a)
      (let u := (s.atIssue c t (.vcvt c t f q m d a)).putLanes c t d (vW q) 2 (cvtLanes (s.th c t) f q m.toNat a)
       if m.toNat = sr then u.onTh c t fun y => { y with ctr := y.ctr + 1 } else u)) := by
  refine s.issuesTo_of_body c t _ _ (.seq _) (exec_vcvt_eq ..) ?_
  dsimp only
  rw [State.th_atIssue, cvtLanes_next, vwrite_ok _ _ _ _ _ _ _ (by rwa [State.st_atIssue]), cvtStep]

/-- A tree writes its sum or maximum to lane 0, unless one of its steps is invalid and TNV set. -/
theorem vtree_atIssue (s : State) (c : CoreId) (t : Thr) (i : Instr) (f : BitVec 3) (d a : Reg) (op : Nat → Nat → Nat × Nat) :
    let ins := lanesOf (vW f) ((s.th c t).vr a)
    let r := tree op (Nat.log2 ins.length) (ins.zip (List.range ins.length)) (0, none)
    (s.th c t).st 13 = false ∨ r.2.2 = none → vtree c t f d a op (s.atIssue c t i) =
      .seq (((s.atIssue c t i).putV c t d (ofLanes (vW f) [r.1]) 3).onTh c t fun y =>
        { y with sw := y.sw ||| BitVec.ofNat 32 (r.2.1 <<< 8) }) := by
  intro ins r quiet
  have writes : vtree c t f d a op (s.atIssue c t i) = vwrite c t d (vW f) 3 [r.1] r.2.1 r.2.2 (s.atIssue c t i) := by
    unfold vtree
    rw [State.vr_atIssue]
  rw [writes, vwrite, if_neg]
  rw [State.st_atIssue]
  rcases quiet with h | h <;> simp [h, bTNV]

/-- Settles O27: conversions and trees where nothing is invalid or TNV is clear, the moves and the seed always; VADD's trap by its lowest invalid
lane. -/
theorem vectorMovesConversionsAndTraps : Obligations.VectorMovesConversionsAndTraps := by
  unfold Obligations.VectorMovesConversionsAndTraps
  refine ⟨fun s c t f q m d a b => ?_, fun s c t f d a b l => ?_⟩
  · intro x at_ ls r ins add top sum lane w
    have runs := fun i body u arm => s.issuesTo_of_body c t i body (.seq u) arm
    refine ⟨s.issuesTo_vcvt c t f q m d a, fun quiet => runs _ _ _ (exec_vrsum ..) (vtree_atIssue _ _ _ _ _ _ _ _ quiet),
      fun quiet => runs _ _ _ (exec_vrmax ..) (vtree_atIssue _ _ _ _ _ _ _ _ quiet), runs _ _ _ (exec_vbcast ..) ?_,
      runs _ _ _ (exec_vext ..) ?_, runs _ _ _ (exec_vins ..) ?_, s.issuesTo_onTh c t _ _ _ (exec_vseed ..) fun n => ?_⟩
    · rw [State.gr_atIssue]
    · simp only [State.gr_atIssue, State.vr_atIssue]; rfl
    · simp only [State.gr_atIssue, State.vr_atIssue]; rfl
    · rfl
  · intro x A B traps invalid
    refine s.issuesTo_of_body c t _ _ (.fault _ _ _ _) (exec_vadd ..) ?_
    have faults : vmap2 c t f d a b (latArith f) (laneAdd f) (s.atIssue c t (.vadd c t f d a b)) =
        .fault (s.atIssue c t (.vadd c t f d a b)) 0x0D 0 (BitVec.ofNat 32 l) := by
      simp only [vmap2, State.vr_atIssue]
      exact vwrite_traps _ _ _ _ _ _ _ _ _ _ (by rwa [State.st_atIssue]) invalid
    exact congrArg (spaced c t f) faults

end Sys2Proof.Machine

/-! SUPPORT. The flags of arithmetic (05 R174, R175, R190 to R194): no operation on a lane raises another than the five of TFLAGS. -/

namespace Sys2Proof.Machine

/-- A result whose flags are among NX, UF, OF, DZ and NV (05 R194). -/
def FlagsFit (p : Nat × Nat) : Prop := p.2 < 32

theorem FlagsFit.raise {v fl : Nat} (h : fl < 32 := by decide) : FlagsFit (v, fl) := h

theorem FlagsFit.ite {p : Prop} [Decidable p] {x y : Nat × Nat} (hx : FlagsFit x) (hy : FlagsFit y) : FlagsFit (if p then x else y) := by
  split
  · exact hx
  · exact hy

/-- Flags that depend on a condition. -/
theorem ite_lt_32 {p : Prop} [Decidable p] {m n : Nat} (hm : m < 32 := by decide) (hn : n < 32 := by decide) : (if p then m else n) < 32 := by
  split
  · exact hm
  · exact hn

/-! ### Operations on values -/

theorem FFmt.flagsFit_round (f : FFmt) (mode r : Nat) (neg : Bool) (m : Nat) (e : Int) (sticky : Bool) :
    FlagsFit (f.round mode r neg m e sticky) := by
  have inexact : ∀ (b : Bool) (n : Nat), (if b then flNX + (if n < 2 ^ f.fb then flUF else 0) else 0) < 32 := by
    intro b n
    refine ite_lt_32 ?_
    split <;> decide
  exact .ite .raise (.ite (.ite .raise .raise) (.raise (inexact _ _)))

theorem FFmt.flagsFit_nanOf (f : FFmt) (xs : List Num) : FlagsFit (f.nanOf xs) := .raise ite_lt_32

theorem FFmt.flagsFit_invalid (f : FFmt) : FlagsFit f.invalid := .raise

theorem FFmt.flagsFit_addN (f : FFmt) (a b : Num) : FlagsFit (f.addN a b) := by
  unfold FFmt.addN
  split
  · exact .ite .raise f.flagsFit_invalid
  · exact .raise
  · exact .raise
  · exact f.flagsFit_round ..
  · exact f.flagsFit_nanOf _

theorem FFmt.flagsFit_ofN (f : FFmt) (mode r : Nat) (v : Num) : FlagsFit (f.ofN mode r v) := by
  cases v with
  | nan sig => exact .raise ite_lt_32
  | inf neg => exact .ite .raise .raise
  | fin neg m e => exact f.flagsFit_round ..

theorem FFmt.flagsFit_mulN (f : FFmt) (a b : Num) : FlagsFit (f.mulN a b) := by
  unfold FFmt.mulN
  refine .ite (f.flagsFit_nanOf _) ?_
  split
  · exact f.flagsFit_ofN ..
  · exact f.flagsFit_invalid

theorem FFmt.flagsFit_fmaN (f : FFmt) (a b c : Num) : FlagsFit (f.fmaN a b c) := by
  unfold FFmt.fmaN
  refine .ite (f.flagsFit_nanOf _) ?_
  split
  · exact .ite (f.flagsFit_nanOf _) (f.flagsFit_addN ..)
  · exact f.flagsFit_invalid

theorem FFmt.flagsFit_divN (f : FFmt) (a b : Num) : FlagsFit (f.divN a b) := by
  unfold FFmt.divN
  split
  · exact f.flagsFit_invalid
  · exact .raise
  · exact .raise
  · exact .ite (.ite f.flagsFit_invalid .raise) (f.flagsFit_round ..)
  · exact f.flagsFit_nanOf _

theorem FFmt.flagsFit_sqrtN (f : FFmt) (a : Num) : FlagsFit (f.sqrtN a) := by
  cases a with
  | nan sig => exact f.flagsFit_nanOf _
  | inf neg => exact .ite f.flagsFit_invalid .raise
  | fin neg m e => exact .ite .raise (.ite f.flagsFit_invalid (f.flagsFit_round ..))

theorem IFmt.flagsFit_round (f : IFmt) (mode r : Nat) (neg : Bool) (m : Nat) (e : Int) : FlagsFit (f.round mode r neg m e) :=
  .ite .raise (.ite .raise (.raise ite_lt_32))

theorem IFmt.flagsFit_ofN (f : IFmt) (mode r : Nat) (v : Num) : FlagsFit (f.ofN mode r v) := by
  cases v with
  | nan sig => exact .raise
  | inf neg => exact .raise
  | fin neg m e => exact f.flagsFit_round ..

/-! ### Operations on lanes -/

/-- A lane operation raises what its operation on values raises; integers raise nothing. -/
theorem flagsFit_lane2 (f : BitVec 3) (ff : FFmt → Num → Num → Nat × Nat) (fi : IFmt → Int → Int → Int)
    (h : ∀ g x y, FlagsFit (ff g x y)) (a b : Nat) : FlagsFit (lane2 f ff fi a b) := by
  unfold lane2
  split
  · exact h ..
  · exact .raise

theorem flagsFit_pickN (g : FFmt) (first : Bool) (a b : Num) : FlagsFit (pickN g first a b) :=
  .ite (g.flagsFit_nanOf _) (g.flagsFit_ofN ..)

theorem flagsFit_laneAdd (f : BitVec 3) : ∀ a b, FlagsFit (laneAdd f a b) := flagsFit_lane2 f _ _ FFmt.flagsFit_addN
theorem flagsFit_laneSub (f : BitVec 3) : ∀ a b, FlagsFit (laneSub f a b) := flagsFit_lane2 f _ _ fun g _ _ => g.flagsFit_addN ..
theorem flagsFit_laneMul (f : BitVec 3) : ∀ a b, FlagsFit (laneMul f a b) := flagsFit_lane2 f _ _ FFmt.flagsFit_mulN
theorem flagsFit_laneDiv (f : BitVec 3) : ∀ a b, FlagsFit (laneDiv f a b) := flagsFit_lane2 f _ _ FFmt.flagsFit_divN
theorem flagsFit_laneMin (f : BitVec 3) : ∀ a b, FlagsFit (laneMin f a b) := flagsFit_lane2 f _ _ fun g _ _ => flagsFit_pickN g ..
theorem flagsFit_laneMax (f : BitVec 3) : ∀ a b, FlagsFit (laneMax f a b) := flagsFit_lane2 f _ _ fun g _ _ => flagsFit_pickN g ..

theorem flagsFit_laneFma (f : BitVec 3) (a b c : Nat) : FlagsFit (laneFma f a b c) := by
  unfold laneFma
  split
  · exact FFmt.flagsFit_fmaN ..
  · exact .raise

theorem flagsFit_laneSqrt (f : BitVec 3) (a : Nat) : FlagsFit (laneSqrt f a) := by
  unfold laneSqrt
  split
  · exact FFmt.flagsFit_sqrtN ..
  · exact .raise

theorem flagsFit_laneSign (f : BitVec 3) (neg : Bool) (a : Nat) : FlagsFit (laneSign f neg a) := by
  unfold laneSign
  split
  · exact .ite (FFmt.flagsFit_nanOf ..) .raise
  · exact .raise

theorem flagsFit_laneRel (f : BitVec 3) (anyNaN : Bool) (rf : Num → Num → Bool) (ri : Int → Int → Bool) (a b : Nat) :
    FlagsFit (laneRel f anyNaN rf ri a b) := by
  unfold laneRel
  dsimp only
  split
  · exact .ite (.raise ite_lt_32) .raise
  · exact .raise

theorem flagsFit_laneCvt (f q : BitVec 3) (mode r a : Nat) : FlagsFit (laneCvt f q mode r a) := by
  unfold laneCvt
  dsimp only
  split
  · exact FFmt.flagsFit_ofN ..
  · exact IFmt.flagsFit_ofN ..

/-! ### Operations on registers -/

/-- The flags of two results together. -/
theorem or_lt_32 {m n : Nat} (hm : m < 32) (hn : n < 32) : m ||| n < 32 := Nat.or_lt_two_pow (n := 5) hm hn

theorem laneFlags_lt (xs : List (Nat × Nat)) (h : ∀ p ∈ xs, FlagsFit p) : laneFlags xs < 32 :=
  List.foldlRecOn (motive := (· < 32)) xs _ (by decide) fun _ hfl p hp => or_lt_32 hfl (h p hp)

theorem laneFlags_zipWith_lt {α β : Type} (op : α → β → Nat × Nat) (A : List α) (B : List β) (h : ∀ a b, FlagsFit (op a b)) :
    laneFlags (List.zipWith op A B) < 32 := by
  refine laneFlags_lt _ fun p hp => ?_
  rw [← List.map_uncurry_zip_eq_zipWith] at hp
  obtain ⟨ab, -, rfl⟩ := List.mem_map.mp hp
  exact h ..

theorem laneFlags_plain (r : List Nat) : laneFlags (r.map fun v => (v, 0)) = 0 := by
  rw [laneFlags, List.foldl_map]
  exact foldl_keeps id _ (fun a _ => Nat.or_zero a) 0 r

/-- The flags of one level of a tree, and of the whole. -/
theorem flags_treeLevel (op : Nat → Nat → Nat × Nat) (h : ∀ a b, FlagsFit (op a b)) (xs : List (Nat × Nat)) :
    (treeLevel op xs).2.1 < 32 := by
  fun_induction treeLevel op xs with
  | case1 a b xs r ys fl bad rest ih => rw [rest] at ih; exact or_lt_32 ih (h ..)
  | case2 xs short => exact (by decide : 0 < 32)

theorem flags_tree (op : Nat → Nat → Nat × Nat) (h : ∀ a b, FlagsFit (op a b)) (n : Nat) (xs : List (Nat × Nat)) (fl : Nat)
    (bad : Option Nat) (hfl : fl < 32) : (tree op n xs (fl, bad)).2.1 < 32 := by
  induction n generalizing xs fl bad with
  | zero => exact hfl
  | succ n ih => exact ih _ _ _ (or_lt_32 hfl (flags_treeLevel op h xs))

end Sys2Proof.Machine

/-! SUPPORT. The frame of the vector unit's instructions (05 R178, R190 to R196): one register written, or a trap taken outside a handler. -/

namespace Sys2Proof.Machine

/-! ### Trap entry outside a handler, and the windows -/

theorem State.inWait_of_issues (s : State) (c : CoreId) (t : Thr) (i : Instr) (issues : s.issues c t i = true) : (s.th c t).inWait = false := by
  simp only [State.issues, Bool.and_eq_true, beq_iff_eq] at issues
  obtain ⟨⟨⟨⟨⟨⟨⟨⟨⟨⟨-, run⟩, -⟩, -⟩, -⟩, -⟩, -⟩, -⟩, -⟩, -⟩, -⟩ := issues
  rw [Thread.inWait, run]
  rfl

/-- A thread that does not wait enters its handler without a change of a register of a window. -/
theorem State.keepsWindows_takeTrap (s : State) (c : CoreId) (t : Thr) (a : BitVec 15) (code detail : Byte) (faddr : Word)
    (noHandler : (s.th c t).st 4 = false) (noWait : (s.th c t).inWait = false) : s.keepsWindows (s.takeTrap c t a code detail faddr) := by
  rw [State.takeTrap_eq s c t a code detail faddr noHandler]
  obtain ⟨-, -, traced⟩ := State.keepsApart_trace (s.setCore c (((s.core c).endWait t).setTh t
    ((s.th c t).trap ((s.core c).tvec t) s.now a code detail faddr))) c 2 t (a.toNat <<< 8 + code.toNat) faddr.toNat
  refine State.keepsWindows_trans _ (s.setCore c _) _ ⟨fun e o _ => ?_, rfl⟩ traced
  by_cases same : e = c
  · subst same
    rw [State.core_setCore_same, Core.w_setTh, Core.w_endWait _ _ noWait]
  · rw [State.core_setCore_other _ _ _ _ same]

/-- What a trap taken outside a handler does to its thread, as far as frames speak of it: IT alone tells it from an instruction that completes. -/
def Thread.entersTrap (x y : Thread) : Prop := (∀ r, y.gr r = x.gr r) ∧ (∀ r, y.vr r = x.vr r) ∧ y.ctr = x.ctr ∧ y.st 4 ≠ x.st 4

/-- What no instruction of the vector unit changes, in or outside a handler: other threads, memory, and registers of windows and of the device. -/
def State.keepsOthers (s u : State) (c : CoreId) (t : Thr) (d : Count) : Prop :=
  s.keepsThreads u c t ∧ (s.advanceTo d).keepsMem u ∧ s.keepsWindows u

theorem State.frame_of_fault (s u : State) (c : CoreId) (t : Thr) (i : Instr) (code detail : Byte) (faddr : Word)
    (noHandler : (s.th c t).st 4 = false) (issues : s.issues c t i = true) (steps : exec i s = .next u)
    (runs : s.issuesTo c t i (s.after c t i (.fault (s.atIssue c t i) code detail faddr))) :
    s.keepsOthers u c t (s.issueCyc c t i) ∧ (s.th c t).entersTrap (u.th c t) := by
  obtain rfl : s.thenTrap c t i code detail faddr (s.atIssue c t i) = u := Host.Outcome.next.inj ((runs issues).symm.trans steps)
  have atIssue : ((s.atIssue c t i).th c t).st 4 = false := (s.st_atIssue c t i 4).trans noHandler
  have issued : ((s.atIssue c t i).issued c t (s.th c t).pc (isTile i)).th c t = _ := State.th_issued ..
  rw [State.th_atIssue] at issued
  have noWait := s.inWait_of_issues c t i issues
  obtain ⟨threads, scalars, vectors⟩ := State.keepsRegs_trans _ _ _ _ _ (s.keepsRegs_atIssue c t i)
    (State.keepsRegs_thenTrap s _ c t i code detail faddr atIssue)
  obtain ⟨-, -, bookkeeping⟩ := (s.atIssue c t i).keepsApart_issued c t (s.th c t).pc (isTile i)
  have entered : (s.thenTrap c t i code detail faddr (s.atIssue c t i)).th c t = _ :=
    (State.th_takeTrap _ c t _ code detail faddr (by rw [issued]; exact noHandler)).trans
      (Thread.trap_enters _ _ _ _ _ _ _ (by rw [issued]; exact noHandler))
  refine ⟨⟨threads, State.keepsMem_trans _ _ _ (s.keepsMem_atIssue c t i) (State.keepsMem_thenTrap _ _ _ _ _ _ _ _ atIssue),
    State.keepsWindows_trans _ _ _ (s.keepsWindows_atIssue c t i) (State.keepsWindows_trans _ _ _ bookkeeping
      (State.keepsWindows_takeTrap _ c t _ code detail faddr (by rw [issued]; exact noHandler) (by rw [issued]; exact noWait)))⟩,
    scalars, vectors, ?_, ?_⟩
  · rw [entered, issued]
    rfl
  · rw [noHandler, entered]
    exact ne_of_eq_of_ne ((Thread.st_setSt _ 4 4 true (by decide) (by decide)).trans (if_pos rfl)) (by decide)

/-! ### One register written, or a trap -/

/-- From `x` to `y` the thread's record changes in one vector register, in the bits `m` of the status word, and where no frame looks. -/
def Thread.keepsVector (x y : Thread) (d : Reg) (m : Word) : Prop :=
  (∀ r, y.gr r = x.gr r) ∧ (∀ r, r ≠ d → y.vr r = x.vr r) ∧ x.keepsBut y m

theorem Thread.keepsVector_of_goesOn (x y z : Thread) (d : Reg) (m : Word) (h : x.keepsVector y d m) (k : y.goesOn z)
    (hm : 0x000F0000#32 &&& ~~~m = 0) : x.keepsVector z d m := by
  obtain ⟨scalars, vectors, but⟩ := h
  obtain ⟨gr, vr, -⟩ := id k
  exact ⟨fun r => (gr r).trans (scalars r), fun r hr => (vr r).trans (vectors r hr), Thread.keepsBut_of_goesOn x y z m but k hm⟩

/-- Flags that become sticky are bits 12 to 8 of the status word. -/
theorem stickyFlags_bits (fl : Nat) (h : fl < 32) : BitVec.ofNat 32 (fl <<< 8) &&& ~~~0x000F1F00#32 = 0 := by
  revert fl; decide

theorem Thread.keepsBut_sticky (x : Thread) (w m : Word) (h : w &&& ~~~m = 0) : x.keepsBut { x with sw := x.sw ||| w } m :=
  ⟨by rw [BitVec.and_or_distrib_right, h]; exact BitVec.or_zero, rfl, rfl, rfl, rfl, rfl, rfl, rfl, rfl⟩

/-- An execution in the state `z` that leaves its thread's record with `P` and changes nothing else, or faults with TNV set. -/
def Res.writesOrTraps (r : Res) (z : State) (c : CoreId) (t : Thr) (P : Thread → Prop) : Prop :=
  (∃ w, r = .seq w ∧ z.keepsApart w c t ∧ P (w.th c t)) ∨ (∃ code detail faddr, r = .fault z code detail faddr ∧ (z.th c t).st 13 = true)

/-- What an instruction with such an execution keeps, unless it traps inside a handler. -/
theorem State.frame_of_writesOrTraps (s u : State) (c : CoreId) (t : Thr) (i : Instr) (body : State → Res) (P : Thread → Prop)
    (outside : (s.th c t).st 13 = false ∨ (s.th c t).st 4 = false) (issues : s.issues c t i = true) (steps : exec i s = .next u)
    (arm : exec i s = issue c t i body s) (ends : (body (s.atIssue c t i)).writesOrTraps (s.atIssue c t i) c t P)
    (stable : ∀ y z : Thread, P y → y.goesOn z → P z) :
    s.keepsOthers u c t (s.issueCyc c t i) ∧ (P (u.th c t) ∨ (s.th c t).entersTrap (u.th c t)) := by
  have runs := s.issuesTo_of_body c t i body
  obtain ⟨w, left, apart, holds⟩ | ⟨code, detail, faddr, faults, traps⟩ := ends
  · obtain ⟨threads, mem, windows, goes⟩ := s.frame_of_left u w c t i (.seq w) issues steps (runs _ arm left) rfl apart
    exact ⟨⟨threads, mem, windows⟩, .inl (stable _ _ holds goes)⟩
  · have noHandler := outside.resolve_left (by rw [← s.st_atIssue c t i 13, traps]; decide)
    obtain ⟨others, enters⟩ := s.frame_of_fault u c t i code detail faddr noHandler issues steps (runs _ arm faults)
    exact ⟨others, .inr enters⟩

/-! ### The executions of the vector unit -/

section
variable (z : State) (c : CoreId) (t : Thr) (f : BitVec 3) (d : Reg)

theorem State.keepsVector_putV (v : BitVec 512) (n : Nat) (m : Word) : (z.th c t).keepsVector ((z.putV c t d v n).th c t) d m := by
  rw [State.putV, State.th_onTh_same]
  exact ⟨fun _ => rfl, fun r hr => Thread.vr_setV_other _ d r v hr, Thread.keepsBut_refl _ m⟩

theorem State.keepsVector_putFlags (v : BitVec 512) (n fl : Nat) (m : Word) (h : BitVec.ofNat 32 (fl <<< 8) &&& ~~~m = 0) :
    (z.th c t).keepsVector (((z.putV c t d v n).onTh c t fun x => { x with sw := x.sw ||| BitVec.ofNat 32 (fl <<< 8) }).th c t) d m := by
  rw [State.th_onTh_same, State.putV, State.th_onTh_same]
  exact ⟨fun _ => rfl, fun r hr => Thread.vr_setV_other _ d r v hr, Thread.keepsBut_sticky _ _ m h⟩

/-- Lanes that are written, or a fault for the lowest invalid one. -/
theorem vwrite_ends (w lat fl : Nat) (xs : List Nat) (bad : Option Nat) (h : fl < 32) :
    (vwrite c t d w lat xs fl bad z).writesOrTraps z c t ((z.th c t).keepsVector · d 0x000F1F00) := by
  unfold vwrite
  split
  case isTrue traps => exact .inr ⟨_, _, _, rfl, (Bool.and_eq_true_iff.mp traps).1⟩
  case isFalse =>
    refine .inl ⟨_, rfl, State.keepsApart_trans _ _ _ _ _ (State.keepsApart_onTh ..) (State.keepsApart_onTh ..), ?_⟩
    exact z.keepsVector_putFlags c t d _ lat fl _ (stickyFlags_bits fl h)

theorem vmap2_ends (a b : Reg) (lat : Nat) (op : Nat → Nat → Nat × Nat) (h : ∀ a b, FlagsFit (op a b)) :
    (vmap2 c t f d a b lat op z).writesOrTraps z c t ((z.th c t).keepsVector · d 0x000F1F00) :=
  vwrite_ends z c t d _ _ _ _ _ (laneFlags_zipWith_lt _ _ _ h)

theorem vmap3_ends (a b e : Reg) (lat : Nat) (op : Nat → Nat → Nat → Nat × Nat) (h : ∀ a b e, FlagsFit (op a b e)) :
    (vmap3 c t f d a b e lat op z).writesOrTraps z c t ((z.th c t).keepsVector · d 0x000F1F00) :=
  vwrite_ends z c t d _ _ _ _ _ (laneFlags_zipWith_lt _ _ _ fun _ _ => h ..)

theorem vtree_ends (a : Reg) (op : Nat → Nat → Nat × Nat) (h : ∀ a b, FlagsFit (op a b)) :
    (vtree c t f d a op z).writesOrTraps z c t ((z.th c t).keepsVector · d 0x000F1F00) :=
  vwrite_ends z c t d _ _ _ _ _ (flags_tree op h _ _ 0 none (by decide))

/-- The spacing of FP64 and the hold of a division change fields that no frame speaks of. -/
theorem spaced_ends (x : Thread) (m : Word) (r : Res) (h : r.writesOrTraps z c t (x.keepsVector · d m)) :
    (spaced c t f r).writesOrTraps z c t (x.keepsVector · d m) := by
  obtain ⟨w, rfl, apart, holds⟩ | ⟨code, detail, faddr, rfl, traps⟩ := h
  · rw [spaced_seq]
    split
    · exact .inl ⟨_, rfl, State.keepsApart_trans _ _ _ _ _ apart (State.keepsApart_onTh ..), by rw [State.th_onTh_same]; exact holds⟩
    · exact .inl ⟨_, rfl, apart, holds⟩
  · exact .inr ⟨_, _, _, rfl, traps⟩

theorem blocking_ends (n : Nat) (x : Thread) (m : Word) (r : Res) (h : r.writesOrTraps z c t (x.keepsVector · d m)) :
    (blocking c t n r).writesOrTraps z c t (x.keepsVector · d m) := by
  obtain ⟨w, rfl, apart, holds⟩ | ⟨code, detail, faddr, rfl, traps⟩ := h
  · exact .inl ⟨_, rfl, State.keepsApart_trans _ _ _ _ _ apart (State.keepsApart_onTh ..), by rw [State.th_onTh_same]; exact holds⟩
  · exact .inr ⟨_, _, _, rfl, traps⟩

end

/-- What a conversion keeps of its thread's record: under SR the counter steps. -/
def Thread.keepsCvt (x y : Thread) (q : Nat) (d : Reg) (m : Word) : Prop :=
  ({ x with ctr := y.ctr } : Thread).keepsVector y d m ∧ (q ≠ sr → y.ctr = x.ctr)

theorem cvtStep_ends (z : State) (c : CoreId) (t : Thr) (q : Nat) (x : Thread) (d : Reg) (m : Word) (r : Res)
    (h : r.writesOrTraps z c t (x.keepsVector · d m)) : (cvtStep c t q r).writesOrTraps z c t (x.keepsCvt · q d m) := by
  obtain ⟨w, rfl, apart, scalars, vectors, sw, rs, dsp, epc, cause, faddr, tcmp, key, ctr⟩ | ⟨code, detail, faddr, rfl, traps⟩ := h
  · rw [cvtStep]
    split
    case isTrue stochastic =>
      refine .inl ⟨_, rfl, State.keepsApart_trans _ _ _ _ _ apart (State.keepsApart_onTh ..), ?_⟩
      rw [State.th_onTh_same]
      exact ⟨⟨scalars, vectors, sw, rs, dsp, epc, cause, faddr, tcmp, key, rfl⟩, fun other => absurd stochastic other⟩
    case isFalse => exact .inl ⟨_, rfl, apart, ⟨scalars, vectors, sw, rs, dsp, epc, cause, faddr, tcmp, key, rfl⟩, fun _ => ctr⟩
  · exact .inr ⟨_, _, _, rfl, traps⟩

/-- A conversion writes its lanes and steps the counter, or faults. -/
theorem vcvt_ends (z : State) (c : CoreId) (t : Thr) (f q : BitVec 3) (m : Nat) (d a : Reg) :
    (cvtStep c t m (vwrite c t d (vW q) 2 ((cvtLanes (z.th c t) f q m a).map Prod.fst) (laneFlags (cvtLanes (z.th c t) f q m a))
      (badLane (cvtLanes (z.th c t) f q m a)) z)).writesOrTraps z c t ((z.th c t).keepsCvt · m d 0x000F1F00) := by
  refine cvtStep_ends z c t m _ d _ _ (vwrite_ends z c t d _ _ _ _ _ (laneFlags_lt _ fun p hp => ?_))
  obtain ⟨lane, -, rfl⟩ := List.mem_map.mp hp
  exact flagsFit_laneCvt ..

theorem Thread.keepsCvt_of_goesOn (x y z : Thread) (q : Nat) (d : Reg) (h : x.keepsCvt y q d 0x000F1F00) (k : y.goesOn z) :
    x.keepsCvt z q d 0x000F1F00 := by
  obtain ⟨kept, counter⟩ := h
  obtain ⟨-, -, -, -, -, -, -, -, -, -, ctr⟩ := id k
  unfold Thread.keepsCvt
  rw [ctr]
  exact ⟨Thread.keepsVector_of_goesOn _ y z d _ kept k (by decide), counter⟩

/-! ### The frame of each kind -/

section
variable (s u : State) (c : CoreId) (t : Thr) (i : Instr) (d : Reg) (issues : s.issues c t i = true) (steps : exec i s = .next u)
include issues steps

/-- Arithmetic, compares and trees. -/
theorem State.frame_of_lanes (outside : (s.th c t).st 13 = false ∨ (s.th c t).st 4 = false) (body : State → Res)
    (arm : exec i s = issue c t i body s) (ends : ∀ z, (body z).writesOrTraps z c t ((z.th c t).keepsVector · d 0x000F1F00)) :
    s.keepsOthers u c t (s.issueCyc c t i) ∧ (∀ r, (u.th c t).gr r = (s.th c t).gr r) ∧
      (∀ r, r ≠ d → (u.th c t).vr r = (s.th c t).vr r) ∧ ((u.th c t).st 4 = (s.th c t).st 4 → (s.th c t).keepsBut (u.th c t) 0x000F1F00) := by
  have ended := ends (s.atIssue c t i)
  rw [State.th_atIssue] at ended
  obtain ⟨others, ⟨scalars, vectors, but⟩ | ⟨scalars, vectors, -, entered⟩⟩ := s.frame_of_writesOrTraps u c t i body
    ((s.th c t).keepsVector · d 0x000F1F00) outside issues steps arm ended
    fun y z h k => Thread.keepsVector_of_goesOn _ y z d _ h k (by decide)
  · exact ⟨others, scalars, vectors, fun _ => but⟩
  · exact ⟨others, scalars, fun r _ => vectors r, fun h => absurd h entered⟩

/-- An execution that completes in a state whose thread keeps `P`. -/
theorem State.frame_of_seq (body : State → Res) (w : State) (P : Thread → Prop) (arm : exec i s = issue c t i body s)
    (runs : body (s.atIssue c t i) = .seq w) (apart : (s.atIssue c t i).keepsApart w c t) (holds : P (w.th c t))
    (stable : ∀ y z : Thread, P y → y.goesOn z → P z) : s.keepsOthers u c t (s.issueCyc c t i) ∧ P (u.th c t) := by
  obtain ⟨threads, mem, windows, goes⟩ := s.frame_of_left u w c t i _ issues steps (s.issuesTo_of_body c t i body _ arm runs) rfl apart
  exact ⟨⟨threads, mem, windows⟩, stable _ _ holds goes⟩

/-- A write of one vector register without flags. -/
theorem State.frame_of_putV (body : State → Res) (v : BitVec 512) (n : Nat) (arm : exec i s = issue c t i body s)
    (runs : body (s.atIssue c t i) = .seq ((s.atIssue c t i).putV c t d v n)) :
    s.keepsOthers u c t (s.issueCyc c t i) ∧ (s.th c t).keepsVector (u.th c t) d 0x000F0000 := by
  have kept := (s.atIssue c t i).keepsVector_putV c t d v n 0x000F0000
  rw [State.th_atIssue] at kept
  exact s.frame_of_seq u c t i issues steps body _ ((s.th c t).keepsVector · d 0x000F0000) arm runs (State.keepsApart_onTh ..) kept
    fun y z h k => Thread.keepsVector_of_goesOn _ y z d _ h k (by decide)

/-- Lanes without flags. -/
theorem State.frame_of_plain (body : State → Res) (w n : Nat) (xs : List Nat) (arm : exec i s = issue c t i body s)
    (runs : body (s.atIssue c t i) = .seq ((s.atIssue c t i).putLanes c t d w n (xs.map fun v => (v, 0)))) :
    s.keepsOthers u c t (s.issueCyc c t i) ∧ (s.th c t).keepsVector (u.th c t) d 0x000F0000 := by
  refine s.frame_of_seq u c t i issues steps body _ ((s.th c t).keepsVector · d 0x000F0000) arm runs
    (State.keepsApart_trans _ _ _ _ _ (State.keepsApart_onTh ..) (State.keepsApart_onTh ..)) ?_
    fun y z h k => Thread.keepsVector_of_goesOn _ y z d _ h k (by decide)
  have kept := (s.atIssue c t i).keepsVector_putFlags c t d (ofLanes w ((xs.map fun v => (v, 0)).map Prod.fst)) n 0 0x000F0000 (by decide)
  rw [State.th_atIssue] at kept
  rw [State.putLanes, laneFlags_plain]
  exact kept

end

/-- VSEED writes the key and the counter. -/
theorem State.frame_of_vseed (s u : State) (c : CoreId) (t : Thr) (a b : Reg) (issues : s.issues c t (.vseed c t a b) = true)
    (steps : exec (.vseed c t a b) s = .next u) : s.keepsOthers u c t (s.issueCyc c t (.vseed c t a b)) ∧
      ({ s.th c t with key := (u.th c t).key, ctr := (u.th c t).ctr } : Thread).goesOn (u.th c t) := by
  refine s.frame_of_seq u c t _ issues steps _ _ (fun y => ({ s.th c t with key := y.key, ctr := y.ctr } : Thread).goesOn y)
    (exec_vseed ..) rfl (State.keepsApart_onTh ..) ?_ fun y z h k => ?_
  · rw [State.th_onTh_same, State.th_atIssue]
    exact ⟨fun _ => rfl, fun _ => rfl, Thread.keepsBut_refl _ _⟩
  · obtain ⟨scalars, vectors, but⟩ := h
    obtain ⟨gr, vr, -, -, -, -, -, -, -, key, ctr⟩ := id k
    rw [key, ctr]
    exact ⟨fun r => (gr r).trans (scalars r), fun r => (vr r).trans (vectors r), Thread.keepsBut_of_goesOn _ y z _ but k (by decide)⟩

/-- VCVT keeps the counter but under SR. -/
theorem State.frame_of_vcvt (s u : State) (c : CoreId) (t : Thr) (f q : BitVec 3) (m : BitVec 2) (d a : Reg)
    (outside : (s.th c t).st 13 = false ∨ (s.th c t).st 4 = false) (issues : s.issues c t (.vcvt c t f q m d a) = true)
    (steps : exec (.vcvt c t f q m d a) s = .next u) :
    s.keepsOthers u c t (s.issueCyc c t (.vcvt c t f q m d a)) ∧
      ((s.th c t).keepsCvt (u.th c t) m.toNat d 0x000F1F00 ∨ (s.th c t).entersTrap (u.th c t)) := by
  have ends := vcvt_ends (s.atIssue c t (.vcvt c t f q m d a)) c t f q m.toNat d a
  rw [State.th_atIssue] at ends
  exact s.frame_of_writesOrTraps u c t _ _ ((s.th c t).keepsCvt · m.toNat d 0x000F1F00) outside issues steps (exec_vcvt_eq ..)
    (by rw [State.th_atIssue]; exact ends) fun y z h k => Thread.keepsCvt_of_goesOn _ y z _ d h k

/-- Settles O59: each instruction writes its lanes or traps, moves without flags, or has a lemma of its own. -/
theorem vectorInstructionsFrame : Obligations.VectorInstructionsFrame := by
  unfold Obligations.VectorInstructionsFrame
  intro s u c t f q m d a b e i x y v apart calm outside issues steps
  have lanes := s.frame_of_lanes u c t i d issues steps outside
  have plain := s.frame_of_plain u c t i d issues steps
  refine ⟨fun h => ?_, fun h => ?_, fun h => ?_, fun h => ?_, fun h => ?_⟩
  · have pairs := fun a b lat op fits arm => lanes _ arm fun z => vmap2_ends z c t f d a b lat op fits
    have arithmetic := fun op fits arm => lanes _ arm fun z => spaced_ends z c t f d _ _ _ (vmap2_ends z c t f d a b (latArith f) op fits)
    have divisions := fun a b op fits arm => lanes _ arm fun z => blocking_ends z c t d (latDiv f) _ _ _ (vmap2_ends z c t f d a b (latDiv f) op fits)
    have trees := fun op fits arm => lanes _ arm fun z => vtree_ends z c t f d a op fits
    simp only [List.mem_cons, List.not_mem_nil, or_false] at h
    obtain rfl | rfl | rfl | rfl | rfl | rfl | rfl | rfl | rfl | rfl | rfl | rfl | rfl | rfl | rfl := h
    · exact arithmetic _ (flagsFit_laneAdd f) (exec_vadd ..)
    · exact arithmetic _ (flagsFit_laneSub f) (exec_vsub ..)
    · exact arithmetic _ (flagsFit_laneMul f) (exec_vmul ..)
    · exact lanes _ (exec_vfma ..) fun z => spaced_ends z c t f d _ _ _ (vmap3_ends z c t f d a b e _ _ (flagsFit_laneFma f))
    · exact pairs _ _ _ _ (flagsFit_laneMin f) (exec_vmin ..)
    · exact pairs _ _ _ _ (flagsFit_laneMax f) (exec_vmax ..)
    · exact pairs _ _ _ _ (fun p _ => flagsFit_laneSign f false p) (exec_vabs ..)
    · exact pairs _ _ _ _ (fun p _ => flagsFit_laneSign f true p) (exec_vneg ..)
    · exact divisions _ _ _ (flagsFit_laneDiv f) (exec_vdiv ..)
    · exact divisions _ _ _ (fun p _ => flagsFit_laneSqrt f p) (exec_vsqrt ..)
    · exact pairs _ _ _ _ (flagsFit_laneRel f _ _ _) (exec_vcmpeq ..)
    · exact pairs _ _ _ _ (flagsFit_laneRel f _ _ _) (exec_vcmplt ..)
    · exact pairs _ _ _ _ (flagsFit_laneRel f _ _ _) (exec_vcmple ..)
    · exact trees _ (flagsFit_laneAdd f) (exec_vrsum ..)
    · exact trees _ (flagsFit_laneMax f) (exec_vrmax ..)
  · subst h
    obtain ⟨others, ⟨⟨scalars, vectors, but⟩, counter⟩ | ⟨scalars, vectors, counter, entered⟩⟩ :=
      s.frame_of_vcvt u c t f q m d a outside issues steps
    · exact ⟨others, scalars, vectors, fun _ => but, fun other => counter fun stochastic => other (BitVec.eq_of_toNat_eq stochastic)⟩
    · exact ⟨others, scalars, fun r _ => vectors r, fun h => absurd h entered, fun _ => counter⟩
  · have bits := fun op arm => plain _ _ _ _ arm (vmap2_laneBits_atIssue s c t i f d a b 2 op)
    simp only [List.mem_cons, List.not_mem_nil, or_false] at h
    obtain rfl | rfl | rfl | rfl | rfl | rfl | rfl | rfl | rfl := h
    · exact plain _ _ _ _ (exec_vsel ..) (vmap3_select_atIssue ..)
    · exact bits _ (exec_vand ..)
    · exact bits _ (exec_vor ..)
    · exact bits _ (exec_vxor ..)
    · exact bits _ (exec_vshl ..)
    · exact bits _ (exec_vshr ..)
    · exact bits _ (exec_vsar ..)
    · exact s.frame_of_putV u c t _ d issues steps _ _ _ (exec_vbcast ..) rfl
    · exact s.frame_of_putV u c t _ d issues steps _ _ _ (exec_vins ..) rfl
  · subst h
    obtain ⟨⟨threads, mem, windows, vectors⟩, scalars, but⟩ := s.keepsScalar_put u c t _ d issues steps _ _ (exec_vext ..)
    exact ⟨⟨threads, mem, windows⟩, scalars, vectors, but⟩
  · subst h
    exact s.frame_of_vseed u c t a b issues steps

end Sys2Proof.Machine

/-! SUPPORT. Tile instructions and the events of the tile engines (06 R200 to R204, R211, R212, R217 to R220): what each comes to. -/

namespace Sys2Proof.Machine

/-! ### Tile instructions in the issue cycle -/

/-- An image whose last word lies in the scratchpad raises no fault. -/
theorem imageFault_inside (s : State) (im : Nat × Nat × Nat × Nat) (fits : im.1 + (im.2.1 - 1) * im.2.2.1 + im.2.2.2 - 1 < 81920) :
    imageFault s im = none := if_neg (Nat.not_le.mpr fits)

/-- What an instruction that reads or writes a blank of its thread comes to in `u`, where `r` is what it does with a blank that is free. -/
def ownedOutcome (k : Core) (t : Thr) (b : Reg) (busy : Bool) (u : State) (r : Res) : Res :=
  match k.tOwn t b with
  | some f => tileFault u f
  | none => if busy then .stall else r

/-- What a load or drain comes to in `u`, where `r` is its entry into a queue that has room. -/
def imageOutcome (fault : Option TFault) (im : Option (Nat × Nat × Nat × Nat)) (depth used : Nat) (u : State) (r : Res) : Res :=
  match fault with
  | some f => tileFault u f
  | none =>
    match im.bind (imageFault u) with
    | some fault => fault
    | none => if depth ≤ used then .stall else r

theorem ownedOutcome_free (k : Core) (t : Thr) (b : Reg) (busy : Bool) (u : State) (r : Res) (mine : k.tOwn t b = none) (free : busy = false) :
    ownedOutcome k t b busy u r = r := by
  rw [ownedOutcome, mine]
  exact if_neg (Bool.eq_false_iff.mp free)

theorem ownedOutcome_fault (k : Core) (t : Thr) (b : Reg) (busy : Bool) (u : State) (r : Res) (f : TFault) (found : k.tOwn t b = some f) :
    ownedOutcome k t b busy u r = tileFault u f := by
  rw [ownedOutcome, found]

theorem imageOutcome_room (fault : Option TFault) (im : Option (Nat × Nat × Nat × Nat)) (depth used : Nat) (u : State) (r : Res)
    (m : Nat × Nat × Nat × Nat) (passes : fault = none) (image : im = some m)
    (fits : m.1 + (m.2.1 - 1) * m.2.2.1 + m.2.2.2 - 1 < 81920) (room : used < depth) : imageOutcome fault im depth used u r = r := by
  unfold imageOutcome
  rw [passes, image, Option.bind_some, imageFault_inside u m fits]
  exact if_neg (Nat.not_le.mpr room)

section
variable (s : State) (c : CoreId) (t : Thr)

/-- A tile instruction whose check finds a fault takes the `TILE` trap. -/
theorem State.issuesTo_tileFault (i : Instr) (body : State → Res) (f : TFault) (arm : exec i s = issue c t i body s)
    (found : body (s.atIssue c t i) = tileFault (s.atIssue c t i) f) :
    s.issuesTo c t i (s.thenTrap c t i 0x0E (BitVec.ofNat 8 f.1) (f.2.zeroExtend 32) (s.atIssue c t i)) :=
  s.issuesTo_of_body c t i body (.fault _ _ _ _) arm found

/-- TCFG of a blank that is not another thread's, in a shape that fits, which no queued instruction names. -/
theorem State.issuesTo_tcfg (b : Reg) (f : BitVec 4) (rows bpr : BitVec 6) (pm : Bool) (k : Core)
    (atIssue : (s.atIssue c t (.tcfg c t b f rows bpr pm)).core c = k) (mine : k.tCfg b = false ∨ k.tOwner b = t.toNat)
    (aligned : 4 * (bpr.toNat + 1) % tGranule f.toNat = 0) (small : (rows.toNat + 1) * (4 * (bpr.toNat + 1)) ≤ 8192)
    (unnamed : k.tNamed b = false) :
    s.issuesTo c t (.tcfg c t b f rows bpr pm) (s.thenNext c t (.tcfg c t b f rows bpr pm)
      ((s.atIssue c t (.tcfg c t b f rows bpr pm)).setCore c ((((k.dropHeld (names b)).tClear b).setW (R.TILE_CFG b.toNat)
        (BitVec.ofNat 32 (0x80000000 + t.toNat <<< 29 + b2n pm <<< 28 + f.toNat <<< 24 + rows.toNat <<< 18 + bpr.toNat <<< 12))).setW
        (R.TILE_ACC b.toNat) 0))) := by
  refine s.issuesTo_of_body c t _ _ (.seq _) (exec_tcfg ..) ?_
  have notOwner : ¬ (k.tCfg b && decide (k.tOwner b ≠ t.toNat)) = true := by
    rcases mine with unset | own
    · simp [unset]
    · simp [own]
  have shape : ¬ (decide (4 * (bpr.toNat + 1) % tGranule f.toNat ≠ 0) || decide (8192 < (rows.toNat + 1) * (4 * (bpr.toNat + 1)))) = true := by
    simpa [aligned] using small
  dsimp only
  rw [atIssue, if_neg notOwner, if_neg shape, if_neg (Bool.eq_false_iff.mp unnamed)]

/-- TREL of a blank that the thread owns and no queued instruction names. -/
theorem State.issuesTo_trel (b : Reg) (k : Core) (atIssue : (s.atIssue c t (.trel c t b)).core c = k) (set : k.tCfg b = true)
    (own : k.tOwner b = t.toNat) (unnamed : k.tNamed b = false) :
    s.issuesTo c t (.trel c t b) (s.thenNext c t (.trel c t b)
      ((s.atIssue c t (.trel c t b)).setCore c ((k.dropHeld (names b)).setW (R.TILE_CFG b.toNat) 0))) := by
  refine s.issuesTo_of_body c t _ _ (.seq _) (exec_trel ..) ?_
  dsimp only
  rw [atIssue, if_neg (by rw [set]; decide), if_neg (not_not_intro own), if_neg (Bool.eq_false_iff.mp unnamed)]

/-- TMMA that passes its checks enters its queue where it has room; `v` is the core with the pair and count as they then are. -/
theorem State.issuesTo_tmma (b ta tb : Reg) (q z : Bool) (u v : Core)
    (passes : ((s.atIssue c t (.tmma c t b ta tb q z)).core c).tmmaFault t b ta tb z = none)
    (room : (((s.atIssue c t (.tmma c t b ta tb q z)).core c).tqOf (b2n q)).length < tileDepth (b2n q))
    (queued : ((s.atIssue c t (.tmma c t b ta tb q z)).core c).enqueue t (.tmma c t b ta tb q z) (b2n q) 0 0
      (s.atIssue c t (.tmma c t b ta tb q z)).now = u)
    (counted : (if u.tFmt b = 14 && (u.accPending b).isEmpty then
      u.setAccP b (u.accStep b (u.accP b) (.tmma c t b ta tb q z)) else u) = v) :
    s.issuesTo c t (.tmma c t b ta tb q z) (s.thenNext c t (.tmma c t b ta tb q z)
      ((s.atIssue c t (.tmma c t b ta tb q z)).setCore c v)) := by
  refine s.issuesTo_of_body c t _ _ (.seq _) (exec_tmma ..) ?_
  dsimp only
  rw [passes, queued, counted]
  exact if_neg (Nat.not_le.mpr room)

end

/-- Settles O28: blanks by what is configured and queued; loads, drains and TMMA by their checks, their images and the room in their queues. -/
theorem tileInstructions : Obligations.TileInstructions := by
  unfold Obligations.TileInstructions
  refine ⟨fun s c t b d f rows bpr pm => ?_, fun s c t b ta tb a g f tr q z r o im => ?_⟩
  · have runs := fun i body r arm => s.issuesTo_of_body c t i body r arm
    exact ⟨fun mine aligned small unnamed => s.issuesTo_tcfg c t b f rows bpr pm _ rfl mine aligned small unnamed,
      fun set own unnamed => s.issuesTo_trel c t b _ rfl set own unnamed,
      fun mine unnamed => runs _ _ (.seq _) (exec_tzero ..) (ownedOutcome_free _ t b _ _ _ mine unnamed),
      fun mine unwritten => runs _ _ (.seq _) (exec_tflags ..) (ownedOutcome_free _ t b _ _ _ mine unwritten),
      fun mine unwritten => runs _ _ (.seq _) (exec_tclrf ..) (ownedOutcome_free _ t b _ _ _ mine unwritten),
      fun idle => runs _ _ (.seq _) (exec_txcap ..) (if_neg (Bool.eq_false_iff.mp idle)),
      fun e found => s.issuesTo_tileFault c t _ _ (e, b) (exec_tzero ..) (ownedOutcome_fault _ t b _ _ _ _ found)⟩
  · have runs := fun i body r arm => s.issuesTo_of_body c t i body r arm
    refine ⟨fun passes image fits room => runs _ _ (.seq _) (exec_tld ..) ?_,
      fun passes image fits room => runs _ _ (.seq _) (exec_tdrain ..) ?_,
      fun passes room => ?_, fun e found => s.issuesTo_tileFault c t _ _ e (exec_tmma ..) ?_⟩
    · dsimp only
      rw [State.gr_core_atIssue, State.gr_core_atIssue]
      exact imageOutcome_room _ _ _ _ _ _ im passes image fits room
    · dsimp only
      rw [State.gr_core_atIssue, State.gr_core_atIssue]
      exact imageOutcome_room _ _ _ _ _ _ im passes image fits room
    · have queues := fun v => s.issuesTo_tmma c t b ta tb q z _ v passes room rfl
      refine ⟨fun later => queues _ (if_neg ?_), fun isExact first => queues _ (if_pos ?_)⟩ <;>
        rw [Bool.and_eq_true, decide_eq_true_eq, List.isEmpty_iff]
      · rintro ⟨isExact, first⟩
        exact later.elim (fun h => h isExact) fun h => h first
      · exact ⟨isExact, first⟩
    · dsimp only at found ⊢
      rw [found]

/-! ### The tile engines -/

/-- Settles O29: each event by the entry it finds at its queue and the conditions that let it act. -/
theorem tileEngineEvents : Obligations.TileEngineEvents := by
  unfold Obligations.TileEngineEvents
  intro s c q fill z h tr n e d c' t' b ta tb a g f r o hc
  refine ⟨fun found free thawed runs unblocked ready => ?_, fun thawed next instr => ?_, fun head instr free finished => ?_,
    fun head started thawed instr => ?_, fun head started thawed instr => ?_⟩
  · have starts : (e.held || s.frozenAt c || ((s.core c).th e.thr).state == .debug ||
        (((s.core c).tqOf q.toNat).takeWhile fun y => y.seq ≠ e.seq).any (fun y => y.held) || !(s.core c).tReady e) = false := by
      rw [free, thawed, beq_eq_false_iff_ne.mpr runs, unblocked, ready]; rfl
    rw [exec_tileStart, execTileStart, withCore_ok s c _ hc]
    dsimp only
    rw [found]
    exact if_neg (Bool.eq_false_iff.mp starts)
  · rw [exec_matrixRowStep, execMatrixRowStep, withCore_ok s c _ hc, if_neg (Bool.eq_false_iff.mp thawed), next]
    dsimp only
    rw [instr]
  · have goesOn : ¬ (e.held || decide (e.row < (s.core c).tmmaRows e.i)) = true := by
      simpa [free] using finished
    rw [exec_tmmaComplete, execTmmaComplete, withCore_ok s c _ hc]
    dsimp only [b2n]
    rw [head]
    dsimp only
    rw [instr] at goesOn ⊢
    exact if_neg goesOn
  · rw [exec_tldComplete, execTldComplete, withCore_ok s c _ hc, head]
    dsimp only
    rw [instr]
    exact if_neg (by simp [started, thawed])
  · rw [exec_tdrainComplete, execTdrainComplete, withCore_ok s c _ hc, head]
    dsimp only
    rw [instr]
    exact if_neg (by simp [started, thawed])

end Sys2Proof.Machine

/-! SUPPORT. CONSUME, the DMA instructions, credit, and the events of the DMA engine (07 R245, R253, R255, R257 to R273): what each comes to. -/

namespace Sys2Proof.Machine

/-! ### CONSUME (07 R253, R255) -/

/-- Credit that is added is cut to COUNT × 64 bytes, which the register holds. -/
theorem Core.credit_addCredit (k : Core) (n b : Nat) :
    (k.addCredit n b).credit n = Nat.min (64 * k.gCount n) (k.credit n + b) := by
  have count : k.gCount n < 2 ^ 13 := Nat.mod_lt _ (Nat.two_pow_pos _)
  have held : Nat.min (64 * k.gCount n) (k.credit n + b) < 2 ^ 20 := Nat.lt_of_le_of_lt (Nat.min_le_left _ _) (by omega)
  unfold Core.addCredit Core.credit
  rw [Core.fld_setFld_same _ _ (Nat.zero_le _) (by decide : 19 < 32)]
  exact Nat.mod_eq_of_lt held

@[simp] theorem Core.isValid_setValid_same (k : Core) (l : Nat) (b : Bool) : (k.setValid l b).isValid l = b := SMap.get_set_same _ _ _ _

@[simp] theorem State.justSet_atIssue (s : State) (c d : CoreId) (t : Thr) (i : Instr) (now : Count) :
    ((s.atIssue c t i).core d).justSet now = (s.core d).justSet now := by
  unfold Core.justSet; rw [State.vset_core_atIssue]

/-- The line of a register's word address, as it stands in the issue cycle. -/
theorem State.lineOf_wordAddr_atIssue (s : State) (c : CoreId) (t : Thr) (i : Instr) (r : Reg) :
    lineOf (wordAddr (((s.atIssue c t i).th c t).gr r) none) = ((s.th c t).gr r).toNat % 2 ^ 17 / 16 := by
  rw [State.gr_atIssue]
  simp [lineOf, wordAddr, BitVec.toNat_setWidth]

/-- Settles O12: CONSUME by whether a region covers its line and the line is found valid; the credit by the width of its register. -/
theorem consumeReturnsCredit : Obligations.ConsumeReturnsCredit := by
  unfold Obligations.ConsumeReturnsCredit
  intro s c t r k l found
  have runs := fun res => s.issuesTo_of_body c t (.consume c t r) _ res (exec_consume ..)
  have finds : (((s.atIssue c t (.consume c t r)).core c).isValid l &&
      !(((s.atIssue c t (.consume c t r)).core c).justSet (s.atIssue c t (.consume c t r)).now).contains l) = found := by
    rw [State.isValid_atIssue, State.justSet_atIssue]
  refine ⟨fun n region valid => runs (.seq _) ?_, fun missed => runs (.seq _) ?_, fun n => ⟨?_, ?_⟩⟩
  · dsimp only
    rw [State.lineOf_wordAddr_atIssue, State.regionOf_atIssue, show (s.core c).regionOf _ = some n from region]
    exact if_pos (finds.trans valid)
  · dsimp only
    rw [State.lineOf_wordAddr_atIssue, State.regionOf_atIssue]
    rcases missed with outside | invalid
    · rw [show (s.core c).regionOf _ = none from outside]
    · cases (s.core c).regionOf _ with
      | none => rfl
      | some n => exact if_neg (Bool.eq_false_iff.mp (finds.trans invalid))
  · exact k.isValid_setValid_same l false
  · exact (k.setValid l false).credit_addCredit n 64

/-! ### DMAGO (07 R260, R261) -/

/-- What DMAGO comes to in `u` on a free channel, from the words of a descriptor that read well. -/
def descOutcome (c : CoreId) (t : Thr) (ch : Reg) (a : Nat) (ws : List Word) (u : State) : Res :=
  if descBad ws (40 * u.L) then .fault u 0x0F 3 (BitVec.ofNat 32 (4 * a))
  else match (descOf ws).rangeFault with
    | some w => .fault u 0x03 0 (BitVec.ofInt 32 (4 * w))
    | none => .seq (u.startChan c t ch a ws)

section
variable (c : CoreId) (t : Thr) (ch : Reg) (a : Nat) (ws : List Word) (u : State)

theorem descOutcome_bad (bad : descBad ws (40 * u.L) = true) :
    descOutcome c t ch a ws u = .fault u 0x0F 3 (BitVec.ofNat 32 (4 * a)) := if_pos bad

theorem descOutcome_out (good : descBad ws (40 * u.L) = false) (w : Int) (out : (descOf ws).rangeFault = some w) :
    descOutcome c t ch a ws u = .fault u 0x03 0 (BitVec.ofInt 32 (4 * w)) := by
  rw [descOutcome, if_neg (Bool.eq_false_iff.mp good), out]

theorem descOutcome_starts (good : descBad ws (40 * u.L) = false) (inside : (descOf ws).rangeFault = none) :
    descOutcome c t ch a ws u = .seq (u.startChan c t ch a ws) := by
  rw [descOutcome, if_neg (Bool.eq_false_iff.mp good), inside]

end

/-- DMAGO of a descriptor that is aligned, in the scratchpad and readable, on a channel that neither runs nor is parked. -/
theorem State.issuesTo_dmago_readable (s : State) (c : CoreId) (t : Thr) (ch ga : Reg) (a : Nat) (k : Core) (r : Res)
    (address : ((s.th c t).gr ga).toNat % 2 ^ 17 = a) (atIssue : (s.atIssue c t (.dmago c t ch ga)).core c = k)
    (aligned : a % 8 = 0) (inside : a + 7 < 81920) (free : k.chState ch ≠ chRunning ∧ k.chState ch ≠ chParked)
    (reads : k.firstBad ((List.range 8).map (a + ·)) = none)
    (runs : descOutcome c t ch a (k.spRange a 8) (s.atIssue c t (.dmago c t ch ga)) = r) :
    s.issuesTo c t (.dmago c t ch ga) (s.after c t (.dmago c t ch ga) r) := by
  refine s.issuesTo_of_body c t _ _ r (exec_dmago ..) ?_
  dsimp only
  rw [State.gr_core_atIssue, address, atIssue, if_neg (not_not_intro aligned), if_neg (Nat.not_le.mpr inside), if_neg (not_or.mpr free), reads]
  exact runs

/-! ### The instructions and messages of the engine (07 R257 to R268) -/

/-- An answer that reaches a channel: returned where nothing waits for it, and otherwise the end, the retry or the grant that it brings. -/
theorem exec_creditAnswer_found (s : State) (c : CoreId) (ch h : Reg) (m : NetMsg) (gen g : Nat) (ref noreg : Bool) (region : BitVec 3)
    (hc : s.hasCore c = true) (found : earliest (fun m => m.answers c ch) (fun _ _ => false) s.net = some m)
    (body : m.body = .creditAns h gen g ref noreg region) :
    exec (.creditAnswer c ch) s =
      let k := (((s.dropMsg m).advanceTo m.due).core c).count 9 none 1
      let u := ((s.dropMsg m).advanceTo m.due).setCore c k
      if ¬ (gen = (k.ch ch).gen ∧ (k.chState ch = chRunning ∨ k.chState ch = chParked)) then .next (u.grantBack c ch m.src gen g region)
      else if noreg then .next ((u.onCore c fun k => k.onCh ch fun x => { x with asked := false }).endChan c ch 4)
      else if ref then .next (u.onCore c fun k => k.onCh ch fun x => { x with retry := some (u.now + 256) })
      else .next (u.setCore c (((k.setGrant ch (k.grant ch + g)).onCh ch fun x => { x with asked := false, region := region }).armCh ch u.rev)) := by
  rw [exec_creditAnswer, execCreditAnswer, withCore_ok s c _ hc, found]
  dsimp only
  rw [body]

/-- Settles O30: DMAGO by the check that stops it or by its descriptor; each message by what it carries and what waits for it. -/
theorem dmaInstructionsAndCredits : Obligations.DmaInstructionsAndCredits := by
  unfold Obligations.DmaInstructionsAndCredits
  refine ⟨fun s c t ch ga gd => ?_, fun s c m ch gen left burst g ref noreg region w at_ ctx flow va hc => ?_⟩
  · intro i a k free ws trap
    have body := fun r => s.issuesTo_of_body c t i _ r (exec_dmago ..)
    have address : ((((s.atIssue c t i).core c).th t).gr ga).toNat % 2 ^ 17 = a := by rw [State.gr_core_atIssue]
    have readable := fun r aligned inside free reads => s.issuesTo_dmago_readable c t ch ga a k r rfl rfl aligned inside free reads
    refine ⟨fun odd => body (.fault _ _ _ _) ?_, fun aligned out => body (.fault _ _ _ _) ?_, fun aligned inside taken => body (.fault _ _ _ _) ?_,
      fun aligned inside untaken reads => ?_, s.issuesTo_of_body c t _ _ (.seq _) (exec_dmastat ..) rfl,
      s.issuesTo_of_body c t _ _ (.seq _) (exec_dmadis ..) rfl⟩
    · dsimp only
      rw [address, if_pos odd]
    · dsimp only
      rw [address, if_neg (not_not_intro aligned), if_pos out]
    · dsimp only
      rw [address, if_neg (not_not_intro aligned), if_neg (Nat.not_le.mpr inside), if_pos (or_iff_not_and_not.mpr taken)]
    · have starts := fun r => readable r aligned inside untaken reads
      exact ⟨fun bad => starts (.fault _ _ _ _) (descOutcome_bad c t ch a ws _ bad), fun good =>
        ⟨fun w out => starts (.fault _ _ _ _) (descOutcome_out c t ch a ws _ good w out),
          fun inRange => starts (.seq _) (descOutcome_starts c t ch a ws _ good inRange)⟩⟩
  · refine ⟨fun found => ?_, fun found body => ?_, fun due runs => ?_, fun found => ?_⟩
    · have arm := (exec_creditRequest c s).trans (withCore_ok s c _ hc)
      rw [found] at arm
      refine ⟨fun body => arm.trans ?_, fun body => arm.trans ?_, fun body => arm.trans ?_, fun body => arm.trans ?_⟩ <;>
        dsimp only <;> rw [body]
    · have answer := exec_creditAnswer_found s c ch ch m gen g ref noreg region hc found body
      have waited := fun waits => answer.trans (if_neg (not_not_intro waits))
      exact ⟨fun gone => answer.trans (if_pos gone), fun waits outside => (waited waits).trans (if_pos outside),
        fun waits inside refused => (waited waits).trans ((if_neg (Bool.eq_false_iff.mp inside)).trans (if_pos refused)),
        fun waits inside granted => (waited waits).trans ((if_neg (Bool.eq_false_iff.mp inside)).trans (if_neg (Bool.eq_false_iff.mp granted)))⟩
    · rw [exec_creditRetry, execCreditRetry, withCore_ok s c _ hc]
      dsimp only
      rw [due]
      exact if_pos runs
    · have arm := (exec_creditReturn c s).trans (withCore_ok s c _ hc)
      rw [found] at arm
      refine ⟨fun body => arm.trans ?_, fun body => arm.trans ?_⟩ <;> dsimp only <;> rw [body]
      exact if_pos rfl

/-! ### Bursts, the ends of channels, and units at output C (07 R263 to R273; 10 R334, R335) -/

/-- A TAP_DATA unit at output C writes its words, unless they go to the engine, and reaches the channel whose request it answers, if any. -/
theorem exec_dataUnitCommit_tapData (s : State) (c : CoreId) (m : MeshUnit) (hc : s.hasCore c = true) (found : s.unitAt c .outC = some m)
    (tap : m.u.kind = 3) :
    exec (.dataUnitCommit c) s =
      let u := s.outTaken c m
      let a := (u.core c).answers u.now m.u
      let v := if m.u.addr = 0x1FFFF then u else u.tapEnter c m.u a
      .next (a.elim v fun x => v.tapBack c x.1 x.2 m.u) := by
  have notData : ¬ (m.u.kind = 0 ∨ m.u.kind = 5) := by rw [tap]; decide
  rw [exec_dataUnitCommit, execDataUnitCommit, withCore_ok s c _ hc, found]
  dsimp only
  rw [if_neg notData, if_pos tap]
  cases ((s.outTaken c m).core c).answers (s.outTaken c m).now m.u <;> rfl

/-- Settles O31: the burst by the kind of its next step; the channel, the thread and the unit by the conditions in which each event acts. -/
theorem dmaBurstsAndEngines : Obligations.DmaBurstsAndEngines := by
  unfold Obligations.DmaBurstsAndEngines
  refine ⟨fun s c flow ch p fl q e d hc => ⟨fun picked => ?_, fun overdue slot => ?_⟩, fun s c t ch e code m hc => ?_⟩
  · have arm := (exec_dmaBurst c flow s).trans (withCore_ok s c _ hc)
    dsimp only at arm picked
    rw [picked] at arm
    refine ⟨fun step => arm.trans ?_, fun step => arm.trans ?_, fun step => arm.trans ?_⟩ <;> dsimp only <;> rw [step]
  · rw [exec_tapRetry, execTapRetry, withCore_ok s c _ hc, overdue]
    dsimp only
    rw [slot]
  · refine ⟨fun ends runs => ?_, (exec_dmaChannelResume c ch s).trans (withCore_ok s c _ hc), fun runs unended leaves => ?_,
      fun held state => ?_, fun unit => ?_⟩
    · rw [exec_dmaChannelDone, execDmaChannelDone, withCore_ok s c _ hc]
      dsimp only
      rw [ends]
      exact if_pos runs
    · rw [exec_dmaTimeout, execDmaTimeout, withCore_ok s c _ hc]
      exact if_neg (by simp [runs, unended, leaves])
    · rw [exec_heldTrapEntry, execHeldTrapEntry, withCore_ok s c _ hc]
      exact if_pos (by simpa [held] using state)
    · have tapData := exec_dataUnitCommit_tapData s c m hc unit
      refine ⟨fun data => ?_, fun tap x answered => (tapData tap).trans ?_, fun tap unanswered => (tapData tap).trans ?_⟩
      · rw [exec_dataUnitCommit, execDataUnitCommit, withCore_ok s c _ hc, unit]
        exact if_pos data
      · dsimp only at answered ⊢
        rw [answered, Option.elim_some]
      · dsimp only at unanswered ⊢
        rw [unanswered, Option.elim_none]

end Sys2Proof.Machine

/-! SUPPORT. Flags and barriers (08 R290 to R296; 03 R107, R111): where a wait completes, where a flag message goes, and what the messages that
reach a core do. -/

namespace Sys2Proof.Machine

/-! ### Explicit waits (03 R107, R111) -/

/-- With TF set a wait completes at once with `TIMER`. -/
theorem waitOn_timer (c : CoreId) (t : Thr) (d : Reg) (kind obj : Nat) (u : State) (tf : (u.th c t).st bTF = true) :
    waitOn c t d kind obj u = .seq ((u.onTh c t fun x => x.setSt bTF false).putG c t d 1 1) := if_pos tf

/-- With TF clear it waits. -/
theorem waitOn_waits (c : CoreId) (t : Thr) (d : Reg) (kind obj : Nat) (u : State) (tf : (u.th c t).st bTF = false) :
    waitOn c t d kind obj u = .wait u kind obj := if_neg (Bool.eq_false_iff.mp tf)

/-! ### Flag messages (08 R290) -/

/-- A flag message to a core that exists is sent. -/
theorem State.sendFlag_atIssue_sent (s : State) (c : CoreId) (t : Thr) (i : Instr) (g : Reg) (n : BitVec 6) (v : Bool)
    (found : (s.atIssue c t i).hasCore (((s.th c t).gr g).truncate 12) = true) :
    (s.atIssue c t i).sendFlag c t g n v = (s.atIssue c t i).send c (((s.th c t).gr g).truncate 12) (.flag n v) := by
  unfold State.sendFlag
  rw [State.gr_atIssue]
  exact if_pos found

/-- A flag message to a core that does not exist is recorded as BADCORE. -/
theorem State.sendFlag_atIssue_badCore (s : State) (c : CoreId) (t : Thr) (i : Instr) (g : Reg) (n : BitVec 6) (v : Bool)
    (absent : (s.atIssue c t i).hasCore (((s.th c t).gr g).truncate 12) = false) :
    (s.atIssue c t i).sendFlag c t g n v =
      ((s.atIssue c t i).onCore c fun k =>
        k.flagErr (s.atIssue c t i).now 1 t.toNat 0 (((s.th c t).gr g).truncate 12 : CoreId).toNat).toHeadstock (.flagUnit c 1) := by
  unfold State.sendFlag
  rw [State.gr_atIssue]
  exact if_neg (Bool.eq_false_iff.mp absent)

/-! ### Arrivals at a barrier (08 R295) -/

section
variable (u : State) (c : CoreId) (i : Nat) (ms : List NetMsg) (m : NetMsg) (last : ms.getLast? = some m)
include last

/-- Arrivals at a barrier that is not enabled, or whose COUNT is 0, are recorded as BADBAR. -/
theorem State.arrive_closed (closed : ¬ ((u.core c).fld (F.FLAG_BARCFG_EN i) ≠ 0 ∧ (u.core c).fld (F.FLAG_BARCFG_COUNT i) ≠ 0)) :
    u.arrive c i ms = ms.foldl (fun s m => s.onCore c fun k => k.flagErr s.now 2 0 i m.src.toNat) u := by
  unfold State.arrive
  rw [last]
  exact if_pos (or_iff_not_and_not.mpr closed)

/-- Arrivals at a barrier that is enabled are counted against its COUNT. -/
theorem State.arrive_open (opened : (u.core c).fld (F.FLAG_BARCFG_EN i) ≠ 0 ∧ (u.core c).fld (F.FLAG_BARCFG_COUNT i) ≠ 0) :
    u.arrive c i ms =
      let n := (u.core c).fld (F.FLAG_BARCFG_ARR i) + ms.length
      let cnt := (u.core c).fld (F.FLAG_BARCFG_COUNT i)
      if n < cnt then u.onCore c fun k => k.setFld (F.FLAG_BARCFG_ARR i) n
      else u.completeBar c (BitVec.ofNat 4 i) (n - cnt) false m.src.toNat := by
  unfold State.arrive
  rw [last]
  exact if_neg (not_or.mpr opened)

end

/-! ### The messages that reach a core (08 R290, R291, R295, R296) -/

/-- The earliest notice that reaches a core takes effect. -/
theorem exec_barrierNotice_arrives (s : State) (c : CoreId) (m : NetMsg) (b : BitVec 4) (a : Bool) (hc : s.hasCore c = true)
    (first : (s.arriving c NetBody.isNotice).take 1 = [m]) (body : m.body = .notice b a) :
    exec (.barrierNotice c) s = .next ((s.takeAll c [m]).onCore c fun k => k.notice (s.takeAll c [m]).now b a) := by
  rw [exec_barrierNotice, execBarrierNotice, withCore_ok s c _ hc, first]
  dsimp only [List.foldl]
  rw [body]

/-- Settles O32: the waits by their condition and TF, the messages by the core, the supervisor or the barrier that they go to. -/
theorem flagsAndBarriers : Obligations.FlagsAndBarriers := by
  unfold Obligations.FlagsAndBarriers
  refine ⟨fun s c t d gc n b p => ?_, fun s c hc => ?_⟩
  · intro wf wb ab k flag past to_ badCore timer tf supv arr
    have waitf := fun r => s.issuesTo_of_body c t wf _ r (exec_waitf ..)
    have waitb := fun r => s.issuesTo_of_body c t wb _ r (exec_waitb ..)
    have arrb := fun r => s.issuesTo_of_body c t ab _ r (exec_arrb ..)
    have setf := fun sent => s.issuesTo_of_body c t (.setf c t gc n) _ (.seq sent) (exec_setf ..)
    have clrf := fun sent => s.issuesTo_of_body c t (.clrf c t gc n) _ (.seq sent) (exec_clrf ..)
    have notPast : past = false → ¬ past = true := Bool.eq_false_iff.mp
    refine ⟨fun met => waitf (.seq _) (if_pos met),
      fun unmet fired => waitf (.seq _) ((if_neg unmet).trans (waitOn_timer _ _ _ _ _ _ fired)),
      fun unmet quiet => waitf (.wait _ _ _) ((if_neg unmet).trans (waitOn_waits _ _ _ _ _ _ quiet)),
      fun passed => waitb (.seq _) (if_pos passed),
      fun ahead fired => waitb (.seq _) ((if_neg (notPast ahead)).trans (waitOn_timer _ _ _ _ _ _ fired)),
      fun ahead quiet => waitb (.wait _ _ _) ((if_neg (notPast ahead)).trans (waitOn_waits _ _ _ _ _ _ quiet)),
      ⟨fun found => setf _ (congrArg Res.seq (s.sendFlag_atIssue_sent c t _ gc n true found)),
        fun absent => setf _ (congrArg Res.seq (s.sendFlag_atIssue_badCore c t _ gc n true absent))⟩,
      ⟨fun found => clrf _ (congrArg Res.seq (s.sendFlag_atIssue_sent c t _ gc n false found)),
        fun absent => clrf _ (congrArg Res.seq (s.sendFlag_atIssue_badCore c t _ gc n false absent))⟩,
      s.issuesTo_of_body c t _ _ (.seq _) (exec_tstf ..) rfl,
      fun supervised => arrb (.seq _) (if_pos supervised), fun alone => arrb (.seq _) (if_neg alone)⟩
  · intro fs ar ns
    refine ⟨(exec_flagMessageArrive c s).trans (withCore_ok s c _ hc), (exec_barrierArrival c s).trans (withCore_ok s c _ hc),
      fun u i ms m last => ⟨fun opened more => ?_, fun opened complete => ?_, u.arrive_closed c i ms m last⟩, fun noNotice => ?_,
      fun m b a first body => exec_barrierNotice_arrives s c m b a hc first body⟩
    · exact (u.arrive_open c i ms m last opened).trans (if_pos more)
    · exact (u.arrive_open c i ms m last opened).trans (if_neg (Nat.not_lt.mpr complete))
    · rw [exec_barrierNotice, execBarrierNotice, withCore_ok s c _ hc, show (s.arriving c NetBody.isNotice).take 1 = [] from noNotice]
      rfl

end Sys2Proof.Machine

/-! SUPPORT. Connections and the pattern routers (08 R279 to R286; 09 R307 to R309; 15 R477): what COPEN, CCLOSE, a unit at a router and the
pattern switch come to. -/

namespace Sys2Proof.Machine

/-! ### COPEN (09 R307, R308) -/

/-- Whether a connection is open, or its opening is under way. -/
def State.connTaken (u : State) (c : CoreId) (n : BitVec 4) : Bool :=
  (u.core c).cnState n != cnClosed || (u.opening c fun _ x => x == n).isSome

/-- The routes of a core to core `dest`. -/
def Core.routesTo (k : Core) (dest : Nat) : List Nat :=
  (List.range 8).filter fun r => k.fld (F.MESH_ROUTE_VALID r) = 1 && k.fld (F.MESH_ROUTE_DEST r) == dest

/-- Whether the words `w0` and `w1` are no descriptor of a connection. -/
def connDescBad (w0 w1 : Nat) (k : Core) (u : State) : Bool :=
  bits w0 30 15 != 0 || bits w1 31 17 != 0 ||
    (if bit w0 31 then bits w0 11 0 != 0 || !k.gEn (bits w0 14 12) || decide (spWords ≤ bits w1 16 0 + 255)
      else bits w1 16 0 != 0 || decide (40 * u.L ≤ bits w0 11 0))

/-- A receive connection opens on `ring`, which is emptied, with its handlers' table at `htab`. -/
def State.openRing (u : State) (c : CoreId) (t : Thr) (d : Reg) (n : BitVec 4) (ring htab : Nat) : State :=
  (u.setCore c ((((u.core c).emptyRing ring ((u.core c).gBase ring)).setW (R.MESH_RING ring) (BitVec.ofNat 32 (2 ^ 31 + htab))).setW
    (R.MESH_CONN n.toNat) (BitVec.ofNat 32 (cnRecv <<< 29 + t.toNat <<< 27 + ring <<< 24)))).putG c t d 0 1

/-- What the opening of a receive connection on `ring`, with its handlers' table at `htab`, comes to in `u`. -/
def openRecv (c : CoreId) (t : Thr) (d : Reg) (n : BitVec 4) (ring htab : Nat) (u : State) : Res :=
  if u.connTaken c n || (u.core c).ringOpen ring || (u.core c).rgOut ring != 0 then .seq (u.putG c t d 3 1)
  else .seq (u.openRing c t d n ring htab)

/-- The request of a send connection to `ring` of core `dest` by route `r`: the route is reserved, and the thread stalls. -/
def State.askOpen (u : State) (c : CoreId) (t : Thr) (d : Reg) (n : BitVec 4) (ga : Reg) (ring dest r : Nat) : State :=
  (u.onCore c fun k => (k.setFld (F.MESH_ROUTE_BOUND r) 1).onTh t fun x => { x with stalled := true, waiting := some (.copen c t d n ga) }).send c
    (BitVec.ofNat 12 dest) (.openReq t n (BitVec.ofNat 3 ring) (BitVec.ofNat 3 r))

/-- What the opening of a send connection to `ring` of core `dest` comes to in `u`. -/
def openSend (c : CoreId) (t : Thr) (d : Reg) (n : BitVec 4) (ga : Reg) (ring dest : Nat) (u : State) : Res :=
  if u.connTaken c n then .seq (u.putG c t d 3 1)
  else if ((u.core c).routesTo dest).isEmpty then .seq (u.putG c t d 4 1)
  else match ((u.core c).routesTo dest).find? (fun r => (u.core c).fld (F.MESH_ROUTE_BOUND r) = 0) with
  | none => .seq (u.putG c t d 3 1)
  | some r => .stay (u.askOpen c t d n ga ring dest r)

/-- What COPEN comes to in `u`, with the words `w0` and `w1` read at `a`. -/
def openOutcome (c : CoreId) (t : Thr) (d : Reg) (n : BitVec 4) (ga : Reg) (a w0 w1 : Nat) (u : State) : Res :=
  if connDescBad w0 w1 (u.core c) u then chFault u 2 (4 * a)
  else if bit w0 31 then openRecv c t d n (bits w0 14 12) (bits w1 16 0) u
  else openSend c t d n ga (bits w0 14 12) (bits w0 11 0) u

section
variable (c : CoreId) (t : Thr) (d : Reg) (n : BitVec 4) (ga : Reg) (ring htab dest a w0 w1 : Nat) (u : State)

theorem openRecv_opens (closed : u.connTaken c n = false) (free : (u.core c).ringOpen ring = false) (empty : (u.core c).rgOut ring = 0) :
    openRecv c t d n ring htab u = .seq (u.openRing c t d n ring htab) :=
  if_neg (by simp [closed, free, empty])

theorem openRecv_refused (taken : u.connTaken c n = true ∨ (u.core c).ringOpen ring = true ∨ (u.core c).rgOut ring ≠ 0) :
    openRecv c t d n ring htab u = .seq (u.putG c t d 3 1) := if_pos (by simpa [or_assoc] using taken)

theorem openSend_refused (taken : u.connTaken c n = true) : openSend c t d n ga ring dest u = .seq (u.putG c t d 3 1) := if_pos taken

theorem openSend_noRoute (closed : u.connTaken c n = false) (noRoute : (u.core c).routesTo dest = []) :
    openSend c t d n ga ring dest u = .seq (u.putG c t d 4 1) := by
  rw [openSend, if_neg (Bool.eq_false_iff.mp closed), if_pos (List.isEmpty_iff.mpr noRoute)]

theorem openSend_allBound (closed : u.connTaken c n = false) (routes : (u.core c).routesTo dest ≠ [])
    (bound : ((u.core c).routesTo dest).find? (fun r => (u.core c).fld (F.MESH_ROUTE_BOUND r) = 0) = none) :
    openSend c t d n ga ring dest u = .seq (u.putG c t d 3 1) := by
  rw [openSend, if_neg (Bool.eq_false_iff.mp closed), if_neg (mt List.isEmpty_iff.mp routes), bound]

theorem openSend_asks (r : Nat) (closed : u.connTaken c n = false)
    (free : ((u.core c).routesTo dest).find? (fun r => (u.core c).fld (F.MESH_ROUTE_BOUND r) = 0) = some r) :
    openSend c t d n ga ring dest u = .stay (u.askOpen c t d n ga ring dest r) := by
  have routes : (u.core c).routesTo dest ≠ [] := List.ne_nil_of_mem (List.mem_of_find?_eq_some free)
  rw [openSend, if_neg (Bool.eq_false_iff.mp closed), if_neg (mt List.isEmpty_iff.mp routes), free]

theorem openOutcome_recv (recv : bit w0 31 = true ∧ bits w0 30 15 = 0 ∧ bits w0 11 0 = 0 ∧ (u.core c).gEn (bits w0 14 12) = true ∧
    bits w1 31 17 = 0 ∧ bits w1 16 0 + 255 < 81920) :
    openOutcome c t d n ga a w0 w1 u = openRecv c t d n (bits w0 14 12) (bits w1 16 0) u := by
  obtain ⟨isRecv, plain, noDest, guarded, plain', inside⟩ := recv
  have good : connDescBad w0 w1 (u.core c) u = false := by simp [connDescBad, isRecv, plain, noDest, guarded, plain', inside]
  rw [openOutcome, if_neg (Bool.eq_false_iff.mp good), if_pos isRecv]

theorem openOutcome_send (send : bit w0 31 = false ∧ bits w0 30 15 = 0 ∧ bits w0 11 0 < 40 * u.L ∧ w1 = 0) :
    openOutcome c t d n ga a w0 w1 u = openSend c t d n ga (bits w0 14 12) (bits w0 11 0) u := by
  obtain ⟨isSend, plain, onGrid, rfl⟩ := send
  have zero : ∀ hi lo, bits 0 hi lo = 0 := fun hi lo => by simp [bits]
  have good : connDescBad w0 0 (u.core c) u = false := by simp [connDescBad, isSend, plain, onGrid, zero]
  rw [openOutcome, if_neg (Bool.eq_false_iff.mp good), if_neg (Bool.eq_false_iff.mp isSend)]

end

/-- A COPEN whose descriptor is not in the scratchpad faults. -/
theorem State.issuesTo_copen_outside (s : State) (c : CoreId) (t : Thr) (d : Reg) (n : BitVec 4) (ga : Reg) (a : Nat)
    (address : ((s.th c t).gr ga).toNat % 2 ^ 17 = a) (outside : 81920 ≤ a + 1) :
    s.issuesTo c t (.copen c t d n ga) (s.thenTrap c t (.copen c t d n ga) 0x10 2 (BitVec.ofNat 32 (4 * a)) (s.atIssue c t (.copen c t d n ga))) := by
  refine s.issuesTo_of_body c t _ _ (.fault _ _ _ _) (exec_copen ..) ?_
  dsimp only
  rw [State.gr_core_atIssue, address]
  exact if_pos outside

/-- A COPEN whose descriptor is in the scratchpad and readable comes to what its two words say. -/
theorem State.issuesTo_copen_readable (s : State) (c : CoreId) (t : Thr) (d : Reg) (n : BitVec 4) (ga : Reg) (a : Nat) (k : Core) (r : Res)
    (address : ((s.th c t).gr ga).toNat % 2 ^ 17 = a) (atIssue : (s.atIssue c t (.copen c t d n ga)).core c = k)
    (reads : a + 1 < 81920 ∧ k.firstBad [a, a + 1] = none)
    (runs : openOutcome c t d n ga a (k.spWord a).toNat (k.spWord (a + 1)).toNat (s.atIssue c t (.copen c t d n ga)) = r) :
    s.issuesTo c t (.copen c t d n ga) (s.after c t (.copen c t d n ga) r) := by
  obtain ⟨inside, good⟩ := reads
  refine s.issuesTo_of_body c t _ _ r (exec_copen ..) ?_
  subst atIssue
  dsimp only
  rw [State.gr_core_atIssue, address, if_neg (Nat.not_le.mpr inside), good]
  exact runs

/-! ### CCLOSE (09 R309) -/

section
variable (s : State) (c : CoreId) (t : Thr) (n : BitVec 4) (k : Core) (atIssue : (s.atIssue c t (.cclose c t n)).core c = k)
include atIssue

/-- CCLOSE of an own receive connection closes it where its ring holds no claim, no message in dispatch and all of its credit. -/
theorem State.issuesTo_cclose_recv (own : k.badConn t n true true = false) (recv : k.cnState n = cnRecv) (unclaimed : k.rgOut (k.cnRing n).toNat = 0)
    (consumed : k.fld (F.MESH_RING_DISP (k.cnRing n).toNat) ≠ 1) (full : k.credit (k.cnRing n).toNat = 64 * k.gCount (k.cnRing n).toNat) :
    s.issuesTo c t (.cclose c t n) (s.thenNext c t (.cclose c t n) ((s.atIssue c t (.cclose c t n)).setCore c (k.closeConn n))) := by
  refine s.issuesTo_of_body c t _ _ (.seq _) (exec_cclose ..) ?_
  dsimp only
  rw [atIssue, if_neg (Bool.eq_false_iff.mp own), if_pos recv]
  exact if_neg (by simp [unclaimed, consumed, full])

/-- CCLOSE of an own send connection closes it where it is idle. -/
theorem State.issuesTo_cclose_idle (own : k.badConn t n true true = false) (idle : k.cnState n = cnIdle) :
    s.issuesTo c t (.cclose c t n) (s.thenNext c t (.cclose c t n) ((s.atIssue c t (.cclose c t n)).setCore c (k.closeConn n))) := by
  refine s.issuesTo_of_body c t _ _ (.seq _) (exec_cclose ..) ?_
  have notRecv : ¬ k.cnState n = cnRecv := by rw [idle]; decide
  dsimp only
  rw [atIssue, if_neg (Bool.eq_false_iff.mp own), if_neg notRecv]
  exact if_neg (not_not_intro idle)

/-- CCLOSE of a connection that is closed or another thread's faults. -/
theorem State.issuesTo_cclose_bad (bad : k.badConn t n true true = true) :
    s.issuesTo c t (.cclose c t n) (s.thenTrap c t (.cclose c t n) 0x10 1 (BitVec.ofNat 32 n.toNat) (s.atIssue c t (.cclose c t n))) := by
  refine s.issuesTo_of_body c t _ _ (.fault _ _ _ _) (exec_cclose ..) ?_
  dsimp only
  rw [atIssue]
  exact if_pos bad

end

/-- Settles O36: COPEN by its descriptor and the state of its connection, its ring and its routes; CCLOSE by the connection; a unit by the
outputs that name its input; the banks and the switch by what is armed. -/
theorem meshConnections : Obligations.MeshConnections := by
  unfold Obligations.MeshConnections
  refine ⟨fun s c t d ga n m ring route r count ok => ?_, fun s c port m logp drain es bed n => ?_⟩
  · intro i j at_ k a w0 w1 reads rg dest busy recvOk sendOk routes sup q
    have opens := fun res readable => s.issuesTo_copen_readable c t d n ga a k res rfl rfl readable
    have recv := fun isRecv => openOutcome_recv c t d n ga a w0 w1 at_ isRecv
    have send := fun isSend => openOutcome_send c t d n ga a w0 w1 at_ isSend
    refine ⟨s.issuesTo_copen_outside c t d n ga a rfl,
      fun readable isRecv closed free empty => opens (.seq _) readable
        ((recv isRecv).trans (openRecv_opens c t d n rg _ at_ closed free empty)),
      fun readable isRecv taken => opens (.seq _) readable ((recv isRecv).trans (openRecv_refused c t d n rg _ at_ taken)),
      fun readable isSend taken => opens (.seq _) readable ((send isSend).trans (openSend_refused c t d n ga rg dest at_ taken)),
      fun readable isSend closed noRoute => opens (.seq _) readable
        ((send isSend).trans (openSend_noRoute c t d n ga rg dest at_ closed noRoute)),
      fun readable isSend closed routed bound => opens (.seq _) readable
        ((send isSend).trans (openSend_allBound c t d n ga rg dest at_ closed routed bound)),
      fun readable isSend closed free => opens (.stay _) readable
        ((send isSend).trans (openSend_asks c t d n ga rg dest at_ r closed free)),
      fun hc found => ?_, s.issuesTo_cclose_recv c t n q rfl, s.issuesTo_cclose_idle c t n q rfl, s.issuesTo_cclose_bad c t n q rfl⟩
    have arm := (exec_copenComplete c t s).trans (withCore_ok s c _ hc)
    rw [found] at arm
    refine ⟨fun body => arm.trans ?_, fun body => arm.trans ?_⟩ <;> dsimp only <;> rw [body]
  · intro u outs
    refine ⟨fun hc found => ?_, fun hc small large whole => ?_, fun armed => ?_, fun armed => ?_⟩
    · have arm := (exec_meshUnitArrive c port s).trans (withCore_ok s c _ hc)
      rw [found] at arm
      exact ⟨fun stray => arm.trans (if_pos (List.isEmpty_iff.mpr stray)), fun named => arm.trans (if_neg (mt List.isEmpty_iff.mp named))⟩
    · have wf : ¬ (logp.toNat < 6 ∨ 10 < logp.toNat ∨ es.length ≠ 7 * 2 ^ logp.toNat) := by omega
      have arm := ((exec_patternLoad c logp drain es s).trans (withCore_ok s c _ hc)).trans (if_neg wf)
      exact ⟨fun unarmed => arm.trans (if_neg unarmed), fun armed => arm.trans (if_pos armed)⟩
    · rw [exec_patternDrainGuard, execPatternDrainGuard, armed]
    · have arm := exec_patternSwitch s
      rw [execPatternSwitch, armed] at arm
      exact arm

end Sys2Proof.Machine

/-! SUPPORT. Messages (09 R311 to R320): what MSEND, MRECV and MDONE come to, and what the claim of ring lines, its answer, the units of a
message and the dispatcher do. -/

namespace Sys2Proof.Machine

/-! ### Sending (09 R311 to R314, R320) -/

/-- A connection takes up a message of `len` bytes at word `a`, and asks for the ring lines that it needs. -/
def State.claimSend (u : State) (c : CoreId) (n : BitVec 4) (h : BitVec 8) (a len : Nat) : State :=
  (u.onCore c fun k => (k.setCnState n cnWait).onCn n fun y =>
    { y with body := BitVec.ofNat 17 a, len := len, h := h, gen := y.gen + 1, padN := 0, sent := 0, retry := none, bad := none }).claimReq c n

/-- What MSEND of a message of `len` bytes at word `a` comes to in `u`, on an idle connection of the thread. -/
def sendOutcome (c : CoreId) (n : BitVec 4) (h : BitVec 8) (a len : Nat) (u : State) : Res :=
  if len % 4 ≠ 0 ∨ 4088 < len ∨ (((u.core c).cn n).count + 1) / 2 < msgLines len then chFault u 5 len
  else if len ≠ 0 ∧ spWords < a + len / 4 then .fault u 0x03 0 (BitVec.ofNat 32 (4 * Nat.max a spWords))
  else .wait (u.claimSend c n h a len) 4 (16 + n.toNat)

section
variable (c : CoreId) (n : BitVec 4) (h : BitVec 8) (a len : Nat) (u : State)

theorem sendOutcome_unfit (unfit : ¬ (len % 4 = 0 ∧ len ≤ 4088 ∧ msgLines len ≤ (((u.core c).cn n).count + 1) / 2)) :
    sendOutcome c n h a len u = chFault u 5 len := if_pos (by omega)

variable (fits : len % 4 = 0 ∧ len ≤ 4088 ∧ msgLines len ≤ (((u.core c).cn n).count + 1) / 2)
include fits

theorem sendOutcome_outside (body : len ≠ 0) (outside : 81920 < a + len / 4) :
    sendOutcome c n h a len u = .fault u 0x03 0 (BitVec.ofNat 32 (4 * Nat.max a 81920)) := by
  rw [sendOutcome, if_neg (by omega)]
  exact if_pos ⟨body, outside⟩

theorem sendOutcome_claims (inside : len = 0 ∨ a + len / 4 ≤ 81920) :
    sendOutcome c n h a len u = .wait (u.claimSend c n h a len) 4 (16 + n.toNat) := by
  rw [sendOutcome, if_neg (by omega)]
  exact if_neg (by rw [spWords]; omega)

end

/-- MSEND on a connection that is not an idle send connection of the thread faults. -/
theorem State.issuesTo_msend_bad (s : State) (c : CoreId) (t : Thr) (n : BitVec 4) (ga gb : Reg) (h : BitVec 8) (k : Core)
    (atIssue : (s.atIssue c t (.msend c t n ga gb h)).core c = k) (bad : ¬ (k.badConn t n true false = false ∧ k.cnState n = cnIdle)) :
    s.issuesTo c t (.msend c t n ga gb h) (s.thenTrap c t (.msend c t n ga gb h) 0x10 1 (BitVec.ofNat 32 n.toNat)
      (s.atIssue c t (.msend c t n ga gb h))) := by
  refine s.issuesTo_of_body c t _ _ (.fault _ _ _ _) (exec_msend ..) ?_
  dsimp only
  rw [atIssue]
  exact if_pos (by simpa [imp_iff_not_or] using bad)

/-- MSEND on an idle send connection of the thread comes to what its message allows. -/
theorem State.issuesTo_msend_idle (s : State) (c : CoreId) (t : Thr) (n : BitVec 4) (ga gb : Reg) (h : BitVec 8) (k : Core) (r : Res)
    (atIssue : (s.atIssue c t (.msend c t n ga gb h)).core c = k) (mine : k.badConn t n true false = false ∧ k.cnState n = cnIdle)
    (runs : sendOutcome c n h (((s.th c t).gr ga).toNat % 2 ^ 17) ((s.th c t).gr gb).toNat (s.atIssue c t (.msend c t n ga gb h)) = r) :
    s.issuesTo c t (.msend c t n ga gb h) (s.after c t (.msend c t n ga gb h) r) := by
  obtain ⟨own, idle⟩ := mine
  refine s.issuesTo_of_body c t _ _ r (exec_msend ..) ?_
  subst atIssue
  dsimp only
  rw [State.gr_core_atIssue, State.gr_core_atIssue, if_neg (by simp [own, idle])]
  exact runs

section
variable (s : State) (c : CoreId) (n : BitVec 4) (m : NetMsg) (gen : Nat) (flow : BitVec 16) (ring : BitVec 3) (lines : Nat) (seq : BitVec 16)
  (res : ClaimRes) (hc : s.hasCore c = true)
include hc

/-- The earliest claim request that reaches a core is decided in the cycle after it arrives, and answered. -/
theorem exec_claimRequest_decides (found : earliest (fun m => m.claims c) reqBefore s.net = some m)
    (body : m.body = .claimReq n gen flow ring lines seq) :
    exec (.claimRequest c) s =
      let u := ((s.dropMsg m).advanceTo (m.due + 1)).onCore c fun k => k.count 9 none 1
      let r := (u.core c).decideClaim u.now ring.toNat lines
      .next ((u.setCore c r.1).send c m.src (.claimAns n gen flow lines seq r.2)) := by
  rw [exec_claimRequest, execClaimRequest, withCore_ok s c _ hc, found]
  dsimp only
  rw [body]

/-- The answer to a claim goes to the send that waits for it; where none does, its lines are voided. -/
theorem exec_claimGrant_answered (found : earliest (fun m => m.claimed c n) (fun _ _ => false) s.net = some m)
    (body : m.body = .claimAns n gen flow lines seq res) :
    exec (.claimGrant c n) s =
      let u := ((s.dropMsg m).advanceTo m.due).onCore c fun k => k.count 9 none 1
      if gen = ((u.core c).cn n).gen ∧ (u.core c).cnState n = cnWait then .next (u.setCore c ((u.core c).claimAnswer n u.now res))
      else .next (u.claimVoid c n flow m.src lines seq.toNat res) := by
  rw [exec_claimGrant, execClaimGrant, withCore_ok s c _ hc, found]
  dsimp only
  rw [body]

/-- A claim that is due to be asked for again is, where its send still waits. -/
theorem exec_claimRetry_due (e : Count) (due : ((s.core c).cn n).retry = some e) :
    exec (.claimRetry c n) s =
      let u := s.onCore c fun k => k.onCn n fun x => { x with retry := none }
      if (u.core c).cnState n = cnWait then .next ((u.advanceTo e).claimReq c n) else .next u := by
  rw [exec_claimRetry, execClaimRetry, withCore_ok s c _ hc, due]

/-- A header unit that a connection owes leaves in the next free slot of its flow. -/
theorem exec_messageUnitSend_owed (o : Owed) (e : Count) (owes : (s.core c).owed.find? (fun o => o.conn == n) = some o)
    (slot : s.freeSlot c o.flow = some e) : exec (.messageUnitSend c n) s = .next (s.sendOwed c o e) := by
  rw [exec_messageUnitSend, execMessageUnitSend, withCore_ok s c _ hc]
  dsimp only
  rw [owes]
  dsimp only
  rw [slot]

/-- The next unit of a message leaves in the next free slot of its connection's flow. -/
theorem exec_messageUnitSend_message (e : Count) (thawed : s.frozenAt c = false) (owes : (s.core c).owed.find? (fun o => o.conn == n) = none)
    (may : (s.core c).maySend n = true) (slot : s.freeSlot c ((s.core c).cnFlow n) = some e) :
    exec (.messageUnitSend c n) s = .next (s.sendMsgUnit c n ((s.core c).nextUnit c n) e) := by
  rw [exec_messageUnitSend, execMessageUnitSend, withCore_ok s c _ hc]
  dsimp only
  rw [owes]
  dsimp only
  rw [if_neg (by simp [thawed, may]), slot]

end

/-! ### Receiving (09 R316 to R318) -/

/-- MRECV calls the handler of the message at `addr`, which `q` holds in dispatch. -/
def State.callHandler (u : State) (c : CoreId) (t : Thr) (d : Reg) (q : Core) (addr : Nat) : State :=
  (((u.setCore c q).putG c t d 0 1).putG c t (d + 1) (BitVec.ofNat 32 addr) 1).onTh c t fun x => { x with rs := (x.pc + 2) :: x.rs }

/-- What MRECV comes to in `u` on the receive connection of ring `r`, of which no message is in dispatch. -/
def recvOutcome (c : CoreId) (t : Thr) (d : Reg) (n : BitVec 4) (r : Nat) (u : State) : Res :=
  if ((u.core c).rg r).found then
    match (u.core c).takeMsg r t u.now n with
    | none => chFault u 6 (hdrHandler ((u.core c).hdr ((u.core c).rgHead r)))
    | some (q, addr, target) => .jump (u.callHandler c t d q addr) target
  else waitOn c t d 4 n.toNat u

section
variable (c : CoreId) (t : Thr) (d : Reg) (n : BitVec 4) (r : Nat) (u : State)

theorem recvOutcome_takes (q : Core) (addr : Nat) (target : BitVec 15) (found : ((u.core c).rg r).found = true)
    (takes : (u.core c).takeMsg r t u.now n = some (q, addr, target)) :
    recvOutcome c t d n r u = .jump (u.callHandler c t d q addr) target := by
  rw [recvOutcome, if_pos found, takes]

theorem recvOutcome_noHandler (found : ((u.core c).rg r).found = true) (noHandler : (u.core c).takeMsg r t u.now n = none) :
    recvOutcome c t d n r u = chFault u 6 (hdrHandler ((u.core c).hdr ((u.core c).rgHead r))) := by
  rw [recvOutcome, if_pos found, noHandler]

theorem recvOutcome_nothing (nothing : ((u.core c).rg r).found = false) : recvOutcome c t d n r u = waitOn c t d 4 n.toNat u :=
  if_neg (Bool.eq_false_iff.mp nothing)

end

/-- MRECV on a connection that is not a receive connection of the thread faults. -/
theorem State.issuesTo_mrecv_bad (s : State) (c : CoreId) (t : Thr) (d : Reg) (n : BitVec 4)
    (bad : ((s.atIssue c t (.mrecv c t d n)).core c).badConn t n false true = true) :
    s.issuesTo c t (.mrecv c t d n) (s.thenTrap c t (.mrecv c t d n) 0x10 1 (BitVec.ofNat 32 n.toNat) (s.atIssue c t (.mrecv c t d n))) :=
  s.issuesTo_of_body c t _ _ (.fault _ _ _ _) (exec_mrecv ..) (if_pos bad)

/-- MRECV that may receive comes to what its ring holds. -/
theorem State.issuesTo_mrecv_ready (s : State) (c : CoreId) (t : Thr) (d : Reg) (n : BitVec 4) (k : Core) (r : Res)
    (atIssue : (s.atIssue c t (.mrecv c t d n)).core c = k)
    (ready : k.badConn t n false true = false ∧ d ≠ 7 ∧ k.fld (F.MESH_RING_DISP (k.cnRing n).toNat) ≠ 1 ∧ (s.th c t).rs.length < 16)
    (runs : recvOutcome c t d n (k.cnRing n).toNat (s.atIssue c t (.mrecv c t d n)) = r) :
    s.issuesTo c t (.mrecv c t d n) (s.after c t (.mrecv c t d n) r) := by
  obtain ⟨own, inPair, free, notFull⟩ := ready
  have room : ¬ 16 ≤ ((s.atIssue c t (.mrecv c t d n)).th c t).rs.length := by rw [State.rs_atIssue]; exact Nat.not_le.mpr notFull
  refine s.issuesTo_of_body c t _ _ r (exec_mrecv ..) ?_
  subst atIssue
  dsimp only
  rw [if_neg (Bool.eq_false_iff.mp own), if_neg inPair, if_neg free]
  exact (if_neg room).trans runs

/-- MDONE of a message in dispatch on a receive connection of the thread consumes it. -/
theorem State.issuesTo_mdone (s : State) (c : CoreId) (t : Thr) (n : BitVec 4) (k : Core) (r l lines : Nat)
    (atIssue : (s.atIssue c t (.mdone c t n)).core c = k) (ring : (k.cnRing n).toNat = r) (head : k.rgHead r = l) (size : hdrLines (k.hdr l) = lines)
    (own : k.badConn t n false true = false) (inDispatch : k.fld (F.MESH_RING_DISP r) ≠ 0) :
    let u := ((k.clearValid l lines).ringCredit r (s.atIssue c t (.mdone c t n)).now (64 * lines)).setFld (F.MESH_RPTR_HEAD r) (k.rgNext r l lines)
    s.issuesTo c t (.mdone c t n) (s.thenNext c t (.mdone c t n) ((s.atIssue c t (.mdone c t n)).setCore c
      ((u.setFld (F.MESH_RING_DISP r) 0).setRg r { u.rg r with found := false }))) := by
  subst atIssue ring head size
  refine s.issuesTo_of_body c t _ _ (.seq _) (exec_mdone ..) ?_
  dsimp only
  rw [if_neg (Bool.eq_false_iff.mp own), if_neg inDispatch]

/-- The dispatcher acts where that changes its core; it reports a ring that has got stuck. -/
theorem exec_ringDispatch_acts (s : State) (c : CoreId) (ring : BitVec 3) (hc : s.hasCore c = true)
    (acts : (s.core c).dispatch ring.toNat (s.now + 1) ≠ s.core c) :
    exec (.ringDispatch c ring) s =
      let u := (s.advanceTo (s.now + 1)).onCore c fun k => k.dispatch ring.toNat (s.now + 1)
      .next (if ((u.core c).rg ring.toNat).stuck then u.toHeadstock (.ring c ring.toNat) else u) := by
  rw [exec_ringDispatch, execRingDispatch, withCore_ok s c _ hc]
  exact if_neg acts

/-- Settles O37: MSEND by its connection and message, each event of a send by what it finds, MRECV and MDONE by their connection and ring, the
dispatcher by whether the ring got stuck. -/
theorem messagesAreSentAndReceived : Obligations.MessagesAreSentAndReceived := by
  unfold Obligations.MessagesAreSentAndReceived
  refine ⟨fun s c t n ga gb h m gen flow ring lines seq res e o => ?_, fun s c t d n ring q addr target => ?_⟩
  · intro i k a len fits mine trap
    have sends := fun r own => s.issuesTo_msend_idle c t n ga gb h k r rfl own
    refine ⟨fun own good inside => sends (.wait _ _ _) own (sendOutcome_claims c n h a len _ good inside),
      s.issuesTo_msend_bad c t n ga gb h k rfl, fun own unfit => sends (.fault _ _ _ _) own (sendOutcome_unfit c n h a len _ unfit),
      fun own good body outside => sends (.fault _ _ _ _) own (sendOutcome_outside c n h a len _ good body outside),
      fun hc => ⟨exec_claimRequest_decides s c n m gen flow ring lines seq hc, fun found body => ?_, fun due => ?_,
        exec_messageUnitSend_owed s c n hc o e, exec_messageUnitSend_message s c n hc e⟩⟩
    · have answered := exec_claimGrant_answered s c n m gen flow lines seq res hc found body
      exact ⟨fun waits => answered.trans (if_pos waits), fun gone => answered.trans (if_neg gone)⟩
    · have retried := exec_claimRetry_due s c n hc e due
      exact ⟨fun waits => retried.trans (if_pos waits), fun gone => retried.trans (if_neg gone)⟩
  · intro i j at_ k r kj rj l lines ready trap
    have receives := fun res may => s.issuesTo_mrecv_ready c t d n k res rfl may
    have waits := fun nothing => recvOutcome_nothing c t d n r at_ nothing
    refine ⟨fun may found takes => receives (.jump _ _) may (recvOutcome_takes c t d n r at_ q addr target found takes),
      fun may found noHandler => receives (.fault _ _ _ _) may (recvOutcome_noHandler c t d n r at_ found noHandler),
      fun may nothing fired => receives (.seq _) may ((waits nothing).trans (waitOn_timer _ _ _ _ _ _ fired)),
      fun may nothing quiet => receives (.wait _ _ _) may ((waits nothing).trans (waitOn_waits _ _ _ _ _ _ quiet)),
      s.issuesTo_mrecv_bad c t d n, s.issuesTo_mdone c t n kj rj l lines rfl rfl rfl rfl, fun hc acts => ?_⟩
    have arm := exec_ringDispatch_acts s c ring hc acts
    exact ⟨fun runs => arm.trans (congrArg _ (if_neg (Bool.eq_false_iff.mp runs))), fun stuck => arm.trans (congrArg _ (if_pos stuck))⟩

end Sys2Proof.Machine

/-! SUPPORT. The taps and the events of the memory tiers (10 R330 to R353; 11 R369): what each comes to where it acts. -/

namespace Sys2Proof.Machine

section
variable (s : State) (tap : BitVec 9) (inRange : tap.toNat < 320)
include inRange

/-! ### Requests at a tap and their returns (10 R330 to R332, R334, R350) -/

/-- A read request that reaches a tap is served from the stage cache or the bonded tier if the tap accepts it. -/
theorem exec_tapRd_reached (f g : EccFound) (m : MeshUnit) (u : State) (ok : Bool)
    (reached : s.tapUnit tap.toNat (fun u => u.kind != 2) = some m) (answer : (s.unitTaken m).acceptUnit tap.toNat m.u = (u, ok)) :
    exec (.tapRd tap f g) s =
      let q := reqOf m.u 0
      if ok then
        if q.stage then .next (u.stageRead tap.toNat q (reqBursts m.u) m.u.addr f g)
        else .next (u.bondedRead tap.toNat q (reqBursts m.u) m.u.addr f g)
      else .next u := by
  rw [exec_tapRd, execTapRd]
  dsimp only
  rw [if_neg (Nat.not_le.mpr inRange), reached]
  dsimp only
  rw [answer]
  cases ok <;> rfl

/-- A write request that reaches a tap goes to the stage cache or, its old burst preserved, to the bonded tier if the tap accepts it. -/
theorem exec_tapWr_reached (m : MeshUnit) (u : State) (ok : Bool)
    (reached : s.tapUnit tap.toNat (fun u => u.kind == 2) = some m) (answer : (s.unitTaken m).acceptUnit tap.toNat m.u = (u, ok)) :
    exec (.tapWr tap) s =
      let w := reqOf m.u 16
      let a := tapAddr tap.toNat w.burst
      if ok then
        if w.stage then .next (u.stageWrite tap.toNat w (m.u.words.take 16) (m.u.poison.getLsbD 0))
        else .next ((u.preserve a).putBurst a w.mask (m.u.words.take 16) (m.u.poison.getLsbD 0))
      else .next u := by
  rw [exec_tapWr, execTapWr]
  dsimp only
  rw [if_neg (Nat.not_le.mpr inRange), reached]
  dsimp only
  rw [answer]
  cases ok <;> rfl

/-- The oldest return of a tap leaves when it is due, unless it acknowledges a line of which another tap holds a copy. -/
theorem exec_tapData_due (r : TapRet) (rest : List TapRet) (oldest : (s.tap tap.toNat).rets = r :: rest) :
    exec (.tapData tap) s =
      let v := (s.setTap tap.toNat { s.tap tap.toNat with rets := rest }).advanceTo r.due
      if r.ack.any fun a => v.lines.any fun l => l.addr == a && l.tap != tap.toNat then .next v
      else .next (v.putUnit (v.anchor tap.toNat) (.inp 5) r.due r.u) := by
  rw [exec_tapData, execTapData]
  dsimp only
  rw [if_neg (Nat.not_le.mpr inRange), oldest]
  dsimp only
  cases r.ack <;> rfl

/-! ### Scrubbing and remapping (10 R337, R340) -/

/-- Patrol scrubbing takes the channel's next window 0, unless a remapping is to take it. -/
theorem exec_patrolScrub_free (found : List EccFound) (bursts : found.length = 16) (enabled : s.fld F.MT_CTRL_SCRUB_EN ≠ 0)
    (free : ∀ x, s.remapNext tap.toNat = some x → x.2 ≠ s.maintAt tap.toNat s.rev) :
    exec (.patrolScrub tap found) s = .next (((s.advanceTo (s.maintAt tap.toNat s.rev)).useMaint tap.toNat).scrubbed tap.toNat found) := by
  rw [exec_patrolScrub, execPatrolScrub]
  dsimp only
  rw [if_neg (by omega), if_neg enabled]
  refine if_neg ?_
  cases next : s.remapNext tap.toNat with
  | none => exact Bool.false_ne_true
  | some x => exact fun taken => free x next (beq_iff_eq.mp taken)

/-- The channel's oldest remapping that is due takes its window 0. -/
theorem exec_rowRemap_due (found : List EccFound) (r : Remap) (d : Count) (bursts : found.length = 32)
    (due : s.remapNext tap.toNat = some (r, d)) :
    exec (.rowRemap tap found) s = .next (((s.advanceTo d).useMaint tap.toNat).remapped tap.toNat r found) := by
  rw [exec_rowRemap, execRowRemap]
  rw [if_neg (by omega), due]

/-! ### The stage cache (10 R345, R347 to R350; 11 R369) -/

section
variable (line : BitVec 68) (e : LpErrs) (l : StageLine) (held : s.lineAt tap.toNat line = some l)
include held

section
variable (filling : l.st = .filling) (free : s.tapTaken tap.toNat (s.roomAt tap.toNat l 64) = false)
include filling free

/-- A line of this module whose LPDDR6 channel is in service is filled from it, or dropped if its fill is refuted. -/
theorem exec_stageFill_local (own : lineModule line = s.ownModule) (ready : s.lpReady (lineLocal line) = true) :
    exec (.stageFill tap line e) s =
      if s.refuted l then .next (s.dropLine tap.toNat line) else .next ((s.advanceTo (s.roomAt tap.toNat l 64)).fillLocal tap.toNat l e) := by
  rw [exec_stageFill, execStageFill]
  dsimp only
  rw [if_neg (Nat.not_le.mpr inRange), held]
  dsimp only
  rw [if_neg (by simp [filling, free]), if_pos own, if_neg (by simp [ready])]

/-- A line of another module is filled from the answer of its home. -/
theorem exec_stageFill_remote (n : Nat) (f : FillReq) (p : Packet) (foreign : lineModule line ≠ s.ownModule)
    (peer : s.peerOf l.job (lineModule line) = some n) (answer : s.fillData n l = some (f, p)) :
    exec (.stageFill tap line e) s = .next ((s.advanceTo (s.roomAt tap.toNat l 64)).fillRemote tap.toNat l n f p) := by
  rw [exec_stageFill, execStageFill]
  dsimp only
  rw [if_neg (Nat.not_le.mpr inRange), held]
  dsimp only
  rw [if_neg (by simp [filling, free]), if_neg foreign, peer]
  dsimp only
  rw [answer]

end

/-- A DIRTY line that may return to its home does so in the cycles that its tap leaves free. -/
theorem exec_stageWriteback_returns (dirty : l.st = .dirty) (free : s.tapTaken tap.toNat (s.roomAt tap.toNat l l.wrote.length) = false)
    (may : s.mayReturn l = true) :
    exec (.stageWriteback tap ⟨line, e⟩) s = .next ((s.advanceTo (s.roomAt tap.toNat l l.wrote.length)).returnLine tap.toNat l e) := by
  rw [exec_stageWriteback, execStageWriteback]
  dsimp only
  rw [if_neg (Nat.not_le.mpr inRange), held]
  exact if_neg (by simp [dirty, free, may])

end

/-- The home stager carries out the oldest request to make the other copies of a line invalid. -/
theorem exec_stageInvalidate_asked (line : BitVec 68) (q : InvReq)
    (asked : s.invs.find? (fun r => r.tap == tap.toNat && r.addr == line) = some q) :
    exec (.stageInvalidate tap line) s = .next (({ s with invs := s.invs.erase q } : State).invalidate tap.toNat line) := by
  rw [exec_stageInvalidate, execStageInvalidate]
  rw [if_neg (Nat.not_le.mpr inRange), asked]

end

/-! ### Prefetching (10 R353) -/

/-- A prefetcher that is enabled fetches the next line ahead of a stream of a job on the module. -/
theorem exec_prefetchFetch_ahead (s : State) (region : BitVec 5) (st : BitVec 4) (x : Stream) (j : Job) (i : Nat) (inRange : region.toNat < 20)
    (found : s.stream region.toNat st.toNat = some x) (job : s.job x.job = some j) (ahead : x.ahead_ = some i)
    (enabled : s.fld F.MT_CTRL_PF_EN ≠ 0) :
    exec (.prefetchFetch region st) s = .next (s.prefetch region.toNat st.toNat x j i) := by
  rw [exec_prefetchFetch, execPrefetchFetch]
  rw [if_neg (Nat.not_le.mpr inRange), found]
  dsimp only
  rw [job]
  dsimp only
  rw [ahead]
  exact if_neg enabled

/-- Settles O38: a request by whether its tap accepts it and which tier it is for, a return by the copies of its line, each event of the tiers
by what it finds. -/
theorem tapsAndTiers : Obligations.TapsAndTiers := by
  unfold Obligations.TapsAndTiers
  have unset : ∀ {b : Bool}, b = false → ¬ b = true := Bool.eq_false_iff.mp
  refine ⟨fun s u tap f g m ok r rest a inRange => ?_,
    fun s w tap found r line e l ch n p f q dr j region st x i inRange => ?_⟩
  · intro t q w v
    refine ⟨fun answer => ⟨fun reached => ?_, fun reached => ?_⟩, fun oldest => ?_⟩
    · have arm := exec_tapRd_reached s tap inRange f g m u ok reached answer
      exact ⟨fun no => arm.trans (if_neg (unset no)), fun yes staged => arm.trans ((if_pos yes).trans (if_pos staged)),
        fun yes bonded => arm.trans ((if_pos yes).trans (if_neg (unset bonded)))⟩
    · have arm := exec_tapWr_reached s tap inRange m u ok reached answer
      exact ⟨fun no => arm.trans (if_neg (unset no)), fun yes staged => arm.trans ((if_pos yes).trans (if_pos staged)),
        fun yes bonded => arm.trans ((if_pos yes).trans (if_neg (unset bonded)))⟩
    · have arm := exec_tapData_due s tap inRange r rest oldest
      exact ⟨fun read => by rw [arm, read]; rfl, fun write alone => by rw [arm, write]; exact if_neg (unset alone),
        fun write copied => by rw [arm, write]; exact if_pos copied⟩
  · intro t b d dl dw v
    refine ⟨exec_refreshWindow w s, exec_patrolScrub_free s tap inRange found, exec_rowRemap_due s tap inRange found r dr,
      fun held filling free own ready => ?_, fun held filling free => exec_stageFill_remote s tap inRange line e l held filling free n f p,
      exec_stageInvalidate_asked s tap inRange line q, exec_stageWriteback_returns s tap inRange line e l,
      fun retrains => (exec_lpRetrainDone ch s).trans (if_neg retrains), exec_prefetchFetch_ahead s region st x j i⟩
    have arm := exec_stageFill_local s tap inRange line e l held filling free own ready
    exact ⟨fun refuted => arm.trans (if_pos refuted), fun stands => arm.trans (if_neg (unset stands))⟩

end Sys2Proof.Machine

/-! SUPPORT. Translation and the memory of other modules (11 R360, R361, R370, R373, R379 to R382; 12 R419, R421): what a walk, the resolution of a
fault and the packets of a PEER context come to where they act. -/

namespace Sys2Proof.Machine

/-! ### Walks and the resolution of faults (11 R360, R361, R380, R381) -/

/-- The walk of a running channel ends for the first page that it misses. -/
theorem exec_translationWalk_miss (s : State) (c : CoreId) (ch : Reg) (j : Job) (v : BitVec 36) (wr : Bool) (a : Int) (hc : s.hasCore c = true)
    (job : s.jobOf c = some j) (running : (s.core c).chState ch = chRunning) (unended : ((s.core c).ch ch).ends = none)
    (miss : s.chMiss c ch j = some (v, wr, a)) :
    exec (.translationWalk c ch) s = .next (s.walked c ch j v wr a) := by
  rw [exec_translationWalk, execTranslationWalk, withCore_ok s c _ hc, job]
  dsimp only
  rw [if_neg (by simp [running, unended]), miss]

/-- A channel parked with `XLATE` goes on once its fault, if it still has one, is resolved. -/
theorem exec_faultResolve_dma (s : State) (c : CoreId) (ch : Reg) (frame : BitVec 48) (j : Job) (hc : s.hasCore c = true)
    (job : s.jobOf c = some j) (parked : (s.core c).chState ch = chParked) (xlate : (s.core c).fld (F.DMA_CH_STAT_CODE ch.toNat) = 8) :
    exec (.faultResolve (.dma c ch) frame) s = .next ((s.chFault c ch j).elim (s.resumeCh c ch)
      fun x => s.resolve j x.1 x.2 frame fun s => s.resumeCh c ch) := by
  rw [exec_faultResolve, execFaultResolve, withCore_ok s c _ hc, job]
  dsimp only
  rw [if_neg (by simp [parked, xlate])]
  cases s.chFault c ch j <;> rfl

/-- A suspended stream goes on once the fault of its next page, if it still has one, is resolved. -/
theorem exec_faultResolve_stream (s : State) (r : BitVec 5) (i : BitVec 4) (frame : BitVec 48) (x : Stream) (j : Job) (inRange : r.toNat < 20)
    (found : s.stream r.toNat i.toNat = some x) (job : s.job x.job = some j) (suspended : x.susp = true) :
    exec (.faultResolve (.stream r i) frame) s = .next ((pteFault (j.pte x.nextPage) false).elim (s.wakeStream r.toNat i.toNat x)
      fun f => s.resolve j x.nextPage f frame fun s => s.wakeStream r.toNat i.toNat x) := by
  rw [exec_faultResolve, execFaultResolve]
  rw [if_neg (Nat.not_le.mpr inRange), found]
  dsimp only
  rw [job]
  dsimp only
  rw [if_neg (by simp [suspended])]
  cases pteFault (j.pte x.nextPage) false <;> rfl

/-- The fault for which a remote request waits is resolved; the request itself is served later. -/
theorem exec_faultResolve_fabric (s : State) (n : BitVec 14) (frame : BitVec 48) (j : Job) (v : BitVec 36) (f : Nat)
    (job : s.job (s.ctxJob n.toNat) = some j) (peer : s.ctxType n.toNat = ctxPeer) (fault : s.fabFault n.toNat j = some (v, f)) :
    exec (.faultResolve (.fabric n) frame) s = .next (s.resolve j v f frame id) := by
  rw [exec_faultResolve, execFaultResolve]
  rw [job]
  dsimp only
  rw [if_neg (not_not_intro peer), fault]

/-! ### The packets of a PEER context (11 R370, R373, R379; 12 R419, R421) -/

section
variable (s : State) (n : BitVec 14) (j : Job) (peer : s.ctxType n.toNat = ctxPeer) (job : s.job (s.ctxJob n.toNat) = some j)
include peer job

/-- A PEER context whose job is on the module. -/
theorem withPeer_ok (f : Nat → Job → Out) : withPeer s n f = f n.toNat j := by
  rw [withPeer, if_pos peer, job]

/-- A home takes in what a source has written, up to its oldest WRITE_END. -/
theorem exec_writeEnd_received (p : Packet) (received : (s.ctx n.toNat).rx.find? (fun p => p.op == 6) = some p) :
    exec (.writeEnd n) s = .next (s.takeWrites n.toNat j p) := by
  rw [exec_writeEnd, execWriteEnd, withPeer_ok s n j peer job, received]

/-- A source learns from the oldest WRITE_ACK that a home has applied its writes. -/
theorem exec_writeAck_received (p : Packet) (received : (s.ctx n.toNat).rx.find? (fun p => p.op == 7) = some p) :
    exec (.writeAck n) s = .next (s.homeAcks n.toNat j p) := by
  rw [exec_writeAck, execWriteAck, withPeer_ok s n j peer job, received]

end

/-- Settles O39: the walk where it misses, a fault by the point where it waits and whether it still stands, a packet by what its context has
received. -/
theorem translationAndRemoteMemory : Obligations.TranslationAndRemoteMemory := by
  unfold Obligations.TranslationAndRemoteMemory
  refine ⟨fun s c ch j v wr a frame f r i x n id => ?_, fun s n j p e peer job => ?_⟩
  · refine ⟨exec_translationWalk_miss s c ch j v wr a, fun hc job parked xlate => ?_, fun inRange found job suspended => ?_,
      exec_faultResolve_fabric s n frame j v f, exec_pageMigrate id v frame s⟩
    · have arm := exec_faultResolve_dma s c ch frame j hc job parked xlate
      exact ⟨fun gone => by rw [arm, gone]; rfl, fun stands => by rw [arm, stands]; rfl⟩
    · have arm := exec_faultResolve_stream s r i frame x j inRange found job suspended
      exact ⟨fun gone => by rw [arm, gone]; rfl, fun stands => by rw [arm, stands]; rfl⟩
  · have serves := withPeer_ok s n j peer job fun n j => .next (s.serveFill n j e)
    exact ⟨(exec_remoteRead n e s).trans serves, (exec_fill n e s).trans serves, exec_writeEnd_received s n j peer job p,
      exec_writeAck_received s n j peer job p⟩

end Sys2Proof.Machine

/-! SUPPORT. Pre-emption of a bed (11 R384 to R387; 12 R422): what the freeze, the save and the restore of a core, and the resumption come to where
they act. -/

namespace Sys2Proof.Machine

/-- A bed freezes at the revolution named for it. -/
theorem exec_preemptFreeze_named (s : State) (id : JobId) (j : Job) (n : BitVec 48) (job : s.job id = some j) (named : j.freezeAt = some n) :
    exec (.preemptFreeze id) s = .next (s.freezeBed id j n) := by
  rw [exec_preemptFreeze, execPreemptFreeze, withJob_ok s id j _ job, named]

/-- A bed goes on at the revolution named for it, once every core that was given away is restored. -/
theorem exec_preemptResume_named (s : State) (id : JobId) (j : Job) (n : BitVec 48) (job : s.job id = some j) (named : j.thawAt = some n)
    (restored : (s.saved.any fun x => x.job == id) = false) :
    exec (.preemptResume id) s = .next (s.thawBed id j n) := by
  rw [exec_preemptResume, execPreemptResume, withJob_ok s id j _ job, named]
  exact if_neg (Bool.eq_false_iff.mp restored)

/-- A core of a frozen bed is saved with its sends settled, once it has no claim request unanswered. -/
theorem exec_coreSave_frozen (s : State) (c : CoreId) (j : Job) (hc : s.hasCore c = true) (job : s.jobOf c = some j) (frozen : j.frozen = true)
    (answered : s.claimOpen c = false) (unsaved : s.isSaved j.id c = false) :
    exec (.coreSave c) s =
      let u := s.settleSends j c
      .next { u with saved := u.saved ++ [{ job := j.id, core := c, image := u.core c }] } := by
  rw [exec_coreSave, execCoreSave, withCore_ok s c _ hc, job]
  exact if_neg (by simp [frozen, answered, unsaved])

/-- The save that a core takes next is restored to it. -/
theorem exec_coreRestore_saved (s : State) (c : CoreId) (x : SavedCore) (hc : s.hasCore c = true) (next : s.toRestore c = some x) :
    exec (.coreRestore c) s = .next { s.setCore c ((s.core c).restored x.image) with saved := s.saved.erase x } := by
  rw [exec_coreRestore, execCoreRestore, withCore_ok s c _ hc, next]

/-- Settles O40: each event of a pre-emption in the condition in which it acts; the two messages are the same descent of the tree with what they
name. -/
theorem preemptionOfABed : Obligations.PreemptionOfABed := by
  unfold Obligations.PreemptionOfABed
  exact fun s id j n c x => ⟨exec_preemptFreeze_named s id j n, exec_preemptResume_named s id j n, exec_coreSave_frozen s c j,
    exec_coreRestore_saved s c x, exec_agreePreempt id s, exec_agreeResume id s⟩

end Sys2Proof.Machine

/-! SUPPORT. What every operation of the model leaves of the queue and of the local memory. Nearly all leave both as they are, which is one
equation each (`State.base_…`); the few that write the local memory, or a reset of the module, keep its canonical form. -/

namespace Sys2Proof.Machine

/-! ### The queue and the local memory -/

/-- The queue of commands, and the local memory with its poison: what the two invariants of a step speak of. -/
structure Base where
  queue : List Instr
  dram  : SMap Byte
  psn   : SMap Bool

/-- The queue and the local memory of a state. -/
def State.base (s : State) : Base := ⟨s.pending, s.dram, s.dramPsn⟩

/-- An update of the other fields. `(rfl)`, here and below, and not `rfl`: an equation that `simp` takes to hold by definition it does not use
to prove what a fold asks of its steps. -/
@[simp] theorem State.base_update (s : State) (now dev cores net mesh taps lines invs fills rmapTap streams strHist strSeq elog stgX fabX jobs saved
    ports routes ctxw ctxs reds feeds feedBuf accFree redQ rings reads hostOut hostLost hostWait latches answers rests regions lockE slewE masterTo
    driftRev fuses hs power ibis kpPrev windowed evs free) :
    (State.mk s.pending now dev cores net mesh s.dram s.dramPsn taps lines invs fills rmapTap streams strHist strSeq elog stgX fabX jobs saved ports
      routes ctxw ctxs reds feeds feedBuf accFree redQ rings reads hostOut hostLost hostWait latches answers rests regions lockE slewE masterTo
      driftRev fuses hs power ibis kpPrev windowed evs free).base = s.base := (rfl)

@[simp] theorem State.base_ite {c : Prop} [Decidable c] (a b : State) : (if c then a else b).base = if c then a.base else b.base := apply_ite ..

@[simp] theorem State.base_foldl {β : Type} {f : State → β → State} (h : ∀ a b, (f a b).base = a.base) (a : State) (l : List β) :
    (l.foldl f a).base = a.base := foldl_keeps State.base f h a l

@[simp] theorem State.base_getD_map {α : Type} (f : α → State) (o : Option α) (s : State) (h : ∀ a, (f a).base = s.base) :
    ((o.map f).getD s).base = s.base := by
  cases o with
  | none => rfl
  | some a => exact h a

/-! ### What the execution of an instruction comes to -/

/-- The execution came to a state, if to any, that still has the queue and the local memory `b`. -/
def Res.keeps (r : Res) (b : Base) : Prop := match r with
  | .seq u | .jump u _ | .stay u | .fault u _ _ _ | .wait u _ _ => u.base = b
  | .stall => True

@[simp] theorem Res.keeps_seq (u : State) (b : Base) : (Res.seq u).keeps b ↔ u.base = b := Iff.rfl
@[simp] theorem Res.keeps_jump (u : State) (a : BitVec 15) (b : Base) : (Res.jump u a).keeps b ↔ u.base = b := Iff.rfl
@[simp] theorem Res.keeps_stay (u : State) (b : Base) : (Res.stay u).keeps b ↔ u.base = b := Iff.rfl
@[simp] theorem Res.keeps_fault (u : State) (x y : Byte) (z : Word) (b : Base) : (Res.fault u x y z).keeps b ↔ u.base = b := Iff.rfl
@[simp] theorem Res.keeps_wait (u : State) (x y : Nat) (b : Base) : (Res.wait u x y).keeps b ↔ u.base = b := Iff.rfl
@[simp] theorem Res.keeps_stall (b : Base) : Res.stall.keeps b := trivial

@[simp] theorem Res.keeps_ite {c : Prop} [Decidable c] (q r : Res) (b : Base) :
    (if c then q else r).keeps b ↔ (c → q.keeps b) ∧ (¬ c → r.keeps b) := by
  split <;> simp [*]

/-! ### Operations of Machine/Ops.lean -/

@[simp] theorem State.base_setDev (s : State) (off w) : (s.setDev off w).base = s.base := (rfl)
@[simp] theorem State.base_evNote (s : State) (off m) : (s.evNote off m).base = s.base := (rfl)
@[simp] theorem State.base_setFld (s : State) (f v) : (s.setFld f v).base = s.base := (rfl)
@[simp] theorem State.base_setCore (s : State) (c k) : (s.setCore c k).base = s.base := (rfl)
@[simp] theorem State.base_onCore (s : State) (c f) : (s.onCore c f).base = s.base := (rfl)
@[simp] theorem State.base_onTh (s : State) (c t f) : (s.onTh c t f).base = s.base := (rfl)
@[simp] theorem State.base_onJob (s : State) (id f) : (s.onJob id f).base = s.base := (rfl)
@[simp] theorem State.base_toHeadstock (s : State) (r) : (s.toHeadstock r).base = s.base := (rfl)
@[simp] theorem State.base_failCore (s : State) (c) : (s.failCore c).base = s.base := by unfold State.failCore; split <;> rfl
@[simp] theorem State.base_noteParity (s : State) (c w) : (s.noteParity c w).base = s.base := by unfold State.noteParity; split <;> simp
@[simp] theorem State.base_logHs (s : State) (kind job detail) : (s.logHs kind job detail).base = s.base := by unfold State.logHs; split <;> rfl
@[simp] theorem State.base_trace (s : State) (c kind t aux data) : (s.trace c kind t aux data).base = s.base := (rfl)
@[simp] theorem State.base_send (s : State) (src dst b) : (s.send src dst b).base = s.base := (rfl)
@[simp] theorem State.base_dropMsg (s : State) (m) : (s.dropMsg m).base = s.base := (rfl)

/-! ### Operations of Machine/Clock.lean -/

@[simp] theorem State.base_advanceTo (s : State) (d) : (s.advanceTo d).base = s.base := by unfold State.advanceTo; split <;> rfl
@[simp] theorem State.base_idleCycle (s : State) : (s.idleCycle).base = s.base := by simp [State.idleCycle]

/-! ### Operations of Machine/Trap.lean -/

@[simp] theorem State.base_faultReport (s : State) (c t) : (s.faultReport c t).base = s.base := by simp [State.faultReport]
@[simp] theorem State.base_takeTrap (s : State) (c t at_ code detail faddr) : (s.takeTrap c t at_ code detail faddr).base = s.base := by
  simp [State.takeTrap]

@[simp] theorem State.base_hold (s : State) (c t code detail faddr epc) : (s.hold c t code detail faddr epc).base = s.base := (rfl)
@[simp] theorem State.base_laterTrap (s : State) (c t code detail faddr epc) : (s.laterTrap c t code detail faddr epc).base = s.base := by
  unfold State.laterTrap; dsimp only; split <;> simp

@[simp] theorem State.base_lineTrap (s : State) (c t w) : (s.lineTrap c t w).base = s.base := by simp [State.lineTrap]
@[simp] theorem State.base_spErr (s : State) (c src t ch w) : (s.spErr c src t ch w).base = s.base := by simp [State.spErr]

/-! ### Operations of Machine/Issue.lean -/

@[simp] theorem State.base_enterHeld (s : State) (c t) : (s.enterHeld c t).base = s.base := by unfold State.enterHeld; split <;> simp
@[simp] theorem State.base_issued (s : State) (c t pc tile) : (s.issued c t pc tile).base = s.base := (rfl)
@[simp] theorem State.base_putG (s : State) (c t d v n) : (s.putG c t d v n).base = s.base := (rfl)
@[simp] theorem State.base_putV (s : State) (c t d v n) : (s.putV c t d v n).base = s.base := (rfl)

/-! ### Operations of Machine/MeshOps.lean -/

@[simp] theorem State.base_putUnit (s : State) (c p d u) : (s.putUnit c p d u).base = s.base := (rfl)
@[simp] theorem State.base_sendOut (s : State) (c out d u) : (s.sendOut c out d u).base = s.base := by unfold State.sendOut; repeat' split <;> simp
@[simp] theorem State.base_eccFlag (s : State) (c l) : (s.eccFlag c l).base = s.base := by simp [State.eccFlag]
@[simp] theorem State.base_remoteWrite (s : State) (c w ws poison) : (s.remoteWrite c w ws poison).base = s.base := by
  unfold State.remoteWrite; dsimp only; split <;> simp

/-! ### Operations of Machine/FabricOps.lean -/

@[simp] theorem State.base_setPort (s : State) (p x) : (s.setPort p x).base = s.base := (rfl)
@[simp] theorem State.base_setPortState (s : State) (p v) : (s.setPortState p v).base = s.base := by unfold State.setPortState; split <;> rfl
@[simp] theorem State.base_fxErr (s : State) (kind port ctx) : (s.fxErr kind port ctx).base = s.base := by unfold State.fxErr; split <;> rfl
@[simp] theorem State.base_pumpPort (s : State) (p) : (s.pumpPort p).base = s.base := by unfold State.pumpPort; split <;> rfl
@[simp] theorem State.base_sendPacket (s : State) (src vl p) : (s.sendPacket src vl p).1.base = s.base := by
  unfold State.sendPacket; split <;> simp

@[simp] theorem State.base_setCw (s : State) (n m v) : (s.setCw n m v).base = s.base := (rfl)
@[simp] theorem State.base_setCtx (s : State) (n x) : (s.setCtx n x).base = s.base := (rfl)
@[simp] theorem State.base_originate (s : State) (n op aux addr data) : (s.originate n op aux addr data).base = s.base := by
  unfold State.originate; dsimp only; repeat' split
  all_goals simp

/-! ### Operations of Machine/FeedOps.lean -/

@[simp] theorem State.base_setRed (s : State) (rid r) : (s.setRed rid r).base = s.base := (rfl)
@[simp] theorem State.base_setFeed (s : State) (k l) : (s.setFeed k l).base = s.base := (rfl)

/-! ### Operations of Machine/DmaOps.lean -/

@[simp] theorem State.base_setConvFree (s : State) (side n) : (s.setConvFree side n).base = s.base := (rfl)
@[simp] theorem State.base_dmaSend (s : State) (c dst d b) : (s.dmaSend c dst d b).base = s.base := (rfl)
@[simp] theorem State.base_askCredit (s : State) (c ch d) : (s.askCredit c ch d).base = s.base := by unfold State.askCredit; simp; split <;> simp
@[simp] theorem State.base_giveBack (s : State) (c ch g src region d) : (s.giveBack c ch g src region d).base = s.base := by
  unfold State.giveBack; repeat' split <;> simp

@[simp] theorem State.base_flagTo (s : State) (c n v) : (s.flagTo c n v).base = s.base := by unfold State.flagTo; split <;> rfl
@[simp] theorem State.base_ownWrite (s : State) (c t w ws) : (s.ownWrite c t w ws).base = s.base := by
  unfold State.ownWrite; dsimp only; split <;> simp

@[simp] theorem State.base_endChan (s : State) (c ch code) : (s.endChan c ch code).base = s.base := by simp [State.endChan]
@[simp] theorem State.base_disableCh (s : State) (c ch) : (s.disableCh c ch).base = s.base := by simp [State.disableCh]
@[simp] theorem State.base_finishBurst (s : State) (c ch n e) : (s.finishBurst c ch n e).base = s.base := by simp [State.finishBurst]
@[simp] theorem State.base_burstFaults (s : State) (c ch src dst is) : (s.burstFaults c ch src dst is).base = s.base :=
  foldl_keeps State.base _ (fun a b => by dsimp only; split <;> simp) _ _

@[simp] theorem State.base_overrun (s : State) (c ch w) : (s.overrun c ch w).base = s.base := by simp [State.overrun]
@[simp] theorem State.base_commitBurst (s : State) (c ch p ws poison) : (s.commitBurst c ch p ws poison).base = s.base := by
  unfold State.commitBurst
  dsimp only
  repeat' split
  all_goals simp

@[simp] theorem State.base_compare_ (s : State) (c ch p a b) : (s.compare_ c ch p a b).base = s.base := (rfl)

/-! ### Operations of Machine/HostOps.lean -/

@[simp] theorem State.base_answer (s : State) (p access data) : (s.answer p access data).base = s.base := (rfl)
@[simp] theorem State.base_accErr (s : State) (kind off) : (s.accErr kind off).base = s.base := by unfold State.accErr; split <;> rfl
@[simp] theorem State.base_ack (s : State) (p off) (o : Option State) (h : ∀ u, o = some u → u.base = s.base) : (s.ack p off o).base = s.base := by
  cases o with
  | none => unfold State.ack; simp
  | some u => simpa [State.ack] using h u rfl

@[simp] theorem State.base_setLatch (s : State) (p l) : (s.setLatch p l).base = s.base := (rfl)
@[simp] theorem State.base_emptyWl (s : State) (p) : (s.emptyWl p).base = s.base := (rfl)
@[simp] theorem State.base_hostSend (s : State) (o) : (s.hostSend o).base = s.base := by simp [State.hostSend]
@[simp] theorem State.base_hostWrite (s : State) (addr bs) : (s.hostWrite addr bs).base = s.base := by simp [State.hostWrite]
@[simp] theorem State.base_setRing (s : State) (n r) : (s.setRing n r).base = s.base := (rfl)
@[simp] theorem State.base_onCmd (s : State) (ring cid f) : (s.onCmd ring cid f).base = s.base := (rfl)
@[simp] theorem State.base_retireCmd (s : State) (ring cid status words) : (s.retireCmd ring cid status words).base = s.base := by
  unfold State.retireCmd; dsimp only; split <;> simp

@[simp] theorem State.base_drainNops (s : State) (ring n) : (s.drainNops ring n).base = s.base := by
  induction n generalizing s with
  | zero => rfl
  | succ n ih => rw [State.drainNops]; split <;> simp [ih]

@[simp] theorem State.base_nops (s : State) (ring) : (s.nops ring).base = s.base := by simp [State.nops]
@[simp] theorem State.base_startCmd (s : State) (ring cid) : (s.startCmd ring cid).base = s.base := by simp [State.startCmd]
@[simp] theorem State.base_complete (s : State) (ring cid status words) : (s.complete ring cid status words).base = s.base := by simp [State.complete]
@[simp] theorem State.base_event (s : State) (code words) : (s.event code words).base = s.base := by simp [State.event]
@[simp] theorem State.base_portEvent (s : State) (p) : (s.portEvent p).base = s.base := by simp [State.portEvent]
@[simp] theorem State.base_spnEvent (s : State) : (s.spnEvent).base = s.base := by simp [State.spnEvent]
@[simp] theorem State.base_spnSet (s : State) (b) : (s.spnSet b).base = s.base := by simp [State.spnSet]

/-! ### Operations of Machine/FlagOps.lean -/

@[simp] theorem State.base_flagReg (s : State) (p c mask v) : (s.flagReg p c mask v).base = s.base := (rfl)
@[simp] theorem State.base_completeBar (s : State) (c b left abandoned origin) : (s.completeBar c b left abandoned origin).base = s.base :=
  foldl_keeps State.base _ (fun a b => by simp) _ _

@[simp] theorem State.base_barCmd (s : State) (c cmd b) : (s.barCmd c cmd b).base = s.base := by simp [State.barCmd]

/-! ### Operations of Machine/ChanOps.lean -/

@[simp] theorem State.base_dropOpen (s : State) (c t) : (s.dropOpen c t).base = s.base := by
  unfold State.dropOpen
  repeat' split
  all_goals rfl

@[simp] theorem State.base_finishReset (s : State) (c) : (s.finishReset c).base = s.base := by simp [State.finishReset]
@[simp] theorem State.base_claimReq (s : State) (c n) : (s.claimReq c n).base = s.base := (rfl)

/-! ### Operations of Machine/Dma.lean -/

@[simp] theorem State.base_startChan (s : State) (c t ch ga ws) : (s.startChan c t ch ga ws).base = s.base := by simp [State.startChan]
@[simp] theorem State.base_leave (s : State) (c ch u) : (s.leave c ch u).base = s.base := (rfl)
@[simp] theorem State.base_sendUnit (s : State) (c ch flow) : (s.sendUnit c ch flow).base = s.base := by simp [State.sendUnit]
@[simp] theorem State.base_sendReq (s : State) (c ch q todo) : (s.sendReq c ch q todo).base = s.base := by simp [State.sendReq]
@[simp] theorem State.base_localStep (s : State) (c ch) : (s.localStep c ch).base = s.base := by unfold State.localStep; dsimp only; split <;> simp
@[simp] theorem State.base_resumeCh (s : State) (c ch) : (s.resumeCh c ch).base = s.base := by simp [State.resumeCh]
@[simp] theorem State.base_fabRequest (s : State) (e c ch gen ctx flow word left burst) : (s.fabRequest e c ch gen ctx flow word left burst).base = s.base := by
  unfold State.fabRequest; simp; split <;> simp

@[simp] theorem State.base_grantBack (s : State) (c ch src gen g region) : (s.grantBack c ch src gen g region).base = s.base := by
  simp [State.grantBack]

@[simp] theorem State.base_memPoison (s : State) (c ch) : (s.memPoison c ch).base = s.base := by simp [State.memPoison]
@[simp] theorem State.base_tapBack (s : State) (c ch e u) : (s.tapBack c ch e u).base = s.base := by simp [State.tapBack]
@[simp] theorem State.base_outTaken (s : State) (c m) : (s.outTaken c m).base = s.base := by simp [State.outTaken]
@[simp] theorem State.base_tapEnter (s : State) (c u a) : (s.tapEnter c u a).base = s.base := by unfold State.tapEnter; repeat' split <;> simp
@[simp] theorem State.base_tapAgain (s : State) (c ch e t) : (s.tapAgain c ch e t).base = s.base := by simp [State.tapAgain]

/-! ### Operations of Machine/Channel.lean -/

@[simp] theorem State.base_bindReply (s : State) (c t src conn ring route ok count due) : (s.bindReply c t src conn ring route ok count due).base = s.base :=
  (rfl)

@[simp] theorem State.base_claimVoid (s : State) (c conn flow src n seq res) : (s.claimVoid c conn flow src n seq res).base = s.base := by
  unfold State.claimVoid; split <;> simp

@[simp] theorem State.base_sendOwed (s : State) (c o d) : (s.sendOwed c o d).base = s.base := by simp [State.sendOwed]
@[simp] theorem State.base_sendMsgUnit (s : State) (c conn u d) : (s.sendMsgUnit c conn u d).base = s.base := by
  unfold State.sendMsgUnit; repeat' split <;> simp

@[simp] theorem State.base_abandon (s : State) (c conn) : (s.abandon c conn).base = s.base := by unfold State.abandon; split <;> rfl
@[simp] theorem State.base_release (s : State) (c n) : (s.release c n).base = s.base := by simp [State.release]
@[simp] theorem State.base_restoreConn (s : State) (c conn v) : (s.restoreConn c conn v).base = s.base := by simp [State.restoreConn]

/-! ### Operations of Machine/Mesh.lean -/

@[simp] theorem State.base_atOutput (s : State) (c m o f) : (s.atOutput c m o f).base = s.base := by simp [State.atOutput]
@[simp] theorem State.base_armSwitch (s : State) (c rev) : (s.armSwitch c rev).base = s.base := (rfl)
@[simp] theorem State.base_exchangeAll (s : State) (n) : (s.exchangeAll n).base = s.base := by simp [State.exchangeAll]

/-! ### Operations of Machine/TierOps.lean -/

@[simp] theorem State.base_setTap (s : State) (t x) : (s.setTap t x).base = s.base := (rfl)
@[simp] theorem State.base_setRegion (s : State) (n x) : (s.setRegion n x).base = s.base := (rfl)
@[simp] theorem State.base_elogAdd (s : State) (src kind unit loc job) : (s.elogAdd src kind unit loc job).base = s.base := by
  unfold State.elogAdd; split <;> rfl

@[simp] theorem State.base_wantRemap (s : State) (t row cmd) : (s.wantRemap t row cmd).base = s.base := by simp [State.wantRemap]
@[simp] theorem State.base_countCe (s : State) (t row) : (s.countCe t row).base = s.base := by simp [State.countCe]
@[simp] theorem State.base_noteUe (s : State) (t b job scrub) : (s.noteUe t b job scrub).base = s.base := by simp [State.noteUe]
@[simp] theorem State.base_lpCount (s : State) (f n) : (s.lpCount f n).base = s.base := (rfl)
@[simp] theorem State.base_ueAt (s : State) (a job) : (s.ueAt a job).base = s.base := by simp [State.ueAt]
@[simp] theorem State.base_ceAt (s : State) (a) : (s.ceAt a).base = s.base := by simp [State.ceAt]
@[simp] theorem State.base_lineErrs (s : State) (a is job e) : (s.lineErrs a is job e).base = s.base := by simp [State.lineErrs]
@[simp] theorem State.base_shadowFull (s : State) (id) : (s.shadowFull id).base = s.base := (rfl)
@[simp] theorem State.base_preserve (s : State) (a) : (s.preserve a).base = s.base := by unfold State.preserve; dsimp only; split <;> simp
@[simp] theorem State.base_preservePage (s : State) (a) : (s.preservePage a).base = s.base := by unfold State.preservePage; dsimp only; split <;> simp
@[simp] theorem State.base_onLine (s : State) (t g f) : (s.onLine t g f).base = s.base := (rfl)
@[simp] theorem State.base_purgeFills (s : State) (n vline) : (s.purgeFills n vline).base = s.base := by
  unfold State.purgeFills; dsimp only; split <;> rfl

@[simp] theorem State.base_killFills (s : State) (l) : (s.killFills l).base = s.base := by unfold State.killFills; simp; split <;> simp
@[simp] theorem State.base_dropLines (s : State) (p) : (s.dropLines p).base = s.base := foldl_keeps State.base _ (fun a b => by simp) _ _
@[simp] theorem State.base_dropLine (s : State) (t g) : (s.dropLine t g).base = s.base := by simp [State.dropLine]

theorem State.base_freeLine {s u : State} {t} (h : s.freeLine t = some u) : u.base = s.base := by
  unfold State.freeLine at h
  dsimp only at h
  repeat' split at h
  all_goals cases h <;> simp

@[simp] theorem State.base_addLine (s : State) (l) : (s.addLine l).base = s.base := (rfl)

theorem State.base_fetchLine {s u : State} {t g job va} (h : s.fetchLine t g job va = some u) : u.base = s.base := by
  unfold State.fetchLine at h
  split at h
  · cases h; rfl
  · obtain ⟨n, -, rfl⟩ := Option.map_eq_some_iff.mp h
    simp

theorem State.base_fetched {u s : State} (t g job va) (f : State → State) (h : ∀ u, (f u).base = u.base) (e : u.base = s.base) :
    (((u.fetchLine t g job va).map f).getD s).base = s.base := by
  cases fetched : u.fetchLine t g job va with
  | none => rfl
  | some v => exact (h v).trans ((State.base_fetchLine fetched).trans e)

@[simp] theorem State.base_stageMiss (s : State) (t g job va next pf) : (s.stageMiss t g job va next pf).base = s.base := by
  unfold State.stageMiss
  dsimp only
  split
  · split
    · rfl
    · exact State.base_fetched t g job va _ (fun u => by simp) rfl
  · split
    · rfl
    · next u free => exact State.base_fetched t g job va _ (fun u => by simp) (State.base_freeLine free)

@[simp] theorem State.base_tapErr (s : State) (kind t) : (s.tapErr kind t).base = s.base := by simp [State.tapErr]
@[simp] theorem State.base_acceptUnit (s : State) (t u) : (s.acceptUnit t u).1.base = s.base := by
  unfold State.acceptUnit; dsimp only; repeat' split
  all_goals simp

@[simp] theorem State.base_present (s : State) (t u ack) : (s.present t u ack).base = s.base := (rfl)

/-! ### Operations of Machine/Tier.lean -/

@[simp] theorem State.base_setStream (s : State) (r i x) : (s.setStream r i x).base = s.base := (rfl)
@[simp] theorem State.base_seeRead (s : State) (t job l) : (s.seeRead t job l).base = s.base := by
  unfold State.seeRead
  dsimp only
  repeat' split
  all_goals simp

@[simp] theorem State.base_readBonded (s : State) (t b job found) : (s.readBonded t b job found).1.base = s.base := by
  unfold State.readBonded; dsimp only; repeat' split
  all_goals simp

@[simp] theorem State.base_presentStaged (s : State) (t u ack) : (s.presentStaged t u ack).base = s.base := by
  unfold State.presentStaged; split <;> rfl

@[simp] theorem State.base_readStaged (s : State) (t q l i fs) : (s.readStaged t q l i fs).base = s.base := by
  refine foldl_keeps State.base _ (fun a p => ?_) _ _
  dsimp only
  repeat' split
  all_goals simp

@[simp] theorem State.base_stageRead (s : State) (t q n addr f0 f1) : (s.stageRead t q n addr f0 f1).base = s.base := by
  unfold State.stageRead; dsimp only; split <;> simp

@[simp] theorem State.base_unitTaken (s : State) (m) : (s.unitTaken m).base = s.base := by simp [State.unitTaken]
@[simp] theorem State.base_bondedRead (s : State) (t q n addr f0 f1) : (s.bondedRead t q n addr f0 f1).base = s.base := by simp [State.bondedRead]
@[simp] theorem State.base_writeLine (s : State) (t g i mask ws psn) : (s.writeLine t g i mask ws psn).base = s.base := by
  unfold State.writeLine; split <;> simp

@[simp] theorem State.base_useMaint (s : State) (t) : (s.useMaint t).base = s.base := (rfl)
@[simp] theorem State.base_scrubbed (s : State) (t found) : (s.scrubbed t found).base = s.base := by
  unfold State.scrubbed
  rw [State.base_setTap]
  refine foldl_keeps State.base _ (fun a p => ?_) _ _
  dsimp only
  repeat' split
  all_goals simp

@[simp] theorem State.base_showLeft (s : State) : (s.showLeft).base = s.base := (rfl)
@[simp] theorem State.base_remapStat (s : State) (ok) : (s.remapStat ok).base = s.base := by unfold State.remapStat; split <;> rfl
@[simp] theorem State.base_fillLine (s : State) (t l bursts) : (s.fillLine t l bursts).base = s.base := (rfl)
@[simp] theorem State.base_fillLocal (s : State) (t l e) : (s.fillLocal t l e).base = s.base := by simp [State.fillLocal]
@[simp] theorem State.base_fillRemote (s : State) (t l n f p) : (s.fillRemote t l n f p).base = s.base := by simp [State.fillRemote]
@[simp] theorem State.base_invalidate (s : State) (t line) : (s.invalidate t line).base = s.base := by simp [State.invalidate]
@[simp] theorem State.base_readElog (s : State) (p) : (s.readElog p).1.base = s.base := (rfl)

/-! ### Operations of Machine/Memory.lean -/

@[simp] theorem State.base_loadFinish (c t n i s) : (loadFinish c t n i s).base = s.base := by unfold loadFinish; split <;> rfl
@[simp] theorem keeps_loadChecked {s b} (c t n i w len) (h : State.base s = b) : (loadChecked c t n i w len s).keeps b := by
  unfold loadChecked; split <;> simp [h]

@[simp] theorem keeps_loadGranted {s b} (c t i w vs) (h : State.base s = b) : (loadGranted c t i w vs s).keeps b := by
  unfold loadGranted; split <;> simp [h]

/-! ### Operations of Machine/ThreadOps.lean -/

@[simp] theorem State.base_completeWait (s : State) (c t i status d) : (s.completeWait c t i status d).base = s.base := by
  unfold State.completeWait
  extract_lets got u pc next
  have same : u.base = s.base := by simp [u]
  clear_value u got
  dsimp only [next]
  split
  · repeat' split
    all_goals simp [same]
  · split
    · simp [same]
    · split
      · simp [same]
      · next w len _ =>
        have read : (if got.isEmpty then loadChecked c t 0 i w len u else loadGranted c t i w got u).keeps s.base := by simp [same]
        split
        · next fault => rw [fault] at read; simpa using read
        · next done => rw [done] at read; simpa using read
        · exact same

@[simp] theorem State.base_resetThread (s : State) (c t keep) : (s.resetThread c t keep).base = s.base := by simp [State.resetThread]
@[simp] theorem State.base_startBit (s : State) (c t) : (s.startBit c t).base = s.base := (rfl)
@[simp] theorem State.base_withdrawSwitch (s : State) (bed) : (s.withdrawSwitch bed).base = s.base := by
  unfold State.withdrawSwitch; simp; split <;> simp

@[simp] theorem State.base_resetCore (s : State) (c) : (s.resetCore c).base = s.base := by unfold State.resetCore; split <;> simp

/-! ### Operations of Machine/AgreeOps.lean -/

@[simp] theorem State.base_sendAgree (s : State) (id dest m) : (s.sendAgree id dest m).base = s.base := by unfold State.sendAgree; split <;> simp
@[simp] theorem State.base_sendAgrees (s : State) (id dests m) : (s.sendAgrees id dests m).base = s.base := by simp [State.sendAgrees]
@[simp] theorem State.base_recvAgree (s : State) (n) : (s.recvAgree n).base = s.base := by unfold State.recvAgree; split <;> rfl
@[simp] theorem State.base_failJob (s : State) (id cause) : (s.failJob id cause).base = s.base := (rfl)
@[simp] theorem State.base_noteFail (s : State) (id) : (s.noteFail id).base = s.base := by
  unfold State.noteFail
  repeat' split
  all_goals simp

@[simp] theorem State.base_declareLoss (s : State) (id who) : (s.declareLoss id who).base = s.base := by
  unfold State.declareLoss; dsimp only; split <;> simp

@[simp] theorem State.base_heldLog (s : State) (j) : (s.heldLog j).base = s.base := by simp [State.heldLog]
@[simp] theorem State.base_toHeld (s : State) (id) : (s.toHeld id).base = s.base := by unfold State.toHeld; split <;> simp
@[simp] theorem State.base_syncBeds (s : State) : (s.syncBeds).base = s.base := (rfl)
@[simp] theorem State.base_freeShadows (s : State) (id) : (s.freeShadows id).base = s.base := by unfold State.freeShadows; split <;> simp
@[simp] theorem State.base_freeCtx (s : State) (n) : (s.freeCtx n).base = s.base := foldl_keeps State.base _ (fun a b => by simp) _ _
@[simp] theorem State.base_freeResources (s : State) (id) : (s.freeResources id).base = s.base := by simp [State.freeResources]
@[simp] theorem State.base_resetBed (s : State) (j) : (s.resetBed j).base = s.base := by simp [State.resetBed]
@[simp] theorem State.base_cancelCmds (s : State) (id but) : (s.cancelCmds id but).base = s.base := by simp [State.cancelCmds]
@[simp] theorem State.base_cancelJob (s : State) (id cause tell but) : (s.cancelJob id cause tell but).base = s.base := by
  unfold State.cancelJob
  dsimp only
  repeat' split
  all_goals simp

/-! ### Operations of Machine/PassOps.lean -/

@[simp] theorem State.base_bedCore (s : State) (id c) (f : State → State) (h : ∀ u, (f u).base = u.base) : (s.bedCore id c f).base = s.base := by
  unfold State.bedCore; split <;> simp [h]

@[simp] theorem State.base_eachCore (s : State) (j) (f : CoreId → State → State) (h : ∀ c u, (f c u).base = u.base) :
    (s.eachCore j f).base = s.base := foldl_keeps State.base _ (fun a c => State.base_bedCore a j.id c (f c) (h c)) _ _

@[simp] theorem State.base_prepCore (c s) : (State.prepCore c s).base = s.base := by simp [State.prepCore]
@[simp] theorem State.base_dropXlate (c s) : (State.dropXlate c s).base = s.base := (rfl)
@[simp] theorem State.base_startCore (pass n frozen c s) : (State.startCore pass n frozen c s).base = s.base := (rfl)
@[simp] theorem State.base_advanceEpochs (s : State) (id) : (s.advanceEpochs id).base = s.base := by simp [State.advanceEpochs]
@[simp] theorem State.base_refute (s : State) (j) : (s.refute j).base = s.base := by simp [State.refute]
@[simp] theorem State.base_dropAttempt (s : State) (j) : (s.dropAttempt j).base = s.base := by simp [State.dropAttempt]
@[simp] theorem State.base_onStreams (s : State) (id f) : (s.onStreams id f).base = s.base := (rfl)
@[simp] theorem State.base_keepStreams (s : State) (id) : (s.keepStreams id).base = s.base := (rfl)
@[simp] theorem State.base_rewindStreams (s : State) (id) : (s.rewindStreams id).base = s.base := (rfl)
@[simp] theorem State.base_enterReds (s : State) (j boundary force) : (s.enterReds j boundary force).base = s.base := by simp [State.enterReds]
@[simp] theorem State.base_markPorts (s : State) : (s.markPorts).base = s.base := (rfl)
@[simp] theorem State.base_settle (s : State) (id) : (s.settle id).base = s.base := by unfold State.settle; split <;> simp

/-! ### Operations of Machine/FabricLink.lean -/

@[simp] theorem State.base_bump (s : State) (f n) : (s.bump f n).base = s.base := (rfl)
@[simp] theorem State.base_takeLack (s : State) (p lack) : (s.takeLack p lack).base = s.base := by simp [State.takeLack]
@[simp] theorem State.base_takeCred (s : State) (p c0 c1) : (s.takeCred p c0 c1).base = s.base := (rfl)
@[simp] theorem State.base_replay (s : State) (p) : (s.replay p).base = s.base := (rfl)
@[simp] theorem State.base_noteRoutes (s : State) : (s.noteRoutes).base = s.base := (rfl)
@[simp] theorem State.base_armCtx (s : State) (n m) : (s.armCtx n m).base = s.base := (rfl)
@[simp] theorem State.base_requeue (s : State) (p q) : (s.requeue p q).base = s.base := foldl_keeps State.base _ (fun a b => by split <;> simp) _ _
@[simp] theorem State.base_leaveUp (s : State) (p state) : (s.leaveUp p state).base = s.base := by simp [State.leaveUp]
@[simp] theorem State.base_loseHost (s : State) : (s.loseHost).base = s.base := (rfl)
@[simp] theorem State.base_failPort (s : State) (p cause) : (s.failPort p cause).base = s.base := by simp [State.failPort]
@[simp] theorem State.base_startTraining (s : State) (p) : (s.startTraining p).base = s.base := by simp [State.startTraining]
@[simp] theorem State.base_trained (s : State) (p) : (s.trained p).base = s.base := by simp [State.trained]

/-! ### Operations of Machine/Host.lean -/

@[simp] theorem State.base_fetchLoop (s : State) (ring n) : (s.fetchLoop ring n).base = s.base := by
  induction n generalizing s with
  | zero => rfl
  | succ n ih => rw [State.fetchLoop]; simp [ih]

@[simp] theorem State.base_fetchRing (s : State) (ring) : (s.fetchRing ring).base = s.base := by simp [State.fetchRing]
@[simp] theorem State.base_fetchAll (s : State) : (s.fetchAll).base = s.base := by simp [State.fetchAll]
@[simp] theorem State.base_takeEntries (s : State) (ring n) : (s.takeEntries ring n).base = s.base := by
  induction n generalizing s with
  | zero => rfl
  | succ n ih =>
    rw [State.takeEntries]
    repeat' split
    all_goals simp [ih]

@[simp] theorem State.base_gotData (s : State) (tag bs) : (s.gotData tag bs).base = s.base := (rfl)
@[simp] theorem State.base_doorbell (s : State) (o v) : (s.doorbell o v).base = s.base := by simp [State.doorbell]
@[simp] theorem State.base_putRcfg (s : State) (v) : (s.putRcfg v).base = s.base := by simp [State.putRcfg]
@[simp] theorem State.base_writeEntry (s : State) (n e rest) : (s.writeEntry n e rest).base = s.base := by simp [State.writeEntry]
@[simp] theorem State.base_forgetCmd (s : State) (ring cid) : (s.forgetCmd ring cid).base = s.base := (rfl)
@[simp] theorem State.base_expireEntry (s : State) (n e) : (s.expireEntry n e).base = s.base := by unfold State.expireEntry; split <;> simp
@[simp] theorem State.base_hostFetch (s : State) (addr len) : (s.hostFetch addr len).base = s.base := by simp [State.hostFetch]

/-! ### Operations of Machine/SpindleOps.lean -/

@[simp] theorem State.base_setPortLock (s : State) (p b) : (s.setPortLock p b).base = s.base := (rfl)
@[simp] theorem State.base_remeasure (s : State) : (s.remeasure).base = s.base := (rfl)
@[simp] theorem State.base_fromSource (s : State) (p) : (s.fromSource p).base = s.base := (rfl)
@[simp] theorem State.base_takeSource (s : State) (p) : (s.takeSource p).base = s.base := (rfl)
@[simp] theorem State.base_seekSource (s : State) : (s.seekSource).base = s.base := by unfold State.seekSource; split <;> simp
@[simp] theorem State.base_rebaseDrift (s : State) : (s.rebaseDrift).base = s.base := by unfold State.rebaseDrift; split <;> rfl
@[simp] theorem State.base_noSlew (s : State) : (s.noSlew).base = s.base := (rfl)
@[simp] theorem State.base_enterLost (s : State) : (s.enterLost).base = s.base := by simp [State.enterLost]
@[simp] theorem State.base_enterHoldover (s : State) : (s.enterHoldover).base = s.base := by simp [State.enterHoldover]
@[simp] theorem State.base_slewBy (s : State) (e) : (s.slewBy e).base = s.base := (rfl)
@[simp] theorem State.base_enterLocked (s : State) (e) : (s.enterLocked e).base = s.base := by simp [State.enterLocked]
@[simp] theorem State.base_stepCount (s : State) (e) : (s.stepCount e).base = s.base := by simp [State.stepCount]
@[simp] theorem State.base_median (s : State) (l) : (s.median l).1.base = s.base := by
  unfold State.median; dsimp only; split <;> rfl

@[simp] theorem State.base_measure (s : State) (e mayLock) : (s.measure e mayLock).base = s.base := by simp [State.measure]
@[simp] theorem State.base_loseSource (s : State) : (s.loseSource).base = s.base := by unfold State.loseSource; split <;> simp
@[simp] theorem State.base_missMarker (s : State) (p r) : (s.missMarker p r).base = s.base := by simp [State.missMarker]

/-! ### Operations of Machine/Spindle.lean -/

@[simp] theorem State.base_nextAngle0 (s : State) : (s.nextAngle0).base = s.base := by simp [State.nextAngle0]
@[simp] theorem State.base_validMarker (s : State) (p m e) : (s.validMarker p m e).base = s.base := by simp [State.validMarker]
@[simp] theorem State.base_putSpnCtrl (s : State) (v) : (s.putSpnCtrl v).base = s.base := by simp [State.putSpnCtrl]
@[simp] theorem State.base_setRest (s : State) (b r) : (s.setRest b r).base = s.base := (rfl)
@[simp] theorem State.base_addRests (s : State) (b n) : (s.addRests b n).base = s.base := by unfold State.addRests; split <;> rfl

/-! ### Operations of Machine/Firmware.lean -/

@[simp] theorem State.base_onHs (s : State) (f) : (s.onHs f).base = s.base := (rfl)
@[simp] theorem State.base_setFault (s : State) (b) : (s.setFault b).base = s.base := (rfl)
@[simp] theorem State.base_showFuses (s : State) : (s.showFuses).base = s.base := (rfl)
@[simp] theorem State.base_showMain (s : State) : (s.showMain).base = s.base := by simp [State.showMain]
@[simp] theorem State.base_showImages (s : State) : (s.showImages).base = s.base := by unfold State.showImages; split <;> rfl
@[simp] theorem State.base_setSb (s : State) (n) : (s.setSb n).base = s.base := (rfl)
@[simp] theorem State.base_idleUnread (s : State) : (s.idleUnread).base = s.base := (rfl)
@[simp] theorem State.base_stepFails (s : State) (step cause) : (s.stepFails step cause).base = s.base := (rfl)
@[simp] theorem State.base_calibrate (s : State) : (s.calibrate).base = s.base := by simp [State.calibrate]
@[simp] theorem State.base_zeroCores (s : State) : (s.zeroCores).base = s.base := (rfl)
@[simp] theorem State.base_ready (s : State) : (s.ready).base = s.base := by simp [State.ready]
@[simp] theorem State.base_putStandby (s : State) (i) : (s.putStandby i).base = s.base := by simp [State.putStandby]
@[simp] theorem State.base_loadStandby (s : State) (ring cid n img) : (s.loadStandby ring cid n img).base = s.base := by
  unfold State.loadStandby; repeat' split <;> simp

@[simp] theorem State.base_activate (s : State) (ring x) : (s.activate ring x).base = s.base := by unfold State.activate; split <;> simp
@[simp] theorem State.base_swapPairs (s : State) : (s.swapPairs).base = s.base := by simp [State.swapPairs]
@[simp] theorem State.base_handOver (s : State) (h n) : (s.handOver h n).base = s.base := by simp [State.handOver]
@[simp] theorem State.base_endHandover (s : State) (h status ws) : (s.endHandover h status ws).base = s.base := by simp [State.endHandover]
@[simp] theorem State.base_confirmed (s : State) (h) : (s.confirmed h).base = s.base := by simp [State.confirmed]
@[simp] theorem State.base_handBack (s : State) (h) : (s.handBack h).base = s.base := by simp [State.handBack]
@[simp] theorem State.base_enterTest (s : State) (m) : (s.enterTest m).base = s.base := (rfl)
@[simp] theorem State.base_deriveKeys (s : State) (keys) : (s.deriveKeys keys).base = s.base := (rfl)

/-! ### Operations of Machine/Power.lean -/

@[simp] theorem State.base_pwSet (s : State) (b) : (s.pwSet b).base = s.base := by simp [State.pwSet]
@[simp] theorem State.base_onPower (s : State) (f) : (s.onPower f).base = s.base := (rfl)
@[simp] theorem State.base_setVin (s : State) (d) : (s.setVin d).base = s.base := (rfl)
@[simp] theorem State.base_inputEvents (s : State) (d) : (s.inputEvents d).base = s.base := by simp [State.inputEvents]
@[simp] theorem State.base_faultPin (s : State) (b) : (s.faultPin b).base = s.base := (rfl)
@[simp] theorem State.base_marginAlarm (s : State) (n) : (s.marginAlarm n).base = s.base := by simp [State.marginAlarm]
@[simp] theorem State.base_thermal (s : State) (n die stack inlet) : (s.thermal n die stack inlet).base = s.base := by simp [State.thermal]
@[simp] theorem State.base_putTemps (s : State) (n die stack inlet outlet) : (s.putTemps n die stack inlet outlet).base = s.base := (rfl)
@[simp] theorem State.base_endTherm (s : State) : (s.endTherm).base = s.base :=
  foldl_keeps State.base _ (fun a b => by dsimp only; split <;> simp) _ _

@[simp] theorem State.base_endWindow (s : State) (watts idle) : (s.endWindow watts idle).base = s.base := by unfold State.endWindow; split <;> simp

/-! ### Operations of Machine/Flag.lean -/

@[simp] theorem State.base_sendFlag (s : State) (c t gc n v) : (s.sendFlag c t gc n v).base = s.base := by simp [State.sendFlag]
@[simp] theorem State.base_takeAll (s : State) (c ms) : (s.takeAll c ms).base = s.base := by simp [State.takeAll]
@[simp] theorem State.base_flagsArrive (s : State) (c ms) : (s.flagsArrive c ms).base = s.base := by
  unfold State.flagsArrive
  refine (foldl_keeps State.base _ (fun a m => ?_) _ _).trans (foldl_keeps State.base _ (fun a m => ?_) _ _)
  all_goals split <;> simp

@[simp] theorem State.base_arrive (s : State) (c i mine) : (s.arrive c i mine).base = s.base := by unfold State.arrive; split <;> simp

/-! ### Operations of Machine/Thread.lean -/

@[simp] theorem State.base_coreCtrl (s : State) (c v) : (s.coreCtrl c v).base = s.base := by simp [State.coreCtrl]

/-! ### Operations of Machine/Debug.lean -/

@[simp] theorem State.base_stopThread (s : State) (c t aux) : (s.stopThread c t aux).base = s.base := by simp [State.stopThread]
@[simp] theorem State.base_refreeze (s : State) (c t) : (s.refreeze c t).base = s.base := by unfold State.refreeze; split <;> rfl
@[simp] theorem State.base_runThread (s : State) (c t) : (s.runThread c t).base = s.base := by simp [State.runThread]
@[simp] theorem State.base_dbgCmd (s : State) (c t cmd) : (s.dbgCmd c t cmd).base = s.base := by simp [State.dbgCmd]
@[simp] theorem State.base_stopAtBp (s : State) (c t acts) : (s.stopAtBp c t acts).base = s.base := by simp [State.stopAtBp]
@[simp] theorem State.base_forwardStop (s : State) (sup) : (s.forwardStop sup).base = s.base := foldl_keeps State.base _ (fun a b => by simp) _ _
@[simp] theorem State.base_bedCmd (s : State) (bed cmd) : (s.bedCmd bed cmd).base = s.base := by unfold State.bedCmd; split <;> simp
@[simp] theorem State.base_putTrcfg (s : State) (c v) : (s.putTrcfg c v).base = s.base := (rfl)
@[simp] theorem State.base_readTrace (s : State) (p c) : (s.readTrace p c).1.base = s.base := (rfl)

/-! ### Operations of Machine/Tile.lean -/

@[simp] theorem State.base_startRow (s : State) (c q e d tc ta tb z) : (s.startRow c q e d tc ta tb z).base = s.base := by simp [State.startRow]
@[simp] theorem State.base_loadDone (s : State) (c e tb rnd) : (s.loadDone c e tb rnd).base = s.base := by
  unfold State.loadDone; dsimp only; split <;> simp <;> split <;> simp

@[simp] theorem State.base_drainDone (s : State) (c e tc o) : (s.drainDone c e tc o).base = s.base := by
  unfold State.drainDone; repeat' split <;> simp

/-! ### Operations of Machine/CoreRegs.lean -/

@[simp] theorem State.base_putGuard (s : State) (c n v) : (s.putGuard c n v).base = s.base := (rfl)
@[simp] theorem State.base_dmaXinv (s : State) (c v) : (s.dmaXinv c v).base = s.base := by unfold State.dmaXinv; split <;> simp

/-! ### Operations of Machine/ReduceOps.lean -/

@[simp] theorem State.base_redErr (s : State) (kind rid seg k) : (s.redErr kind rid seg k).base = s.base := by unfold State.redErr; split <;> rfl
@[simp] theorem State.base_feedUnit (s : State) (side bed flow u) : (s.feedUnit side bed flow u).base = s.base := (rfl)

/-! ### Operations of Machine/Fabric.lean -/

@[simp] theorem State.base_packetIn (s : State) (p vl bs) : (s.packetIn p vl bs).base = s.base := by simp [State.packetIn]
@[simp] theorem State.base_takeFlit (s : State) (p ok f) : (s.takeFlit p ok f).base = s.base := by simp [State.takeFlit]
@[simp] theorem State.base_takeFec (s : State) (p errs) : (s.takeFec p errs).base = s.base := by simp [State.takeFec]
@[simp] theorem State.base_takeGood (s : State) (p f) : (s.takeGood p f).base = s.base := by simp [State.takeGood]
@[simp] theorem State.base_disablePort (s : State) (p) : (s.disablePort p).base = s.base := by simp [State.disablePort]
@[simp] theorem State.base_sendAck (s : State) (n) : (s.sendAck n).base = s.base := by simp [State.sendAck]
@[simp] theorem State.base_takeAck (s : State) (n seq) : (s.takeAck n seq).base = s.base := by unfold State.takeAck; simp; split <;> simp
@[simp] theorem State.base_accepted (s : State) (n p) : (s.accepted n p).base = s.base := by
  unfold State.accepted
  repeat' split
  all_goals simp

@[simp] theorem State.base_accept (s : State) (n p) : (s.accept n p).base = s.base := by simp [State.accept]
@[simp] theorem State.base_transport (s : State) (n p) : (s.transport n p).base = s.base := by simp [State.transport]
@[simp] theorem State.base_receive (s : State) (port p) : (s.receive port p).base = s.base := by simp [State.receive]
@[simp] theorem State.base_resend (s : State) (n) : (s.resend n).base = s.base := by
  unfold State.resend
  simp only [State.base_setCw, State.base_setCtx]
  refine foldl_keeps (fun p : State × List SentPkt => p.1.base) _ (fun p u => ?_) _ _
  dsimp only
  split <;> simp

@[simp] theorem State.base_putRt (s : State) (m v) : (s.putRt m v).base = s.base := (rfl)
@[simp] theorem State.base_stepRt (s : State) : (s.stepRt).base = s.base := (rfl)

/-! ### Operations of Machine/Xlate.lean -/

@[simp] theorem State.base_walked (s : State) (c ch j v wr a) : (s.walked c ch j v wr a).base = s.base := by
  unfold State.walked; repeat' split <;> simp

@[simp] theorem State.base_shootDown (s : State) (j vpn) : (s.shootDown j vpn).base = s.base := foldl_keeps State.base _ (fun a b => by simp) _ _
@[simp] theorem State.base_onPool (s : State) (a f) : (s.onPool a f).base = s.base := (rfl)
@[simp] theorem State.base_startMig (s : State) (j vpn frame) : (s.startMig j vpn frame).base = s.base := by simp [State.startMig]
@[simp] theorem State.base_wakeStream (s : State) (r i x) : (s.wakeStream r i x).base = s.base := (rfl)
@[simp] theorem State.base_mtXinv (s : State) (v) : (s.mtXinv v).base = s.base := (rfl)
@[simp] theorem State.base_fxXinv (s : State) (v) : (s.fxXinv v).base = s.base := (rfl)

/-! ### Operations of Machine/Pass.lean -/

@[simp] theorem State.base_vote (s : State) (job) : (s.vote job).base = s.base := (rfl)
@[simp] theorem State.base_sendWrites (s : State) (id home ws) : (s.sendWrites id home ws).base = s.base := by unfold State.sendWrites; split <;> simp
@[simp] theorem State.base_nameRev (s : State) (job j m n again late) : (s.nameRev job j m n again late).base = s.base := by simp [State.nameRev]
@[simp] theorem State.base_enterPass (s : State) (job j n) : (s.enterPass job j n).base = s.base := by simp [State.enterPass]
@[simp] theorem State.base_noteHandover (s : State) (id n) : (s.noteHandover id n).base = s.base := by unfold State.noteHandover; split <;> simp
@[simp] theorem State.base_boundaryAt (s : State) (job j n) : (s.boundaryAt job j n).base = s.base := by unfold State.boundaryAt; simp; split <;> simp
@[simp] theorem State.base_passLate (s : State) (job j r) : (s.passLate job j r).base = s.base := by simp [State.passLate]
@[simp] theorem State.base_applyVerdict (s : State) (id v) : (s.applyVerdict id v).base = s.base := by simp [State.applyVerdict]
@[simp] theorem State.base_takeFail (s : State) (id x) : (s.takeFail id x).base = s.base := by unfold State.takeFail; repeat' split <;> simp
@[simp] theorem State.base_takeVerdict (s : State) (job j x) : (s.takeVerdict job j x).base = s.base := by simp [State.takeVerdict]
@[simp] theorem State.base_reportFail (s : State) (job j) : (s.reportFail job j).base = s.base := by unfold State.reportFail; repeat' split <;> simp

/-! ### Operations of Machine/Preempt.lean -/

@[simp] theorem State.base_freezeBed (s : State) (job j n) : (s.freezeBed job j n).base = s.base := by simp [State.freezeBed]
@[simp] theorem State.base_settleOwed (s : State) (j c o) : (s.settleOwed j c o).base = s.base := by simp [State.settleOwed]
@[simp] theorem State.base_settleSends (s : State) (j c) : (s.settleSends j c).base = s.base := by simp [State.settleSends]
@[simp] theorem State.base_thawBed (s : State) (job j n) : (s.thawBed job j n).base = s.base := by simp [State.thawBed]
@[simp] theorem State.base_passDown (s : State) (id kind f) : (s.passDown id kind f).base = s.base := by unfold State.passDown; repeat' split <;> simp

/-! ### Operations of Machine/HostCmd.lean -/

@[simp] theorem State.base_configure (s : State) (m master) : (s.configure m master).base = s.base := by simp [State.configure]
@[simp] theorem State.base_putRoutes (s : State) (bs) : (s.putRoutes bs).base = s.base := foldl_keeps State.base _ (fun a b => by simp) _ _
@[simp] theorem State.base_nameDown (s : State) (ring x j kind f) : (s.nameDown ring x j kind f).base = s.base := by simp [State.nameDown]
@[simp] theorem State.base_loadBed (s : State) (j p) : (s.loadBed j p).base = s.base := by simp [State.loadBed]
@[simp] theorem State.base_armBed (s : State) (j n) : (s.armBed j n).base = s.base := by simp [State.armBed]

/-! ### Operations of Machine/Launch.lean -/

@[simp] theorem State.base_setBed (s : State) (j) : (s.setBed j).base = s.base := foldl_keeps State.base _ (fun a b => by simp) _ _
@[simp] theorem State.base_setReg (s : State) (i c o v) : (s.setReg i c o v).base = s.base := by simp [State.setReg]
@[simp] theorem State.base_setProg (s : State) (i p) : (s.setProg i p).base = s.base := foldl_keeps State.base _ (fun a b => by simp) _ _
@[simp] theorem State.base_setContext (s : State) (i bed c) : (s.setContext i bed c).base = s.base := by simp [State.setContext]
@[simp] theorem State.base_setReduction (s : State) (i r) : (s.setReduction i r).base = s.base := (rfl)
@[simp] theorem State.base_install (s : State) (i bytes) : (s.install i bytes).base = s.base := by unfold State.install; dsimp only; split <;> simp
@[simp] theorem State.base_markLaunch (s : State) (ring cid id) : (s.markLaunch ring cid id).base = s.base := (rfl)

/-! ### Operations of Machine/Recovery.lean -/

@[simp] theorem State.base_renumberCtx (s : State) (id old new) : (s.renumberCtx id old new).base = s.base :=
  foldl_keeps State.base _ (fun a b => by simp) _ _

@[simp] theorem State.base_renumber (s : State) (id old new) : (s.renumber id old new).base = s.base := by simp [State.renumber]
@[simp] theorem State.base_holdAt (s : State) (id pass) : (s.holdAt id pass).base = s.base := (rfl)
@[simp] theorem State.base_without (s : State) (row col cause) : (s.without row col cause).base = s.base := (rfl)
@[simp] theorem State.base_retireFail (s : State) (j row col neutral nospare) : (s.retireFail j row col neutral nospare).base = s.base := by
  simp [State.retireFail]

@[simp] theorem State.base_decideRetire (s : State) (y x cause) : (s.decideRetire y x cause).base = s.base :=
  foldl_keeps State.base _ (fun a b => by simp) _ _

@[simp] theorem State.base_moveRow (s : State) (row c0 neutral) : (s.moveRow row c0 neutral).base = s.base :=
  foldl_keeps State.base _ (fun a b => by simp) _ _

@[simp] theorem State.base_exchangeBed (s : State) (j) : (s.exchangeBed j).base = s.base := foldl_keeps State.base _ (fun a b => by simp) _ _
@[simp] theorem State.base_loadRetire (s : State) (j q) : (s.loadRetire j q).base = s.base := by simp [State.loadRetire]
@[simp] theorem State.base_readHsElog (s : State) (p) : (s.readHsElog p).base = s.base := (rfl)

/-! ### Operations of Machine/Reduction.lean -/

@[simp] theorem State.base_redTell (s : State) (kind rid seg k) : (s.redTell kind rid seg k).base = s.base := by simp [State.redTell]
@[simp] theorem State.base_failRed (s : State) (job kind rid seg k) : (s.failRed job kind rid seg k).base = s.base := by simp [State.failRed]
@[simp] theorem State.base_redSend (s : State) (j dest aux addr data) : (s.redSend j dest aux addr data).base = s.base := by
  unfold State.redSend; simp; split <;> simp

@[simp] theorem State.base_putFeed (s : State) (key f rest gone) : (s.putFeed key f rest gone).base = s.base := (rfl)
@[simp] theorem State.base_rejectFeed (s : State) (key j f rest) : (s.rejectFeed key j f rest).base = s.base := by simp [State.rejectFeed]
@[simp] theorem State.base_runFeed (s : State) (key f rest n) (send : State → Nat → Nat → List (List Nat) → State)
    (h : ∀ u a b x, (send u a b x).base = u.base) : (s.runFeed key f rest n send).base = s.base := by
  unfold State.runFeed; simp [h]

@[simp] theorem State.base_scanRun (s : State) (j f seg b bs) : (s.scanRun j f seg b bs).base = s.base := by simp [State.scanRun]
@[simp] theorem State.base_convertRun (s : State) (j f seg b bs) : (s.convertRun j f seg b bs).base = s.base := by simp [State.convertRun]
@[simp] theorem State.base_takeAgreed (s : State) (rid pass first es) : (s.takeAgreed rid pass first es).base = s.base := (rfl)
@[simp] theorem State.base_takeNexte (s : State) (rid pass first es) : (s.takeNexte rid pass first es).base = s.base := (rfl)
@[simp] theorem State.base_spread (s : State) (j rid kind seg es) : (s.spread j rid kind seg es).base = s.base := by simp [State.spread]
@[simp] theorem State.base_finishScan (s : State) (j rid seg) : (s.finishScan j rid seg).base = s.base := by simp [State.finishScan]

/-! ### Operations of Machine/Access.lean -/

@[simp] theorem State.base_winStep (s : State) (c o) : (s.winStep c o).base = s.base := by simp [State.winStep]
@[simp] theorem State.base_afterRead (s : State) (off) : (s.afterRead off).base = s.base := by unfold State.afterRead; split <;> simp
@[simp] theorem State.base_readReg (s : State) (p off) : (s.readReg p off).1.base = s.base := by
  unfold State.readReg; dsimp only; repeat' split
  all_goals simp

@[simp] theorem State.base_putBank (s : State) (off v) : (s.putBank off v).base = s.base := (rfl)
@[simp] theorem State.base_putWin (s : State) (p c o v hi) : (s.putWin p c o v hi).base = s.base := by
  unfold State.putWin
  cases hi <;> simp

@[simp] theorem State.base_putPortCtrl (s : State) (n v) : (s.putPortCtrl n v).base = s.base := by simp [State.putPortCtrl]
@[simp] theorem State.base_putRecov (s : State) (v) : (s.putRecov v).base = s.base := by simp [State.putRecov]
@[simp] theorem State.base_putCtx (s : State) (c m n) : (s.putCtx c m n).base = s.base := by simp [State.putCtx]
@[simp] theorem State.base_pathRead (s : State) (p off) : (s.pathRead p off).base = s.base := by simp [State.pathRead]

/-! ### Operations of Machine/Remote.lean -/

@[simp] theorem State.base_takeRx (s : State) (n p) : (s.takeRx n p).base = s.base := (rfl)
@[simp] theorem State.base_serveFill (s : State) (n j le) : (s.serveFill n j le).base = s.base := by unfold State.serveFill; split <;> simp
@[simp] theorem State.base_takeWrites (s : State) (n j p) : (s.takeWrites n j p).base = s.base := (rfl)
@[simp] theorem State.base_homeAcks (s : State) (n j p) : (s.homeAcks n j p).base = s.base := foldl_keeps State.base _ (fun a b => by simp) _ _

end Sys2Proof.Machine

/-! SUPPORT. What a command may come to: a state whose queue is the queue it found, and whose local memory is canonical if it found it so; and the
frames in which commands act: the issue of an instruction, register accesses, and the things a command names. -/

namespace Sys2Proof.Machine

/-! ### What a command may come to -/

/-- The canonical form of `State.memWf`. -/
def Base.canonical (b : Base) : Prop := SMap.wf (fun _ => (0 : Byte)) b.dram ∧ SMap.wf (fun _ => false) b.psn

/-- `b` may follow `a`: the same queue, and a canonical memory if `a` has one. -/
def Base.leads (a b : Base) : Prop := b.queue = a.queue ∧ (a.canonical → b.canonical)

@[simp] theorem Base.leads_refl (a : Base) : a.leads a := ⟨rfl, id⟩

@[simp] theorem Base.leads_ite {c : Prop} [Decidable c] (a x y : Base) :
    a.leads (if c then x else y) ↔ (c → a.leads x) ∧ (¬ c → a.leads y) := by
  split <;> simp [*]

/-- Every next state that the outcome holds may follow. -/
def Base.allows (a : Base) (o : Out) : Prop := ∀ u, o = .next u → a.leads u.base

@[simp] theorem Base.allows_next (a : Base) (u : State) : a.allows (.next u) ↔ a.leads u.base :=
  ⟨fun h => h u rfl, fun h _ e => by cases e; exact h⟩
@[simp] theorem Base.allows_refused (a : Base) (r : Refusal) : a.allows (.refused r) := fun _ e => nomatch e
@[simp] theorem Base.allows_fault (a : Base) (r : Fault) : a.allows (.fault r) := fun _ e => nomatch e
@[simp] theorem Base.allows_ite {c : Prop} [Decidable c] (a : Base) (x y : Out) :
    a.allows (if c then x else y) ↔ (c → a.allows x) ∧ (¬ c → a.allows y) := by
  split <;> simp [*]

/-! ### Outcomes of instructions that several share -/

@[simp] theorem keeps_chFault {s b} (code w) (h : State.base s = b) : (chFault s code w).keeps b := h

@[simp] theorem keeps_load {s b} (c t i) (h : State.base s = b) : (load c t i s).keeps b := by
  unfold load
  split
  · simpa
  · split <;> simp [h]

@[simp] theorem keeps_rangeFault {s b r} (w n) (h : State.base s = b) (k : Res.keeps r b) : ((rangeFault s w n).getD r).keeps b := by
  unfold rangeFault
  split
  · exact h
  · exact k

@[simp] theorem keeps_subFault {s b r} (a half) (h : State.base s = b) (k : Res.keeps r b) : ((subFault s a half).getD r).keeps b := by
  unfold subFault
  split
  · exact h
  · split
    · exact h
    · exact k

@[simp] theorem keeps_stackFault {s b r} (c t w) (h : State.base s = b) (k : Res.keeps r b) : ((stackFault c t s w).getD r).keeps b := by
  unfold stackFault
  split
  · exact h
  · exact keeps_rangeFault w 1 h k

@[simp] theorem keeps_storeBytes {s b} (c t a n v) (h : State.base s = b) : (storeBytes c t a n v s).keeps b := by
  unfold storeBytes; split <;> simp [h]

@[simp] theorem keeps_waitOn {s b} (c t gd kind obj) (h : State.base s = b) : (waitOn c t gd kind obj s).keeps b := by
  unfold waitOn; split <;> simp [h]

@[simp] theorem keeps_lockFault {s b} (d n) (h : State.base s = b) : (lockFault s d n).keeps b := h

@[simp] theorem keeps_tileFault {s b} (f) (h : State.base s = b) : (tileFault s f).keeps b := h

@[simp] theorem keeps_callTo {s b} (c t r a) (h : State.base s = b) : (callTo c t r a s).keeps b := by
  unfold callTo; simp [h]

@[simp] theorem keeps_alu {s b} (c t d n f) (h : State.base s = b) : (alu c t d n f s).keeps b := by
  unfold alu; simp [h]

@[simp] theorem keeps_divide {s b} (c t d f) (h : State.base s = b) : (divide c t d f s).keeps b := by
  unfold divide; simp [h]

@[simp] theorem keeps_compare {s b} (c t f) (h : State.base s = b) : (compare c t f s).keeps b := by
  unfold compare; simp [h]

@[simp] theorem keeps_aluFlags {s b} (c t d f) (h : State.base s = b) : (aluFlags c t d f s).keeps b := by
  unfold aluFlags; simp [h]

@[simp] theorem keeps_vwrite {s b} (c t d w lat xs fl bad) (h : State.base s = b) : (vwrite c t d w lat xs fl bad s).keeps b := by
  unfold vwrite; simp [h]

@[simp] theorem keeps_vmap2 {s b} (c t f d a e lat op) (h : State.base s = b) : (vmap2 c t f d a e lat op s).keeps b :=
  keeps_vwrite c t d _ lat _ _ _ h

@[simp] theorem keeps_vmap1 {s b} (c t f d a lat op) (h : State.base s = b) : (vmap1 c t f d a lat op s).keeps b :=
  keeps_vwrite c t d _ lat _ _ _ h

@[simp] theorem keeps_vmap3 {s b} (c t f d a e g lat op) (h : State.base s = b) : (vmap3 c t f d a e g lat op s).keeps b :=
  keeps_vwrite c t d _ lat _ _ _ h

@[simp] theorem keeps_vtree {s b} (c t f d a op) (h : State.base s = b) : (vtree c t f d a op s).keeps b :=
  keeps_vwrite c t d _ 3 _ _ _ h

@[simp] theorem keeps_spaced {r b} (c t f) (h : Res.keeps r b) : (spaced c t f r).keeps b := by
  cases r with
  | seq u => unfold spaced; simpa using h
  | _ => exact h

@[simp] theorem keeps_blocking {r b} (c t n) (h : Res.keeps r b) : (blocking c t n r).keeps b := by
  cases r with
  | seq u => unfold blocking; simpa using h
  | _ => exact h

/-! ### The frames in which commands act -/

/-- An instruction whose execution keeps the queue and the local memory: the slot, the checks and what follows keep them too. -/
theorem Base.allows_issue {s : State} {c t i body} (h : ∀ u, u.base = s.base → (body u).keeps s.base) : s.base.allows (issue c t i body s) := by
  unfold issue
  simp only [Base.allows_ite, Base.allows_refused, Base.allows_next]
  refine ⟨fun _ => trivial, fun _ => ⟨fun _ => by simp, fun _ => ⟨fun _ => by simp, fun _ => ⟨fun _ => by simp, fun _ => ⟨fun _ => by simp, fun _ => ?_⟩⟩⟩⟩⟩
  split
  · simp
  · simp only [Base.allows_ite, Base.allows_next]
    refine ⟨fun _ => by simp, fun _ => ⟨fun _ => by simp, fun _ => ?_⟩⟩
    split
    · simp
    all_goals
      next ended =>
        have kept := ended ▸ h _ (by simp)
        simp only [Res.keeps_seq, Res.keeps_jump, Res.keeps_stay, Res.keeps_fault, Res.keeps_wait] at kept
        simp [kept]

@[simp] theorem Base.allows_withCore {b s c f} (h : Base.allows b f) : b.allows (withCore s c f) := by
  unfold withCore; simp [h]

@[simp] theorem Base.allows_winWrite {s : State} {p c o v f} (h : s.base.leads (f s).base) : s.base.allows (s.winWrite p c o v f) := by
  unfold State.winWrite
  rw [Base.allows_next]
  split
  · simp
  · split
    · simpa [State.ack] using h
    · simp

@[simp] theorem Base.allows_devWrite {s : State} {p off v f} (h : s.base.leads (f s).base) : s.base.allows (s.devWrite p off v f) := by
  unfold State.devWrite
  rw [Base.allows_next]
  split
  · simpa [State.ack] using h
  · simp

@[simp] theorem Base.allows_winRead {s : State} {p c v f} (h : s.base.leads (f s).base) : s.base.allows (s.winRead p c v f) := by
  unfold State.winRead; simp [h]

@[simp] theorem Base.allows_winAccess {s : State} {p c o wr v put adv} (h : ∀ v, s.base.leads (adv (put v s)).base) (k : s.base.leads (adv s).base) :
    s.base.allows (s.winAccess p c o wr v put adv) := by
  cases wr with
  | none => exact Base.allows_winRead k
  | some v => exact Base.allows_winWrite (f := fun s => adv (put v s)) (h v)

@[simp] theorem Base.allows_withPort {b p f} (h : ∀ n, Base.allows b (f n)) : b.allows (withPort p f) := by
  unfold withPort; simp [h]

@[simp] theorem Base.allows_withHostCmd {s : State} {ring cid p f} (h : ∀ x, s.base.allows (f x)) : s.base.allows (withHostCmd s ring cid p f) := by
  unfold withHostCmd; split <;> simp [h]

@[simp] theorem Base.allows_withCmd {s : State} {ring cid opc f} (h : ∀ x, s.base.allows (f x)) : s.base.allows (withCmd s ring cid opc f) := by
  unfold withCmd; simp [h]

@[simp] theorem Base.allows_withCmdJob {s : State} {ring cid x f} (h : ∀ j, s.base.allows (f j)) : s.base.allows (withCmdJob s ring cid x f) := by
  unfold withCmdJob; split <;> simp [h]

@[simp] theorem Base.allows_withJob {s : State} {id f} (h : ∀ j, s.base.allows (f j)) : s.base.allows (withJob s id f) := by
  unfold withJob; split <;> simp [h]

@[simp] theorem Base.allows_withPeer {s : State} {n f} (h : ∀ m j, s.base.allows (f m j)) : s.base.allows (withPeer s n f) := by
  unfold withPeer
  split
  · split <;> simp [h]
  · simp

@[simp] theorem Base.allows_withFeed {s : State} {side bed flow f} (h : ∀ key j x rest, s.base.allows (f key j x rest)) :
    s.base.allows (withFeed s side bed flow f) := by
  unfold withFeed
  dsimp only
  split
  · simp
  · split <;> simp [h]

theorem Base.allows_withRed {s : State} {n kind f} (h : ∀ j p u, u.base = s.base → s.base.allows (f j p u)) :
    s.base.allows (withRed s n kind f) := by
  unfold withRed
  split
  · split
    · exact h _ _ _ (by simp)
    · simp
  · simp

theorem Base.allows_withHome {s : State} {job kind f} (h : ∀ j p u, u.base = s.base → s.base.allows (f j p u)) :
    s.base.allows (withHome s job kind f) := by
  unfold withHome
  split
  · split
    · simp
    · exact h _ _ _ (by simp)
  · simp

end Sys2Proof.Machine

/-! SUPPORT. The operations that write the local memory, and those that reset the module: each keeps the queue and the canonical form. -/

namespace Sys2Proof.Machine

theorem Base.leads_foldl {α : Type} {b : Base} {f : State → α → State} (h : ∀ u x, b.leads u.base → b.leads (f u x).base) (l : List α)
    {u : State} (k : b.leads u.base) : b.leads (l.foldl f u).base := by
  induction l generalizing u with
  | nil => exact k
  | cons x l ih => exact ih (h u x k)

section
variable {b : Base} {s : State} (h : b.leads s.base)
include h

@[simp] theorem Base.leads_setByte (a v) : b.leads (s.setByte a v).base :=
  ⟨h.1, fun c => ⟨SMap.set_wf _ _ _ _ (h.2 c).1, (h.2 c).2⟩⟩

@[simp] theorem Base.leads_setPsnAt (a p) : b.leads (s.setPsnAt a p).base :=
  ⟨h.1, fun c => ⟨(h.2 c).1, SMap.set_wf _ _ _ _ (h.2 c).2⟩⟩

@[simp] theorem Base.leads_setBytes (a bs) : b.leads (s.setBytes a bs).base := by
  induction bs generalizing s a with
  | nil => exact h
  | cons v bs ih => exact ih (Base.leads_setByte h a v) (a + 1)

@[simp] theorem Base.leads_zeroDram : b.leads s.zeroDram.base :=
  ⟨h.1, fun _ => ⟨SMap.nil_wf _, SMap.nil_wf _⟩⟩

@[simp] theorem Base.leads_zeroPage (p) : b.leads (s.zeroPage p).base :=
  ⟨h.1, fun c => ⟨SMap.filter_wf _ _ _ (h.2 c).1, SMap.filter_wf _ _ _ (h.2 c).2⟩⟩

@[simp] theorem Base.leads_modReset (keep) : b.leads (s.modReset keep).base := by
  unfold State.modReset
  rw [State.base_idleUnread, State.base_showMain]
  cases keep
  · exact ⟨h.1, fun _ => ⟨SMap.nil_wf _, SMap.nil_wf _⟩⟩
  · exact h

@[simp] theorem Base.leads_putBurst (a m ws p) : b.leads (s.putBurst a m ws p).base := by
  refine Base.leads_setPsnAt (Base.leads_foldl (fun u i k => ?_) _ h) _ _
  split
  · exact Base.leads_setBytes k _ _
  · exact k

@[simp] theorem Base.leads_writeBack (t l e) : b.leads (s.writeBack t l e).base := by
  unfold State.writeBack
  rw [State.base_onLine]
  refine Base.leads_foldl (fun u p k => ?_) _ (by simp [h])
  dsimp only
  split <;> simp [k]

@[simp] theorem Base.leads_returnLine (t l e) : b.leads (s.returnLine t l e).base := by
  unfold State.returnLine
  split <;> simp [h]

@[simp] theorem Base.leads_keepFree (t) : b.leads (s.keepFree t).base := by
  unfold State.keepFree
  dsimp only
  split
  · exact h
  · split <;> simp [h]

@[simp] theorem Base.leads_stageWrite (t q ws p) : b.leads (s.stageWrite t q ws p).base := by
  unfold State.stageWrite
  extract_lets g i vpn found
  have same : ∀ u, found = some u → u.base = s.base := by
    intro u taken
    simp only [found] at taken
    split at taken
    · cases taken; rfl
    · obtain ⟨v, free, rfl⟩ := Option.map_eq_some_iff.mp taken
      simp [State.base_freeLine free]
  clear_value found
  split
  · exact h
  · simp [same, h]

@[simp] theorem Base.leads_remapped (t r found) : b.leads (s.remapped t r found).base := by
  unfold State.remapped
  extract_lets x u
  have led : b.leads u.base := by simp [u, h]
  split
  · simp [led]
  · simp only [State.base_remapStat, State.base_elogAdd]
    refine Base.leads_foldl (fun v p k => ?_) _ led
    dsimp only
    split <;> simp [k]

@[simp] theorem Base.leads_prefetch (r n x j i) : b.leads (s.prefetch r n x j i).base := by
  unfold State.prefetch
  extract_lets next vline vpn
  split
  dsimp only
  split
  · simp [h]
  · simp [h]

@[simp] theorem Base.leads_publishDtab : b.leads s.publishDtab.base := by
  unfold State.publishDtab; simp [h]

@[simp] theorem Base.leads_writeHome (id) : b.leads (s.writeHome id).base := by
  unfold State.writeHome
  rw [State.base_update]
  refine Base.leads_foldl (fun u l k => Base.leads_foldl (fun v p k => ?_) _ k) _ h
  simp [k]

@[simp] theorem Base.leads_copyBack (j) : b.leads (s.copyBack j).base := by
  unfold State.copyBack
  refine Base.leads_foldl (fun u p k => ?_) _ (Base.leads_foldl (fun u p k => by simp [k]) _ h)
  refine Base.leads_foldl (fun u a k => by simp [k]) _ (Base.leads_foldl (fun u a k => by simp [k]) _ ?_)
  exact ⟨k.1, fun c => ⟨SMap.filter_wf _ _ _ (k.2 c).1, SMap.filter_wf _ _ _ (k.2 c).2⟩⟩

@[simp] theorem Base.leads_copyBurst (a bs) : b.leads (s.copyBurst a bs).base := by
  unfold State.copyBurst; simp [h]

@[simp] theorem Base.leads_applyCopy (id x) : b.leads (s.applyCopy id x).base := by
  unfold State.applyCopy
  split
  · exact h
  · rw [State.base_onJob]
    refine Base.leads_foldl (fun u p k => ?_) _ h
    dsimp only
    split <;> simp [k]

@[simp] theorem Base.leads_dropCopy (ring cid) : b.leads (s.dropCopy ring cid).base := by
  refine Base.leads_foldl (fun u j k => Base.leads_foldl (fun v x k => ?_) _ k) _ h
  rw [State.base_onJob]
  exact Base.leads_foldl (fun w p k => by simp [k]) _ k

@[simp] theorem Base.leads_expireCmd (ring x) : b.leads (s.expireCmd ring x).base := by
  unfold State.expireCmd
  dsimp only
  split <;> simp [h]

@[simp] theorem Base.leads_startImage (i found) : b.leads (s.startImage i found).base := by
  unfold State.startImage; simp [h]

@[simp] theorem Base.leads_startUp (i f) : b.leads (s.startUp i f).base := by
  unfold State.startUp
  extract_lets u v w
  have led : b.leads u.base ∧ b.leads v.base ∧ b.leads w.base := by simp [u, v, w, h]
  clear_value w v u
  split
  · simp [led]
  · split
    · simp [led]
    · split
      · simp [led]
      · split <;> simp [led]

@[simp] theorem Base.leads_recover (w img) : b.leads (s.recover w img).base := by
  unfold State.recover
  extract_lets u n a cause v x y
  have led : b.leads u.base ∧ b.leads v.base ∧ b.leads y.base := by simp [u, v, x, y, h]
  clear_value y x v cause u
  split
  · exact led.1
  · split <;> simp [led]

@[simp] theorem Base.leads_reboot : b.leads s.reboot.base := by
  unfold State.reboot; simp [h]

@[simp] theorem Base.leads_leaveTest : b.leads s.leaveTest.base := by
  have zeroed := Base.leads_setBytes (Base.leads_setBytes (Base.leads_zeroDram h) (dtabPage 0) (s.dtab.take 65536)) (dtabPage 1) (s.dtab.drop 65536)
  unfold State.leaveTest
  simp [h, zeroed]

@[simp] theorem Base.leads_railsOff : b.leads s.railsOff.base := by
  unfold State.railsOff; simp [h]

@[simp] theorem Base.leads_standbyOn (d) : b.leads (s.standbyOn d).base := by
  unfold State.standbyOn; simp [h]

@[simp] theorem Base.leads_railsOn : b.leads s.railsOn.base := by
  unfold State.railsOn; simp [h]

@[simp] theorem Base.leads_standbyOff (lock) : b.leads (s.standbyOff lock).base := by
  unfold State.standbyOff; simp [h]

@[simp] theorem Base.leads_settleLines (page) : b.leads (s.settleLines page).base := by
  unfold State.settleLines
  rw [State.base_dropLines]
  refine Base.leads_foldl (fun u l k => Base.leads_foldl (fun v p k => ?_) _ k) _ h
  simp [k]

@[simp] theorem Base.leads_movePage (id vpn page frame) : b.leads (s.movePage id vpn page frame).base := by
  unfold State.movePage
  extract_lets u
  have led : b.leads u.base := Base.leads_settleLines h page
  clear_value u
  split
  · exact led
  · simp only [State.base_onJob, State.base_ite, State.base_onPool, ite_self]
    refine Base.leads_foldl (fun v x k => by simp [k]) _ (Base.leads_foldl (fun v x k => by simp [k]) _ ?_)
    exact Base.leads_zeroPage (Base.leads_zeroPage led page) frame

@[simp] theorem Base.leads_migrate (id vpn frame) : b.leads (s.migrate id vpn frame).base := by
  unfold State.migrate
  split
  · dsimp only
    split <;> simp [h]
  · exact h

@[simp] theorem Base.leads_resolve (j vpn f frame) {done : State → State} (g : ∀ u, (done u).base = u.base) :
    b.leads (s.resolve j vpn f frame done).base := by
  unfold State.resolve
  split
  · exact h
  · split
    · simp [g, h]
    · split <;> simp [g, h]

@[simp] theorem Base.leads_flushJob (id j) : b.leads (s.flushJob id j).base := by
  unfold State.flushJob
  dsimp only
  split <;> simp [h]

@[simp] theorem Base.leads_applyWrites (j src n ws) : b.leads (s.applyWrites j src n ws).base := by
  unfold State.applyWrites
  extract_lets u v
  have led : b.leads u.base := by
    refine Base.leads_foldl (fun w x k => ?_) _ h
    dsimp only
    split
    · split <;> simp [k]
    · exact k
  split <;> simp [v, led]

@[simp] theorem Base.leads_rollBack (id j) : b.leads (s.rollBack id j).base := by
  unfold State.rollBack; simp [h]

@[simp] theorem Base.leads_copyNow (j va bs) : b.leads (s.copyNow j va bs).base :=
  Base.leads_foldl (fun u p k => by simp [k]) _ h

@[simp] theorem Base.leads_retireNow (y p) : b.leads (s.retireNow y p).base := by
  unfold State.retireNow
  extract_lets x js u c0 v w o _ q
  have same : u.base = s.base := by
    simp only [u]
    split <;> simp
  simp [q, o, w, v, same, h]

@[simp] theorem Base.leads_writeVa (id va bs) : b.leads (s.writeVa id va bs).base := by
  unfold State.writeVa
  split
  · exact h
  · refine Base.leads_foldl (fun u i k => ?_) _ h
    simp [k]

@[simp] theorem Base.leads_writeResult (j rid seg va data) : b.leads (s.writeResult j rid seg va data).base := by
  unfold State.writeResult; simp [h]

@[simp] theorem Base.leads_takeResult (n j p rest) : b.leads (s.takeResult n j p rest).base := by
  unfold State.takeResult; simp [h]

@[simp] theorem Base.leads_finishSeg (j rid seg) : b.leads (s.finishSeg j rid seg).base := by
  unfold State.finishSeg
  rw [State.base_spread]
  refine Base.leads_foldl (fun u d k => Base.leads_foldl (fun v m k => Base.leads_foldl (fun w p k => ?_) _ k) _ k) _ (by simp [h])
  dsimp only
  split <;> simp [k]

@[simp] theorem Base.leads_homeBlock (j rid seg k copy scan sender c image mb) :
    b.leads (s.homeBlock j rid seg k copy scan sender c image mb).base := by
  unfold State.homeBlock; simp [h]

@[simp] theorem Base.leads_homeScan (j p) : b.leads (s.homeScan j p).base :=
  Base.leads_foldl (fun u x k => by simp [k]) _ h

@[simp] theorem Base.leads_homeData (j p) : b.leads (s.homeData j p).base :=
  Base.leads_foldl (fun u x k => by simp [k]) _ h

@[simp] theorem Base.leads_putDev (p off v hi) : b.leads (s.putDev p off v hi).base := by
  unfold State.putDev
  cases hi <;> simp [h]

@[simp] theorem Base.leads_putReg (p off v) : b.leads (s.putReg p off v).base := by
  unfold State.putReg
  split
  · exact h
  · split
    · simp [h]
    · dsimp only
      split <;> simp [h]

@[simp] theorem Base.leads_debugGo : b.leads s.debugGo.base := by
  unfold State.debugGo; simp [h]

@[simp] theorem Base.leads_write (p off v) : b.leads (s.write p off v).base := by
  unfold State.write; simp [h]

@[simp] theorem Base.leads_pathWrite (p off v) : b.leads (s.pathWrite p off v).base := by
  unfold State.pathWrite
  split <;> simp [State.ack, h]
end

end Sys2Proof.Machine

/-! SUPPORT. Every command keeps the queue and the canonical form of the local memory: one lemma for each. -/

namespace Sys2Proof.Machine

/-! ### Commands of Machine/Dma.lean -/

@[simp] theorem Base.allows_execDmago (c t ch ga) (s : State) : s.base.allows (execDmago c t ch ga s) := Base.allows_issue fun u h => by
  dsimp only
  repeat' split
  all_goals simp [h]

@[simp] theorem Base.allows_execDmastat (c t gd ch) (s : State) : s.base.allows (execDmastat c t gd ch s) := Base.allows_issue fun u h => by simp [h]
@[simp] theorem Base.allows_execDmadis (c t ch) (s : State) : s.base.allows (execDmadis c t ch s) := Base.allows_issue fun u h => by simp [h]
@[simp] theorem Base.allows_execDmaBurst (c flow) (s : State) : s.base.allows (execDmaBurst c flow s) := by
  unfold execDmaBurst
  dsimp only
  repeat' split
  all_goals simp

@[simp] theorem Base.allows_execDmaChannelDone (c ch) (s : State) : s.base.allows (execDmaChannelDone c ch s) := by
  unfold execDmaChannelDone; dsimp only; split <;> simp

@[simp] theorem Base.allows_execDmaChannelResume (c ch) (s : State) : s.base.allows (execDmaChannelResume c ch s) := by
  unfold execDmaChannelResume; simp

@[simp] theorem Base.allows_execDmaTimeout (c ch) (s : State) : s.base.allows (execDmaTimeout c ch s) := by unfold execDmaTimeout; simp
@[simp] theorem Base.allows_execCreditRequest (c) (s : State) : s.base.allows (execCreditRequest c s) := by
  unfold execCreditRequest
  repeat' split
  all_goals simp

@[simp] theorem Base.allows_execCreditAnswer (c ch) (s : State) : s.base.allows (execCreditAnswer c ch s) := by
  unfold execCreditAnswer
  repeat' split
  all_goals simp

@[simp] theorem Base.allows_execCreditRetry (c ch) (s : State) : s.base.allows (execCreditRetry c ch s) := by
  unfold execCreditRetry; dsimp only; split <;> simp

@[simp] theorem Base.allows_execCreditReturn (c) (s : State) : s.base.allows (execCreditReturn c s) := by
  unfold execCreditReturn
  dsimp only
  repeat' split
  all_goals simp

@[simp] theorem Base.allows_execDataUnitCommit (c) (s : State) : s.base.allows (execDataUnitCommit c s) := by
  unfold execDataUnitCommit
  dsimp only
  repeat' split
  all_goals simp

@[simp] theorem Base.allows_execHeldTrapEntry (c t) (s : State) : s.base.allows (execHeldTrapEntry c t s) := by unfold execHeldTrapEntry; simp
@[simp] theorem Base.allows_execTapRetry (c ch) (s : State) : s.base.allows (execTapRetry c ch s) := by
  unfold execTapRetry
  repeat' split
  all_goals simp

/-! ### Commands of Machine/Channel.lean -/

@[simp] theorem Base.allows_execCopen (c t gd conn ga) (s : State) : s.base.allows (execCopen c t gd conn ga s) := Base.allows_issue fun u h => by
  dsimp only
  repeat' split
  all_goals simp [h]

@[simp] theorem Base.allows_execCopenComplete (c t) (s : State) : s.base.allows (execCopenComplete c t s) := by
  unfold execCopenComplete
  repeat' split
  all_goals simp

@[simp] theorem Base.allows_execCclose (c t conn) (s : State) : s.base.allows (execCclose c t conn s) := Base.allows_issue fun u h => by simp [h]
@[simp] theorem Base.allows_execMsend (c t conn ga gb h) (s : State) : s.base.allows (execMsend c t conn ga gb h s) :=
  Base.allows_issue fun u h => by simp [h]

@[simp] theorem Base.allows_execClaimRequest (c) (s : State) : s.base.allows (execClaimRequest c s) := by
  unfold execClaimRequest
  repeat' split
  all_goals simp

@[simp] theorem Base.allows_execClaimGrant (c conn) (s : State) : s.base.allows (execClaimGrant c conn s) := by
  unfold execClaimGrant
  repeat' split
  all_goals simp

@[simp] theorem Base.allows_execClaimRetry (c conn) (s : State) : s.base.allows (execClaimRetry c conn s) := by unfold execClaimRetry; split <;> simp
@[simp] theorem Base.allows_execMessageUnitSend (c conn) (s : State) : s.base.allows (execMessageUnitSend c conn s) := by
  unfold execMessageUnitSend
  dsimp only
  repeat' split
  all_goals simp

@[simp] theorem Base.allows_execMrecv (c t gd conn) (s : State) : s.base.allows (execMrecv c t gd conn s) := Base.allows_issue fun u h => by
  dsimp only
  repeat' split
  all_goals simp [h]

@[simp] theorem Base.allows_execMdone (c t conn) (s : State) : s.base.allows (execMdone c t conn s) := Base.allows_issue fun u h => by simp [h]
@[simp] theorem Base.allows_execRingDispatch (c ring) (s : State) : s.base.allows (execRingDispatch c ring s) := by unfold execRingDispatch; simp
@[simp] theorem Base.allows_execAbandon (p c conn) (s : State) : s.base.allows (execAbandon p c conn s) := by unfold execAbandon; simp
@[simp] theorem Base.allows_execRelease (p c ring) (s : State) : s.base.allows (execRelease p c ring s) := by unfold execRelease; simp
@[simp] theorem Base.allows_execConnectionRestore (p c conn v) (s : State) : s.base.allows (execConnectionRestore p c conn v s) := by
  unfold execConnectionRestore; simp

/-! ### Commands of Machine/Mesh.lean -/

@[simp] theorem Base.allows_execMeshUnitArrive (c port) (s : State) : s.base.allows (execMeshUnitArrive c port s) := by
  unfold execMeshUnitArrive; split <;> simp

@[simp] theorem Base.allows_execPatternLoad (c logp drain entries) (s : State) : s.base.allows (execPatternLoad c logp drain entries s) := by
  unfold execPatternLoad; simp

@[simp] theorem Base.allows_execSwitchArm (p c rev) (s : State) : s.base.allows (execSwitchArm p c rev s) := by unfold execSwitchArm; simp
@[simp] theorem Base.allows_execSwitchWithdraw (p c) (s : State) : s.base.allows (execSwitchWithdraw p c s) := by unfold execSwitchWithdraw; simp
@[simp] theorem Base.allows_execPatternDrainGuard (bed) (s : State) : s.base.allows (execPatternDrainGuard bed s) := by
  unfold execPatternDrainGuard; split <;> simp

@[simp] theorem Base.allows_execPatternSwitch (s : State) : s.base.allows (execPatternSwitch s) := by
  unfold execPatternSwitch
  split
  · simp
  · rw [Base.allows_next, foldl_keeps State.base]
    · simp
    · intro a j
      split
      · split <;> simp
      · rfl

@[simp] theorem Base.allows_execMeshPdataAccess (p c wr) (s : State) : s.base.allows (execMeshPdataAccess p c wr s) := by
  unfold execMeshPdataAccess; simp

/-! ### Commands of Machine/Tier.lean -/

@[simp] theorem Base.allows_execTapRd (tap ecc ecc2) (s : State) : s.base.allows (execTapRd tap ecc ecc2 s) := by
  unfold execTapRd; simp; split <;> simp

@[simp] theorem Base.allows_execTapWr (tap) (s : State) : s.base.allows (execTapWr tap s) := by unfold execTapWr; simp; split <;> simp
@[simp] theorem Base.allows_execTapData (tap) (s : State) : s.base.allows (execTapData tap s) := by
  unfold execTapData
  dsimp only
  repeat' split
  all_goals simp

@[simp] theorem Base.allows_execRefreshWindow (w) (s : State) : s.base.allows (execRefreshWindow w s) := by unfold execRefreshWindow; simp
@[simp] theorem Base.allows_execPatrolScrub (tap found) (s : State) : s.base.allows (execPatrolScrub tap found s) := by unfold execPatrolScrub; simp
@[simp] theorem Base.allows_execRmapGo (p v) (s : State) : s.base.allows (execRmapGo p v s) := by unfold execRmapGo; simp
@[simp] theorem Base.allows_execRowRemap (tap found) (s : State) : s.base.allows (execRowRemap tap found s) := by
  unfold execRowRemap; simp; split <;> simp

@[simp] theorem Base.allows_execStageFill (tap line e) (s : State) : s.base.allows (execStageFill tap line e s) := by
  unfold execStageFill
  dsimp only
  repeat' split
  all_goals simp

@[simp] theorem Base.allows_execStageInvalidate (tap line) (s : State) : s.base.allows (execStageInvalidate tap line s) := by
  unfold execStageInvalidate; simp; split <;> simp

@[simp] theorem Base.allows_execStageWriteback (tap line) (s : State) : s.base.allows (execStageWriteback tap line s) := by
  unfold execStageWriteback; simp; split <;> simp

@[simp] theorem Base.allows_execLpRetrain (p v) (s : State) : s.base.allows (execLpRetrain p v s) := by unfold execLpRetrain; simp
@[simp] theorem Base.allows_execLpRetrainDone (ch) (s : State) : s.base.allows (execLpRetrainDone ch s) := by unfold execLpRetrainDone; simp
@[simp] theorem Base.allows_execPrefetchFetch (region stream) (s : State) : s.base.allows (execPrefetchFetch region stream s) := by
  unfold execPrefetchFetch
  dsimp only
  repeat' split
  all_goals simp

@[simp] theorem Base.allows_execElogRead (p) (s : State) : s.base.allows (execElogRead p s) := by unfold execElogRead; simp

/-! ### Commands of Machine/Memory.lean -/

@[simp] theorem Base.allows_execLdw (c t gd ga off) (s : State) : s.base.allows (execLdw c t gd ga off s) := Base.allows_issue fun u h => by simp [h]
@[simp] theorem Base.allows_execLdh (c t gd ga off) (s : State) : s.base.allows (execLdh c t gd ga off s) := Base.allows_issue fun u h => by simp [h]
@[simp] theorem Base.allows_execLdhu (c t gd ga off) (s : State) : s.base.allows (execLdhu c t gd ga off s) :=
  Base.allows_issue fun u h => by simp [h]

@[simp] theorem Base.allows_execLdb (c t gd ga off) (s : State) : s.base.allows (execLdb c t gd ga off s) := Base.allows_issue fun u h => by simp [h]
@[simp] theorem Base.allows_execLdbu (c t gd ga off) (s : State) : s.base.allows (execLdbu c t gd ga off s) :=
  Base.allows_issue fun u h => by simp [h]

@[simp] theorem Base.allows_execLds (c t gd off) (s : State) : s.base.allows (execLds c t gd off s) := Base.allows_issue fun u h => by simp [h]
@[simp] theorem Base.allows_execPop (c t gd) (s : State) : s.base.allows (execPop c t gd s) := Base.allows_issue fun u h => by simp [h]
@[simp] theorem Base.allows_execVld (c t vd ga off) (s : State) : s.base.allows (execVld c t vd ga off s) := Base.allows_issue fun u h => by simp [h]
@[simp] theorem Base.allows_execVldbc (c t vd ga off) (s : State) : s.base.allows (execVldbc c t vd ga off s) :=
  Base.allows_issue fun u h => by simp [h]

@[simp] theorem Base.allows_execStw (c t gs ga off) (s : State) : s.base.allows (execStw c t gs ga off s) := Base.allows_issue fun u h => by simp [h]
@[simp] theorem Base.allows_execSth (c t gs ga off) (s : State) : s.base.allows (execSth c t gs ga off s) := Base.allows_issue fun u h => by simp [h]
@[simp] theorem Base.allows_execStb (c t gs ga off) (s : State) : s.base.allows (execStb c t gs ga off s) := Base.allows_issue fun u h => by simp [h]
@[simp] theorem Base.allows_execSts (c t gs off) (s : State) : s.base.allows (execSts c t gs off s) := Base.allows_issue fun u h => by simp [h]
@[simp] theorem Base.allows_execPush (c t gs) (s : State) : s.base.allows (execPush c t gs s) := Base.allows_issue fun u h => by simp [h]
@[simp] theorem Base.allows_execVst (c t vs ga off) (s : State) : s.base.allows (execVst c t vs ga off s) := Base.allows_issue fun u h => by simp [h]
@[simp] theorem Base.allows_execConsume (c t r) (s : State) : s.base.allows (execConsume c t r s) := Base.allows_issue fun u h => by
  dsimp only
  repeat' split
  all_goals simp [h]

/-! ### Commands of Machine/Host.lean -/

@[simp] theorem Base.allows_execMemCpl (tag data) (s : State) : s.base.allows (execMemCpl tag data s) := by
  unfold execMemCpl
  repeat' split
  all_goals simp

@[simp] theorem Base.allows_execHostLinkRecover (s : State) : s.base.allows (execHostLinkRecover s) := by unfold execHostLinkRecover; simp
@[simp] theorem Base.allows_execCqTail (ring v) (s : State) : s.base.allows (execCqTail ring v s) := by unfold execCqTail; simp
@[simp] theorem Base.allows_execCqHead (ring v) (s : State) : s.base.allows (execCqHead ring v s) := by unfold execCqHead; simp
@[simp] theorem Base.allows_execRingConfigWrite (p v) (s : State) : s.base.allows (execRingConfigWrite p v s) := by unfold execRingConfigWrite; simp
@[simp] theorem Base.allows_execCompletionWrite (ring) (s : State) : s.base.allows (execCompletionWrite ring s) := by
  unfold execCompletionWrite; dsimp only; split <;> simp

@[simp] theorem Base.allows_execMsi (ring) (s : State) : s.base.allows (execMsi ring s) := by unfold execMsi; simp
@[simp] theorem Base.allows_execHb (s : State) : s.base.allows (execHb s) := by unfold execHb; simp
@[simp] theorem Base.allows_execCommandTimeout (ring cid) (s : State) : s.base.allows (execCommandTimeout ring cid s) := by
  unfold execCommandTimeout
  repeat' split
  all_goals simp

@[simp] theorem Base.allows_execUnlistedOpcode (ring cid) (s : State) : s.base.allows (execUnlistedOpcode ring cid s) := by
  unfold execUnlistedOpcode; simp

/-! ### Commands of Machine/Spindle.lean -/

@[simp] theorem Base.allows_execMarker (s : State) : s.base.allows (execMarker s) := by unfold execMarker; simp
@[simp] theorem Base.allows_execMarkerArrive (port m) (s : State) : s.base.allows (execMarkerArrive port m s) := by unfold execMarkerArrive; simp
@[simp] theorem Base.allows_execMarkerMiss (port) (s : State) : s.base.allows (execMarkerMiss port s) := by unfold execMarkerMiss; simp
@[simp] theorem Base.allows_execStepped (s : State) : s.base.allows (execStepped s) := by unfold execStepped; simp
@[simp] theorem Base.allows_execLost (s : State) : s.base.allows (execLost s) := by unfold execLost; simp
@[simp] theorem Base.allows_execSpnCtrlWrite (p v) (s : State) : s.base.allows (execSpnCtrlWrite p v s) := by unfold execSpnCtrlWrite; simp
@[simp] theorem Base.allows_execMasterEnter (s : State) : s.base.allows (execMasterEnter s) := by unfold execMasterEnter; split <;> simp
@[simp] theorem Base.allows_execMasterLeave (s : State) : s.base.allows (execMasterLeave s) := by unfold execMasterLeave; split <;> simp
@[simp] theorem Base.allows_execRefclkLoss (s : State) : s.base.allows (execRefclkLoss s) := by unfold execRefclkLoss; simp
@[simp] theorem Base.allows_execPllLock (s : State) : s.base.allows (execPllLock s) := by unfold execPllLock; simp
@[simp] theorem Base.allows_execSlewing (s : State) : s.base.allows (execSlewing s) := by unfold execSlewing; simp
@[simp] theorem Base.allows_execRestCmd (p v) (s : State) : s.base.allows (execRestCmd p v s) := by unfold execRestCmd; simp
@[simp] theorem Base.allows_execRestRevolution (bed) (s : State) : s.base.allows (execRestRevolution bed s) := by
  unfold execRestRevolution; split <;> simp

/-! ### Commands of Machine/Firmware.lean -/

@[simp] theorem Base.allows_execStartUp (img found) (s : State) : s.base.allows (execStartUp img found s) := by unfold execStartUp; simp
@[simp] theorem Base.allows_execStepTime (s : State) : s.base.allows (execStepTime s) := by unfold execStepTime; simp
@[simp] theorem Base.allows_execRecoveryGo (p wrflash img) (s : State) : s.base.allows (execRecoveryGo p wrflash img s) := by
  unfold execRecoveryGo; simp

@[simp] theorem Base.allows_execReboot (p) (s : State) : s.base.allows (execReboot p s) := by
  unfold execReboot
  rw [Base.allows_next]
  split <;> simp [State.ack]

@[simp] theorem Base.allows_execFwInfo (ring cid) (s : State) : s.base.allows (execFwInfo ring cid s) := by unfold execFwInfo; simp
@[simp] theorem Base.allows_execFwLoad (ring cid img) (s : State) : s.base.allows (execFwLoad ring cid img s) := by unfold execFwLoad; simp
@[simp] theorem Base.allows_execFwActivate (ring cid) (s : State) : s.base.allows (execFwActivate ring cid s) := by unfold execFwActivate; simp
@[simp] theorem Base.allows_execHandover (s : State) : s.base.allows (execHandover s) := by
  unfold execHandover
  repeat' split
  all_goals simp

@[simp] theorem Base.allows_execHandoverConfirm (s : State) : s.base.allows (execHandoverConfirm s) := by unfold execHandoverConfirm; split <;> simp
@[simp] theorem Base.allows_execHandoverConfirmTimeout (s : State) : s.base.allows (execHandoverConfirmTimeout s) := by
  unfold execHandoverConfirmTimeout; split <;> simp

@[simp] theorem Base.allows_execFlashWriteDone (ok) (s : State) : s.base.allows (execFlashWriteDone ok s) := by
  unfold execFlashWriteDone; split <;> simp

@[simp] theorem Base.allows_execSvnCommit (ring cid) (s : State) : s.base.allows (execSvnCommit ring cid s) := by unfold execSvnCommit; simp
@[simp] theorem Base.allows_execKeyRevoke (ring cid) (s : State) : s.base.allows (execKeyRevoke ring cid s) := by unfold execKeyRevoke; simp
@[simp] theorem Base.allows_execTest (ring cid failed) (s : State) : s.base.allows (execTest ring cid failed s) := by unfold execTest; simp
@[simp] theorem Base.allows_execTestEnd (ring cid) (s : State) : s.base.allows (execTestEnd ring cid s) := by unfold execTestEnd; simp
@[simp] theorem Base.allows_execKeyDerivation (keys) (s : State) : s.base.allows (execKeyDerivation keys s) := by unfold execKeyDerivation; simp
@[simp] theorem Base.allows_execIdentity (ring cid) (s : State) : s.base.allows (execIdentity ring cid s) := by unfold execIdentity; simp
@[simp] theorem Base.allows_execAttest (ring cid nonce sigs) (s : State) : s.base.allows (execAttest ring cid nonce sigs s) := by
  unfold execAttest; simp

/-! ### Commands of Machine/Power.lean -/

@[simp] theorem Base.allows_execPowerApplied (decivolts) (s : State) : s.base.allows (execPowerApplied decivolts s) := by
  unfold execPowerApplied; simp

@[simp] theorem Base.allows_execPowerSequence (s : State) : s.base.allows (execPowerSequence s) := by unfold execPowerSequence; simp
@[simp] theorem Base.allows_execSeqfail (rail) (s : State) : s.base.allows (execSeqfail rail s) := by unfold execSeqfail; simp
@[simp] theorem Base.allows_execPowerDown (s : State) : s.base.allows (execPowerDown s) := by unfold execPowerDown; simp
@[simp] theorem Base.allows_execPowerLoss (s : State) : s.base.allows (execPowerLoss s) := by unfold execPowerLoss; simp
@[simp] theorem Base.allows_execOvervoltage (s : State) : s.base.allows (execOvervoltage s) := by unfold execOvervoltage; simp
@[simp] theorem Base.allows_execInputLow (decivolts) (s : State) : s.base.allows (execInputLow decivolts s) := by unfold execInputLow; simp
@[simp] theorem Base.allows_execInputHigh (decivolts) (s : State) : s.base.allows (execInputHigh decivolts s) := by unfold execInputHigh; simp
@[simp] theorem Base.allows_execMarginRead (region low high) (s : State) : s.base.allows (execMarginRead region low high s) := by
  unfold execMarginRead; simp

@[simp] theorem Base.allows_execMargin (region) (s : State) : s.base.allows (execMargin region s) := by unfold execMargin; simp
@[simp] theorem Base.allows_execTemperatureReading (region die stack inlet outlet) (s : State) : s.base.allows (execTemperatureReading region die stack inlet outlet s) := by
  unfold execTemperatureReading; simp

@[simp] theorem Base.allows_execThermalTrip (region die stack) (s : State) : s.base.allows (execThermalTrip region die stack s) := by
  unfold execThermalTrip; simp

@[simp] theorem Base.allows_execPowerWindow (watts idle) (s : State) : s.base.allows (execPowerWindow watts idle s) := by unfold execPowerWindow; simp
@[simp] theorem Base.allows_execExtest (ports link) (s : State) : s.base.allows (execExtest ports link s) := by unfold execExtest; simp

/-! ### Commands of Machine/Flag.lean -/

@[simp] theorem Base.allows_execWaitf (c t gd n p) (s : State) : s.base.allows (execWaitf c t gd n p s) := Base.allows_issue fun u h => by simp [h]
@[simp] theorem Base.allows_execSetf (c t gc n) (s : State) : s.base.allows (execSetf c t gc n s) := Base.allows_issue fun u h => by simp [h]
@[simp] theorem Base.allows_execClrf (c t gc n) (s : State) : s.base.allows (execClrf c t gc n s) := Base.allows_issue fun u h => by simp [h]
@[simp] theorem Base.allows_execTstf (c t gd n) (s : State) : s.base.allows (execTstf c t gd n s) := Base.allows_issue fun u h => by simp [h]
@[simp] theorem Base.allows_execWaitb (c t gd b) (s : State) : s.base.allows (execWaitb c t gd b s) := Base.allows_issue fun u h => by simp [h]
@[simp] theorem Base.allows_execArrb (c t b) (s : State) : s.base.allows (execArrb c t b s) := Base.allows_issue fun u h => by simp [h]
@[simp] theorem Base.allows_execFlagMessageArrive (c) (s : State) : s.base.allows (execFlagMessageArrive c s) := by unfold execFlagMessageArrive; simp
@[simp] theorem Base.allows_execBarrierArrival (c) (s : State) : s.base.allows (execBarrierArrival c s) := by unfold execBarrierArrival; simp
@[simp] theorem Base.allows_execBarrierNotice (c) (s : State) : s.base.allows (execBarrierNotice c s) := by
  refine Base.allows_withCore (b := s.base) ?_
  rw [Base.allows_next, foldl_keeps State.base _ (fun a m => by split <;> simp)]
  simp

@[simp] theorem Base.allows_execFlagSet (p c mask) (s : State) : s.base.allows (execFlagSet p c mask s) := by unfold execFlagSet; simp
@[simp] theorem Base.allows_execFlagClr (p c mask) (s : State) : s.base.allows (execFlagClr p c mask s) := by unfold execFlagClr; simp
@[simp] theorem Base.allows_execComplete (p c bar) (s : State) : s.base.allows (execComplete p c bar s) := by unfold execComplete; simp
@[simp] theorem Base.allows_execBarrierAbandon (p c bar) (s : State) : s.base.allows (execBarrierAbandon p c bar s) := by
  unfold execBarrierAbandon; simp

@[simp] theorem Base.allows_execBarrierReset (p c bar) (s : State) : s.base.allows (execBarrierReset p c bar s) := by unfold execBarrierReset; simp

/-! ### Commands of Machine/Thread.lean -/

@[simp] theorem Base.allows_execWaitt (c t) (s : State) : s.base.allows (execWaitt c t s) := Base.allows_issue fun u h => by simp [h]
@[simp] theorem Base.allows_execThreadWake (c t) (s : State) : s.base.allows (execThreadWake c t s) := by
  unfold execThreadWake; dsimp only; split <;> simp

@[simp] theorem Base.allows_execTimerFire (c t) (s : State) : s.base.allows (execTimerFire c t s) := by unfold execTimerFire; simp
@[simp] theorem Base.allows_execWatchdog (c t) (s : State) : s.base.allows (execWatchdog c t s) := by unfold execWatchdog; simp
@[simp] theorem Base.allows_execLock (c t gd n) (s : State) : s.base.allows (execLock c t gd n s) :=
  Base.allows_issue fun u h => by
    simp only [Res.keeps_ite, Res.keeps_seq]
    refine ⟨fun _ => by simp [h], fun _ => ⟨fun _ => by simp [h], fun _ => ⟨fun _ => by simp [h], fun _ => ?_⟩⟩⟩
    have waits := keeps_waitOn c t gd 3 n.toNat h
    split
    · next w => rw [w] at waits; simpa using waits
    · exact waits

@[simp] theorem Base.allows_execTrylock (c t gd n) (s : State) : s.base.allows (execTrylock c t gd n s) := Base.allows_issue fun u h => by simp [h]
@[simp] theorem Base.allows_execUnlock (c t n) (s : State) : s.base.allows (execUnlock c t n s) := Base.allows_issue fun u h => by simp [h]
@[simp] theorem Base.allows_execLrst (c t n) (s : State) : s.base.allows (execLrst c t n s) := Base.allows_issue fun u h => by simp [h]
@[simp] theorem Base.allows_execLockWposWrite (p c v) (s : State) : s.base.allows (execLockWposWrite p c v s) := by unfold execLockWposWrite; simp
@[simp] theorem Base.allows_execThrst (c t k) (s : State) : s.base.allows (execThrst c t k s) := Base.allows_issue fun u h => by simp [h]
@[simp] theorem Base.allows_execThstart (c t k r) (s : State) : s.base.allows (execThstart c t k r s) := Base.allows_issue fun u h => by simp [h]
@[simp] theorem Base.allows_execThreadReset (p c t) (s : State) : s.base.allows (execThreadReset p c t s) := by unfold execThreadReset; simp
@[simp] theorem Base.allows_execThreadStart (p c t) (s : State) : s.base.allows (execThreadStart p c t s) := by unfold execThreadStart; simp
@[simp] theorem Base.allows_execCoreReset (p c) (s : State) : s.base.allows (execCoreReset p c s) := by unfold execCoreReset; simp
@[simp] theorem Base.allows_execFaultReport (src) (s : State) : s.base.allows (execFaultReport src s) := by unfold execFaultReport; split <;> simp
@[simp] theorem Base.allows_execRdfs (c t gd) (s : State) : s.base.allows (execRdfs c t gd s) := Base.allows_issue fun u h => by simp [h]
@[simp] theorem Base.allows_execPmDataAccess (p c wr) (s : State) : s.base.allows (execPmDataAccess p c wr s) := by unfold execPmDataAccess; simp

/-! ### Commands of Machine/Debug.lean -/

@[simp] theorem Base.allows_execStop (p c t) (s : State) : s.base.allows (execStop p c t s) := by unfold execStop; simp
@[simp] theorem Base.allows_execDebugRun (p c t) (s : State) : s.base.allows (execDebugRun p c t s) := by unfold execDebugRun; simp
@[simp] theorem Base.allows_execStep (p c t) (s : State) : s.base.allows (execStep p c t s) := by unfold execStep; simp
@[simp] theorem Base.allows_execBreakpoint (c t n) (s : State) : s.base.allows (execBreakpoint c t n s) := by unfold execBreakpoint; simp
@[simp] theorem Base.allows_execBedStop (c) (s : State) : s.base.allows (execBedStop c s) := by unfold execBedStop; split <;> simp
@[simp] theorem Base.allows_execDbgBedcmdStop (p bed) (s : State) : s.base.allows (execDbgBedcmdStop p bed s) := by unfold execDbgBedcmdStop; simp
@[simp] theorem Base.allows_execDbgBedcmdRun (p bed) (s : State) : s.base.allows (execDbgBedcmdRun p bed s) := by unfold execDbgBedcmdRun; simp
@[simp] theorem Base.allows_execTrdataAccess (p c wr) (s : State) : s.base.allows (execTrdataAccess p c wr s) := by unfold execTrdataAccess; simp
@[simp] theorem Base.allows_execSpdataAccess (p c wr) (s : State) : s.base.allows (execSpdataAccess p c wr s) := by
  unfold execSpdataAccess; split <;> simp

@[simp] theorem Base.allows_execCaptureWindowOpen (c) (s : State) : s.base.allows (execCaptureWindowOpen c s) := by
  unfold execCaptureWindowOpen; split <;> simp

@[simp] theorem Base.allows_execCaptureWindowClose (c) (s : State) : s.base.allows (execCaptureWindowClose c s) := by
  unfold execCaptureWindowClose; dsimp only; split <;> simp

@[simp] theorem Base.allows_execTraceRead (p c) (s : State) : s.base.allows (execTraceRead p c s) := by unfold execTraceRead; simp

/-! ### Commands of Machine/Tile.lean -/

@[simp] theorem Base.allows_execTcfg (c t tb fmt rowsM1 bprM1 pm) (s : State) : s.base.allows (execTcfg c t tb fmt rowsM1 bprM1 pm s) :=
  Base.allows_issue fun u h => by simp [h]

theorem keeps_imageFault {s r b} {im : Option (Nat × Nat × Nat × Nat)} (h : State.base s = b) (f : im.bind (imageFault s) = some r) : r.keeps b := by
  cases im with
  | none => cases f
  | some m =>
    simp only [Option.bind_some, imageFault] at f
    split at f <;> cases f
    exact h

@[simp] theorem Base.allows_execTld (c t tb ga gs sfmt tr rnd) (s : State) : s.base.allows (execTld c t tb ga gs sfmt tr rnd s) :=
  Base.allows_issue fun u h => by
    dsimp only
    split
    · simp [h]
    · split
      · next out => exact keeps_imageFault h out
      · simp [h]

@[simp] theorem Base.allows_execTdrain (c t tc ga gs opt) (s : State) : s.base.allows (execTdrain c t tc ga gs opt s) :=
  Base.allows_issue fun u h => by
    dsimp only
    split
    · simp [h]
    · split
      · next out => exact keeps_imageFault h out
      · simp [h]

@[simp] theorem Base.allows_execTmma (c t tc ta tb q z) (s : State) : s.base.allows (execTmma c t tc ta tb q z s) := Base.allows_issue fun u h => by
  dsimp only
  repeat' split
  all_goals simp [h]

@[simp] theorem Base.allows_execTrel (c t tb) (s : State) : s.base.allows (execTrel c t tb s) := Base.allows_issue fun u h => by simp [h]
@[simp] theorem Base.allows_execTzero (c t tb) (s : State) : s.base.allows (execTzero c t tb s) := Base.allows_issue fun u h => by
  dsimp only
  repeat' split
  all_goals simp [h]

@[simp] theorem Base.allows_execTflags (c t gd tb) (s : State) : s.base.allows (execTflags c t gd tb s) := Base.allows_issue fun u h => by
  dsimp only
  repeat' split
  all_goals simp [h]

@[simp] theorem Base.allows_execTclrf (c t tb) (s : State) : s.base.allows (execTclrf c t tb s) := Base.allows_issue fun u h => by
  dsimp only
  repeat' split
  all_goals simp [h]

@[simp] theorem Base.allows_execTxcap (c t gd) (s : State) : s.base.allows (execTxcap c t gd s) := Base.allows_issue fun u h => by simp [h]
@[simp] theorem Base.allows_execTileStart (c q) (s : State) : s.base.allows (execTileStart c q s) := by
  unfold execTileStart; dsimp only; split <;> simp

@[simp] theorem Base.allows_execMatrixRowStep (c) (s : State) : s.base.allows (execMatrixRowStep c s) := by
  unfold execMatrixRowStep
  repeat' split
  all_goals simp

@[simp] theorem Base.allows_execTmmaComplete (c fill) (s : State) : s.base.allows (execTmmaComplete c fill s) := by
  unfold execTmmaComplete
  dsimp only
  repeat' split
  all_goals simp

@[simp] theorem Base.allows_execTldComplete (c) (s : State) : s.base.allows (execTldComplete c s) := by
  unfold execTldComplete
  repeat' split
  all_goals simp

@[simp] theorem Base.allows_execTdrainComplete (c) (s : State) : s.base.allows (execTdrainComplete c s) := by
  unfold execTdrainComplete
  repeat' split
  all_goals simp

@[simp] theorem Base.allows_execRte (c t) (s : State) : s.base.allows (execRte c t s) := Base.allows_issue fun u h => by
  dsimp only
  repeat' split
  all_goals simp [h]

/-! ### Commands of Machine/CoreRegs.lean -/

@[simp] theorem Base.allows_execTileQueuePush (p c v) (s : State) : s.base.allows (execTileQueuePush p c v s) := by unfold execTileQueuePush; simp
@[simp] theorem Base.allows_execTileDdataAccess (p c wr) (s : State) : s.base.allows (execTileDdataAccess p c wr s) := by
  unfold execTileDdataAccess; simp

@[simp] theorem Base.allows_execGuardWrite (p c n v) (s : State) : s.base.allows (execGuardWrite p c n v s) := by unfold execGuardWrite; simp
@[simp] theorem Base.allows_execVdataAccess (p c wr) (s : State) : s.base.allows (execVdataAccess p c wr s) := by unfold execVdataAccess; simp
@[simp] theorem Base.allows_execPsndataAccess (p c wr) (s : State) : s.base.allows (execPsndataAccess p c wr s) := by unfold execPsndataAccess; simp
@[simp] theorem Base.allows_execDmaXinv (p c v) (s : State) : s.base.allows (execDmaXinv p c v s) := by unfold execDmaXinv; simp

/-! ### Commands of Machine/Fabric.lean -/

@[simp] theorem Base.allows_execFlitReceive (port raw) (s : State) : s.base.allows (execFlitReceive port raw s) := by unfold execFlitReceive; simp
@[simp] theorem Base.allows_execNak (port lack) (s : State) : s.base.allows (execNak port lack s) := by unfold execNak; simp
@[simp] theorem Base.allows_execReplayTimeout (port) (s : State) : s.base.allows (execReplayTimeout port s) := by unfold execReplayTimeout; simp
@[simp] theorem Base.allows_execIdle (port) (s : State) : s.base.allows (execIdle port s) := by unfold execIdle; simp
@[simp] theorem Base.allows_execLinkRetryBudget (port) (s : State) : s.base.allows (execLinkRetryBudget port s) :=
  Base.allows_withPort fun p => by
    rw [Base.allows_ite]
    refine ⟨fun _ => by simp, fun _ => ?_⟩
    split <;> simp

@[simp] theorem Base.allows_execSignalLoss (port) (s : State) : s.base.allows (execSignalLoss port s) := by unfold execSignalLoss; simp
@[simp] theorem Base.allows_execTrain (path port) (s : State) : s.base.allows (execTrain path port s) := by unfold execTrain; simp
@[simp] theorem Base.allows_execPortTrained (port ok delay pmod pport) (s : State) : s.base.allows (execPortTrained port ok delay pmod pport s) := by
  unfold execPortTrained; simp

@[simp] theorem Base.allows_execPortRetrain (port) (s : State) : s.base.allows (execPortRetrain port s) := by
  unfold execPortRetrain; simp; split <;> simp

@[simp] theorem Base.allows_execPortDisable (path port) (s : State) : s.base.allows (execPortDisable path port s) := by unfold execPortDisable; simp
@[simp] theorem Base.allows_execBrepoLinkTraining (s : State) : s.base.allows (execBrepoLinkTraining s) := by unfold execBrepoLinkTraining; simp
@[simp] theorem Base.allows_execPacketReceive (port vl pkt) (s : State) : s.base.allows (execPacketReceive port vl pkt s) := by
  unfold execPacketReceive; simp

@[simp] theorem Base.allows_execAck (ctx) (s : State) : s.base.allows (execAck ctx s) := by unfold execAck; simp
@[simp] theorem Base.allows_execRetransmit (ctx) (s : State) : s.base.allows (execRetransmit ctx s) := by unfold execRetransmit; simp; split <;> simp
@[simp] theorem Base.allows_execFabOut (c) (s : State) : s.base.allows (execFabOut c s) := by
  unfold execFabOut
  dsimp only
  repeat' split
  all_goals simp

@[simp] theorem Base.allows_execFabIn (ctx) (s : State) : s.base.allows (execFabIn ctx s) := by
  unfold execFabIn
  dsimp only
  repeat' split
  all_goals simp

@[simp] theorem Base.allows_execFxRtdataAccess (p wr) (s : State) : s.base.allows (execFxRtdataAccess p wr s) := by
  unfold execFxRtdataAccess; split <;> simp

/-! ### Commands of Machine/Xlate.lean -/

@[simp] theorem Base.allows_execTranslationWalk (c ch) (s : State) : s.base.allows (execTranslationWalk c ch s) := by
  unfold execTranslationWalk
  repeat' split
  all_goals simp

@[simp] theorem Base.allows_execPageMigrate (job vpn frame) (s : State) : s.base.allows (execPageMigrate job vpn frame s) := by
  unfold execPageMigrate; simp

@[simp] theorem Base.allows_execFaultResolve (at_ frame) (s : State) : s.base.allows (execFaultResolve at_ frame s) := by
  unfold execFaultResolve
  repeat' split
  all_goals simp

@[simp] theorem Base.allows_execMtXinv (p v) (s : State) : s.base.allows (execMtXinv p v s) := by unfold execMtXinv; simp
@[simp] theorem Base.allows_execFxXinv (p v) (s : State) : s.base.allows (execFxXinv p v s) := by unfold execFxXinv; simp

/-! ### Commands of Machine/Pass.lean -/

@[simp] theorem Base.allows_execDone (job) (s : State) : s.base.allows (execDone job s) := by unfold execDone; simp
@[simp] theorem Base.allows_execAgreeDone (job) (s : State) : s.base.allows (execAgreeDone job s) := by unfold execAgreeDone; simp
@[simp] theorem Base.allows_execAgreeFlush (job) (s : State) : s.base.allows (execAgreeFlush job s) :=
  Base.allows_withJob fun j => by simp; split <;> simp

@[simp] theorem Base.allows_execFlush (job) (s : State) : s.base.allows (execFlush job s) := by unfold execFlush; simp
@[simp] theorem Base.allows_execWriteApply (job src) (s : State) : s.base.allows (execWriteApply job src s) := Base.allows_withJob fun j => by
  dsimp only
  repeat' split
  all_goals simp

@[simp] theorem Base.allows_execFlushed (job) (s : State) : s.base.allows (execFlushed job s) :=
  Base.allows_withJob fun j => by
    rw [Base.allows_ite]
    refine ⟨fun _ => by simp, fun _ => ?_⟩
    simp only [Base.allows_next, State.base_onJob, State.base_eachCore _ _ _ State.base_prepCore]
    exact Base.leads_foldl (fun u x k => by simp [k]) _ (by simp)

@[simp] theorem Base.allows_execAgreeFlushed (job) (s : State) : s.base.allows (execAgreeFlushed job s) := by unfold execAgreeFlushed; simp
@[simp] theorem Base.allows_execBoundary (job) (s : State) : s.base.allows (execBoundary job s) := Base.allows_withJob fun j => by
  repeat' split
  all_goals simp

@[simp] theorem Base.allows_execPassEntry (job) (s : State) : s.base.allows (execPassEntry job s) := Base.allows_withJob fun j => by split <;> simp
@[simp] theorem Base.allows_execPassBoundary (job) (s : State) : s.base.allows (execPassBoundary job s) :=
  Base.allows_withJob fun j => by split <;> simp

@[simp] theorem Base.allows_execPassDeadline (job) (s : State) : s.base.allows (execPassDeadline job s) :=
  Base.allows_withJob fun j => by split <;> simp

@[simp] theorem Base.allows_execRollback (job) (s : State) : s.base.allows (execRollback job s) := by unfold execRollback; simp
@[simp] theorem Base.allows_execFail (job) (s : State) : s.base.allows (execFail job s) := Base.allows_withJob fun j => by split <;> simp
@[simp] theorem Base.allows_execRerun (job) (s : State) : s.base.allows (execRerun job s) := Base.allows_withJob fun j => by
  dsimp only
  repeat' split
  all_goals simp

@[simp] theorem Base.allows_execAgreementSilence (job rank) (s : State) : s.base.allows (execAgreementSilence job rank s) := Base.allows_withJob fun j => by
  dsimp only
  repeat' split
  all_goals simp

@[simp] theorem Base.allows_execNeighbourUnroutable (job rank) (s : State) : s.base.allows (execNeighbourUnroutable job rank s) :=
  Base.allows_withJob fun j => by simp; split <;> simp

@[simp] theorem Base.allows_execHeldTimeout (job) (s : State) : s.base.allows (execHeldTimeout job s) :=
  Base.allows_withJob fun j => by split <;> simp

/-! ### Commands of Machine/Preempt.lean -/

@[simp] theorem Base.allows_execPreemptFreeze (job) (s : State) : s.base.allows (execPreemptFreeze job s) :=
  Base.allows_withJob fun j => by split <;> simp

@[simp] theorem Base.allows_execCoreSave (c) (s : State) : s.base.allows (execCoreSave c s) := by unfold execCoreSave; split <;> simp
@[simp] theorem Base.allows_execCoreRestore (c) (s : State) : s.base.allows (execCoreRestore c s) := by unfold execCoreRestore; split <;> simp
@[simp] theorem Base.allows_execPreemptResume (job) (s : State) : s.base.allows (execPreemptResume job s) :=
  Base.allows_withJob fun j => by split <;> simp

@[simp] theorem Base.allows_execAgreePreempt (job) (s : State) : s.base.allows (execAgreePreempt job s) := by unfold execAgreePreempt; simp
@[simp] theorem Base.allows_execAgreeResume (job) (s : State) : s.base.allows (execAgreeResume job s) := by unfold execAgreeResume; simp

/-! ### Commands of Machine/HostCmd.lean -/

@[simp] theorem Base.allows_execConfig (ring cid) (s : State) : s.base.allows (execConfig ring cid s) := by unfold execConfig; simp
@[simp] theorem Base.allows_execRoutes (ring cid buf) (s : State) : s.base.allows (execRoutes ring cid buf s) := by unfold execRoutes; simp
@[simp] theorem Base.allows_execCancel (ring cid) (s : State) : s.base.allows (execCancel ring cid s) := by unfold execCancel; simp
@[simp] theorem Base.allows_execPreempt (ring cid) (s : State) : s.base.allows (execPreempt ring cid s) := by unfold execPreempt; simp
@[simp] theorem Base.allows_execResume (ring cid) (s : State) : s.base.allows (execResume ring cid s) := by unfold execResume; simp
@[simp] theorem Base.allows_execLoadpat (ring cid) (s : State) : s.base.allows (execLoadpat ring cid s) :=
  Base.allows_withHostCmd fun x => Base.allows_withCmdJob fun j => by
    split <;> simp

@[simp] theorem Base.allows_execSwitch (ring cid) (s : State) : s.base.allows (execSwitch ring cid s) := by unfold execSwitch; simp
@[simp] theorem Base.allows_execCopyIn (ring cid buf) (s : State) : s.base.allows (execCopyIn ring cid buf s) := Base.allows_withCmd fun x => Base.allows_withCmdJob fun j => by
  dsimp only
  repeat' split
  all_goals simp

@[simp] theorem Base.allows_execCopyOut (ring cid) (s : State) : s.base.allows (execCopyOut ring cid s) := Base.allows_withCmd fun x => Base.allows_withCmdJob fun j => by
  dsimp only
  repeat' split
  all_goals simp

@[simp] theorem Base.allows_execReadDtab (ring cid) (s : State) : s.base.allows (execReadDtab ring cid s) := by unfold execReadDtab; simp
@[simp] theorem Base.allows_execJobStatus (ring cid) (s : State) : s.base.allows (execJobStatus ring cid s) := by unfold execJobStatus; simp

/-! ### Commands of Machine/Launch.lean -/

@[simp] theorem Base.allows_execLaunch (ring cid image) (s : State) : s.base.allows (execLaunch ring cid image s) :=
  Base.allows_withCmd fun x => by
    dsimp only
    rw [Base.allows_ite]
    refine ⟨fun _ => by simp, fun _ => ?_⟩
    split
    · simp
    · split <;> simp

/-! ### Commands of Machine/Recovery.lean -/

@[simp] theorem Base.allows_execReplace (ring cid) (s : State) : s.base.allows (execReplace ring cid s) := by unfold execReplace; simp
@[simp] theorem Base.allows_execRetirementDecision (row col cause) (s : State) : s.base.allows (execRetirementDecision row col cause s) := by
  unfold execRetirementDecision; simp

@[simp] theorem Base.allows_execRetirementEffect (row) (s : State) : s.base.allows (execRetirementEffect row s) := by
  unfold execRetirementEffect; split <;> simp

@[simp] theorem Base.allows_execRetire (ring cid sect) (s : State) : s.base.allows (execRetire ring cid sect s) :=
  Base.allows_withHostCmd fun x => Base.allows_withCmdJob fun j => by
    split
    · simp
    · rw [Base.allows_ite]
      refine ⟨fun _ => by simp, fun _ => ?_⟩
      dsimp only
      split <;> simp

@[simp] theorem Base.allows_execRetirementRecordWrite (s : State) : s.base.allows (execRetirementRecordWrite s) := by
  unfold execRetirementRecordWrite; simp

@[simp] theorem Base.allows_execHsElogRead (p) (s : State) : s.base.allows (execHsElogRead p s) := by unfold execHsElogRead; simp

/-! ### Commands of Machine/Reduction.lean -/

@[simp] theorem Base.allows_execScan (side bed flow) (s : State) : s.base.allows (execScan side bed flow s) := by unfold execScan; simp
@[simp] theorem Base.allows_execConvert (side bed flow) (s : State) : s.base.allows (execConvert side bed flow s) := by unfold execConvert; simp
@[simp] theorem Base.allows_execAgreed (ctx) (s : State) : s.base.allows (execAgreed ctx s) := Base.allows_withRed fun j p u h => by simp [h]
@[simp] theorem Base.allows_execResult (ctx) (s : State) : s.base.allows (execResult ctx s) := by unfold execResult; split <;> simp
@[simp] theorem Base.allows_execNexte (ctx) (s : State) : s.base.allows (execNexte ctx s) := Base.allows_withRed fun j p u h => by simp [h]
@[simp] theorem Base.allows_execReduceScan (job) (s : State) : s.base.allows (execReduceScan job s) := Base.allows_withHome fun j p u h => by simp [h]
@[simp] theorem Base.allows_execReduceData (job) (s : State) : s.base.allows (execReduceData job s) := Base.allows_withHome fun j p u h => by simp [h]
@[simp] theorem Base.allows_execContribLate (rid seg isScan) (s : State) : s.base.allows (execContribLate rid seg isScan s) := by
  unfold execContribLate; dsimp only; split <;> simp

/-! ### Commands of Machine/Access.lean -/

@[simp] theorem Base.allows_execRegisterWrite (p off width v) (s : State) : s.base.allows (execRegisterWrite p off width v s) := by
  unfold execRegisterWrite; simp

@[simp] theorem Base.allows_execPairLoRead (p off) (s : State) : s.base.allows (execPairLoRead p off s) := by unfold execPairLoRead; simp
@[simp] theorem Base.allows_execPairHiRead (p off) (s : State) : s.base.allows (execPairHiRead p off s) := by unfold execPairHiRead; simp
@[simp] theorem Base.allows_execPairHiWrite (p off v) (s : State) : s.base.allows (execPairHiWrite p off v s) := by unfold execPairHiWrite; simp
@[simp] theorem Base.allows_execPairLoWrite (p off v) (s : State) : s.base.allows (execPairLoWrite p off v s) := by unfold execPairLoWrite; simp
@[simp] theorem Base.allows_execRcRead (p off) (s : State) : s.base.allows (execRcRead p off s) := by unfold execRcRead; simp
@[simp] theorem Base.allows_execHregRd (tag off width) (s : State) : s.base.allows (execHregRd tag off width s) := by unfold execHregRd; simp
@[simp] theorem Base.allows_execHregWr (tag off width v) (s : State) : s.base.allows (execHregWr tag off width v s) := by unfold execHregWr; simp
@[simp] theorem Base.allows_execSidebandWrite (off v) (s : State) : s.base.allows (execSidebandWrite off v s) := by unfold execSidebandWrite; simp
@[simp] theorem Base.allows_execDebugAccess (p wr) (s : State) : s.base.allows (execDebugAccess p wr s) := by unfold execDebugAccess; simp

/-! ### Commands of Machine/Branch.lean -/

@[simp] theorem Base.allows_execBr (c t t15) (s : State) : s.base.allows (execBr c t t15 s) := Base.allows_issue fun u h => by simp [h]
@[simp] theorem Base.allows_execJmp (c t t15) (s : State) : s.base.allows (execJmp c t t15 s) := Base.allows_issue fun u h => by simp [h]
@[simp] theorem Base.allows_execBcc (c t cc a t15) (s : State) : s.base.allows (execBcc c t cc a t15 s) := Base.allows_issue fun u h => by simp [h]
@[simp] theorem Base.allows_execCall (c t a t15) (s : State) : s.base.allows (execCall c t a t15 s) := Base.allows_issue fun u h => by simp [h]
@[simp] theorem Base.allows_execJr (c t r) (s : State) : s.base.allows (execJr c t r s) := Base.allows_issue fun u h => by simp [h]
@[simp] theorem Base.allows_execCallr (c t r) (s : State) : s.base.allows (execCallr c t r s) := Base.allows_issue fun u h => by simp [h]
@[simp] theorem Base.allows_execRet (c t) (s : State) : s.base.allows (execRet c t s) := Base.allows_issue fun u h => by split <;> simp [h]
@[simp] theorem Base.allows_execLoop (c t lv gs e) (s : State) : s.base.allows (execLoop c t lv gs e s) := Base.allows_issue fun u h => by simp [h]
@[simp] theorem Base.allows_execLbrk (c t lv) (s : State) : s.base.allows (execLbrk c t lv s) := Base.allows_issue fun u h => by simp [h]
@[simp] theorem Base.allows_execMft (c t gd idx) (s : State) : s.base.allows (execMft c t gd idx s) := Base.allows_issue fun u h => by simp [h]
@[simp] theorem Base.allows_execMtt (c t gs idx) (s : State) : s.base.allows (execMtt c t gs idx s) := Base.allows_issue fun u h => by simp [h]
@[simp] theorem Base.allows_execTrap (c t imm) (s : State) : s.base.allows (execTrap c t imm s) := Base.allows_issue fun u h => by simp [h]
@[simp] theorem Base.allows_execReservedEncoding (c t head ext) (s : State) : s.base.allows (execReservedEncoding c t head ext s) := by
  unfold execReservedEncoding
  split
  · exact Base.allows_issue fun u h => h
  · simp

@[simp] theorem Base.allows_execHalt (c t) (s : State) : s.base.allows (execHalt c t s) := Base.allows_issue fun u h => by simp [h]
@[simp] theorem Base.allows_execSettc (c t gs) (s : State) : s.base.allows (execSettc c t gs s) := Base.allows_issue fun u h => by simp [h]
@[simp] theorem Base.allows_execClrtc (c t) (s : State) : s.base.allows (execClrtc c t s) := Base.allows_issue fun u h => by simp [h]

/-! ### Commands of Machine/Remote.lean -/

@[simp] theorem Base.allows_execRemoteRead (ctx e) (s : State) : s.base.allows (execRemoteRead ctx e s) := by unfold execRemoteRead; simp
@[simp] theorem Base.allows_execFill (ctx e) (s : State) : s.base.allows (execFill ctx e s) := by unfold execFill; simp
@[simp] theorem Base.allows_execWriteEnd (ctx) (s : State) : s.base.allows (execWriteEnd ctx s) := Base.allows_withPeer fun m j => by split <;> simp
@[simp] theorem Base.allows_execWriteAck (ctx) (s : State) : s.base.allows (execWriteAck ctx s) := Base.allows_withPeer fun m j => by split <;> simp

/-! ### Commands of Machine/Scalar.lean -/

@[simp] theorem Base.allows_execAdd (c t gd ga gb) (s : State) : s.base.allows (execAdd c t gd ga gb s) := Base.allows_issue fun u h => by simp [h]
@[simp] theorem Base.allows_execSub (c t gd ga gb) (s : State) : s.base.allows (execSub c t gd ga gb s) := Base.allows_issue fun u h => by simp [h]
@[simp] theorem Base.allows_execAnd (c t gd ga gb) (s : State) : s.base.allows (execAnd c t gd ga gb s) := Base.allows_issue fun u h => by simp [h]
@[simp] theorem Base.allows_execOr (c t gd ga gb) (s : State) : s.base.allows (execOr c t gd ga gb s) := Base.allows_issue fun u h => by simp [h]
@[simp] theorem Base.allows_execXor (c t gd ga gb) (s : State) : s.base.allows (execXor c t gd ga gb s) := Base.allows_issue fun u h => by simp [h]
@[simp] theorem Base.allows_execMul (c t gd ga gb) (s : State) : s.base.allows (execMul c t gd ga gb s) := Base.allows_issue fun u h => by simp [h]
@[simp] theorem Base.allows_execShl (c t gd ga gb) (s : State) : s.base.allows (execShl c t gd ga gb s) := Base.allows_issue fun u h => by simp [h]
@[simp] theorem Base.allows_execShr (c t gd ga gb) (s : State) : s.base.allows (execShr c t gd ga gb s) := Base.allows_issue fun u h => by simp [h]
@[simp] theorem Base.allows_execSar (c t gd ga gb) (s : State) : s.base.allows (execSar c t gd ga gb s) := Base.allows_issue fun u h => by simp [h]
@[simp] theorem Base.allows_execRot (c t gd ga gb) (s : State) : s.base.allows (execRot c t gd ga gb s) := Base.allows_issue fun u h => by simp [h]
@[simp] theorem Base.allows_execMin (c t gd ga gb) (s : State) : s.base.allows (execMin c t gd ga gb s) := Base.allows_issue fun u h => by simp [h]
@[simp] theorem Base.allows_execMax (c t gd ga gb) (s : State) : s.base.allows (execMax c t gd ga gb s) := Base.allows_issue fun u h => by simp [h]
@[simp] theorem Base.allows_execAddc (c t gd ga gb) (s : State) : s.base.allows (execAddc c t gd ga gb s) := Base.allows_issue fun u h => by simp [h]
@[simp] theorem Base.allows_execSubc (c t gd ga gb) (s : State) : s.base.allows (execSubc c t gd ga gb s) := Base.allows_issue fun u h => by simp [h]
@[simp] theorem Base.allows_execMulh (c t gd ga gb) (s : State) : s.base.allows (execMulh c t gd ga gb s) := Base.allows_issue fun u h => by simp [h]
@[simp] theorem Base.allows_execMulhu (c t gd ga gb) (s : State) : s.base.allows (execMulhu c t gd ga gb s) :=
  Base.allows_issue fun u h => by simp [h]

@[simp] theorem Base.allows_execDiv (c t gd ga gb) (s : State) : s.base.allows (execDiv c t gd ga gb s) := Base.allows_issue fun u h => by simp [h]
@[simp] theorem Base.allows_execDivu (c t gd ga gb) (s : State) : s.base.allows (execDivu c t gd ga gb s) := Base.allows_issue fun u h => by simp [h]
@[simp] theorem Base.allows_execRem (c t gd ga gb) (s : State) : s.base.allows (execRem c t gd ga gb s) := Base.allows_issue fun u h => by simp [h]
@[simp] theorem Base.allows_execRemu (c t gd ga gb) (s : State) : s.base.allows (execRemu c t gd ga gb s) := Base.allows_issue fun u h => by simp [h]
@[simp] theorem Base.allows_execMov (c t gd ga) (s : State) : s.base.allows (execMov c t gd ga s) := Base.allows_issue fun u h => by simp [h]
@[simp] theorem Base.allows_execNot (c t gd ga) (s : State) : s.base.allows (execNot c t gd ga s) := Base.allows_issue fun u h => by simp [h]
@[simp] theorem Base.allows_execCmp (c t ga gb) (s : State) : s.base.allows (execCmp c t ga gb s) := Base.allows_issue fun u h => by simp [h]
@[simp] theorem Base.allows_execAddi (c t gd ga imm) (s : State) : s.base.allows (execAddi c t gd ga imm s) :=
  Base.allows_issue fun u h => by simp [h]

@[simp] theorem Base.allows_execCmpi (c t ga imm) (s : State) : s.base.allows (execCmpi c t ga imm s) := Base.allows_issue fun u h => by simp [h]
@[simp] theorem Base.allows_execMovi (c t gd imm) (s : State) : s.base.allows (execMovi c t gd imm s) := Base.allows_issue fun u h => by simp [h]
@[simp] theorem Base.allows_execMovil (c t gd imm) (s : State) : s.base.allows (execMovil c t gd imm s) := Base.allows_issue fun u h => by simp [h]
@[simp] theorem Base.allows_execNop (c t) (s : State) : s.base.allows (execNop c t s) := Base.allows_issue fun u h => by simp [h]
@[simp] theorem Base.allows_execRdcyc (c t gd) (s : State) : s.base.allows (execRdcyc c t gd s) := Base.allows_issue fun u h => by simp [h]
@[simp] theorem Base.allows_execMfs (c t gd) (s : State) : s.base.allows (execMfs c t gd s) := Base.allows_issue fun u h => by simp [h]
@[simp] theorem Base.allows_execMts (c t gs) (s : State) : s.base.allows (execMts c t gs s) := Base.allows_issue fun u h => by simp [h]
@[simp] theorem Base.allows_execSetcc (c t gd cc) (s : State) : s.base.allows (execSetcc c t gd cc s) := Base.allows_issue fun u h => by simp [h]

/-! ### Commands of Machine/Vector.lean -/

@[simp] theorem Base.allows_execVadd (c t fmt vd va vb) (s : State) : s.base.allows (execVadd c t fmt vd va vb s) :=
  Base.allows_issue fun u h => by simp [h]

@[simp] theorem Base.allows_execVsub (c t fmt vd va vb) (s : State) : s.base.allows (execVsub c t fmt vd va vb s) :=
  Base.allows_issue fun u h => by simp [h]

@[simp] theorem Base.allows_execVmul (c t fmt vd va vb) (s : State) : s.base.allows (execVmul c t fmt vd va vb s) :=
  Base.allows_issue fun u h => by simp [h]

@[simp] theorem Base.allows_execVfma (c t fmt vd va vb vc) (s : State) : s.base.allows (execVfma c t fmt vd va vb vc s) :=
  Base.allows_issue fun u h => by simp [h]

@[simp] theorem Base.allows_execVmin (c t fmt vd va vb) (s : State) : s.base.allows (execVmin c t fmt vd va vb s) :=
  Base.allows_issue fun u h => by simp [h]

@[simp] theorem Base.allows_execVmax (c t fmt vd va vb) (s : State) : s.base.allows (execVmax c t fmt vd va vb s) :=
  Base.allows_issue fun u h => by simp [h]

@[simp] theorem Base.allows_execVabs (c t fmt vd va) (s : State) : s.base.allows (execVabs c t fmt vd va s) :=
  Base.allows_issue fun u h => by simp [h]

@[simp] theorem Base.allows_execVneg (c t fmt vd va) (s : State) : s.base.allows (execVneg c t fmt vd va s) :=
  Base.allows_issue fun u h => by simp [h]

@[simp] theorem Base.allows_execVdiv (c t fmt vd va vb) (s : State) : s.base.allows (execVdiv c t fmt vd va vb s) :=
  Base.allows_issue fun u h => by simp [h]

@[simp] theorem Base.allows_execVsqrt (c t fmt vd va) (s : State) : s.base.allows (execVsqrt c t fmt vd va s) :=
  Base.allows_issue fun u h => by simp [h]

@[simp] theorem Base.allows_execVcmpeq (c t fmt vd va vb) (s : State) : s.base.allows (execVcmpeq c t fmt vd va vb s) :=
  Base.allows_issue fun u h => by simp [h]

@[simp] theorem Base.allows_execVcmplt (c t fmt vd va vb) (s : State) : s.base.allows (execVcmplt c t fmt vd va vb s) :=
  Base.allows_issue fun u h => by simp [h]

@[simp] theorem Base.allows_execVcmple (c t fmt vd va vb) (s : State) : s.base.allows (execVcmple c t fmt vd va vb s) :=
  Base.allows_issue fun u h => by simp [h]

@[simp] theorem Base.allows_execVsel (c t fmt vd va vb vc) (s : State) : s.base.allows (execVsel c t fmt vd va vb vc s) :=
  Base.allows_issue fun u h => by simp [h]

@[simp] theorem Base.allows_execVand (c t fmt vd va vb) (s : State) : s.base.allows (execVand c t fmt vd va vb s) :=
  Base.allows_issue fun u h => by simp [h]

@[simp] theorem Base.allows_execVor (c t fmt vd va vb) (s : State) : s.base.allows (execVor c t fmt vd va vb s) :=
  Base.allows_issue fun u h => by simp [h]

@[simp] theorem Base.allows_execVxor (c t fmt vd va vb) (s : State) : s.base.allows (execVxor c t fmt vd va vb s) :=
  Base.allows_issue fun u h => by simp [h]

@[simp] theorem Base.allows_execVshl (c t fmt vd va vb) (s : State) : s.base.allows (execVshl c t fmt vd va vb s) :=
  Base.allows_issue fun u h => by simp [h]

@[simp] theorem Base.allows_execVshr (c t fmt vd va vb) (s : State) : s.base.allows (execVshr c t fmt vd va vb s) :=
  Base.allows_issue fun u h => by simp [h]

@[simp] theorem Base.allows_execVsar (c t fmt vd va vb) (s : State) : s.base.allows (execVsar c t fmt vd va vb s) :=
  Base.allows_issue fun u h => by simp [h]

@[simp] theorem Base.allows_execVcvt (c t fmt dst rnd vd va) (s : State) : s.base.allows (execVcvt c t fmt dst rnd vd va s) :=
  Base.allows_issue fun u h => by
    extract_lets x ls r
    have writes := keeps_vwrite c t vd (vW dst) 2 (r.map Prod.fst) (laneFlags r) (badLane r) h
    split
    · next w => rw [w] at writes; simpa using writes
    · exact writes

@[simp] theorem Base.allows_execVrsum (c t fmt vd va) (s : State) : s.base.allows (execVrsum c t fmt vd va s) :=
  Base.allows_issue fun u h => by simp [h]

@[simp] theorem Base.allows_execVrmax (c t fmt vd va) (s : State) : s.base.allows (execVrmax c t fmt vd va s) :=
  Base.allows_issue fun u h => by simp [h]

@[simp] theorem Base.allows_execVbcast (c t fmt vd ga) (s : State) : s.base.allows (execVbcast c t fmt vd ga s) :=
  Base.allows_issue fun u h => by simp [h]

@[simp] theorem Base.allows_execVext (c t fmt gd va gb) (s : State) : s.base.allows (execVext c t fmt gd va gb s) :=
  Base.allows_issue fun u h => by simp [h]

@[simp] theorem Base.allows_execVins (c t fmt vd ga gb) (s : State) : s.base.allows (execVins c t fmt vd ga gb s) :=
  Base.allows_issue fun u h => by simp [h]

@[simp] theorem Base.allows_execVseed (c t ga gb) (s : State) : s.base.allows (execVseed c t ga gb s) := Base.allows_issue fun u h => by simp [h]

/-! ### All commands, and a step -/

/-- Every command keeps the queue and the canonical form: by the lemma of its constructor. -/
theorem Base.allows_exec (c : Instr) (s : State) : s.base.allows (exec c s) := by
  cases c <;> simp

/-- Settles O4: the queue is part of what every command keeps. -/
theorem commandsLeaveTheQueue : Obligations.CommandsLeaveTheQueue := by
  unfold Obligations.CommandsLeaveTheQueue
  exact fun c s u result => (Base.allows_exec c s u result).1

/-- Settles O5: a command keeps the canonical form, and an idle cycle does not touch the local memory. -/
theorem stepsKeepTheMemoryCanonical : Obligations.StepsKeepTheMemoryCanonical := by
  unfold Obligations.StepsKeepTheMemoryCanonical
  intro s u canonical result
  unfold step at result
  split at result
  · cases result
    have same : s.idleCycle.base = s.base := by simp
    exact (same ▸ Base.leads_refl s.base : s.base.leads s.idleCycle.base).2 canonical
  · next c rest _ => exact (Base.allows_exec c { s with pending := rest } u result).2 canonical

/-- Settles O1: `step` runs the command at the front; with an empty queue it is the idle cycle, which moves the count where there is power. -/
theorem stepRunsTheFrontCommand : Obligations.StepRunsTheFrontCommand := by
  unfold Obligations.StepRunsTheFrontCommand
  refine ⟨fun s c rest => rfl, fun s empty => ?_⟩
  have idles : step s = .next s.idleCycle := by rw [step, empty]
  rw [idles, State.idleCycle]
  exact ⟨fun power => by rw [if_pos power], fun off => by rw [off]; rfl⟩

end Sys2Proof.Machine

/-! SUPPORT. Links: what a port takes of a flit, and its link-level events, by the condition in which each acts. -/

namespace Sys2Proof.Machine

/-- A command on a port that the module has. -/
theorem withPort_ok (port : BitVec 6) (f : Nat → Out) (known : port.toNat ≤ 40) : withPort port f = f port.toNat :=
  if_pos (Nat.lt_succ_of_le known)

/-! ### Flits received (12 R390 to R396) -/

/-- What a port that is UP takes of 256 bytes, by the fate of their codewords, their CRC and their type. -/
theorem exec_flitReceive_up (s : State) (port : BitVec 6) (errs : BitVec 10) (bytes : List Byte) (known : port.toNat ≤ 40)
    (up : s.portState port.toNat = portUp) (whole : bytes.length = 256) :
    exec (.flitReceive port ⟨errs, bytes⟩) s =
      let p := port.toNat
      let f := flitOf bytes
      let u := s.takeFec p errs.toNat
      if (s.port p).flitLost errs.toNat then .next u
      else if !flitOk bytes then .next (if f.type = 1 ∨ f.type = 2 then u.takeFlit p false f else u)
      else if 4 < f.type.toNat then .next u
      else .next (u.takeGood p f) := by
  rw [exec_flitReceive, execFlitReceive, if_neg (not_not_intro whole), withPort_ok port _ known]
  exact if_neg (not_not_intro up)

theorem Port.flitLost_iff (x : Port) (e : Nat) :
    x.flitLost e = true ↔ (x.rxPos ≠ 0 ∧ x.rxBad = true) ∨ ((x.rxPos = 0 ∨ 5140 < x.rxPos + 2048) ∧ 15 < e) := by
  simp [Port.flitLost, Port.newWord]

/-- A flit in order that does not end its packet: its body joins lane 0 and its buffer is freed. -/
theorem State.takeFlit_next (s : State) (p : Nat) (f : Flit) (inOrder : f.lseq = (s.port p).expect) (lane0 : f.vl = false) (more : f.eop = false) :
    s.takeFlit p true f = s.setPort p { s.port p with
      expect := (s.port p).expect + 1, lack := f.lseq, naked := false, free0 := (s.port p).free0 + 1, free1 := (s.port p).free1 + 0
      part0 := (if f.type = 1 then [] else (s.port p).part0) ++ f.body } := by
  unfold State.takeFlit
  rw [if_pos (by simp [inOrder]), lane0, more]
  rfl

/-- A flit out of order or with a bad CRC, after one that has sent the NAK, changes nothing. -/
theorem State.takeFlit_discard (s : State) (p : Nat) (ok : Bool) (f : Flit) (bad : ok = false ∨ f.lseq ≠ (s.port p).expect)
    (naked : (s.port p).naked = true) : s.takeFlit p ok f = s := by
  have rejected : ¬ (ok && f.lseq == (s.port p).expect) = true := by
    rcases bad with crc | order
    · simp [crc]
    · simp [order]
  exact (if_neg rejected).trans (if_pos naked)

/-! ### Link-level events (12 R395 to R399, 15 R460, 17 R521) -/

section
variable (s : State) (port : BitVec 6)

/-- The events of a port that is UP: NAK, the replay timeout, IDLE, the expired budget and the lost signal. -/
theorem exec_nak_up (known : port.toNat ≤ 40) (up : s.portState port.toNat = portUp) (lack : BitVec 12)
    (left : ((s.port port.toNat).budget.map fun d => notAfter d s.now).getD false = false) :
    exec (.nak port lack) s = .next (((s.takeLack port.toNat lack).replay port.toNat).pumpPort port.toNat) := by
  rw [exec_nak, execNak, withPort_ok port _ known, if_neg (not_not_intro up)]
  exact if_neg (Bool.eq_false_iff.mp left)

theorem exec_replayTimeout_up (known : port.toNat ≤ 40) (up : s.portState port.toNat = portUp) (unacked : (s.port port.toNat).replay ≠ []) :
    exec (.replayTimeout port) s =
      .next ((s.advanceTo ((s.port port.toNat).lackAt + BitVec.ofNat 60 (2 * s.delay port.toNat + 256))).replay port.toNat) := by
  rw [exec_replayTimeout, execReplayTimeout, withPort_ok port _ known]
  exact if_neg (by simp [up, unacked])

theorem exec_idle_up (known : port.toNat ≤ 40) (up : s.portState port.toNat = portUp) :
    exec (.idle port) s =
      let u := s.advanceTo ((s.port port.toNat).lastOut + 64)
      .next (u.setPort port.toNat ((u.port port.toNat).emit u.now 0 0 false false [])) := by
  rw [exec_idle, execIdle, withPort_ok port _ known]
  exact if_neg (not_not_intro up)

theorem exec_linkRetryBudget_up (known : port.toNat ≤ 40) (up : s.portState port.toNat = portUp) (d : Count)
    (ends : (s.port port.toNat).budget = some d) :
    exec (.linkRetryBudget port) s = .next ((s.advanceTo d).failPort port.toNat 1) := by
  rw [exec_linkRetryBudget, execLinkRetryBudget, withPort_ok port _ known, if_neg (not_not_intro up), ends]

theorem exec_signalLoss_up (known : port.toNat ≤ 40) (up : s.portState port.toNat = portUp) :
    exec (.signalLoss port) s = .next (s.failPort port.toNat 2) := by
  rw [exec_signalLoss, execSignalLoss, withPort_ok port _ known]
  exact if_pos up

/-- The end of training: `failPort`, or UP with the partner's numbers, for which the Brepo link, port 40, has no registers. -/
theorem exec_portTrained_training (known : port.toNat ≤ 40) (training : s.portState port.toNat = portTraining) (ok : Bool) (delay pmod : BitVec 16)
    (pport : BitVec 6) :
    exec (.portTrained port ok delay pmod pport) s =
      let p := port.toNat
      if !ok then .next (s.failPort p 3)
      else if 40 ≤ p then .next ((s.setPort p { s.port p with delay := delay }).trained p)
      else
        let u := (s.setFld (F.SPN_PORT_DLY_DELAY p) delay.toNat).setFld (F.SPN_PORT_DLY_VALID p) 1
        let u := (u.setFld (F.FX_PORT_STAT_PMOD p) pmod.toNat).setFld (F.FX_PORT_STAT_PPORT p) pport.toNat
        .next (((u.setFld (F.FX_PORT_CTRL_TRAIN p) 0).trained p).portEvent p) := by
  rw [exec_portTrained, execPortTrained, withPort_ok port _ known]
  exact if_neg (not_not_intro training)

/-- Training that the headstock has put off for an enabled fabric port. -/
theorem exec_portRetrain_due (fabric : port.toNat < 40) (r : BitVec 48) (due : (s.port port.toNat).trainAt = some r)
    (enabled : s.fld (F.FX_PORT_CTRL_EN port.toNat) ≠ 0) :
    exec (.portRetrain port) s =
      if s.portState port.toNat = portFailed then .next ((s.advanceTo (revStart r)).startTraining port.toNat)
      else if s.portState port.toNat = portUp then .next (s.startTraining port.toNat)
      else .next s := by
  rw [exec_portRetrain, execPortRetrain, if_neg (Nat.not_le.mpr fabric)]
  dsimp only
  rw [due]
  exact if_neg enabled

theorem exec_brepoLinkTraining_idle (power : s.power.pgood = true) (idle : s.portState 40 = portDown ∨ s.portState 40 = portFailed) :
    exec .brepoLinkTraining s = .next (s.startTraining 40) := by
  rw [exec_brepoLinkTraining, execBrepoLinkTraining]
  exact if_pos (by simpa [power] using idle)

end

/-- Settles O42: a flit by its codewords, its CRC and its type; each event by the state of its port. -/
theorem linksCarryFlits : Obligations.LinksCarryFlits := by
  unfold Obligations.LinksCarryFlits
  refine ⟨fun s port errs bytes known up whole => ?_, fun s port pport lack delay pmod d r => ⟨fun known up => ?_, fun known training => ?_,
    fun fabric due enabled => ?_, exec_brepoLinkTraining_idle s⟩⟩
  · have receives := exec_flitReceive_up s port errs bytes known up whole
    have kept := fun (found : (s.port port.toNat).flitLost errs.toNat = false) => receives.trans (if_neg (Bool.eq_false_iff.mp found))
    have broken := fun found (crc : flitOk bytes = false) => (kept found).trans (if_pos (by simp [crc]))
    have good := fun found (crc : flitOk bytes = true) => (kept found).trans (if_neg (by simp [crc]))
    exact ⟨fun lost => receives.trans (if_pos lost),
      fun found crc packet => (broken found crc).trans (congrArg _ (if_pos packet)),
      fun found crc other => (broken found crc).trans (congrArg _ (if_neg other)),
      fun found crc reserved => (good found crc).trans (if_pos reserved),
      fun found crc known => (good found crc).trans (if_neg (Nat.not_lt.mpr known)),
      Port.flitLost_iff _ _, s.takeFlit_next _ _,
      fun order naked ok => s.takeFlit_discard _ ok _ (.inr order) naked, s.takeFlit_discard _ false _ (.inl rfl)⟩
  · exact ⟨exec_nak_up s port known up lack, exec_replayTimeout_up s port known up, exec_idle_up s port known up,
      exec_linkRetryBudget_up s port known up d, exec_signalLoss_up s port known up⟩
  · have ends := fun ok => exec_portTrained_training s port known training ok delay pmod pport
    exact ⟨ends false, fun brepo => (ends true).trans (if_pos (Nat.le_of_eq brepo.symm)),
      fun fabric => (ends true).trans (if_neg (Nat.not_le.mpr fabric))⟩
  · have starts := exec_portRetrain_due s port fabric r due enabled
    exact ⟨fun failed => starts.trans (if_pos failed), fun up => (starts.trans (if_neg (by rw [up]; decide))).trans (if_pos up)⟩

end Sys2Proof.Machine

/-! SUPPORT. The fabric complex: packets at a port and at their destination, the timers of contexts, and units at the edge fabric taps. -/

namespace Sys2Proof.Machine

/-! ### A packet at a port (12 R406 to R408) -/

/-- A packet at a fabric port that is UP, whose store it leaves. -/
theorem exec_packetReceive_up (s : State) (port : BitVec 6) (vl : Bool) (k : Packet) (fabric : port.toNat < 40)
    (up : s.portState port.toNat = portUp) :
    exec (.packetReceive port vl k) s =
      let p := port.toNat
      let u := s.setPort p { s.port p with pkts := (s.port p).pkts.erase (vl, packetBytes k) }
      if u.fld F.FX_CTRL_EN = 0 then .next u
      else if k.dmod ≠ u.ownModule then
        if k.hops = 0 then .next (u.fxErr 4 p k.dctx.toNat) else .next (u.sendPacket fwdSrc vl { k with hops := k.hops - 1 }).1
      else .next (u.receive p k) := by
  rw [exec_packetReceive, execPacketReceive, if_neg (Nat.not_le.mpr fabric)]
  exact if_neg (not_not_intro up)

theorem exec_packetReceive_notUp (s : State) (port : BitVec 6) (vl : Bool) (k : Packet) (fabric : port.toNat < 40)
    (down : s.portState port.toNat ≠ portUp) : exec (.packetReceive port vl k) s = .next s := by
  rw [exec_packetReceive, execPacketReceive, if_neg (Nat.not_le.mpr fabric)]
  exact if_pos down

/-! ### A packet at its destination (12 R406, R412) -/

theorem seqDiff_eq_zero (a b : Nat) (same : a % 2 ^ 24 = b) : seqDiff a b = 0 := by
  unfold seqDiff; omega

section
variable (s : State) (p : Nat) (k : Packet)

theorem State.receive_badCtx (none : s.ctxType k.dctx.toNat = 0) :
    s.receive p k = (s.fxErr 1 p k.dctx.toNat).toHeadstock (.badCtx p k.dctx.toNat) := if_pos (.inl none)

/-- A packet that its context takes, of an OP that carries an epoch and a SEQ. -/
theorem State.receive_taken (some : s.ctxType k.dctx.toNat ≠ 0) (job : s.ctxJob k.dctx.toNat = k.job)
    (taken : opTaken (s.ctxType k.dctx.toNat) k.op.toNat = true) (notAgree : k.op ≠ 8) (notAck : k.op ≠ 9) :
    s.receive p k =
      let c := k.dctx.toNat
      if k.epoch.toNat ≠ bits (s.cw c 3) 31 24 then s.setCtx c { s.ctx c with stale := (s.ctx c).stale + 1 } else s.transport c k := by
  unfold State.receive
  dsimp only
  rw [if_neg (by simp [some, job, taken]), if_neg notAck]
  simp only [ne_eq, notAgree, notAck, not_false_eq_true, true_and]

end

section
variable (s : State) (c : Nat) (k : Packet) (free : (s.ctx c).wait = [])
include free

theorem State.transport_inOrder (next : seqDiff k.seq.toNat (bits (s.cw c 5) 23 0) = 0) (written : s.isResult k = false) :
    s.transport c k = s.accept c k := by
  unfold State.transport
  dsimp only
  rw [if_neg (by simp [free, written]), if_pos next]

/-- A packet out of order is counted; one that has come before is counted and acknowledged again. -/
theorem State.transport_outOfOrder (other : seqDiff k.seq.toNat (bits (s.cw c 5) 23 0) ≠ 0) :
    s.transport c k =
      if 2 ^ 23 ≤ seqDiff k.seq.toNat (bits (s.cw c 5) 23 0) then (s.setCtx c { s.ctx c with dup := (s.ctx c).dup + 1 }).sendAck c
      else s.setCtx c { s.ctx c with ooo := (s.ctx c).ooo + 1 } := by
  unfold State.transport
  dsimp only
  rw [if_neg (by simp [free, other]), if_neg other]

end

/-! ### Timers of a context (12 R411 to R413) -/

section
variable (s : State) (ctx : BitVec 14) (used : s.ctxType ctx.toNat ≠ 0)
include used

theorem exec_ack_owed (owed : (s.ctx ctx.toNat).owed ≠ 0) :
    exec (.ack ctx) s = .next ((s.advanceTo ((s.ctx ctx.toNat).owedAt + 256)).sendAck ctx.toNat) := by
  rw [exec_ack, execAck]
  exact if_neg (by simp [used, owed])

theorem exec_retransmit_at (m : BitVec 48) (due : s.timerOf ctx.toNat = some m) :
    exec (.retransmit ctx) s = .next ((s.advanceTo (revStart (m + 17))).resend ctx.toNat) := by
  rw [exec_retransmit, execRetransmit]
  rw [if_neg used, due]

end

theorem State.timerOf_armed (s : State) (n : Nat) (m : BitVec 48) (armed : s.ctxTimer n = some m) : s.timerOf n = some m := by
  rw [State.timerOf, armed]

theorem State.timerOf_oldest (s : State) (n : Nat) (p : SentPkt) (ps : List SentPkt) (idle : s.ctxTimer n = none)
    (unacked : (s.ctx n).unack = p :: ps) : s.timerOf n = some (p.rev + 10) := by
  rw [State.timerOf, idle, unacked]
  rfl

/-- Settles O43: a packet by where it goes, its checks in their order and its SEQ; the timers by what the context has to send. -/
theorem packetsAreForwardedAndChecked : Obligations.PacketsAreForwardedAndChecked := by
  unfold Obligations.PacketsAreForwardedAndChecked
  refine ⟨fun s port vl k => ⟨fun fabric up => ?_, exec_packetReceive_notUp s port vl k, s.receive_badCtx _ k,
      fun some job taken notAgree notAck => ?_, fun free =>
        ⟨fun next => s.transport_inOrder _ k free (seqDiff_eq_zero _ _ next), ?_, fun before => ?_⟩⟩,
    fun s ctx m p ps => ⟨exec_ack_owed s ctx, fun used armed => exec_retransmit_at s ctx used m (s.timerOf_armed _ m armed),
      fun used idle unacked => exec_retransmit_at s ctx used _ (s.timerOf_oldest _ p ps idle unacked)⟩⟩
  · have arrives := exec_packetReceive_up s port vl k fabric up
    exact ⟨fun off => arrives.trans (if_pos off),
      fun on away last => (arrives.trans (if_neg on)).trans ((if_pos away).trans (if_pos last)),
      fun on away more => (arrives.trans (if_neg on)).trans ((if_pos away).trans (if_neg more)),
      fun on here => (arrives.trans (if_neg on)).trans (if_neg (not_not_intro here))⟩
  · have checked := s.receive_taken port.toNat k some job taken notAgree notAck
    exact ⟨fun stale => checked.trans (if_pos stale), fun current => checked.trans (if_neg (not_not_intro current))⟩
  · exact fun other ahead => (s.transport_outOfOrder _ k free other).trans (if_neg (Nat.not_le.mpr ahead))
  · have other : seqDiff k.seq.toNat (bits (s.cw k.dctx.toNat 5) 23 0) ≠ 0 := fun same => by rw [same] at before; exact absurd before (by decide)
    exact (s.transport_outOfOrder _ k free other).trans (if_pos before)

/-! ### Units at the edge fabric taps (12 R416, R418, 13 R431) -/

section
variable (s : State) (c : CoreId) (x : MeshUnit) (hc : s.hasCore c = true) (found : s.unitAt c .outX = some x)
include hc found

/-- A unit that no bed's flow takes is discarded as `NOCTX`. -/
theorem exec_fabOut_noBed (loose : ((s.unitTaken x).core c).bed = none) : exec (.fabOut c) s = .next ((s.unitTaken x).fxErr 2 0x3F 0) := by
  rw [exec_fabOut, execFabOut, withCore_ok s c _ hc, found]
  dsimp only
  rw [loose]

theorem exec_fabOut_bed (b : Nat) (bed : ((s.unitTaken x).core c).bed = some b) :
    exec (.fabOut c) s =
      let u := s.unitTaken x
      if x.u.kind = 4 ∧ u.feedsConv b x.u.flow = true then .next (u.feedUnit (u.sideOf c) b x.u.flow x.u)
      else match u.flowTx b x.u.flow with
        | some n =>
          if x.u.kind = 4 then .next (u.originate n 0 x.u.poison.toNat x.u.addr.toNat (bytesOfWords x.u.words)) else .next (u.fxErr 2 0x3F 0)
        | none => .next (u.fxErr 2 0x3F 0) := by
  rw [exec_fabOut, execFabOut, withCore_ok s c _ hc, found]
  dsimp only
  rw [bed] <;> rfl

end

/-- The oldest packet of a FLOW_RX context enters at its edge tap in the next slot of its flow. -/
theorem exec_fabIn_enters (s : State) (ctx : BitVec 14) (k : Packet) (ps : List Packet) (d : Count) (rx : s.ctxType ctx.toNat = ctxFlowRx)
    (oldest : (s.ctx ctx.toNat).rx = k :: ps) (hc : s.hasCore (s.rxEdge ctx.toNat) = true)
    (slot : s.nextIn (s.rxEdge ctx.toNat) (s.rxFlow ctx.toNat) (notBefore s.now (s.core (s.rxEdge ctx.toNat)).edgeAt) = some d)
    (open_ : s.guarded (s.rxEdge ctx.toNat) d = false) :
    exec (.fabIn ctx) s =
      let n := ctx.toNat
      let e := s.rxEdge n
      .next ((((s.setCtx n { s.ctx n with rx := ps }).advanceTo d).onCore e fun k => { k with edgeAt := d + 1 }).putUnit e (.inp 6) d
        { flow := s.rxFlow n, kind := 5, addr := k.addr.truncate 17, words := wordsOfBytes k.data, poison := k.aux.truncate 2 }) := by
  rw [exec_fabIn, execFabIn]
  dsimp only
  rw [if_neg (not_not_intro rx), oldest]
  dsimp only
  rw [if_neg (by simp [hc]), slot]
  exact if_neg (by simp [open_])

/-- Settles O44: a unit by its bed, its kind and what matches its flow; a packet by its slot. -/
theorem scratchpadStreams : Obligations.ScratchpadStreams := by
  unfold Obligations.ScratchpadStreams
  refine fun s c x b n ctx k ps d => ⟨fun hc found => ⟨exec_fabOut_noBed s c x hc found, fun bed => ?_⟩, exec_fabIn_enters s ctx k ps d⟩
  have leaves := exec_fabOut_bed s c x hc found b bed
  refine ⟨fun data feeds => leaves.trans (if_pos ⟨data, feeds⟩), fun data feeds tx => leaves.trans ((if_neg (by simp [feeds])).trans ?_),
    fun other => leaves.trans ((if_neg fun both => other both.1).trans ?_), fun feeds tx => leaves.trans ((if_neg (by simp [feeds])).trans ?_)⟩
  · rw [tx]
    exact if_pos data
  · cases (s.unitTaken x).flowTx b x.u.flow with
    | none => rfl
    | some n => exact if_neg other
  · rw [tx]

end Sys2Proof.Machine

/-! SUPPORT. Reductions: what converters do with feeds, homes with contributions, and REDUCE contexts with their packets. -/

namespace Sys2Proof.Machine

/-! ### Converters (13 R432 to R434, R438) -/

/-- A converter's command on a feed whose header is whole. -/
theorem withFeed_ok (s : State) (side : Bool) (bed : BitVec 5) (flow : BitVec 16) (g : Nat → Job → Feed → List Feed → Out) (f : Feed)
    (rest : List Feed) (j : Job) (found : s.feed (feedKey (b2n side) bed.toNat flow) = f :: rest) (job : s.jobOfBed bed.toNat = some j)
    (on : s.fld F.FX_RED_CTRL_EN ≠ 0) (whole : f.head.length = 4) :
    withFeed s side bed flow g = g (feedKey (b2n side) bed.toNat flow) j f rest := by
  unfold withFeed
  dsimp only
  rw [found, job]
  exact if_neg (by simp [on, whole])

/-! ### Homes (13 R438 to R445) -/

/-- A home's command on the packet at the front of its input buffer, which leaves it. -/
theorem withHome_ok (s : State) (id : JobId) (kind : Nat) (g : Job → Packet → State → Out) (j : Job) (p : Packet) (ps : List Packet)
    (job : s.job id = some j) (front : s.redQ = p :: ps) (own : p.job = id) (on : s.fld F.FX_RED_CTRL_EN ≠ 0) (is : pKind p = kind) :
    withHome s id kind g = g j p { s with redQ := ps } := by
  unfold withHome
  rw [job, front]
  exact if_neg (by simp [on, own, is])

theorem exec_contribLate_armed (s : State) (rid : BitVec 10) (seg : BitVec 16) (isScan : Bool) (m : BitVec 48)
    (armed : ((s.red rid.toNat).segRec seg.toNat isScan).armed = some m)
    (short : ((s.red rid.toNat).segRec seg.toNat isScan).done ≠ (s.red rid.toNat).c) :
    exec (.contribLate rid seg isScan) s =
      let r := s.red rid.toNat
      let g := r.segRec seg.toNat isScan
      let v := s.advanceTo (revStart (m + BitVec.ofNat 48 (bits (r.w 3) 31 16 + 1)))
      let q := v.red rid.toNat
      .next ((v.setRed rid.toNat { q with seg := SMap.set (fun _ => Seg.none) q.seg (2 * seg.toNat + b2n (!isScan)) { g with armed := none } }).failRed
        q.job reLATE rid.toNat seg.toNat (q.lateOne g seg.toNat)) := by
  rw [exec_contribLate, execContribLate]
  dsimp only
  rw [armed]
  exact if_neg short

/-- Settles O45: a feed by its header and its kind; a packet by its kind and the state of its job; the deadline of a segment that is not complete. -/
theorem reductionFeedsAndHomes : Obligations.ReductionFeedsAndHomes := by
  unfold Obligations.ReductionFeedsAndHomes
  refine ⟨fun s side bed flow f rest j => ?_, fun s id j p ps rid seg isScan m => ⟨fun job front own on => ?_,
    exec_contribLate_armed s rid seg isScan m⟩⟩
  · intro key found job on whole
    have scan := (exec_scan side bed flow s).trans (withFeed_ok s side bed flow _ f rest j found job on whole)
    have convert := (exec_convert side bed flow s).trans (withFeed_ok s side bed flow _ f rest j found job on whole)
    refine ⟨fun bad => ⟨scan.trans (if_pos bad), convert.trans (if_pos bad)⟩,
      fun good one => (scan.trans (if_neg ?_)).trans (if_neg (not_not_intro one)),
      fun good two agreed => (convert.trans (if_neg ?_)).trans (if_neg ?_),
      fun good two waits => (convert.trans (if_neg ?_)).trans (if_pos (.inr waits))⟩
    · exact Bool.eq_false_iff.mp good
    · exact Bool.eq_false_iff.mp good
    · simp [two, agreed]
    · exact Bool.eq_false_iff.mp good
  · have takes := fun kind g is => withHome_ok s id kind g j p ps job front own on is
    refine ⟨fun scan => ?_, fun data => ?_⟩
    · have arm := (exec_reduceScan id s).trans (takes 0 _ scan)
      exact ⟨fun open_ => arm.trans (if_neg (by simp [open_])), fun closed => arm.trans (if_pos closed)⟩
    · have arm := (exec_reduceData id s).trans (takes 1 _ data)
      exact ⟨fun open_ => arm.trans (if_neg (not_not_intro open_)), fun closed => arm.trans (if_pos closed)⟩

/-! ### REDUCE contexts and exponent tables (13 R438, R449 to R451) -/

/-- A REDUCE context's command on its oldest packet of a kind, which leaves the context. -/
theorem withRed_ok (s : State) (ctx : BitVec 14) (kind : Nat) (g : Job → Packet → State → Out) (j : Job) (p : Packet)
    (type : s.ctxType ctx.toNat = ctxReduce) (job : s.job (s.ctxJob ctx.toNat) = some j)
    (found : (s.ctx ctx.toNat).rx.find? (fun p => pKind p == kind) = some p) :
    withRed s ctx kind g = g j p (s.setCtx ctx.toNat { s.ctx ctx.toNat with rx := (s.ctx ctx.toNat).rx.erase p }) := by
  rw [withRed, if_pos type, job, found]

theorem exec_result_ready (s : State) (ctx : BitVec 14) (j : Job) (p : Packet) (ps : List Packet) (type : s.ctxType ctx.toNat = ctxReduce)
    (job : s.job (s.ctxJob ctx.toNat) = some j) (front : (s.ctx ctx.toNat).wait = p :: ps)
    (trained : s.rangeUp j p.addr.toNat p.data.length = true) :
    exec (.result ctx) s = .next (s.takeResult ctx.toNat j p ps) := by
  rw [exec_result, execResult, job, front]
  exact congrArg _ (if_pos ⟨type, trained⟩)

section
variable (r : Reduction) (t b v : Nat)

/-- A table's exponents: what is set is read, and the others and those of the other table stay. -/
theorem Reduction.tabE_setTabE_same : (r.setTabE t b v).tabE t b = v % 256 := by
  unfold Reduction.setTabE Reduction.tabE
  by_cases even : t % 2 = 0 <;> simp [even]

theorem Reduction.tabE_setTabE_other (b' : Nat) (other : b' ≠ b) : (r.setTabE t b v).tabE t b' = r.tabE t b' := by
  unfold Reduction.setTabE Reduction.tabE
  by_cases even : t % 2 = 0 <;> simp [even, SMap.get_set_other _ _ _ _ _ other]

theorem Reduction.tabE_setTabE_next (b' : Nat) : (r.setTabE t b v).tabE (t + 1) b' = r.tabE (t + 1) b' := by
  unfold Reduction.setTabE Reduction.tabE
  by_cases even : t % 2 = 0
  · simp [even, show ¬ (t + 1) % 2 = 0 by omega]
  · simp [even, show (t + 1) % 2 = 0 by omega]

end

/-- A RESULT to a page that it may not write fails the reduction. -/
theorem State.writeResult_notHome (s : State) (j : Job) (rid seg va : Nat) (data : List Byte) (barred : s.canWrite j va data.length = false) :
    s.writeResult j rid seg va data = (s.writeVa j.id va data).failRed j.id reRESHOME rid seg 0 := by
  unfold State.writeResult
  exact if_pos (by simp [barred])

/-- Settles O46: each packet by its kind, the exponents by the table of the pass, a RESULT by the page it names. -/
theorem reductionResults : Obligations.ReductionResults := by
  unfold Obligations.ReductionResults
  intro s ctx j p ps r t b v b'
  refine ⟨fun type job => ⟨fun found => ?_, exec_result_ready s ctx j p ps type job, fun found => ?_⟩, r.tabE_setTabE_same t b v,
    r.tabE_setTabE_other t b v b', r.tabE_setTabE_next t b v b', s.writeResult_notHome j _ _ _ _⟩
  · exact (exec_agreed ctx s).trans (withRed_ok s ctx 2 _ j p type job found)
  · exact (exec_nexte ctx s).trans (withRed_ok s ctx 4 _ j p type job found)

end Sys2Proof.Machine

/-! SUPPORT. The host link and the host's commands: what each event and each command does, by the condition in which it acts. -/

namespace Sys2Proof.Machine

/-! ### Events of the host link (15 R461 to R481) -/

section
variable (s : State)

/-- The answer to an outstanding read: 64 bytes or a rejection advance its ring; another length is counted and discarded. -/
theorem exec_memCpl_found (tag : BitVec 16) (data : Option (List Byte)) (x : HostRead) (up : s.portState 40 = portUp)
    (found : s.reads.find? (fun r => r.tag == tag && r.data.isNone) = some x) :
    exec (.memCpl tag data) s = match data with
      | some bs => if bs.length ≠ 64 then .next (s.bump F.HL_CNT_BADPKT 1) else .next (((s.gotData tag bs).takeEntries x.ring 256).fetchAll)
      | none => .next (((s.gotData tag []).takeEntries x.ring 256).fetchAll) := by
  rw [exec_memCpl, execMemCpl, if_neg (not_not_intro up), found] <;> rfl

theorem exec_hostLinkRecover_up (up : s.portState 40 = portUp) :
    exec .hostLinkRecover s = .next (s.hostLost.foldl (fun (s : State) o => s.hostSend o) { s with hostLost := [] }) := by
  rw [exec_hostLinkRecover, execHostLinkRecover]
  exact if_neg (not_not_intro up)

theorem exec_completionWrite_room (ring : BitVec 4) (e : HostCpl) (rest : List HostCpl) (oldest : (s.ring (16 + ring.toNat)).cpls = e :: rest)
    (enabled : (s.ring (16 + ring.toNat)).en = true) (room : (s.ring (16 + ring.toNat)).room = true) :
    exec (.completionWrite ring) s = .next (s.writeEntry (16 + ring.toNat) e rest) := by
  rw [exec_completionWrite, execCompletionWrite]
  rw [oldest]
  exact if_neg (by simp [enabled, room])

/-- A completion ring interrupts at once where its count is reached, and otherwise when its delay ends. -/
theorem exec_msi_due (ring : BitVec 4) (counted : (s.ring (16 + ring.toNat)).icnt ≠ 0)
    (ien : bit (s.ring (16 + ring.toNat)).cfg.toNat 23 = true) (up : s.portState 40 = portUp) :
    exec (.msi ring) s =
      let r := s.ring (16 + ring.toNat)
      let u := if Nat.max 1 (bits r.coal.toNat 15 0) ≤ r.icnt then s else s.advanceTo (r.iat + BitVec.ofNat 60 (256 * bits r.coal.toNat 31 16))
      .next ((u.setRing (16 + ring.toNat) { r with icnt := 0 }).hostSend (.msi (r.cfg.extractLsb' 24 6))) := by
  rw [exec_msi, execMsi]
  exact if_neg (by simp [counted, ien, up])

theorem exec_hb_up (up : s.portState 40 = portUp) : exec .hb s = .next ((s.advanceTo (revStart s.nextBeat)).hostSend (.hb s.nextBeat)) := by
  rw [exec_hb, execHb]
  exact if_neg (not_not_intro up)

/-- A command's timer, while the command is on its ring and while its entry waits for room. -/
theorem exec_commandTimeout_command (ring : BitVec 4) (cid : BitVec 16) (cmd : HostCmd)
    (found : (s.ring ring.toNat).cmds.find? (fun x => x.cid == cid) = some cmd) :
    exec (.commandTimeout ring cid) s = .next (s.expireCmd ring cmd) := by
  rw [exec_commandTimeout, execCommandTimeout, found]

theorem exec_commandTimeout_entry (ring : BitVec 4) (cid : BitVec 16) (e : HostCpl)
    (gone : (s.ring ring.toNat).cmds.find? (fun x => x.cid == cid) = none) (waits : s.waitingEntry ring cid = some e) :
    exec (.commandTimeout ring cid) s = .next (s.expireEntry (16 + (s.ring ring.toNat).cq) e) := by
  rw [exec_commandTimeout, execCommandTimeout, gone, waits]

end

/-- Settles O49: each event by the state of the link and of its ring. -/
theorem hostLinkEvents : Obligations.HostLinkEvents := by
  unfold Obligations.HostLinkEvents
  intro s tag bs x ring e rest cid cmd
  refine ⟨fun up found => ?_, exec_hostLinkRecover_up s, exec_completionWrite_room s ring e rest, fun counted ien up => ?_, exec_hb_up s,
    exec_commandTimeout_command s ring cid cmd, exec_commandTimeout_entry s ring cid e⟩
  · have answer := fun data => exec_memCpl_found s tag data x up found
    exact ⟨fun whole => (answer (some bs)).trans (if_neg (not_not_intro whole)), fun other => (answer (some bs)).trans (if_pos other), answer none⟩
  · have interrupts := exec_msi_due s ring counted ien up
    dsimp only at interrupts
    exact ⟨fun reached => by rw [interrupts, if_pos reached], fun short => by rw [interrupts, if_neg short]⟩

/-! ### Commands on the module (15 R473 to R482) -/

section
variable (s : State) (ring : BitVec 4) (cid : BitVec 16) (x : HostCmd)

/-- A host command of any opcode outside TEST. -/
theorem withHostCmd_serving (p : Byte → Bool) (f : HostCmd → Out) (found : s.hostCmd ring cid p = some x)
    (serving : s.fld F.DEV_STATUS_STATE ≠ mTEST) : withHostCmd s ring cid p f = f x := by
  rw [withHostCmd, found]
  exact if_neg fun both => serving both.1

theorem exec_routes_begins (bs : List Byte) (begins : s.begins ring cid 0x02 x) :
    exec (.routes ring cid bs) s =
      let n := 8 * (x.w 4).toNat
      let u := s.hostFetch (x.q 2) n
      if bs.length < n then .next (u.complete ring cid stNOTHOME []) else .next ((u.putRoutes (bs.take n)).complete ring cid stOK []) := by
  rw [exec_routes, execRoutes, withCmd_ok s ring cid _ x _ begins]

theorem exec_launch_begins (bs : List Byte) (begins : s.begins ring cid 0x03 x) :
    exec (.launch ring cid bs) s =
      let n := (x.w 4).toNat
      let u := s.hostFetch (x.q 2) n
      if bs.length < n then .next (u.complete ring cid stNOTHOME [])
      else match readImage (bs.take n) with
      | none => .next (u.complete ring cid stBADIMAGE [])
      | some i => match u.launchRefusal i with
        | some st => .next (u.complete ring cid st [])
        | none => .next ((((u.install i (bs.take n)).retireCmd ring cid stOK []).markLaunch ring cid (BitVec.ofNat 12 i.job)).nops ring) := by
  rw [exec_launch, execLaunch, withCmd_ok s ring cid _ x _ begins] <;> rfl

end

/-- Settles O50: each command by its opcode, its buffer and what the module holds. -/
theorem hostCommandsOnTheModule : Obligations.HostCommandsOnTheModule := by
  unfold Obligations.HostCommandsOnTheModule
  intro s ring cid x bs i st len u
  refine ⟨fun found serving => (exec_unlistedOpcode ring cid s).trans (withHostCmd_serving s ring cid x _ _ found serving), fun begins => ?_,
    fun begins => ?_, fun begins => ?_, fun begins => ?_⟩
  · have config := (exec_config ring cid s).trans (withCmd_ok s ring cid _ x _ begins)
    exact ⟨fun busy => config.trans (if_pos busy), fun free => config.trans (if_neg (not_not_intro free))⟩
  · have routes := exec_routes_begins s ring cid x bs begins
    exact ⟨fun short => routes.trans (if_pos short), fun whole => routes.trans (if_neg (Nat.not_lt.mpr whole))⟩
  · have table := (exec_readDtab ring cid s).trans (withCmd_ok s ring cid _ x _ begins)
    exact ⟨fun short => table.trans (if_pos short), fun fits => table.trans (if_neg (Nat.not_lt.mpr fits))⟩
  · have launch := exec_launch_begins s ring cid x bs begins
    have whole := fun fits => launch.trans (if_neg (Nat.not_lt.mpr fits))
    refine ⟨fun short => launch.trans (if_pos short), fun fits bad => (whole fits).trans ?_, fun fits image refused => (whole fits).trans ?_,
      fun fits image accepted => (whole fits).trans ?_⟩
    · rw [bad]
    · rw [image]
      dsimp only
      rw [refused]
    · rw [image]
      dsimp only
      rw [accepted]

/-! ### Commands on a job (15 R475 to R478) -/

section
variable (s : State) (ring : BitVec 4) (cid : BitVec 16) (x : HostCmd) (j : Job) (named : s.namesJob x j)
include named

/-- A command that begins and names a job. -/
theorem withCmd_job (opc : Byte) (f : HostCmd → Job → Out) (begins : s.begins ring cid opc x) :
    withCmd s ring cid opc (fun x => withCmdJob s ring cid x (f x)) = f x j := by
  rw [withCmd_ok s ring cid opc x _ begins, withCmdJob_ok s ring cid x j _ named]

theorem exec_loadpat_named (carries : s.carries ring cid 0x07 x) :
    exec (.loadpat ring cid) s = match j.pattern (x.w 2).toNat with
      | none => .next (s.complete ring cid stNOPATTERN [])
      | some p =>
        if s.bedArmed j then .next (if x.started then s else s.startCmd ring cid) else .next ((s.loadBed j p).complete ring cid stOK []) := by
  rw [exec_loadpat, execLoadpat, withHostCmd_ok s ring cid _ x _ carries, withCmdJob_ok s ring cid x j _ named] <;> rfl

theorem exec_copyIn_named (bs : List Byte) (begins : s.begins ring cid 0x09 x) (ok : x.copyOk = true) :
    exec (.copyIn ring cid bs) s =
      let va := x.q 4
      let n := (x.w 6).toNat
      match s.copyFault j va n true with
      | some (st, a) => .next (s.complete ring cid st (addrWords a))
      | none =>
        if (j.st = .held ∨ j.begun = false) ∧ s.rangeUp j va n = false then .next s
        else
          let u := s.hostFetch (x.q 2) n
          if bs.length < n then .next (u.complete ring cid stNOTHOME [])
          else if j.st = .held ∨ j.begun = false then .next ((u.copyNow j va (bs.take n)).complete ring cid stOK [])
          else
            let c : CopyIn := { ring := ring, cid := cid, va := va, bytes := bs.take n, voted := false, undo := none }
            .next ((u.onJob j.id fun j => { j with copyIns := j.copyIns ++ [c] }).startCmd ring cid) := by
  refine (exec_copyIn ring cid bs s).trans ((withCmd_job s ring cid x j named 0x09 _ begins).trans ((if_neg (by simp [ok])).trans ?_))
  rfl

theorem exec_copyOut_ready (begins : s.begins ring cid 0x0A x) (ok : x.copyOk = true)
    (allowed : s.copyFault j (x.q 4) (x.w 6).toNat false = none) (trained : s.rangeUp j (x.q 4) (x.w 6).toNat = true) :
    exec (.copyOut ring cid) s = .next ((s.hostWrite (x.q 2) (s.oldBytes j (x.q 4) (x.w 6).toNat)).complete ring cid stOK []) := by
  refine (exec_copyOut ring cid s).trans ((withCmd_job s ring cid x j named 0x0A _ begins).trans ((if_neg (by simp [ok])).trans ?_))
  rw [allowed]
  exact congrArg _ (if_pos trained)

end

/-- A revolution that the root names in time goes down the tree. -/
theorem State.nameDown_inTime (s : State) (ring : BitVec 4) (x : HostCmd) (j : Job) (kind : Byte) (f : Job → BitVec 48 → Job) (root : j.parent = none)
    (inTime : revNotAfter (s.rev + BitVec.ofNat 48 (j.lead + 1)) (x.n 2) = true) :
    s.nameDown ring x j kind f =
      ((s.sendAgrees j.id j.liveKids (AgreeMsg.of kind j.pass (x.n 2))).onJob j.id fun j => f j (x.n 2)).startCmd ring x.cid := by
  unfold State.nameDown
  dsimp only
  rw [if_neg (by simp [root]), if_neg (by simp [inTime])]

theorem State.nameDown_notRoot (s : State) (ring : BitVec 4) (x : HostCmd) (j : Job) (kind : Byte) (f : Job → BitVec 48 → Job)
    (child : j.parent.isSome = true) : s.nameDown ring x j kind f = s.complete ring x.cid stNOTROOT [] := if_pos child

theorem State.nameDown_late (s : State) (ring : BitVec 4) (x : HostCmd) (j : Job) (kind : Byte) (f : Job → BitVec 48 → Job) (root : j.parent = none)
    (late : revNotAfter (s.rev + BitVec.ofNat 48 (j.lead + 1)) (x.n 2) = false) :
    s.nameDown ring x j kind f = s.complete ring x.cid stLATE [] := by
  unfold State.nameDown
  dsimp only
  rw [if_neg (by simp [root]), if_pos (by simp [late])]

/-- Settles O51: each command on the job it names, by the job's state and the command's words. -/
theorem hostCommandsOnJobs : Obligations.HostCommandsOnJobs := by
  unfold Obligations.HostCommandsOnJobs
  intro s ring cid x j bs p f n va len u named
  have runs := fun opc f begins => withCmd_job s ring cid x j named opc f begins
  refine ⟨fun begins => (exec_cancel ring cid s).trans (runs 0x04 _ begins), fun begins own => ?_, fun begins own root inTime => ?_,
    fun carries => ?_, fun begins => ?_, fun begins ok => ?_, exec_copyOut_ready s ring cid x j named,
    fun begins => (exec_jobStatus ring cid s).trans (runs 0x0C _ begins)⟩
  · have preempt := (exec_preempt ring cid s).trans (runs 0x05 _ begins)
    refine ⟨fun child => ?_, fun root late => ?_, fun root inTime => ?_⟩
    · rw [preempt, State.nameDown_notRoot _ _ _ _ _ _ child, own]
    · rw [preempt, State.nameDown_late _ _ _ _ _ _ root late, own]
    · rw [preempt, State.nameDown_inTime _ _ _ _ _ _ root inTime, own]
  · rw [(exec_resume ring cid s).trans (runs 0x06 _ begins), State.nameDown_inTime _ _ _ _ _ _ root inTime, own]
  · have loads := exec_loadpat_named s ring cid x j named carries
    refine ⟨fun missing => loads.trans ?_, fun found free => loads.trans ?_⟩
    · rw [missing]
    · rw [found]
      exact if_neg (by simp [free])
  · have switches := (exec_switch ring cid s).trans (runs 0x08 _ begins)
    have inTime := fun (early : lateFor s.now n = false) => switches.trans (if_neg (Bool.eq_false_iff.mp early))
    exact ⟨fun late => switches.trans (if_pos late), fun early armed => (inTime early).trans (if_pos armed),
      fun early free headers => (inTime early).trans ((if_neg (Bool.eq_false_iff.mp free)).trans (if_neg (Bool.eq_false_iff.mp headers)))⟩
  · have copies := exec_copyIn_named s ring cid x j named bs begins ok
    dsimp only at copies
    refine ⟨fun fault => ?_, fun allowed whole => ⟨fun early trained => ?_, fun running begun => ?_⟩⟩
    · rw [copies, fault]
    · rw [copies, allowed]
      exact (if_neg fun both => Bool.eq_false_iff.mp both.2 trained).trans ((if_neg (Nat.not_lt.mpr whole)).trans (if_pos early))
    · have later : ¬ (j.st = .held ∨ j.begun = false) := by simp [running, begun]
      rw [copies, allowed]
      exact (if_neg fun both => later both.1).trans ((if_neg (Nat.not_lt.mpr whole)).trans (if_neg later))

end Sys2Proof.Machine

/-! SUPPORT. Firmware, recovery and power: what each command and each event does, by the condition in which it acts. -/

namespace Sys2Proof.Machine

/-! ### Firmware commands (16 R496 to R504) -/

section
variable (s : State) (ring : BitVec 4) (cid : BitVec 16)

/-- FW_LOAD while the standby pair is not ARMED. -/
theorem exec_fwLoad_free (x : HostCmd) (o : Option FwImage) (begins : s.begins ring cid 0x11 x) (free : s.fld F.HS_PAIR_SB ≠ 2) :
    exec (.fwLoad ring cid o) s = .next ((s.hostFetch (x.q 2) (x.w 4).toNat).loadStandby ring cid (x.w 4).toNat o) := by
  rw [exec_fwLoad, execFwLoad, withCmd_ok s ring cid _ x _ begins]
  exact if_neg free

/-- An image in the standby pair, by what the loader's checks find. -/
theorem State.loadStandby_bad (n c : Nat) (img : FwImage) (found : s.fwCheck { img with total := n } = some c) :
    s.loadStandby ring cid n (some img) = (s.putStandby none).complete ring cid (fwStatus c) [] := by
  unfold State.loadStandby
  dsimp only
  rw [found]

theorem State.loadStandby_good (n : Nat) (img : FwImage) (found : s.fwCheck { img with total := n } = none) :
    s.loadStandby ring cid n (some img) = (s.putStandby (some { img with total := n })).complete ring cid stOK [] := by
  unfold State.loadStandby
  dsimp only
  rw [found]

/-- FW_ACTIVATE of no job, or of one that takes it. -/
theorem exec_fwActivate_takes (x : HostCmd) (begins : s.begins ring cid 0x12 x) (takes : x.job = 0 ∨ ∃ j, s.namesJob x j) :
    exec (.fwActivate ring cid) s = .next (s.activate ring x) := by
  rw [exec_fwActivate, execFwActivate, withCmd_ok s ring cid _ x _ begins]
  by_cases none : x.job = 0
  · exact if_pos none
  · obtain ⟨j, named⟩ := takes.resolve_left none
    rw [if_neg none, withCmdJob_ok s ring cid x j _ named]

/-- ATTEST with two signatures, a buffer that holds the report and the identity keys. -/
theorem exec_attest_keyed (x : HostCmd) (nonce sigs : List Byte) (carries : s.carries ring cid 0x13 x) (two : sigs.length = 16608)
    (room : 16848 ≤ (x.w 6).toNat) (keyed : s.fld F.HS_BOOT_STAT_IDK ≠ 0) :
    exec (.attest ring cid nonce sigs) s =
      let v := s.hostFetch (x.q 2) 48
      if nonce.length < 48 then .next (v.complete ring cid stNOTHOME [])
      else .next ((v.hostWrite (x.q 4) (v.report (nonce.take 48) ++ sigs)).complete ring cid stOK []) := by
  rw [exec_attest, execAttest, withHostCmd_ok s ring cid _ x _ carries]
  dsimp only
  rw [if_neg (not_not_intro two), if_neg (Nat.not_lt.mpr room), if_neg keyed]

/-- IDENTITY with a buffer that holds the public keys: they are returned, or it waits for them. -/
theorem exec_identity_room (x : HostCmd) (carries : s.carries ring cid 0x14 x) (room : 432 ≤ (x.w 4).toNat) :
    exec (.identity ring cid) s =
      if s.fld F.HS_BOOT_STAT_IDK = 0 then .next (if x.started then s else s.startCmd ring cid)
      else
        let bs := (s.hs.idkeys ++ s.hs.certs).take (x.w 4).toNat
        .next ((s.hostWrite (x.q 2) bs).complete ring cid stOK [BitVec.ofNat 32 bs.length]) := by
  rw [exec_identity, execIdentity, withHostCmd_ok s ring cid _ x _ carries]
  exact if_neg (Nat.not_lt.mpr room)

/-- KEY_REVOKE of a slot that exists. -/
theorem exec_keyRevoke_slot (x : HostCmd) (begins : s.begins ring cid 0x18 x) (slot : (x.w 2).toNat ≤ 3) :
    exec (.keyRevoke ring cid) s =
      let m := s.fuses.revoked ||| BitVec.ofNat 4 (2 ^ ((x.w 2).toNat % 4))
      if (x.w 2).toNat = s.fld F.HS_FW_SEC_KEYSLOT ∨ m = 15 then .next (s.complete ring cid stBUSY [])
      else
        .next ((({ s with fuses := { s.fuses with revoked := m } } : State).setFld F.HS_FW_SEC_REVOKED m.toNat).complete ring cid stOK []) := by
  rw [exec_keyRevoke, execKeyRevoke, withCmd_ok s ring cid _ x _ begins]
  exact if_neg (Nat.not_lt.mpr slot)

end

/-- Settles O52: each command by its words, the standby pair, the identity keys and the beds that the module holds. -/
theorem firmwareCommands : Obligations.FirmwareCommands := by
  unfold Obligations.FirmwareCommands
  intro s ring cid x img o c m nonce sigs w i u
  have runs := fun opc f begins => withCmd_ok s ring cid opc x f begins
  refine ⟨fun begins => (exec_fwInfo ring cid s).trans (runs 0x10 _ begins), fun begins => ?_, exec_fwActivate_takes s ring cid x,
    fun carries two room keyed => ?_, fun carries room => ?_, fun begins => ?_, fun begins => (exec_testEnd ring cid s).trans (runs 0x16 _ begins),
    fun begins => (exec_svnCommit ring cid s).trans (runs 0x17 _ begins), fun begins slot => ?_⟩
  · have load := fun o free => exec_fwLoad_free s ring cid x o begins free
    refine ⟨fun armed => ((exec_fwLoad ring cid o s).trans (runs 0x11 _ begins)).trans (if_pos armed), fun free bad => ?_,
      fun free good => ?_, load none⟩
    · rw [load _ free, u.loadStandby_bad ring cid _ c img bad]
    · rw [load _ free, u.loadStandby_good ring cid _ img good]
  · have attests := exec_attest_keyed s ring cid x nonce sigs carries two room keyed
    refine ⟨fun whole => attests.trans ((if_neg (Nat.not_lt.mpr (Nat.le_of_eq whole.symm))).trans ?_), fun short => attests.trans (if_pos short)⟩
    rw [List.take_of_length_le (Nat.le_of_eq whole)]
  · have identity := exec_identity_room s ring cid x carries room
    exact ⟨fun keyed => identity.trans (if_neg keyed), fun unkeyed fresh => (identity.trans (if_pos unkeyed)).trans (by rw [fresh]; rfl)⟩
  · have tests := (exec_test ring cid m s).trans (runs 0x15 _ begins)
    exact ⟨fun busy => tests.trans (if_pos busy), fun free => tests.trans (if_neg (not_not_intro free))⟩
  · have revokes := exec_keyRevoke_slot s ring cid x begins slot
    exact ⟨fun kept => revokes.trans (if_pos kept), fun other left => revokes.trans (if_neg (not_or.mpr ⟨other, left⟩))⟩

/-! ### Start-up, the handover and flash (16 R486 to R503) -/

section
variable (s : State)

theorem exec_startUp_powered (img : FwImage) (f : BitVec 5) (power : s.power.pgood = true) (boot : s.fld F.DEV_STATUS_STATE = mBOOT)
    (sound : s.fld F.HS_BOOT_STAT_FAIL ≠ 1) (cause : ¬ ((5 ≤ f.toNat ∧ f.toNat ≤ 10) ∨ 15 < f.toNat)) :
    exec (.startUp img f) s = .next (s.startUp (s.hs.flash.getD img) f.toNat) := by
  rw [exec_startUp, execStartUp]
  exact (if_neg cause).trans (if_neg (by simp [power, boot, sound]))

theorem exec_stepTime_overruns (power : s.power.pgood = true) (starts : s.fld F.DEV_STATUS_STATE ≤ mINIT)
    (sound : s.fld F.HS_BOOT_STAT_FAIL ≠ 1) :
    exec .stepTime s =
      let n := s.fld F.HS_BOOT_STAT_STEP
      .next ((s.advanceTo (revStart (BitVec.ofNat 48 (stepBound n + 1)))).stepFails n 16) := by
  rw [exec_stepTime, execStepTime]
  exact if_neg (by simp [power, Nat.not_lt.mpr starts, sound])

variable (h : Handover) (armed : s.hs.handover = some h)
include armed

theorem exec_handover_named (n : BitVec 48) (named : s.handoverRev h = some n) (waits : h.swapped = false) :
    exec .handover s = .next (s.handOver h n) := by
  rw [exec_handover, execHandover, armed]
  dsimp only
  rw [named]
  exact if_neg (by simp [waits])

theorem exec_handoverConfirm_inTime (swapped : h.swapped = true) (idle : h.writing = false)
    (inTime : revNotAfter (h.rev.getD 0 + 65) s.rev = false) : exec .handoverConfirm s = .next (s.confirmed h) := by
  rw [exec_handoverConfirm, execHandoverConfirm, armed]
  exact if_neg (by simpa [swapped, idle] using inTime)

theorem exec_handoverConfirmTimeout_swapped (swapped : h.swapped = true) (idle : h.writing = false) :
    exec .handoverConfirmTimeout s = .next (s.handBack h) := by
  rw [exec_handoverConfirmTimeout, execHandoverConfirmTimeout, armed]
  exact if_neg (by simp [swapped, idle])

theorem exec_flashWriteDone_writing (writing : h.writing = true) (ok : Bool) :
    exec (.flashWriteDone ok) s = .next ((s.onHs fun y => { y with flash := if ok then y.running else some FwImage.bad }).endHandover h
      (if ok then stOK else stFLASHERR) [(h.rev.getD 0).truncate 32]) := by
  rw [exec_flashWriteDone, execFlashWriteDone, armed]
  exact if_neg (by simp [writing])

end

theorem exec_keyDerivation_first (s : State) (keys : List Byte) (whole : keys.length = 432) (serving : s.serving = true)
    (first : s.fld F.HS_BOOT_STAT_IDK ≠ 1) : exec (.keyDerivation keys) s = .next (s.deriveKeys keys) := by
  rw [exec_keyDerivation, execKeyDerivation, if_neg (not_not_intro whole)]
  exact if_neg (by simp [serving, first])

/-- Settles O53: start-up by power and its cause, the handover by how far it has come. -/
theorem startUpAndHandover : Obligations.StartUpAndHandover := by
  unfold Obligations.StartUpAndHandover
  exact fun s img f h n keys => ⟨exec_startUp_powered s img f, exec_stepTime_overruns s, fun armed =>
    ⟨exec_handover_named s h armed n, fun swapped idle => ⟨exec_handoverConfirm_inTime s h armed swapped idle,
      exec_handoverConfirmTimeout_swapped s h armed swapped idle⟩,
    fun writing => ⟨exec_flashWriteDone_writing s h armed writing true, exec_flashWriteDone_writing s h armed writing false⟩⟩,
    exec_keyDerivation_first s keys⟩

/-! ### Replacement and retirement (17 R514 to R524) -/

/-- REPLACE, by whether the job is held and, if it is not, whether it has begun. -/
theorem exec_replace_named (s : State) (ring : BitVec 4) (cid : BitVec 16) (x : HostCmd) (j : Job)
    (begins : s.begins ring cid 0x0D x) (named : s.namesJob x j) :
    exec (.replace ring cid) s =
      let r := (x.w 2).toNat % 65536
      let new : BitVec 16 := (x.w 3).truncate 16
      if j.st = .held then
        if j.mods.length ≤ r ∨ j.mods.contains new = true then .next (s.complete ring cid stBADCMD [])
        else .next ((s.renumber j.id (j.mods.getD r 0) new).complete ring cid stOK [])
      else if j.begun = true then .next (s.complete ring cid stBUSY [])
      else .next ((s.holdAt j.id (x.q 4)).complete ring cid stOK []) := by
  rw [exec_replace, execReplace, withCmd_job s ring cid x j named _ _ begins]

/-- RETIRE on a job that takes it: refused with no retirement pending or none that has a spare; otherwise its pattern is loaded. -/
theorem exec_retire_named (s : State) (ring : BitVec 4) (cid : BitVec 16) (x : HostCmd) (j : Job) (sect : List Byte)
    (carries : s.carries ring cid 0x0E x) (named : s.namesJob x j) :
    (s.hs.pending.find? j.retires = none → exec (.retire ring cid sect) s = .next (s.complete ring cid stBUSY [])) ∧
    ∀ p, s.hs.pending.find? j.retires = some p →
      (p.nospare = true → exec (.retire ring cid sect) s = .next (s.complete ring cid stNOSPARE [])) ∧
      (p.nospare = false → x.q 2 = 0 → ∀ q, j.pattern ((x.w 4).toNat % 256) = some q → s.bedArmed j = false →
        exec (.retire ring cid sect) s = .next ((s.loadRetire j q).complete ring cid stOK [])) := by
  have arm := (exec_retire ring cid sect s).trans ((withHostCmd_ok s ring cid _ x _ carries).trans (withCmdJob_ok s ring cid x j _ named))
  refine ⟨fun none => arm.trans ?_, fun p pending => ⟨fun nospare => arm.trans ?_, fun spare own q found free => arm.trans ?_⟩⟩
  · rw [none]
  · rw [pending]
    exact if_pos nospare
  · have pattern : x.retirePattern j sect = some q := by rw [HostCmd.retirePattern, own]; exact found
    rw [pending]
    refine (if_neg (Bool.eq_false_iff.mp spare)).trans ?_
    dsimp only
    rw [pattern, own]
    exact if_neg (Bool.eq_false_iff.mp free)

section
variable (s : State) (row : BitVec 6)

/-- A position that exists, has not failed and is not pending, for a cause that allows its retirement. -/
theorem exec_retirementDecision_allowed (col : BitVec 7) (cause : BitVec 2) (inRows : row.toNat < 40) (inCols : col.toNat < 80) (caused : cause ≠ 0)
    (works : s.failedAt row.toNat col.toNat = false) (allowed : s.mayRetire row.toNat col.toNat cause.toNat = true)
    (fresh : (s.hs.pending.any fun p => p.prow == row && p.pcol == col) = false) (room : s.hs.retired.length < 128) :
    exec (.retirementDecision row col cause) s = .next (s.decideRetire row.toNat col.toNat cause) := by
  have exists_ : ¬ (40 ≤ row.toNat ∨ 80 ≤ col.toNat ∨ cause = 0) :=
    not_or.mpr ⟨Nat.not_le.mpr inRows, not_or.mpr ⟨Nat.not_le.mpr inCols, caused⟩⟩
  rw [exec_retirementDecision, execRetirementDecision]
  exact (if_neg exists_).trans (if_neg (by simp [works, allowed, fresh, room]))

theorem exec_retirementEffect_ready (p : PendRet) (pending : s.hs.pending.find? (fun p => p.prow == row && !p.nospare) = some p)
    (ready : s.retireReady row.toNat p = true) : exec (.retirementEffect row) s = .next (s.retireNow row.toNat p) := by
  rw [exec_retirementEffect, execRetirementEffect, pending]
  exact if_pos ready

end

/-- Settles O54: REPLACE by the state of the job; RETIRE, decision and effect by what is pending. -/
theorem replacementAndRetirement : Obligations.ReplacementAndRetirement := by
  unfold Obligations.ReplacementAndRetirement
  intro s ring cid x j row col cause p q sect r new
  refine ⟨fun begins named => ?_, fun carries named => ?_, exec_retirementDecision_allowed s row col cause, exec_retirementEffect_ready s row p,
    exec_retirementRecordWrite s⟩
  · have replaces := exec_replace_named s ring cid x j begins named
    exact ⟨fun held known fresh => (replaces.trans (if_pos held)).trans
        (if_neg (not_or.mpr ⟨Nat.not_le.mpr known, Bool.eq_false_iff.mp fresh⟩)),
      fun running begun => (replaces.trans (if_neg running)).trans (if_pos begun),
      fun running early => (replaces.trans (if_neg running)).trans (if_neg (Bool.eq_false_iff.mp early))⟩
  · obtain ⟨idle, found⟩ := exec_retire_named s ring cid x j sect carries named
    exact ⟨idle, fun pending => (found p pending).1, fun pending spare own pattern => (found p pending).2 spare own q pattern⟩

/-! ### Power, voltage and temperature (18 R527 to R543) -/

section
variable (s : State)

theorem exec_powerApplied_off (dv : BitVec 10) (low : 460 ≤ dv.toNat) (high : dv.toNat ≤ 600) (off : s.power.stby = false) :
    exec (.powerApplied dv) s = .next (s.standbyOn dv.toNat) := by
  have inRange : ¬ (dv.toNat < 460 ∨ 600 < dv.toNat) := by omega
  rw [exec_powerApplied, execPowerApplied]
  exact (if_neg inRange).trans (if_neg (by simp [off]))

theorem exec_seqfail_sequencing (rail : BitVec 4) (known : rail.toNat ≤ 6) (stby : s.power.stby = true) (down : s.power.pgood = false)
    (unlocked : s.power.ovLock = false) (cycled : s.power.fault = true → s.power.en = false) :
    exec (.seqfail rail) s =
      .next ((((s.setFld F.PW_STATUS_SEQFAIL 1).setFld F.PW_STATUS_RAIL rail.toNat).onPower fun p => { p with en := true }).faultPin true) := by
  rw [exec_seqfail, execSeqfail]
  exact (if_neg (Nat.not_lt.mpr known)).trans (if_neg (by simpa [stby, down, unlocked] using cycled))

theorem exec_powerDown_enabled (enabled : s.power.en = true) :
    exec .powerDown s =
      .next ((s.railsOff.onPower fun p => ({ p with en := false } : Power).unlock (s.fld F.PW_INPUT_VIN)).faultPin s.power.trip) := by
  rw [exec_powerDown, execPowerDown]
  exact if_neg (by simp [enabled])

section
variable (stby : s.power.stby = true)
include stby

theorem exec_inputLow_standby (dv : BitVec 10) (low : 460 ≤ dv.toNat) (high : dv.toNat < 480) :
    exec (.inputLow dv) s = .next (((s.setVin dv.toNat).pwSet pwINPUT_LOW).onPower fun p => p.unlock dv.toNat) := by
  have inRange : ¬ (dv.toNat < 460 ∨ 480 ≤ dv.toNat) := by omega
  rw [exec_inputLow, execInputLow]
  exact (if_neg inRange).trans (if_pos stby)

theorem exec_inputHigh_standby (dv : BitVec 10) (low : 580 < dv.toNat) (high : dv.toNat ≤ 600) :
    exec (.inputHigh dv) s = .next ((s.setVin dv.toNat).pwSet pwINPUT_HIGH) := by
  have inRange : ¬ (dv.toNat ≤ 580 ∨ 600 < dv.toNat) := by omega
  rw [exec_inputHigh, execInputHigh]
  exact (if_neg inRange).trans (if_pos stby)

theorem exec_extest_free (ports : BitVec 40) (link : Bool) (free : s.beds = 0) (power : s.power.pgood = true) :
    exec (.extest ports link) s =
      let u := (List.range 40).foldl (fun (s : State) p => if ports.getLsbD p then s.failPort p 2 else s) s
      .next (if link then u.failPort 40 2 else u) := by
  rw [exec_extest, execExtest]
  exact if_neg (by simp [free, stby, power])

end

theorem exec_marginRead_powered (rg : BitVec 5) (lo hi : BitVec 8) (known : rg.toNat < 20) (ordered : lo.toNat ≤ hi.toNat)
    (power : s.power.pgood = true) :
    exec (.marginRead rg lo hi) s = .next ((s.setFld (F.PW_REGION_VCORE rg.toNat) (s.voltsAfter rg.toNat lo.toNat)).setRegion rg.toNat
      { s.rgn rg.toNat with alarm := false }) := by
  have valid : ¬ (20 ≤ rg.toNat ∨ hi.toNat < lo.toNat) := by omega
  rw [exec_marginRead, execMarginRead]
  exact (if_neg valid).trans (if_neg (by simp [power]))

/-- The voltage a margin window leads to: a step up at no margin, a step down at more than 2 without an alarm, and else none. -/
theorem State.voltsAfter_up (n : Nat) :
    s.voltsAfter n 0 =
      Nat.max (s.fld (F.PW_VLIM_VMIN n)) (Nat.min (s.fld (F.PW_VLIM_VMAX n)) (s.fld (F.PW_REGION_VCORE n) + 5)) := by
  simp [State.voltsAfter]

theorem State.voltsAfter_down (n lo : Nat) (wide : 2 < lo) (quiet : (s.rgn n).alarm = false) :
    s.voltsAfter n lo =
      Nat.max (s.fld (F.PW_VLIM_VMIN n)) (Nat.min (s.fld (F.PW_VLIM_VMAX n)) (s.fld (F.PW_REGION_VCORE n) - 5)) := by
  simp [State.voltsAfter, wide, quiet]

theorem State.voltsAfter_stay (n lo : Nat) (some : 0 < lo) (narrow : lo ≤ 2) :
    s.voltsAfter n lo =
      Nat.max (s.fld (F.PW_VLIM_VMIN n)) (Nat.min (s.fld (F.PW_VLIM_VMAX n)) (s.fld (F.PW_REGION_VCORE n))) := by
  simp [State.voltsAfter, Nat.not_lt.mpr narrow, Nat.ne_of_gt some]

section
variable (rg : BitVec 5) (known : rg.toNat < 20)
include known

theorem exec_margin_powered (power : s.power.pgood = true) : exec (.margin rg) s = .next (s.marginAlarm rg.toNat) := by
  rw [exec_margin, execMargin]
  exact (if_neg (Nat.not_le.mpr known)).trans (if_neg (by simp [power]))

theorem exec_temperatureReading_standby (die stack ci co : BitVec 10) (stby : s.power.stby = true) :
    exec (.temperatureReading rg die stack ci co) s =
      let u := s.putTemps rg.toNat die.toNat stack.toNat ci.toNat co.toNat
      if u.power.pgood = false then .next u else .next (u.thermal rg.toNat die.toNat stack.toNat ci.toNat) := by
  rw [exec_temperatureReading, execTemperatureReading]
  exact (if_neg (Nat.not_le.mpr known)).trans (if_neg (by simp [stby]))

theorem exec_thermalTrip_hot (die stack : BitVec 10) (stby : s.power.stby = true) (hot : 440 ≤ stack.toNat ∨ 460 ≤ die.toNat) :
    exec (.thermalTrip rg die stack) s =
      let u := (s.setFld (F.PW_REGION_DIE rg.toNat) die.toNat).setFld (F.PW_REGION_STACK rg.toNat) stack.toNat
      .next ((u.railsOff.onPower fun p => { p with trip := true }).faultPin true) := by
  have trips : ¬ (s.power.stby = false ∨ (stack.toNat < 440 ∧ die.toNat < 460)) :=
    not_or.mpr ⟨by simp [stby], by omega⟩
  rw [exec_thermalTrip, execThermalTrip]
  exact (if_neg (Nat.not_le.mpr known)).trans (if_neg trips)

end

theorem exec_powerWindow_serving (watts : BitVec 12) (idle : Option (BitVec 12)) (serving : s.serving = true) :
    exec (.powerWindow watts idle) s = .next ((s.advanceTo (revStart s.windowEnd)).endWindow watts.toNat idle) := by
  rw [exec_powerWindow, execPowerWindow]
  exact if_neg (by simp [serving])

end

/-- Settles O55: each event by the power that is present and the value that is measured. -/
theorem powerVoltageAndTemperature : Obligations.PowerVoltageAndTemperature := by
  unfold Obligations.PowerVoltageAndTemperature
  refine ⟨fun s dv rail ports => ⟨exec_powerApplied_off s dv, fun may => ?_, exec_seqfail_sequencing s rail, exec_powerDown_enabled s,
      fun stby => ⟨?_, ?_, exec_inputLow_standby s stby dv, exec_inputHigh_standby s stby dv⟩, fun free stby power => ?_⟩,
    fun s rg lo hi die stack ci co watts idle => ⟨exec_marginRead_powered s rg lo hi, fun zero => ?_, s.voltsAfter_down _ _, s.voltsAfter_stay _ _,
      exec_margin_powered s rg, fun known stby => ?_, fun known stby => exec_thermalTrip_hot s rg known die stack stby,
      exec_powerWindow_serving s watts idle⟩⟩
  · exact (exec_powerSequence s).trans (if_pos may)
  · exact (exec_powerLoss s).trans (if_pos stby)
  · exact (exec_overvoltage s).trans (if_pos stby)
  · have ends := fun link => exec_extest_free s stby ports link free power
    exact ⟨ends false, ends true⟩
  · rw [zero]
    exact s.voltsAfter_up _
  · have reads := exec_temperatureReading_standby s rg known die stack ci co stby
    exact ⟨fun powered => reads.trans (if_neg (by rw [powered]; decide)), fun off => reads.trans (if_pos off)⟩

end Sys2Proof.Machine

/-! SUPPORT. Debug: what breakpoints, bed stops and capture windows do, by the condition in which each acts. -/

namespace Sys2Proof.Machine

section
variable (s : State) (c : CoreId) (hc : s.hasCore c = true)
include hc

theorem exec_breakpoint_stops (t : Thr) (n : BitVec 2) (stops : (s.core c).bpStops t n.toNat = true) (busy : (s.core c).bpIdle c t = false)
    (turn : s.passOver c = false) :
    exec (.breakpoint c t n) s = .next (s.stopAtBp c t ((s.core c).bpActs t ((s.core c).th t).pc)) := by
  rw [exec_breakpoint, execBreakpoint, withCore_ok s c _ hc]
  exact if_neg (by simp [stops, busy, turn])

/-- A stop message that arrives: a request to the supervisor is forwarded in the next cycle, a forwarded one stops the core's threads. -/
theorem exec_bedStop_found (m : NetMsg) (found : earliest (fun m => m.stops c) (fun _ _ => false) s.net = some m) :
    exec (.bedStop c) s =
      let u := ((s.dropMsg m).advanceTo m.due).onCore c fun k => k.count 9 none 1
      if m.body = .bedCmd false then .next ((u.advanceTo (m.due + 1)).forwardStop c)
      else .next (allThr.foldl (fun (s : State) t => s.stopThread c t 1) u) := by
  rw [exec_bedStop, execBedStop, withCore_ok s c _ hc, found]

theorem exec_captureWindowOpen_armed (r : BitVec 48) (armed : (s.core c).tarm = some r) :
    exec (.captureWindowOpen c) s = .next ((s.advanceTo (revStart r)).onCore c fun k =>
      { (k.setFld F.CORE_TRCFG_OPEN 1) with tarm := none, topen := some r }) := by
  rw [exec_captureWindowOpen, execCaptureWindowOpen, withCore_ok s c _ hc, armed]

theorem exec_captureWindowClose_open (r : BitVec 48) (opened : (s.core c).topen = some r) (ends : (s.core c).fld F.CORE_TRSTART_LEN ≠ 0) :
    exec (.captureWindowClose c) s =
      .next ((s.advanceTo (revStart (r + BitVec.ofNat 48 ((s.core c).fld F.CORE_TRSTART_LEN)))).onCore c fun k =>
        { (k.setFld F.CORE_TRCFG_OPEN 0) with topen := none }) := by
  rw [exec_captureWindowClose, execCaptureWindowClose, withCore_ok s c _ hc]
  dsimp only
  rw [opened]
  exact if_neg ends

end

/-- Settles O56: each event by the condition in which it acts, the bed stop by the message that reaches the core. -/
theorem debugEvents : Obligations.DebugEvents := by
  unfold Obligations.DebugEvents
  intro s c t n m r hc
  exact ⟨exec_breakpoint_stops s c hc t n,
    fun found => ⟨fun request => (exec_bedStop_found s c hc m found).trans (if_pos request),
      fun forwarded => (exec_bedStop_found s c hc m found).trans (if_neg forwarded)⟩,
    exec_captureWindowOpen_armed s c hc r, exec_captureWindowClose_open s c hc r⟩

end Sys2Proof.Machine

/-! SUPPORT. The life of a pass: what each command on a job does, by the condition in which it acts. -/

namespace Sys2Proof.Machine

/-- A pass that has not failed, or that is rerun, is not stopped by a failure. -/
theorem Job.goesOn (j : Job) (sound : j.cause = none ∨ j.again = true) : (j.cause.isSome && !j.again) = false := by
  rcases sound with none | again
  · simp [none]
  · simp [again]

section
variable (s : State) (id : JobId) (j : Job) (named : s.job id = some j)
include named

/-! ### The vote and the agreement up to FLUSHED (11 R362 to R380, 12 R421, R422, 02 R69) -/

theorem exec_done_votes (may : s.mayVote id j = true) : exec (.done id) s = .next (s.vote id) := by
  rw [exec_done, execDone, withJob_ok s id j _ named, if_pos may]

section
variable (sound : j.cause = none) (locked : s.spin ≠ spLost)
include sound locked

theorem exec_agreeDone_complete (st : j.st = .done) (unsent : j.sent.contains kDone = false) (kids : j.fromKids kDone = true) :
    exec (.agreeDone id) s = .next ((s.onJob id fun y => { y.mark kDone with sums := s.subtreeSums j }).sendAgrees id j.parent.toList
      { AgreeMsg.of kDone j.pass 0 with sums := s.subtreeSums j }) := by
  rw [exec_agreeDone, execAgreeDone, withJob_ok s id j _ named]
  exact if_neg (by simp only [locked, st, sound, unsent, kids]; decide)

/-- FLUSH goes down with every summary; a missing one fails the pass. -/
theorem exec_agreeFlush_summed (l : List (BitVec 16 × List (BitVec 36))) (st : j.st = .done) (unsent : j.sent.contains kFlush = false)
    (sent : j.sent.contains kDone = true) (sums : j.flushSums = some l) :
    exec (.agreeFlush id) s =
      if (j.mods.all fun m => l.any fun x => x.1 == m) = true then
        .next ((s.onJob id fun j => { j.mark kFlush with sums := l }).sendAgrees id j.liveKids { AgreeMsg.of kFlush j.pass 0 with sums := l })
      else .next (s.failJob id 5) := by
  rw [exec_agreeFlush, execAgreeFlush, withJob_ok s id j _ named, if_neg (by simp only [locked, st, sound, unsent, sent]; decide), sums]

theorem exec_flush_ready (st : j.st = .done) (sent : j.sent.contains kFlush = true)
    (trained : ((s.homeDirty id).all fun l => s.lpReady (lineLocal l.addr)) = true) : exec (.flush id) s = .next (s.flushJob id j) := by
  rw [exec_flush, execFlush, withJob_ok s id j _ named]
  exact if_neg (by simp only [locked, st, sound, sent, trained]; decide)

theorem exec_flushed_complete (st : j.st = .flush) (acked : (j.sentEnd.all fun m => j.ackEnd.contains m) = true)
    (applied : ((s.sources j).all fun m => j.applied.contains m) = true)
    (trained : ((j.copyIns.filter fun x => x.voted).all fun x => s.rangeUp j x.va x.bytes.length) = true) :
    exec (.flushed id) s = .next ((((j.copyIns.filter fun x => x.voted).foldl (fun s x => s.applyCopy id x) s).onJob id
      fun j => { j with st := .flushed }).eachCore j State.prepCore) := by
  rw [exec_flushed, execFlushed, withJob_ok s id j _ named]
  exact if_neg (by simp only [locked, st, sound, acked, applied, trained]; decide)

theorem exec_agreeFlushed_complete (st : j.st = .flushed) (unsent : j.sent.contains kFlushed = false) (kids : j.fromKids kFlushed = true) :
    exec (.agreeFlushed id) s = .next ((s.onJob id fun j => j.mark kFlushed).sendAgrees id j.parent.toList (AgreeMsg.of kFlushed j.pass 0)) := by
  rw [exec_agreeFlushed, execAgreeFlushed, withJob_ok s id j _ named]
  exact if_neg (by simp only [locked, st, sound, unsent, kids]; decide)

section
variable (st : j.st = .flushed) (sent : j.sent.contains kFlushed = true)
include st sent

/-- The next revolution is named: by the root, or as the parent's BOUNDARY has it. -/
theorem exec_boundary_root (root : j.parent = none) :
    exec (.boundary id) s =
      let n := s.rev + BitVec.ofNat 48 j.lead
      .next (s.nameRev id j (AgreeMsg.of kBoundary j.pass n) n false false) := by
  rw [exec_boundary, execBoundary, withJob_ok s id j _ named, if_neg (by simp only [locked, st, sound, sent]; decide)]
  dsimp only
  rw [root]

theorem exec_boundary_child (x : AgreeIn) (child : j.parent.isSome = true) (heard : j.fromParent kBoundary = some x) :
    exec (.boundary id) s =
      let n : BitVec 48 := x.msg.n.truncate 48
      .next (s.nameRev id j (AgreeMsg.of kBoundary j.pass n) n false (lateFor x.at_ n)) := by
  obtain ⟨p, parent⟩ := Option.isSome_iff_exists.mp child
  rw [exec_boundary, execBoundary, withJob_ok s id j _ named, if_neg (by simp only [locked, st, sound, sent]; decide)]
  dsimp only
  rw [parent, heard]

end

end

/-- The writes of a source whose WRITE_END has come, after those of every source with a lower number. -/
theorem exec_writeApply_turn (src : BitVec 16) (e : BitVec 16 × Nat) (st : j.st = .flush ∨ j.st = .flushed)
    (fresh : j.applied.contains src = false) (before : (s.sources j).all (fun m => src.toNat ≤ m.toNat || j.applied.contains m) = true)
    (ended : j.ends.find? (fun e => e.1 == src) = some e) :
    exec (.writeApply id src) s =
      let ws := j.recv.filter fun w => w.modl == src
      if ws.length ≠ e.2 then .next (s.failJob id 5)
      else match j.writeFaults ws with
        | some v => .next (s.toHeadstock (.xlate id v true none))
        | none => .next (if s.writesWait j ws then s else s.applyWrites j src e.2 ws) := by
  have flushing : ¬ (j.st ≠ .flush ∧ j.st ≠ .flushed) := fun neither => st.elim neither.1 neither.2
  have turn : ¬ ((s.sources j).filter fun m => m.toNat < src.toNat).any (fun m => !j.applied.contains m) = true := by
    simp only [List.all_eq_true, Bool.or_eq_true, decide_eq_true_eq] at before
    simp only [List.any_eq_true, List.mem_filter, decide_eq_true_eq, Bool.not_eq_true', not_exists, not_and, and_imp]
    intro m source lower missing
    rcases before m source with higher | applied
    · omega
    · exact Bool.eq_false_iff.mp missing applied
  obtain ⟨m, n⟩ := e
  rw [exec_writeApply, execWriteApply, withJob_ok s id j _ named]
  rw [if_neg (not_or.mpr ⟨flushing, not_or.mpr ⟨Bool.eq_false_iff.mp fresh, turn⟩⟩), ended] <;> rfl

/-! ### Entry, boundary, deadline, rollback and failure (11 R364 to R375, 17 R510 to R515) -/

section
variable (n : BitVec 48) (rev : j.named = some n) (sound : j.cause = none ∨ j.again = true)
include rev sound

theorem exec_passEntry_starts (fresh : j.entered = false) (rolled : j.begun = true → j.again = true → j.rolled = true)
    (may : s.mayStart j = true) : exec (.passEntry id) s = .next (s.enterPass id j n) := by
  have kept : ¬ (j.again && j.begun && !j.rolled) = true := by
    simp only [Bool.and_eq_true, Bool.not_eq_true', not_and, Bool.not_eq_false]
    exact fun both => rolled both.2 both.1
  rw [exec_passEntry, execPassEntry, withJob_ok s id j _ named, rev]
  exact if_neg (by simp [fresh, kept, j.goesOn sound, may])

theorem exec_passBoundary_entered (entered : j.entered = true) : exec (.passBoundary id) s = .next (s.boundaryAt id j n) := by
  rw [exec_passBoundary, execPassBoundary, withJob_ok s id j _ named, rev]
  exact if_neg (by simp [entered, j.goesOn sound])

end

theorem exec_passDeadline_running (r : BitVec 48) (armed : j.dline = some r) (st : j.st = .run ∨ j.st = .done ∨ j.st = .flush) :
    exec (.passDeadline id) s = .next (s.passLate id j r) := by
  rw [exec_passDeadline, execPassDeadline, withJob_ok s id j _ named, armed]
  refine if_neg fun ⟨notRun, notDone, notFlush⟩ => ?_
  exact st.elim notRun fun later => later.elim notDone notFlush

/-- A failed pass is rolled back; a job that has not begun becomes HELD. -/
theorem exec_rollback_failed (failed : j.cause.isSome = true) (fresh : j.rolled = false) (thawed : j.frozen = false) :
    exec (.rollback id) s =
      if !j.begun then .next (((s.noteFail id).onJob id fun j => { j with rolled := true }).toHeld id) else .next (s.rollBack id j) := by
  rw [exec_rollback, execRollback, withJob_ok s id j _ named]
  exact if_neg (by simp [Option.isSome_iff_ne_none.mp failed, fresh, thawed])

theorem exec_fail_verdict (x : AgreeIn) (heard : j.verdictIn = some x) : exec (.fail id) s = .next (s.takeVerdict id j x) := by
  rw [exec_fail, execFail, withJob_ok s id j _ named, heard]

theorem exec_fail_report (unheard : j.verdictIn = none) : exec (.fail id) s = .next (s.reportFail id j) := by
  rw [exec_fail, execFail, withJob_ok s id j _ named, unheard]

section
variable (st : j.st ≠ .held) (free : j.holdReq = false)
include st free

/-- The next revolution of a pass that is rerun: named by the root, or as the parent's RERUN has it. -/
theorem exec_rerun_root (k : Job) (root : j.parent = none) (failed : j.cause.isSome = true) (once : j.again = false)
    (noted : (s.noteFail id).job id = some k) (undecided : k.verdict = none) :
    exec (.rerun id) s =
      let u := s.noteFail id
      let n := u.rev + BitVec.ofNat 48 (Nat.max j.lead j.delay)
      .next ((u.noteFail id).nameRev id j { AgreeMsg.of kRerun j.pass n with cause := j.cause.getD 4 } n true false) := by
  rw [exec_rerun, execRerun, withJob_ok s id j _ named, if_neg (by simp [st, free])]
  dsimp only
  rw [root]
  dsimp only
  rw [if_neg (by simp [Option.isSome_iff_ne_none.mp failed, once]), noted]
  exact if_neg (by simp [undecided])

theorem exec_rerun_child (x : AgreeIn) (child : j.parent.isSome = true) (heard : j.fromParent kRerun = some x) :
    exec (.rerun id) s =
      let n : BitVec 48 := x.msg.n.truncate 48
      let u := s.onJob id fun j => { j.fail x.msg.cause with inbox := j.inbox.erase x }
      .next ((u.noteFail id).nameRev id j { AgreeMsg.of kRerun j.pass n with cause := j.cause.getD 4 } n true (lateFor x.at_ n)) := by
  obtain ⟨p, parent⟩ := Option.isSome_iff_exists.mp child
  rw [exec_rerun, execRerun, withJob_ok s id j _ named, if_neg (by simp [st, free])]
  dsimp only
  rw [parent, heard]

end

theorem exec_agreementSilence_lost (rank m : BitVec 16) (c : Nat) (p : SentPkt) (is : j.mods.getD rank.toNat 0xFFFF = m)
    (live : j.live.contains m = true) (ctx : s.agreeOf id m = some c) (unacked : (s.ctx c).unack.find? (fun p => p.pkt.op == 8) = some p) :
    exec (.agreementSilence id rank) s = .next ((s.advanceTo (revStart (p.rev + 65))).declareLoss id m) := by
  rw [exec_agreementSilence, execAgreementSilence, withJob_ok s id j _ named]
  dsimp only
  rw [is, if_neg (by simp only [live]; decide), ctx]
  dsimp only
  rw [unacked]

theorem exec_neighbourUnroutable_lost (rank m a : BitVec 16) (r : BitVec 48) (is : j.mods.getD rank.toNat 0xFFFF = m)
    (found : j.unrouted.find? (fun p => p.1 == m) = some (a, r)) (live : j.live.contains m = true) :
    exec (.neighbourUnroutable id rank) s = .next ((s.advanceTo (revStart (r + 65))).declareLoss id m) := by
  rw [exec_neighbourUnroutable, execNeighbourUnroutable, withJob_ok s id j _ named]
  dsimp only
  rw [is, found]
  exact if_pos live

theorem exec_heldTimeout_armed (r : BitVec 48) (armed : j.heldTo = some r) :
    exec (.heldTimeout id) s = .next ((s.advanceTo (revStart r)).cancelJob id stLOST true none) := by
  rw [exec_heldTimeout, execHeldTimeout, withJob_ok s id j _ named, armed]

end

/-- Settles O41: each command by the pass state of its job and by what the module has sent and heard. -/
theorem lifeOfAPass : Obligations.LifeOfAPass := by
  unfold Obligations.LifeOfAPass
  refine ⟨fun s id j l src e x named => ?_, fun s id j k n r x rank c p named => ?_⟩
  · intro ws live
    refine ⟨exec_done_votes s id j named, fun st runs => exec_agreeDone_complete s id j named runs.1 runs.2 st,
      fun st runs unsent sent sums => ?_, fun st runs => exec_flush_ready s id j named runs.1 runs.2 st, fun st fresh before ended => ?_,
      fun st runs => exec_flushed_complete s id j named runs.1 runs.2 st, fun st runs => exec_agreeFlushed_complete s id j named runs.1 runs.2 st,
      fun st runs sent => ⟨exec_boundary_root s id j named runs.1 runs.2 st sent, exec_boundary_child s id j named runs.1 runs.2 st sent x⟩⟩
    · have flush := exec_agreeFlush_summed s id j named runs.1 runs.2 l st unsent sent sums
      exact ⟨fun whole => flush.trans (if_pos whole), fun missing => flush.trans (if_neg (Bool.eq_false_iff.mp missing))⟩
    · have turn := exec_writeApply_turn s id j named src e st fresh before ended
      have counted := fun same => turn.trans (if_neg (not_not_intro same))
      refine ⟨fun same => ⟨fun v fault => (counted same).trans ?_, fun clear => (counted same).trans ?_⟩,
        fun differs => turn.trans (if_pos differs)⟩
      · rw [fault]
      · rw [clear]
  · intro m
    refine ⟨fun rev fresh rolled sound => exec_passEntry_starts s id j named n rev sound fresh rolled,
      fun rev entered sound => exec_passBoundary_entered s id j named n rev sound entered, exec_passDeadline_running s id j named r,
      fun failed fresh thawed => ?_, exec_fail_verdict s id j named x, exec_fail_report s id j named,
      fun st free root failed once noted => exec_rerun_root s id j named st free k root failed once noted,
      fun st free => exec_rerun_child s id j named st free x, exec_agreementSilence_lost s id j named rank m c p rfl,
      fun a => exec_neighbourUnroutable_lost s id j named rank m a r rfl, exec_heldTimeout_armed s id j named r⟩
    have rolls := exec_rollback_failed s id j named failed fresh thawed
    exact ⟨fun begun => rolls.trans (if_neg (by simp [begun])), fun early => rolls.trans (if_pos (by simp [early]))⟩

end Sys2Proof.Machine
